-- ==== Sys2Proof/Word.lean ====
section
/-! DEFINITION. The word types of the package: the widths that the manual's fields and registers have
(R10: every multi-byte field of the manual is little-endian). -/

namespace Sys2Proof

/-- A byte of a descriptor, of operand memory or of host memory. -/
abbrev Byte := BitVec 8
/-- A 16-bit field. -/
abbrev W16 := BitVec 16
/-- A 32-bit register or field. -/
abbrev W32 := BitVec 32
/-- A 64-bit scalar, address or field. -/
abbrev W64 := BitVec 64
/-- A vector register of the LVE (R184). -/
abbrev VReg := BitVec 2048
/-- A mask register of the LVE (R184). -/
abbrev MReg := BitVec 256
/-- The state of the Keccak-f[1600] permutation, byte k in bits [8k+7:8k] (R186). -/
abbrev KState := BitVec 1600

/-- Bit `i` of a word as a Boolean. -/
def bit {w : Nat} (x : BitVec w) (i : Nat) : Bool := x.getLsbD i

/-- A one-bit number. -/
def b2n (b : Bool) : Nat := if b then 1 else 0

/-- Bits [lo + w - 1 : lo] of a word, as a number. -/
def bits {n : Nat} (x : BitVec n) (lo w : Nat) : Nat := (x.toNat >>> lo) % 2 ^ w

/-- Saturating increment of a counter field of `w` bits (R518). -/
def satInc {w : Nat} (x : BitVec w) : BitVec w := if x = BitVec.allOnes w then x else x + 1

/-- Saturating addition to a counter field of `w` bits (R518). -/
def satAdd {w : Nat} (x : BitVec w) (n : Nat) : BitVec w :=
  if x.toNat + n < 2 ^ w then BitVec.ofNat w (x.toNat + n) else BitVec.allOnes w

end Sys2Proof
end

