-- ==== Sys2Proof/Syntax.lean ====
section
/-! DEFINITION. Syntax: the commands of the block, one constructor per row of the operation table, and their operands. The fields of
an LVE instruction are those of its 64-bit word (R197). -/
namespace Sys2Proof

/-- What the store, the register file or the fabric does to an LVE while an instruction runs: nothing, a microword
parity mismatch (R245; `inPatch` when the microaddress lies in patch RAM), a parity error of a register (R221), an uncorrectable ECC error of operand
memory or register file (R196), an integrity-code mismatch (R210), a correctable ECC error (R196, R221), or an induced fault that changes a value without being
detected (R254): `second` says whether it strikes what the second of a program's fault checks guards. -/
inductive LveUpset where
  | none
  | mcParity (inPatch : Bool)
  | regParity
  | eccUncorrectable
  | integrity
  | eccCorrected
  | glitch (second : Bool)
  deriving DecidableEq, Repr

/-- The LVE a microcode instruction runs on, and the upset of that execution, if any. -/
structure LveRef where
  die : Nat
  engine : Nat
  upset : LveUpset
  deriving DecidableEq, Repr

/-- The fields of a 64-bit LVE instruction word (R197) beside its major opcode; bits [36:32] are reserved. -/
structure LveFields where
  d : BitVec 5
  a : BitVec 5
  b : BitVec 5
  km : BitVec 3
  men : Bool
  sub : BitVec 8
  imm : BitVec 24
  deriving DecidableEq, Repr

/-- The instructions of the LVE (R199 to R209), one name per row of the operation table. -/
inductive LveOp where
  | nop | lend | loop | loopi | setvl | vsettype | vsetmod | setout | vaccept | sli | salu | salui | sjr
  | vldu | vstu | vldp | vstp | vldf | vstf | vgather | vscatter | vkld
  | valu | vcmp | malu | vmerge
  | madd | msub | mneg | mred | mmont | mbar | tomont | cmpr | dcmpr | p2r | decomp
  | vbfly | vbmul
  | zip | unzip | brev | slideup | slidedn | bmt | vcompress | vpack | vunpack
  | vcbd | vrej
  | split | splita | vjoin | joina | bxor | band | bnot | aadd | asub | amont | a2b | b2a | refresh
  | kinit | kabs | kabsm | kfin | vxof | ksave | kload | hinit | hblk | hblkm | hout | hload
  deriving DecidableEq, Repr

/-! ### Operands of the commands -/

/-- The ECRC digest of a received TLP (R40): none, correct, wrong. -/
inductive Digest where
  | absent | good | bad
  deriving DecidableEq, Repr

/-- The size of a host request to a BAR (R59). -/
inductive ReqSize where
  | dword | qword | partialBytes | other
  deriving DecidableEq, Repr

/-- A host request to a BAR: the BAR (0, 2 or 4), the offset in it, its size, its digest, the IDE stream it arrived on with the
result of the integrity check (R49), and the Requester ID (R450). -/
structure HostReq where
  bar : Nat
  off : Nat
  size : ReqSize
  digest : Digest
  ide : Option (Nat × Bool)
  rid : W16
  deriving DecidableEq, Repr

/-- A host write to a register that has a row of its own: the value and the Requester ID. -/
structure RegW where
  value : W32
  rid : W16
  deriving DecidableEq, Repr

/-- A page: die, block code, instance index (R53). -/
structure PageRef where
  die : Nat
  blk : Nat
  inst : Nat
  deriving DecidableEq, Repr

/-- A queue named by its doorbell registers: queue pair `q` of an instance through its portal, or a manager queue of a die (R61, R146). -/
inductive QueueRef where
  | tenant (inst q : Nat)
  | manager (die queue : Nat)
  deriving DecidableEq, Repr

/-- A job of a die. -/
structure JobRef where
  die : Nat
  job : Nat
  deriving DecidableEq, Repr

/-- An engine, or the unit that runs the classes without one. -/
inductive EngineId where
  | lve (i : Nat) | bne (i : Nat) | sye (i : Nat) | rng | kvd | none
  deriving DecidableEq, Repr

/-- What a device read was for (R41): the submission entry at an index of a queue, one of the reads of a job (`part` 0 blob table entry,
1 blob, 2 public key, 3 KPC fill, 4 IN, 5 AUX, 6 streamed IN), the mailbox buffer of an instance. -/
inductive ReadOf where
  | entry (queue index : Nat)
  | job (job part : Nat)
  | mailbox (inst : Nat)
  deriving DecidableEq, Repr

/-- How a device read ends (R40, R41, R49): good data with a correct digest, or the cause of DMA_HOST_FAULT (2 Unsupported Request, 3 Completer Abort,
4 poisoned data, 5 a wrong digest); good data in a completion that carries no digest; good data on an IDE stream, with the result of the integrity
check. -/
inductive ReadResult where
  | good (data : List Byte)
  | failed (cause : Nat)
  | noDigest (data : List Byte)
  | onStream (stream : Nat) (intact : Bool) (data : List Byte)
  deriving DecidableEq, Repr

/-- How a DMX descriptor ends (R331, R333): complete, SHORT with the bytes that arrived, OVERRUN, a fabric integrity mismatch. -/
inductive DescEnd where
  | ok | short (n : Nat) | overrun | integrity
  deriving DecidableEq, Repr

/-- What a die meets in a boot (R491, R492): PUF reconstruction, its RNG, KVD, MHA and SCU tests, the engines whose known-answer tests
fail (0-15 LVE, 16-19 BNE, 20-21 SYE), the boot probe's margins per engine and class (R465, R472), and the temperature measured. -/
structure DieBoot where
  puf : Bool
  tests : Bool
  engineFail : List Nat
  margins : List (List Int)
  temp : BitVec 11
  deriving DecidableEq, Repr

/-- What the boot flash returns in a boot: the two directory copies (R494), the boot firmware image behind each directory entry, the patch
packages per die (R241), and what each die meets. -/
structure BootIn where
  dir0 : List Byte
  dir1 : List Byte
  firmware : List (Nat × List Byte)
  patches : List (Nat × List Byte)
  dies : List DieBoot
  deriving DecidableEq, Repr

/-- The address association of a selective IDE stream (R48): a BAR, or a contiguous range of host memory. -/
inductive IdeArea where
  | bar (n : Nat)
  | host (base : W64) (len : Nat)
  deriving DecidableEq, Repr

/-- What an IDE_KM message asks (R48): keys for a stream, with the association that a selective stream is bound to; the stream made Secure; its keys taken
away. -/
inductive IdeKm where
  | keyProg (area : IdeArea) | setGo | setStop
  deriving DecidableEq, Repr

/-- The payload of a HEARTBEAT (R379). -/
structure Beat where
  src : Nat
  holder : Nat
  lc : Nat
  electId : W32
  joining : Bool
  deriving DecidableEq, Repr

/-- The payload of an ACCEPT (R381). -/
structure AcceptMsg where
  holder : Option Nat
  code : Nat
  voters : List Nat
  nonce : List Byte
  deriving DecidableEq, Repr

/-- Whose heartbeats have been silent for 8 µs (R380): the neighbour on a port of a die, a die at the holder, the holder at a die. -/
inductive Silence where
  | port (die port : Nat)
  | die (die : Nat)
  | holder (die : Nat)
  deriving DecidableEq, Repr

/-- What a Relay JOIN carries (R387): the die, its self-test result, its life-cycle code and its 16-byte share. -/
structure JoinMsg where
  die : Nat
  pass : Bool
  code : Nat
  share : List Byte
  deriving DecidableEq, Repr

/-- The row JOIN of the operation table: the LVE instruction VMSK JOIN (R207), or the JOIN frame of a rejoining die that reaches the holder
(R383, R387). -/
inductive JoinForm where
  | vmsk (r : LveRef) (f : LveFields)
  | frame (m : JoinMsg)
  deriving DecidableEq, Repr

/-- A response of a card (R400): its status word and data. -/
structure CardResp where
  sw : W16
  data : List Byte
  deriving DecidableEq, Repr

/-- What the identification of a backup card finds (R405, R406): whether the card is one the port accepts, its capacity class and blocks, whether
it answers S18A, whether its SCR admits the 4-bit bus, the mode reached after the checked switches of R406, its block 0. -/
structure BkIdent where
  accepted : Bool
  capacity : Nat
  blocks : Nat
  s18a : Bool
  wide : Bool
  modes : List Nat
  header : List Byte
  deriving DecidableEq, Repr

/-- What a data transfer of the backup card ends in (R407). -/
inductive BlockResult where
  | good (data : List Byte) | crcError
  deriving DecidableEq, Repr

/-- Which limit of R407 passed, or which error came back: a command CRC error, a response beyond 64 clocks, read data beyond 100 ms,
busy beyond 500 ms. -/
inductive SdLimit where
  | cmdCrc | response | data | busy
  deriving DecidableEq, Repr

/-- The fuse fields that Sirvamos production test burns in the step from BLANK to TESTED (R478, R479). -/
structure FuseImage where
  uid : W64
  seed : List Byte
  helper : List Byte
  kpatch : List Byte
  kpair : List Byte
  cycLve : W32
  cycBne : W32
  vcoreBase : Nat
  deriving DecidableEq, Repr

/-- How a boot flash command ends (R500), or the read of a candidate (R152): done, the flash reports an error, or the candidate's directory and its BOOT_FW
image with the patch packages in it. -/
inductive FlashEnd where
  | done
  | flashError
  | candidate (dir : List Byte) (bootFw : List Byte) (patches : List (Nat × List Byte))
  deriving DecidableEq, Repr

/-- The commands: one constructor per row of the operation table, in its order. -/
inductive Instr where
  | pwrgoodRise (b : BootIn)
  | pwrgoodFall
  | perstNAssert
  | perstNRelease (b : BootIn)
  | railReset (die : Nat)
  | supplyDip (die : Nat)
  | dipRecovered (die : Nat)
  | pcieLinkUp (speed width : Nat) (flit : Bool)
  | functionLevelReset
  | hotReset
  | dlDown
  | d3hotEntry
  | d3hotToD0
  | busMasterEnable (on : Bool)
  | msixControl (enable functionMask : Bool)
  | msixTableWrite (off : Nat) (value : W32)
  | configRequest (reg : Nat)
  | ioRequest
  | l1Entry
  | l0pRequest (width : Nat)
  | ideKm (session : Bool) (stream : Nat) (m : IdeKm)
  | registerWrite (r : HostReq) (value : W64)
  | lock (p : PageRef) (w : RegW)
  | evtForce (p : PageRef) (w : RegW)
  | devReset (w : RegW)
  | rtcLoRead
  | monoLoRead
  | recClear (value : W32)
  | aliveCtrl (value : W32)
  | aliveTimeout
  | sqTailDoorbell (q : QueueRef) (index : Nat) (rid : W16)
  | cqHeadDoorbell (q : QueueRef) (index : Nat)
  | sqInval (q : QueueRef) (value : W32)
  | resume (q : QueueRef)
  | skip (q : QueueRef)
  | enable (die queue : Nat)
  | disable (die queue : Nat)
  | disableEffective (die queue : Nat)
  | entryFetched (die queue index : Nat) (bytes : List Byte)
  | jobDispatch (die : Nat) (e : EngineId)
  | dwrrRoundStart (die cls : Nat)
  | blobTableEntryFetched (j : JobRef) (bytes : List Byte)
  | blobFetched (j : JobRef) (bytes : List Byte)
  | kpcFillComplete (j : JobRef) (bytes : List Byte)
  | hostReadCompletion (die : Nat) (what : ReadOf) (r : ReadResult)
  | completionTimeout (die : Nat) (what : ReadOf)
  | descriptorComplete (die ch : Nat) (e : DescEnd)
  | irqDelayExpiry (die queue : Nat)
  | irqCountReached (die queue : Nat)
  | paceResume (die ch : Nat)
  | chOffline (die : Nat) (w : RegW)
  | pReset (inst : Nat) (value : W32)
  | instCmdReset (w : RegW)
  | instResetAccept (inst : Nat)
  | instResetComplete (inst : Nat)
  | mbSend (inst : Nat) (value : W32)
  | mbAck (inst : Nat)
  | mbBufferCopied (inst : Nat) (r : ReadResult)
  | mgrMbSend
  | mgrMbAck
  | kstageLoad (inst : Nat) (word : W32)
  | kstageClear (inst : Nat) (word : W32)
  | kstageClearAll (inst : Nat) (word : W32)
  | kstageOpRefused (inst : Nat) (word : W32)
  | kstageDone (inst : Nat)
  | attCmd (inst : Nat) (value : W32)
  | attDone (inst : Nat)
  | kemKeygen (j : JobRef)
  | kemEncaps (j : JobRef)
  | kemEncapsExt (j : JobRef)
  | kemDecaps (j : JobRef)
  | sigKeygen (j : JobRef)
  | sigSign (j : JobRef)
  | sigVerify (j : JobRef)
  | sigVerifyExt (j : JobRef)
  | statefulKeygen (j : JobRef)
  | statefulSign (j : JobRef)
  | statefulVerify (j : JobRef)
  | statefulVerifyExt (j : JobRef)
  | remaining (j : JobRef)
  | ecKeygen (j : JobRef)
  | ecdsaSign (j : JobRef)
  | ecdsaVerify (j : JobRef)
  | ecdsaVerifyExt (j : JobRef)
  | keyAgree (j : JobRef)
  | eddsaSign (j : JobRef)
  | eddsaVerify (j : JobRef)
  | eddsaVerifyExt (j : JobRef)
  | curveLoad (j : JobRef)
  | curveUnload (j : JobRef)
  | rsaKeygen (j : JobRef)
  | rsaSign (j : JobRef)
  | rsaVerify (j : JobRef)
  | rsaVerifyExt (j : JobRef)
  | rsaEncrypt (j : JobRef)
  | rsaEncryptExt (j : JobRef)
  | rsaDecrypt (j : JobRef)
  | encrypt (j : JobRef)
  | decrypt (j : JobRef)
  | macGenerate (j : JobRef)
  | macVerify (j : JobRef)
  | hash (j : JobRef)
  | generate (j : JobRef)
  | import (j : JobRef)
  | exportPublic (j : JobRef)
  | exportWrapped (j : JobRef)
  | derive (j : JobRef)
  | invalidate (j : JobRef)
  | evict (j : JobRef)
  | rewrap (j : JobRef)
  | statefulSplit (j : JobRef)
  | backupExport (j : JobRef)
  | backupImport (j : JobRef)
  | programActivate (j : JobRef)
  | attestProvision (j : JobRef)
  | stageCommit (j : JobRef)
  | random (j : JobRef)
  | reseed (j : JobRef)
  | runProgram (j : JobRef)
  | hybridKeygen (j : JobRef)
  | hybridEncaps (j : JobRef)
  | hybridEncapsExt (j : JobRef)
  | hybridDecaps (j : JobRef)
  | hybridSign (j : JobRef)
  | hybridVerify (j : JobRef)
  | hybridVerifyExt (j : JobRef)
  | attestShared (j : JobRef)
  | attestSigned (j : JobRef)
  | getIdentity (j : JobRef)
  | instCreate (j : JobRef)
  | instDestroy (j : JobRef)
  | instFreeze (j : JobRef)
  | freezeDrained (inst : Nat)
  | instThaw (j : JobRef)
  | instSave (j : JobRef)
  | instRestorePrepare (j : JobRef)
  | instRestore (j : JobRef)
  | queueRehome (j : JobRef)
  | rehomeDrainComplete (die queue : Nat)
  | setShare (j : JobRef)
  | balanceInterval
  | sealCandidate (j : JobRef) (e : FlashEnd)
  | lcTransition (j : JobRef)
  | completeTransition (j : JobRef)
  | lcBitBurned (retries : Nat)
  | burnFail (die : Nat)
  | lcResetTimer
  | zeroise (j : JobRef)
  | unlock (j : JobRef)
  | logDrain (j : JobRef)
  | passDispatch (die engine : Nat)
  | feedGrant (die : Nat)
  | feedReseed (die : Nat)
  | drbgRequest (die bytes : Nat)
  | drbgReseedDue (die : Nat)
  | conditioningDone (die : Nat)
  | healthTestFail (die stream : Nat) (rct : Bool)
  | startupTestsPass (die : Nat)
  | nop (r : LveRef) (f : LveFields)
  | lend (r : LveRef) (f : LveFields)
  | repeatLimit (die engine : Nat)
  | loop (r : LveRef) (f : LveFields)
  | loopi (r : LveRef) (f : LveFields)
  | setvl (r : LveRef) (f : LveFields)
  | vsettype (r : LveRef) (f : LveFields)
  | vsetmod (r : LveRef) (f : LveFields)
  | setout (r : LveRef) (f : LveFields)
  | vaccept (r : LveRef) (f : LveFields)
  | sli (r : LveRef) (f : LveFields)
  | salu (r : LveRef) (f : LveFields)
  | salui (r : LveRef) (f : LveFields)
  | sjr (r : LveRef) (f : LveFields)
  | vldu (r : LveRef) (f : LveFields)
  | vstu (r : LveRef) (f : LveFields)
  | vldp (r : LveRef) (f : LveFields)
  | vstp (r : LveRef) (f : LveFields)
  | vldf (r : LveRef) (f : LveFields)
  | vstf (r : LveRef) (f : LveFields)
  | vgather (r : LveRef) (f : LveFields)
  | vscatter (r : LveRef) (f : LveFields)
  | vkld (r : LveRef) (f : LveFields)
  | valu (r : LveRef) (f : LveFields)
  | vcmp (r : LveRef) (f : LveFields)
  | malu (r : LveRef) (f : LveFields)
  | vmerge (r : LveRef) (f : LveFields)
  | madd (r : LveRef) (f : LveFields)
  | msub (r : LveRef) (f : LveFields)
  | mneg (r : LveRef) (f : LveFields)
  | mred (r : LveRef) (f : LveFields)
  | mmont (r : LveRef) (f : LveFields)
  | mbar (r : LveRef) (f : LveFields)
  | tomont (r : LveRef) (f : LveFields)
  | cmpr (r : LveRef) (f : LveFields)
  | dcmpr (r : LveRef) (f : LveFields)
  | p2r (r : LveRef) (f : LveFields)
  | decomp (r : LveRef) (f : LveFields)
  | vbfly (r : LveRef) (f : LveFields)
  | vbmul (r : LveRef) (f : LveFields)
  | zip (r : LveRef) (f : LveFields)
  | unzip (r : LveRef) (f : LveFields)
  | brev (r : LveRef) (f : LveFields)
  | slideup (r : LveRef) (f : LveFields)
  | slidedn (r : LveRef) (f : LveFields)
  | bmt (r : LveRef) (f : LveFields)
  | vcompress (r : LveRef) (f : LveFields)
  | vpack (r : LveRef) (f : LveFields)
  | vunpack (r : LveRef) (f : LveFields)
  | vcbd (r : LveRef) (f : LveFields)
  | vrej (r : LveRef) (f : LveFields)
  | split (r : LveRef) (f : LveFields)
  | splita (r : LveRef) (f : LveFields)
  | vjoin (x : JoinForm)
  | joina (r : LveRef) (f : LveFields)
  | bxor (r : LveRef) (f : LveFields)
  | band (r : LveRef) (f : LveFields)
  | bnot (r : LveRef) (f : LveFields)
  | aadd (r : LveRef) (f : LveFields)
  | asub (r : LveRef) (f : LveFields)
  | amont (r : LveRef) (f : LveFields)
  | a2b (r : LveRef) (f : LveFields)
  | b2a (r : LveRef) (f : LveFields)
  | refresh (r : LveRef) (f : LveFields)
  | kinit (r : LveRef) (f : LveFields)
  | kabs (r : LveRef) (f : LveFields)
  | kabsm (r : LveRef) (f : LveFields)
  | kfin (r : LveRef) (f : LveFields)
  | vxof (r : LveRef) (f : LveFields)
  | ksave (r : LveRef) (f : LveFields)
  | kload (r : LveRef) (f : LveFields)
  | hinit (r : LveRef) (f : LveFields)
  | hblk (r : LveRef) (f : LveFields)
  | hblkm (r : LveRef) (f : LveFields)
  | hout (r : LveRef) (f : LveFields)
  | hload (r : LveRef) (f : LveFields)
  | ckptGap (die engine : Nat)
  | lveAbort (die engine : Nat)
  | patchRefresh (die : Nat) (ok : Bool)
  | lveOffline (die engine : Nat) (w : RegW)
  | lveUnfence (die engine : Nat) (w : RegW)
  | bneOffline (die engine : Nat) (w : RegW)
  | bneUnfence (die engine : Nat) (w : RegW)
  | syeOffline (die engine : Nat) (w : RegW)
  | syeUnfence (die engine : Nat) (w : RegW)
  | selftestDone (die : Nat) (e : EngineId) (pass : Bool)
  | bneLegEnd (die engine : Nat) (flagsAgree : Bool)
  | keygenLimit (j : JobRef)
  | laneWipeDone (die engine : Nat) (lane : Bool)
  | syeSegmentEnd (die engine : Nat)
  | mhaOpen (die : Nat)
  | mhaRange (die base len : Nat) (stream : List (Nat × Byte))
  | mhaClose (die : Nat)
  | mhaAbort (die : Nat)
  | heartbeatPeriod
  | heartbeat (die : Nat) (b : Beat)
  | heartbeatSilence (x : Silence)
  | vote (die src : Nat) (pass : Bool) (code : Nat) (share : List Byte)
  | voteTimeout (die : Nat)
  | accept (die src : Nat) (m : AcceptMsg)
  | commit (die src : Nat)
  | splitFrame (die : Nat)
  | tamperOrder (die src resp cls : Nat)
  | joinAck (die src : Nat) (share : List Byte)
  | statePush (die src : Nat) (tagOk : Bool)
  | logFrame (die : Nat)
  | eventFrame (p : PageRef)
  | replayExhausted (die port : Nat)
  | linkTrained (die port : Nat)
  | linkRetrainTimeout (die port : Nat)
  | dieResetRequest (w : RegW)
  | dieResetEntry (die : Nat)
  | rejoinTimeout (die : Nat)
  | cardInserted (port : Nat)
  | cardRemoved (port : Nat)
  | atr (port : Nat) (bytes : List Byte) (inTime : Bool)
  | atrTimeout (port : Nat)
  | ppsResponse (port : Nat) (bytes : List Byte)
  | sWtx (port mult : Nat)
  | cardWaitTimeout (port : Nat)
  | clockStop (port : Nat)
  | cardSelect (port : Nat) (r : CardResp)
  | getInfo (port : Nat) (r : CardResp)
  | authenticate (port : Nat) (r : CardResp)
  | getShare (port : Nat) (r : CardResp)
  | endSession (port : Nat) (r : CardResp)
  | reauth (w : RegW)
  | dissolve (w : RegW)
  | quorumIdleExpiry
  | backupCardInserted (c : BkIdent)
  | backupCardRemoved
  | blockRead (r : BlockResult)
  | busyEnd (statusOk : Bool)
  | sdTimeout (l : SdLimit)
  | bkClockIdle
  | reinsertTimeout
  | clkHigh (die : Nat)
  | clkLow (die : Nat)
  | clkShort (die : Nat)
  | refFreq (die : Nat)
  | clkSkip (die : Nat)
  | supplyGlitch (die : Nat)
  | supplyHigh (die : Nat)
  | tempHigh (die : Nat) (tj : BitVec 11)
  | tempCrit (die : Nat) (tj : BitVec 11)
  | tempLow (die : Nat) (tj : BitVec 11)
  | shield (die : Nat)
  | light (die : Nat)
  | tmpIn (input : Nat)
  | batLow
  | batCrit
  | xtalStop
  | tamperConditionClear (die cls : Nat)
  | throttleRelease (die : Nat)
  | severe (die src : Nat)
  | heatSliceBoundary (die code : Nat)
  | grpCtrlAck (die : Nat) (w : RegW)
  | srcClear (die : Nat) (w : RegW)
  | faultPin (w : RegW)
  | faultPulseEnd
  | route (value : W32)
  | mqRoute (value : W32)
  | iitData (word : Nat) (value : W32)
  | auditEntryAccept
  | checkpoint
  | checkpointSigned
  | probeInterval (die : Nat)
  | probeStart (die : Nat)
  | probeWaitTimeout (die : Nat)
  | avsComplete (die : Nat)
  | avsTimeout (die : Nat)
  | vstepRetry (die : Nat)
  | avsExhausted (die : Nat)
  | roMeasure (die ppm : Nat)
  | slackWindow (die : Nat) (slack : List Nat)
  | stressMinute (die : Nat) (tj : BitVec 11)
  | skipEvaluate (die : Nat) (tj : BitVec 11)
  | marginProject (die : Nat)
  | ageingRecordCommit (die : Nat)
  | tapBypass (die : Nat)
  | tapIdcode (die : Nat)
  | tapSamplePreload (die : Nat)
  | tapExtest (die : Nat)
  | tapClamp (die : Nat)
  | tapHighz (die : Nat)
  | tapInternal (die : Nat) (opc : Byte) (burn : Option FuseImage)
  | testLogicReset
  | flashErase (w : RegW)
  | flashProgram (w : RegW)
  | flashActivate (w : RegW)
  | flashOpDone (e : FlashEnd)
  | smbVersion
  | smbState
  | smbMaxTemp
  | smbDieTemps
  | smbFaults
  | smbDieUid
  | smbBoot
  | smbAlertResponse
  | smbusWrite (pecBad : Bool)
  | registerRead (r : HostReq)
  | functionReady
  | railRestored (die : Nat) (b : BootIn)
  | vbatApplied (mv : Nat)
  | vbatLost
  | probeComplete (die : Nat) (margins : List Int)
  | provisionQuorumTimeout
  | vccOffHoldEnd (port : Nat)
  | smbusTimeout
  | lcDecodeChange (die : Nat) (word : W64)
  deriving DecidableEq, Repr

end Sys2Proof
end

