-- ==== Sys2Proof/Decode.lean ====
section
/-! DEFINITION. The encodings the manual gives: the 64-bit LVE instruction word (R197 to R209), checked as the
activation of an owner program checks it (R218, check 4), with its encoder; and the 64-byte submission entry (R122). -/

namespace Sys2Proof

/-- The register file a register field names (R197). -/
inductive RegKind where
  | none | v | s | m
  deriving DecidableEq, Repr

/-- How an instruction uses MEN and MK: not at all, optionally as its mask, always as its mask (MEN = 1), or MK alone as a
destination mask (the non-PUBLIC VREJ, R206). -/
inductive MaskUse where
  | none | opt | req | dest
  deriving DecidableEq, Repr

/-- One row of the encoding tables: major opcode, the register fields, the use of the mask, whether SUB[7:6] is the form
field of operand b, whether SUB is part of a 32-bit immediate, the SUB bits that are fixed with their values, and the IMM
bits the instruction uses. -/
structure LveEnc where
  op : Nat
  d : RegKind
  a : RegKind
  b : RegKind
  mask : MaskUse
  form : Bool
  imm32 : Bool
  subMask : BitVec 8
  subVal : BitVec 8
  immMask : BitVec 24
  deriving DecidableEq, Repr

/-- The encoding tables of R199 to R209. -/
def LveOp.enc : LveOp → LveEnc
  | .nop => ⟨0x00, .none, .none, .none, .none, false, false, 0xFF, 0, 0⟩
  | .lend => ⟨0x01, .none, .none, .none, .none, false, false, 0xFE, 0, 0xFFFF⟩
  | .loop => ⟨0x02, .none, .s, .none, .none, false, false, 0xFF, 0, 0xFFF⟩
  | .loopi => ⟨0x03, .none, .none, .none, .none, false, true, 0, 0, 0xFFFFFF⟩
  | .setvl => ⟨0x04, .s, .s, .none, .none, false, false, 0xFF, 0, 0⟩
  | .vsettype => ⟨0x05, .none, .none, .none, .none, false, false, 0xFF, 0, 0xF⟩
  | .vsetmod => ⟨0x06, .none, .none, .none, .none, false, true, 0, 0, 0xFFFFFF⟩
  | .setout => ⟨0x07, .none, .s, .none, .none, false, false, 0xFF, 0, 0⟩
  | .vaccept => ⟨0x08, .none, .m, .none, .none, false, false, 0xFF, 0, 0⟩
  | .sli => ⟨0x10, .s, .none, .none, .none, false, true, 0, 0, 0xFFFFFF⟩
  | .salu => ⟨0x11, .s, .s, .s, .none, false, false, 0xF0, 0, 0⟩
  | .salui => ⟨0x12, .s, .s, .none, .none, false, false, 0xF0, 0, 0xFFFFFF⟩
  | .sjr => ⟨0x13, .s, .none, .none, .none, false, false, 0xF0, 0, 0⟩
  | .vldu => ⟨0x20, .v, .s, .none, .opt, false, false, 0xFF, 0, 0xFFFFFF⟩
  | .vstu => ⟨0x21, .v, .s, .none, .opt, false, false, 0xFF, 0, 0xFFFFFF⟩
  | .vldp => ⟨0x22, .v, .s, .s, .opt, false, false, 0xFF, 0, 0xFFFFFF⟩
  | .vstp => ⟨0x23, .v, .s, .s, .opt, false, false, 0xFF, 0, 0xFFFFFF⟩
  | .vldf => ⟨0x24, .v, .s, .none, .opt, false, false, 0xF8, 0, 0xFFFFFF⟩
  | .vstf => ⟨0x25, .v, .s, .none, .opt, false, false, 0xF8, 0, 0xFFFFFF⟩
  | .vgather => ⟨0x26, .v, .s, .v, .opt, false, false, 0xFF, 0, 0xFFFFFF⟩
  | .vscatter => ⟨0x27, .v, .s, .v, .opt, false, false, 0xFF, 0, 0xFFFFFF⟩
  | .vkld => ⟨0x28, .v, .none, .none, .none, false, false, 0xFF, 0, 0xFFFFFF⟩
  | .valu => ⟨0x30, .v, .v, .none, .opt, true, false, 0x30, 0, 0⟩
  | .vcmp => ⟨0x33, .m, .v, .none, .opt, true, false, 0x38, 0, 0⟩
  | .malu => ⟨0x34, .m, .m, .m, .none, false, false, 0xF8, 0, 0⟩
  | .vmerge => ⟨0x35, .v, .v, .v, .req, false, false, 0xFF, 0, 0⟩
  | .madd => ⟨0x38, .v, .v, .none, .opt, true, false, 0x3F, 0x00, 0⟩
  | .msub => ⟨0x38, .v, .v, .none, .opt, true, false, 0x3F, 0x01, 0⟩
  | .mneg => ⟨0x38, .v, .v, .none, .opt, false, false, 0xFF, 0x02, 0⟩
  | .mred => ⟨0x38, .v, .v, .none, .opt, false, false, 0xFF, 0x03, 0⟩
  | .mmont => ⟨0x38, .v, .v, .none, .opt, true, false, 0x3F, 0x04, 0⟩
  | .mbar => ⟨0x38, .v, .v, .none, .opt, true, false, 0x3F, 0x05, 0⟩
  | .tomont => ⟨0x38, .v, .v, .none, .opt, false, false, 0xFF, 0x06, 0⟩
  | .cmpr => ⟨0x38, .v, .v, .none, .opt, false, false, 0xFF, 0x07, 0xF⟩
  | .dcmpr => ⟨0x38, .v, .v, .none, .opt, false, false, 0xFF, 0x08, 0xF⟩
  | .p2r => ⟨0x38, .v, .v, .none, .opt, false, false, 0xFF, 0x09, 0⟩
  | .decomp => ⟨0x38, .v, .v, .none, .opt, false, false, 0xFF, 0x0A, 0x1⟩
  | .vbfly => ⟨0x39, .v, .v, .v, .opt, false, false, 0xFE, 0, 0x7FFF⟩
  | .vbmul => ⟨0x3A, .v, .v, .v, .opt, false, false, 0xFF, 0, 0x7FF8⟩
  | .zip => ⟨0x3C, .v, .v, .v, .none, false, false, 0xFF, 0x00, 0xF⟩
  | .unzip => ⟨0x3C, .v, .v, .none, .none, false, false, 0xFF, 0x01, 0xF⟩
  | .brev => ⟨0x3C, .v, .v, .none, .none, false, false, 0xFF, 0x02, 0xF⟩
  | .slideup => ⟨0x3C, .v, .v, .none, .none, false, false, 0xFF, 0x03, 0xFFFFFF⟩
  | .slidedn => ⟨0x3C, .v, .v, .none, .none, false, false, 0xFF, 0x04, 0xFFFFFF⟩
  | .bmt => ⟨0x3C, .v, .v, .none, .none, false, false, 0xFF, 0x05, 0⟩
  | .vcompress => ⟨0x3D, .v, .v, .none, .req, false, false, 0xFF, 0, 0⟩
  | .vpack => ⟨0x3E, .v, .v, .none, .none, false, false, 0xFF, 0x00, 0x1F⟩
  | .vunpack => ⟨0x3E, .v, .v, .none, .none, false, false, 0xFF, 0x01, 0x1F⟩
  | .vcbd => ⟨0x40, .v, .v, .none, .opt, false, false, 0xFC, 0, 0x3⟩
  | .vrej => ⟨0x41, .v, .s, .none, .dest, false, false, 0xFF, 0, 0x3FF⟩
  | .split => ⟨0x44, .v, .v, .none, .opt, false, false, 0x7F, 0x00, 0⟩
  | .splita => ⟨0x44, .v, .v, .none, .opt, false, false, 0x7F, 0x01, 0⟩
  | .vjoin => ⟨0x44, .v, .v, .none, .opt, false, false, 0x7F, 0x02, 0⟩
  | .joina => ⟨0x44, .v, .v, .none, .opt, false, false, 0x7F, 0x03, 0⟩
  | .bxor => ⟨0x44, .v, .v, .v, .opt, false, false, 0x7F, 0x04, 0⟩
  | .band => ⟨0x44, .v, .v, .v, .opt, false, false, 0x7F, 0x05, 0⟩
  | .bnot => ⟨0x44, .v, .v, .none, .opt, false, false, 0x7F, 0x06, 0⟩
  | .aadd => ⟨0x44, .v, .v, .v, .opt, false, false, 0x7F, 0x07, 0⟩
  | .asub => ⟨0x44, .v, .v, .v, .opt, false, false, 0x7F, 0x08, 0⟩
  | .amont => ⟨0x44, .v, .v, .v, .opt, false, false, 0x7F, 0x09, 0⟩
  | .a2b => ⟨0x44, .v, .v, .none, .opt, false, false, 0x7F, 0x0A, 0⟩
  | .b2a => ⟨0x44, .v, .v, .none, .opt, false, false, 0x7F, 0x0B, 0⟩
  | .refresh => ⟨0x44, .v, .v, .none, .opt, false, false, 0x7F, 0x0C, 0⟩
  | .kinit => ⟨0x50, .none, .none, .none, .none, false, false, 0x38, 0, 0⟩
  | .kabs => ⟨0x51, .none, .v, .s, .none, false, false, 0xFF, 0, 0⟩
  | .kabsm => ⟨0x52, .none, .s, .s, .none, false, false, 0xFF, 0, 0xFFFFFF⟩
  | .kfin => ⟨0x53, .none, .none, .none, .none, false, false, 0xFF, 0, 0⟩
  | .vxof => ⟨0x54, .v, .none, .none, .none, false, false, 0xFF, 0, 0x1FF⟩
  | .ksave => ⟨0x55, .v, .none, .none, .none, false, false, 0xFF, 0, 0⟩
  | .kload => ⟨0x56, .none, .v, .none, .none, false, false, 0xFF, 0, 0xFFFFFF⟩
  | .hinit => ⟨0x58, .none, .none, .none, .none, false, false, 0xF8, 0, 0⟩
  | .hblk => ⟨0x59, .none, .v, .none, .none, false, false, 0xFF, 0, 0x3⟩
  | .hblkm => ⟨0x5A, .none, .s, .none, .none, false, false, 0xFF, 0, 0xFF⟩
  | .hout => ⟨0x5B, .v, .none, .none, .none, false, false, 0xFF, 0, 0⟩
  | .hload => ⟨0x5C, .none, .v, .none, .none, false, false, 0xFF, 0, 0⟩

/-- The LVE instructions, part by part, in the order of the tables (R199 to R209). -/
def LveOp.allCtl : List LveOp :=
  [.nop, .lend, .loop, .loopi, .setvl, .vsettype, .vsetmod, .setout, .vaccept, .sli, .salu, .salui, .sjr]

/-- The LVE instructions, part by part, in the order of the tables (R199 to R209). -/
def LveOp.allMem : List LveOp :=
  [.vldu, .vstu, .vldp, .vstp, .vldf, .vstf, .vgather, .vscatter, .vkld, .valu, .vcmp, .malu, .vmerge]

/-- The LVE instructions, part by part, in the order of the tables (R199 to R209). -/
def LveOp.allMod : List LveOp :=
  [.madd, .msub, .mneg, .mred, .mmont, .mbar, .tomont, .cmpr, .dcmpr, .p2r, .decomp, .vbfly, .vbmul]

/-- The LVE instructions, part by part, in the order of the tables (R199 to R209). -/
def LveOp.allLayout : List LveOp :=
  [.zip, .unzip, .brev, .slideup, .slidedn, .bmt, .vcompress, .vpack, .vunpack, .vcbd, .vrej]

/-- The LVE instructions, part by part, in the order of the tables (R199 to R209). -/
def LveOp.allMsk : List LveOp :=
  [.split, .splita, .vjoin, .joina, .bxor, .band, .bnot, .aadd, .asub, .amont, .a2b, .b2a, .refresh]

/-- The LVE instructions, part by part, in the order of the tables (R199 to R209). -/
def LveOp.allHash : List LveOp :=
  [.kinit, .kabs, .kabsm, .kfin, .vxof, .ksave, .kload, .hinit, .hblk, .hblkm, .hout, .hload]

/-- Every LVE instruction, in the order of the tables. -/
def LveOp.all : List LveOp :=
  LveOp.allCtl ++ (LveOp.allMem ++ (LveOp.allMod ++ (LveOp.allLayout ++ (LveOp.allMsk ++ LveOp.allHash))))

/-- A register field names a register of its file: S index 0 to 15, M index 0 to 7, an unused field zero (R197). -/
def RegKind.ok : RegKind → BitVec 5 → Bool
  | .none, r => decide (r = 0)
  | .v, _ => true
  | .s, r => decide (r.toNat < 16)
  | .m, r => decide (r.toNat < 8)

/-- MEN and MK as the instruction may use them; an unused field is zero (R197, R191). -/
def MaskUse.ok : MaskUse → Bool → BitVec 3 → Bool
  | .none, men, mk => !men && decide (mk = 0)
  | .opt, men, mk => men || decide (mk = 0)
  | .req, men, _ => men
  | .dest, men, _ => !men

/-- The 32-bit immediate of SLI, VSETMOD and LOOPI (R197). -/
def LveFields.imm32 (f : LveFields) : W32 := f.sub ++ f.imm

/-- The masking order of a VMSK instruction (R207). -/
def LveFields.order (f : LveFields) : Nat := if f.sub.getLsbD 7 then 2 else 1

/-- The form field of operand b (R197). -/
def LveFields.form (f : LveFields) : Nat := f.sub.toNat / 64

/-- The register groups of an instruction lie within V0 to V31 (R200, R218), and the field values of each table row are
in range, as far as the word alone decides it. -/
def LveOp.rangeOk (o : LveOp) (f : LveFields) : Bool :=
  let d := f.d.toNat
  let a := f.a.toNat
  let b := f.b.toNat
  let im := f.imm.toNat
  match o with
  | .loop => decide (1 ≤ im) && decide (im ≤ 1536)
  | .loopi => decide (1 ≤ im % 4096) && decide (im % 4096 ≤ 1536)
  | .vsettype =>
    let sew := im % 4
    let ms := im / 4
    ms == 0 || (ms == 1 && sew == 1) || (ms == 2 && sew == 2) || (ms == 3 && (sew == 1 || sew == 2))
  | .vsetmod => f.imm32.getLsbD 0 && decide (3 ≤ f.imm32.toNat) && decide (f.imm32.toNat < 2 ^ 30)
  | .salu | .salui => decide (f.sub.toNat ≤ 0xB)
  | .sjr => decide (f.sub.toNat ≤ 0xD)
  | .vldf | .vstf => decide (2 ≤ f.sub.toNat) && decide (f.sub.toNat ≤ 4) && decide (d + f.sub.toNat ≤ 32)
  | .valu => decide (f.sub.toNat % 64 ≤ 0xE)
  | .malu =>
    decide (f.sub.toNat ≤ 6) &&
      (if f.sub.toNat = 4 then b == 0 else if 5 ≤ f.sub.toNat then a == 0 && b == 0 else true)
  | .cmpr | .dcmpr => decide (1 ≤ im % 16) && decide (im % 16 ≤ 12)
  | .p2r | .decomp => decide (d + 1 < 32)
  | .vbfly => d % 2 == 0 && decide (im % 8 ≤ 4)
  | .zip => decide (d + 1 < 32)
  | .unzip => decide (d + 1 < 32) && decide (a + 1 < 32)
  | .vpack | .vunpack => decide (1 ≤ im) && decide (im ≤ 24)
  | .vcbd =>
    let o := if f.sub.getLsbD 0 then (b2n (f.sub.getLsbD 1)) + 1 else 0
    decide (2 ≤ im) && (f.sub.getLsbD 0 || !f.sub.getLsbD 1) && decide (d + o < 32) && decide (a + o < 32)
  | .vrej =>
    let gs := 2 ^ (im / 256)
    decide (im % 16 ≤ 3) && decide (1 ≤ im / 16 % 16) && decide (im / 16 % 16 ≤ 8) && decide (im / 256 ≤ 2)
      && decide (d + gs ≤ 32)
  | .split | .splita => decide (d + f.order < 32)
  | .vjoin | .joina => decide (a + f.order < 32)
  | .bxor | .band | .aadd | .asub => decide (d + f.order < 32) && decide (a + f.order < 32) && decide (b + f.order < 32)
  | .bnot | .amont | .a2b | .b2a | .refresh => decide (d + f.order < 32) && decide (a + f.order < 32)
  | .kinit => decide (f.sub.toNat % 8 ≤ 5) && (f.sub.getLsbD 7 || !f.sub.getLsbD 6)
  | .vxof => decide (1 ≤ im) && decide (im ≤ 256)
  | .ksave => decide (d + 6 < 32)
  | .kload => decide (a + 6 < 32)
  | .hinit => decide (f.sub.toNat ≤ 5)
  | .nop | .lend | .setvl | .setout | .vaccept | .sli | .vldu | .vstu | .vldp | .vstp | .vgather | .vscatter | .vkld
  | .vcmp | .vmerge | .madd | .msub | .mneg | .mred | .mmont | .mbar | .tomont | .vbmul | .brev | .slideup | .slidedn
  | .bmt | .vcompress | .kabs | .kabsm | .kfin | .hblk | .hblkm | .hout | .hload => true

/-- A word's fields are valid for an instruction (R197): every field it does not use is zero, and its fields are in
range. -/
def LveOp.valid (o : LveOp) (f : LveFields) : Bool :=
  let e := o.enc
  e.d.ok f.d && e.a.ok f.a &&
  (if e.form then
    (if f.form = 0 then f.imm == 0
     else if f.form = 1 then RegKind.s.ok f.b && f.imm == 0
     else if f.form = 2 then f.b == 0
     else false)
   else e.b.ok f.b && (f.imm &&& ~~~ e.immMask) == 0) &&
  e.mask.ok f.men f.km &&
  (f.sub &&& e.subMask) == e.subVal &&
  o.rangeOk f

/-- The 64-bit word of an instruction (R197). -/
def lveEncode (o : LveOp) (f : LveFields) : W64 :=
  BitVec.ofNat 8 o.enc.op ++ f.d ++ f.a ++ f.b ++ f.km ++ BitVec.ofBool f.men ++ (0 : BitVec 5) ++ f.sub ++ f.imm

/-- The fields of a word, whatever its opcode. -/
def lveFields (w : W64) : LveFields where
  d := w.extractLsb' 51 5
  a := w.extractLsb' 46 5
  b := w.extractLsb' 41 5
  km := w.extractLsb' 38 3
  men := w.getLsbD 37
  sub := w.extractLsb' 24 8
  imm := w.extractLsb' 0 24

/-- The instruction a word's major opcode and SUB name. -/
def lveOpOf (w : W64) : Option LveOp :=
  LveOp.all.find? (fun o =>
    decide (o.enc.op = w.toNat / 2 ^ 56) && ((w.extractLsb' 24 8 &&& o.enc.subMask) == o.enc.subVal))

/-- Decode a 64-bit word: none when it is not a valid instruction (R197). -/
def lveDecode (w : W64) : Option (LveOp × LveFields) :=
  if w.extractLsb' 32 5 = 0 then
    match lveOpOf w with
    | some o => if o.valid (lveFields w) then some (o, lveFields w) else none
    | none => none
  else none

/-- The command that a word of the operation table spells: the table gives no row any bits, so none. -/
def decodeTableWord (_nbits _w : Nat) : Option Instr := none

end Sys2Proof
end

