-- ==== Sys2Proof/Machine/Mem.lean ====
section
/-! DEFINITION. Sparse byte memory and sparse tables in one canonical form: keys strictly rising, no entry equal
to what an unlisted key reads as. Used for the operand window of an LVE (unlisted bytes are zero, R185) and, as
`Assoc`, for every table of the machine that is indexed by a number. -/

namespace Sys2Proof.Machine

open Host

/-- A byte memory: (address, byte) pairs, addresses strictly rising, no listed byte zero. -/
abbrev Mem := List Cell

/-- The byte at an address; an unlisted address reads zero (R185). -/
def Mem.read : Mem → Nat → Byte
  | [], _ => 0
  | (a, b) :: m, k => if a = k then b else Mem.read m k

/-- Write one byte, keeping the canonical form: a zero removes the entry. -/
def Mem.write : Mem → Nat → Byte → Mem
  | [], k, v => if v = 0 then [] else [(k, v)]
  | (a, b) :: m, k, v =>
    if a = k then (if v = 0 then m else (k, v) :: m)
    else if k < a then (if v = 0 then (a, b) :: m else (k, v) :: (a, b) :: m)
    else (a, b) :: Mem.write m k v

/-- Every listed address is above `lo`, the addresses rise strictly, and no listed byte is zero. -/
def Mem.wfFrom : Option Nat → Mem → Bool
  | _, [] => true
  | lo, (a, b) :: m =>
    (match lo with | none => true | some l => decide (l < a)) && decide (b ≠ 0) && Mem.wfFrom (some a) m

/-- The canonical form of a byte memory. -/
def Mem.wf (m : Mem) : Bool := Mem.wfFrom none m

/-- Write consecutive bytes from an address. -/
def Mem.writes : Mem → Nat → List Byte → Mem
  | m, _, [] => m
  | m, a, b :: bs => Mem.writes (Mem.write m a b) (a + 1) bs

/-- Read `n` consecutive bytes. -/
def Mem.reads (m : Mem) (a n : Nat) : List Byte := (List.range n).map (fun i => Mem.read m (a + i))

/-- A little-endian number of `n` bytes (R10). -/
def leNat : List Byte → Nat
  | [] => 0
  | b :: bs => b.toNat + 256 * leNat bs

/-- A big-endian number. -/
def beNat (bs : List Byte) : Nat := leNat bs.reverse

/-- `n` little-endian bytes of a number. -/
def leBytes : Nat → Nat → List Byte
  | 0, _ => []
  | n + 1, x => BitVec.ofNat 8 (x % 256) :: leBytes n (x / 256)

/-- `n` big-endian bytes of a number. -/
def beBytes (n x : Nat) : List Byte := (leBytes n x).reverse

/-- Bytes lo, lo + 1, … of a byte string, `n` of them; absent bytes read zero. -/
def slice (bs : List Byte) (lo n : Nat) : List Byte := (List.range n).map (fun i => bs.getD (lo + i) 0)

/-- A little-endian field of a byte string. -/
def fieldLe (bs : List Byte) (lo n : Nat) : Nat := leNat (slice bs lo n)

/-- A table indexed by a number: keys strictly rising. -/
abbrev Assoc (α : Type) := List (Nat × α)

/-- The entry of a key. -/
def Assoc.get? {α : Type} : Assoc α → Nat → Option α
  | [], _ => none
  | (a, x) :: m, k => if a = k then some x else Assoc.get? m k

/-- Set the entry of a key, keeping the order. -/
def Assoc.set {α : Type} : Assoc α → Nat → α → Assoc α
  | [], k, v => [(k, v)]
  | (a, x) :: m, k, v =>
    if a = k then (k, v) :: m
    else if k < a then (k, v) :: (a, x) :: m
    else (a, x) :: Assoc.set m k v

/-- Remove the entry of a key. -/
def Assoc.erase {α : Type} : Assoc α → Nat → Assoc α
  | [], _ => []
  | (a, x) :: m, k => if a = k then m else (a, x) :: Assoc.erase m k

/-- The entry of a key, or what an unlisted key holds. -/
def Assoc.getD {α : Type} (m : Assoc α) (k : Nat) (d : α) : α := (Assoc.get? m k).getD d

/-- Apply a function to the entry of a key, if it is listed. -/
def Assoc.update {α : Type} (m : Assoc α) (k : Nat) (f : α → α) : Assoc α :=
  m.map (fun p => if p.1 = k then (p.1, f p.2) else p)

/-- The keys of a table rise strictly above `lo`. -/
def Assoc.wfFrom {α : Type} : Option Nat → Assoc α → Bool
  | _, [] => true
  | lo, (a, _) :: m => (match lo with | none => true | some l => decide (l < a)) && Assoc.wfFrom (some a) m

/-- The canonical form of a table. -/
def Assoc.wf {α : Type} (m : Assoc α) : Bool := Assoc.wfFrom none m

end Sys2Proof.Machine
end

