-- ==== Sys2Proof/Machine/Hash.lean ====
section
/-! DEFINITION. The two hash functions the LVE, the SYE and the key vault compute: the Keccak-f[1600] permutation
(FIPS 202) and the SHA-2 compression functions (FIPS 180-4). R19 names both standards; their tables are not
in the manual and are PRESUMED from the standards it cites (log 4). -/

namespace Sys2Proof.Machine

/-- The words of a table written as one number, the first word highest. -/
def tableWords (w n x : Nat) : List (BitVec w) := (List.range n).map (fun i => BitVec.ofNat w (x >>> (w * (n - 1 - i))))

/-- The round constants of the 64-bit SHA-2 functions (FIPS 180-4), sixteen to a number. PRESUMED from the cited standard (log 4). -/
def sha2KBits (i : Nat) : Nat :=
  match i with
  | 0 => 0x428a2f98d728ae227137449123ef65cdb5c0fbcfec4d3b2fe9b5dba58189dbbc3956c25bf348b53859f111f1b605d019923f82a4af194f9bab1c5ed5da6d8118d807aa98a303024212835b0145706fbe243185be4ee4b28c550c7dc3d5ffb4e272be5d74f27b896f80deb1fe3b1696b19bdc06a725c71235c19bf174cf692694
  | 1 => 0xe49b69c19ef14ad2efbe4786384f25e30fc19dc68b8cd5b5240ca1cc77ac9c652de92c6f592b02754a7484aa6ea6e4835cb0a9dcbd41fbd476f988da831153b5983e5152ee66dfaba831c66d2db43210b00327c898fb213fbf597fc7beef0ee4c6e00bf33da88fc2d5a79147930aa72506ca6351e003826f142929670a0e6e70
  | 2 => 0x27b70a8546d22ffc2e1b21385c26c9264d2c6dfc5ac42aed53380d139d95b3df650a73548baf63de766a0abb3c77b2a881c2c92e47edaee692722c851482353ba2bfe8a14cf10364a81a664bbc423001c24b8b70d0f89791c76c51a30654be30d192e819d6ef5218d69906245565a910f40e35855771202a106aa07032bbd1b8
  | 3 => 0x19a4c116b8d2d0c81e376c085141ab532748774cdf8eeb9934b0bcb5e19b48a8391c0cb3c5c95a634ed8aa4ae3418acb5b9cca4f7763e373682e6ff3d6b2b8a3748f82ee5defb2fc78a5636f43172f6084c87814a1f0ab728cc702081a6439ec90befffa23631e28a4506cebde82bde9bef9a3f7b2c67915c67178f2e372532b
  | _ => 0xca273eceea26619cd186b8c721c0c207eada7dd6cde0eb1ef57d4f7fee6ed17806f067aa72176fba0a637dc5a2c898a6113f9804bef90dae1b710b35131c471b28db77f523047d8432caab7b40c724933c9ebe0a15c9bebc431d67c49c100d4c4cc5d4becb3e42b6597f299cfc657e2a5fcb6fab3ad6faec6c44198c4a475817

/-- The eighty round constants of the 64-bit functions; the 32-bit functions take the high halves of the first 64 (FIPS 180-4). -/
def sha2K64 : List W64 := (List.range 5).flatMap (fun i => tableWords 64 16 (sha2KBits i))

/-- The round constants of the 32-bit functions. -/
def sha2K32 : List W32 := (sha2K64.take 64).map (fun x => x.extractLsb' 32 32)

/-- The initial chaining values of the 64-bit functions by their code of HINIT (R209), eight words in one number. PRESUMED from FIPS 180-4 (log 4). -/
def sha2IvBits (f : Nat) : Nat :=
  match f with
  | 2 => 0xcbbb9d5dc1059ed8629a292a367cd5079159015a3070dd17152fecd8f70e593967332667ffc00b318eb44a8768581511db0c2e0d64f98fa747b5481dbefa4fa4
  | 4 => 0x8c3d37c819544da273e1996689dcd4d61dfab7ae32ff9c82679dd514582f9fcf0f6d2b697bd44da877e36f7304c489423f9d85a86a1d36c81112e6ad91d692a1
  | 5 => 0x22312194fc2bf72c9f555fa3c84c64c22393b86b6f53b151963877195940eabd96283ee2a88effe3be5e1e25538639922b0199fc2c85b8aa0eb72ddc81c52ca2
  | _ => 0x6a09e667f3bcc908bb67ae8584caa73b3c6ef372fe94f82ba54ff53a5f1d36f1510e527fade682d19b05688c2b3e6c1f1f83d9abfb41bd6b5be0cd19137e2179

/-- The round constants of Keccak-f[1600] (FIPS 202). PRESUMED from the cited standard (log 4). -/
def keccakRc : List W64 :=
  [0x1, 0x8082, 0x800000000000808a, 0x8000000080008000,
   0x808b, 0x80000001, 0x8000000080008081, 0x8000000000008009,
   0x8a, 0x88, 0x80008009, 0x8000000a,
   0x8000808b, 0x800000000000008b, 0x8000000000008089, 0x8000000000008003,
   0x8000000000008002, 0x8000000000000080, 0x800a, 0x800000008000000a,
   0x8000000080008081, 0x8000000000008080, 0x80000001, 0x8000000080008008]
/-- The rotation offsets of Keccak-f[1600], lane (x, y) at index x + 5y (FIPS 202). PRESUMED from the cited standard (log 4). -/
def keccakRot : List Nat :=
  [0x0, 0x1, 0x3e, 0x1c, 0x1b,
   0x24, 0x2c, 0x6, 0x37, 0x14,
   0x3, 0xa, 0x2b, 0x19, 0x27,
   0x29, 0x2d, 0xf, 0x15, 0x8,
   0x12, 0x2, 0x3d, 0x38, 0xe]

/-- Rotate left. -/
def rol (x : W64) (n : Nat) : W64 := x.rotateLeft n

/-- Lane (x, y) of a Keccak state given as 25 lanes, index x + 5y. -/
def lane (a : List W64) (x y : Nat) : W64 := a.getD (x % 5 + 5 * (y % 5)) 0

/-- One round of Keccak-f[1600]: theta, rho, pi, chi, iota (FIPS 202). -/
def keccakRound (rc : W64) (a : List W64) : List W64 :=
  let c := (List.range 5).map (fun x => lane a x 0 ^^^ lane a x 1 ^^^ lane a x 2 ^^^ lane a x 3 ^^^ lane a x 4)
  let d := (List.range 5).map (fun x => c.getD ((x + 4) % 5) 0 ^^^ rol (c.getD ((x + 1) % 5) 0) 1)
  let t := (List.range 25).map (fun i => a.getD i 0 ^^^ d.getD (i % 5) 0)
  let r := (List.range 25).map (fun i => rol (t.getD i 0) (keccakRot.getD i 0))
  -- pi: B[y, 2x + 3y] = r[x, y]; read back by target (u, v): x = u + 3v, y = u
  let b := (List.range 25).map (fun i => lane r (i % 5 + 3 * (i / 5)) (i % 5))
  let e := (List.range 25).map (fun i =>
    lane b (i % 5) (i / 5) ^^^ (~~~ (lane b (i % 5 + 1) (i / 5)) &&& lane b (i % 5 + 2) (i / 5)))
  match e with
  | [] => []
  | x :: xs => (x ^^^ rc) :: xs

/-- The lanes of a 1,600-bit state. -/
def kLanes (s : KState) : List W64 := (List.range 25).map (fun i => s.extractLsb' (64 * i) 64)

/-- The state of a list of lanes. -/
def kOfLanes (l : List W64) : KState := BitVec.ofNat 1600 (l.foldr (fun x acc => x.toNat + 2 ^ 64 * acc) 0)

/-- Keccak-f[1600] (FIPS 202). -/
def keccakF (s : KState) : KState := kOfLanes (keccakRc.foldl (fun a rc => keccakRound rc a) (kLanes s))

/-- XOR a byte into byte `k` of a Keccak state. -/
def kXorByte (s : KState) (k : Nat) (b : Byte) : KState := s ^^^ BitVec.ofNat 1600 (b.toNat <<< (8 * k))

/-- Byte `k` of a Keccak state. -/
def kByte (s : KState) (k : Nat) : Byte := s.extractLsb' (8 * k) 8

/-- The rotation and shift amounts of one SHA-2 family (FIPS 180-4). -/
structure Sha2Par where
  s0 : Nat × Nat × Nat
  s1 : Nat × Nat × Nat
  e0 : Nat × Nat × Nat
  e1 : Nat × Nat × Nat

/-- SHA-224 and SHA-256. -/
def sha2Par32 : Sha2Par := ⟨(7, 18, 3), (17, 19, 10), (2, 13, 22), (6, 11, 25)⟩
/-- SHA-384, SHA-512 and truncations. -/
def sha2Par64 : Sha2Par := ⟨(1, 8, 7), (19, 61, 6), (28, 34, 39), (14, 18, 41)⟩

/-- Small sigma: two rotations and a shift. -/
def sha2Small {w : Nat} (p : Nat × Nat × Nat) (x : BitVec w) : BitVec w :=
  x.rotateRight p.1 ^^^ x.rotateRight p.2.1 ^^^ (x >>> p.2.2)

/-- Big sigma: three rotations. -/
def sha2Big {w : Nat} (p : Nat × Nat × Nat) (x : BitVec w) : BitVec w :=
  x.rotateRight p.1 ^^^ x.rotateRight p.2.1 ^^^ x.rotateRight p.2.2

/-- The next word of the message schedule, from the last sixteen (oldest first). -/
def sha2Next {w : Nat} (p : Sha2Par) (win : List (BitVec w)) : BitVec w :=
  sha2Small p.s1 (win.getD 14 0) + win.getD 9 0 + sha2Small p.s0 (win.getD 1 0) + win.getD 0 0

/-- One round on the eight working variables. -/
def sha2Round {w : Nat} (p : Sha2Par) (v : List (BitVec w)) (k x : BitVec w) : List (BitVec w) :=
  match v with
  | [a, b, c, d, e, f, g, h] =>
    let t1 := h + sha2Big p.e1 e + ((e &&& f) ^^^ (~~~ e &&& g)) + k + x
    let t2 := sha2Big p.e0 a + ((a &&& b) ^^^ (a &&& c) ^^^ (b &&& c))
    [t1 + t2, a, b, c, d + t1, e, f, g]
  | o => o

/-- The rounds, one constant at a time; the schedule window slides by one word a round. -/
def sha2Rounds {w : Nat} (p : Sha2Par) : List (BitVec w) → List (BitVec w) → List (BitVec w) → List (BitVec w)
  | [], v, _ => v
  | k :: ks, v, win =>
    sha2Rounds p ks (sha2Round p v k (win.getD 0 0)) (win.drop 1 ++ [sha2Next p win])

/-- The words of a block, big-endian (FIPS 180-4). -/
def beWords (w n : Nat) (bs : List Byte) : List (BitVec w) :=
  (List.range n).map (fun i => BitVec.ofNat w (beNat (slice bs (i * (w / 8)) (w / 8))))

/-- The SHA-256 or SHA-512 compression function on a chaining value of eight words. -/
def sha2Compress32 (h : List W32) (blk : List Byte) : List W32 :=
  List.zipWith (· + ·) h (sha2Rounds sha2Par32 sha2K32 h (beWords 32 16 blk))

/-- The SHA-512 compression function. -/
def sha2Compress64 (h : List W64) (blk : List Byte) : List W64 :=
  List.zipWith (· + ·) h (sha2Rounds sha2Par64 sha2K64 h (beWords 64 16 blk))

/-- Big-endian bytes of a list of words. -/
def wordsBe {w : Nat} (l : List (BitVec w)) : List Byte := l.flatMap (fun x => beBytes (w / 8) x.toNat)

/-- A SHA-2 chaining value in FIPS 180-4 byte order: 64 bytes for the 64-bit family, 32 bytes then zeros for the
32-bit family. `small` = SHA-224 or SHA-256. -/
def sha2Block (small : Bool) (cv blk : List Byte) : List Byte :=
  if small then slice (wordsBe (sha2Compress32 (beWords 32 8 cv) blk)) 0 64
  else wordsBe (sha2Compress64 (beWords 64 8 cv) blk)

/-- The initial chaining value of the function codes of HINIT (R209): 0 SHA-224, 1 SHA-256, 2 SHA-384,
3 SHA-512, 4 SHA-512/224, 5 SHA-512/256. -/
def sha2Iv (f : Nat) : List Byte :=
  let half (g lo : Nat) : List Byte := slice (wordsBe ((tableWords 64 8 (sha2IvBits g)).map (fun (x : W64) => (x.extractLsb' lo 32 : W32)))) 0 64
  if f = 0 then half 2 0
  else if f = 1 then half 3 32
  else wordsBe (tableWords 64 8 (sha2IvBits f))

/-- Compress whole blocks of a byte string. -/
def sha2Blocks (small : Bool) (bsz : Nat) : Nat → List Byte → List Byte → List Byte
  | 0, cv, _ => cv
  | n + 1, cv, bs => sha2Blocks small bsz n (sha2Block small cv (bs.take bsz)) (bs.drop bsz)

/-- The padding of a message of `m` bytes for a block of `bsz` bytes and a length field of `lsz` bytes. -/
def sha2Pad (bsz lsz m : Nat) : List Byte :=
  0x80#8 :: (List.replicate ((bsz - (m + 1 + lsz) % bsz) % bsz) 0 ++ beBytes lsz (8 * m))

/-- A SHA-2 digest (FIPS 180-4), `f` as in `sha2Iv`, truncated to `n` bytes. -/
def sha2 (f n : Nat) (msg : List Byte) : List Byte :=
  let small := f < 2
  let bsz := if small then 64 else 128
  let p := msg ++ sha2Pad bsz (if small then 8 else 16) msg.length
  (sha2Blocks small bsz (p.length / bsz) (sha2Iv f) p).take n

/-- SHA-384, the measurement and chain digest of the manual. -/
def sha384 (msg : List Byte) : List Byte := sha2 2 48 msg

/-- Absorb a byte string into a Keccak state at a position, permuting whenever the rate is filled. -/
def kAbsorb (rate : Nat) : List Byte → KState → Nat → KState × Nat
  | [], s, p => (s, p)
  | b :: bs, s, p =>
    let s' := kXorByte s p b
    if p + 1 = rate then kAbsorb rate bs (keccakF s') 0 else kAbsorb rate bs s' (p + 1)

/-- Squeeze `n` bytes; the position `p` equals the rate when a new block is needed. -/
def kSqueeze (rate : Nat) : Nat → KState → Nat → List Byte × KState × Nat
  | 0, s, p => ([], s, p)
  | n + 1, s, p =>
    let s' := if p = rate then keccakF s else s
    let p' := if p = rate then 0 else p
    let r := kSqueeze rate n s' (p' + 1)
    (kByte s' p' :: r.1, r.2)

/-- Multi-rate padding with a domain byte (FIPS 202). -/
def kPad (rate : Nat) (dom : Byte) (s : KState) (p : Nat) : KState :=
  kXorByte (kXorByte s p dom) (rate - 1) 0x80

/-- A sponge digest of `n` bytes. -/
def sponge (rate : Nat) (dom : Byte) (n : Nat) (msg : List Byte) : List Byte :=
  let a := kAbsorb rate msg 0 0
  (kSqueeze rate n (kPad rate dom a.1 a.2) rate).1

/-- SHA3-256 (FIPS 202). -/
def sha3256 (msg : List Byte) : List Byte := sponge 136 0x06 32 msg

/-- left_encode of SP 800-185 for a number below 2^32. -/
def leftEncode (x : Nat) : List Byte :=
  let n := if x < 256 then 1 else if x < 65536 then 2 else if x < 16777216 then 3 else 4
  BitVec.ofNat 8 n :: beBytes n x

/-- right_encode of SP 800-185 for a number below 2^32. -/
def rightEncode (x : Nat) : List Byte :=
  let n := if x < 256 then 1 else if x < 65536 then 2 else if x < 16777216 then 3 else 4
  beBytes n x ++ [BitVec.ofNat 8 n]

/-- encode_string of SP 800-185. -/
def encodeString (s : List Byte) : List Byte := leftEncode (8 * s.length) ++ s

/-- bytepad of SP 800-185. -/
def bytepad (x : List Byte) (w : Nat) : List Byte :=
  let z := leftEncode w ++ x
  z ++ List.replicate ((w - z.length % w) % w) 0

/-- The bytes of an ASCII string. -/
def ascii (s : String) : List Byte := s.toList.map (fun c => BitVec.ofNat 8 c.toNat)

/-- KMAC256 with key, customisation string and input, `n` bytes of output (SP 800-185). -/
def kmac256 (k cs x : List Byte) (n : Nat) : List Byte :=
  sponge 136 0x04 n
    (bytepad (encodeString (ascii "KMAC") ++ encodeString cs) 136 ++ bytepad (encodeString k) 136 ++ x
      ++ rightEncode (8 * n))

/-- KDF(K, S, X) of the key vault chapter: KMAC256 producing 48 bytes. -/
def kdf (k : List Byte) (cs : String) (x : List Byte) : List Byte := kmac256 k (ascii cs) x 48

end Sys2Proof.Machine
end

