-- ==== Sys2Proof/Machine/Aes.lean ====
section
/-! DEFINITION. AES (FIPS 197) and its modes: CBC, CTR, GCM, XTS, KW, KWP, GCM-SIV, CMAC, GMAC (SP 800-38A to 38F, RFC 8452), as R94 and R95 name them. The
manual cites the standards (R19); their text is PRESUMED (log 4). -/

namespace Sys2Proof.Machine

/-! ### The block cipher -/

/-- The S-box, byte i in bits [8i+7:8i]. -/
def aesSbox : Nat := 0x16bb54b00f2d99416842e6bf0d89a18cdf2855cee9871e9b948ed9691198f8e19e1dc186b95735610ef6034866b53e708a8bbd4b1f74dde8c6b4a61c2e2578ba08ae7a65eaf4566ca94ed58d6d37c8e779e4959162acd3c25c2406490a3a32e0db0b5ede14b8ee4688902a22dc4f816073195d643d7ea7c41744975fec130ccdd2f3ff1021dab6bcf5389d928f40a351a89f3c507f02f94585334d43fbaaefd0cf584c4a39becb6a5bb1fc20ed00d153842fe329b3d63b52a05a6e1b1a2c830975b227ebe28012079a059618c323c7041531d871f1e5a534ccf73f362693fdb7c072a49cafa2d4adf04759fa7dc982ca76abd7fe2b670130c56f6bf27b777c63
/-- The inverse S-box. -/
def aesInvSbox : Nat := 0x7d0c2155631469e126d677ba7e042b17619953833cbbebc8b0f52aae4d3be0a0ef9cc9939f7ae52d0d4ab519a97f51605fec8027591012b131c7078833a8dd1ff45acd78fec0db9a2079d2c64b3e56fc1bbe18aa0e62b76f89c5291d711af1476edf751ce837f9e28535ade72274ac9673e6b4f0cecff297eadc674f4111913a6b8a130103bdafc1020f3fca8f1e2cd00645b3b80558e4f70ad3bc8c00abd890849d8da75746155edab9edfd5048706c92b6655dcc5ca4d41698688664f6f87225d18b6d49a25b76b224d92866a12e084ec3fa420b954cee3d23c2a632947b54cbe9dec444438e3487ff2f9b8239e37cfbd7f3819ea340bf38a53630d56a0952

/-- A table look-up. -/
def boxAt (t : Nat) (b : Byte) : Byte := BitVec.ofNat 8 (t >>> (8 * b.toNat))

/-- Multiplication by x in GF(2^8). -/
def xtime (b : Byte) : Byte := (b <<< (1 : Nat)) ^^^ (if bit b 7 then 0x1B#8 else 0x00#8)

/-- Multiplication by a small constant. -/
def aesMul (n : Nat) (b : Byte) : Byte :=
  let b2 := xtime b
  let b4 := xtime b2
  let b8 := xtime b4
  (if n % 2 = 1 then b else 0) ^^^ (if n / 2 % 2 = 1 then b2 else 0) ^^^ (if n / 4 % 2 = 1 then b4 else 0) ^^^ (if n / 8 % 2 = 1 then b8 else 0)

/-- XOR of two byte strings. -/
def xorB (a b : List Byte) : List Byte := List.zipWith (· ^^^ ·) a b

/-- The words of a key schedule, newest first, from `i` on, `n` more of them. -/
def keyWords (nk : Nat) (n i : Nat) (rcon : Byte) (ws : List (List Byte)) : List (List Byte) :=
  match n with
  | 0 => ws
  | n + 1 =>
    let t := ws.getD 0 []
    let sub (l : List Byte) : List Byte := l.map (boxAt aesSbox)
    let t' := if i % nk = 0 then xorB (sub (t.drop 1 ++ t.take 1)) [rcon, 0x00#8, 0x00#8, 0x00#8]
      else if 6 < nk ∧ i % nk = 4 then sub t else t
    keyWords nk n (i + 1) (if i % nk = 0 then xtime rcon else rcon) (xorB (ws.getD (nk - 1) []) t' :: ws)

/-- The round keys of a key of 16, 24 or 32 bytes. -/
def roundKeys (key : List Byte) : List (List Byte) :=
  let nk := key.length / 4
  let w0 := ((List.range nk).map (fun i => slice key (4 * i) 4)).reverse
  let ws := (keyWords nk (4 * (nk + 7) - nk) nk 0x01#8 w0).reverse
  (List.range (nk + 7)).map (fun r => ((ws.drop (4 * r)).take 4).flatten)

/-- MixColumns with the constants of one column. -/
def mixCols (m : List Nat) (b : List Byte) : List Byte :=
  (List.range 16).map (fun i => (List.range 4).foldl (fun a k => a ^^^ aesMul (m.getD ((k + 4 - i % 4) % 4) 0) (b.getD (i / 4 * 4 + k) 0)) 0x00#8)

/-- ShiftRows, or its inverse with 3 for 1. -/
def shiftRows (d : Nat) (b : List Byte) : List Byte := (List.range 16).map (fun i => b.getD ((i + 4 * d * (i % 4)) % 16) 0)

/-- Encrypt a block with round keys. -/
def aesEnc (rks : List (List Byte)) (b : List Byte) : List Byte :=
  let n := rks.length
  let mid := (List.range (n - 2)).foldl (fun st r =>
    xorB (mixCols [2, 3, 1, 1] (shiftRows 1 (st.map (boxAt aesSbox)))) (rks.getD (r + 1) [])) (xorB b (rks.getD 0 []))
  xorB (shiftRows 1 (mid.map (boxAt aesSbox))) (rks.getD (n - 1) [])

/-- Decrypt a block. -/
def aesDec (rks : List (List Byte)) (b : List Byte) : List Byte :=
  let n := rks.length
  let mid := (List.range (n - 2)).foldl (fun st r =>
    mixCols [14, 11, 13, 9] (xorB ((shiftRows 3 st).map (boxAt aesInvSbox)) (rks.getD (n - 2 - r) []))) (xorB b (rks.getD (n - 1) []))
  xorB ((shiftRows 3 mid).map (boxAt aesInvSbox)) (rks.getD 0 [])

/-! ### CBC and CTR -/

/-- Blocks of 16 bytes, the last one maybe short. -/
def blocksOf (n : Nat) (bs : List Byte) : List (List Byte) :=
  match n with
  | 0 => []
  | n + 1 => if bs.isEmpty then [] else bs.take 16 :: blocksOf n (bs.drop 16)

/-- All blocks of a string. -/
def toBlocks (bs : List Byte) : List (List Byte) := blocksOf (bs.length / 16 + 1) bs

/-- CBC encryption. -/
def cbcEnc (key iv pt : List Byte) : List Byte :=
  let rk := roundKeys key
  ((toBlocks pt).foldl (fun (a : List Byte × List Byte) b => let c := aesEnc rk (xorB b a.1); (c, a.2 ++ c)) (iv, [])).2

/-- CBC decryption. -/
def cbcDec (key iv ct : List Byte) : List Byte :=
  let rk := roundKeys key
  ((toBlocks ct).foldl (fun (a : List Byte × List Byte) b => (b, a.2 ++ xorB (aesDec rk b) a.1)) (iv, [])).2

/-- CTR with a 128-bit big-endian counter. -/
def ctrMode (key ctr bs : List Byte) : List Byte :=
  let rk := roundKeys key
  let c0 := beNat ctr
  ((toBlocks bs).zipIdx.map (fun (p : List Byte × Nat) => xorB p.1 (aesEnc rk (beBytes 16 (c0 + p.2))))).flatten

/-! ### GCM and GMAC (SP 800-38D) -/

/-- One step of a product in the field of GHASH. -/
def gf128Step (v : Nat) : Nat := if v % 2 = 1 then (v / 2) ^^^ (0xE1 * 2 ^ 120) else v / 2

/-- The product of two blocks in the field of GHASH. -/
def gf128 (x y : Nat) : Nat :=
  ((List.range 128).foldl (fun (a : Nat × Nat) i => (if x / 2 ^ (127 - i) % 2 = 1 then a.1 ^^^ a.2 else a.1, gf128Step a.2)) (0, y)).1

/-- GHASH of whole blocks, the last one padded with zeros. -/
def ghash (h : Nat) (parts : List (List Byte)) : Nat := parts.foldl (fun y b => gf128 (y ^^^ beNat (slice b 0 16)) h) 0

/-- Counter mode of GCM: a 32-bit counter in the last four bytes. -/
def gctr (rk : List (List Byte)) (iv : List Byte) (first : Nat) (bs : List Byte) : List Byte :=
  ((toBlocks bs).zipIdx.map (fun (p : List Byte × Nat) => xorB p.1 (aesEnc rk (iv ++ beBytes 4 ((first + p.2) % 2 ^ 32))))).flatten

/-- The tag of GCM, 16 bytes. -/
def gcmTag (rk : List (List Byte)) (iv aad ct : List Byte) : List Byte :=
  let h := beNat (aesEnc rk (List.replicate 16 0x00#8))
  let y := ghash h (toBlocks aad ++ toBlocks ct ++ [beBytes 8 (8 * aad.length) ++ beBytes 8 (8 * ct.length)])
  xorB (beBytes 16 y) (aesEnc rk (iv ++ beBytes 4 1))

/-- GCM encryption with a 96-bit IV. -/
def gcmSeal (key iv aad pt : List Byte) : List Byte × List Byte :=
  let rk := roundKeys key
  let ct := gctr rk iv 2 pt
  (ct, gcmTag rk iv aad ct)

/-- GCM decryption; none where the tag, as long as it is, does not match. -/
def gcmOpen (key iv aad ct tag : List Byte) : Option (List Byte) :=
  let rk := roundKeys key
  if (gcmTag rk iv aad ct).take tag.length = tag then some (gctr rk iv 2 ct) else none

/-! ### GCM-SIV (RFC 8452) -/

/-- POLYVAL of whole blocks. -/
def polyval (h : List Byte) (parts : List (List Byte)) : List Byte :=
  (beBytes 16 (ghash (gf128Step (beNat h.reverse)) (parts.map (fun b => (slice b 0 16).reverse)))).reverse

/-- The authentication key and the encryption key of a nonce. -/
def sivKeys (key nonce : List Byte) : List Byte × List Byte :=
  let rk := roundKeys key
  let half (i : Nat) : List Byte := (aesEnc rk (leBytes 4 i ++ nonce)).take 8
  (half 0 ++ half 1, if key.length = 16 then half 2 ++ half 3 else half 2 ++ half 3 ++ half 4 ++ half 5)

/-- The tag. -/
def sivTag (ak ek nonce aad pt : List Byte) : List Byte :=
  let s := polyval ak (toBlocks aad ++ toBlocks pt ++ [leBytes 8 (8 * aad.length) ++ leBytes 8 (8 * pt.length)])
  let x := xorB s (slice nonce 0 16)
  aesEnc (roundKeys ek) (x.take 15 ++ [x.getD 15 0 &&& 0x7F#8])

/-- Counter mode from a tag: a little-endian 32-bit counter in the first four bytes. -/
def sivCtr (ek tag bs : List Byte) : List Byte :=
  let rk := roundKeys ek
  let c0 := fieldLe tag 0 4
  let rest := (tag.drop 4).take 11 ++ [tag.getD 15 0 ||| 0x80#8]
  ((toBlocks bs).zipIdx.map (fun (p : List Byte × Nat) => xorB p.1 (aesEnc rk (leBytes 4 ((c0 + p.2) % 2 ^ 32) ++ rest)))).flatten

/-- GCM-SIV encryption: ciphertext and tag. -/
def sivSeal (key nonce aad pt : List Byte) : List Byte :=
  let k := sivKeys key nonce
  let tag := sivTag k.1 k.2 nonce aad pt
  sivCtr k.2 tag pt ++ tag

/-- GCM-SIV decryption. -/
def sivOpen (key nonce aad ct tag : List Byte) : Option (List Byte) :=
  let k := sivKeys key nonce
  let pt := sivCtr k.2 tag ct
  if sivTag k.1 k.2 nonce aad pt = tag then some pt else none

/-! ### XTS (SP 800-38E) -/

/-- The tweak of the next block. -/
def xtsNext (t : List Byte) : List Byte :=
  let n := leNat t
  leBytes 16 (2 * n % 2 ^ 128 ^^^ (if n / 2 ^ 127 % 2 = 1 then 0x87 else 0))

/-- One block of XTS. -/
def xtsBlock (f : List Byte → List Byte) (t b : List Byte) : List Byte := xorB (f (xorB b t)) t

/-- Whole blocks of XTS, with the tweak after them. -/
def xtsBlocks (f : List Byte → List Byte) (t : List Byte) (bs : List (List Byte)) : List Byte × List Byte :=
  bs.foldl (fun (a : List Byte × List Byte) b => (xtsNext a.1, a.2 ++ xtsBlock f a.1 b)) (t, [])

/-- XTS with ciphertext stealing; `enc` for encryption. -/
def xtsMode (enc : Bool) (key tweak bs : List Byte) : List Byte :=
  let n := key.length / 2
  let rk := roundKeys (key.take n)
  let f : List Byte → List Byte := if enc then aesEnc rk else aesDec rk
  let t0 := aesEnc (roundKeys (key.drop n)) tweak
  let r := bs.length % 16
  let m := bs.length / 16
  if r = 0 then (xtsBlocks f t0 (toBlocks bs)).2
  else
    let a := xtsBlocks f t0 (toBlocks (bs.take (16 * (m - 1))))
    let last := slice bs (16 * (m - 1)) 16
    let tail := bs.drop (16 * m)
    let t1 := a.1
    let t2 := xtsNext t1
    let x := xtsBlock f (if enc then t1 else t2) last
    a.2 ++ xtsBlock f (if enc then t2 else t1) (tail ++ x.drop r) ++ x.take r

/-! ### KW and KWP (SP 800-38F) -/

/-- Six passes over the semiblocks: A and R. -/
def wrapSteps (rk : List (List Byte)) (n steps t : Nat) (a : List Byte) (r : List (List Byte)) : List Byte × List (List Byte) :=
  match steps with
  | 0 => (a, r)
  | k + 1 =>
    match r with
    | [] => (a, r)
    | b :: rest =>
      let x := aesEnc rk (a ++ b)
      wrapSteps rk n k (t + 1) (xorB (x.take 8) (beBytes 8 t)) (rest ++ [x.drop 8])

/-- Its inverse, from the last step. -/
def unwrapSteps (rk : List (List Byte)) (n steps : Nat) (a : List Byte) (r : List (List Byte)) : List Byte × List (List Byte) :=
  match steps with
  | 0 => (a, r)
  | k + 1 =>
    let b := r.getLastD []
    let x := aesDec rk (xorB a (beBytes 8 (k + 1)) ++ b)
    unwrapSteps rk n k (x.take 8) (x.drop 8 :: r.dropLast)

/-- Semiblocks of 8 bytes. -/
def semis (bs : List Byte) : List (List Byte) := (List.range (bs.length / 8)).map (fun i => slice bs (8 * i) 8)

/-- W of SP 800-38F. -/
def wrapW (key a data : List Byte) : List Byte :=
  let rk := roundKeys key
  let r := semis data
  if r.length = 1 then aesEnc rk (a ++ data)
  else
    let w := wrapSteps rk r.length (6 * r.length) 1 a r
    w.1 ++ w.2.flatten

/-- Its inverse: A and the data. -/
def unwrapW (key ct : List Byte) : List Byte × List Byte :=
  let rk := roundKeys key
  let r := semis (ct.drop 8)
  if r.length = 1 then
    let x := aesDec rk ct
    (x.take 8, x.drop 8)
  else
    let w := unwrapSteps rk r.length (6 * r.length) (ct.take 8) r
    (w.1, w.2.flatten)

/-- KW. -/
def kwWrap (key data : List Byte) : List Byte := wrapW key (List.replicate 8 0xA6#8) data
/-- KW unwrapping. -/
def kwOpen (key ct : List Byte) : Option (List Byte) :=
  let r := unwrapW key ct
  if r.1 = List.replicate 8 0xA6#8 then some r.2 else none

/-- The first half of the KWP block. -/
def kwpIcv : List Byte := [0xA6#8, 0x59#8, 0x59#8, 0xA6#8]
/-- KWP. -/
def kwpWrap (key data : List Byte) : List Byte := wrapW key (kwpIcv ++ beBytes 4 data.length) (slice data 0 ((data.length + 7) / 8 * 8))
/-- KWP unwrapping. -/
def kwpOpen (key ct : List Byte) : Option (List Byte) :=
  let r := unwrapW key ct
  let n := beNat (r.1.drop 4)
  if r.1.take 4 = kwpIcv ∧ n ≤ r.2.length ∧ r.2.length < n + 8 ∧ (r.2.drop n).all (fun b => decide (b = 0x00#8)) then some (r.2.take n) else none

/-! ### CMAC (SP 800-38B) -/

/-- Doubling in the field of CMAC. -/
def cmacDouble (b : List Byte) : List Byte :=
  let n := beNat b
  beBytes 16 (2 * n % 2 ^ 128 ^^^ (if n / 2 ^ 127 % 2 = 1 then 0x87 else 0))

/-- CMAC, 16 bytes. -/
def cmac (key msg : List Byte) : List Byte :=
  let rk := roundKeys key
  let k1 := cmacDouble (aesEnc rk (List.replicate 16 0x00#8))
  let whole := decide (msg ≠ []) && decide (msg.length % 16 = 0)
  let n := if whole then msg.length - 16 else msg.length / 16 * 16
  let last := if whole then xorB (msg.drop n) k1 else xorB (slice (msg.drop n ++ [0x80#8]) 0 16) (cmacDouble k1)
  let x := (toBlocks (msg.take n)).foldl (fun a b => aesEnc rk (xorB a b)) (List.replicate 16 0x00#8)
  aesEnc rk (xorB x last)

end Sys2Proof.Machine
end

