-- ==== Sys2Proof/Machine/LveState.lean ====
section
/-! DEFINITION. The state of one Lattice Vector Engine and of its microcode sequencer (R184 to R196, R222 to R237):
plain data, in parts. -/

namespace Sys2Proof.Machine

/-- The register state of R184 (V, M, S, VTYPE, LMOD, VL, VSTART, ACCEPT, PASS, OUTLEN) and the temporary
registers T0 to T7 of R223. -/
structure LveCore where
  v : Vector VReg 32
  m : Vector MReg 8
  sc : Vector W64 16
  temps : Vector VReg 8
  vtype : BitVec 4
  lmod : W32
  vl : Nat
  vstart : W32
  accept : Bool
  pass : W16
  outlen : W32
  deriving DecidableEq, Repr

/-- The hash units of R184 and R209: the Keccak state in its shares (one when unmasked), the PUBLIC flag, the absorb
or squeeze position, the function code of KINIT, whether KFIN has switched it to squeezing; the SHA-2 chaining value in
FIPS 180-4 byte order and the function code of HINIT. -/
structure LveHash where
  kshares : List KState
  kpublic : Bool
  kpos : Nat
  kfun : Nat
  ksqueeze : Bool
  hstate : List Byte
  hfun : Nat
  deriving DecidableEq, Repr

/-- The regions of the operand window (R193, R194, R217). -/
structure LveRegions where
  winSize : Nat
  inOff : Nat
  inMax : Nat
  auxOff : Nat
  auxMax : Nat
  outOff : Nat
  outMax : Nat
  constOff : Nat
  constLen : Nat
  deriving DecidableEq, Repr

/-- The job registers that SJR reads (R199) beside those the register state and the regions hold. -/
structure LveJobRegs where
  inLen : Nat
  auxLen : Nat
  outCap : Nat
  param : W64
  pset : Byte
  keyLen : Nat
  deriving DecidableEq, Repr

/-- One entry of the sequencer's instruction-level loop stack (R199, R226): first and last index of the body and the
iterations left, the running one included. -/
structure LoopFrame where
  start : Nat
  last : Nat
  left : Nat
  deriving DecidableEq, Repr

/-- The fault a job has met: an operand fault (R210) with the value of VSTART, or a draw beyond MASK_BYTES (R216). -/
inductive LveFault where
  | operand (index : W32)
  | maskBudget
  deriving DecidableEq, Repr

/-- Microwords by cycle class (R229, R230): SEQ, VEC, MEM, MM16, MM32, KEC, SHA, RND. -/
structure Classes where
  seq : Nat
  vec : Nat
  mem : Nat
  mm16 : Nat
  mm32 : Nat
  kec : Nat
  sha : Nat
  rnd : Nat
  deriving DecidableEq, Repr

/-- None executed. -/
def Classes.zero : Classes := ⟨0, 0, 0, 0, 0, 0, 0, 0⟩

/-- The microwords of two stretches. -/
def Classes.add (a b : Classes) : Classes :=
  ⟨a.seq + b.seq, a.vec + b.vec, a.mem + b.mem, a.mm16 + b.mm16, a.mm32 + b.mm32, a.kec + b.kec, a.sha + b.sha, a.rnd + b.rnd⟩

/-- Microwords of every class. -/
def Classes.total (a : Classes) : Nat := a.seq + a.vec + a.mem + a.mm16 + a.mm32 + a.kec + a.sha + a.rnd

/-- Their duration in ENG clocks at the lengths `len` (R230). -/
def Classes.clocks (a : Classes) (len : Nat → Nat) : Nat :=
  a.seq * len 0 + a.vec * len 1 + a.mem * len 2 + a.mm16 * len 3 + a.mm32 * len 4 + a.kec * len 5 + a.sha * len 6 + a.rnd * len 7

/-- The shipped lengths (R229). -/
def shippedLen (c : Nat) : Nat := if c = 3 then 3 else if c = 4 then 5 else 1

/-- The sequencer's state for the running program: the instruction index, the loop stack, the text held in the program stores (empty for a vendor program in
ROM), the vendor program that runs, if it is one, the image header of an owner program (R219), the limits MASK_BYTES and REPEAT_MAX, the masking bytes drawn in
the pass, the fault met, the microwords executed so far, and the number of masking draws made. -/
structure LveSeq where
  pc : Nat
  loops : List LoopFrame
  text : List W64
  prog : Option Nat
  head : List Byte
  maskBytes : Nat
  repeatMax : Nat
  maskUsed : Nat
  fault : Option LveFault
  counts : Classes
  draws : Nat
  deriving DecidableEq, Repr

/-- Where an engine stands: idle, granted to a job whose program has not started, running a pass, reserved between passes (R215), or fenced (R247). The
wipe of R196 and R237 is part of the step that ends the job. -/
inductive LvePhase where
  | idle | loading | running | passWait | fenced
  deriving DecidableEq, Repr

/-- One LVE with its sequencer. `job` is the job that holds the engine (a key of the die's job table), `keySlot` the
key slot its VKLD reads, `window` the operand window (unlisted bytes zero), `kpc` the bytes of the KPC aperture, and `hit` says that an induced fault has struck
the pass, and whether it struck what the second of a program's checks guards (R254). -/
structure Lve where
  phase : LvePhase
  job : Option Nat
  core : LveCore
  hash : LveHash
  regions : LveRegions
  jr : LveJobRegs
  seq : LveSeq
  window : Mem
  kpc : List Byte
  abortReq : Bool
  hit : Option Bool
  deriving DecidableEq, Repr

/-- The register state at the start of every job (R185). -/
def LveCore.fresh : LveCore where
  v := Vector.replicate 32 0
  m := Vector.replicate 8 0
  sc := Vector.replicate 16 0
  temps := Vector.replicate 8 0
  vtype := 0
  lmod := 0
  vl := 0
  vstart := 0
  accept := true
  pass := 1
  outlen := 0

/-- The hash units at the start of every job (R185). -/
def LveHash.fresh : LveHash where
  kshares := [0]
  kpublic := true
  kpos := 0
  kfun := 0
  ksqueeze := false
  hstate := List.replicate 64 0
  hfun := 0

/-- No regions. -/
def LveRegions.zero : LveRegions := ⟨0, 0, 0, 0, 0, 0, 0, 0, 0⟩

/-- No job registers. -/
def LveJobRegs.zero : LveJobRegs := ⟨0, 0, 0, 0, 0, 0⟩

/-- The sequencer with nothing running. -/
def LveSeq.fresh : LveSeq := ⟨0, [], [], none, [], 0, 1, 0, none, Classes.zero, 0⟩

/-- An LVE that holds no job, all of its state clear. -/
def Lve.clear : Lve where
  phase := .idle
  job := none
  core := LveCore.fresh
  hash := LveHash.fresh
  regions := LveRegions.zero
  jr := LveJobRegs.zero
  seq := LveSeq.fresh
  window := []
  kpc := []
  abortReq := false
  hit := none

end Sys2Proof.Machine
end

