-- ==== Sys2Proof/Machine/HostState.lean ====
section
/-! DEFINITION. The host-facing state: the PCIe function (R34 to R49), MSI-X and the instance interrupt table
(R68 to R70), queue contexts (R115 to R148), jobs, and what the device sends to its partners. Plain data, in parts. -/

namespace Sys2Proof.Machine

/-- The state of the host link (R34, R38, R45, R60 LINK_STATUS.STATE): held in Detect, training, L0, L1. -/
inductive LinkState where
  | detect | training | l0 | l1
  deriving DecidableEq, Repr

/-- One IDE stream (R48, R49, R60 IDE_STATE): 0 not configured, 1 keys loaded, 2 Secure, 3 Insecure; its integrity
failures, saturating at 0xFF; its keys, in a transient slot of device scope; the address association that a selective stream is bound to. -/
structure IdeStream where
  state : BitVec 2
  fails : BitVec 8
  key : List Byte
  area : Option IdeArea
  deriving DecidableEq, Repr

/-- The PCIe function of die 0. `trained` is the width trained, `width` the width in use after L0p (R38), `aer` the uncorrectable error status
that AER reports (R36, R40). -/
structure Hif where
  link : LinkState
  speed : BitVec 4
  trained : BitVec 5
  width : BitVec 5
  flit : Bool
  busMaster : Bool
  d3hot : Bool
  flrActive : Bool
  flrCount : W16
  drsSent : Bool
  subsys : W32
  ide : Assoc IdeStream
  aer : W32
  deriving DecidableEq, Repr

/-- One MSI-X table entry: message address, data, Mask bit of Vector Control (R43: WARM value zero, zero, set). -/
structure MsixEntry where
  addr : W64
  data : W32
  masked : Bool
  deriving DecidableEq, Repr

/-- The WARM value of a table entry (R43). -/
def MsixEntry.reset : MsixEntry := ⟨0, 0, true⟩

/-- MSI-X: its two control bits, its table (unlisted entries at their WARM value) and the PBA bits set. -/
structure Msix where
  enable : Bool
  functionMask : Bool
  table : Assoc MsixEntry
  pba : Assoc Unit
  deriving DecidableEq, Repr

/-- One instance interrupt table entry (R69), as its four words; PENDING is bit 2 of word 3. -/
structure IitEntry where
  addr : W64
  data : W32
  ctl : W32
  deriving DecidableEq, Repr

/-- The Event Router of die 0 (R446, R447, R459): page routes by ROUTE_SEL value, manager-queue routes by MQ_SEL value, the
instance interrupt table, and the pages whose event is raised at the moment (R57). -/
structure Evr where
  routes : Assoc W32
  mqRoutes : Assoc W32
  iit : Assoc IitEntry
  raised : Assoc Unit
  deriving DecidableEq, Repr

/-- A decoded submission entry (R122), byte for byte. -/
structure Sqe where
  opcode : W16
  pset : Byte
  flags : Byte
  handle : W32
  tag : W64
  inAddr : W64
  inLen : W32
  outCap : W32
  outAddr : W64
  auxAddr : W64
  auxLen : W32
  param : W64
  rsv : W16
  check : W16
  deriving DecidableEq, Repr

/-- A completion entry (R134). -/
structure Cqe where
  tag : W64
  status : W16
  epoch : Byte
  die : Byte
  seqNo : W32
  outWritten : W32
  sqIndex : W16
  detail : W32
  etime : W32
  deriving DecidableEq, Repr

/-- Queue states (R141). -/
inductive QState where
  | disabled | active | error | frozen | rehoming
  deriving DecidableEq, Repr

/-- One slot of the fetch window (R131): a read outstanding, or the copy read. `stale` marks a read whose data is to be
dropped because SQ_INVAL discarded its slot. -/
inductive Prefetch where
  | reading (stale : Bool)
  | copy (bytes : List Byte)
  deriving DecidableEq, Repr

/-- The ring registers of a queue context (R117, R146, R147). -/
structure QRings where
  ctrl : W32
  sqBase : W64
  cqBase : W64
  shadow : W64
  irq : W32
  sqHead : Nat
  sqTail : Nat
  cqHead : Nat
  cqTail : Nat
  deriving DecidableEq, Repr

/-- A finished completion that waits for a CQ slot (R137), with the SEQ it was assigned at dispatch (used with IN_ORDER = 1, R139) and the final progress of
its job, which JOB_PROGRESS shows until the entry is written (R63, R113). -/
structure Held where
  seqNo : Nat
  cqe : Cqe
  counted : Bool
  step : Nat
  permille : Nat
  deriving DecidableEq, Repr

/-- One queue context of a QMG (R115 to R147). `win` is the fetch window by SQ index, `invWait` the slots whose outstanding reads an accepted SQ_INVAL waits
for; `held` the completions held, oldest first, `parked` those that the function cannot write and the holding area has no room for (R46, R137); `written`
the SEQ of completions written beyond CQ_TAIL (IN_ORDER = 1); `seqNo` the SEQ of the entry at CQ_TAIL; `nextSeq` the next SEQ to assign; `inflight` the
jobs dispatched and not finished, the parked ones among them. -/
structure QCtx where
  rings : QRings
  state : QState
  stalled : Bool
  headErr : Bool
  errIndex : Nat
  errCode : Byte
  epoch : Byte
  seqNo : Nat
  invDone : Bool
  invWait : List Nat
  discarded : Nat
  win : Assoc Prefetch
  held : List Held
  parked : List Held
  written : List Nat
  nextSeq : Nat
  inflight : Nat
  deriving DecidableEq, Repr

/-- The moderation, chain and re-homing side of a queue (R125, R140, R141, R144): counted completions since the last event, whether the
delay timer runs, whether the entry last consumed left its chain open, its job, whether a member has failed, the job of the head entry under
preparation, a requested DISABLE, the error a freeze or re-homing returns to, the target and the job of a re-homing, the Requester ID of the last
doorbell (R450), the LVE engine time in ps of its jobs in the balancing interval (R367), the moderation setting in force (R144). -/
structure QAux where
  irqCount : Nat
  irqTimer : Bool
  chainOpen : Bool
  chainJob : Option Nat
  chainAborted : Bool
  prep : Option Nat
  disableReq : Bool
  returnError : Bool
  rehomeTo : Option Nat
  rehomeJob : Option (Nat × Nat)
  rid : W16
  lveTime : Nat
  irqNow : W32
  deriving DecidableEq, Repr

/-- A queue of a die: its context and the side state. -/
structure Queue where
  ctx : QCtx
  aux : QAux
  deriving DecidableEq, Repr

/-- A queue context that no one has configured: every register zero (R146), DISABLED. -/
def Queue.reset : Queue where
  ctx := {
    rings := ⟨0, 0, 0, 0, 0, 0, 0, 0, 0⟩, state := .disabled, stalled := false, headErr := false, errIndex := 0,
    errCode := 0, epoch := 0, seqNo := 0, invDone := false, invWait := [], discarded := 0, win := [], held := [], parked := [], written := [],
    nextSeq := 0, inflight := 0 }
  aux := ⟨0, false, false, none, false, none, false, false, none, none, 0, 0, 0⟩

/-- Why a job waits, in the order a job passes (R118, R157, R174, R331, R352): the blob table entry read, the blob read, the public
key of a Classic McEliece entry or the public part of AUX read, a KPC fill, the input reads, its engine (or its completion space, where it is to end
before dispatch), the engine program, the output transfer. -/
inductive JobStage where
  | table | blob | pubRead | fill | input | ready | running | outXfer
  deriving DecidableEq, Repr

/-- A result of a job (R105, R134): status, DETAIL, engine time in ps (R106), output bytes. -/
structure JobResult where
  status : W16
  detail : W32
  etime : Nat
  out : List Byte
  deriving DecidableEq, Repr

/-- Where a job came from: its queue on the home die, manager or instance, the SQ index, the SEQ assigned, the epoch, the Requester ID (R450). -/
structure JobSrc where
  queue : Nat
  mgr : Bool
  inst : Nat
  sqIndex : Nat
  cqSeq : Nat
  epoch : Byte
  rid : W16
  deriving DecidableEq, Repr

/-- Why a job loads a blob or reads a table entry (R154, R165, R166, R171, R172): the key its handle names, the second key that its operation needs, the parent
of a new blob that the key named implies, a parent on the way to a blob's own key, the owner ticket, entry 0 of a table (where a root record is to be
written), a verifier record, a table entry alone, a table entry whose BLOB_LEN adds to a backup volume (R411). -/
inductive WantKind where
  | main | second | parent | chain | ticket | entry0 | verifier | entry | size
  deriving DecidableEq, Repr

/-- The root of a hierarchy as the BBRAM and the KVD keep it (R164, R165): ROOT_VERSION, and the parent table's generations
by entry number for the entries in use. -/
structure RootRec where
  version : W32
  gens : Assoc W32
  deriving DecidableEq, Repr

/-- A transient slot filled through key staging (R162). -/
structure Transient where
  type : Byte
  usage : Byte
  key : List Byte
  deriving DecidableEq, Repr

/-- A blob that a job waits for: its handle, the table it is found in (base, entries, PASID), its hierarchy (instance or 0xFFFF), the blob once read and
waiting for its parent or for room, and the generations of the hierarchy when its load began (R166). -/
structure KeyWant where
  handle : W32
  kind : WantKind
  base : W64
  size : Nat
  pasid : Option (BitVec 20)
  hier : Nat
  blob : List Byte
  gens : Option RootRec
  deriving DecidableEq, Repr

/-- What a job has resolved and read. `keys` are the slots that it holds, in the order its operation names them; `wants` the blobs it waits for, the next
first; `entry` the table entry read last, `root` entry 0 of the table of its hierarchy, `ticket` the owner ticket; its KPC entry and its provisional copy; the leaf
assigned to it (R168); `begun` that it is dispatched; the data read; `reads` the reads outstanding by what they are for;
`reload` that its keys are loaded again because a slot of theirs was taken before its dispatch (R160); `staged` the transient key that STAGE_COMMIT took
at its dispatch (R163); `rtc` the time of its acceptance (R175); `digested` that an SYE has computed the digests of its BNE program (R287). -/
structure JobData where
  keys : List Nat
  wants : List KeyWant
  entry : List Byte
  root : List Byte
  ticket : List Byte
  kpcEntry : Option Nat
  prov : Option Nat
  leaf : Option Nat
  begun : Bool
  inData : List Byte
  auxData : List Byte
  reads : List Nat
  reload : Bool
  staged : Option Transient
  rtc : Nat
  digested : Bool
  deriving DecidableEq, Repr

/-- Nothing resolved. -/
def JobData.empty : JobData := ⟨[], [], [], [], [], none, none, none, false, [], [], [], false, none, 0, false⟩

/-- A job: from its dispatch until its completion entry is written. `pass` counts passes, legs or segments done; `step` and
`permille` are the progress of R113; `tracked` the TRACK milestones raised (R129); `suppress` is set when no completion is to be
written (R238, R341); `span` the engine time in ps that its public values fix at dispatch (R307); `failed` the status and DETAIL that a stop has fixed for it (R41, R236, R424), whatever its program computes. -/
structure Job where
  src : JobSrc
  sqe : Sqe
  stage : JobStage
  engine : EngineId
  data : JobData
  result : Option JobResult
  failed : Option (W16 × W32)
  pass : Nat
  step : Nat
  permille : Nat
  tracked : Nat
  suppress : Bool
  span : Nat
  deriving DecidableEq, Repr

/-- The classes of Relay traffic (R374), in the order of arbitration (R375). -/
inductive RelayClass where
  | control | secure | job | log
  deriving DecidableEq, Repr

/-- A Relay frame (R374): its type, class, source, destination (none: BCAST), end-to-end sequence number and payload fields. -/
structure RelayFrame where
  kind : Nat
  cls : RelayClass
  src : Nat
  dst : Option Nat
  seqNo : BitVec 16
  body : List Nat
  deriving DecidableEq, Repr

/-- What the device sends: to the host, to other dies, to cards, to the flash, to the regulator, on pins. Kept in State, oldest
first, so that statements can speak of it. -/
inductive Tx where
  | read (die : Nat) (what : ReadOf) (addr : W64) (len : Nat) (pasid : Option (BitVec 20)) (noSnoop : Bool)
  | write (addr : W64) (data : List Byte) (pasid : Option (BitVec 20)) (noSnoop : Bool)
  | msg (addr : W64) (data : W32)
  | cfgReply (reg : Nat) (value : W32)
  | retryStatus
  | unsupported
  | completerAbort
  | readReply (value : W32)
  | drs
  | linkWidth (w : BitVec 5)
  | frame (port : Nat) (f : RelayFrame)
  | apdu (port : Nat) (ins : Nat) (data : List Byte)
  | cardPower (port : Nat) (cls : Nat)
  | sdCmd (cmd : Nat) (arg : Nat)
  | sdData (blk : Nat) (data : List Byte)
  | flashOp (op : Nat) (addr : Nat) (data : List Byte)
  | avs (die : Nat) (mv : Nat)
  | faultPulse
  | alert
  | smbus (data : List Byte)
  | nack
  | tap (reg : Nat) (value : Nat)
  deriving DecidableEq, Repr

end Sys2Proof.Machine
end

