-- ==== Sys2Proof/Machine/KeyState.lean ====
section
/-! DEFINITION. The state of the key vault and of the key and precompute cache (R149 to R182), and the content of the
battery-backed RAM that they commit to. Plain data, in parts. -/

namespace Sys2Proof.Machine

/-- The hierarchy a key belongs to: an instance number, or 0xFFFF for the owner-shared and device scopes. -/
abbrev OwnerId := Nat

/-- The owner-shared and device hierarchy. -/
def ownerShared : OwnerId := 0xFFFF

/-- What a slot keeps of its blob's header (R156). -/
structure KeyHdr where
  algId : W16
  usage : W32
  depth : Nat
  unbound : Bool
  parent : W32
  gen : W32
  counter : W16
  rangeFirst : W64
  rangeEnd : W64
  svnFw : Nat
  svnMc : Nat
  created : Nat
  deriving DecidableEq, Repr

/-- A key slot (R158, R160): the hierarchy, scope and index that match it, its header, its payload, the generations of its
ancestors recorded at load as (parent-table entry, generation) pairs (R166), the jobs that hold it, its recency, and whether it is to
be freed when its last holder ends (EVICT). -/
structure Slot where
  owner : OwnerId
  scope : Nat
  index : Nat
  hdr : KeyHdr
  payload : List Byte
  ancestry : List (Nat × W32)
  holders : List Nat
  lru : Nat
  dying : Bool
  deriving DecidableEq, Repr

/-- How a KPC entry is keyed (R173). -/
inductive KpcKey where
  | handle (scope index : Nat) (gen : W32)
  | ext (digest : List Byte)
  | tag (blobTag : List Byte)
  deriving DecidableEq, Repr

/-- A KPC allocation (R173, R174): an entry, a provisional copy of an EXT key, or the working space of a Classic McEliece
KEYGEN (R277), which no lookup matches. -/
inductive KpcUse where
  | entry | provisional | working
  deriving DecidableEq, Repr

/-- A KPC allocation of an instance. `block` is the subtree of leaves that the entry of a stateful key holds (R270); `keep` the units that are left
when the KEYGEN that fills it ends well (R277); `hier` and `ancestry` the hierarchy of its key and the generations of the key's ancestors, with which it goes when
one of them is revoked (R166). -/
structure KpcEntry where
  owner : OwnerId
  key : KpcKey
  use : KpcUse
  units : Nat
  keep : Nat
  bytes : List Byte
  block : Nat
  holders : List Nat
  lru : Nat
  hier : OwnerId
  ancestry : List (Nat × W32)
  deriving DecidableEq, Repr

/-- A counter record of the BBRAM (R167): KEY_ID, the hierarchy whose quota it is charged to, NEXT and END. -/
structure CounterRec where
  keyId : List Byte
  owner : OwnerId
  next : Nat
  stop : Nat
  deriving DecidableEq, Repr

/-- The derived values a die holds (R149): none before the derivation. Seeds stand for the key pairs of R149. -/
structure Derived where
  cdi0 : List Byte
  cdi2 : List Byte
  deviceId : List Byte
  alias_ : List Byte
  dsk : List Byte
  sealId : List Byte
  deriving DecidableEq, Repr

/-- The key vault of a die. `prevDsk` is the previous sealing key with its SEAL_ID (R153; a reset wipes it, DEDUCED, log 129); `lruClock` orders slot use. -/
structure Kvd where
  derived : Option Derived
  prevDsk : Option (List Byte × List Byte)
  mfw : List Byte
  mmc : List Byte
  svnFw : Nat
  svnMc : Nat
  slots : Assoc Slot
  lruClock : Nat
  deriving DecidableEq, Repr

end Sys2Proof.Machine
end

