-- ==== Sys2Proof/Machine/InstState.lean ====
section
/-! DEFINITION. The state of the virtual instances (R345 to R369): the instance table of die 0's VIM, the portal pages
(R61), and the loaded curves and transient slots that belong to an instance. Plain data, in parts. -/

namespace Sys2Proof.Machine

/-- The states of an instance number (R345). -/
inductive InstCode where
  | free | held | reserved | active | resetting | freezing | frozen | saved | destroying
  deriving DecidableEq, Repr

/-- The code of R345. -/
def InstCode.code : InstCode → Nat
  | .free => 0 | .held => 1 | .reserved => 2 | .active => 3 | .resetting => 4 | .freezing => 5 | .frozen => 6
  | .saved => 7 | .destroying => 8

/-- The portal is live in these states (R345). -/
def InstCode.live : InstCode → Bool
  | .active | .resetting | .freezing | .frozen => true
  | .free | .held | .reserved | .saved | .destroying => false

/-- What INST_CREATE binds (R348, R350). `homes` gives, for each queue pair, its home die and queue context. -/
structure InstCfg where
  pasid : BitVec 20
  share : Nat
  dies : Byte
  homes : List (Nat × Nat)
  blobTbl : W64
  blobTblSize : Nat
  slotQ : Nat
  extentQ : Nat
  kpcQ : Nat
  ctxQ : Nat
  counterQ : Nat
  ownerKey : List Byte
  deriving DecidableEq, Repr

/-- Nothing bound. -/
def InstCfg.none : InstCfg := ⟨0, 0, 0, [], 0, 0, 0, 0, 0, 0, 0, []⟩

/-- A loaded curve (R92, R297): the bit length of p and the record's bytes. -/
structure CurveRec where
  fieldBits : Nat
  record : List Byte
  deriving DecidableEq, Repr

/-- The mailbox of a portal (R355, R356). `bufWait` says that the read of a SEND's buffer waits for the function (R46), `bufData` what was read and
waits to be written to the manager's area. -/
structure Mailbox where
  toMgr : List W32
  fromMgr : List W32
  out : List W32
  toFull : Bool
  fromFull : Bool
  overflow : Bool
  overflowOut : Bool
  bufBusy : Bool
  bufErr : Bool
  buf : Bool
  bufData : Option (List Byte)
  deriving DecidableEq, Repr

/-- An empty mailbox (R61). -/
def Mailbox.reset : Mailbox :=
  ⟨List.replicate 16 0, List.replicate 16 0, List.replicate 16 0, false, false, false, false, false, false, false, none⟩

/-- Key staging and attestation registers of a portal (R61, R162, R177). `attJob` is the job of die 0 that works out a response. -/
structure PortalKeys where
  ksData : List W32
  ksState : BitVec 2
  ksSlot : Nat
  ksErr : Byte
  ksCmd : W32
  ksKey : List Byte
  attChal : List W32
  attState : BitVec 2
  attCode : W16
  attMsg : List Byte
  attVerifier : Nat
  attResp : List Byte
  attJob : Option Nat
  deriving DecidableEq, Repr

/-- The reset values of those registers. -/
def PortalKeys.reset : PortalKeys :=
  ⟨List.replicate 16 0, 0, 0, 0, 0, [], List.replicate 8 0, 0, 0, [], 0, List.replicate 64 0, none⟩

/-- A portal page (R61) beside its queue registers, which live in the queue contexts. -/
structure Portal where
  evtPend : W32
  evtEn : W32
  jobSel : W32
  jobSelSet : Bool
  mb : Mailbox
  keys : PortalKeys
  deriving DecidableEq, Repr

/-- A portal page at its reset values. -/
def Portal.reset : Portal := ⟨0, 0, 0, false, Mailbox.reset, PortalKeys.reset⟩

/-- What an instance is going through: the freeze and the destroy job that wait for it (die, job), whether a reset request waits for
acceptance (R357, R359), the RETIRE of a destroy that the reset in progress ends in (R351). -/
structure InstWork where
  freezeJob : Option (Nat × Nat)
  destroyJob : Option (Nat × Nat)
  resetWaiting : Bool
  retire : Bool
  deriving DecidableEq, Repr

/-- Nothing in progress. -/
def InstWork.idle : InstWork := ⟨none, none, false, false⟩

/-- One instance number of the VIM's table; `svnFw` and `svnMc` are the highest SVNs that its loaded blobs record (R364). -/
structure Inst where
  code : InstCode
  cfg : InstCfg
  portal : Portal
  transients : Assoc Transient
  curves : Assoc CurveRec
  token : Option (List Byte)
  work : InstWork
  jobs : W32
  busy : W32
  svnFw : Nat
  svnMc : Nat
  deriving DecidableEq, Repr

/-- A FREE instance number. -/
def Inst.free : Inst := ⟨.free, InstCfg.none, Portal.reset, [], [], none, InstWork.idle, 0, 0, 0, 0⟩

/-- The BBRAM record of an instance number (R347): HELD and OWNER_ID; ROOT_VERSION is in its `RootRec`. -/
structure InstRec where
  held : Bool
  ownerId : List Byte
  root : RootRec
  deriving DecidableEq, Repr

/-- A contender of the scheduler (R352): an instance, or the manager queues of the die. -/
inductive Contender where
  | inst (n : Nat) | mgr
  deriving DecidableEq, Repr

/-- The weighted deficit round robin of one engine class on one die (R352): each contender's deficit in ns, the last contender granted, and of each contender, by
its number, the queue granted last (R127); the shares and the quantum of the last round start, which stay in force until the next one (R354, R369). -/
structure Dwrr where
  deficits : List (Contender × Int)
  last : Option Contender
  lastQueue : Assoc Nat
  shares : Assoc Nat
  quantum : Option Nat
  deriving DecidableEq, Repr

end Sys2Proof.Machine
end

