-- ==== Sys2Proof/Machine/EngineState.lean ====
section
/-! DEFINITION. The state of the engines beside the LVE's own: the cycle-class map and fence of an engine (R229 to R234,
R247, R286), the lanes of a BNE (R280 to R303), the SYE (R304 to R314), the MHA (R315, R316), the RNG (R318 to R322) and the DMX
(R327 to R344). Plain data, in parts. -/

namespace Sys2Proof.Machine

/-- The map side of an engine: the job map in force, a held request (map and skip pattern), the skip pattern in force, whether
a probe map is installed, whether the Pacer has withdrawn the engine. -/
structure EngineMap where
  cyc : W32
  next : Option (W32 × W16)
  skip : W16
  probeMap : Option W32
  probe : Bool
  deriving DecidableEq, Repr

/-- The service side of an engine: the cause of the fence in force (R249, R303, R324; 0 for none), a fence requested while a job
runs, whether UNFENCE self-tests run, the bytes in its masking buffer (R22), its engine time below one unit of BUSY_TIME,
whether its clock is frozen by a dip (R423), the microwords below one unit of UW_COUNT (R249), and whether the wipe after its last job still runs (R196; DESIGN CHOICE, log 31). -/
structure EngineSvc where
  fence : BitVec 3
  fenceReq : BitVec 3
  selfTest : Bool
  maskBuf : Nat
  busyFrac : Nat
  frozen : Bool
  uwFrac : Nat
  wiping : Bool
  deriving DecidableEq, Repr

/-- In service, nothing counted. -/
def EngineSvc.fresh : EngineSvc := ⟨0, 0, false, 0, 0, false, 0, false⟩

/-- An LVE with its sequencer's map and its service state, and the job whose KPC fill it recomputes (R174). -/
structure LveUnit where
  eng : Lve
  map : EngineMap
  svc : EngineSvc
  fill : Option Nat
  deriving DecidableEq, Repr

/-- A lane of a BNE (R280, R300): the job in it, staged or running; its last owner (none: the manager or nobody, see `lastMgr`),
whether it is unwiped since, and whether a wipe runs. Its operands are the job's own data (DESIGN CHOICE, log 136). -/
structure BneLane where
  job : Option Nat
  staged : Bool
  lastInst : Nat
  lastMgr : Bool
  held : Bool
  wiping : Bool
  deriving DecidableEq, Repr

/-- A wiped lane. -/
def BneLane.clear : BneLane := ⟨none, false, 0, false, false, false⟩

/-- A BNE: its two lanes, the lane of the running job, whether it is reserved between legs, the legs run by the current operation. -/
structure BneUnit where
  lane0 : BneLane
  lane1 : BneLane
  running : Option Bool
  betweenLegs : Bool
  legs : Nat
  map : EngineMap
  svc : EngineSvc
  deriving DecidableEq, Repr

/-- A context slot of an SYE (R308): the job it belongs to, the segments done and the segments of the job, and whether it is a digest for
a BNE job. -/
structure SyeCtx where
  job : Nat
  done : Nat
  total : Nat
  digest : Bool
  deriving DecidableEq, Repr

/-- An SYE: its context slots, the slot whose segment runs, the job that holds the hold buffer. -/
structure SyeUnit where
  ctxs : Assoc SyeCtx
  running : Option Nat
  hold : Option Nat
  svc : EngineSvc
  deriving DecidableEq, Repr

/-- The states of a measurement (R325). -/
inductive MeasState where
  | idle | open_ | done | error
  deriving DecidableEq, Repr

/-- The Measurement Hasher (R315, R316): the bytes hashed (the message so far), the current range and its next expected
address, the result of the last command, the ranges appended. -/
structure Mha where
  state : MeasState
  result : BitVec 3
  msg : List Byte
  rangeEnd : Nat
  nextAddr : Nat
  ranges : Nat
  digest : List Byte
  deriving DecidableEq, Repr

/-- The RNG (R318 to R322): the streams passing, DRBG instantiated, feed running, start-up tests rerunning, disabled; conditioned blocks;
requests since the last reseed; masking bytes since the feed's reseed and below one KiB; the buffer last served. -/
structure Rng where
  noiseOk : Bool
  drbgReady : Bool
  feedRun : Bool
  recovering : Bool
  disabled : Bool
  pool : Nat
  reqs : Nat
  feedBytes : Nat
  feedFrac : Nat
  feedLast : Nat
  deriving DecidableEq, Repr

/-- The states of a DMX channel (R344 CH_STATE): idle, active, waiting for pacing, stopped at a boundary, held under R46. -/
inductive ChState where
  | idle | active | pacing | stopped | held
  deriving DecidableEq, Repr

/-- A DMX channel with its current descriptor (R328, R344): its job and which part of it moves, owner, kinds and transform, the bytes of the transfer not
yet acknowledged, the bytes of it that are, the bytes of the current descriptor that have come and those of its reads outstanding, its OFFLINE bit and the
descriptors completed. -/
structure Channel where
  state : ChState
  job : Option Nat
  part : Nat
  inst : Nat
  mgr : Bool
  dev : Bool
  srcKind : Nat
  dstKind : Nat
  xform : Nat
  fieldBytes : Nat
  remain : Nat
  pos : Nat
  got : Nat
  asked : Nat
  offline : Bool
  descs : W32
  deriving DecidableEq, Repr

/-- An idle channel. -/
def Channel.idle : Channel := ⟨.idle, none, 0, 0, false, false, 0, 0, 0, 0, 0, 0, 0, 0, false, 0⟩

/-- A read of channel 12 (R327): of the KVD, or of a mailbox buffer, with its owner; `sent` once its requests have gone out. The first one of a die is the
channel's current descriptor. -/
structure KvdRead where
  what : ReadOf
  addr : W64
  len : Nat
  pasid : Option (BitVec 20)
  noSnoop : Bool
  inst : Nat
  mgr : Bool
  sent : Bool
  deriving DecidableEq, Repr

end Sys2Proof.Machine
end

