-- ==== Sys2Proof/Machine/PackState.lean ====
section
/-! DEFINITION. The state the dies share: Relay ports and the election (R371 to R391), fault collection (R437 to R445), the audit
log (R448 to R456), tamper sensing and the battery domain (R418 to R436), and the Pacer (R461 to R473). Plain data, in parts. -/

namespace Sys2Proof.Machine

/-- The states of a Relay port (R391 LINK_STATUS.STATE). -/
inductive PortState where
  | absent | training | up | down | peerExcluded
  deriving DecidableEq, Repr

/-- A Relay port of a die: its state, consecutive failed replays of the frame in flight, and whether the 10 ms retraining window
has passed, so that it stays DOWN until WARM or COLD reset (R376). -/
structure RlkPort where
  state : PortState
  replays : Nat
  stuck : Bool
  retraining : Bool
  deriving DecidableEq, Repr

/-- A vote of the election (R381). -/
structure Vote where
  pass : Bool
  code : Nat
  share : List Byte
  deriving DecidableEq, Repr

/-- The outcome of an election (R391 BATON.RESULT): in progress, clean, split baton, no holder. -/
inductive BatonResult where
  | electing | clean | split | noHolder
  deriving DecidableEq, Repr

/-- The Baton (R381 to R391): the result, the holder, the agreed life-cycle code, ELECT_NONCE; by receiving die the votes and the accepts that it holds, its own
among them; the holder that has broadcast COMMIT; the outstanding JOINs with their shares, and the die sets. -/
structure Baton where
  result : BatonResult
  holder : Option Nat
  code : Nat
  nonce : List Byte
  votes : Assoc (Assoc Vote)
  accepts : Assoc (Assoc AcceptMsg)
  committed : Option Nat
  joins : Assoc (List Byte)
  present : Assoc Unit
  reachable : Assoc Unit
  excluded : Assoc Unit
  deriving DecidableEq, Repr

/-- A source's heat window (R440): sixteen slice counts, the newest first, and whether its counting is withheld. -/
structure Heat where
  slices : List Nat
  deriving DecidableEq, Repr

/-- The Fault Collector of a die (R437 to R445, R458): a sticky and a SEVERE bit per source, the heat configuration where it differs from
the shipped one, heat windows, pending configuration writes, the groups under HANDLING. -/
structure Fcl where
  sticky : Assoc Unit
  severe : Assoc Unit
  cfg : Assoc W32
  cfgNext : Assoc W32
  heat : Assoc Heat
  handling : Assoc Unit
  deriving DecidableEq, Repr

/-- The FAULT_N pin (R445, R458 FAULT_STATE): driven by DRIVE, by the pulse timer, by the reset hold, by the want of a holder. -/
structure FaultPin where
  pulse : Bool
  resetHold : Bool
  noHolder : Bool
  deriving DecidableEq, Repr

/-- What commits when the audit log accepts an entry (R449): nothing more, or a register write of a die window. -/
inductive Change where
  | none
  | reg (die off : Nat) (value : W32)
  deriving DecidableEq, Repr

/-- An entry offered to the arbiter (R450, R452): its fields, the bytes its DIGEST covers, whether R456 may refuse it, the change that
commits on acceptance, and whether it reports the oldest tamper-record entry not yet reported (R428). -/
structure Offer where
  kind : Nat
  die : Nat
  inst : Nat
  pasid : Option (BitVec 20)
  rid : W16
  event : Nat
  object : Nat
  result : Nat
  digestOf : List Byte
  refusable : Bool
  change : Change
  fromRecord : Bool
  deriving DecidableEq, Repr

/-- What the log buffer holds (R450, R454): an entry of one slot, or a CHECKPOINT entry with the 73 slots that its signature fills once it
is complete. -/
inductive LogSlot where
  | entry (bytes : List Byte)
  | checkpoint (bytes : List Byte) (chain : List Byte) (signature : Option (List Byte))
  deriving DecidableEq, Repr

/-- Slots of the buffer that it takes. -/
def LogSlot.size : LogSlot → Nat
  | .entry _ => 1
  | .checkpoint _ _ _ => 74

/-- The audit log of the holder (R448 to R456, R460): entries offered and not accepted, the buffer, entries accepted in this boot, H of the last
entry, entries since the last checkpoint, SEQ of the last checkpoint entry and of the last signed one, whether a checkpoint is due, a
signature runs, a drain runs, entries not placed, STOPPED. -/
structure Alg where
  offers : List Offer
  slots : List LogSlot
  seqNo : Nat
  chain : List Byte
  sinceCkpt : Nat
  prevCkpt : Option Nat
  ckptSeq : Nat
  ckptDue : Bool
  signing : Bool
  draining : Option (Nat × Nat)
  missed : Nat
  stopped : Bool
  deriving DecidableEq, Repr

/-- The response level of the package (R435 STATUS.LEVEL). -/
inductive TmLevel where
  | normal | throttle | lock | erased
  deriving DecidableEq, Repr

/-- The Tamper Monitor of a die (R418 to R425, R435): key bus gated, dip in progress, conditions present (bit c - 1 for class c), THROTTLE in
force and its 1 s release timer running, the junction temperature once measured and the highest since TEMP_MAX was read, the VCORE
set-point last requested. -/
structure Tmn where
  gated : Bool
  dip : Bool
  active : W32
  throttle : Bool
  throttleEnd : Bool
  temp : Option (BitVec 11)
  tempMax : Option (BitVec 11)
  mv : Nat
  deriving DecidableEq, Repr

/-- An entry of the tamper record (R428): twelve bytes. -/
abbrev TamperEntry := List Byte

/-- The battery domain of die 0 (R426 to R436). `lost` says that VBAT was lost since the last content check (R428); `map0`, `map1`
are the response map that it applies while main power is absent (R427). -/
structure Bbd where
  powered : Bool
  rtc : W64
  rtcHi : W32
  mono : W64
  monoHi : W32
  lock : Bool
  split : Bool
  contentOk : Bool
  lost : Bool
  osk : Option (List Byte)
  map0 : W32
  map1 : W32
  tmpCfg : W32
  tmpState : BitVec 4
  tmpCount : List Nat
  record : List TamperEntry
  overflow : BitVec 8
  low : Bool
  deriving DecidableEq, Repr

/-- An ageing record of the BBRAM (R471); a record that is listed has VALID set and its CHECK right. Temperatures in quarter degrees. -/
structure AgeRec where
  stress : Nat
  mv : Nat
  baseMv : Nat
  lveStretch : W32
  bneStretch : W16
  marginBase : Int
  marginNorm : Int
  degPpm : Nat
  tjMean : Int
  marginYears : Nat
  updated : W32
  exhausts : W16
  deriving DecidableEq, Repr

/-- What the BBRAM keeps beside the flags (R426, R150, R164, R167, R347, R471): the owner-shared root, the instance records, the counter records, the
roster digest, the tamper configuration SEQ, the ageing records by die. -/
structure Bbram where
  ownerRoot : RootRec
  insts : Assoc InstRec
  counters : Assoc CounterRec
  roster : List Byte
  tmpSeq : Nat
  ages : Assoc AgeRec
  deriving DecidableEq, Repr

/-- The Pacer's view of one engine (R463 to R468, R476): the last probe's margins by class in eighths, which classes had REQ + 8 in it, its REQ, seconds
since it, HOLD, SKIPPED, NEVER, and the slack of the window. -/
structure PcrEngine where
  margin : List Int
  wide : List Bool
  req : Int
  age : Nat
  hold : Bool
  skipped : Bool
  never : Bool
  slack : Nat
  deriving DecidableEq, Repr

/-- A probe: the engine withdrawn, whether its probe map is installed, TMN.TEMP at its start in quarter degrees (R464 to R466). -/
structure Probe where
  engine : Nat
  started : Bool
  temp : Int
  deriving DecidableEq, Repr

/-- The Pacer of a die (R461 to R473). `order` is the probe order; `setMv` the set-point in force; `ramping` the target of a VCORE step not yet
completed, `awaiting` whether its write awaits the regulator; `exhausted` counts VCORE as at VMAX; `stress` whole hours and `stressFrac` the
rest in units of 2^-32 / 60 h; `minutes` the mean and the highest temperature of each minute of the last 30 days of operation, newest first,
`minuteMax` the highest of the minute under way. -/
structure Pcr where
  engines : List PcrEngine
  order : List Nat
  probing : Option Probe
  setMv : Nat
  ramping : Option Nat
  awaiting : Bool
  avsFail : Bool
  avsTries : Nat
  exhausted : Bool
  stress : Nat
  stressFrac : Nat
  degPpm : Nat
  skipLevel : Nat
  marginYears : Nat
  marginBase : Option Int
  marginNorm : Int
  minutes : List (Int × Int)
  minuteMax : Option Int
  slackMin : Nat
  exhausts : W16
  deriving DecidableEq, Repr

end Sys2Proof.Machine
end

