-- ==== Sys2Proof/Machine/BoardState.lean ====
section
/-! DEFINITION. The state of the board-facing blocks: custodian card ports and the quorum (R393 to R404), the backup media port
and the transfer it serves (R405 to R414), the life-cycle fuses and a running transition (R477 to R490), boot and the boot flash
(R491 to R500), test access (R496), pins and the management port (R501 to R516). Plain data, in parts. -/

namespace Sys2Proof.Machine

/-- The states of a card port (R416 STATUS.STATE). -/
inductive CardState where
  | empty | activating | negotiating | authenticating | authenticated | refused | deactivating | disabled
  deriving DecidableEq, Repr

/-- The code of R416. -/
def CardState.code : CardState → Nat
  | .empty => 0 | .activating => 1 | .negotiating => 2 | .authenticating => 3 | .authenticated => 4 | .refused => 5
  | .deactivating => 6 | .disabled => 7

/-- What a port waits for (R394 to R400): nothing, the debounce of an insertion, the ATR, the PPS response, the response to one
of the five applet commands. -/
inductive CardWait where
  | none | debounce | atr | pps | select | info | auth | share | endSession
  deriving DecidableEq, Repr

/-- The electrical and protocol side of a port. `cls` as Cn_VSEL (R393); `noPps` marks the second attempt of R396; `holdNext`
the class to activate when the 10 ms without VCC end (R394); `clkStop` what the ATR indicates (R398). -/
structure CardLink where
  cls : Nat
  t1 : Bool
  fi : Nat
  di : Nat
  ifsc : Nat
  noPps : Bool
  holdNext : Option Nat
  ppsByte : Byte
  clkStop : Bool
  clkHigh : Bool
  clkStopped : Bool
  bwtMult : Nat
  vcc : Bool
  deriving DecidableEq, Repr

/-- An unpowered interface. -/
def CardLink.off : CardLink := ⟨0, false, 0, 0, 0, false, none, 0, false, false, false, 1, false⟩

/-- The applet session of a card (R400): what GET_INFO returned, the challenge, the ephemeral key pair, the session key, and the share
held (index and 32 bytes). -/
structure CardSession where
  cardId : List Byte
  index : Nat
  pubKey : List Byte
  challenge : List Byte
  ek : List Byte
  dk : List Byte
  sk : List Byte
  nonce : List Byte
  share : Option (Nat × List Byte)
  deriving DecidableEq, Repr

/-- No session. -/
def CardSession.none : CardSession := ⟨[], 0, [], [], [], [], [], [], Option.none⟩

/-- A card port. -/
structure CardPort where
  state : CardState
  wait : CardWait
  detLow : Bool
  present : Bool
  reason : Byte
  link : CardLink
  session : CardSession
  deriving DecidableEq, Repr

/-- An empty port. -/
def CardPort.empty : CardPort := ⟨.empty, .none, false, false, 0, CardLink.off, CardSession.none⟩

/-- An entry of the roster (R402). -/
structure RosterEntry where
  cardId : List Byte
  keyDigest : List Byte
  index : Nat
  deriving DecidableEq, Repr

/-- The roster (R402). -/
structure Roster where
  m : Nat
  n : Nat
  check : List Byte
  entries : List RosterEntry
  deriving DecidableEq, Repr

/-- The quorum (R403, R404): QTK while present, the ports whose shares it was made from, seconds left of the idle timer. -/
structure Quorum where
  present : Bool
  qtk : List Byte
  ports : List Nat
  idle : Nat
  deriving DecidableEq, Repr

/-- No quorum. -/
def Quorum.absent : Quorum := ⟨false, [], [], 0⟩

/-- The four ports, the roster in force (provisional during R481), the quorum. -/
structure Cards where
  ports : List CardPort
  roster : Option Roster
  provisional : Bool
  quorum : Quorum
  deriving DecidableEq, Repr

/-- The states of the backup card (R417 STATUS.STATE). -/
inductive BkState where
  | empty | powering | identifying | ready | transfer | busy | error | powerOff
  deriving DecidableEq, Repr

/-- The code of R417. -/
def BkState.code : BkState → Nat
  | .empty => 0 | .powering => 1 | .identifying => 2 | .ready => 3 | .transfer => 4 | .busy => 5 | .error => 6 | .powerOff => 7

/-- What the backup port transfers for a job (R411 to R414): the job, the direction, the step, the bytes of the record under way, the
block under way in it, its first LBA, the blocks of the volume, C of the chain, the volume's identity, the records still to
do ((number, handle) or (INDEX, number of its pair)), `checking` that no transfer is outstanding, whether it waits for reinsertion and what is left of the window. -/
structure BkJob where
  die : Nat
  job : Nat
  exporting : Bool
  step : Nat
  record : List Byte
  block : Nat
  lba : Nat
  blocks : Nat
  chain : List Byte
  header : List Byte
  volumeId : List Byte
  created : Nat
  items : List (Nat × Nat)
  parent : Nat
  records : Nat
  done : Nat
  checking : Bool
  waiting : Bool
  deriving DecidableEq, Repr

/-- The backup media port. -/
structure Bmp where
  state : BkState
  detLow : Bool
  present : Bool
  mode : Nat
  wide : Bool
  s18 : Bool
  capacity : Nat
  blocks : Nat
  volState : Nat
  volId : List Byte
  volRecords : Nat
  clkStopped : Bool
  retries : Nat
  op : Option BkJob
  deriving DecidableEq, Repr

/-- An empty port. -/
def Bmp.empty : Bmp := ⟨.empty, false, false, 0, false, false, 0, 0, 0, [], 0, true, 0, none⟩

/-- The fuses of a die (R478). `cycLve`, `cycBne`, `vcoreBase` are the fields of TRIM that this manual uses; `scrapDone` says that
every overwrite of R489 is complete. -/
structure Fuses where
  lc : W64
  uid : W64
  seed : List Byte
  helper : List Byte
  kpatch : List Byte
  kpair : List Byte
  cycLve : W32
  cycBne : W32
  vcoreBase : Nat
  ownerDigest : Option (List Byte)
  roster : Option (List Byte)
  scrapDone : Bool
  deriving DecidableEq, Repr

/-- Fuses with no bit burned, and the shipped maps of R249 and R303. -/
def Fuses.blank : Fuses := ⟨0, 0, [], [], [], [], 0x00042000, 0, 800, none, none, false⟩

/-- A transition (R482, R499 XFER): its phase, target, the bits still to burn in ascending order, bits done and to do, the job that
ordered it (die, job) unless a reset of R43 withdrew its completion, and whether it waits for a quorum to provision (R481). -/
structure Transition where
  phase : Nat
  target : Nat
  left : List Nat
  done : Nat
  total : Nat
  job : Option (Nat × Nat)
  waitQuorum : Bool
  input : List Byte
  deriving DecidableEq, Repr

/-- The Life-cycle Controller of the package: the transition under way, the result of the last one (R499 XFER.RESULT), a WARM source that waits
for the current bit, and the status with which burning is to stop after it (R483). -/
structure Lcc where
  xfer : Option Transition
  result : Nat
  deferred : Option Nat
  stop : Option W16
  deriving DecidableEq, Repr

/-- Where a die stands in the boot sequence (R491, R515): last completed step, failed step, reason, cause and kind of its last reset,
its self-test verdict, BOOT_TIME. -/
structure BootStat where
  step : Nat
  failed : Nat
  reason : Nat
  cause : Nat
  kind : Nat
  pass : Bool
  time : W16
  deriving DecidableEq, Repr

/-- Whether a die is held in reset, boots or rejoins, runs, or is lost, in DIE reset, excluded (R382, R385, R387, R421). -/
inductive DieState where
  | inReset | booting | running | lost | dieReset | joining | excluded
  deriving DecidableEq, Repr

/-- The patch set a die has loaded (R241 to R249): state, reason, images, SVN, words, vectors, measurement. -/
structure PatchSet where
  state : Nat
  reason : Nat
  images : Nat
  svn : Nat
  words : Nat
  vectors : Nat
  measure : List Byte
  refreshes : Nat
  refreshPending : Bool
  ram : Assoc (BitVec 36)
  targets : Assoc Nat
  vendor : Assoc (List W64)
  deriving DecidableEq, Repr

/-- ROM only. -/
def PatchSet.none : PatchSet := ⟨0, 0, 0, 0, 0, 0, [], 0, false, [], [], []⟩

/-- An active owner program (R217 to R221), with the public key that its signature verified under, for the boots to come (R219). -/
structure OwnerProgram where
  inst : Nat
  svn : Nat
  hash : List Byte
  image : List Byte
  key : List Byte
  deriving DecidableEq, Repr

/-- A directory entry of the boot flash (R494). -/
structure DirEntry where
  type : Nat
  die : Nat
  base : Nat
  len : Nat
  deriving DecidableEq, Repr

/-- The Boot Flash Interface (R493 to R500): interface mode, directory copy in use, fallback boot, SEQ, its entries, the programming
command being run (opcode and entry), its 64 data words, result state and error. -/
structure Bfi where
  mode : Nat
  copy : Nat
  fallback : Bool
  seq : Nat
  entries : List DirEntry
  running : Option (Nat × Nat)
  data : Assoc W32
  state : Nat
  err : Byte
  deriving DecidableEq, Repr

/-- What the seal area of the boot flash keeps for the device (R178, R419, R481, R488): the owner key, the roster, the tamper configuration record, the
device certificate, the pending migration record, the M_FW an image must have for it. -/
structure Seal where
  ownerKey : List Byte
  roster : Option Roster
  tamperCfg : List Byte
  deviceCert : List Byte
  migration : List Byte
  programs : Assoc OwnerProgram
  deriving DecidableEq, Repr

/-- Pins and what the package remembers of its own state: power and reset inputs, READY, ALIVE and its heartbeat (R505), FAULT_N (R445),
LOCK and ERASE (R422), whether the boot was a COLD one, a boundary instruction held (R496), the last STATE word and MG_ALERT_N (R509), the dies
whose rail is at RESET (R421), sources SEVERE since boot, VBAT in mV. -/
structure Pkg where
  pwrgood : Bool
  perstN : Bool
  ready : Bool
  alive : Bool
  aliveFresh : Bool
  fault : FaultPin
  lock : Bool
  erased : Bool
  coldBoot : Bool
  serving : Bool
  boundary : Bool
  stateWord : W16
  alertLow : Bool
  railsLow : List Nat
  severes : Nat
  vbatMv : Nat
  deriving DecidableEq, Repr

/-- A TAP of a die (R496): the instruction in force. -/
abbrev TapIr := BitVec 8

end Sys2Proof.Machine
end

