-- ==== Sys2Proof/Machine/State.lean ====
section
/-! DEFINITION. State: everything the manual gives the package, as plain data. The parts are in Machine/LveState, HostState,
KeyState, InstState, EngineState, PackState and BoardState; here they are put together as a die and a package, with the
commands that wait, and with the state that COLD reset leaves. -/

namespace Sys2Proof.Machine

/-- The part number (R1): it fixes the number of dies. -/
inductive Part where
  | vq8100 | vq8200 | vq8400 | vq8800
  deriving DecidableEq, Repr

/-- Dies in the package (R1). -/
def Part.dies : Part → Nat
  | .vq8100 => 1 | .vq8200 => 2 | .vq8400 => 4 | .vq8800 => 8

/-- The part number (R35, R496). -/
def Part.number : Part → Nat
  | .vq8100 => 0x8100 | .vq8200 => 0x8200 | .vq8400 => 0x8400 | .vq8800 => 0x8800

/-- One die (R20). `regs` holds the page registers that are plain storage, by window offset (R53); what an unlisted one reads as is in
Machine/Regs. `queues` are the contexts of the QMG, `sched` the round robins by engine class, `jobs` the jobs of the
die by a number that `nextJob` gives; `orphan` says that it has lost the holder's heartbeats (R380), `resetReq` that the manager has ordered its DIE reset
(R391), `logOut` holds its entries not yet sent to the holder in LOG frames (R389); `xferQueue` holds the transfers (job, part) that wait for a channel in the order of
their requests, `kvdReads` the reads of channel 12 (R327), `rdRest` and `wrRest` host bytes moved that make no KiB yet (R344); `seqs` the next SEQ of each
stream of Relay frames (R374), `beats` the heartbeats sent (R379), `secured` the counter of SECURE frames (R378). -/
structure Die where
  state : DieState
  boot : BootStat
  fuses : Fuses
  regs : Assoc W32
  lves : List LveUnit
  bnes : List BneUnit
  syes : List SyeUnit
  rng : Rng
  kvd : Kvd
  kpc : Assoc KpcEntry
  queues : Assoc Queue
  sched : Assoc Dwrr
  jobs : Assoc Job
  nextJob : Nat
  chans : List Channel
  xferQueue : List (Nat × Nat)
  kvdReads : List KvdRead
  rdRest : Nat
  wrRest : Nat
  mha : Mha
  tmn : Tmn
  fcl : Fcl
  pcr : Pcr
  ports : List RlkPort
  patch : PatchSet
  programs : Assoc OwnerProgram
  tap : TapIr
  orphan : Bool
  resetReq : Bool
  logOut : List Offer
  seqs : Assoc (BitVec 16)
  beats : Nat
  secured : Nat
  deriving DecidableEq, Repr

/-- The package. `tx` is everything the device has sent, oldest first; `freeCtr` numbers the draws from the free values (not the
manual's: the model's own); `waitTx` holds the host writes that wait under R46; `flash` what the boot flash holds and what a boot meets, as a command last gave it; `pending` the commands that wait, first in, first out. -/
structure State where
  part : Part
  dies : List Die
  hif : Hif
  msix : Msix
  evr : Evr
  insts : Assoc Inst
  bbd : Bbd
  bbram : Bbram
  baton : Baton
  alg : Alg
  cards : Cards
  bmp : Bmp
  lcc : Lcc
  bfi : Bfi
  store : Seal
  flash : BootIn
  pkg : Pkg
  tx : List Tx
  waitTx : List Tx
  freeCtr : Nat
  pending : List Instr
  deriving DecidableEq, Repr

/-- Why the machine stops: the command names a die or an engine that the part does not have. Raised by the LVE instructions, whose
operands name the engine that runs them. Safe: a run ends where the hardware has nothing that could go on. -/
inductive Fault where
  | noSuchUnit
  deriving DecidableEq, Repr

/-- Why a command has no meaning. -/
inductive Refusal where
  /-- No meaning yet; raised by the dispatch alone. Safe. -/
  | notModelled (mnemonic : String)
  /-- An LVE instruction word that R198 calls invalid: it is rejected when a program is activated (R218) and never runs. Raised by the
  LVE instructions. Safe. -/
  | invalidInstruction
  deriving DecidableEq, Repr

/-- An LVE right after reset. -/
def LveUnit.reset (floor : W32) : LveUnit :=
  ⟨Lve.clear, ⟨floor, none, 0, none, false⟩, EngineSvc.fresh, none⟩

/-- A BNE right after reset. -/
def BneUnit.reset (floor : W32) : BneUnit :=
  ⟨BneLane.clear, BneLane.clear, none, false, 0, ⟨floor, none, 0, none, false⟩, EngineSvc.fresh⟩

/-- An SYE right after reset. -/
def SyeUnit.reset : SyeUnit := ⟨[], none, none, EngineSvc.fresh⟩

/-- The Pacer's view of an engine right after reset (R476: NEVER reads 1 until the first probe). -/
def PcrEngine.reset : PcrEngine := ⟨[], [], 0, 0, false, false, true, 0xFFF⟩

/-- A Pacer right after reset: VCORE at 800 mV (R435, R501). -/
def Pcr.reset (mv : Nat) : Pcr :=
  ⟨List.replicate 20 PcrEngine.reset, List.range 20, none, mv, none, false, false, 0, false, 0, 0, 0, 0, 0xFFFF, none, 0, [], none, 0, 0⟩

/-- A die held in reset after `cause` and `kind` (R515), with everything wiped (R511, R512); fuses as they are. -/
def Die.inReset (f : Fuses) (cause kind : Nat) : Die where
  state := .inReset
  boot := ⟨0, 0, 0, cause, kind, false, 0⟩
  fuses := f
  regs := []
  lves := List.replicate 16 (LveUnit.reset f.cycLve)
  bnes := List.replicate 4 (BneUnit.reset f.cycBne)
  syes := List.replicate 2 SyeUnit.reset
  rng := ⟨false, false, false, false, false, 0, 0, 0, 0, 0⟩
  kvd := ⟨none, none, [], [], 0, 0, [], 0⟩
  kpc := []
  queues := []
  sched := []
  jobs := []
  nextJob := 0
  chans := List.replicate 16 Channel.idle
  xferQueue := []
  kvdReads := []
  rdRest := 0
  wrRest := 0
  mha := ⟨.idle, 0, [], 0, 0, 0, []⟩
  tmn := ⟨true, false, 0, false, false, none, none, 800⟩
  fcl := ⟨[], [], [], [], [], []⟩
  pcr := Pcr.reset 800
  ports := [⟨.absent, 0, false, false⟩, ⟨.absent, 0, false, false⟩]
  patch := PatchSet.none
  programs := []
  tap := 1
  orphan := false
  resetReq := false
  logOut := []
  seqs := []
  beats := 0
  secured := 0

/-- The function before the link comes up. -/
def Hif.reset : Hif := ⟨.detect, 0, 0, 0, false, false, false, false, 0, false, 0, [], 0⟩

/-- The WARM value of MSI-X (R43). -/
def Msix.reset : Msix := ⟨false, false, [], []⟩

/-- The WARM value of the Event Router (R459). -/
def Evr.reset : Evr := ⟨[], [], [], []⟩

/-- An election not yet held. -/
def Baton.reset : Baton := ⟨.electing, none, 0, [], [], [], none, [], [], [], []⟩

/-- A log that accepts nothing yet (R460 STOPPED). -/
def Alg.reset : Alg := ⟨[], [], 0, [], 0, none, 0, false, false, none, 0, true⟩

/-- Empty card ports. -/
def Cards.reset : Cards := ⟨List.replicate 4 CardPort.empty, none, false, Quorum.absent⟩

/-- No transition. -/
def Lcc.reset : Lcc := ⟨none, 0, none, none⟩

/-- The boot flash interface not ready. -/
def Bfi.reset : Bfi := ⟨0, 0, false, 0, [], none, [], 0, 0⟩

/-- The BBRAM after a loss of VBAT (R428): nothing. -/
def Bbram.empty : Bbram := ⟨⟨0, []⟩, [], [], [], 0, []⟩

/-- The battery domain without VBAT. -/
def Bbd.off : Bbd := ⟨false, 0, 0, 0, 0, false, false, false, false, none, 0x2BE9AAAA, 0x8CAA, 0, 0, List.replicate 4 0, [], 0, false⟩

/-- Right after reset, for a part: COLD reset held with PWRGOOD low (R502), the battery domain right after VBAT was first applied (R426: RTC and MONO zero), every
fuse unburned, the flash areas of the device empty. -/
def State.resetOf (p : Part) : State where
  part := p
  dies := List.replicate p.dies (Die.inReset Fuses.blank 1 0)
  hif := Hif.reset
  msix := Msix.reset
  evr := Evr.reset
  insts := []
  bbd := { Bbd.off with powered := true }
  bbram := Bbram.empty
  baton := Baton.reset
  alg := Alg.reset
  cards := Cards.reset
  bmp := Bmp.empty
  lcc := Lcc.reset
  bfi := Bfi.reset
  store := ⟨[], none, [], [], [], []⟩
  flash := ⟨[], [], [], [], []⟩
  pkg := ⟨false, true, false, false, false, ⟨false, true, false⟩, false, false, true, false, false, 0, false, [], 0, 3000⟩
  tx := []
  waitTx := []
  freeCtr := 0
  pending := []

/-- The machine right after reset: the part with one die. -/
def State.reset : State := State.resetOf .vq8100

end Sys2Proof.Machine
end

