-- ==== Sys2Proof/Machine/Regs.lean ====
section
/-! DEFINITION. The register pages (R50 to R60, and the page rule of each block): which registers exist, their access codes, the bits a
write reaches, their COLD values and whether WARM reset keeps them; and reading and writing the stored ones. Registers that
show other state are computed in Machine/Views. -/

namespace Sys2Proof.Machine

/-! ### Block codes (R53) -/

/-- CRU. -/ abbrev CRU := 0x01
/-- SCU. -/ abbrev SCU := 0x02
/-- LCC. -/ abbrev LCC := 0x03
/-- FCL. -/ abbrev FCL := 0x04
/-- EVR. -/ abbrev EVR := 0x05
/-- ALG. -/ abbrev ALG := 0x06
/-- TMN. -/ abbrev TMN := 0x07
/-- BBD. -/ abbrev BBD := 0x08
/-- PCR. -/ abbrev PCR := 0x09
/-- RLK. -/ abbrev RLK := 0x0A
/-- HIF. -/ abbrev HIF := 0x0B
/-- QMG. -/ abbrev QMG := 0x0C
/-- VIM. -/ abbrev VIM := 0x0D
/-- KVD. -/ abbrev KVD := 0x0E
/-- KPC. -/ abbrev KPC := 0x0F
/-- LVE. -/ abbrev LVE := 0x10
/-- MCS. -/ abbrev MCS := 0x11
/-- BNE. -/ abbrev BNE := 0x12
/-- SYE. -/ abbrev SYE := 0x13
/-- MHA. -/ abbrev MHA := 0x14
/-- RNG. -/ abbrev RNG := 0x15
/-- DMX. -/ abbrev DMX := 0x16
/-- CIU. -/ abbrev CIU := 0x17
/-- BMP. -/ abbrev BMP := 0x18
/-- BFI. -/ abbrev BFI := 0x19
/-- MGI. -/ abbrev MGI := 0x1A

/-- Pages of a block per die (R53); zero for a code that no block has. -/
def pagesOf (blk : Nat) : Nat :=
  if blk = LVE ∨ blk = MCS then 16 else if blk = BNE ∨ blk = CIU then 4 else if blk = SYE ∨ blk = RLK then 2
  else if 1 ≤ blk ∧ blk ≤ 0x1A then 1 else 0

/-- Blocks whose pages are idle on every die but die 0 (R21, R426 for the BBD, R459 for the EVR tables). -/
def idleOff0 (blk : Nat) : Bool :=
  blk == HIF || blk == BFI || blk == CIU || blk == BMP || blk == MGI || blk == BBD || blk == EVR

/-- CAPS.BLOCK_CAPS of a block on a part, from the page rule of each block. -/
def blockCaps (p : Part) (blk : Nat) : Nat :=
  match blk with
  | 0x01 => 0x0004 | 0x03 => 0x0040 | 0x04 => 0x0480 | 0x05 => 0x0800 | 0x06 => 0x4000 | 0x07 => 0x0018 | 0x08 => 0x0010
  | 0x09 => 0x0014 | 0x0A => if p = .vq8100 then 0 else 0x0200
  | 0x0C => 0x1000 | 0x0D => 0x1000 | 0x0E => 0x0100 | 0x0F => 0x1000
  | 0x10 => 0x0040 | 0x11 => 0x0008 | 0x12 => if p = .vq8400 ∨ p = .vq8800 then 0x2021 else 0x2020
  | 0x13 => 0x0100 | 0x14 => 0x0030 | 0x15 => 0x0008 | 0x16 => 0x0310 | 0x17 => 0x0004 | 0x18 => 0x0014
  | 0x19 => 0x0010 | 0x1A => 0x005A
  | _ => 0

/-- Bits of EVT_PEND that a block has, from the page rule of each block. -/
def evtBits (blk : Nat) : Nat :=
  match blk with
  | 0x01 => 2 | 0x03 => 3 | 0x04 => 2 | 0x06 => 4 | 0x07 => 6 | 0x08 => 3 | 0x09 => 4 | 0x0A => 6
  | 0x0C => 3 | 0x0D => 4 | 0x0E => 4 | 0x0F => 1 | 0x10 => 4 | 0x11 => 3 | 0x12 => 3 | 0x13 => 2 | 0x14 => 2 | 0x15 => 3
  | 0x16 => 4 | 0x17 => 6 | 0x18 => 4 | 0x19 => 3 | 0x1A => 1
  | _ => 0

/-- The window offset of a register (R53). -/
def woff (blk inst o : Nat) : Nat := blk * 0x10000 + inst * 0x1000 + o

/-- The access codes of R12. `wo` and `ro` registers hold nothing of their own in `Die.regs`. -/
inductive Acc where
  | ro | rw | rwl | wo | w1c | w1s | rc
  deriving DecidableEq, Repr

/-- One row of a register map: first offset, how many words, access, the bits a write reaches, COLD value, kept through WARM reset. -/
structure RegRow where
  off : Nat
  count : Nat
  acc : Acc
  mask : Nat
  cold : Nat
  kept : Bool
  deriving DecidableEq, Repr

/-- A counter read with clear. -/
def rcRow (off : Nat) : RegRow := ⟨off, 1, .rc, 0, 0, false⟩
/-- A register computed from other state. -/
def roRow (off : Nat) (count : Nat := 1) : RegRow := ⟨off, count, .ro, 0, 0, false⟩
/-- A write-only register. -/
def woRow (off : Nat) (count : Nat := 1) : RegRow := ⟨off, count, .wo, 0xFFFFFFFF, 0, false⟩
/-- A read-write register with WARM value equal to its COLD value. -/
def rwRow (off mask : Nat) (cold : Nat := 0) (kept : Bool := false) : RegRow := ⟨off, 1, .rw, mask, cold, kept⟩
/-- A lockable register. -/
def rwlRow (off mask : Nat) (cold : Nat := 0) (kept : Bool := false) : RegRow := ⟨off, 1, .rwl, mask, cold, kept⟩

/-- The common header (R55) of a block. -/
def headerRows (blk : Nat) : List RegRow :=
  [roRow 0x000 3, ⟨0x00C, 1, .w1s, 1, 0, false⟩, roRow 0x014, ⟨0x018, 1, .w1c, 2 ^ evtBits blk - 1, 0, false⟩,
   rwRow 0x01C (2 ^ evtBits blk - 1), ⟨0x020, 1, .wo, 2 ^ evtBits blk - 1, 0, false⟩, ⟨0x024, 1, .w1c, 0xFFFFFFFF, 0, true⟩,
   roRow 0x028]

/-- Security and package blocks: CRU (R515), LCC (R499), FCL (R458), EVR (R459), ALG (R460), TMN (R435), BBD (R436). -/
def rowsA (blk : Nat) : List RegRow :=
  match blk with
  | 0x01 => [roRow 0x100 3, woRow 0x10C, roRow 0x110 2, ⟨0x118, 1, .rc, 0, 0, true⟩]
  | 0x03 => [roRow 0x100 7, rcRow 0x11C, roRow 0x120]
  | 0x04 => [rwRow 0x100 0x7FF, ⟨0x104, 1, .rwl, 0x1FFF, 0, true⟩, roRow 0x108, ⟨0x10C, 1, .w1c, 3, 0, true⟩, rwRow 0x110 0x3F,
             ⟨0x114, 1, .w1c, 0xFFFFFFFF, 0, true⟩, woRow 0x118, roRow 0x120 4, rwRow 0x130 1, roRow 0x134, rcRow 0x138, rcRow 0x13C]
  | 0x05 => [rwRow 0x100 0xFFF7, rwRow 0x104 0x800007FF, rwRow 0x108 0x7FFF, rwRow 0x10C 0x800007FF, rwRow 0x110 0x7FFF,
             ⟨0x114, 4, .rw, 0xFFFFFFFF, 0, false⟩, rcRow 0x130, rcRow 0x134]
  | 0x06 => [roRow 0x100 2, rwlRow 0x108 0x7FFF 0x2000 true, roRow 0x10C 2, rcRow 0x114, roRow 0x118]
  | 0x07 => [rwlRow 0x100 0xFFFFFFFF 0 true, rwlRow 0x104 0xFFFF 0 true, rwlRow 0x108 0x3071F 0x00010104 true, roRow 0x10C 2, rcRow 0x114,
             rcRow 0x118, rcRow 0x11C, roRow 0x120]
  | 0x08 => [roRow 0x100 6, ⟨0x118, 1, .rwl, 0x1F1F1F1F, 0, true⟩, roRow 0x11C 2, rwRow 0x124 0xF, roRow 0x128 3, woRow 0x134]
  | _ => []

/-- Pacer (R476), Relay (R391), host interface (R60), queue manager (R146, R147), VIM (R369), KVD (R181), KPC (R182). -/
def rowsB (blk : Nat) : List RegRow :=
  match blk with
  | 0x09 => [rwlRow 0x100 0xFF03FF77 0x02030823 true, rwlRow 0x104 0x3FF 0x352 true, rwlRow 0x108 0x7FF 0x1A4 true, roRow 0x10C 5,
             rwRow 0x120 0x1F, roRow 0x124 3, rcRow 0x130, rcRow 0x134, rcRow 0x138, rcRow 0x13C, rcRow 0x140, roRow 0x144]
  | 0x0A => [roRow 0x100, rcRow 0x104, rcRow 0x108, rcRow 0x10C, rcRow 0x110, rcRow 0x114, rcRow 0x118, rcRow 0x11C, roRow 0x200 3,
             woRow 0x20C, rcRow 0x210]
  | 0x0B => [roRow 0x100, rwlRow 0x104 1, woRow 0x108, rcRow 0x110, rcRow 0x114, rcRow 0x118, roRow 0x120, rwRow 0x200 0x7F, roRow 0x204]
  | 0x0C => [rwRow 0x100 0xFFF, roRow 0x108 3, woRow 0x180 2, ⟨0x200, 1, .rw, 0xFF3E, 0, true⟩, roRow 0x204,
             ⟨0x208, 1, .rw, 0xFFFFF000, 0, true⟩, ⟨0x20C, 1, .rw, 0xFFFFFFFF, 0, true⟩, ⟨0x210, 1, .rw, 0xFFFFF000, 0, true⟩,
             ⟨0x214, 1, .rw, 0xFFFFFFFF, 0, true⟩, ⟨0x218, 1, .rw, 0xFFFFFFF8, 0, true⟩, ⟨0x21C, 1, .rw, 0xFFFFFFFF, 0, true⟩,
             roRow 0x220 7, ⟨0x23C, 1, .rw, 0x3FFFF, 0, true⟩, roRow 0x240, woRow 0x244, rwRow 0x248 0xFFFFFFFF]
  | 0x0D => [rwRow 0x100 0xFFF, roRow 0x104 3, woRow 0x110, rcRow 0x114, rcRow 0x118, roRow 0x11C, roRow 0x140 2, woRow 0x148, roRow 0x180 16,
             ⟨0x1C0, 16, .rw, 0xFFFFFFFF, 0, false⟩, rwlRow 0x200 0xFFFFF000 0 true, rwlRow 0x204 0xFFFFFFFF 0 true,
             rwlRow 0x208 0xFFFFFF 0x000A140A true, rwlRow 0x20C 0x7FF 0x100 true, rwRow 0x210 0xFFFF7F01 0x00641900 true, roRow 0x214,
             rcRow 0x218, rcRow 0x21C, rcRow 0x220]
  | 0x0E => [roRow 0x100 4, rwlRow 0x110 0xFFFFFFE0 0 true, rwlRow 0x114 0xFFFFFFFF 0 true, rwlRow 0x118 0xFFFFF 0 true, rwRow 0x120 0xFFF,
             roRow 0x124 4, rcRow 0x140, rcRow 0x144, rcRow 0x148, rcRow 0x14C]
  | 0x0F => [roRow 0x100, rwRow 0x104 0xFFF, roRow 0x108, rcRow 0x110, rcRow 0x114, rcRow 0x118, rcRow 0x11C]
  | _ => []

/-- Engines and ports: LVE (R221), MCS (R249), BNE (R303), SYE (R324), MHA (R325), RNG (R326), DMX (R344), CIU (R416), BMP (R417),
BFI (R500), MGI (R516). -/
def rowsC (blk : Nat) : List RegRow :=
  match blk with
  | 0x10 => [rwRow 0x010 1, rcRow 0x100, rcRow 0x104, roRow 0x108, rcRow 0x10C, rcRow 0x110, rcRow 0x114, roRow 0x118, rwRow 0x200 0x3F,
             roRow 0x204 3]
  | 0x11 => [woRow 0x010, roRow 0x100 4, rcRow 0x110, rcRow 0x114, roRow 0x118, rcRow 0x11C, rcRow 0x120, rcRow 0x124, roRow 0x200 6]
  | 0x12 => [rwRow 0x010 1, rcRow 0x100, rcRow 0x104, roRow 0x108 2, rcRow 0x110, rcRow 0x114, rcRow 0x118, roRow 0x120 4, rcRow 0x130,
             rcRow 0x134, roRow 0x138]
  | 0x13 => [rwRow 0x010 1, rcRow 0x100, rcRow 0x104, roRow 0x108 2, rcRow 0x110, rcRow 0x114, roRow 0x118, rcRow 0x11C, roRow 0x120]
  | 0x14 => [roRow 0x100, ⟨0x104, 2, .ro, 0xFFFFFFFF, 0, false⟩, roRow 0x10C 2, rcRow 0x114, roRow 0x140 12]
  | 0x15 => [roRow 0x100, rcRow 0x104, rcRow 0x108, rcRow 0x10C, roRow 0x110, rcRow 0x114, rcRow 0x118, rwRow 0x11C 0x80000007, rcRow 0x120]
  | 0x16 => [rwRow 0x100 0xF, rwRow 0x104 1, roRow 0x108 4, rcRow 0x118, rwlRow 0x140 0x0FFF0FFF 0x04000800 true,
             rwlRow 0x144 0x0FFF0FFF 0x00020007 true, rwlRow 0x148 0x0FFF0FFF 0x00100038 true, rcRow 0x180, rcRow 0x184, rcRow 0x188,
             rcRow 0x18C, rcRow 0x190, rcRow 0x194]
  | 0x17 => [rwRow 0x010 3 1 true, roRow 0x100 3, rcRow 0x10C, rcRow 0x110, rcRow 0x114, roRow 0x200, woRow 0x204, roRow 0x208]
  | 0x18 => [roRow 0x100 4, rcRow 0x110, rcRow 0x114, rcRow 0x118, rcRow 0x11C, rwlRow 0x120 0xF 4 true]
  | 0x19 => [roRow 0x100 3, rwRow 0x10C 0xFFFFFFFF, rwRow 0x110 0x1FF, woRow 0x114, roRow 0x118, rcRow 0x11C, rcRow 0x120, woRow 0x140 64]
  | 0x1A => [roRow 0x100 2, rcRow 0x108, rcRow 0x10C, rcRow 0x110]
  | _ => []

/-- The register map of a block. -/
def blockRows (blk : Nat) : List RegRow := headerRows blk ++ rowsA blk ++ rowsB blk ++ rowsC blk

/-- The row of a register, if the block has one at that offset. -/
def regRow? (blk o : Nat) : Option RegRow :=
  (blockRows blk).find? (fun r => decide (r.off ≤ o) && decide (o < r.off + 4 * r.count) && decide (o % 4 = 0))

/-- The COLD value of a stored register. -/
def coldOf (blk o : Nat) : W32 :=
  match regRow? blk o with
  | some r => BitVec.ofNat 32 r.cold
  | none => 0

/-- Whether WARM reset keeps the register at a window offset (R16, R56). -/
def warmKept (off : Nat) : Bool :=
  match regRow? (off / 0x10000) (off % 0x1000) with
  | some r => r.kept
  | none => false

/-! ### Dies and stored registers -/

/-- A die of the package; a die the part does not have is one held in reset. -/
def State.die (s : State) (d : Nat) : Die := s.dies.getD d (Die.inReset Fuses.blank 1 0)

/-- Apply a function to one die. -/
def State.modDie (s : State) (d : Nat) (f : Die → Die) : State := { s with dies := s.dies.modify d f }

/-- Apply a function to every die. -/
def State.allDies (s : State) (f : Die → Die) : State := { s with dies := s.dies.map f }

/-- Dies in the package. -/
def State.nDies (s : State) : Nat := s.dies.length

/-- Reachable in the sense of R51: present, and neither in reset, lost, in DIE reset, rejoining nor excluded. -/
def Die.reachable (d : Die) : Bool := decide (d.state = .running) || decide (d.state = .booting)

/-- The stored value of a register. -/
def Die.reg (d : Die) (blk inst o : Nat) : W32 := Assoc.getD d.regs (woff blk inst o) (coldOf blk o)

/-- Set the stored value of a register. -/
def Die.setReg (d : Die) (blk inst o : Nat) (v : W32) : Die := { d with regs := Assoc.set d.regs (woff blk inst o) v }

/-- The stored value of a register of a die. -/
def State.reg (s : State) (d blk inst o : Nat) : W32 := (s.die d).reg blk inst o

/-- Set the stored value of a register of a die. -/
def State.setReg (s : State) (d blk inst o : Nat) (v : W32) : State := s.modDie d (·.setReg blk inst o v)

/-- Add to a counter register, saturating (R518). -/
def State.count (s : State) (d blk inst o : Nat) (n : Nat := 1) : State := s.setReg d blk inst o (satAdd (s.reg d blk inst o) n)

/-- Set a bit of a page's EVT_PEND (R57). -/
def State.event (s : State) (d blk inst b : Nat) : State :=
  s.setReg d blk inst 0x018 (s.reg d blk inst 0x018 ||| BitVec.ofNat 32 (2 ^ b))

/-- Whether the page's LOCK is set (R56). -/
def Die.locked (d : Die) (blk inst : Nat) : Bool := bit (d.reg blk inst 0x00C) 0

/-- A page's PROGRESS (R58, R113): position and permille. -/
def State.progress (s : State) (d blk inst pos permille : Nat) : State :=
  s.setReg d blk inst 0x028 (BitVec.ofNat 32 (pos * 0x10000 + permille))

/-- Append to what the device has sent. -/
def State.send (s : State) (x : Tx) : State := { s with tx := s.tx ++ [x] }

/-- Append several. -/
def State.sends (s : State) (xs : List Tx) : State := { s with tx := s.tx ++ xs }

/-! ### Relay frames (R371 to R375): the types of frame that `Tx.frame` shows, by numbers of the model's own -/

/-- HEARTBEAT. -/ abbrev frBeat := 0
/-- VOTE. -/ abbrev frVote := 1
/-- ACCEPT. -/ abbrev frAccept := 2
/-- SPLIT. -/ abbrev frSplit := 3
/-- COMMIT. -/ abbrev frCommit := 4
/-- TAMPER_ORDER. -/ abbrev frOrder := 5
/-- JOIN_ACK. -/ abbrev frJoinAck := 6
/-- STATE_PUSH. -/ abbrev frPush := 7
/-- The raw life-cycle words exchanged before voting (R486). -/ abbrev frWords := 8

/-- CLASS of a frame's header (R374). -/
def RelayClass.code : RelayClass → Nat
  | .control => 0 | .secure => 1 | .job => 2 | .log => 3

/-- The stream of SEQ numbers that a frame belongs to: its destination and class (R374); frames to every die have a stream of their own (DESIGN CHOICE, log
entry 148). -/
def RelayFrame.stream (f : RelayFrame) : Nat := f.dst.getD 8 + 16 * f.cls.code

/-- The SEQ that the next frame of a stream takes. -/
def State.nextSeq (s : State) (f : RelayFrame) : BitVec 16 := Assoc.getD (s.die f.src).seqs f.stream 0

/-- A die gives a frame to some of its ports, every copy with the next SEQ of its stream (R372, R374). A package of one die has no ports (R371). -/
def State.relay (s : State) (ports : List Nat) (f : RelayFrame) : State :=
  if s.nDies ≤ 1 then s
  else
    (s.modDie f.src (fun x => { x with seqs := Assoc.set x.seqs f.stream (s.nextSeq f + 1) })).sends
      (ports.map (fun p => .frame p { f with seqNo := s.nextSeq f }))

/-- A CONTROL frame: sent in both directions, on both ports (R372). -/
def State.control (s : State) (src : Nat) (dst : Option Nat) (kind : Nat) (body : List Nat) : State :=
  s.relay [0, 1] ⟨kind, .control, src, dst, 0, body⟩

/-- The port at the other end of a link (R371). -/
def State.peer (s : State) (d p : Nat) : Nat × Nat :=
  let n := s.nDies
  if p = 0 then ((d + 1) % n, 1) else ((d + n - 1) % n, 0)

/-- The links from a die in one direction, `hops` of them, are all UP. -/
def State.whole (s : State) (p : Nat) : Nat → Nat → Bool
  | _, 0 => true
  | d, hops + 1 => (match (s.die d).ports[p]? with | some q => decide (q.state = .up) | none => false) && s.whole p (s.peer d p).1 hops

/-- The port of die `src` by which a frame of another class than CONTROL leaves for die `dst` (R372): the direction with fewer hops; at equal distance the one
through port 0 of the lower-indexed die; the other direction where a link of that one is DOWN and the other is whole. -/
def State.route (s : State) (src dst : Nat) : Nat :=
  let n := s.nDies
  let up := (dst + n - src) % n
  let p := if up < n - up then 0 else if n - up < up then 1 else if src < dst then 0 else 1
  let hops (q : Nat) := if q = 0 then up else n - up
  if !s.whole p src (hops p) && s.whole (1 - p) src (hops (1 - p)) then 1 - p else p

end Sys2Proof.Machine
end

