-- ==== Sys2Proof/Machine/Ops.lean ====
section
/-! DEFINITION. Operations that every family shares: the life-cycle code, interrupt delivery (R68 to R70, R446), page and portal events,
offers to the audit log (R448 to R452), the counting of fault sources (R437 to R445), and what the outputs of the package follow
at once after every command (`settle`). -/

namespace Sys2Proof.Machine

/-! ### Life cycle (R477) -/

/-- Bits that step `k` of the chain burns: positions p < 60 with p mod 6 = k - 1. -/
def lcStepBits (k : Nat) : List Nat := if k = 0 ∨ 6 < k then [] else (List.range 10).map (fun i => 6 * i + (k - 1))

/-- A word with the given bits set. -/
def wordOfBits (bs : List Nat) : W64 := bs.foldl (fun w b => w ||| BitVec.ofNat 64 (2 ^ b)) 0

/-- The codeword of a state: every bit of the steps up to it. -/
def lcWord (c : Nat) : W64 := wordOfBits ((List.range 60).filter (fun p => decide (p % 6 < c)))

/-- The state a word decodes to: an exact codeword, or INVALID (0xF). -/
def lcCode (w : W64) : Nat := ((List.range 7).find? (fun c => decide (lcWord c = w))).getD 0xF

/-- The life-cycle state of the package: what its dies agreed on, else what die 0 decodes. -/
def State.lc (s : State) : Nat :=
  if s.baton.result = .clean then s.baton.code else lcCode (s.die 0).fuses.lc

/-- The owner storage key is present (R436 FLAGS.OSK_VALID). -/
def State.oskValid (s : State) : Bool := s.bbd.osk.isSome

/-- Die indices of the package. -/
def State.dieList (s : State) : List Nat := List.range s.dies.length

/-! ### Interrupt messages (R68 to R70) -/

/-- No condition of R70 holds back every message. -/
def State.msgOpen (s : State) : Bool := s.hif.busMaster && !s.hif.d3hot && s.msix.enable && !s.msix.functionMask

/-- The MSI-X table entry of a vector. -/
def Msix.entry (m : Msix) (v : Nat) : MsixEntry := Assoc.getD m.table v MsixEntry.reset

/-- The vector can be sent now. -/
def State.vectorOpen (s : State) (v : Nat) : Bool := s.msgOpen && !(s.msix.entry v).masked

/-- Signal a vector: send its message, or set its PBA bit (R70). -/
def State.signal (s : State) (v : Nat) : State :=
  if s.vectorOpen v then
    ((s.send (.msg (s.msix.entry v).addr (s.msix.entry v).data)).count 0 EVR 0 0x130)
  else { s.count 0 EVR 0 0x134 with msix := { s.msix with pba := Assoc.set s.msix.pba v () } }

/-- An instance interrupt table entry (R69). -/
def Evr.iitEntry (e : Evr) (i : Nat) : IitEntry := Assoc.getD e.iit i ⟨0, 0, 0⟩

/-- MESSAGE mode of an entry. -/
def IitEntry.message (e : IitEntry) : Bool := bit e.ctl 1
/-- MASK of an entry. -/
def IitEntry.masked (e : IitEntry) : Bool := bit e.ctl 0
/-- PENDING of an entry. -/
def IitEntry.pending (e : IitEntry) : Bool := bit e.ctl 2
/-- The MSI-X vector of an entry in VECTOR mode. -/
def IitEntry.vector (e : IitEntry) : Nat := bits e.ctl 16 11
/-- Set or clear PENDING. -/
def IitEntry.setPending (e : IitEntry) (b : Bool) : IitEntry :=
  { e with ctl := if b then e.ctl ||| 4#32 else e.ctl &&& ~~~4#32 }

/-- An entry holds its event back: MASK, or in MESSAGE mode any condition of R70. -/
def State.iitHeld (s : State) (e : IitEntry) : Bool := e.masked || (e.message && !s.msgOpen)

/-- Deliver through an unheld entry: its vector, or DATA written to ADDR. -/
def State.iitSend (s : State) (e : IitEntry) : State :=
  if e.message then (s.send (.msg e.addr e.data)).count 0 EVR 0 0x130 else s.signal e.vector

/-- An event of an instance interrupt table entry (R70). -/
def State.iitEvent (s : State) (i : Nat) : State :=
  let e := s.evr.iitEntry i
  if s.iitHeld e then
    { s.count 0 EVR 0 0x134 with evr := { s.evr with iit := Assoc.set s.evr.iit i (e.setPending true) } }
  else s.iitSend e

/-! ### Page events (R57, R446, R447) -/

/-- Pages whose events go to vector 0 by a fixed route (R446). -/
def fixedRoute (blk : Nat) : Bool := blk == TMN || blk == FCL || blk == ALG || blk == LCC || blk == BBD

/-- The key of a page in the Event Router: ROUTE_SEL's value (R459). -/
def pageKey (die blk inst : Nat) : Nat := die + blk * 16 + inst * 4096

/-- The route of a page (R446, R459). -/
def Evr.route (e : Evr) (die blk inst : Nat) : W32 :=
  if fixedRoute blk then 0x80000000#32 else Assoc.getD e.routes (pageKey die blk inst) 0

/-- A page raises its event while EVT_PEND & EVT_EN is nonzero (R57). -/
def Die.raises (d : Die) (blk inst : Nat) : Bool := decide (d.reg blk inst 0x018 &&& d.reg blk inst 0x01C ≠ 0)

/-- Deliver a page's event: once for each rise (R447), where its route is enabled (R446). -/
def State.pageEvent (s : State) (die blk inst : Nat) : State :=
  let k := pageKey die blk inst
  if (Assoc.get? s.evr.raised k).isSome ∨ !(s.die die).raises blk inst then s
  else
    let s := { s with evr := { s.evr with raised := Assoc.set s.evr.raised k () } }
    let r := s.evr.route die blk inst
    if bit r 31 then s.signal (bits r 0 11) else s

/-- The pages of a die with a stored EVT_PEND. -/
def Die.eventPages (d : Die) : List (Nat × Nat) :=
  (d.regs.filter (fun p => decide (p.1 % 0x1000 = 0x018))).map (fun p => (p.1 / 0x10000, p.1 / 0x1000 % 16))

/-- A portal's event for interrupt table entry `i` of its instance: bit i, and for entry 0 bits 8 to 11 as well (R69). -/
def Portal.raises (p : Portal) (i : Nat) : Bool :=
  decide (p.evtPend &&& p.evtEn &&& (BitVec.ofNat 32 (2 ^ i + (if i = 0 then 0xF00 else 0))) ≠ 0)

/-- The instance record of a number. -/
def State.inst (s : State) (n : Nat) : Inst := Assoc.getD s.insts n Inst.free

/-- Set it. -/
def State.setInst (s : State) (n : Nat) (i : Inst) : State := { s with insts := Assoc.set s.insts n i }

/-- Change it. -/
def State.modInst (s : State) (n : Nat) (f : Inst → Inst) : State := s.setInst n (f (s.inst n))

/-- Change a portal and deliver every instance event that rises by it (R57, R69). -/
def State.modPortal (s : State) (n : Nat) (f : Portal → Portal) : State :=
  let p := (s.inst n).portal
  let q := f p
  (List.range 8).foldl (fun s i => if q.raises i && !p.raises i then s.iitEvent (8 * n + i) else s)
    (s.modInst n (fun x => { x with portal := q }))

/-- The interrupt table entry of an instance's event bit: entry 0 serves bits 8 to 11 as well (R69). -/
def portalEntry (n b : Nat) : Nat := 8 * n + (if b < 8 then b else 0)

/-- An event of an instance: its bit of P_EVT_PEND is set, and where the bit is enabled the event is delivered, whatever stood in P_EVT_PEND before; events
merge in PENDING and the PBA alone (R69, R70, R144; log 122). -/
def State.portalEvent (s : State) (n b : Nat) : State :=
  let t := s.modInst n (fun x => { x with portal := { x.portal with evtPend := x.portal.evtPend ||| BitVec.ofNat 32 (2 ^ b) } })
  if bit (s.inst n).portal.evtEn b then t.iitEvent (portalEntry n b) else t

/-! ### The audit log's queue (R448 to R452) -/

/-- The plain offer of an event: KIND, die, EVENT and OBJECT; no instance, no result, an empty DIGEST. -/
def Offer.of (kind die event object : Nat) : Offer :=
  ⟨kind, die, 0xFFFF, none, 0, event, object, 0, [], false, .none, false⟩

/-- Slots held (R460 OCCUPANCY). -/
def Alg.occupancy (a : Alg) : Nat := (a.slots.map LogSlot.size).foldl (· + ·) 0

/-- Free slots of the 16,384 (R456). -/
def Alg.free (a : Alg) : Nat := 16384 - a.occupancy

/-- Offer an entry to the arbiter, last in its queue (R452); an entry of a die that is not the holder waits there for its LOG frame (R389). -/
def State.offer (s : State) (o : Offer) : State :=
  if o.die = s.baton.holder.getD 0 then { s with alg := { s.alg with offers := s.alg.offers ++ [o] } }
  else s.modDie o.die (fun x => { x with logOut := x.logOut ++ [o] })

/-- A firmware write to a recorded register: it takes effect, and its entry is offered, during boot to the log that opens after the election (R14, R449; log 74). -/
def State.fwWriteAt (s : State) (d blk inst o : Nat) (v : W32) : State :=
  (s.setReg d blk inst o v).offer
    { Offer.of 0 d (0x1000 + blk) (woff blk inst o) with digestOf := leBytes 4 (s.reg d blk inst o).toNat ++ leBytes 4 v.toNat }

/-- The same, of a page that exists once. -/
def State.fwWrite (s : State) (d blk o : Nat) (v : W32) : State := s.fwWriteAt d blk 0 o v

/-- The log accepts entries: not stopped (R449, R460) and not exhausted (R456). -/
def State.logOpen (s : State) : Bool := !s.alg.stopped && decide (74 < s.alg.free)

/-- Write an entry of the tamper record (R431): RTC, code, response with ON_BATTERY, die. A full record counts in OVERFLOW. MONO advances
by one with each entry (R426). -/
def State.recordTamper (s : State) (code resp die : Nat) (onBattery : Bool := false) : State :=
  let b := s.bbd
  if b.record.length < 16 then
    { s with bbd := { b with
      record := b.record ++ [leBytes 8 b.rtc.toNat ++ [BitVec.ofNat 8 code, BitVec.ofNat 8 (resp + 4 * b2n onBattery), BitVec.ofNat 8 die, 0]],
      mono := satInc b.mono } }
  else { s with bbd := { b with overflow := satInc b.overflow } }

/-! ### Fault sources (R437 to R444) -/

/-- The shipped heat of a source (R442 and the chapters it names): N, WCODE, FIXED. -/
def shippedHeat (src : Nat) : Nat × Nat × Bool :=
  let g := src / 32
  let b := src % 32
  if g < 16 then (if b = 8 then (2, 18, false) else (255, 18, false))
  else if g = 16 then (if b % 8 = 1 ∨ b % 8 = 2 ∨ b % 8 = 4 then (2, 18, false) else (255, 18, false))
  else if g = 17 then
    (if b = 1 ∨ b = 3 ∨ b = 9 ∨ b = 11 then (2, 18, false) else if 16 ≤ b ∧ b < 19 then (3, 18, false) else (255, 18, false))
  else if g = 18 then (if b = 2 then (4, 9, true) else if b = 8 then (64, 18, true) else (255, 18, false))
  else if g = 19 then (if b = 0 ∨ b = 8 then (16, 9, false) else if b = 16 then (3, 29, false) else (255, 18, false))
  else if g = 20 then (if b = 24 then (8, 18, true) else (1, 0, true))
  else (255, 18, false)

/-- The heat configuration in force: N and WCODE. -/
def Fcl.heatCfg (f : Fcl) (src : Nat) : Nat × Nat :=
  match Assoc.get? f.cfg src with
  | some v => (bits v 0 8, bits v 8 5)
  | none => ((shippedHeat src).1, (shippedHeat src).2.1)

/-- The slice counts of a source, newest first (R440). -/
def Fcl.slices (f : Fcl) (src : Nat) : List Nat := (Assoc.getD f.heat src ⟨List.replicate 16 0⟩).slices

/-- The sum of the sixteen slices. -/
def Fcl.heatSum (f : Fcl) (src : Nat) : Nat := (f.slices src).foldl (· + ·) 0

/-- One more event in the newest slice, which saturates at 255 (R440). -/
def bumpSlice (l : List Nat) : List Nat :=
  match l with
  | [] => [1]
  | a :: r => min 255 (a + 1) :: r

/-- Allocated sources (R438); an unlisted source is reserved and never counts. -/
def sourceExists (src : Nat) : Bool :=
  let g := src / 32
  let b := src % 32
  if g < 16 then decide (b < 4) || decide (8 ≤ b ∧ b ≤ 10) || decide (b = 16 ∨ b = 17)
  else if g = 16 then decide (b % 8 < 7)
  else if g = 17 then decide (b < 4) || decide (8 ≤ b ∧ b < 12) || decide (16 ≤ b ∧ b < 20)
  else if g = 18 then decide (b < 4) || decide (8 ≤ b ∧ b ≤ 10) || decide (b = 16)
  else if g = 19 then decide (b < 4) || decide (8 ≤ b ∧ b < 12) || decide (b = 16)
  else if g = 20 then decide (b ≤ 24)
  else if g = 21 then decide (b < 19)
  else decide (736 ≤ src ∧ src < 920)

/-- A source counts (R437, R440, R443): sticky bit, newest slice, and the group's event where its HANDLING is clear, else one more merged count. -/
def Die.sourceCounts (d : Die) (src : Nat) : Die :=
  let g := src / 32
  let f := d.fcl
  let f' := { f with sticky := Assoc.set f.sticky src (),
                     heat := Assoc.set f.heat src ⟨bumpSlice (f.slices src)⟩,
                     handling := Assoc.set f.handling g () }
  let d' := { d with fcl := f' }
  if (Assoc.get? f.handling g).isSome then d'.setReg FCL 0 0x13C (satInc (d.reg FCL 0 0x13C))
  else d'.setReg FCL 0 0x018 (d.reg FCL 0 0x018 ||| 1#32)

/-- The heat has reached N (R440). -/
def Die.hot (d : Die) (src : Nat) : Bool := decide ((d.fcl.heatCfg src).1 ≤ d.fcl.heatSum src)

/-- Start or restart the FAULT_N pulse timer (R445). -/
def State.pulse (s : State) : State :=
  { s.send .faultPulse with pkg := { s.pkg with fault := { s.pkg.fault with pulse := true } } }

/-- The management port answers: from the lock of die 0's PLL for as long as PWRGOOD is high (R509). -/
def State.mgiUp (s : State) : Bool := s.pkg.pwrgood

/-- Pulling MG_ALERT_N low raises the MGI page's event (R516). -/
def State.alert (s : State) : State :=
  if s.pkg.alertLow then s
  else ({ s with pkg := { s.pkg with alertLow := true } }.send .alert).event 0 MGI 0 0

/-- A source of die `d` counts; when it becomes SEVERE, the first three steps of R441 and the alert of R509 follow and its slices
clear. The answer says
whether it became SEVERE, for the action that the source's own chapter fixes. -/
def State.fclMark (s : State) (d src : Nat) : State × Bool :=
  if !sourceExists src then (s, false)
  else
    let s := s.modDie d (·.sourceCounts src)
    if (s.die d).hot src then
      let s := s.modDie d (fun x =>
        { x with fcl := { x.fcl with severe := Assoc.set x.fcl.severe src (), heat := Assoc.erase x.fcl.heat src } })
      let s := (s.event d FCL 0 1).count d FCL 0 0x138
      let s := { s with pkg := { s.pkg with severes := s.pkg.severes + 1 } }
      (((if s.mgiUp then s.alert else s).pulse).offer (Offer.of 5 d (0x4000 + src) d), true)
    else (s, false)

/-- Count a source whose chapter names no action. -/
def State.fault (s : State) (d src : Nat) : State := (s.fclMark d src).1

/-! ### Outputs that follow the state (R44, R422, R505, R509) -/

/-- The package serves: a clean election with die 0 as holder (R391 SERVING). -/
def State.serving (s : State) : Bool := decide (s.baton.result = .clean) && decide (s.baton.holder = some 0)

/-- The conditions of R505 for ALIVE. -/
def State.aliveOk (s : State) : Bool :=
  s.pkg.ready && !s.pkg.lock && s.serving && decide (s.lc ≠ 0xF) && decide (s.lc ≠ 6) && s.pkg.aliveFresh

/-- FAULT_N is low (R445): the reset hold, the pulse timer, no holder, or DRIVE. -/
def State.faultLow (s : State) : Bool :=
  s.pkg.fault.resetHold || s.pkg.fault.pulse || s.pkg.fault.noHolder || bit (s.reg 0 FCL 0 0x130) 0

/-- A die of the package applies THROTTLE. -/
def State.throttled (s : State) : Bool := s.dies.any (fun d => d.tmn.throttle)

/-- The STATE word of R509. -/
def State.stateNow (s : State) : W16 :=
  let stp := if s.pkg.ready then 0xF else min 8 ((s.die 0).boot.step + (if (s.die 0).state = .booting then 1 else 0))
  BitVec.ofNat 16 (s.lc + 16 * stp + 256 * b2n s.pkg.ready + 512 * b2n s.pkg.lock + 1024 * b2n (decide (s.baton.result = .split) || s.bbd.split)
    + 2048 * b2n s.pkg.fault.noHolder + 4096 * b2n (!s.oskValid) + 8192 * b2n s.throttled
    + 16384 * b2n (decide (s.hif.link = .l0) || decide (s.hif.link = .l1)))

/-- MG_ALERT_N follows a change of the STATE word (R509). -/
def settleAlert (s : State) : State :=
  if s.stateNow = s.pkg.stateWord then s
  else
    let s' := { s with pkg := { s.pkg with stateWord := s.stateNow } }
    if s.mgiUp then s'.alert else s'

/-- While the package is in LOCK every die's key bus is gated (R422). -/
def settleGates (s : State) : State :=
  if s.pkg.lock then { s with dies := s.dies.map (fun d => { d with tmn := { d.tmn with gated := true } }) } else s

/-- ALIVE carries its wave only while every condition of R505 holds; its fall sets ALIVE_STOP on die 0's CRU page (R515). -/
def settleAlive (s : State) : State :=
  if s.pkg.alive && !s.aliveOk then { s.event 0 CRU 0 1 with pkg := { s.pkg with alive := false } }
  else { s with pkg := { s.pkg with alive := s.aliveOk } }

/-- Page events of die 0 that rise are delivered; a page that no longer raises may rise again (R447). -/
def settleEvents (s : State) : State :=
  let keep := s.evr.raised.filter (fun p => (s.die (p.1 % 8)).raises (p.1 / 16 % 256) (p.1 / 4096))
  ((s.die 0).eventPages).foldl (fun s p => s.pageEvent 0 p.1 p.2) { s with evr := { s.evr with raised := keep } }

/-- Messages held that nothing holds any longer are sent, one each (R70): those of the PBA, then those of the interrupt table in MESSAGE
mode. -/
def settleHeld (s : State) : State :=
  let due := s.msix.pba.filter (fun (p : Nat × Unit) => s.vectorOpen p.1)
  let s1 : State := if due.isEmpty then s
    else ({ s with msix := { s.msix with pba := s.msix.pba.filter (fun (p : Nat × Unit) => !s.vectorOpen p.1) },
                   tx := s.tx ++ due.map (fun (p : Nat × Unit) => Tx.msg (s.msix.entry p.1).addr (s.msix.entry p.1).data) } : State).count 0 EVR 0 0x130 due.length
  let rel := s1.evr.iit.filter (fun (p : Nat × IitEntry) => p.2.pending && !s1.iitHeld p.2)
  rel.foldl (fun (t : State) (p : Nat × IitEntry) => t.iitSend p.2)
    { s1 with evr := { s1.evr with
        iit := s1.evr.iit.map (fun (p : Nat × IitEntry) => if p.2.pending && !s1.iitHeld p.2 then (p.1, p.2.setPending false) else p) } }

/-- Work that R38 counts: a job in flight, a completion held, a read of an entry outstanding. -/
def Die.busy (d : Die) : Bool :=
  !d.jobs.isEmpty || d.queues.any (fun (p : Nat × Queue) => !p.2.ctx.held.isEmpty || p.2.ctx.win.any (fun (w : Nat × Prefetch) =>
    match w.2 with | .reading _ => true | .copy _ => false))

/-- The device has work in the sense of R38: a die's, or a mailbox buffer under way. -/
def State.hasWork (s : State) : Bool := s.dies.any Die.busy || s.insts.any (fun (p : Nat × Inst) => p.2.portal.mb.bufBusy)

/-- The link leaves L1 as soon as the device has work (R38): no job in flight meets the link in L1. -/
def settleLink (s : State) : State :=
  if s.hif.link = .l1 ∧ s.hasWork then { s with hif := { s.hif with link := .l0 } } else s

/-- What follows every command at once. The held messages go last, so that a message is never left held without a holding condition. -/
def settle (s : State) : State := settleHeld (settleEvents (settleAlert (settleAlive (settleGates (settleLink s)))))

/-- The outcome of a command of the block: its effect, and what follows at once. -/
def ret (s : State) : Host.Outcome State Fault Refusal := .next (settle s)

end Sys2Proof.Machine
end

