-- ==== Sys2Proof/Machine/Entry.lean ====
section
/-! DEFINITION. The fields of a submission entry (R122) and what they say of a class 0x5 job's segments (R306, R311, R334). -/

namespace Sys2Proof.Machine

/-- The opcode's class (R71). -/
def Sqe.cls (e : Sqe) : Nat := bits e.opcode 12 4
/-- The EXT bit. -/
def Sqe.ext (e : Sqe) : Bool := bit e.opcode 11
/-- FLAGS.CHAIN. -/
def Sqe.chain (e : Sqe) : Bool := bit e.flags 0
/-- FLAGS.FENCE. -/
def Sqe.fence (e : Sqe) : Bool := bit e.flags 1
/-- FLAGS.IRQ. -/
def Sqe.irq (e : Sqe) : Bool := bit e.flags 2
/-- FLAGS.TRACK. -/
def Sqe.track (e : Sqe) : Bool := bit e.flags 4
/-- FLAGS.IN_PLACE. -/
def Sqe.inPlace (e : Sqe) : Bool := bit e.flags 5
/-- FLAGS.PRIO. -/
def Sqe.prio (e : Sqe) : Nat := bits e.flags 6 2
/-- PARAM as a number. -/
def Sqe.par (e : Sqe) (lo w : Nat) : Nat := bits e.param lo w
/-- The opcode as a number. -/
def Sqe.op (e : Sqe) : Nat := e.opcode.toNat
/-- PSET as a number. -/
def Sqe.ps (e : Sqe) : Nat := e.pset.toNat
/-- The mode of ENCRYPT and DECRYPT (R94). -/
def Sqe.mode (e : Sqe) : Nat := e.ps / 16
/-- Full tag length, and the least and the greatest TAG_LEN, of a MAC PSET (R94, R95). -/
def macTag? (p : Nat) : Option (Nat × Nat × Nat) :=
  if p = 1 then some (16, 8, 16) else if p = 2 then some (16, 12, 16) else if p = 0x11 then some (32, 16, 32)
  else if p = 0x12 then some (48, 16, 48) else if p = 0x13 then some (64, 16, 64) else if p = 0x21 then some (32, 16, 64)
  else if p = 0x22 then some (64, 16, 64) else none

/-- TAG_LEN of GCM and GMAC, of the MACs and of the tag a MAC_VERIFY carries, with 0 as the full length (R95). -/
def Sqe.tagLen (e : Sqe) : Nat :=
  let t := e.par 8 8
  if t ≠ 0 then t else if e.op = 0x5003 ∨ e.op = 0x5004 then ((macTag? e.ps).getD (16, 0, 0)).1 else 16

/-! ### Segments of class 0x5 (R306) -/

/-- Rate of a Keccak function of class 0x5 by its PSET. -/
def keccakRate (op p : Nat) : Nat :=
  if op = 0x5005 then (if p = 0x11 then 144 else if p = 0x12 then 136 else if p = 0x13 then 104 else if p = 0x14 then 72 else if p = 0x21 then 168 else 136)
  else if p = 0x21 then 168 else 136

/-- 16-byte blocks. -/
def blocks16 (n : Nat) : Nat := (n + 15) / 16

/-- AAD bytes of GCM and GCM-SIV. -/
def Sqe.aadLen (e : Sqe) : Nat :=
  if e.mode = 3 then (if e.op = 0x5001 ∧ bit e.param 0 then e.auxLen.toNat else e.auxLen.toNat - 12) else if e.mode = 7 then e.auxLen.toNat - 12 else 0

/-- The length processed. -/
def Sqe.symLenIn (e : Sqe) : Nat :=
  let n := e.inLen.toNat
  if e.op = 0x5002 then (if e.mode = 3 then n - e.tagLen else if e.mode = 7 then n - 16 else n) else n

/-- Pieces of `n` bytes, `m` to a piece. -/
def pieces (n m : Nat) : Nat := (n + m - 1) / max 1 m

/-- Input bytes of a full segment S (R306); KW and KWP count steps instead. -/
def Sqe.segSize (e : Sqe) : Nat :=
  let sponge := min 0x10000 (512 * keccakRate e.op e.ps)
  if e.op = 0x5001 ∨ e.op = 0x5002 then
    (if e.mode = 1 ∧ e.op = 0x5001 then 0x4000 else if e.mode = 7 ∧ e.op = 0x5002 then 0x8000 else 0x10000)
  else if e.op = 0x5005 then (if e.ps = 1 ∨ e.ps = 2 then 0x6000 else if e.ps < 0x11 then 0x8000 else sponge)
  else if e.ps = 1 then 0x4000 else if e.ps = 2 then 0x10000 else if e.ps = 0x11 then 0x6000 else if e.ps < 0x21 then 0x8000 else sponge

/-- KW or KWP, of which the first segment needs the whole semiblock array (R311). -/
def Sqe.wraps (e : Sqe) : Bool := decide (e.op = 0x5001 ∨ e.op = 0x5002) && decide (e.mode = 5 ∨ e.mode = 6)

/-- Leading segments of AAD (R306). -/
def Sqe.leadSegments (e : Sqe) : Nat := pieces e.aadLen 0x10000

/-- Segments of a class 0x5 job (R306). -/
def Sqe.segments (e : Sqe) : Nat :=
  let n := e.symLenIn
  max 1 (if e.wraps then pieces (6 * ((n + 7) / 8)) 1024
    else if e.op = 0x5001 ∧ e.mode = 7 then e.leadSegments + 2 * pieces n e.segSize
    else if e.op = 0x5005 ∧ 0x21 ≤ e.ps then pieces n e.segSize + pieces (e.par 0 32) (512 * keccakRate e.op e.ps)
    else e.leadSegments + pieces n e.segSize)

/-- Bytes of IN that must be staged before segment `i` starts (R306, R334): those that it covers and all before them; the last needs all, as does each segment
of KW and KWP. -/
def Sqe.segNeeds (e : Sqe) (i : Nat) : Nat :=
  let n := e.inLen.toNat
  if e.segments ≤ i + 1 ∨ e.wraps then n else min n ((i + 1 - e.leadSegments) * e.segSize)

/-- The bytes of an SYE job's input that `done` segments have consumed. -/
def Sqe.segUsed (e : Sqe) (done : Nat) : Nat := if done = 0 then 0 else e.segNeeds (done - 1)

/-- Jobs that hold an SYE's hold buffer (R311): KW and KWP, AES-GCM decryption of at most 65,536 bytes, GCM-SIV decryption. -/
def Sqe.holds (e : Sqe) : Bool :=
  (decide (e.op = 0x5001 ∨ e.op = 0x5002) && decide (e.mode = 5 ∨ e.mode = 6))
    || (decide (e.op = 0x5002) && (decide (e.mode = 7) || (decide (e.mode = 3) && decide (e.symLenIn ≤ 65536))))

end Sys2Proof.Machine
end

