-- ==== Sys2Proof/Machine/QueueOps.lean ====
section
/-! DEFINITION. Queues: ring arithmetic (R115, R116), requests to host memory (R39, R46), the fetch window (R131), queue events and
moderation (R144), queue errors (R142), and the writing, holding and order of completions (R134 to R139). -/

namespace Sys2Proof.Machine

/-! ### Ring arithmetic (R116) -/

/-- ks of a context. -/
def QRings.ks (r : QRings) : Nat := bits r.ctrl 8 4
/-- kc of a context. -/
def QRings.kc (r : QRings) : Nat := bits r.ctrl 12 4
/-- MGR. -/
def QRings.mgr (r : QRings) : Bool := bit r.ctrl 1
/-- CHECKED. -/
def QRings.checked (r : QRings) : Bool := bit r.ctrl 2
/-- IN_ORDER. -/
def QRings.inOrder (r : QRings) : Bool := bit r.ctrl 3
/-- NO_SNOOP. -/
def QRings.noSnoop (r : QRings) : Bool := bit r.ctrl 4
/-- IRQ_ALL. -/
def QRings.irqAll (r : QRings) : Bool := bit r.ctrl 5
/-- INSTANCE. -/
def QRings.inst (r : QRings) : Nat := bits r.ctrl 16 12
/-- QPAIR. -/
def QRings.qpair (r : QRings) : Nat := bits r.ctrl 28 3
/-- BOUND. -/
def QRings.bound (r : QRings) : Bool := bit r.ctrl 31
/-- SQ base. -/
def ringSize (k : Nat) : Nat := 2 ^ k
/-- slot(i). -/
def ringSlot (k i : Nat) : Nat := i % 2 ^ k
/-- next(i). -/
def ringNext (k i : Nat) : Nat := (i + 1) % 2 ^ (k + 1)
/-- count(p, c): entries between consumer c and producer p. -/
def ringCount (k p c : Nat) : Nat := (p + 2 ^ (k + 1) - c % 2 ^ (k + 1)) % 2 ^ (k + 1)

/-! ### Queues of the package -/

/-- A queue context of a die. -/
def Die.queue (d : Die) (q : Nat) : Queue := Assoc.getD d.queues q Queue.reset
/-- A queue context of a die. -/
def State.queue (s : State) (d q : Nat) : Queue := (s.die d).queue q
/-- Set a queue context. -/
def State.setQueue (s : State) (d q : Nat) (x : Queue) : State := s.modDie d (fun y => { y with queues := Assoc.set y.queues q x })
/-- Change a queue's context. -/
def State.modCtx (s : State) (d q : Nat) (f : QCtx → QCtx) : State :=
  s.setQueue d q { s.queue d q with ctx := f (s.queue d q).ctx }
/-- Change a queue's side state. -/
def State.modAux (s : State) (d q : Nat) (f : QAux → QAux) : State :=
  s.setQueue d q { s.queue d q with aux := f (s.queue d q).aux }

/-- Home die and queue context of queue pair `q` of an instance (R345 to R350): none where the instance is not live or has no such pair. -/
def Inst.home (i : Inst) (q : Nat) : Option (Nat × Nat) := if i.code.live then i.cfg.homes[q]? else none

/-- The die and context that a doorbell names; a manager queue must be marked MGR (R121). -/
def State.locate (s : State) (x : QueueRef) : Option (Nat × Nat) :=
  match x with
  | .tenant n q => (s.inst n).home q
  | .manager d q => if (s.queue d q).ctx.rings.mgr then some (d, q) else none

/-- The PASID of a context's requests: the instance's, none for a manager queue (R39). -/
def State.pasidOf (s : State) (r : QRings) : Option (BitVec 20) := if r.bound then some (s.inst r.inst).cfg.pasid else none

/-! ### Requests to the host -/

/-- The device may issue requests: bus mastering on, D0, no reset of R43 running (R44, R46). -/
def State.hostOpen (s : State) : Bool := s.hif.busMaster && !s.hif.d3hot && !s.hif.flrActive

/-- A write to host memory of the KVD: it goes out, or waits for the function with those before it (R46). -/
def State.hostWrite (s : State) (addr : W64) (data : List Byte) (pasid : Option (BitVec 20)) : State :=
  if s.hostOpen then s.send (.write addr data pasid false) else { s with waitTx := s.waitTx ++ [.write addr data pasid false] }

/-- The host writes that waited go out (R46). -/
def State.resumeWrites (s : State) : State := { s with tx := s.tx ++ s.waitTx, waitTx := [] }

/-- The indices of the fetch window (R131). -/
def QCtx.window (c : QCtx) : List Nat :=
  (List.range (min 16 (ringCount c.rings.ks c.rings.sqTail c.rings.sqHead))).map (fun i => (c.rings.sqHead + i) % 2 ^ (c.rings.ks + 1))

/-- Issue the read of one entry (R131, R39). -/
def State.readEntry (s : State) (d q i : Nat) : State :=
  let c := (s.queue d q).ctx
  (s.modCtx d q (fun c => { c with win := Assoc.set c.win i (.reading false) })).send
    (.read d (.entry q i) (c.rings.sqBase + BitVec.ofNat 64 (64 * ringSlot c.rings.ks i)) 64 (s.pasidOf c.rings) false)

/-- Read every entry of the window that has not been read: nothing unless the queue is ACTIVE and requests may be issued. -/
def State.fetch (s : State) (d q : Nat) : State :=
  let c := (s.queue d q).ctx
  if c.state = .active ∧ s.hostOpen then
    (c.window.filter (fun i => (Assoc.get? c.win i).isNone)).foldl (fun t i => t.readEntry d q i) s
  else s

/-- Fetch for every queue of every reachable die (R46: the device resumes where each unit waited). -/
def State.fetchAll (s : State) : State :=
  s.dieList.foldl (fun t d => ((t.die d).queues.map Prod.fst).foldl (fun u q => u.fetch d q) t) s

/-! ### Queue events (R144, R446) -/

/-- The key of a manager queue in the Event Router: MQ_SEL's value (R459). -/
def mqKey (d q : Nat) : Nat := q + 4096 * d

/-- A manager queue's event: its vector, or PENDING of its route while ENABLE = 0; the QMG page's MQ_EVENT either way (R446, R146). -/
def State.mqEvent (s : State) (d q : Nat) : State :=
  let r := Assoc.getD s.evr.mqRoutes (mqKey d q) 0
  let s := s.event d QMG 0 0
  if bit r 31 then s.signal (bits r 0 11)
  else { s with evr := { s.evr with mqRoutes := Assoc.set s.evr.mqRoutes (mqKey d q) (r ||| 0x40000000#32) } }

/-- The queue event, which restarts moderation, with QC_IRQ as it now stands (R144; at activation too, DEDUCED, log 125). -/
def State.queueEvent (s : State) (d q : Nat) : State :=
  let r := (s.queue d q).ctx.rings
  let s := s.modAux d q (fun a => { a with irqCount := 0, irqTimer := false, irqNow := r.irq })
  if r.bound then s.portalEvent r.inst r.qpair else s.mqEvent d q

/-- IRQ_COUNT in force, with 0 acting as 1. -/
def QAux.irqN (a : QAux) : Nat := max 1 (bits a.irqNow 0 8)
/-- IRQ_DELAY in force. -/
def QAux.irqDelay (a : QAux) : Nat := bits a.irqNow 8 10

/-- A counted completion has been written: with IRQ_COUNT at most 1 the event is raised at once, otherwise it counts, and the delay runs
from the first one (R144). -/
def State.countIrq (s : State) (d q : Nat) : State :=
  let a := (s.queue d q).aux
  if a.irqN ≤ 1 then s.queueEvent d q
  else s.modAux d q (fun a => { a with irqCount := a.irqCount + 1, irqTimer := a.irqTimer || decide (a.irqDelay ≠ 0) })

/-! ### Errors (R119, R142) -/

/-- Drop the copies read and mark the reads outstanding stale, but for the indices kept (R131, R142). -/
def dropWindow (win : Assoc Prefetch) (keep : Nat → Bool) : Assoc Prefetch :=
  (win.filter (fun (p : Nat × Prefetch) => keep p.1 || decide (p.2 = .reading false) || decide (p.2 = .reading true))).map
    (fun (p : Nat × Prefetch) => if keep p.1 then p else (p.1, .reading true))

/-- The queue enters ERROR with a cause latched at an index; an error already latched stays (R142). -/
def State.queueError (s : State) (d q : Nat) (code : Nat) (index : Nat) : State :=
  if (s.queue d q).ctx.state = .error then s
  else
    ((s.modCtx d q (fun c => { c with state := .error, errIndex := index, errCode := BitVec.ofNat 8 code,
                                      win := dropWindow c.win (fun i => decide (i = c.rings.sqHead)) })).event d QMG 0 1).queueEvent d q

/-! ### Completions (R134 to R139) -/

/-- The 32 bytes of a completion entry (R134). -/
def Cqe.bytes (c : Cqe) : List Byte :=
  leBytes 8 c.tag.toNat ++ leBytes 2 c.status.toNat ++ [c.epoch, c.die] ++ leBytes 4 c.seqNo.toNat ++ leBytes 4 c.outWritten.toNat
    ++ leBytes 2 c.sqIndex.toNat ++ [0, 0] ++ leBytes 4 c.detail.toNat ++ leBytes 4 c.etime.toNat

/-- The SEQ-th CQ index is free to be written: its slot lies within the ring from CQ_HEAD. -/
def QCtx.cqFree (c : QCtx) (seqNo : Nat) : Bool :=
  decide (ringCount c.rings.kc (seqNo % 2 ^ (c.rings.kc + 1)) c.rings.cqHead < 2 ^ c.rings.kc)

/-- Space of R137. -/
def QCtx.space (c : QCtx) : Int :=
  let used := ringCount c.rings.kc c.rings.cqTail c.rings.cqHead + c.written.length
  (2 ^ c.rings.kc - used : Int) + 8 - c.held.length - c.inflight

/-- Advance CQ_TAIL over the unbroken run of written entries (R139). -/
def advanceTail (n : Nat) (c : QCtx) : QCtx :=
  match n with
  | 0 => c
  | n + 1 =>
    if c.written.contains c.seqNo then
      advanceTail n { c with written := c.written.filter (fun x => decide (x ≠ c.seqNo)), seqNo := c.seqNo + 1,
                             rings := { c.rings with cqTail := ringNext c.rings.kc c.rings.cqTail } }
    else c

/-- The CQ tail shadow (R136): none where its address is zero. While no entry lies below CQ_TAIL the SEQ it shows is 2^32 - 1 (DESIGN CHOICE, log 126). -/
def State.writeShadow (s : State) (d q : Nat) : State :=
  let c := (s.queue d q).ctx
  if c.rings.shadow = 0 then s
  else s.send (.write c.rings.shadow (leBytes 4 c.rings.cqTail ++ leBytes 4 ((c.seqNo + 2 ^ 32 - 1) % 2 ^ 32)) (s.pasidOf c.rings) false)

/-- Write one completion entry to its CQ slot (R134). `seqNo` is the position it takes. -/
def State.writeEntry (s : State) (d q : Nat) (h : Held) (seqNo : Nat) : State :=
  let c := (s.queue d q).ctx
  let e := { h.cqe with seqNo := BitVec.ofNat 32 seqNo }
  let addr := c.rings.cqBase + BitVec.ofNat 64 (32 * ringSlot c.rings.kc (seqNo % 2 ^ (c.rings.kc + 1)))
  let s := s.send (.write addr e.bytes (s.pasidOf c.rings) false)
  let s := s.modCtx d q (fun c => advanceTail (c.written.length + 1) { c with written := c.written ++ [seqNo] })
  if c.rings.bound then s.modInst c.rings.inst (fun i => { i with jobs := satInc i.jobs }) else s

/-- What follows entries written together (R66, R136, R144): one shadow write, then their count toward the event. -/
def State.afterEntries (s : State) (d q : Nat) (hs : List Held) : State :=
  hs.foldl (fun t h => if h.counted then t.countIrq d q else t) (s.writeShadow d q)

/-- Write one completion entry, then the shadow, then count it toward the event. -/
def State.writeCqe (s : State) (d q : Nat) (h : Held) (seqNo : Nat) : State := (s.writeEntry d q h seqNo).afterEntries d q [h]

/-- Room in the holding area of 8 entries (R137). -/
def holdRoom : Nat := 8

/-- A completion that has finished: written where a CQ slot is free to it, and held otherwise (R137 to R139). While the function may write nothing it is
held, and beyond the holding area its engine keeps it (R46). -/
def State.complete (s : State) (d q : Nat) (h : Held) : State :=
  let c := (s.queue d q).ctx
  if !s.hostOpen then
    s.modCtx d q (fun c => if c.held.length < holdRoom then { c with held := c.held ++ [h] }
      else { c with parked := c.parked ++ [h], inflight := c.inflight + 1 })
  else if c.rings.inOrder then
    (if c.cqFree h.seqNo then s.writeCqe d q h h.seqNo else s.modCtx d q (fun c => { c with held := c.held ++ [h] }))
  else if c.held.isEmpty ∧ c.cqFree c.seqNo then s.writeCqe d q h c.seqNo
  else s.modCtx d q (fun c => { c with held := c.held ++ [h] })

/-- The completions parked take the room that the holding area has, oldest first. -/
def QCtx.unpark (c : QCtx) : QCtx :=
  let n := min c.parked.length (holdRoom - c.held.length)
  { c with held := c.held ++ c.parked.take n, parked := c.parked.drop n, inflight := c.inflight - n }

/-- The held completion that is written next: with IN_ORDER the first whose own slot is free, else the oldest once a slot is. -/
def QCtx.nextHeld (c : QCtx) : Option Held :=
  if c.rings.inOrder then c.held.find? (fun h => c.cqFree h.seqNo) else if c.cqFree c.seqNo then c.held.head? else none

/-- Write held completions that a slot has become free for, in their order (R138, R139); the answer names those written. -/
def releaseHeld (n : Nat) (d q : Nat) (s : State) : State × List Held :=
  match n with
  | 0 => (s, [])
  | n + 1 =>
    let s := s.modCtx d q QCtx.unpark
    let c := (s.queue d q).ctx
    match c.nextHeld with
    | none => (s, [])
    | some h =>
      let r := releaseHeld n d q ((s.modCtx d q (fun c => { c with held := c.held.erase h })).writeEntry d q h (if c.rings.inOrder then h.seqNo else c.seqNo))
      (r.1, h :: r.2)

/-- Held completions written as far as space allows, then one shadow for them, then CQ_STALLED clears when space is again at least 1 (R138). -/
def State.release (s : State) (d q : Nat) : State :=
  let c := (s.queue d q).ctx
  let r := if s.hostOpen then releaseHeld (c.held.length + c.parked.length) d q s else (s, [])
  let s := if r.2 = [] then r.1 else r.1.afterEntries d q r.2
  s.modCtx d q (fun c => { c with stalled := c.stalled && decide (c.space < 1) })

/-- No completion space for a ready entry: CQ_STALLED, the queue event, QUEUE_STALLED of the page (R138, R146). -/
def State.stall (s : State) (d q : Nat) : State :=
  if (s.queue d q).ctx.stalled then s
  else ((s.modCtx d q (fun c => { c with stalled := true })).event d QMG 0 2).queueEvent d q

end Sys2Proof.Machine
end

