-- ==== Sys2Proof/Machine/Xform.lean ====
section
/-! DEFINITION. The bit-plane transposer and the interleave unit of the DMX (R336, R337), and the transform record of an owner program (R339). -/

namespace Sys2Proof.Machine

/-- A transform word (R339): w in bits (0 for no transposer), N, K, E in bytes, the spacing of streams in bytes. -/
structure XformWord where
  w : Nat
  n : Nat
  k : Nat
  e : Nat
  stride : Nat
  deriving DecidableEq, Repr

/-- The fields of a transform word. -/
def xformWord (v : W32) : XformWord :=
  ⟨[0, 8, 16, 32, 64].getD (bits v 0 3) 0, 64 * 2 ^ bits v 4 3, bits v 8 3, 2 ^ bits v 12 2, 64 * bits v 16 16⟩

/-- A word with no reserved value and every field in range (R339). -/
def xformOk (v : W32) : Bool :=
  decide (bits v 0 3 ≤ 4) && decide (bits v 4 3 ≤ 5) && !bit v 3 && !bit v 7 && !bit v 11 && decide (bits v 14 2 = 0)
    && (decide (bits v 16 16 ≠ 0) || decide (bits v 8 3 ≤ 1))

/-- Bytes of a block: N words of w bits. -/
def XformWord.block (x : XformWord) : Nat := max 1 (x.n * x.w / 8)

/-- A length padded to whole blocks; without the transposer as it is. -/
def XformWord.padded (x : XformWord) (len : Nat) : Nat := if x.w = 0 then len else (len + x.block - 1) / x.block * x.block

/-- Bytes of the longest stream of a region of `len` bytes. -/
def XformWord.streamLen (x : XformWord) (len : Nat) : Nat := if x.k ≤ 1 then len else (len + x.k * x.e - 1) / (x.k * x.e) * x.e

/-- The streams of a region fit (R339): each within STRIDE, all within the region. -/
def XformWord.fits (x : XformWord) (len : Nat) : Bool :=
  if x.k ≤ 1 then decide (x.padded (x.streamLen len) ≤ len)
  else decide (x.padded (x.streamLen len) ≤ x.stride) && decide (x.k * x.stride ≤ len)

/-- A bit of a byte string. -/
def byteBit (bs : List Byte) (i : Nat) : Bool := bit (bs.getD (i / 8) 0) (i % 8)

/-- A byte string of bits. -/
def bytesOf (nbytes : Nat) (f : Nat → Bool) : List Byte :=
  (List.range nbytes).map (fun b => BitVec.ofNat 8 ((List.range 8).foldl (fun a t => a + b2n (f (8 * b + t)) * 2 ^ t) 0))

/-- The forward transform of one block: w planes of N ÷ 8 bytes, plane j holding bit j of every word (R336). -/
def planes (w n : Nat) (blk : List Byte) : List Byte := bytesOf (n * w / 8) (fun i => byteBit blk (i % n * w + i / n))

/-- Its inverse. -/
def unplanes (w n : Nat) (blk : List Byte) : List Byte := bytesOf (n * w / 8) (fun i => byteBit blk (i % w * n + i / w))

/-- Apply a block function to every block of a stream padded with zeros. -/
def XformWord.blocks (x : XformWord) (f : List Byte → List Byte) (bs : List Byte) : List Byte :=
  if x.w = 0 then bs
  else (List.range (x.padded bs.length / x.block)).flatMap (fun i => f (slice bs (i * x.block) x.block))

/-- Field f of every record (R337). -/
def XformWord.stream (x : XformWord) (bs : List Byte) (f : Nat) : List Byte :=
  (List.range (bs.length / (x.k * x.e))).flatMap (fun r => slice bs (r * x.k * x.e + f * x.e) x.e)

/-- What the forward transform stages: streams with their offsets from the base of the region. -/
def XformWord.stage (x : XformWord) (bs : List Byte) : List (Nat × List Byte) :=
  if x.k ≤ 1 then [(0, x.blocks (planes x.w x.n) bs)]
  else (List.range x.k).map (fun f => (f * x.stride, x.blocks (planes x.w x.n) (x.stream bs f)))

/-- The inverse transform of `len` bytes, from the bytes of the region. -/
def XformWord.unstage (x : XformWord) (len : Nat) (region : Nat → Nat → List Byte) : List Byte :=
  let m := if x.w = 0 then (if x.k ≤ 1 then len else x.streamLen len) else (len + x.block - 1) / x.block * x.block
  let st (f : Nat) : List Byte := x.blocks (unplanes x.w x.n) (region (f * x.stride) m)
  if x.k ≤ 1 then slice (st 0) 0 len
  else
    let ss := (List.range x.k).map st
    slice ((List.range (x.streamLen len / x.e)).flatMap (fun r => ss.flatMap (fun s => slice s (r * x.e) x.e))) 0 len

/-- The constants of an owner program's image. -/
def imageConst (img : List Byte) : List Byte := slice img (64 + 8 * fieldLe img 10 2) (fieldLe img 48 2)

/-- The image carries a transform record (R339). -/
def hasXform (img : List Byte) : Bool := decide (16 ≤ fieldLe img 48 2) && decide ((imageConst img).take 4 = [0x56, 0x58, 0x46, 0x31])

/-- A length that a transform word admits: with K of 2 or more, a multiple of K·E (R339). -/
def XformWord.lenOk (x : XformWord) (n : Nat) : Bool := decide (x.k < 2) || decide (n % (x.k * x.e) = 0)

/-- Transform word `i` of an image: IN, AUX, OUT; none without a record. -/
def xformOf (img : List Byte) (i : Nat) : XformWord :=
  if hasXform img then xformWord (BitVec.ofNat 32 (fieldLe (imageConst img) (4 + 4 * i) 4)) else ⟨0, 64, 0, 1, 0⟩

/-- Stage bytes into a window through a transform word. -/
def stageInto (m : Mem) (x : XformWord) (off : Nat) (bs : List Byte) : Mem := (x.stage bs).foldl (fun w p => w.writes (off + p.1) p.2) m

end Sys2Proof.Machine
end

