-- ==== Sys2Proof/Machine/JobOps.lean ====
section
/-! DEFINITION. Jobs: the status codes (R105), a job's end without and after its engine program (R75, R134, R135), its OUT transfer
over a DMX channel (R327, R331), progress (R113, R129), and the fetches a job waits for. -/

namespace Sys2Proof.Machine

/-! ### Status codes (R105) -/

/-- Success. -/ abbrev stOk : W16 := 0x0000
/-- VERIFY_FAIL. -/ abbrev stVerifyFail : W16 := 0x0001
/-- STATEFUL_LAST. -/ abbrev stStatefulLast : W16 := 0x0002
/-- OPERAND_RANGE. -/ abbrev stOperandRange : W16 := 0x0101
/-- NOT_INVERTIBLE. -/ abbrev stNotInvertible : W16 := 0x0102
/-- POINT_INVALID. -/ abbrev stPointInvalid : W16 := 0x0103
/-- ENCODING_INVALID. -/ abbrev stEncoding : W16 := 0x0104
/-- OPERAND_FAULT. -/ abbrev stOperandFault : W16 := 0x0105
/-- SHORT. -/ abbrev stShort : W16 := 0x0106
/-- OVERRUN. -/ abbrev stOverrun : W16 := 0x0107
/-- TAG_MISMATCH. -/ abbrev stTagMismatch : W16 := 0x0108
/-- DECRYPT_ERROR. -/ abbrev stDecryptError : W16 := 0x0109
/-- DMA_HOST_FAULT. -/ abbrev stHostFault : W16 := 0x010A
/-- LENGTH_INVALID. -/ abbrev stLength : W16 := 0x010B
/-- CURVE_P_NOT_PRIME. -/ abbrev stCurvePrime : W16 := 0x0111
/-- CURVE_SINGULAR. -/ abbrev stCurveSingular : W16 := 0x0112
/-- CURVE_G_OFF. -/ abbrev stCurveGOff : W16 := 0x0113
/-- CURVE_ORDER. -/ abbrev stCurveOrder : W16 := 0x0114
/-- CURVE_HASSE. -/ abbrev stCurveHasse : W16 := 0x0115
/-- CURVE_ANOMALOUS. -/ abbrev stCurveAnomalous : W16 := 0x0116
/-- CURVE_EMBEDDING. -/ abbrev stCurveEmbedding : W16 := 0x0117
/-- KEY_NOT_FOUND. -/ abbrev stKeyNotFound : W16 := 0x0201
/-- KEY_STALE. -/ abbrev stKeyStale : W16 := 0x0202
/-- KEY_REVOKED. -/ abbrev stKeyRevoked : W16 := 0x0203
/-- KEY_AUTH. -/ abbrev stKeyAuth : W16 := 0x0204
/-- KEY_TYPE. -/ abbrev stKeyType : W16 := 0x0205
/-- KEY_USAGE. -/ abbrev stKeyUsage : W16 := 0x0206
/-- KEY_SCOPE. -/ abbrev stKeyScope : W16 := 0x0207
/-- STATEFUL_EXHAUSTED. -/ abbrev stExhausted : W16 := 0x0208
/-- PROGRAM_INACTIVE. -/ abbrev stProgramInactive : W16 := 0x0209
/-- CURVE_NOT_LOADED. -/ abbrev stCurveNotLoaded : W16 := 0x020A
/-- SLOT_QUOTA. -/ abbrev stSlotQuota : W16 := 0x0301
/-- KPC_QUOTA. -/ abbrev stKpcQuota : W16 := 0x0302
/-- COUNTER_QUOTA. -/ abbrev stCounterQuota : W16 := 0x0303
/-- CONTEXT_QUOTA. -/ abbrev stContextQuota : W16 := 0x0304
/-- ENGINE_UNAVAILABLE. -/ abbrev stUnavailable : W16 := 0x0305
/-- CHAIN_ABORTED. -/ abbrev stChainAborted : W16 := 0x0401
/-- INSTANCE_STATE. -/ abbrev stInstState : W16 := 0x0402
/-- MACHINE_CHECK. -/ abbrev stMachineCheck : W16 := 0x0501
/-- FAULT_DETECTED. -/ abbrev stFaultDetected : W16 := 0x0502
/-- SELFTEST_FAIL. -/ abbrev stSelftest : W16 := 0x0503
/-- RNG_FAIL. -/ abbrev stRngFail : W16 := 0x0504
/-- INTEGRITY_FAIL. -/ abbrev stIntegrity : W16 := 0x0505
/-- KEYGEN_LIMIT. -/ abbrev stKeygenLimit : W16 := 0x0506
/-- LOCKED. -/ abbrev stLocked : W16 := 0x0601
/-- QUORUM_ABSENT. -/ abbrev stQuorumAbsent : W16 := 0x0602
/-- LIFECYCLE. -/ abbrev stLifecycle : W16 := 0x0603
/-- OWNER_AUTH. -/ abbrev stOwnerAuth : W16 := 0x0604
/-- LOG_FULL. -/ abbrev stLogFull : W16 := 0x0605

/-- A status of class 0x00xx: output is written (R75). -/
def statusGood (x : W16) : Bool := decide (x.toNat < 0x100)

/-! ### The job table -/

/-- A job of a die. -/
def State.job? (s : State) (d j : Nat) : Option Job := Assoc.get? (s.die d).jobs j
/-- Set a job. -/
def State.setJob (s : State) (d j : Nat) (x : Job) : State := s.modDie d (fun y => { y with jobs := Assoc.set y.jobs j x })
/-- Change a job. -/
def State.modJob (s : State) (d j : Nat) (f : Job → Job) : State := s.modDie d (fun y => { y with jobs := Assoc.update y.jobs j f })

/-- Jobs of an instance on a die. -/
def Die.jobsOf (d : Die) (n : Nat) : List (Nat × Job) := d.jobs.filter (fun (p : Nat × Job) => !p.2.src.mgr && decide (p.2.src.inst = n))

/-- No job of an instance is in flight on any die. -/
def State.noJobs (s : State) (n : Nat) : Bool := s.dies.all (fun d => (d.jobsOf n).isEmpty)

/-- The owner of a job's keys, slots and KPC entries: its instance, or the owner-shared hierarchy for a manager queue. -/
def Job.owner (j : Job) : OwnerId := if j.src.mgr then ownerShared else j.src.inst

/-! ### Leaving slots and KPC entries (R160, R174) -/

/-- A holder leaves every key slot it holds; a slot being evicted goes with its last holder (R160). -/
def leaveSlots (slots : Assoc Slot) (j : Nat) : Assoc Slot :=
  (slots.map (fun (p : Nat × Slot) => (p.1, { p.2 with holders := p.2.holders.filter (fun x => decide (x ≠ j)) }))).filter
    (fun (p : Nat × Slot) => !(p.2.dying && p.2.holders.isEmpty))

/-- A holder leaves every KPC allocation it holds; a provisional copy or working space goes with it (R174). -/
def leaveKpc (kpc : Assoc KpcEntry) (j : Nat) : Assoc KpcEntry :=
  (kpc.map (fun (p : Nat × KpcEntry) => (p.1, { p.2 with holders := p.2.holders.filter (fun x => decide (x ≠ j)) }))).filter
    (fun (p : Nat × KpcEntry) => !(p.2.holders.isEmpty && decide (p.2.use ≠ .entry)))

/-- The entry that a KEYGEN has filled is an entry from its good end on, in the units that it keeps (R251, R277). -/
def keepKpc (kpc : Assoc KpcEntry) (j : Nat) : Assoc KpcEntry :=
  kpc.map (fun (p : Nat × KpcEntry) =>
    if p.2.holders.contains j ∧ p.2.use = .working ∧ p.2.bytes ≠ [] then (p.1, { p.2 with use := .entry, units := p.2.keep }) else p)

/-- A lane that loses its job and is to be wiped (R300). -/
def BneLane.emptied (l : BneLane) : BneLane := { l with job := none, staged := false, wiping := true }

/-- Both lanes of a BNE are wiped; a job staged in one stays a queue's head, for another engine (R300). -/
def BneUnit.emptied (u : BneUnit) : BneUnit := { u with lane0 := u.lane0.emptied, lane1 := u.lane1.emptied }

/-- A BNE that holds a job in no lane any longer; the lane is left to be wiped (R300). -/
def BneUnit.without (u : BneUnit) (j : Nat) : BneUnit :=
  let drop (l : BneLane) : BneLane := if l.job = some j then l.emptied else l
  let mine := (u.running = some false ∧ u.lane0.job = some j) ∨ (u.running = some true ∧ u.lane1.job = some j)
  { u with lane0 := drop u.lane0, lane1 := drop u.lane1, running := if mine then none else u.running, betweenLegs := u.betweenLegs && !decide mine }

/-- A channel without a transfer: its OFFLINE bit and its count stay. -/
def Channel.freed (c : Channel) : Channel := { Channel.idle with offline := c.offline, descs := c.descs }

/-- The transfers of a job end at once: its channels are released, and it waits for none (R332, R341). -/
def Die.dropXfers (d : Die) (j : Nat) : Die :=
  let others (r : KvdRead) : Bool := match r.what with | .job k _ => decide (k ≠ j) | _ => true
  { d with chans := d.chans.map (fun c => if c.job = some j then c.freed else c),
           xferQueue := d.xferQueue.filter (fun p => decide (p.1 ≠ j)),
           kvdReads := d.kvdReads.filter others }

/-- Take a job out of its die: it leaves its slots and KPC entries, the channels that carry it are released, the lane that runs its part, and an LVE that fills an entry for it. -/
def Die.dropJob (d : Die) (j : Nat) : Die :=
  { d.dropXfers j with
           jobs := Assoc.erase d.jobs j,
           kvd := { d.kvd with slots := leaveSlots d.kvd.slots j },
           kpc := leaveKpc d.kpc j,
           lves := d.lves.map (fun u => if u.fill = some j then { u with fill := none } else u),
           bnes := d.bnes.map (fun u => u.without j) }

/-! ### Completion of a job -/

/-- The completion entry of a job (R134), with the engine time in ps: ETIME is in 10 ns, rounded up (R106); SEQ is filled when the entry is placed. -/
def Job.cqe (j : Job) (die : Nat) (status : W16) (detail : W32) (etime outWritten : Nat) : Cqe where
  tag := j.sqe.tag
  status := status
  epoch := j.src.epoch
  die := BitVec.ofNat 8 die
  seqNo := 0
  outWritten := BitVec.ofNat 32 outWritten
  sqIndex := BitVec.ofNat 16 j.src.sqIndex
  detail := detail
  etime := BitVec.ofNat 32 (min ((etime + 9999) / 10000) 0xFFFFFFFF)

/-- The job ends: it leaves the die, and its completion is written or held (R134 to R139); a failed member aborts the rest of its chain (R125).
A suppressed job leaves without a completion (R238, R341). -/
def State.finish (s : State) (d j : Nat) (status : W16) (detail : W32) (etime outWritten : Nat) : State :=
  match s.job? d j with
  | none => s
  | some x =>
    let s := if statusGood status ∧ !x.suppress then s.modDie d (fun y => { y with kpc := keepKpc y.kpc j }) else s
    let s := s.modDie d (·.dropJob j)
    if x.suppress then s
    else
      let q := x.src.queue
      let s := s.modCtx d q (fun c => { c with inflight := c.inflight - 1 })
      let s := if status ≠ stOk ∧ status ≠ stStatefulLast then
          s.modAux d q (fun a => { a with chainAborted := a.chainAborted || (a.chainOpen && decide (a.chainJob = some j)) }) else s
      let s := if x.sqe.track ∧ x.step ≠ 0 ∧ statusGood status ∧ x.tracked < 3 then s.queueEvent d q else s
      (s.complete d q ⟨x.src.cqSeq, x.cqe d status detail etime outWritten, x.sqe.irq || (s.queue d q).ctx.rings.irqAll, x.step,
        if x.step ≠ 0 ∧ statusGood status then 1000 else x.permille⟩).release d q

/-- The job ends before its program runs (R135): ETIME 0, no output. -/
def State.endBefore (s : State) (d j : Nat) (status : W16) (detail : W32 := 0) : State := s.finish d j status detail 0 0

/-! ### Transfers of a job (R327 to R332) -/

/-- IN. -/ abbrev partIn : Nat := 4
/-- AUX. -/ abbrev partAux : Nat := 5
/-- Input streamed to a running program. -/ abbrev partStream : Nat := 6
/-- OUT. -/ abbrev partOut : Nat := 7

/-- The bytes of one descriptor: at most 1 MiB (R328). -/
def descBytes : Nat := 0x100000

/-- Where the output goes: OUT_ADDR, or IN_ADDR with IN_PLACE (R128). -/
def Job.outAddr (j : Job) : W64 := if j.sqe.inPlace then j.sqe.inAddr else j.sqe.outAddr

/-- The output a job's program left. -/
def Job.outBytes (j : Job) : List Byte := (j.result.map JobResult.out).getD []

/-- The attributes of IN, AUX and OUT requests of a job (R39). -/
def State.jobAttrs (s : State) (d : Nat) (j : Job) : Option (BitVec 20) × Bool :=
  let r := (s.queue d j.src.queue).ctx.rings
  (s.pasidOf r, r.bound && r.noSnoop)

/-- The memory kind that a job's class is staged in (R329). -/
def Sqe.kind (e : Sqe) : Nat :=
  match e.cls with
  | 1 => 1 | 2 => 1 | 3 => 1 | 8 => 1 | 9 => 1 | 4 => 2 | 5 => 3 | _ => 5

/-- A channel of a die. -/
def Die.chan (d : Die) (ch : Nat) : Channel := d.chans.getD ch Channel.idle

/-- Set a channel. -/
def State.setChan (s : State) (d ch : Nat) (c : Channel) : State := s.modDie d (fun x => { x with chans := x.chans.set ch c })

/-- The channels that a job's transfers use (R327): channel 13 for the log drain and for instance images, the job channels for every other. -/
def Sqe.channels (e : Sqe) : List Nat := if e.opcode = 0xF004 ∨ e.opcode = 0xF005 ∨ e.opcode = 0xF040 then [13] else List.range 12

/-- The lowest free channel of a job. -/
def Die.freeChan (d : Die) (e : Sqe) : Option Nat := e.channels.find? (fun i => decide ((d.chan i).job = none) && !(d.chan i).offline)

/-- Bytes read from the host or written to it count in KiB; what makes no KiB yet stays (R344). -/
def State.countBytes (s : State) (d : Nat) (write : Bool) (n : Nat) : State :=
  let k := (if write then (s.die d).wrRest else (s.die d).rdRest) + n
  let s := s.modDie d (fun y => if write then { y with wrRest := k % 1024 } else { y with rdRest := k % 1024 })
  if k < 1024 then s else s.count d DMX 0 (if write then 0x184 else 0x180) (k / 1024)

/-- The bytes of the current descriptor of a channel. -/
def Channel.descLen (c : Channel) : Nat := min descBytes c.remain

/-! ### Pacing (R334) -/

/-- The fill level of the segment slots of an SYE job: bytes staged and not consumed, and those of reads outstanding. A segment's output counts as drained when the
segment ends, and each job has slots of its own (DESIGN CHOICE, log 39). -/
def State.syeFill (s : State) (d j : Nat) : Nat :=
  let done := ((((s.die d).syes.flatMap (fun u => u.ctxs)).find? (fun (p : Nat × SyeCtx) => decide (p.2.job = j))).map (fun (p : Nat × SyeCtx) => p.2.done)).getD 0
  let asked := (((s.die d).chans.find? (fun c => decide (c.job = some j) && decide (c.part = partIn))).map Channel.asked).getD 0
  (((s.job? d j).map (fun x => x.data.inData.length - x.sqe.segUsed done)).getD 0) + asked

/-- HIGH and LOW of WM_SYE in bytes. -/
def State.syeMarks (s : State) (d : Nat) : Nat × Nat := (64 * bits (s.reg d DMX 0 0x140) 0 12, 64 * bits (s.reg d DMX 0 0x140) 16 12)

/-- The bytes that a channel asks for next of a descriptor that feeds a paced ring with room for `room` bytes: reads of 4 KiB, the first and the last up to a boundary of
4 KiB or to the descriptor's end, as many as fit (R330, R334; the request size is log 39's). -/
def paceBurst (addr : W64) (rest room : Nat) : Nat :=
  let k := addr.toNat % 4096
  if rest ≤ room then rest else if k + room < 4096 then 0 else (k + room) / 4096 * 4096 - k

/-- The next requests of a transfer at its position: the reads of a descriptor of IN or AUX, as far as a paced ring admits them, or the writes of one of OUT (R328, R330,
R334). -/
def State.issue (s : State) (d ch : Nat) : State :=
  let c := (s.die d).chan ch
  match c.job.bind (fun j => s.job? d j) with
  | none => s
  | some x =>
    let j := c.job.getD 0
    let a := s.jobAttrs d x
    if c.part = partOut then
      ((s.setChan d ch { c with state := .active }).send
        (.write (x.outAddr + BitVec.ofNat 64 c.pos) ((x.outBytes.drop c.pos).take c.descLen) a.1 a.2)).countBytes d true c.descLen
    else
      let addr := (if c.part = partAux then x.sqe.auxAddr else x.sqe.inAddr) + BitVec.ofNat 64 (c.pos + c.got)
      let rest := c.descLen - c.got
      let n := if c.part = partIn ∧ c.dstKind = 3 then paceBurst addr rest ((s.syeMarks d).1 - s.syeFill d j) else rest
      if n = 0 then (s.setChan d ch { c with state := .pacing }).count d DMX 0 0x194
      else
        let part := if x.stage = .running ∧ c.part = partIn then partStream else c.part
        (((s.setChan d ch { c with state := .active, asked := n }).modJob d j (fun y => { y with data := { y.data with reads := y.data.reads ++ [part] } })).send
          (.read d (.job j part) addr n a.1 a.2)).countBytes d false n

/-- A channel goes on with its descriptor unless the function may issue nothing (R46). -/
def State.goOnDesc (s : State) (d ch : Nat) : State :=
  if s.hostOpen then s.issue d ch else s.setChan d ch { (s.die d).chan ch with state := .held }

/-- A channel takes its next descriptor, or goes on with one that waits; a stop takes effect at the boundary alone (R332). -/
def State.nextDesc (s : State) (d ch : Nat) : State :=
  let c := (s.die d).chan ch
  if c.offline ∧ c.got = 0 then s.setChan d ch { c with state := .stopped } else s.goOnDesc d ch

/-- XFORM and FIELD_BYTES of a part's descriptors (R328, R339): an RSA ciphertext is reversed on its way into its cell, the regions of an owner program that carries
a transform record are split and merged. -/
def Die.xformOfPart (d : Die) (x : Job) (part : Nat) : Nat × Nat :=
  if x.sqe.opcode = 0x4014 ∧ part = partIn then (1, 8 * x.sqe.pset.toNat)
  else if x.sqe.cls = 8 then
    let w := xformOf (((Assoc.get? d.programs x.sqe.pset.toNat).map OwnerProgram.image).getD []) (if part = partOut then 2 else if part = partAux then 1 else 0)
    if w.w = 0 ∧ w.k ≤ 1 then (0, 0) else (if part = partOut then 3 else 2, 0)
  else (0, 0)

/-- The bytes that a job writes to OUT: never beyond OUT_CAP (R74). -/
def Job.outLen (x : Job) : Nat := min x.outBytes.length x.sqe.outCap.toNat

/-- AUX bytes that a job reads after the part that the KPC has copied. -/
def Job.auxRest (x : Job) : Nat := x.sqe.auxLen.toNat - x.data.auxData.length

/-- Where the transfer of a part of a job begins, and its length. -/
def Job.extent (x : Job) (part : Nat) : Nat × Nat :=
  if part = partOut then (0, x.outLen) else if part = partAux then (x.data.auxData.length, x.auxRest) else (0, x.sqe.inLen.toNat)

/-- The memory kind that holds a job's output (R311, R329): the hold buffer for the SYE jobs that use it, the ALG's buffer for a log drain, else the kind of its class. -/
def Sqe.outKind (e : Sqe) : Nat := if e.cls = 5 ∧ e.holds then 4 else if e.opcode = 0xF040 then 9 else e.kind

/-- The first descriptor of a part of a job, on a channel (R328); a log drain is owned by the device. -/
def Die.descOf (d : Die) (j : Nat) (x : Job) (part : Nat) (old : Channel) : Channel :=
  let t := d.xformOfPart x part
  let out := decide (part = partOut)
  let dev := decide (x.sqe.opcode = 0xF040)
  { old.freed with
    state := .active, job := some j, part := part, inst := x.src.inst, mgr := x.src.mgr && !dev, dev := dev
    srcKind := if out then x.sqe.outKind else 0, dstKind := if out then 0 else x.sqe.kind
    xform := t.1, fieldBytes := t.2, remain := (x.extent part).2, pos := (x.extent part).1 }

/-- Put a part of a job on a free channel of its own and begin it; without a free channel it waits, behind those that have waited longer (R327). -/
def State.startXfer (s : State) (d j part : Nat) : State :=
  match s.job? d j with
  | none => s
  | some x =>
    match (s.die d).freeChan x.sqe with
    | none => s.modDie d (fun y => { y with xferQueue := y.xferQueue ++ [(j, part)] })
    | some ch => (s.setChan d ch ((s.die d).descOf j x part ((s.die d).chan ch))).nextDesc d ch

/-- Begin the OUT transfer of a job (R66, R331). -/
def State.startOut (s : State) (d j : Nat) : State := s.startXfer d j partOut

/-- A transfer that waits gets a channel if one is free. -/
def State.grantXfer (s : State) (d : Nat) (p : Nat × Nat) : State :=
  match s.job? d p.1 with
  | none => s
  | some x =>
    if ((s.die d).freeChan x.sqe).isNone then s
    else (s.modDie d (fun y => { y with xferQueue := y.xferQueue.erase p })).startXfer d p.1 p.2

/-- Free channels go to the transfers that wait, in the order of their requests (R327). -/
def State.grantChans (s : State) (d : Nat) : State := (s.die d).xferQueue.foldl (fun t p => t.grantXfer d p) s

/-! ### Channel 12 (R327, R332) -/

/-- Channel 12 may take a descriptor (R46, R332). -/
def State.kvdOpen (s : State) (d : Nat) : Bool := s.hostOpen && !((s.die d).chan 12).offline

/-- The read whose turn it is on channel 12 goes out. -/
def State.kvdGo (s : State) (d : Nat) : State :=
  match (s.die d).kvdReads with
  | [] => s
  | r :: rest =>
    if r.sent ∨ !s.kvdOpen d then s
    else ((s.modDie d (fun y => { y with kvdReads := { r with sent := true } :: rest })).send (.read d r.what r.addr r.len r.pasid r.noSnoop)).countBytes d false r.len

/-- A read is given to channel 12. -/
def State.kvdRead (s : State) (d : Nat) (r : KvdRead) : State := (s.modDie d (fun y => { y with kvdReads := y.kvdReads ++ [r] })).kvdGo d

/-- A read is the current descriptor of channel 12, and its requests are out. -/
def State.kvdSent (s : State) (d : Nat) (what : ReadOf) : Bool := ((s.die d).kvdReads.head?).any (fun r => decide (r.what = what) && r.sent)

/-- The current descriptor of channel 12 is over: the next goes on. -/
def State.kvdDone (s : State) (d : Nat) : State :=
  (s.modDie d (fun y => { y with kvdReads := y.kvdReads.drop 1, chans := y.chans.modify 12 (fun c => { c with descs := satInc c.descs }) })).kvdGo d

/-- A job reads a part of its own over channel 12 (R39, R155, R157, R174). -/
def State.readPart (s : State) (d j part : Nat) (addr : W64) (len : Nat) (pasid : Option (BitVec 20)) (noSnoop : Bool) : State :=
  let src := (s.job? d j).map Job.src
  (s.modJob d j (fun y => { y with data := { y.data with reads := y.data.reads ++ [part] } })).kvdRead d
    ⟨.job j part, addr, len, pasid, noSnoop, (src.map JobSrc.inst).getD 0, (src.map JobSrc.mgr).getD false, false⟩

/-- What waits for a channel goes on: the reads of channel 12, and the transfers without one. -/
def State.goChans (s : State) (d : Nat) : State := (s.kvdGo d).grantChans d

/-- Channels held or stopped go on where they waited (R46, R332). -/
def State.resumeChans (s : State) (d : Nat) : State :=
  (((List.range 12) ++ [13]).foldl (fun (t : State) (ch : Nat) =>
    let c : Channel := (t.die d).chan ch
    if c.job.isSome ∧ (c.state = ChState.held ∨ c.state = ChState.stopped) then t.nextDesc d ch else t) s).goChans d

/-- Operations that package LOCK does not stop (R424, R482): COMPLETE_TRANSITION, ZEROISE, UNLOCK, LOG_DRAIN. -/
def Sqe.lockFree (e : Sqe) : Bool := decide (e.opcode = 0xF021 ∨ e.opcode = 0xF030 ∨ e.opcode = 0xF031 ∨ e.opcode = 0xF040)

/-- The program of a job has ended with the result the job holds. The status a stop has fixed replaces it (R41, R238, R424); output of a good
status goes out before the completion (R66, R75), as does what a long AES-GCM decryption wrote before its tag failed (R95). -/
def State.jobDone (s : State) (d j : Nat) : State :=
  match s.job? d j with
  | none => s
  | some x =>
    let r : JobResult := x.result.getD ⟨stOk, 0, 0, []⟩
    if x.suppress then s.finish d j r.status r.detail r.etime 0
    else
      match x.failed with
      | some f => s.finish d j f.1 f.2 r.etime 0
      | none =>
        if s.pkg.lock && !x.sqe.lockFree then s.finish d j stLocked 0 r.etime 0
        else if (statusGood r.status ∨ r.status = stTagMismatch) ∧ r.out ≠ [] then (s.modJob d j (fun y => { y with stage := .outXfer })).startOut d j
        else s.finish d j r.status r.detail r.etime 0

/-- Which of several causes decides a stopped job's status (R238): the tamper response, then a machine check or a fence, then a failed read. -/
def stopRank (x : W16) : Nat := if x = stLocked then 0 else if x = stMachineCheck then 1 else if x = stHostFault then 2 else 3

/-- Fix the status a job ends with, unless one that comes first is fixed (R238). -/
def Job.fail (x : Job) (status : W16) (detail : W32) : Job :=
  match x.failed with
  | some f => if stopRank status < stopRank f.1 then { x with failed := some (status, detail) } else x
  | none => { x with failed := some (status, detail) }

/-- Set the result of a job's program. -/
def State.result (s : State) (d j : Nat) (status : W16) (detail : W32) (etime : Nat) (out : List Byte) : State :=
  s.modJob d j (fun x => { x with result := some ⟨status, detail, etime, out⟩ })

/-- Progress of a tenant's or manager's job (R113): position n and a PERMILLE, neither of which decreases; a job with TRACK raises the queue event as PERMILLE
first reaches 250, 500 and 750 (R129). -/
def State.jobAt (s : State) (d j n permille : Nat) : State :=
  match s.job? d j with
  | none => s
  | some x =>
    let pm := max x.permille (min 990 permille)
    let t := if 750 ≤ pm then 3 else if 500 ≤ pm then 2 else if 250 ≤ pm then 1 else 0
    let s := s.modJob d j (fun x => { x with step := max x.step n, permille := pm, tracked := max x.tracked t })
    if x.sqe.track ∧ x.tracked < t then s.queueEvent d x.src.queue else s

/-- The start of step n of m (R113). -/
def State.jobStep (s : State) (d j n m : Nat) : State := s.jobAt d j n (1000 * (n - 1) / max 1 m)

/-- In step n of m, `k` repetitions have finished of an expected count of `e10` tenths (R113): g is k / E, and 0.9 at most. -/
def State.jobRepeat (s : State) (d j n m k e10 : Nat) : State :=
  let g := min (10 * k * 1000 / max 1 e10) 900
  s.jobAt d j n ((1000 * (n - 1) + g) / max 1 m)

/-- The start of step n of m of a manager operation, which its page reports too (R58, R113). -/
def State.pageStep (s : State) (d j blk pageDie n m : Nat) : State :=
  (s.jobStep d j n m).progress pageDie blk 0 n (min 990 (1000 * (n - 1) / max 1 m))

/-- Statuses of checks that end a job before dispatch (R135): key resolution, quotas, instance and security checks, a length that does not fit. -/
def statusEarly (x : W16) : Bool :=
  decide (0x200 ≤ x.toNat ∧ x.toNat < 0x500) || decide (0x600 ≤ x.toNat) || decide (x = stLength)

/-- The engine time of a job that ends with a status in the row of an operation without an engine: zero where R135 says so. -/
def timeOf (status : W16) (ps : Nat) : Nat := if statusEarly status then 0 else ps

end Sys2Proof.Machine
end

