-- ==== Sys2Proof/Config.lean ====
section
/-! DEFINITION. What an implementation fixes and the free values: constants with no body, so that no proof can see what they are. The functions of this file
stand for the cryptographic functions whose standards the manual cites without restating (R19), for silicon that differs from part to
part, and for what the manual leaves open. Each is named in a log entry. -/

namespace Sys2Proof.Config

/-! ### Random numbers -/

/-- The bytes an LVE draws from its masking buffer (R208), by die, engine and draw number (log 5). -/
opaque maskDraw : Nat → Nat → Nat → VReg
/-- A Keccak state with no stated content (R209) (log 28). -/
opaque freeKeccak : Nat → Nat → Nat → KState
/-- Bytes drawn from a DRBG (R320), by draw number and length (log 5). -/
opaque drbg : Nat → Nat → List Byte
/-- A byte of the DRBG read as a whole number draw, by draw number (repeat counts of rejection sampling) (log 5). -/
opaque freeNat : Nat → Nat

/-- The modulus in force when MODSEL is 3 and no VSETMOD has loaded LMOD: the manual states no result of a modular instruction there (R189) (log 140). -/
opaque zeroModulus : Nat

/-! ### The control store (R239) -/

/-- A microword of the ROM, by microaddress: the encodings are internal to a ROM revision (R224) (log 146). -/
opaque microRom : Nat → BitVec 36
/-- Where the vector table of the ROM sends an entry vector (R225) (log 146). -/
opaque romVector : Nat → Nat
/-- The variant that a ROM map derives from SUB, by OP and SUB (R225) (log 146). -/
opaque variant : Nat → Nat → Nat
/-- What a data-path micro-operation leaves in a temporary register, by microaddress and draw (R223) (log 146). -/
opaque tempValue : Nat → Nat → VReg
/-- The standard programs in the vendor program ROM, by program and instruction index (log 17). -/
opaque vendorText : Nat → Nat → W64
/-- The identifier under which patches replace a standard program (R241), by our number of it: opcode and PSET (log 17). -/
opaque vendorProgram : Nat → Nat
/-- What a vendor program's instruction does to the form of a masked value, by program and instruction index: 0 nothing, 1 to 4 a JOIN of the four kinds of
value of R257, 5 + k a raise of order that keeps share 1 in register k (R256) (log 17). -/
opaque formChange : Nat → Nat → Nat
/-- Microwords of a class that a vendor program executes, by program, duration in clocks at the shipped map, and class (R230) (log 25). -/
opaque classCount : Nat → Nat → Nat → Nat
/-- How often a standard program of a BNE runs a primitive, by program and the primitive's place in the list of Machine/Primitives (R283) (log 25). -/
opaque primCount : Nat → Nat → Nat
/-- Microwords that a vendor program has executed in a time, by program and time in ps (R249) (log 25). -/
opaque microwords : Nat → Nat → Nat
/-- Clocks from an abort request to the checkpoint that samples it, by draw (R238, R249) (log 26). -/
opaque abortLatency : Nat → Nat

/-! ### Silicon -/

/-- M_ROM of the stepping (R149) (log 3). -/
opaque mRom : List Byte
/-- The 16-byte header of a Relay frame as associated data (R374, R378), from its kind, source, destination and sequence number: the TYPE codes and the
algorithm of FCODE are not stated (log entry 148). -/
opaque relayHeader : Nat → Nat → Nat → Nat → List Byte
/-- The Sirvamos ML-DSA-87 public key in ROM (R480) (log 3). -/
opaque sirvamosKey : List Byte
/-- The PUF key of a die: its SRAM response reconstructed with its helper data (R149) (log 3). -/
opaque pufKey : Nat → List Byte → List Byte
/-- The stepping as the Revision ID (R35) (log 3). -/
opaque stepping : Byte
/-- The JEP106 code of Sirvamos (R496) (log 3). -/
opaque jep106 : BitVec 11
/-- A temperature that is not whole degrees as the one byte of SMBus code 0x03, in quarter degrees (R509): the manual gives no rounding (log 95). -/
opaque wholeDegrees : Int → Byte
/-- The directory that ACTIVATE writes (R495): from the directory in use, the entry activated and the candidate's own directory (log 93). -/
opaque activatedDir : List Byte → Nat → List Byte → List Byte
/-- The vendor identifier that PCI-SIG assigned to Sirvamos (R35) (log 3). -/
opaque vendorId : W16
/-- Where a capability lies in configuration space, by its code (log 123). -/
opaque capBase : Nat → Nat
/-- A configuration register whose value the manual does not give (R36), by its number and the draw (log 3). -/
opaque cfgReg : Nat → Nat → W32
/-- MINOR of VERSION on a stepping after the first, by block code, and of the portal pages by code 0 (R517) (log 3). -/
opaque blockMinor : Nat → W16
/-- The subject key of a certificate in its DER encoding (R480) (log 83). -/
opaque certSubject : List Byte → List Byte
/-- Milliseconds from reset release to READY (R515), by boot (log 3). -/
opaque bootTime : Nat → W16

/-- The Alias certificate (R179), whose DER encoding the manual does not give: the Alias key, the measurements with the SVNs, the life-cycle
state (log 83). -/
opaque aliasCert : List Byte → List Byte → Nat → List Byte

/-! ### Times that the manual does not give -/

/-- Time in ps that ETIME reports of an operation without a time formula, by opcode and draw (log 24). -/
opaque opTime : Nat → Nat → Nat
/-- Miller-Rabin rounds of an RSA prime (R299, FIPS 186-5 Appendix B.3), by the modulus length in bits (log 8). -/
opaque rsaRounds : Nat → Nat
/-- Time in ps of RSA_KEYGEN, by the length of a prime in bytes and the candidates tried (R110) (log 24). -/
opaque rsaKeygenTime : Nat → Nat → Nat
/-- Time in ps of CURVE_LOAD before the most that R110 allows, by FIELD_BITS, the position at which it ends (8: no check failed) and draw (log 24). -/
opaque curveTime : Nat → Nat → Nat → Nat
/-- Engine time in ps of a vendor program up to the checkpoint where it is stopped (R237), by program and draw (log 26). -/
opaque partTime : Nat → Nat → Nat

/-! ### Signed images whose layout the manual does not give -/

/-- A boot firmware image verifies under the key in ROM with its context (R494) (log 93). -/
opaque fwValid : List Byte → Bool
/-- The SVN in its signed header (R151, R494) (log 93). -/
opaque fwSvn : List Byte → Nat
/-- The subsystem IDs in its signed header (R35) (log 93). -/
opaque fwSubsys : List Byte → W32

/-! ### Post-quantum values that no standard of R19 gives -/

/-- The public key of an HQC payload (R104), by PSET: the specification that R81 pins is not restated (log 6). -/
opaque hqcPub : Nat → List Byte → List Byte
/-- θ from the message, the public key and the salt (R278) (log 6). -/
opaque hqcTheta : Nat → List Byte → List Byte → List Byte → List Byte
/-- The ciphertext without its salt: PSET, public key, message, θ (log 6). -/
opaque hqcEncrypt : Nat → List Byte → List Byte → List Byte → List Byte
/-- The message that a ciphertext decodes to: PSET, payload, ciphertext (log 6). -/
opaque hqcDecrypt : Nat → List Byte → List Byte → List Byte
/-- The shared secret of a message or an implicit-rejection value and a ciphertext (log 6). -/
opaque hqcShared : Nat → List Byte → List Byte → List Byte
/-- The fixed-weight sampler completes within its staged stream for this θ (R279) (log 6). -/
opaque hqcSampled : Nat → List Byte → Bool
/-- The expanded h and s of a public key, as the KPC entry holds them (R278) (log 6). -/
opaque hqcEntry : Nat → List Byte → List Byte
/-- What an induced fault makes of an intermediate value of a vendor program, by draw (R254) (log 139). -/
opaque disturb : Nat → List Byte → List Byte
/-- SEED and identifier I of a lower HSS level (R104), from the set, the parent level's SEED and I, and its leaf: the manual leaves the derivation to the
device (log 6). -/
opaque hssChild : Nat → List Byte → Nat → List Byte

end Sys2Proof.Config
end

