-- ==== Sys2Proof/Machine/Curve.lean ====
section
/-! DEFINITION. Arithmetic of the BNE's curves and moduli as numbers (R283, R287, R290, R297): modular powers, short-Weierstrass points, Miller-Rabin rounds, the named
curves of FIPS 186-5, and the digests of R78. -/

namespace Sys2Proof.Machine

/-! ### Numbers -/

/-- b ^ e mod m, by the bits of e, `n` of them. -/
def modExpN (n b e m : Nat) : Nat :=
  match n with
  | 0 => 1 % m
  | n + 1 =>
    let h := modExpN n (b * b % m) (e / 2) m
    if e % 2 = 1 then b * h % m else h

/-- b ^ e mod m. -/
def modExp (b e m : Nat) : Nat := modExpN (e.log2 + 1) (b % m) e m

/-- The inverse modulo a prime. -/
def invMod (a p : Nat) : Nat := modExp a (p - 2) p

/-- a - b mod p. -/
def subMod (a b p : Nat) : Nat := (a + p - b % p) % p

/-- The odd part and the power of two of a number: `n` halvings at most. -/
def oddPart (n m k : Nat) : Nat × Nat :=
  match n with
  | 0 => (m, k)
  | n + 1 => if m % 2 = 0 ∧ m ≠ 0 then oddPart n (m / 2) (k + 1) else (m, k)

/-- One Miller-Rabin round with a base: whether p passes. -/
def millerRabin (p base : Nat) : Bool :=
  let t := oddPart p.log2 (p - 1) 0
  let x := modExp base t.1 p
  decide (x = 1) || (List.range t.2).any (fun i => decide (modExp x (2 ^ i) p = p - 1))

/-! ### Points -/

/-- A short-Weierstrass curve: the field prime, a, b, the base point, its order and cofactor, the field length in bytes. -/
structure Curve where
  p : Nat
  a : Nat
  b : Nat
  gx : Nat
  gy : Nat
  n : Nat
  h : Nat
  len : Nat
  deriving DecidableEq, Repr

/-- A point; none at infinity. -/
abbrev EcPoint := Option (Nat × Nat)

/-- The coordinates satisfy the curve's equation. -/
def Curve.on (c : Curve) (x y : Nat) : Bool := decide (y * y % c.p = (x * x * x + c.a * x + c.b) % c.p)

/-- The sum of two points. -/
def Curve.add (c : Curve) (s t : EcPoint) : EcPoint :=
  match s, t with
  | none, t => t
  | s, none => s
  | some (x1, y1), some (x2, y2) =>
    if x1 % c.p = x2 % c.p ∧ (y1 + y2) % c.p = 0 then none
    else
      let l := if x1 % c.p = x2 % c.p then (3 * x1 * x1 + c.a) * invMod (2 * y1 % c.p) c.p % c.p
        else subMod y2 y1 c.p * invMod (subMod x2 x1 c.p) c.p % c.p
      let x3 := subMod (l * l) (x1 + x2) c.p
      some (x3, subMod (l * subMod x1 x3 c.p) y1 c.p)

/-- A multiple of a point, by the bits of the scalar. -/
def Curve.mulN (c : Curve) (n k : Nat) (q : EcPoint) : EcPoint :=
  match n with
  | 0 => none
  | n + 1 =>
    let r := c.mulN n (k / 2) (c.add q q)
    if k % 2 = 1 then c.add q r else r

/-- k·Q. -/
def Curve.mul (c : Curve) (k : Nat) (q : EcPoint) : EcPoint := c.mulN (k.log2 + 1) k q

/-- The base point. -/
def Curve.g (c : Curve) : EcPoint := some (c.gx, c.gy)

/-- SEC1 uncompressed encoding (R90). -/
def Curve.encode (c : Curve) (q : EcPoint) : List Byte :=
  match q with
  | some (x, y) => 0x04#8 :: (beBytes c.len x ++ beBytes c.len y)
  | none => 0x04#8 :: List.replicate (2 * c.len) 0

/-- P-256. -/
def curveP256 : Curve :=
  ⟨0xffffffff00000001000000000000000000000000ffffffffffffffffffffffff, 0xffffffff00000001000000000000000000000000fffffffffffffffffffffffc,
   0x5ac635d8aa3a93e7b3ebbd55769886bc651d06b0cc53b0f63bce3c3e27d2604b,
   0x6b17d1f2e12c4247f8bce6e563a440f277037d812deb33a0f4a13945d898c296, 0x4fe342e2fe1a7f9b8ee7eb4a7c0f9e162bce33576b315ececbb6406837bf51f5,
   0xffffffff00000000ffffffffffffffffbce6faada7179e84f3b9cac2fc632551, 1, 32⟩

/-- P-384. -/
def curveP384 : Curve :=
  ⟨2 ^ 384 - 2 ^ 128 - 2 ^ 96 + 2 ^ 32 - 1, 2 ^ 384 - 2 ^ 128 - 2 ^ 96 + 2 ^ 32 - 4,
   0xb3312fa7e23ee7e4988e056be3f82d19181d9c6efe8141120314088f5013875ac656398d8a2ed19d2a85c8edd3ec2aef,
   0xaa87ca22be8b05378eb1c71ef320ad746e1d3b628ba79b9859f741e082542a385502f25dbf55296c3a545e3872760ab7,
   0x3617de4a96262c6f5d9e98bf9292dc29f8f41dbd289a147ce9da3113b5f0b8c00a60b1ce1d7e819d7a431d7c90ea0e5f,
   0xffffffffffffffffffffffffffffffffffffffffffffffffc7634d81f4372ddf581a0db248b0a77aecec196accc52973, 1, 48⟩

/-- P-521. -/
def curveP521 : Curve :=
  ⟨2 ^ 521 - 1, 2 ^ 521 - 4,
   0x51953eb9618e1c9a1f929a21a0b68540eea2da725b99b315f3b8b489918ef109e156193951ec7e937b1652c0bd3bb1bf073573df883d2c34f1ef451fd46b503f00,
   0xc6858e06b70404e9cd9e3ecb662395b4429c648139053fb521f828af606b4d3dbaa14b5e77efe75928fe1dc127a2ffa8de3348b3c1856a429bf97e7e31c2e5bd66,
   0x11839296a789a3bc0045c8a5fb42c7d1bd998f54449579b446817afbd17273e662c97ee72995ef42640c550b9013fad0761353c7086a272c24088be94769fd16650,
   0x1fffffffffffffffffffffffffffffffffffffffffffffffffffffffffffffffffa51868783bf2f966b7fcc0148f709a5d03bb5c9b8899c47aebb6fb71e91386409, 1, 66⟩

/-- The curve of a record of CURVE_LOAD with field length L (R92). -/
def curveOf (rec_ : List Byte) (l : Nat) : Curve :=
  let f (i : Nat) : Nat := beNat (slice rec_ (i * l) l)
  ⟨f 0, f 1, f 2, f 3, f 4, f 5, beNat (slice rec_ (6 * l) 8), l⟩

/-- A named short-Weierstrass curve by PSET. -/
def namedCurve? (p : Nat) : Option Curve := if p = 1 then some curveP256 else if p = 2 then some curveP384 else if p = 3 then some curveP521 else none

/-! ### Digests -/

/-- A digest by its HASH code (R78). -/
def hashOf (c : Nat) (msg : List Byte) : List Byte :=
  match c with
  | 1 => sha2 1 32 msg
  | 2 => sha2 2 48 msg
  | 3 => sha2 3 64 msg
  | 4 => sponge 136 0x06 32 msg
  | 5 => sponge 104 0x06 48 msg
  | 6 => sponge 72 0x06 64 msg
  | 7 => sponge 168 0x1F 32 msg
  | _ => sponge 136 0x1F 64 msg

/-- Block length of a HASH code: of SHA-3 its rate. -/
def hashBlock (c : Nat) : Nat := [64, 128, 128, 136, 104, 72].getD (c - 1) 136

/-- HMAC (FIPS 198-1) with a HASH code. -/
def hmac (c : Nat) (key msg : List Byte) : List Byte :=
  let b := hashBlock c
  let k0 := slice (if b < key.length then hashOf c key else key) 0 b
  hashOf c (k0.map (· ^^^ 0x5C#8) ++ hashOf c (k0.map (· ^^^ 0x36#8) ++ msg))

/-! ### Montgomery curves (RFC 7748) -/

/-- A field, (A - 2) / 4 and the length of a u-coordinate in bits: X25519, X448. -/
structure MontCurve where
  p : Nat
  a24 : Nat
  size : Nat
  deriving DecidableEq, Repr

/-- X25519. -/
def mont25519 : MontCurve := ⟨2 ^ 255 - 19, 121665, 255⟩
/-- X448. -/
def mont448 : MontCurve := ⟨2 ^ 448 - 2 ^ 224 - 1, 39081, 448⟩

/-- One step of the ladder on (x2, z2), (x3, z3). -/
def MontCurve.step (c : MontCurve) (x1 x2 z2 x3 z3 : Nat) : Nat × Nat × Nat × Nat :=
  let a := (x2 + z2) % c.p
  let b := subMod x2 z2 c.p
  let aa := a * a % c.p
  let bb := b * b % c.p
  let e := subMod aa bb c.p
  let da := subMod x3 z3 c.p * a % c.p
  let cb := (x3 + z3) * b % c.p
  let u := (da + cb) % c.p
  let v := subMod da cb c.p
  (aa * bb % c.p, e * (aa + c.a24 * e) % c.p, u * u % c.p, x1 * (v * v % c.p) % c.p)

/-- The ladder over `n` bits of a scalar, the highest first. -/
def MontCurve.ladder (c : MontCurve) (k x1 n x2 z2 x3 z3 : Nat) : Nat :=
  match n with
  | 0 => x2 * invMod z2 c.p % c.p
  | n + 1 =>
    if k / 2 ^ n % 2 = 1 then
      let r := c.step x1 x3 z3 x2 z2
      c.ladder k x1 n r.2.2.1 r.2.2.2 r.1 r.2.1
    else
      let r := c.step x1 x2 z2 x3 z3
      c.ladder k x1 n r.1 r.2.1 r.2.2.1 r.2.2.2

/-- A scalar after clamping. -/
def MontCurve.clamp (c : MontCurve) (k : Nat) : Nat :=
  if c.size = 255 then k / 8 * 8 % 2 ^ 254 + 2 ^ 254 else k / 4 * 4 % 2 ^ 447 + 2 ^ 447

/-- X25519 or X448 of a scalar and a u-coordinate, which is taken without its top bit (X25519) and reduced (R104). -/
def MontCurve.apply (c : MontCurve) (scalar u : List Byte) : List Byte :=
  let x := leNat u % 2 ^ c.size % c.p
  leBytes ((c.size + 7) / 8) (c.ladder (c.clamp (leNat scalar)) x c.size 1 0 x 1)

/-- The base point. -/
def MontCurve.base (c : MontCurve) : List Byte := leBytes ((c.size + 7) / 8) (if c.size = 255 then 9 else 5)

/-- The curve of a PSET. -/
def montOf (p : Nat) : MontCurve := if p = 4 then mont25519 else mont448

/-! ### ECDSA -/

/-- The integer of a digest: its leftmost bits, as many as n has (R91). -/
def digestInt (c : Curve) (h : List Byte) : Nat :=
  let bitsN := c.n.log2 + 1
  if bitsN < 8 * h.length then beNat h / 2 ^ (8 * h.length - bitsN) else beNat h

/-- r and s of a signature with the scalar d, the nonce k and the digest's integer e (FIPS 186-5). -/
def Curve.sign (c : Curve) (d k e : Nat) : Nat × Nat :=
  let r := match c.mul k c.g with | some (x, _) => x % c.n | none => 0
  (r, invMod k c.n * (e + r * d) % c.n)

/-- An integer as the octets that a nonce mixes (RFC 6979): of the length of n. -/
def Curve.nLen (c : Curve) : Nat := (c.n.log2 + 8) / 8

/-- The candidate nonces of deterministic ECDSA: at most `fuel` of them. -/
def nonceLoop (c : Curve) (h fuel : Nat) (k v : List Byte) : Nat :=
  match fuel with
  | 0 => 1
  | fuel + 1 =>
    let hl := (hashOf h []).length
    let vs := (List.range ((c.n.log2 + 8 * hl) / (8 * hl))).foldl (fun (a : List Byte × List Byte) _ =>
      let w := hmac h k a.1
      (w, a.2 ++ w)) (v, [])
    let t := digestInt c vs.2
    if 1 ≤ t ∧ t < c.n then t
    else
      let k' := hmac h k (vs.1 ++ [0x00#8])
      nonceLoop c h fuel k' (hmac h k' vs.1)

/-- The deterministic nonce of FIPS 186-5 for a scalar and a digest, by HMAC of a HASH code. -/
def Curve.nonce (c : Curve) (h d : Nat) (digest : List Byte) : Nat :=
  let hl := (hashOf h []).length
  let seed := beBytes c.nLen d ++ beBytes c.nLen (digestInt c digest % c.n)
  let v0 := List.replicate hl 0x01#8
  let k1 := hmac h (List.replicate hl 0x00#8) (v0 ++ [0x00#8] ++ seed)
  let v1 := hmac h k1 v0
  let k2 := hmac h k1 (v1 ++ [0x01#8] ++ seed)
  nonceLoop c h 64 k2 (hmac h k2 v1)

/-- A signature verifies under a point. -/
def Curve.verify (c : Curve) (q : EcPoint) (e r s : Nat) : Bool :=
  let w := invMod s c.n
  match c.add (c.mul (e * w % c.n) c.g) (c.mul (r * w % c.n) q) with
  | some (x, _) => decide (x % c.n = r)
  | none => false

end Sys2Proof.Machine
end

