-- ==== Sys2Proof/Machine/LveOps.lean ====
section
/-! DEFINITION. The shared operations of the LVE: element access (R186), operand forms (R191, R197), modular
arithmetic (R198), the operand window (R193 to R195), masking draws (R208, R216), and the clocks of R212. -/

namespace Sys2Proof.Machine

/-- An element of `w` bits of a vector register (R186). -/
def elemN (w : Nat) (x : VReg) (i : Nat) : Nat := (x.toNat >>> (w * i)) % 2 ^ w

/-- The register whose elements of `w` bits are `g 0`, `g 1`, …, `g (n - 1)`. -/
def packElems (w n : Nat) (g : Nat → Nat) : VReg :=
  BitVec.ofNat 2048 ((List.range n).foldr (fun i acc => g i % 2 ^ w + 2 ^ w * acc) 0)

/-- The mask register whose bits are `g 0`, `g 1`, …. -/
def packMask (g : Nat → Bool) : MReg :=
  BitVec.ofNat 256 ((List.range 256).foldr (fun i acc => b2n (g i) + 2 * acc) 0)

/-- Vector register `k`. -/
def Lve.vr (l : Lve) (k : Nat) : VReg := l.core.v[k]?.getD 0
/-- Mask register `k`. -/
def Lve.mr (l : Lve) (k : Nat) : MReg := l.core.m[k]?.getD 0
/-- Scalar register `k`. -/
def Lve.sr (l : Lve) (k : Nat) : W64 := l.core.sc[k]?.getD 0

/-- Write vector register `k`. -/
def Lve.setV (l : Lve) (k : Nat) (x : VReg) : Lve := { l with core := { l.core with v := l.core.v.setIfInBounds k x } }
/-- Write mask register `k`. -/
def Lve.setM (l : Lve) (k : Nat) (x : MReg) : Lve := { l with core := { l.core with m := l.core.m.setIfInBounds k x } }
/-- Write scalar register `k`. -/
def Lve.setS (l : Lve) (k : Nat) (x : W64) : Lve := { l with core := { l.core with sc := l.core.sc.setIfInBounds k x } }

/-- Write consecutive vector registers from `k`; the values were all computed before the first write, so the writes take
effect together. -/
def Lve.setVs (l : Lve) : Nat → List VReg → Lve
  | _, [] => l
  | k, x :: xs => (l.setV k x).setVs (k + 1) xs

/-- Note a fault of the job, the first one only (R211). -/
def Lve.setFault (l : Lve) (x : LveFault) : Lve :=
  { l with seq := { l.seq with fault := some (l.seq.fault.getD x) } }

/-- Raise an operand fault: VSTART takes the element index (R192, R210). -/
def Lve.operandFault (l : Lve) (i : W32) : Lve :=
  { (l.setFault (.operand i)) with core := { l.core with vstart := i } }

/-- The element width in bits of a VTYPE (R189). -/
def sewOf (vt : BitVec 4) : Nat := 8 * 2 ^ (vt.toNat % 4)

/-- The element width in force. -/
def Lve.sew (l : Lve) : Nat := sewOf l.core.vtype

/-- VLMAX = 2,048 ÷ SEW (R189). -/
def Lve.vlmax (l : Lve) : Nat := 2048 / l.sew

/-- The active modulus of R189, 0 for none; with LMOD still zero a free value (DESIGN CHOICE, log 140). -/
def Lve.modulus (l : Lve) : Nat :=
  match l.core.vtype.toNat / 4 with
  | 0 => 0
  | 1 => 3329
  | 2 => 8380417
  | _ => if l.core.lmod = 0 then Config.zeroModulus else l.core.lmod.toNat

/-- VTYPE is valid with this LMOD (R189). -/
def vtypeOk (vt : BitVec 4) (lmod : W32) : Bool :=
  let sew := sewOf vt
  match vt.toNat / 4 with
  | 0 => true
  | 1 => sew == 16
  | 2 => sew == 32
  | _ => (sew == 16 && decide (lmod.toNat < 2 ^ 14)) || (sew == 32 && decide (lmod.toNat < 2 ^ 30))

/-- A modular instruction finds a modulus in force (R189). -/
def Lve.modOk (l : Lve) : Bool := decide (l.core.vtype.toNat / 4 ≠ 0) && vtypeOk l.core.vtype l.core.lmod

/-- The modulus of arithmetic shares: q, or 2^SEW when no modulus is in force (R189, R207). -/
def Lve.shareMod (l : Lve) : Nat := if l.core.vtype.toNat / 4 = 0 then 2 ^ l.sew else l.modulus

/-- Element `i` is active (R191). -/
def Lve.active (l : Lve) (f : LveFields) (i : Nat) : Bool :=
  decide (i < l.core.vl) && (!f.men || bit (l.mr f.km.toNat) i)

/-- The register `dst` with its active elements replaced (R191). -/
def Lve.mapActive (l : Lve) (f : LveFields) (dst : Nat) (g : Nat → Nat) : VReg :=
  packElems l.sew l.vlmax (fun i => if l.active f i then g i else elemN l.sew (l.vr dst) i)

/-- Element `i` of the register that field A names. -/
def Lve.elA (l : Lve) (f : LveFields) (i : Nat) : Nat := elemN l.sew (l.vr f.a.toNat) i
/-- Element `i` of the register that field B names. -/
def Lve.elB (l : Lve) (f : LveFields) (i : Nat) : Nat := elemN l.sew (l.vr f.b.toNat) i

/-- The second operand b of R197, by the form field. -/
def Lve.opB (l : Lve) (f : LveFields) (i : Nat) : Nat :=
  if f.form = 0 then l.elB f i
  else if f.form = 1 then (l.sr f.b.toNat).toNat % 2 ^ l.sew
  else (f.imm.signExtend 64).toNat % 2 ^ l.sew

/-- The signed value of a `w`-bit element. -/
def toSigned (w x : Nat) : Int := if x < 2 ^ (w - 1) then (x : Int) else (x : Int) - 2 ^ w

/-- The `w`-bit element of a signed value. -/
def ofSigned (w : Nat) (x : Int) : Nat := (x % 2 ^ w).toNat

/-- 2^(−w) mod q for odd q. -/
def invPow2 (w q : Nat) : Nat := ((q + 1) / 2) ^ w % q

/-- mont(x, y) = x·y·2^(−SEW) mod q (R198). -/
def mont (w q x y : Nat) : Nat := x * y % q * invPow2 w q % q

/-- The bit reversal of the low `n` bits of a number. -/
def bitRev : Nat → Nat → Nat
  | 0, _ => 0
  | n + 1, x => (x % 2) * 2 ^ n + bitRev n (x / 2)

/-- Modular power by binary exponentiation on `fuel` bits. -/
def powMod (q : Nat) : Nat → Nat → Nat → Nat
  | 0, _, _ => 1 % q
  | fuel + 1, b, e =>
    let h := powMod q fuel (b * b % q) (e / 2)
    if e % 2 = 1 then b * h % q else h

/-- The twiddle tables of R203. A negative power is taken through the group order q − 1. -/
def twiddle (t k : Nat) : Nat :=
  match t with
  | 0 => powMod 3329 16 17 (bitRev 7 k) * 2 ^ 16 % 3329
  | 1 => powMod 3329 16 17 ((3328 - bitRev 7 k) % 3328) * 2 ^ 16 % 3329
  | 2 => powMod 8380417 24 1753 (bitRev 8 k) * 2 ^ 32 % 8380417
  | 3 => powMod 8380417 24 1753 ((8380416 - bitRev 8 k) % 8380416) * 2 ^ 32 % 8380417
  | _ => powMod 3329 16 17 (2 * bitRev 7 k + 1) * 2 ^ 16 % 3329

/-- The modulus of a twiddle table, its length and its element width (R203). -/
def twiddleMod (t : Nat) : Nat × Nat × Nat := if t = 2 ∨ t = 3 then (8380417, 256, 32) else (3329, 128, 16)

/-! ### The operand window -/

/-- The KPC aperture's base (R193). -/
def kpcBase : Nat := 0x40000000

/-- The `n` bytes at `a` lie in the operand window. -/
def Lve.inWindow (l : Lve) (a n : Nat) : Bool := decide (a + n ≤ l.regions.winSize)
/-- The `n` bytes at `a` lie in the KPC aperture. -/
def Lve.inKpc (l : Lve) (a n : Nat) : Bool := decide (kpcBase ≤ a) && decide (a + n ≤ kpcBase + l.kpc.length)

/-- Byte `a` lies in a region that is read-only to the program (R194). -/
def Lve.readOnlyByte (l : Lve) (a : Nat) : Bool :=
  let r := l.regions
  (decide (r.inOff ≤ a) && decide (a < r.inOff + r.inMax)) ||
  (decide (r.auxOff ≤ a) && decide (a < r.auxOff + r.auxMax)) ||
  (decide (r.constOff ≤ a) && decide (a < r.constOff + r.constLen))

/-- A load of `n` bytes at `a` is valid (R195). -/
def Lve.loadOk (l : Lve) (a n : Nat) : Bool := decide (a % n = 0) && (l.inWindow a n || l.inKpc a n)

/-- A store of `n` bytes at `a` is valid (R195). -/
def Lve.storeOk (l : Lve) (a n : Nat) : Bool :=
  decide (a % n = 0) && l.inWindow a n && (List.range n).all (fun j => !l.readOnlyByte (a + j))

/-- One byte the program can load: of the aperture, or of the window. -/
def Lve.loadByte (l : Lve) (a : Nat) : Byte :=
  if l.inKpc a 1 then l.kpc.getD (a - kpcBase) 0 else l.window.read a

/-- The little-endian element of `n` bytes at an address (R186). -/
def Lve.loadElem (l : Lve) (a n : Nat) : Nat := leNat ((List.range n).map (fun j => l.loadByte (a + j)))

/-- Store one little-endian element. -/
def Lve.storeElem (l : Lve) (a n x : Nat) : Lve := { l with window := l.window.writes a (leBytes n x) }

/-- base = S[A] + IMM, sign-extended, modulo 2^64 (R200). -/
def Lve.base (l : Lve) (f : LveFields) : Nat := (l.sr f.a.toNat + f.imm.signExtend 64).toNat

/-- An element address, modulo 2^64. -/
def addr64 (x : Nat) : Nat := x % 2 ^ 64

/-- The first active element whose access breaks R195, unless the job has faulted already (R210, R211): elements from
this index on are not accessed. -/
def Lve.faultAt (l : Lve) (f : LveFields) (ok : Nat → Bool) : Option Nat :=
  if l.seq.fault.isSome then none
  else (List.range l.vlmax).find? (fun i => l.active f i && !ok i)

/-- The elements an access covers: all of them, or those below the faulting one (R210). -/
def Lve.accessEnd (l : Lve) (f : LveFields) (ok : Nat → Bool) : Nat := (l.faultAt f ok).getD l.vlmax

/-- Raise the operand fault of an access, if it met one. -/
def Lve.raiseAt (l : Lve) : Option Nat → Lve
  | none => l
  | some i => l.operandFault (BitVec.ofNat 32 i)

/-- The result register of a load: active elements below the end of the access take the memory's value, or zero where
the access breaks R195 in a job that has faulted already (R211). -/
def Lve.loadReg (l : Lve) (f : LveFields) (dst : Nat) (ok : Nat → Bool) (addr : Nat → Nat) : VReg :=
  let lim := l.accessEnd f ok
  packElems l.sew l.vlmax (fun i =>
    if l.active f i && decide (i < lim) then (if ok i then l.loadElem (addr i) (l.sew / 8) else 0)
    else elemN l.sew (l.vr dst) i)

/-- Stores of the active elements below the end of the access, in ascending order (R200): an element whose access breaks
R195 stores nothing (R211). -/
def Lve.storeRegs (l : Lve) (f : LveFields) (ok : Nat → Bool) (wr : Nat → List (Nat × Nat)) : Lve :=
  let lim := l.accessEnd f ok
  (List.range lim).foldl (fun (m : Lve) i =>
    if l.active f i && ok i then (wr i).foldl (fun (m : Lve) p => m.storeElem p.1 (l.sew / 8) p.2) m else m) l

/-! ### Masking -/

/-- A draw of `n` bytes fits in the pass's masking requirement (R216). -/
def Lve.maskFits (l : Lve) (n : Nat) : Bool := decide (l.seq.maskUsed + n ≤ l.seq.maskBytes)

/-- Draw `n` bytes (`k` registers' worth of free values) from the engine's masking buffer. -/
def Lve.drawn (l : Lve) (n k : Nat) : Lve :=
  { l with seq := { l.seq with maskUsed := l.seq.maskUsed + n, draws := l.seq.draws + k } }

/-- The `j`-th fresh register of the next draw: a free value. -/
def Lve.fresh (l : Lve) (r : LveRef) (j : Nat) : VReg := Config.maskDraw r.die r.engine (l.seq.draws + j)

/-- Run a masking instruction that draws `n` bytes, or note the fault of R216: it then draws and writes nothing. -/
def Lve.masking (l : Lve) (n k : Nat) (eff : Lve → Lve) : Lve :=
  if l.maskFits n then (eff l).drawn n k else l.setFault .maskBudget

/-- w = ⌈VL·SEW ÷ 8⌉ (R208). -/
def Lve.maskW (l : Lve) : Nat := (l.core.vl * l.sew + 7) / 8

/-- log₂ SEW. -/
def Lve.logSew (l : Lve) : Nat := 3 + l.core.vtype.toNat % 4

/-! ### Stepping -/

/-- The instruction index after index `pc`, with the loop stack (R199, R226): at the last instruction of a body the loop
returns to its first until the count is used. -/
def nextPc : List LoopFrame → Nat → Nat × List LoopFrame
  | [], pc => (pc + 1, [])
  | fr :: rest, pc =>
    if fr.last = pc then
      (if 1 < fr.left then (fr.start, { fr with left := fr.left - 1 } :: rest) else nextPc rest pc)
    else (pc + 1, fr :: rest)

/-- Pass to the next instruction, the microwords `n` of this one executed. -/
def Lve.advance (l : Lve) (n : Classes) : Lve :=
  let p := nextPc l.seq.loops l.seq.pc
  { l with seq := { l.seq with pc := p.1, loops := p.2, counts := l.seq.counts.add n } }

/-- The microword of LOOP and LOOPI. -/
def loopWords : Classes := { Classes.zero with seq := 1 }

/-- Enter a loop body of `len` instructions, `count` times (R199): count 0 skips the body. -/
def Lve.enterLoop (l : Lve) (len count : Nat) : Lve :=
  if count = 0 then
    let p := nextPc l.seq.loops (l.seq.pc + len)
    { l with seq := { l.seq with pc := p.1, loops := p.2, counts := l.seq.counts.add loopWords } }
  else
    { l with seq := { l.seq with
        pc := l.seq.pc + 1, counts := l.seq.counts.add loopWords
        loops := ⟨l.seq.pc + 1, l.seq.pc + len, count⟩ :: l.seq.loops } }

/-- The rate in bytes of a Keccak function code (R209): SHAKE128, SHAKE256, SHA3-256, SHA3-384, SHA3-512, raw. -/
def kRate (f : Nat) : Nat :=
  match f with
  | 0 => 168
  | 1 => 136
  | 2 => 136
  | 3 => 104
  | 4 => 72
  | _ => 168

/-- The Keccak state is masked, and its order. -/
def Lve.kOrder (l : Lve) : Nat := l.hash.kshares.length - 1

/-- The permutations that absorbing `n` bytes triggers. -/
def Lve.absorbPerms (l : Lve) (n : Nat) : Nat := (l.hash.kpos + n) / kRate l.hash.kfun

/-- The permutations that squeezing `n` bytes triggers. -/
def Lve.squeezePerms (l : Lve) (n : Nat) : Nat :=
  let r := kRate l.hash.kfun
  if n = 0 then 0 else (l.hash.kpos + n + r - 1) / r - 1

/-- Masking bytes of `p` permutations (R208). -/
def Lve.permMask (l : Lve) (p : Nat) : Nat :=
  match l.kOrder with
  | 0 => 0
  | 1 => 200 * p
  | _ => 600 * p

/-- Clocks of `p` permutations (R212). -/
def Lve.permClocks (l : Lve) (p : Nat) : Nat :=
  match l.kOrder with
  | 0 => 12 * p
  | 1 => 36 * p
  | _ => 60 * p

/-- Ceiling division. -/
def cdiv (a b : Nat) : Nat := (a + b - 1) / b

/-- The duration of an instruction in ENG clocks at the shipped map (R212). -/
def Lve.clocksOf (l : Lve) (o : LveOp) (f : LveFields) : Nat :=
  let vl := l.core.vl
  let wide := l.sew == 32
  let second := f.order == 2
  match o with
  | .nop | .setvl | .vsettype | .vsetmod | .setout | .vaccept | .loop | .loopi | .sli | .salu | .salui | .sjr => 1
  | .lend => 2
  | .valu => if l.sew = 64 ∧ (f.sub.toNat % 64 = 0x09 ∨ f.sub.toNat % 64 = 0x0A) then 4 else 2
  | .vcmp | .malu | .vmerge | .madd | .msub | .mneg | .mred => 2
  | .mmont | .mbar | .tomont => if wide then 5 else 3
  | .cmpr | .dcmpr | .p2r | .decomp => 6
  | .vbfly => if wide then 7 else 4
  | .vbmul => 6
  | .zip | .unzip | .brev | .slideup | .slidedn => 3
  | .bmt | .vcompress => 8
  | .vpack | .vunpack => 3 * cdiv (vl * f.imm.toNat) 2048
  | .vldu | .vstu | .vkld => 3
  | .vldp | .vstp => 2 + cdiv vl 16
  | .vldf | .vstf => 2 + cdiv (f.sub.toNat * vl) 16
  | .vgather | .vscatter => 2 + cdiv vl 8
  | .vcbd => if bit f.sub 0 then (if bit f.sub 1 then 30 else 16) else 4
  | .vrej => 6 + l.permClocks (f.imm.toNat / 16 % 16)
  | .bxor | .bnot | .aadd | .asub | .vjoin | .joina | .split | .splita | .refresh | .amont => if second then 5 else 3
  | .band => if second then 9 else 4
  | .a2b | .b2a => if second then 8 * l.logSew + 16 else 4 * l.logSew + 8
  | .kinit | .kfin | .hout | .hload | .hinit => 2
  | .ksave | .kload => 8
  | .kabs | .kabsm =>
    let n := (l.sr f.b.toNat).toNat
    2 + cdiv n 8 + l.permClocks (l.absorbPerms n)
  | .vxof => 2 + l.permClocks (l.squeezePerms f.imm.toNat)
  | .hblk => 1 + (f.imm.toNat % 4 + 1) * (if l.hash.hfun < 2 then 32 else 40)
  | .hblkm => 1 + (f.imm.toNat + 1) * (if l.hash.hfun < 2 then 32 else 40)

/-! ### Cycle classes (R229, R230) -/

/-- Microwords of one class only. -/
def onlySeq (n : Nat) : Classes := { Classes.zero with seq := n }
/-- VEC microwords. -/
def onlyVec (n : Nat) : Classes := { Classes.zero with vec := n }
/-- MEM microwords. -/
def onlyMem (n : Nat) : Classes := { Classes.zero with mem := n }
/-- RND microwords. -/
def onlyRnd (n : Nat) : Classes := { Classes.zero with rnd := n }
/-- One microword of modular multiplication at the element width, and `n` VEC ones. -/
def oneMul (wide : Bool) (n : Nat) : Classes := if wide then { onlyVec n with mm32 := 1 } else { onlyVec n with mm16 := 1 }

/-- The microwords of an instruction by class. The manual gives the durations (R212) and the classes of VBFLY at SEW 16 and of a Keccak permutation (R229); the
other splits follow from what a class is for. DEDUCED (log 144). -/
def Lve.classesOf (l : Lve) (o : LveOp) (f : LveFields) : Classes :=
  let vl := l.core.vl
  let wide := l.sew == 32
  let second := f.order == 2
  match o with
  | .nop | .setvl | .vsettype | .vsetmod | .setout | .vaccept | .loop | .loopi | .sli | .salu | .salui | .sjr => onlySeq 1
  | .lend => onlySeq 2
  | .valu => onlyVec (if l.sew = 64 ∧ (f.sub.toNat % 64 = 0x09 ∨ f.sub.toNat % 64 = 0x0A) then 4 else 2)
  | .vcmp | .malu | .vmerge | .madd | .msub | .mneg | .mred => onlyVec 2
  | .mmont | .mbar | .tomont => oneMul wide 0
  | .cmpr | .dcmpr | .p2r | .decomp => oneMul wide (if wide then 1 else 3)
  | .vbfly => oneMul wide (if wide then 2 else 1)
  | .vbmul => { Classes.zero with mm16 := 2 }
  | .zip | .unzip | .brev | .slideup | .slidedn => onlyVec 3
  | .bmt | .vcompress => onlyVec 8
  | .vpack | .vunpack => onlyVec (3 * cdiv (vl * f.imm.toNat) 2048)
  | .vldu | .vstu => onlyMem 3
  | .vkld => onlyRnd 3
  | .vldp | .vstp => onlyMem (2 + cdiv vl 16)
  | .vldf | .vstf => onlyMem (2 + cdiv (f.sub.toNat * vl) 16)
  | .vgather | .vscatter => onlyMem (2 + cdiv vl 8)
  | .vcbd => if bit f.sub 0 then (if bit f.sub 1 then { onlyVec 24 with rnd := 6 } else { onlyVec 14 with rnd := 2 }) else onlyVec 4
  | .vrej => { onlyVec 6 with kec := l.permClocks (f.imm.toNat / 16 % 16) }
  | .bxor | .bnot | .aadd | .asub | .vjoin | .joina => onlyVec (if second then 5 else 3)
  | .split | .splita | .refresh | .amont => if second then { onlyVec 3 with rnd := 2 } else { onlyVec 2 with rnd := 1 }
  | .band => if second then { onlyVec 6 with rnd := 3 } else { onlyVec 3 with rnd := 1 }
  | .a2b | .b2a =>
    if second then { onlyVec (6 * l.logSew + 14) with rnd := 2 * (l.logSew + 1) } else { onlyVec (3 * l.logSew + 7) with rnd := l.logSew + 1 }
  | .kinit | .kfin | .hout | .hload | .hinit => onlyVec 2
  | .ksave | .kload => onlyVec 8
  | .kabs =>
    let n := (l.sr f.b.toNat).toNat
    { Classes.zero with seq := 2, vec := cdiv n 8, kec := l.permClocks (l.absorbPerms n) }
  | .kabsm =>
    let n := (l.sr f.b.toNat).toNat
    { Classes.zero with seq := 2, mem := cdiv n 8, kec := l.permClocks (l.absorbPerms n) }
  | .vxof => { onlyVec 2 with kec := l.permClocks (l.squeezePerms f.imm.toNat) }
  | .hblk => { onlySeq 1 with sha := (f.imm.toNat % 4 + 1) * (if l.hash.hfun < 2 then 32 else 40) }
  | .hblkm => { onlySeq 1 with sha := (f.imm.toNat + 1) * (if l.hash.hfun < 2 then 32 else 40) }

end Sys2Proof.Machine
end

