-- ==== Sys2Proof/Machine/Lattice.lean ====
section
/-! DEFINITION. What ML-KEM and ML-DSA share: polynomials of degree below 256 as lists of coefficients modulo q, the number-theoretic transform over its tree of
halves, bit packing, and streams squeezed from SHAKE (FIPS 203, FIPS 204). PRESUMED from the standards that R19 cites (log 6). -/

namespace Sys2Proof.Machine

/-- A polynomial: 256 coefficients below the modulus, the constant one first. -/
abbrev Poly := List Nat

/-- The zero polynomial. -/
def polyZero : Poly := List.replicate 256 0

/-- Sum modulo q. -/
def polyAdd (q : Nat) (a b : Poly) : Poly := List.zipWith (fun x y => (x + y) % q) a b

/-- Difference modulo q. -/
def polySub (q : Nat) (a b : Poly) : Poly := List.zipWith (fun x y => (x + (q - y)) % q) a b

/-- Multiple modulo q. -/
def polyScale (q c : Nat) (a : Poly) : Poly := a.map (fun x => c * x % q)

/-- Product coefficient by coefficient modulo q: of transforms with linear leaves. -/
def polyPointwise (q : Nat) (a b : Poly) : Poly := List.zipWith (fun x y => x * y % q) a b

/-- The polynomials of a vector added up. -/
def polySum (q : Nat) (l : List Poly) : Poly := l.foldl (polyAdd q) polyZero

/-- The root of node `i` of a transform of `m` levels: the generator to the reversed `m` bits of `i`. -/
def nodeRoot (q g m i : Nat) : Nat := powMod q 32 g (bitRev m i)

/-- The transform of the polynomial at node `i`, `n` levels above the leaves. -/
def nttNode (q g m : Nat) : Nat → Nat → Poly → Poly
  | 0, _, a => a
  | n + 1, i, a =>
    let h := a.length / 2
    let lo := a.take h
    let t := polyScale q (nodeRoot q g m i) (a.drop h)
    nttNode q g m n (2 * i) (polyAdd q lo t) ++ nttNode q g m n (2 * i + 1) (polySub q lo t)

/-- Its inverse, without the division by the number of leaves. -/
def inttNode (q g m : Nat) : Nat → Nat → Poly → Poly
  | 0, _, a => a
  | n + 1, i, a =>
    let h := a.length / 2
    let x := inttNode q g m n (2 * i) (a.take h)
    let y := inttNode q g m n (2 * i + 1) (a.drop h)
    polyAdd q x y ++ polyScale q (powMod q 32 (nodeRoot q g m i) (q - 2)) (polySub q x y)

/-- The number that little-endian bits spell. -/
def ofBits (l : List Bool) : Nat := l.foldr (fun b n => b.toNat + 2 * n) 0

/-- The bits of bytes, the lowest of each byte first. -/
def byteBits (l : List Byte) : List Bool := l.flatMap (fun b => (List.range 8).map (fun i => b.getLsbD i))

/-- Numbers of `w` bits each, packed from the lowest bit up. -/
def packBits (w : Nat) (l : List Nat) : List Byte := leBytes ((w * l.length + 7) / 8) (l.foldr (fun x n => x % 2 ^ w + 2 ^ w * n) 0)

/-- `n` numbers of `w` bits from bytes. -/
def unpackBits (w n : Nat) (l : List Byte) : List Nat := let x := leNat l; (List.range n).map (fun i => x / 2 ^ (w * i) % 2 ^ w)

/-- A SHAKE stream: its rate, state and position. -/
structure Stream where
  rate : Nat
  st : KState
  pos : Nat

/-- SHAKE128 (rate 168) or SHAKE256 (rate 136) of a message, ready to squeeze (FIPS 202). -/
def shakeStream (rate : Nat) (msg : List Byte) : Stream := let a := kAbsorb rate msg 0 0; ⟨rate, kPad rate 0x1F a.1 a.2, rate⟩

/-- The next bytes of a stream. -/
def Stream.next (x : Stream) (n : Nat) : List Byte × Stream := let r := kSqueeze x.rate n x.st x.pos; (r.1, { x with st := r.2.1, pos := r.2.2 })

/-- SHAKE128 with `n` bytes of output. -/
def shake128 (msg : List Byte) (n : Nat) : List Byte := sponge 168 0x1F n msg

/-- SHAKE256 with `n` bytes of output. -/
def shake256 (msg : List Byte) (n : Nat) : List Byte := sponge 136 0x1F n msg

/-- Coefficients taken from a stream, `step` bytes at a time, by a rule that gives some of them or none, until there are `want`; at most `fuel` steps (a stream that long
without enough of them has a probability that the standards neglect). -/
def sampleFrom (want step : Nat) (rule : List Byte → List Nat) : Nat → Stream → List Nat → Poly
  | 0, _, acc => acc.take want
  | fuel + 1, x, acc =>
    if want ≤ acc.length then acc.take want
    else let r := x.next step; sampleFrom want step rule fuel r.2 (acc ++ rule r.1)

end Sys2Proof.Machine
end

