-- ==== Sys2Proof/Machine/SlhDsa.lean ====
section
/-! DEFINITION. SLH-DSA (FIPS 205) as the vendor programs compute it (R86, R251, R267 to R269): its hash functions, WOTS+, FORS, the hypertree, signatures with the two checks of the top
layer, verification. PRESUMED from the standard that R19 cites (log 6). -/

namespace Sys2Proof.Machine

/-- The parameters of a set: n, layers d, height h′ of one tree, FORS height a and trees k, digest length m, SHAKE or SHA2. -/
structure SlhSet where
  n : Nat
  d : Nat
  hp : Nat
  a : Nat
  k : Nat
  m : Nat
  shake : Bool
  deriving DecidableEq, Repr

/-- The sets by PSET (R80): 0x11 to 0x16 with SHA2, 0x21 to 0x26 with SHAKE. -/
def slhSet (p : Nat) : SlhSet :=
  let sh := decide (0x21 ≤ p)
  match p % 16 with
  | 1 => ⟨16, 7, 9, 12, 14, 30, sh⟩
  | 2 => ⟨16, 22, 3, 6, 33, 34, sh⟩
  | 3 => ⟨24, 7, 9, 14, 17, 39, sh⟩
  | 4 => ⟨24, 22, 3, 8, 33, 42, sh⟩
  | 5 => ⟨32, 8, 8, 14, 22, 47, sh⟩
  | _ => ⟨32, 17, 4, 9, 35, 49, sh⟩

/-- An address: layer, tree, type and its three words (FIPS 205 section 4.2). -/
structure SlhAdrs where
  layer : Nat
  tree : Nat
  type : Nat
  w1 : Nat
  w2 : Nat
  w3 : Nat
  deriving DecidableEq, Repr

/-- The bytes of an address: 32, or the 22 of the compressed form that the SHA2 sets take. -/
def SlhAdrs.bytes (x : SlhAdrs) (shake : Bool) : List Byte :=
  if shake then beBytes 4 x.layer ++ beBytes 12 x.tree ++ beBytes 4 x.type ++ beBytes 4 x.w1 ++ beBytes 4 x.w2 ++ beBytes 4 x.w3
  else beBytes 1 x.layer ++ beBytes 8 x.tree ++ beBytes 1 x.type ++ beBytes 4 x.w1 ++ beBytes 4 x.w2 ++ beBytes 4 x.w3

/-- The hash of one n-byte value, F and PRF (FIPS 205 section 11). -/
def SlhSet.f (p : SlhSet) (seed : List Byte) (adrs : SlhAdrs) (x : List Byte) : List Byte :=
  if p.shake then shake256 (seed ++ adrs.bytes true ++ x) p.n
  else (sha2 1 32 (seed ++ List.replicate (64 - p.n) 0 ++ adrs.bytes false ++ x)).take p.n

/-- The hash of several n-byte values, H and T. -/
def SlhSet.t (p : SlhSet) (seed : List Byte) (adrs : SlhAdrs) (x : List Byte) : List Byte :=
  if p.shake ∨ p.n = 16 then p.f seed adrs x
  else (sha2 3 64 (seed ++ List.replicate (128 - p.n) 0 ++ adrs.bytes false ++ x)).take p.n

/-- MGF1 with a hash (RFC 8017). -/
def slhMgf (hash : List Byte → List Byte) (seed : List Byte) (n : Nat) : List Byte :=
  ((List.range ((n + 31) / 32)).flatMap (fun i => hash (seed ++ beBytes 4 i))).take n

/-- The message digest H_msg. -/
def SlhSet.hMsg (p : SlhSet) (r seed root msg : List Byte) : List Byte :=
  if p.shake then shake256 (r ++ seed ++ root ++ msg) p.m
  else if p.n = 16 then slhMgf (sha2 1 32) (r ++ seed ++ sha2 1 32 (r ++ seed ++ root ++ msg)) p.m
  else slhMgf (sha2 3 64) (r ++ seed ++ sha2 3 64 (r ++ seed ++ root ++ msg)) p.m

/-- The randomiser PRF_msg. -/
def SlhSet.prfMsg (p : SlhSet) (key rnd msg : List Byte) : List Byte :=
  if p.shake then shake256 (key ++ rnd ++ msg) p.n
  else if p.n = 16 then (hmac 1 key (rnd ++ msg)).take p.n
  else (hmac 3 key (rnd ++ msg)).take p.n

/-! ### WOTS+ -/

/-- The digits of an n-byte message in base 16 with their checksum: 2n + 3 of them. -/
def slhDigits (x : List Byte) : List Nat :=
  let l := x.flatMap (fun b => [b.toNat / 16, b.toNat % 16])
  let c := (l.map (fun v => 15 - v)).foldl (· + ·) 0
  l ++ [c / 256 % 16, c / 16 % 16, c % 16]

/-- `s` steps of a chain from step `i`. -/
def SlhSet.chain (p : SlhSet) (seed : List Byte) (a : SlhAdrs) : Nat → Nat → List Byte → List Byte
  | 0, _, x => x
  | s + 1, i, x => p.chain seed a s (i + 1) (p.f seed { a with w3 := i } x)

/-- The secret start of chain `i` of key pair `kp`. -/
def SlhSet.start (p : SlhSet) (seed sk : List Byte) (layer tree kp i : Nat) : List Byte := p.f seed ⟨layer, tree, 5, kp, i, 0⟩ sk

/-- The compressed public key of chain ends. -/
def SlhSet.ends (p : SlhSet) (seed : List Byte) (layer tree kp : Nat) (l : List (List Byte)) : List Byte := p.t seed ⟨layer, tree, 1, kp, 0, 0⟩ l.flatten

/-- The public key of a one-time key pair. -/
def SlhSet.wotsPk (p : SlhSet) (seed sk : List Byte) (layer tree kp : Nat) : List Byte :=
  p.ends seed layer tree kp ((List.range (2 * p.n + 3)).map (fun i => p.chain seed ⟨layer, tree, 0, kp, i, 0⟩ 15 0 (p.start seed sk layer tree kp i)))

/-- A one-time signature, chain value by chain value. -/
def SlhSet.wotsSign (p : SlhSet) (seed sk msg : List Byte) (layer tree kp : Nat) : List (List Byte) :=
  ((slhDigits msg).zipIdx).map (fun v => p.chain seed ⟨layer, tree, 0, kp, v.2, 0⟩ v.1 0 (p.start seed sk layer tree kp v.2))

/-- The public key that a one-time signature of a message gives. -/
def SlhSet.wotsFrom (p : SlhSet) (seed msg : List Byte) (sig : List (List Byte)) (layer tree kp : Nat) : List Byte :=
  p.ends seed layer tree kp (((slhDigits msg).zipIdx).map (fun v => p.chain seed ⟨layer, tree, 0, kp, v.2, 0⟩ (15 - v.1) v.1 (sig.getD v.2 [])))

/-! ### Trees -/

/-- Parents of a row of nodes at height `z`; `row` numbers the tree's nodes from `first`. -/
def slhParents (join : Nat → List Byte → List Byte → List Byte) : Nat → List (List Byte) → List (List Byte)
  | i, x :: y :: r => join i x y :: slhParents join (i + 1) r
  | _, _ => []

/-- The rows of a tree from its leaves up, `z` of them above the leaves; `join` makes a node from its height, its index and its two children. -/
def treeRows (join : Nat → Nat → List Byte → List Byte → List Byte) (first : Nat) : Nat → Nat → List (List Byte) → List (List (List Byte))
  | 0, _, l => [l]
  | n + 1, z, l => l :: treeRows join (first / 2) n (z + 1) (slhParents (join (z + 1)) (first / 2) l)

/-- The authentication path of a leaf through the rows of a tree. -/
def treePath (rows : List (List (List Byte))) (leaf : Nat) : List (List Byte) :=
  ((rows.dropLast).zipIdx).map (fun r => let i := leaf / 2 ^ r.2; r.1.getD (if i % 2 = 0 then i + 1 else i - 1) [])

/-- The root of rows. -/
def treeRoot (rows : List (List (List Byte))) : List Byte := (rows.getLastD []).getD 0 []

/-- A leaf hashed up a path; the leaf has number `i` at height `z`. -/
def climb (join : Nat → Nat → List Byte → List Byte → List Byte) : Nat → Nat → List Byte → List (List Byte) → List Byte
  | _, _, x, [] => x
  | z, i, x, y :: r => climb join (z + 1) (i / 2) (if i % 2 = 0 then join (z + 1) (i / 2) x y else join (z + 1) (i / 2) y x) r

/-- A node of an XMSS tree. -/
def SlhSet.node (p : SlhSet) (seed : List Byte) (layer tree z i : Nat) (x y : List Byte) : List Byte := p.t seed ⟨layer, tree, 2, 0, z, i⟩ (x ++ y)

/-- The rows of an XMSS tree of the hypertree. -/
def SlhSet.rows (p : SlhSet) (seed sk : List Byte) (layer tree : Nat) : List (List (List Byte)) :=
  treeRows (p.node seed layer tree) 0 p.hp 0 ((List.range (2 ^ p.hp)).map (p.wotsPk seed sk layer tree))

/-! ### FORS -/

/-- `n` numbers of `w` bits from a byte string, the highest bit first. -/
def highBits (w n : Nat) (l : List Byte) : List Nat :=
  let x := beNat l
  (List.range n).map (fun i => x / 2 ^ (8 * l.length - w * (i + 1)) % 2 ^ w)

/-- A node of a FORS tree. -/
def SlhSet.forsNode (p : SlhSet) (seed : List Byte) (tree kp z i : Nat) (x y : List Byte) : List Byte := p.t seed ⟨0, tree, 3, kp, z, i⟩ (x ++ y)

/-- A secret FORS value. -/
def SlhSet.forsKey (p : SlhSet) (seed sk : List Byte) (tree kp i : Nat) : List Byte := p.f seed ⟨0, tree, 6, kp, 0, i⟩ sk

/-- A leaf of a FORS tree. -/
def SlhSet.forsLeaf (p : SlhSet) (seed : List Byte) (tree kp i : Nat) (x : List Byte) : List Byte := p.f seed ⟨0, tree, 3, kp, 0, i⟩ x

/-- The FORS signature of a digest: for each tree the secret value and its path; and the FORS public key. -/
def SlhSet.fors (p : SlhSet) (seed sk md : List Byte) (tree kp : Nat) : List Byte × List Byte :=
  let parts := ((highBits p.a p.k md).zipIdx).map (fun v =>
    let first := v.2 * 2 ^ p.a
    let rows := treeRows (p.forsNode seed tree kp) first p.a 0 ((List.range (2 ^ p.a)).map (fun j =>
      p.forsLeaf seed tree kp (first + j) (p.forsKey seed sk tree kp (first + j))))
    (p.forsKey seed sk tree kp (first + v.1) ++ (treePath rows v.1).flatten, treeRoot rows))
  (parts.flatMap Prod.fst, p.t seed ⟨0, tree, 4, kp, 0, 0⟩ (parts.flatMap Prod.snd))

/-- The FORS public key that a FORS signature gives. -/
def SlhSet.forsFrom (p : SlhSet) (seed sig md : List Byte) (tree kp : Nat) : List Byte :=
  p.t seed ⟨0, tree, 4, kp, 0, 0⟩ (((highBits p.a p.k md).zipIdx).flatMap (fun v =>
    let o := v.2 * (p.a + 1) * p.n
    let i := v.2 * 2 ^ p.a + v.1
    climb (p.forsNode seed tree kp) 0 i (p.forsLeaf seed tree kp i (slice sig o p.n)) ((List.range p.a).map (fun j => slice sig (o + p.n * (j + 1)) p.n))))

/-! ### Keys, signatures, verification -/

/-- What a digest selects: the FORS message, the tree and the leaf of the lowest layer. -/
def SlhSet.select (p : SlhSet) (digest : List Byte) : List Byte × Nat × Nat :=
  let kl := (p.k * p.a + 7) / 8
  let tl := (p.hp * (p.d - 1) + 7) / 8
  (digest.take kl, beNat (slice digest kl tl) % 2 ^ (p.hp * (p.d - 1)), beNat (slice digest (kl + tl) ((p.hp + 7) / 8)) % 2 ^ p.hp)

/-- The rows of the tree of the top layer: what KEYGEN computes and the KPC entry holds (R268). -/
def slhTop (ps : Nat) (seeds : List Byte) : List (List (List Byte)) :=
  let p := slhSet ps
  p.rows (slice seeds (2 * p.n) p.n) (seeds.take p.n) (p.d - 1) 0

/-- SK.seed ‖ SK.prf ‖ PK.seed ‖ PK.root from the first three. -/
def slhKey (ps : Nat) (seeds : List Byte) : List Byte := seeds.take (3 * (slhSet ps).n) ++ treeRoot (slhTop ps seeds)

/-- PK.seed ‖ PK.root. -/
def slhPub (ps : Nat) (key : List Byte) : List Byte := slice key (2 * (slhSet ps).n) (2 * (slhSet ps).n)

/-- The hypertree signature of `msg` from layer `l` on, `n` layers; with it for every layer its tree's rows are walked, the one-time public key that its chains end
in, and the root that the layer signs. -/
def SlhSet.hyper (p : SlhSet) (seed sk : List Byte) : Nat → Nat → Nat → Nat → List Byte → List (List Byte × List (List Byte) × List (List (List Byte)))
  | 0, _, _, _, _ => []
  | n + 1, l, tree, leaf, msg =>
    let rows := p.rows seed sk l tree
    (msg, p.wotsSign seed sk msg l tree leaf, rows) :: p.hyper seed sk n (l + 1) (tree / 2 ^ p.hp) (tree % 2 ^ p.hp) (treeRoot rows)

/-- The leaf of a layer that a digest's tree and leaf select, and its tree. -/
def SlhSet.place (p : SlhSet) (tree leaf : Nat) : Nat → Nat × Nat
  | 0 => (tree, leaf)
  | l + 1 => let q := p.place tree leaf l; (q.1 / 2 ^ p.hp, q.1 % 2 ^ p.hp)

/-- A signature with what its two checks compare: the top leaf from completed chains, the cached leaf, the root of layer d − 2 recomputed, the root signed above (R269). -/
structure SlhRun where
  sig : List Byte
  leaf : List Byte
  leafPlace : Nat
  root : List Byte
  signed : List Byte
  deriving DecidableEq, Repr

/-- SIGN of a formatted message with opt_rand (FIPS 205 Algorithm 19; R267). -/
def slhRun (ps : Nat) (key msg rnd : List Byte) : SlhRun :=
  let p := slhSet ps
  let sk := key.take p.n
  let seed := slice key (2 * p.n) p.n
  let r := p.prfMsg (slice key p.n p.n) rnd msg
  let s := p.select (p.hMsg r seed (slice key (3 * p.n) p.n) msg)
  let f := p.fors seed sk s.1 s.2.1 s.2.2
  let layers := p.hyper seed sk p.d 0 s.2.1 s.2.2 f.2
  let top := p.place s.2.1 s.2.2 (p.d - 1)
  let below := p.place s.2.1 s.2.2 (p.d - 2)
  let lower := layers.getD (p.d - 2) ([], [], [])
  let path (l : Nat) : List (List Byte) := treePath (layers.getD l ([], [], [])).2.2 (p.place s.2.1 s.2.2 l).2
  { sig := r ++ f.1 ++ (List.range p.d).flatMap (fun l => (layers.getD l ([], [], [])).2.1.flatten ++ (path l).flatten)
    leaf := p.wotsPk seed sk (p.d - 1) top.1 top.2
    leafPlace := top.2
    root := climb (p.node seed (p.d - 2) below.1) 0 below.2 (p.wotsFrom seed lower.1 lower.2.1 (p.d - 2) below.1 below.2) (path (p.d - 2))
    signed := (layers.getD (p.d - 1) ([], [], [])).1 }

/-- The root that a hypertree signature gives, layer by layer, `n` of them from layer `l`. -/
def SlhSet.hyperFrom (p : SlhSet) (seed sig : List Byte) : Nat → Nat → Nat → Nat → List Byte → List Byte
  | 0, _, _, _, msg => msg
  | n + 1, l, tree, leaf, msg =>
    let len := 2 * p.n + 3
    let o := l * (len + p.hp) * p.n
    let chains := (List.range len).map (fun i => slice sig (o + i * p.n) p.n)
    let path := (List.range p.hp).map (fun i => slice sig (o + (len + i) * p.n) p.n)
    p.hyperFrom seed sig n (l + 1) (tree / 2 ^ p.hp) (tree % 2 ^ p.hp)
      (climb (p.node seed l tree) 0 leaf (p.wotsFrom seed msg chains l tree leaf) path)

/-- Verification of a formatted message (FIPS 205 Algorithm 20). -/
def slhCheck (ps : Nat) (pk msg sig : List Byte) : Bool :=
  let p := slhSet ps
  let fl := p.k * (p.a + 1) * p.n
  let seed := pk.take p.n
  let r := sig.take p.n
  let s := p.select (p.hMsg r seed (pk.drop p.n) msg)
  let f := p.forsFrom seed (slice sig p.n fl) s.1 s.2.1 s.2.2
  decide (pk.length = 2 * p.n) && decide (sig.length = p.n + fl + p.d * (2 * p.n + 3 + p.hp) * p.n)
    && decide (p.hyperFrom seed (sig.drop (p.n + fl)) p.d 0 s.2.1 s.2.2 f = pk.drop p.n)

end Sys2Proof.Machine
end

