-- ==== Sys2Proof/Machine/HashSig.lean ====
section
/-! DEFINITION. The stateful hash-based signatures as the vendor programs compute them (R82, R88, R270 to R273): LMS and HSS of RFC 8554, XMSS and XMSS^MT of
RFC 8391, both with the hash functions that SP 800-208 gives each set. PRESUMED from the standards that R19 cites (log 6); the keys of lower HSS levels are
`Config.hssChild`. -/

namespace Sys2Proof.Machine

/-- A stateful parameter set (R82): XMSS family, n, total height, Winternitz bits, chains of the one-time scheme, layers, and a SHAKE hash. -/
structure Stf where
  xmss : Bool
  n : Nat
  h : Nat
  w : Nat
  chains : Nat
  layers : Nat
  shake : Bool
  deriving DecidableEq, Repr

/-- Heights and layers of the XMSS^MT codes (R82). -/
def mtShapes : List (Nat × Nat) := [(20, 2), (20, 4), (40, 2), (40, 4), (40, 8), (60, 3), (60, 6), (60, 12)]

/-- Height and layers of one XMSS^MT code. -/
def mtShape (v : Nat) : Nat × Nat := mtShapes.getD v (0, 0)

/-- LM-OTS chain counts of RFC 8554 by Winternitz code, for n = 32 and n = 24. -/
def otsChains (n v : Nat) : Nat := (if n = 32 then [265, 133, 67, 34] else [200, 101, 51, 26]).getD v 0

/-- The set a PSET of class 0x3 names, unless it uses a reserved value (R82). -/
def stf? (p : Nat) : Option Stf :=
  if 255 < p then none
  else if 128 ≤ p then
    let n := if p / 16 % 2 = 1 then 24 else 32
    let sh := decide (p / 32 % 2 = 1)
    if p / 8 % 2 = 1 then none
    else if p / 64 % 2 = 1 then some ⟨true, n, (mtShape (p % 8)).1, 4, if n = 24 then 51 else 67, (mtShape (p % 8)).2, sh⟩
    else if p % 8 < 3 then some ⟨true, n, [10, 16, 20].getD (p % 8) 0, 4, if n = 24 then 51 else 67, 1, sh⟩
    else none
  else
    let n := if p / 32 % 2 = 1 then 24 else 32
    if p / 4 % 8 < 5 then some ⟨false, n, 5 * (p / 4 % 8 + 1), 2 ^ (p % 4), otsChains n (p % 4), 1, decide (p / 64 % 2 = 1)⟩ else none

/-- Trees of a key from its top to its bottom: HSS levels, or layers. -/
def Stf.trees (x : Stf) (levels : Nat) : Nat := if x.xmss then x.layers else max 1 levels

/-- Height of one tree. -/
def Stf.treeH (x : Stf) : Nat := if x.xmss then x.h / max 1 x.layers else x.h

/-- The hash of a set: SHA-256 or SHAKE256, cut to n bytes (SP 800-208 section 2.3). -/
def Stf.digest (x : Stf) (m : List Byte) : List Byte := if x.shake then shake256 m x.n else (sha2 1 32 m).take x.n

/-- A one-time key or a tree of a key: its secret seed, its identifier I or public seed, the address of its layer and tree (RFC 8391; 0 for LMS). -/
structure StfTree where
  seed : List Byte
  pub : List Byte
  layer : Nat
  tree : Nat
  deriving DecidableEq, Repr

/-! ### LMS (RFC 8554) -/

/-- H of I, a leaf or node number, a code and data. -/
def Stf.lms (x : Stf) (t : StfTree) (q code : Nat) (data : List Byte) : List Byte := x.digest (t.pub ++ beBytes 4 q ++ beBytes 2 code ++ data)

/-- A secret value of leaf `q` by its chain index (RFC 8554 Appendix A); index 0xFFFD gives the randomiser C (R272). -/
def Stf.lmsSecret (x : Stf) (t : StfTree) (q i : Nat) : List Byte := x.lms t q i (0xFF :: t.seed)

/-- `n` steps of chain `i` of leaf `q` from step `j`. -/
def Stf.lmsChain (x : Stf) (t : StfTree) (q i : Nat) : Nat → Nat → List Byte → List Byte
  | 0, _, v => v
  | n + 1, j, v => x.lmsChain t q i n (j + 1) (x.lms t q i (beBytes 1 j ++ v))

/-- The checksum's shift `ls` (RFC 8554 section 4.1). -/
def Stf.lmsShift (x : Stf) : Nat := if x.w = 1 then (if x.n = 32 then 7 else 8) else if x.w = 2 then 6 else if x.w = 4 then 4 else 0

/-- The digits of a digest with those of its checksum. -/
def Stf.lmsDigits (x : Stf) (d : List Byte) : List Nat :=
  let c := (highBits x.w (8 * x.n / x.w) d).foldl (fun a v => a + (2 ^ x.w - 1 - v)) 0
  highBits x.w x.chains (d ++ beBytes 2 (c * 2 ^ x.lmsShift % 65536))

/-! ### XMSS (RFC 8391) -/

/-- The padding that separates the keyed hash functions: n bytes, four for n = 24 (SP 800-208 section 5). -/
def Stf.pad (x : Stf) (v : Nat) : List Byte := beBytes (if x.n = 24 then 4 else x.n) v

/-- PRF of a key and 32 bytes. -/
def Stf.prf (x : Stf) (key m : List Byte) : List Byte := x.digest (x.pad 3 ++ key ++ m)

/-- An address: layer and tree, type, and its four words. -/
def StfTree.adrs (t : StfTree) (type a b c d : Nat) : List Byte :=
  beBytes 4 t.layer ++ beBytes 8 t.tree ++ beBytes 4 type ++ beBytes 4 a ++ beBytes 4 b ++ beBytes 4 c ++ beBytes 4 d

/-- A secret chain start of leaf `q` (PRF_keygen, SP 800-208 section 6.2). -/
def Stf.xmssSecret (x : Stf) (t : StfTree) (q i : Nat) : List Byte := x.digest (x.pad 4 ++ t.seed ++ t.pub ++ t.adrs 0 q i 0 0)

/-- `n` steps of chain `i` of leaf `q` from step `j`. -/
def Stf.xmssChain (x : Stf) (t : StfTree) (q i : Nat) : Nat → Nat → List Byte → List Byte
  | 0, _, v => v
  | n + 1, j, v => x.xmssChain t q i n (j + 1) (x.digest (x.pad 0 ++ x.prf t.pub (t.adrs 0 q i j 0) ++ xorB v (x.prf t.pub (t.adrs 0 q i j 1))))

/-- The randomised hash of two nodes at an address of type 1 (L-tree) or 2 (tree). -/
def Stf.randHash (x : Stf) (t : StfTree) (type q z i : Nat) (l r : List Byte) : List Byte :=
  let m (k : Nat) : List Byte := x.prf t.pub (t.adrs type q z i k)
  x.digest (x.pad 1 ++ m 0 ++ xorB l (m 1) ++ xorB r (m 2))

/-- One row of an L-tree from the row below: pairs are hashed, an odd last node goes up. -/
def lPairs (join : Nat → List Byte → List Byte → List Byte) : Nat → List (List Byte) → List (List Byte)
  | i, l :: r :: rest => join i l r :: lPairs join (i + 1) rest
  | _, rest => rest

/-- The L-tree of a one-time public key: leaf `q`, height `z`; 67 nodes need seven rows. -/
def Stf.lTree (x : Stf) (t : StfTree) (q : Nat) : Nat → Nat → List (List Byte) → List Byte
  | 0, _, l => l.headD []
  | n + 1, z, l => x.lTree t q n (z + 1) (lPairs (x.randHash t 1 q z) 0 l)

/-! ### One-time signatures and trees of both families -/

/-- The digits that a signed value selects. -/
def Stf.digits (x : Stf) (d : List Byte) : List Nat := if x.xmss then slhDigits d else x.lmsDigits d

/-- `n` steps of a chain from step `j`. -/
def Stf.chainFrom (x : Stf) (t : StfTree) (q i n j : Nat) (v : List Byte) : List Byte := if x.xmss then x.xmssChain t q i n j v else x.lmsChain t q i n j v

/-- The start of a chain. -/
def Stf.secretAt (x : Stf) (t : StfTree) (q i : Nat) : List Byte := if x.xmss then x.xmssSecret t q i else x.lmsSecret t q i

/-- The leaf node that chain ends compress to. -/
def Stf.leafOf (x : Stf) (t : StfTree) (q : Nat) (ends : List (List Byte)) : List Byte :=
  if x.xmss then x.lTree t q 7 0 ends else x.lms t (2 ^ x.treeH + q) 0x8282 (x.lms t q 0x8080 ends.flatten)

/-- The leaf node of leaf `q`. -/
def Stf.leafNode (x : Stf) (t : StfTree) (q : Nat) : List Byte :=
  x.leafOf t q ((List.range x.chains).map (fun i => x.chainFrom t q i (2 ^ x.w - 1) 0 (x.secretAt t q i)))

/-- The node at height `z` and index `i` from its children. -/
def Stf.joinNode (x : Stf) (t : StfTree) (z i : Nat) (l r : List Byte) : List Byte :=
  if x.xmss then x.randHash t 2 0 (z - 1) i l r else x.lms t (2 ^ (x.treeH - z) + i) 0x8383 (l ++ r)

/-- The rows of a tree from its leaves to its root. -/
def Stf.rowsOf (x : Stf) (t : StfTree) : List (List (List Byte)) :=
  treeRows (x.joinNode t) 0 x.treeH 0 ((List.range (2 ^ x.treeH)).map (x.leafNode t))

/-- The root of a tree. -/
def Stf.rootOf (x : Stf) (t : StfTree) : List Byte := treeRoot (x.rowsOf t)

/-- The chain values that sign a digest with leaf `q`. -/
def Stf.otsSign (x : Stf) (t : StfTree) (q : Nat) (d : List Byte) : List (List Byte) :=
  ((x.digits d).zipIdx).map (fun v => x.chainFrom t q v.2 v.1 0 (x.secretAt t q v.2))

/-- The leaf node that a one-time signature of a digest gives. -/
def Stf.otsLeaf (x : Stf) (t : StfTree) (q : Nat) (d : List Byte) (sig : List (List Byte)) : List Byte :=
  x.leafOf t q (((x.digits d).zipIdx).map (fun v => x.chainFrom t q v.2 (2 ^ x.w - 1 - v.1) v.1 (sig.getD v.2 [])))

/-- The n-byte values of a byte string. -/
def Stf.values (x : Stf) (l : List Byte) (o k : Nat) : List (List Byte) := (List.range k).map (fun i => slice l (o + i * x.n) x.n)

/-- The root that a one-time signature and a path give. -/
def Stf.rootFrom (x : Stf) (t : StfTree) (q : Nat) (d : List Byte) (sig path : List (List Byte)) : List Byte :=
  climb (x.joinNode t) 0 q (x.otsLeaf t q d sig) path

/-! ### The trees of a key -/

/-- The tree and the leaf of one tree that a leaf of the key selects at a level, of so many, the top one 0. -/
def Stf.at (x : Stf) (levels leaf l : Nat) : Nat × Nat :=
  let below := 2 ^ (x.treeH * (x.trees levels - 1 - l))
  (leaf / below / 2 ^ x.treeH, leaf / below % 2 ^ x.treeH)

/-- The tree of a level on the way to a leaf. The payload is SEED ‖ I, or SK_SEED ‖ SK_PRF ‖ PUB_SEED (R104); the key of a lower HSS level is derived inside the
device from its parent's and its parent's leaf. -/
def Stf.treeAt (x : Stf) (ps levels : Nat) (payload : List Byte) (leaf : Nat) : Nat → StfTree
  | 0 => if x.xmss then ⟨payload.take x.n, slice payload (2 * x.n) x.n, x.layers - 1, 0⟩ else ⟨payload.take x.n, slice payload x.n 16, 0, 0⟩
  | l + 1 =>
    let t := x.treeAt ps levels payload leaf l
    if x.xmss then { t with layer := x.layers - 2 - l, tree := (x.at levels leaf (l + 1)).1 }
    else
      let c := Config.hssChild ps (t.seed ++ t.pub) (x.at levels leaf l).2
      { t with seed := slice c 0 x.n, pub := slice c x.n 16 }

/-- The LMS type code and the LM-OTS type code of a set (RFC 8554, SP 800-208 section 4). -/
def Stf.lmsTypes (x : Stf) : Nat × Nat :=
  let v := (if x.n = 24 then 1 else 0) + (if x.shake then 2 else 0)
  (5 + 5 * v + (x.h / 5 - 1), 1 + 4 * v + Nat.log2 x.w)

/-- The algorithm OID of an XMSS or XMSS^MT set (RFC 8391, SP 800-208 section 5). -/
def Stf.xmssOid (x : Stf) : Nat :=
  let v := (if x.n = 24 then 1 else 0) + (if x.shake then 2 else 0)
  if 1 < x.layers then [0x01, 0x21, 0x29, 0x31].getD v 0 + mtShapes.idxOf (x.h, x.layers)
  else [0x01, 0x0D, 0x10, 0x13].getD v 0 + (if x.h = 10 then 0 else if x.h = 16 then 1 else 2)

/-- An LMS public key. -/
def Stf.lmsKey (x : Stf) (t : StfTree) : List Byte := beBytes 4 x.lmsTypes.1 ++ beBytes 4 x.lmsTypes.2 ++ t.pub ++ x.rootOf t

/-- The public key of a private payload with so many levels. -/
def stfPub (ps levels : Nat) (payload : List Byte) : List Byte :=
  match stf? ps with
  | none => []
  | some x =>
    let t := x.treeAt ps levels payload 0 0
    if x.xmss then beBytes 4 x.xmssOid ++ x.rootOf t ++ t.pub
    else (if 1 < levels then beBytes 4 levels else []) ++ x.lmsKey t

/-! ### Signatures -/

/-- The digest that leaf `q` of an LMS tree signs, and its randomiser. -/
def Stf.lmsMessage (x : Stf) (t : StfTree) (q : Nat) (c msg : List Byte) : List Byte := x.lms t q 0x8181 (c ++ msg)

/-- An LMS signature with leaf `q`. -/
def Stf.lmsSign (x : Stf) (t : StfTree) (q : Nat) (msg : List Byte) : List Byte :=
  let c := x.lmsSecret t q 0xFFFD
  beBytes 4 q ++ beBytes 4 x.lmsTypes.2 ++ c ++ (x.otsSign t q (x.lmsMessage t q c msg)).flatten ++ beBytes 4 x.lmsTypes.1 ++ (treePath (x.rowsOf t) q).flatten

/-- The digest of an XMSS message: randomiser, root of the key, index. -/
def Stf.xmssMessage (x : Stf) (r root : List Byte) (idx : Nat) (msg : List Byte) : List Byte := x.digest (x.pad 2 ++ r ++ root ++ beBytes x.n idx ++ msg)

/-- Bytes of the index in an XMSS signature. -/
def Stf.idxLen (x : Stf) : Nat := if 1 < x.layers then (x.h + 7) / 8 else 4

/-- The one-time signature of a digest and its path, in one tree. -/
def Stf.layerSign (x : Stf) (t : StfTree) (q : Nat) (d : List Byte) : List Byte := (x.otsSign t q d).flatten ++ (treePath (x.rowsOf t) q).flatten

/-- The parent's signature of the tree below level `l` on the way to a leaf: what the KPC entry holds as the signed root (R270). -/
def Stf.signedRoot (x : Stf) (ps levels : Nat) (payload : List Byte) (leaf l : Nat) : List Byte :=
  let t := x.treeAt ps levels payload leaf l
  let c := x.treeAt ps levels payload leaf (l + 1)
  let q := (x.at levels leaf l).2
  if x.xmss then x.layerSign t q (x.rootOf c) else x.lmsSign t q (x.lmsKey c)

/-- SIGN of a message with a leaf of a key with so many levels (R272: deterministic). -/
def stfSign (ps levels : Nat) (payload : List Byte) (leaf : Nat) (msg : List Byte) : List Byte :=
  match stf? ps with
  | none => []
  | some x =>
    let n := x.trees levels
    let t := x.treeAt ps levels payload leaf (n - 1)
    let q := (x.at levels leaf (n - 1)).2
    if x.xmss then
      let r := x.prf (slice payload x.n x.n) (beBytes 32 leaf)
      beBytes x.idxLen leaf ++ r ++ x.layerSign t q (x.xmssMessage r (x.rootOf (x.treeAt ps levels payload 0 0)) leaf msg)
        ++ ((List.range (n - 1)).reverse).flatMap (x.signedRoot ps levels payload leaf)
    else
      (if 1 < levels then beBytes 4 (levels - 1) else [])
        ++ (List.range (n - 1)).flatMap (fun l => x.signedRoot ps levels payload leaf l ++ x.lmsKey (x.treeAt ps levels payload leaf (l + 1)))
        ++ x.lmsSign t q msg

/-! ### Verification -/

/-- Length of an LMS signature. -/
def Stf.lmsSig (x : Stf) : Nat := 12 + (x.chains + 1 + x.h) * x.n

/-- One LMS signature checked under an LMS public key (RFC 8554 section 5.4.2): whether it holds, and the hash-chain steps already in it (R109). -/
def Stf.lmsCheck (x : Stf) (key msg sig : List Byte) : Bool × Nat :=
  let t : StfTree := ⟨[], slice key 8 16, 0, 0⟩
  let q := beNat (sig.take 4)
  let d := x.lmsMessage t q (slice sig 8 x.n) msg
  let o := 12 + (x.chains + 1) * x.n
  let types (b : List Byte) (i : Nat) (v : Nat) : Bool := decide (beNat (slice b i 4) = v)
  (decide (key.length = 24 + x.n) && decide (sig.length = x.lmsSig) && types key 0 x.lmsTypes.1 && types key 4 x.lmsTypes.2
    && types sig 4 x.lmsTypes.2 && types sig (o - 4) x.lmsTypes.1 && decide (q < 2 ^ x.h)
    && decide (x.rootFrom t q d (x.values sig (8 + x.n) x.chains) (x.values sig o x.h) = slice key 24 x.n),
   (x.digits d).foldl (· + ·) 0)

/-- The LMS signatures of an HSS signature from the top down: each but the last signs the public key that follows it. -/
def Stf.hssCheck (x : Stf) (msg : List Byte) : Nat → List Byte → List Byte → Bool × Nat
  | 0, key, sig => x.lmsCheck key msg sig
  | n + 1, key, sig =>
    let next := slice sig x.lmsSig (24 + x.n)
    let a := x.lmsCheck key next (sig.take x.lmsSig)
    let b := x.hssCheck msg n next (sig.drop (x.lmsSig + 24 + x.n))
    (a.1 && b.1, a.2 + b.2)

/-- The root that the layers of an XMSS^MT signature give, with the chain steps in them, from the lowest layer: `n` layers left. -/
def Stf.layersFrom (x : Stf) (pub : List Byte) : Nat → Nat → Nat → List Byte → List Byte → List Byte × Nat
  | 0, _, _, d, _ => (d, 0)
  | n + 1, l, idx, d, sig =>
    let t : StfTree := ⟨[], pub, l, idx / 2 ^ x.treeH⟩
    let len := (x.chains + x.treeH) * x.n
    let r := x.rootFrom t (idx % 2 ^ x.treeH) d (x.values sig 0 x.chains) (x.values sig (x.chains * x.n) x.treeH)
    let up := x.layersFrom pub n (l + 1) (idx / 2 ^ x.treeH) r (sig.drop len)
    (up.1, (x.digits d).foldl (· + ·) 0 + up.2)

/-- Verification of a stateful signature: whether it holds, and the chain steps already in it. -/
def stfCheck (ps levels : Nat) (pk msg sig : List Byte) : Bool × Nat :=
  match stf? ps with
  | none => (false, 0)
  | some x =>
    if x.xmss then
      let idx := beNat (sig.take x.idxLen)
      let root := slice pk 4 x.n
      let u := x.layersFrom (slice pk (4 + x.n) x.n) x.layers 0 idx (x.xmssMessage (slice sig x.idxLen x.n) root idx msg) (sig.drop (x.idxLen + x.n))
      (decide (pk.length = 4 + 2 * x.n) && decide (beNat (pk.take 4) = x.xmssOid) && decide (idx < 2 ^ x.h)
        && decide (sig.length = x.idxLen + x.n + (x.h + x.layers * x.chains) * x.n) && decide (u.1 = root), u.2)
    else if 1 < levels then
      let u := x.hssCheck msg (levels - 1) (pk.drop 4) (sig.drop 4)
      (decide (beNat (pk.take 4) = levels) && decide (beNat (sig.take 4) = levels - 1) && u.1, u.2)
    else x.lmsCheck pk msg sig

/-- The hash-chain steps of the one-time signature that signs the message (R109). -/
def stfSteps (ps levels : Nat) (payload : List Byte) (leaf : Nat) (msg : List Byte) : Nat :=
  match stf? ps with
  | none => 0
  | some x =>
    let n := x.trees levels
    let t := x.treeAt ps levels payload leaf (n - 1)
    let q := (x.at levels leaf (n - 1)).2
    let d := if x.xmss then x.xmssMessage (x.prf (slice payload x.n x.n) (beBytes 32 leaf)) (x.rootOf (x.treeAt ps levels payload 0 0)) leaf msg
      else x.lmsMessage t q (x.lmsSecret t q 0xFFFD) msg
    (x.digits d).foldl (· + ·) 0

/-! ### The KPC entry (R270) -/

/-- The bottom subtree of a level covers 2^min(H, 10) leaves. -/
def Stf.bottomH (x : Stf) : Nat := min x.treeH 10

/-- The entry of one level on the way to a leaf: the upper part, the bottom part, the signed root of a level below the top. -/
def Stf.levelEntry (x : Stf) (ps levels : Nat) (payload : List Byte) (leaf l : Nat) : List Byte :=
  let rows := x.rowsOf (x.treeAt ps levels payload leaf l)
  let sub := (x.at levels leaf l).2 / 2 ^ x.bottomH
  let upper := if 10 < x.treeH then ((rows.drop 10).flatten).flatten else []
  let bottom := ((rows.take (x.bottomH + 1)).zipIdx).flatMap (fun r => let m := 2 ^ (x.bottomH - r.2); ((r.1.drop (sub * m)).take m).flatten)
  upper ++ bottom ++ (if l = 0 then [] else x.signedRoot ps levels payload leaf (l - 1))

/-- The entry of a key whose next leaf is given, level by level from the top. -/
def stfEntry (ps levels : Nat) (payload : List Byte) (leaf : Nat) : List Byte :=
  match stf? ps with
  | none => []
  | some x => (List.range (x.trees levels)).flatMap (x.levelEntry ps levels payload leaf)

/-- The path check of SIGN (R273): at every level the entry's leaf node, hashed up the path, gives the level's root; the leaf nodes may have been disturbed. -/
def stfPathsHold (ps levels : Nat) (payload : List Byte) (leaf : Nat) (upset : List Byte → List Byte) : Bool :=
  match stf? ps with
  | none => true
  | some x => (List.range (x.trees levels)).all (fun l =>
      let t := x.treeAt ps levels payload leaf l
      let rows := x.rowsOf t
      let q := (x.at levels leaf l).2
      decide (climb (x.joinNode t) 0 q (upset ((rows.headD []).getD q [])) (treePath rows q) = treeRoot rows))

end Sys2Proof.Machine
end

