-- ==== Sys2Proof/Machine/Mceliece.lean ====
section
/-! DEFINITION. Classic McEliece as the vendor programs compute it (R251, R274 to R277): key expansion from δ, the parity-check matrix in systematic or
semi-systematic form, encapsulation with the device's own sampling, decapsulation with implicit rejection. PRESUMED from the submission that R81 pins (log 6). -/

namespace Sys2Proof.Machine

/-- A set: m, n, t, the terms of F(y) below y^t, and whether it is an f-variant, (μ, ν) = (32, 64). -/
structure MceSet where
  m : Nat
  n : Nat
  t : Nat
  taps : List Nat
  semi : Bool
  deriving DecidableEq, Repr

/-- The sets by PSET (R79): an even PSET is an f-variant. -/
def mceSet (p : Nat) : MceSet :=
  let f := decide (p % 2 = 0)
  match (p - 0x11) / 2 with
  | 0 => ⟨12, 3488, 64, [3, 1, 0], f⟩
  | 1 => ⟨13, 4608, 96, [10, 9, 6, 0], f⟩
  | 2 => ⟨13, 6688, 128, [7, 2, 1, 0], f⟩
  | 3 => ⟨13, 6960, 119, [8, 0], f⟩
  | _ => ⟨13, 8192, 128, [7, 2, 1, 0], f⟩

/-- Rows of the parity-check matrix. -/
def MceSet.rows (p : MceSet) : Nat := p.m * p.t

/-! ### GF(2^m) and polynomials over it -/

/-- The field polynomial below z^m: z³ + 1, or z⁴ + z³ + z + 1. -/
def MceSet.low (p : MceSet) : Nat := if p.m = 12 then 0x009 else 0x01B

/-- The product of field elements, bit by bit of the second from its top. -/
def MceSet.mul (p : MceSet) (a b : Nat) : Nat :=
  (List.range p.m).foldl (fun r i =>
    let d := 2 * r
    let d := if 2 ^ p.m ≤ d then (d - 2 ^ p.m) ^^^ p.low else d
    if b.testBit (p.m - 1 - i) then d ^^^ a else d) 0

/-- The power of a field element to 2^n. -/
def MceSet.frob (p : MceSet) : Nat → Nat → Nat
  | 0, a => a
  | n + 1, a => p.frob n (p.mul a a)

/-- The inverse: the product of the powers 2, 4, …, 2^(m − 1); 0 for 0. -/
def MceSet.inv (p : MceSet) (a : Nat) : Nat := (List.range (p.m - 1)).foldl (fun r i => p.mul r (p.frob (i + 1) a)) 1

/-- The value of a polynomial, its constant term first. -/
def MceSet.eval (p : MceSet) (g : List Nat) (x : Nat) : Nat := g.foldr (fun c v => p.mul v x ^^^ c) 0

/-- A multiple of a list of field elements. -/
def MceSet.scale (p : MceSet) (c : Nat) (l : List Nat) : List Nat := l.map (p.mul c)

/-- Sum of lists of field elements. -/
def xorNats (a b : List Nat) : List Nat := List.zipWith (· ^^^ ·) a b

/-- A polynomial of degree below t times y, modulo F(y). -/
def MceSet.timesY (p : MceSet) (a : List Nat) : List Nat :=
  let top := a.getLastD 0
  xorNats (0 :: a.dropLast) ((List.range p.t).map (fun i => if p.taps.contains i then top else 0))

/-- The product of polynomials modulo F(y). -/
def MceSet.polyMul (p : MceSet) (a b : List Nat) : List Nat :=
  b.foldr (fun c r => xorNats (p.timesY r) (p.scale c a)) (List.replicate p.t 0)

/-- Gaussian elimination over the field on rows whose pivot column goes from 0: the rows reduced, or none where a pivot is missing. -/
def MceSet.solve (p : MceSet) : Nat → Nat → List (List Nat) → List (List Nat) → Option (List (List Nat))
  | 0, _, done, _ => some done
  | n + 1, c, done, rest =>
    match rest.find? (fun r => decide (r.getD c 0 ≠ 0)) with
    | none => none
    | some r =>
      let r1 := p.scale (p.inv (r.getD c 0)) r
      let e (x : List Nat) : List Nat := xorNats x (p.scale (x.getD c 0) r1)
      p.solve n (c + 1) (done.map e ++ [r1]) ((rest.erase r).map e)

/-- The Goppa polynomial from σ1·t bits: the minimal polynomial of the element they spell, its terms below x^t; none unless its degree is t. -/
def MceSet.goppa (p : MceSet) (bits : List Bool) : Option (List Nat) :=
  let beta := (List.range p.t).map (fun j => ofBits ((bits.drop (16 * j)).take p.m))
  let one := 1 :: List.replicate (p.t - 1) 0
  let powers := (List.range p.t).foldl (fun l _ => l ++ [p.polyMul (l.getLastD one) beta]) [one]
  let rows := (List.range p.t).map (fun i => powers.map (fun v => v.getD i 0))
  (p.solve p.t 0 [] rows).map (fun l => l.map (fun r => r.getD p.t 0))

/-! ### The support and its control bits -/

/-- The permutation that sorts q keys of 32 bits; none when two are equal. -/
def MceSet.ordering (p : MceSet) (bits : List Byte) : Option (List Nat) :=
  let keys := (List.range (2 ^ p.m)).map (fun i => (fieldLe bits (4 * i) 4, i))
  let sorted := keys.mergeSort (fun a b => decide (a.1 < b.1) || (decide (a.1 = b.1) && decide (a.2 ≤ b.2)))
  if (sorted.zip (sorted.drop 1)).any (fun x => decide (x.1.1 = x.2.1)) then none else some (sorted.map Prod.snd)

/-- `c` rearranged by the inverse of a permutation. -/
def composeInv (c perm : List Nat) : List Nat := ((perm.zip c).mergeSort (fun a b => decide (a.1 ≤ b.1))).map Prod.snd

/-- The smallest member of each cycle of `p`, after `n` doublings. -/
def cycleLow : Nat → List Nat → List Nat → List Nat → List Nat
  | 0, _, _, c => c
  | n + 1, p, q, c =>
    let cp := composeInv c q
    cycleLow n (composeInv p q) (composeInv q p) (List.zipWith min c cp)

/-- Two lists alternating. -/
def alternate : List Nat → List Nat → List Nat
  | a :: x, b :: y => a :: b :: alternate x y
  | _, _ => []

/-- The control bits of the Beneš network of 2^(m + 1) lines for a permutation. -/
def controlBits : Nat → List Nat → List Nat
  | 0, perm => [perm.headD 0]
  | m + 1, perm =>
    let n := perm.length
    let all := List.range n
    let p := all.map (fun x => perm.getD (x ^^^ 1) 0)
    let q := perm.map (fun x => x ^^^ 1)
    let inv := composeInv all perm
    let p1 := composeInv p q
    let q1 := composeInv q p
    let c := List.zipWith min all p1
    let low := cycleLow m (composeInv p1 q1) (composeInv q1 p1) c
    let f := (List.range (n / 2)).map (fun j => low.getD (2 * j) 0 % 2)
    let fs := all.map (fun x => x ^^^ f.getD (x / 2) 0)
    let fp := composeInv fs inv
    let l := (List.range (n / 2)).map (fun k => fp.getD (2 * k) 0 % 2)
    let ls := all.map (fun y => y ^^^ l.getD (y / 2) 0)
    let mm := composeInv fp ls
    let sub (e : Nat) : List Nat := (List.range (n / 2)).map (fun j => mm.getD (2 * j + e) 0 / 2)
    f ++ alternate (controlBits m (sub 0)) (controlBits m (sub 1)) ++ l

/-- One layer of the network: lines `gap` apart change places where the control bit is 1. -/
def benesLayer (gap : Nat) (bits : List Bool) (l : List Nat) : List Nat :=
  (List.range l.length).map (fun x =>
    let j := x / (2 * gap) * gap + x % gap
    if bits.getD j false then l.getD (if x / gap % 2 = 0 then x + gap else x - gap) 0 else l.getD x 0)

/-- The permutation that control bits spell. -/
def MceSet.permutation (p : MceSet) (bits : List Bool) : List Nat :=
  let half := 2 ^ (p.m - 1)
  (List.range (2 * p.m - 1)).foldl (fun l i => benesLayer (2 ^ min i (2 * p.m - 2 - i)) ((bits.drop (i * half)).take half) l) (List.range (2 ^ p.m))

/-- The support elements of a permutation: its values with their bits reversed. -/
def MceSet.support (p : MceSet) (perm : List Nat) : List Nat := perm.map (bitRev p.m)

/-! ### The parity-check matrix -/

/-- The n columns of H: α^i ÷ g(α) for i below t, each as m bits, as the number whose bit is the row. -/
def MceSet.columns (p : MceSet) (g alpha : List Nat) : List Nat :=
  (alpha.take p.n).map (fun a =>
    let first := p.inv (p.eval (g ++ [1]) a)
    ((List.range p.t).foldl (fun (x : Nat × Nat) i => (x.1 + x.2 * 2 ^ (p.m * i), p.mul x.2 a)) (0, first)).1)

/-- The rows of a matrix given by columns, as numbers whose bit is the column. -/
def transposeBits (rows : Nat) (cols : List Nat) : List Nat := (List.range rows).map (fun r => ofBits (cols.map (fun c => c.testBit r)))

/-- Reduction of rows from column `c`: row `r` may have its pivot up to column `lim r`. The reduced rows with their pivots, or none. -/
def reduceRows (lim : Nat → Nat) : Nat → Nat → List Nat → List Nat → List Nat → Option (List Nat × List Nat)
  | 0, _, done, pivots, rest => if rest = [] then some (done, pivots) else none
  | n + 1, c, done, pivots, rest =>
    if rest = [] then some (done, pivots)
    else
      match rest.find? (fun r => r.testBit c) with
      | none => if c < lim done.length then reduceRows lim n (c + 1) done pivots rest else none
      | some r =>
        let e (x : Nat) : Nat := if x.testBit c then x ^^^ r else x
        reduceRows lim n (c + 1) (done.map e ++ [r]) (pivots ++ [c]) ((rest.erase r).map e)

/-- The greatest pivot of a row: its own number, and ν − μ more in the last μ rows of an f-variant. -/
def MceSet.pivotLimit (p : MceSet) (r : Nat) : Nat := if p.semi ∧ p.rows - 32 ≤ r then r + 32 else r

/-- Two places of a list exchanged. -/
def exchange (i j : Nat) (l : List Nat) : List Nat := (l.set i (l.getD j 0)).set j (l.getD i 0)

/-- Two bits of a number exchanged. -/
def exchangeBits (i j x : Nat) : Nat := if x.testBit i = x.testBit j then x else x ^^^ (2 ^ i) ^^^ (2 ^ j)

/-- One attempt's matrix: the rows of T, the pivots, the support with its columns exchanged; none where the form is missing (R277). -/
def MceSet.matrix (p : MceSet) (g perm : List Nat) : Option (List Nat × List Nat × List Nat) :=
  (reduceRows p.pivotLimit p.n 0 [] [] (transposeBits p.rows (p.columns g (p.support perm)))).map (fun x =>
    let swaps := x.2.zipIdx
    let rows := x.1.map (fun r => swaps.foldl (fun v s => exchangeBits s.2 s.1 v) r)
    (rows.map (fun r => r / 2 ^ p.rows), x.2, swaps.foldl (fun l s => exchange s.2 s.1 l) perm))

/-! ### Keys -/

/-- Bytes of one row of T. -/
def MceSet.rowLen (p : MceSet) : Nat := (p.n - p.rows + 7) / 8

/-- The public key: the rows of T. -/
def MceSet.pubBytes (p : MceSet) (rows : List Nat) : List Byte := rows.flatMap (leBytes p.rowLen)

/-- The bytes that δ expands to: s, the keys of the support, the bits of g, the next δ. -/
def MceSet.stream (p : MceSet) (delta : List Byte) : List Byte := shake256 (0x40 :: delta) (p.n / 8 + 4 * 2 ^ p.m + 2 * p.t + 32)

/-- The δ of attempt `r`, counted from 1. -/
def MceSet.deltaAt (p : MceSet) (delta : List Byte) : Nat → List Byte
  | 0 => delta
  | 1 => delta
  | r + 1 => let d := p.deltaAt delta r; (p.stream d).drop (p.n / 8 + 4 * 2 ^ p.m + 2 * p.t)

/-- One attempt of KEYGEN: the expanded private key δ ‖ c ‖ g ‖ control bits ‖ s and the public key, or none. -/
def MceSet.attempt (p : MceSet) (delta : List Byte) : Option (List Byte × List Byte) :=
  let e := p.stream delta
  let s := e.take (p.n / 8)
  let rest := e.drop (p.n / 8)
  match p.ordering (rest.take (4 * 2 ^ p.m)), p.goppa (byteBits ((rest.drop (4 * 2 ^ p.m)).take (2 * p.t))) with
  | some perm, some g =>
    (p.matrix g perm).map (fun x =>
      let c := if p.semi then (x.2.1.drop (p.rows - 32)).foldl (fun v i => v + 2 ^ (i - (p.rows - 32))) 0 else 2 ^ 32 - 1
      (delta ++ leBytes 8 c ++ g.flatMap (leBytes 2) ++ leBytes ((2 * p.m - 1) * 2 ^ (p.m - 1) / 8) (ofBits ((controlBits (p.m - 1) x.2.2).map (· == 1))) ++ s,
        p.pubBytes x.1))
  | _, _ => none

/-! ### Encapsulation and decapsulation -/

/-- The rows of T from a public key. -/
def MceSet.pubRows (p : MceSet) (pk : List Byte) : List Nat := (List.range p.rows).map (fun i => fieldLe pk (i * p.rowLen) p.rowLen % 2 ^ (p.n - p.rows))

/-- The parity of a number's bits, the lowest `n` of them. -/
def parity (n x : Nat) : Bool := (List.range n).foldl (fun b i => xor b (x.testBit i)) false

/-- The ciphertext H·e of an error vector, H = (I | T). -/
def MceSet.encode (p : MceSet) (pk : List Byte) (e : Nat) : List Byte :=
  let high := e / 2 ^ p.rows
  leBytes ((p.rows + 7) / 8) (ofBits (((p.pubRows pk).zipIdx).map (fun r => xor (e.testBit r.2) (parity (p.n - p.rows) (r.1 &&& high)))))

/-- The error vector: the t positions with the smallest 32-bit keys, ties to the lower position (R276). -/
def MceSet.sample (p : MceSet) (rnd : List Byte) : Nat :=
  let keys := (List.range p.n).map (fun i => (fieldLe rnd (4 * i) 4, i))
  let sorted := keys.mergeSort (fun a b => decide (a.1 < b.1) || (decide (a.1 = b.1) && decide (a.2 ≤ b.2)))
  (sorted.take p.t).foldl (fun v x => v + 2 ^ x.2) 0

/-- The session key H(b, v, C). -/
def MceSet.hash (p : MceSet) (b : Byte) (v : Nat) (c : List Byte) : List Byte := shake256 (b :: (leBytes (p.n / 8) v ++ c)) 32

/-- ENCAPS: ciphertext and shared secret. -/
def mceEncap (ps : Nat) (pk rnd : List Byte) : List Byte × List Byte :=
  let p := mceSet ps
  let e := p.sample rnd
  let c := p.encode pk e
  (c, p.hash 1 e c)

/-- The state of Berlekamp–Massey: the connection polynomial, the earlier one times x, its discrepancy, the length. -/
structure MceBm where
  c : List Nat
  b : List Nat
  d : Nat
  l : Nat
  deriving DecidableEq, Repr

/-- One iteration on syndrome `n`. -/
def MceSet.bmStep (p : MceSet) (s : List Nat) (x : MceBm) (n : Nat) : MceBm :=
  let d := (List.range (min n p.t + 1)).foldl (fun v i => v ^^^ p.mul (x.c.getD i 0) (s.getD (n - i) 0)) 0
  let c := if d = 0 then x.c else xorNats x.c (p.scale (p.mul d (p.inv x.d)) x.b)
  let longer : Bool := decide (d ≠ 0) && decide (2 * x.l ≤ n)
  { c := c, b := 0 :: (if longer then x.c else x.b).dropLast, d := if longer then d else x.d, l := if longer then n + 1 - x.l else x.l }

/-- The error vector that a ciphertext decodes to: the support points at which the error locator vanishes (R274 phases 2 to 4). -/
def MceSet.decode (p : MceSet) (g alpha : List Nat) (c : List Byte) : Nat :=
  let points := (alpha.take p.n).map (fun a => (a, let v := p.inv (p.eval (g ++ [1]) a); p.mul v v))
  let set := ((points.zip (byteBits c)).take p.rows).filter (fun x => x.2)
  let s := ((List.range (2 * p.t)).foldl (fun (x : List Nat × List (Nat × Nat)) _ =>
    (x.1 ++ [x.2.foldl (fun v y => v ^^^ y.2) 0], x.2.map (fun y => (y.1, p.mul y.2 y.1)))) ([], set.map Prod.fst)).1
  let zero := List.replicate (p.t - 1) 0
  let r := (List.range (2 * p.t)).foldl (p.bmStep s) ⟨1 :: 0 :: zero, 0 :: 1 :: zero, 1, 0⟩
  ofBits (points.map (fun x => decide (p.eval r.c.reverse x.1 = 0)))

/-- DECAPS with an expanded private key and the public key of its entry: the session key of e where e has weight t and encodes to C, else that of s (R274, R275). -/
def mceDecap (ps : Nat) (sk pk c : List Byte) : List Byte :=
  let p := mceSet ps
  let g := (List.range p.t).map (fun i => fieldLe sk (40 + 2 * i) 2)
  let o := 40 + 2 * p.t
  let len := (2 * p.m - 1) * 2 ^ (p.m - 1) / 8
  let e := p.decode g (p.support (p.permutation (byteBits (slice sk o len)))) c
  if (List.range p.n).countP (fun i => e.testBit i) = p.t ∧ p.encode pk e = c then p.hash 1 e c else p.hash 0 (fieldLe sk (o + len) (p.n / 8)) c

end Sys2Proof.Machine
end

