-- ==== Sys2Proof/Machine/MlDsa.lean ====
section
/-! DEFINITION. ML-DSA (FIPS 204) as the vendor programs compute it (R86, R87, R263 to R266): keys from ξ, one signing pass with its rejection conditions and its
verify-after-sign, signatures, verification; and the message forms that FIPS 204 and FIPS 205 share. PRESUMED from the standards that R19 cites (log 6). -/

namespace Sys2Proof.Machine

/-- The parameters of a set: k, ℓ, η, τ, β, γ₁ as a power of two, 2γ₂, ω, bytes of c̃. -/
structure DsaSet where
  k : Nat
  l : Nat
  eta : Nat
  tau : Nat
  beta : Nat
  g1 : Nat
  alpha : Nat
  omega : Nat
  cLen : Nat
  deriving DecidableEq, Repr

/-- The modulus. -/
def dsaQ : Nat := 8380417

/-- ML-DSA-44, 65 and 87 by PSET (R80). -/
def dsaSet (p : Nat) : DsaSet :=
  if p = 1 then ⟨4, 4, 2, 39, 78, 17, (dsaQ - 1) / 44, 80, 32⟩
  else if p = 2 then ⟨6, 5, 4, 49, 196, 19, (dsaQ - 1) / 16, 55, 48⟩
  else ⟨8, 7, 2, 60, 120, 19, (dsaQ - 1) / 16, 75, 64⟩

/-- The transform: eight levels. -/
def dsaNtt (a : Poly) : Poly := nttNode dsaQ 1753 8 8 1 a

/-- Its inverse, with the division by 256. -/
def dsaIntt (a : Poly) : Poly := polyScale dsaQ 8347681 (inttNode dsaQ 1753 8 8 1 a)

/-- The inner product of two vectors of transforms. -/
def dsaDot (a b : List Poly) : Poly := polySum dsaQ (List.zipWith (polyPointwise dsaQ) a b)

/-- The distance of a coefficient from zero modulo q. -/
def dsaAbs (x : Nat) : Nat := min x (dsaQ - x)

/-- A vector reaches a bound somewhere. -/
def dsaReaches (bound : Nat) (v : List Poly) : Bool := v.any (fun a => a.any (fun x => decide (bound ≤ dsaAbs x)))

/-! ### Sampling -/

/-- RejNTTPoly (FIPS 204 Algorithm 30). -/
def dsaUniform (seed : List Byte) : Poly :=
  sampleFrom 256 3 (fun b =>
    let x := leNat b % 2 ^ 23
    if x < dsaQ then [x] else []) 2048 (shakeStream 168 seed) []

/-- RejBoundedPoly (FIPS 204 Algorithm 31). -/
def dsaBounded (eta : Nat) (seed : List Byte) : Poly :=
  let take (n : Nat) : List Nat :=
    if eta = 2 then (if n < 15 then [(2 + (dsaQ - n % 5)) % dsaQ] else []) else (if n < 9 then [(4 + (dsaQ - n)) % dsaQ] else [])
  sampleFrom 256 1 (fun b => let x := (b.getD 0 0).toNat; take (x % 16) ++ take (x / 16)) 4096 (shakeStream 136 seed) []

/-- ExpandA (FIPS 204 Algorithm 32). -/
def dsaMatrix (p : DsaSet) (rho : List Byte) : List (List Poly) :=
  (List.range p.k).map (fun r => (List.range p.l).map (fun s => dsaUniform (rho ++ [BitVec.ofNat 8 s, BitVec.ofNat 8 r])))

/-- ExpandMask (FIPS 204 Algorithm 34). -/
def dsaMask (p : DsaSet) (seed : List Byte) (kappa : Nat) : List Poly :=
  (List.range p.l).map (fun r =>
    (unpackBits (p.g1 + 1) 256 (shake256 (seed ++ leBytes 2 (kappa + r)) (32 * (p.g1 + 1)))).map (fun x => (2 ^ p.g1 + (dsaQ - x)) % dsaQ))

/-- The swaps of SampleInBall from position `i` on, `n` of them; the signs still to use. -/
def dsaBall (n i : Nat) (x : Stream) (signs : List Bool) (c : Poly) : Poly :=
  match n with
  | 0 => c
  | n + 1 =>
    let r := ballIndex 256 i x
    dsaBall n (i + 1) r.2 (signs.drop 1) ((c.set i (c.getD r.1 0)).set r.1 (if signs.getD 0 false then dsaQ - 1 else 1))
where
  /-- A byte of the stream that is at most `i`. -/
  ballIndex : Nat → Nat → Stream → Nat × Stream
    | 0, _, x => (0, x)
    | fuel + 1, i, x =>
      let b := x.next 1
      let v := (b.1.getD 0 0).toNat
      if v ≤ i then (v, b.2) else ballIndex fuel i b.2

/-- SampleInBall (FIPS 204 Algorithm 29). -/
def dsaChallenge (p : DsaSet) (c : List Byte) : Poly :=
  let s := (shakeStream 136 c).next 8
  dsaBall p.tau (256 - p.tau) s.2 (byteBits s.1) polyZero

/-! ### Rounding (FIPS 204 section 7.4) -/

/-- Power2Round: the high part. -/
def dsaT1 (x : Nat) : Nat := (x + 2 ^ 12 - 1) / 2 ^ 13

/-- Power2Round: the low part modulo q. -/
def dsaT0 (x : Nat) : Nat := (x + (dsaQ - dsaT1 x * 2 ^ 13 % dsaQ)) % dsaQ

/-- HighBits with 2γ₂ = alpha. -/
def dsaHigh (alpha x : Nat) : Nat :=
  let h := (x + alpha / 2 - 1) / alpha
  if h * alpha = dsaQ - 1 then 0 else h

/-- LowBits modulo q. -/
def dsaLow (alpha x : Nat) : Nat :=
  let h := (x + alpha / 2 - 1) / alpha
  if h * alpha = dsaQ - 1 then (x + 2 * dsaQ - (dsaQ - 1) - 1) % dsaQ else (x + (dsaQ - h * alpha)) % dsaQ

/-- UseHint. -/
def dsaUseHint (alpha : Nat) (hint : Bool) (x : Nat) : Nat :=
  let m := (dsaQ - 1) / alpha
  let h := dsaHigh alpha x
  let lo := dsaLow alpha x
  if !hint then h else if 0 < lo ∧ lo ≤ dsaQ / 2 then (h + 1) % m else (h + (m - 1)) % m

/-! ### Keys -/

/-- What ξ expands to (FIPS 204 Algorithm 6). -/
structure DsaKey where
  rho : List Byte
  key : List Byte
  s1 : List Poly
  s2 : List Poly
  t : List Poly

/-- A vector of transforms under Â, back in coefficients. -/
def dsaApply (p : DsaSet) (rho : List Byte) (v : List Poly) : List Poly := (dsaMatrix p rho).map (fun row => dsaIntt (dsaDot row v))

/-- KeyGen from ξ. -/
def dsaExpand (p : DsaSet) (xi : List Byte) : DsaKey :=
  let g := shake256 (xi ++ [BitVec.ofNat 8 p.k, BitVec.ofNat 8 p.l]) 128
  let rho := g.take 32
  let rho' := slice g 32 64
  let s1 := (List.range p.l).map (fun r => dsaBounded p.eta (rho' ++ leBytes 2 r))
  let s2 := (List.range p.k).map (fun r => dsaBounded p.eta (rho' ++ leBytes 2 (p.l + r)))
  ⟨rho, slice g 96 32, s1, s2, List.zipWith (polyAdd dsaQ) (dsaApply p rho (s1.map dsaNtt)) s2⟩

/-- The public key: ρ ‖ SimpleBitPack(t₁). -/
def DsaKey.pk (x : DsaKey) : List Byte := x.rho ++ x.t.flatMap (fun a => packBits 10 (a.map dsaT1))

/-- tr of a public key. -/
def dsaTr (pk : List Byte) : List Byte := shake256 pk 64

/-- μ of a formatted message. -/
def dsaMu (pk msg : List Byte) : List Byte := shake256 (dsaTr pk ++ msg) 64

/-! ### Signing (FIPS 204 Algorithm 7; R263 to R265) -/

/-- w1Encode. -/
def dsaW1 (p : DsaSet) (w : List Poly) : List Byte := w.flatMap (fun a => packBits (if p.k = 4 then 6 else 4) a)

/-- HintBitPack (FIPS 204 Algorithm 20). -/
def dsaPackHint (p : DsaSet) (h : List (List Bool)) : List Byte :=
  let rows := h.map (fun r => (List.range 256).filter (fun i => r.getD i false))
  let ends := (List.range p.k).map (fun i => ((rows.take (i + 1)).map List.length).foldl (· + ·) 0)
  slice (rows.flatten.map (BitVec.ofNat 8)) 0 p.omega ++ ends.map (BitVec.ofNat 8)

/-- HintBitUnpack (FIPS 204 Algorithm 21): none where the encoding is not canonical. -/
def dsaUnpackHint (p : DsaSet) (b : List Byte) : Option (List (List Bool)) :=
  let ends := (List.range p.k).map (fun i => (b.getD (p.omega + i) 0).toNat)
  let first (i : Nat) : Nat := if i = 0 then 0 else ends.getD (i - 1) 0
  let row (i : Nat) : List Nat := ((b.take (ends.getD i 0)).drop (first i)).map BitVec.toNat
  let rises (l : List Nat) : Bool := (List.zipWith (fun x y => decide (x < y)) l (l.drop 1)).all id
  if (List.range p.k).all (fun i => decide (first i ≤ ends.getD i 0) && decide (ends.getD i 0 ≤ p.omega) && rises (row i))
      && ((b.take p.omega).drop (ends.getD (p.k - 1) 0)).all (fun x => decide (x = 0)) then
    some ((List.range p.k).map (fun i => (List.range 256).map (fun j => (row i).contains j)))
  else none

/-- A candidate signature of one pass: c̃, z, the hint, the w₁ that was signed, and whether FIPS 204 rejects it (R264). -/
structure DsaTry where
  c : List Byte
  z : List Poly
  hint : List (List Bool)
  w1 : List Poly
  rejected : Bool

/-- The pass with the counter κ. -/
def dsaTry (p : DsaSet) (x : DsaKey) (mu rho2 : List Byte) (kappa : Nat) : DsaTry :=
  let y := dsaMask p rho2 kappa
  let w := dsaApply p x.rho (y.map dsaNtt)
  let w1 := w.map (List.map (dsaHigh p.alpha))
  let c := shake256 (mu ++ dsaW1 p w1) p.cLen
  let ch := dsaNtt (dsaChallenge p c)
  let times (v : List Poly) : List Poly := v.map (fun a => dsaIntt (polyPointwise dsaQ ch (dsaNtt a)))
  let z := List.zipWith (polyAdd dsaQ) y (times x.s1)
  let r := List.zipWith (polySub dsaQ) w (times x.s2)
  let ct0 := times (x.t.map (List.map dsaT0))
  let high := List.zipWith (polyAdd dsaQ) r ct0
  let hint := List.zipWith (List.zipWith (fun u v => decide (dsaHigh p.alpha u ≠ dsaHigh p.alpha v))) r high
  ⟨c, z, hint, w1, dsaReaches (2 ^ p.g1 - p.beta) z || dsaReaches (p.alpha / 2 - p.beta) (r.map (List.map (dsaLow p.alpha)))
    || dsaReaches (p.alpha / 2) ct0 || decide (p.omega < (hint.map (fun h => h.count true)).foldl (· + ·) 0)⟩

/-- ŵ′ = Â ∘ NTT(z) − NTT(c) ∘ NTT(t₁ · 2^d), back in coefficients, with the hint used: what verification and verify-after-sign compute (R265). -/
def dsaRecompute (p : DsaSet) (pk c : List Byte) (z : List Poly) (hint : List (List Bool)) : List Poly :=
  let ch := dsaNtt (dsaChallenge p c)
  let az := dsaApply p (pk.take 32) (z.map dsaNtt)
  let ct := (List.range p.k).map (fun i =>
    dsaIntt (polyPointwise dsaQ ch (dsaNtt ((unpackBits 10 256 (slice pk (32 + 320 * i) 320)).map (fun x => x * 2 ^ 13 % dsaQ)))))
  List.zipWith (List.zipWith (fun (b : Bool) v => dsaUseHint p.alpha b v)) hint (List.zipWith (polySub dsaQ) az ct)

/-- Verify-after-sign of a candidate: the w₁ recomputed from z, c and h is the w₁ that was signed, and z keeps its norm (R265). -/
def DsaTry.holds (t : DsaTry) (p : DsaSet) (pk : List Byte) : Bool :=
  decide (dsaRecompute p pk t.c t.z t.hint = t.w1) && !dsaReaches (2 ^ p.g1 - p.beta) t.z

/-- The signature of a candidate: c̃ ‖ BitPack(z) ‖ HintBitPack(h). -/
def DsaTry.bytes (t : DsaTry) (p : DsaSet) : List Byte :=
  t.c ++ t.z.flatMap (fun a => packBits (p.g1 + 1) (a.map (fun x => (2 ^ p.g1 + (dsaQ - x)) % dsaQ))) ++ dsaPackHint p t.hint

/-- The candidate of pass `r`, 1 for the first (R264: κ = (r − 1)·ℓ). -/
def mldsaPass (p : Nat) (xi msg rnd : List Byte) (r : Nat) : DsaTry :=
  let q := dsaSet p
  let x := dsaExpand q xi
  let mu := dsaMu x.pk msg
  dsaTry q x mu (shake256 (x.key ++ rnd ++ mu) 64) ((r - 1) * q.l)

/-- The first accepted candidate of the passes from `r` on, `fuel` of them at most. -/
def mldsaFirst (p : Nat) (xi msg rnd : List Byte) : Nat → Nat → DsaTry
  | 0, r => mldsaPass p xi msg rnd r
  | fuel + 1, r => let t := mldsaPass p xi msg rnd r; if t.rejected then mldsaFirst p xi msg rnd fuel (r + 1) else t

/-- The public key of ξ. -/
def mldsaPub (p : Nat) (xi : List Byte) : List Byte := (dsaExpand (dsaSet p) xi).pk

/-- The signature of a formatted message. -/
def mldsaSig (p : Nat) (xi msg rnd : List Byte) : List Byte := (mldsaFirst p xi msg rnd 999 1).bytes (dsaSet p)

/-- Verification of a formatted message (FIPS 204 Algorithm 8). -/
def mldsaCheck (p : Nat) (pk msg sig : List Byte) : Bool :=
  let q := dsaSet p
  let zLen := 32 * (q.g1 + 1)
  let c := sig.take q.cLen
  let z := (List.range q.l).map (fun i => (unpackBits (q.g1 + 1) 256 (slice sig (q.cLen + zLen * i) zLen)).map (fun x => (2 ^ q.g1 + (dsaQ - x)) % dsaQ))
  match dsaUnpackHint q (sig.drop (q.cLen + zLen * q.l)) with
  | none => false
  | some h =>
    decide (sig.length = q.cLen + zLen * q.l + q.omega + q.k) && decide (pk.length = 32 + 320 * q.k) && !dsaReaches (2 ^ q.g1 - q.beta) z
      && decide (shake256 (dsaMu pk msg ++ dsaW1 q (dsaRecompute q pk c z h)) q.cLen = c)

/-! ### Message forms (R87; FIPS 204 section 5, FIPS 205 section 10) -/

/-- The last byte of the object identifier of a pre-hash function by its code (R78): 2.16.840.1.101.3.4.2 and this. -/
def hashOid (c : Nat) : List Byte :=
  [0x06, 0x09, 0x60, 0x86, 0x48, 0x01, 0x65, 0x03, 0x04, 0x02, BitVec.ofNat 8 ([1, 2, 3, 8, 9, 10, 11, 12].getD (c - 1) 0)]

/-- M′: the domain byte, the context with its length, and the message; with a hash code the message is the digest, and the function's identifier precedes it. -/
def sigMessage (ctx : List Byte) (hash : Nat) (msg : List Byte) : List Byte :=
  [if hash = 0 then 0#8 else 1#8, BitVec.ofNat 8 ctx.length] ++ ctx ++ (if hash = 0 then [] else hashOid hash) ++ msg

/-- The ML-DSA-87 public key of a seed: DeviceID, Alias and owner keys (R149). -/
def mldsaPk (xi : List Byte) : List Byte := mldsaPub 3 xi

/-- A deterministic ML-DSA-87 signature of the device: seed, context, message (DESIGN CHOICE, log 6: the manual does not say that it is hedged). -/
def mldsaSign (xi ctx msg : List Byte) : List Byte := mldsaSig 3 xi (sigMessage ctx 0 msg) (List.replicate 32 0)

/-- ML-DSA-87 verification: public key, context, message, signature. -/
def mldsaVerify (pk ctx msg sig : List Byte) : Bool := mldsaCheck 3 pk (sigMessage ctx 0 msg) sig

end Sys2Proof.Machine
end

