-- ==== Sys2Proof/Machine/MlKem.lean ====
section
/-! DEFINITION. ML-KEM (FIPS 203) as the vendor programs compute it (R85, R250, R251, R260 to R262): key generation from the seed (d, z), encapsulation, and decapsulation with
implicit rejection. PRESUMED from the standard that R19 cites (log 6). -/

namespace Sys2Proof.Machine

/-- The parameters of a set: k, η₁, η₂, d_u, d_v. -/
structure KemSet where
  k : Nat
  eta1 : Nat
  eta2 : Nat
  du : Nat
  dv : Nat
  deriving DecidableEq, Repr

/-- ML-KEM-512, 768 and 1024 by PSET (R79). -/
def kemSet (p : Nat) : KemSet := if p = 1 then ⟨2, 3, 2, 10, 4⟩ else if p = 2 then ⟨3, 2, 2, 10, 4⟩ else ⟨4, 2, 2, 11, 5⟩

/-- The modulus. -/
def kemQ : Nat := 3329

/-- The transform: seven levels, pairs of coefficients at the leaves. -/
def kemNtt (a : Poly) : Poly := nttNode kemQ 17 7 7 1 a

/-- Its inverse, with the division by 128. -/
def kemIntt (a : Poly) : Poly := polyScale kemQ 3303 (inttNode kemQ 17 7 7 1 a)

/-- The product of two transforms: at each leaf modulo X² less an odd power of the generator. -/
def kemMul (a b : Poly) : Poly :=
  (List.range 128).flatMap (fun i =>
    let g := powMod kemQ 32 17 (2 * bitRev 7 i + 1)
    let a0 := a.getD (2 * i) 0
    let a1 := a.getD (2 * i + 1) 0
    let b0 := b.getD (2 * i) 0
    let b1 := b.getD (2 * i + 1) 0
    [(a0 * b0 + a1 * b1 % kemQ * g) % kemQ, (a0 * b1 + a1 * b0) % kemQ])

/-- The inner product of two vectors of transforms. -/
def kemDot (a b : List Poly) : Poly := polySum kemQ (List.zipWith kemMul a b)

/-- SampleNTT: an entry of Â from ρ and its indices (FIPS 203 Algorithm 7). -/
def kemSample (rho : List Byte) (j i : Nat) : Poly :=
  sampleFrom 256 3 (fun b =>
    let x := (b.getD 0 0).toNat + 256 * ((b.getD 1 0).toNat % 16)
    let y := (b.getD 1 0).toNat / 16 + 16 * (b.getD 2 0).toNat
    (if x < kemQ then [x] else []) ++ (if y < kemQ then [y] else [])) 2048 (shakeStream 168 (rho ++ [BitVec.ofNat 8 j, BitVec.ofNat 8 i])) []

/-- The matrix Â, row by row. -/
def kemMatrix (k : Nat) (rho : List Byte) : List (List Poly) := (List.range k).map (fun i => (List.range k).map (fun j => kemSample rho j i))

/-- SamplePolyCBD with η from the PRF with a counter (FIPS 203 Algorithm 8). -/
def kemNoise (eta : Nat) (seed : List Byte) (n : Nat) : Poly :=
  let b := byteBits (shake256 (seed ++ [BitVec.ofNat 8 n]) (64 * eta))
  (List.range 256).map (fun i =>
    let ones (lo : Nat) : Nat := ((b.drop (2 * eta * i + lo)).take eta).count true
    (ones 0 + (kemQ - ones eta)) % kemQ)

/-- Compress to `d` bits. -/
def kemCompress (d : Nat) (a : Poly) : Poly := a.map (fun x => (2 ^ (d + 1) * x + kemQ) / (2 * kemQ) % 2 ^ d)

/-- Decompress from `d` bits. -/
def kemDecompress (d : Nat) (a : Poly) : Poly := a.map (fun y => (2 * kemQ * y + 2 ^ d) / 2 ^ (d + 1))

/-- What a seed (d, z) expands to: ŝ, t̂, ρ and Â. -/
structure KemKey where
  s : List Poly
  t : List Poly
  rho : List Byte

/-- K-PKE.KeyGen from d (FIPS 203 Algorithm 13). -/
def kemExpand (p : KemSet) (d : List Byte) : KemKey :=
  let g := hashOf 6 (d ++ [BitVec.ofNat 8 p.k])
  let rho := g.take 32
  let sigma := g.drop 32
  let s := (List.range p.k).map (fun i => kemNtt (kemNoise p.eta1 sigma i))
  let e := (List.range p.k).map (fun i => kemNtt (kemNoise p.eta1 sigma (p.k + i)))
  ⟨s, List.zipWith (fun row x => polyAdd kemQ (kemDot row s) x) (kemMatrix p.k rho) e, rho⟩

/-- The encapsulation key: ByteEncode₁₂(t̂) ‖ ρ. -/
def KemKey.ek (x : KemKey) : List Byte := x.t.flatMap (packBits 12) ++ x.rho

/-- K-PKE.Encrypt with a key, a message and the noise seed r (FIPS 203 Algorithm 14). -/
def kemEncrypt (p : KemSet) (ek m r : List Byte) : List Byte :=
  let t := (List.range p.k).map (fun i => unpackBits 12 256 (slice ek (384 * i) 384))
  let a := kemMatrix p.k (slice ek (384 * p.k) 32)
  let y := (List.range p.k).map (fun i => kemNtt (kemNoise p.eta1 r i))
  let u := (List.range p.k).map (fun i =>
    polyAdd kemQ (kemIntt (kemDot (a.map (fun row => row.getD i polyZero)) y)) (kemNoise p.eta2 r (p.k + i)))
  let v := polyAdd kemQ (polyAdd kemQ (kemIntt (kemDot t y)) (kemNoise p.eta2 r (2 * p.k))) (kemDecompress 1 (unpackBits 1 256 m))
  u.flatMap (fun x => packBits p.du (kemCompress p.du x)) ++ packBits p.dv (kemCompress p.dv v)

/-- K-PKE.Decrypt with ŝ (FIPS 203 Algorithm 15). -/
def kemDecrypt (p : KemSet) (s : List Poly) (c : List Byte) : List Byte :=
  let u := (List.range p.k).map (fun i => kemDecompress p.du (unpackBits p.du 256 (slice c (32 * p.du * i) (32 * p.du))))
  let v := kemDecompress p.dv (unpackBits p.dv 256 (slice c (32 * p.du * p.k) (32 * p.dv)))
  packBits 1 (kemCompress 1 (polySub kemQ v (kemIntt (kemDot s (u.map kemNtt)))))

/-- The encapsulation key of a seed (d, z). -/
def mlkemPub (p : Nat) (seed : List Byte) : List Byte := (kemExpand (kemSet p) (seed.take 32)).ek

/-- Encapsulation with the message m: ciphertext and shared secret (FIPS 203 Algorithm 17). -/
def mlkemEncap (p : Nat) (ek m : List Byte) : List Byte × List Byte :=
  let g := hashOf 6 (m ++ sha3256 ek)
  (kemEncrypt (kemSet p) ek m (g.drop 32), g.take 32)

/-- What DECAPS compares and chooses between: the ciphertext made again, K′ and the implicit-rejection key J(z ‖ c) (FIPS 203 Algorithm 18, R262). -/
structure KemTrial where
  again : List Byte
  key : List Byte
  reject : List Byte
  deriving DecidableEq, Repr

/-- The values of a decapsulation. -/
def mlkemTrial (p : Nat) (seed c : List Byte) : KemTrial :=
  let x := kemExpand (kemSet p) (seed.take 32)
  let m := kemDecrypt (kemSet p) x.s c
  let g := hashOf 6 (m ++ sha3256 x.ek)
  ⟨kemEncrypt (kemSet p) x.ek m (g.drop 32), g.take 32, shake256 (seed.drop 32 ++ c) 32⟩

/-- Decapsulation: K′, or the implicit-rejection key where the ciphertext made again differs (R85). -/
def mlkemDecap (p : Nat) (seed c : List Byte) : List Byte :=
  let t := mlkemTrial p seed c
  if t.again = c then t.key else t.reject

end Sys2Proof.Machine
end

