-- ==== Sys2Proof/Machine/Pq.lean ====
section
/-! DEFINITION. The post-quantum schemes by class and PSET (R79 to R82): keys, encapsulation, signatures, the checks between a computation and its release
(R254, R262, R265, R269, R273, R279), and the contents of their KPC entries (R173, R261, R266, R268, R270, R276, R278). HQC is put together from free functions:
no standard that R19 cites gives it. -/

namespace Sys2Proof.Machine

/-- A Classic McEliece set. -/
def isMceliece (p : Nat) : Bool := decide (0x11 ≤ p ∧ p ≤ 0x1A)

/-! ### A disturbed value -/

/-- What a fault that reached an intermediate value makes of it (log 139): nothing without one, else a free value. -/
def disturbed (hit : Bool) (draw : Nat) (x : List Byte) : List Byte := if hit then Config.disturb draw x else x

/-! ### Key encapsulation (R79, R84, R85, R104) -/

/-- The implicit-rejection value and message length of an HQC set: 16, 24 or 32 bytes. -/
def hqcK (p : Nat) : Nat := 16 + 8 * (p - 0x21)

/-- The encapsulation key of a private payload. -/
def kemPub (p : Nat) (payload : List Byte) : List Byte :=
  if p ≤ 3 then mlkemPub p payload
  else if isMceliece p then (((mceSet p).attempt (payload.take 32)).map Prod.snd).getD []
  else Config.hqcPub p payload

/-- Random bytes of an encapsulation: m; 32 bits for every position (R276); m and the salt. -/
def kemRandLen (p : Nat) : Nat := if p ≤ 3 then 32 else if isMceliece p then 4 * (mceSet p).n else hqcK p + 16

/-- The HQC ciphertext of a message and a salt, before the salt, with its θ (R278). -/
def hqcEncrypt (p : Nat) (pub m salt : List Byte) : List Byte := Config.hqcEncrypt p pub m (Config.hqcTheta p m pub salt)

/-- Encapsulation to a key with random bytes: ciphertext and shared secret. -/
def kemEncap (p : Nat) (ek rnd : List Byte) : List Byte × List Byte :=
  if p ≤ 3 then mlkemEncap p ek rnd
  else if isMceliece p then mceEncap p ek rnd
  else
    let m := slice rnd 0 (hqcK p)
    let salt := slice rnd (hqcK p) 16
    let c := hqcEncrypt p ek m salt ++ salt
    (c, Config.hqcShared p m c)

/-- The message that an HQC ciphertext decrypts to, and the ciphertext made again from it (R278 phases 1 to 5). -/
def hqcTrial (p : Nat) (payload c : List Byte) : List Byte × List Byte :=
  let m := Config.hqcDecrypt p payload c
  (m, hqcEncrypt p (Config.hqcPub p payload) m (c.drop (c.length - 16)))

/-- Decapsulation with a private payload and, for Classic McEliece, the public key of the entry: every scheme rejects implicitly (R85). -/
def kemDecap (p : Nat) (payload pub c : List Byte) : List Byte :=
  if p ≤ 3 then mlkemDecap p payload c
  else if isMceliece p then mceDecap p payload pub c
  else
    let t := hqcTrial p payload c
    Config.hqcShared p (if t.2 = c.take (c.length - 16) then t.1 else slice payload 40 (hqcK p)) c

/-- The release word of a decapsulation (R254): the two evaluations of the comparison differ, or an HQC sampler ran out of its stream. -/
def kemRelease (p : Nat) (payload c : List Byte) (hit : Option Bool) (draw : Nat) : Nat :=
  let differ (again body : List Byte) : Bool := decide (again = body) != decide (disturbed hit.isSome draw again = body)
  if p ≤ 3 then (if differ (mlkemTrial p payload c).again c then 0x0010 else 0)
  else if isMceliece p then 0
  else
    let t := hqcTrial p payload c
    if !Config.hqcSampled p (Config.hqcTheta p t.1 (Config.hqcPub p payload) (c.drop (c.length - 16))) then 0x0050
    else if differ t.2 (c.take (c.length - 16)) then 0x0051 else 0

/-- The release word of an encapsulation. -/
def encapRelease (p : Nat) (ek rnd : List Byte) : Nat :=
  if p ≤ 3 ∨ isMceliece p then 0
  else if Config.hqcSampled p (Config.hqcTheta p (slice rnd 0 (hqcK p)) ek (slice rnd (hqcK p) 16)) then 0 else 0x0050

/-! ### Signatures (R80, R82, R86 to R89) -/

/-- The public key of a private payload: of a stateless set by its PSET. -/
def sigPub (p : Nat) (payload : List Byte) : List Byte := if p ≤ 3 then mldsaPub p payload else slhPub p payload

/-- A signature of a message with a context and a hash code (0 for a pure message): the first accepted candidate of ML-DSA. -/
def sigSign (p : Nat) (payload ctx : List Byte) (hash : Nat) (msg rnd : List Byte) : List Byte :=
  if p ≤ 3 then mldsaSig p payload (sigMessage ctx hash msg) rnd else (slhRun p payload (sigMessage ctx hash msg) rnd).sig

/-- Verification. -/
def sigVerify (p : Nat) (pk ctx : List Byte) (hash : Nat) (msg sig : List Byte) : Bool :=
  if p ≤ 3 then mldsaCheck p pk (sigMessage ctx hash msg) sig else slhCheck p pk (sigMessage ctx hash msg) sig

/-- Verify-after-sign of the candidate of a pass, its w₁ perhaps disturbed (R265). -/
def dsaRelease (p : Nat) (xi msg rnd : List Byte) (r : Nat) (hit : Option Bool) (draw : Nat) : Nat :=
  let q := dsaSet p
  let t := mldsaPass p xi msg rnd r
  let w := dsaW1 q (dsaRecompute q (mldsaPub p xi) t.c t.z t.hint)
  if w = disturbed hit.isSome draw (dsaW1 q t.w1) ∧ !dsaReaches (2 ^ q.g1 - q.beta) t.z then 0 else 0x0020

/-- The two checks of the top layer of SLH-DSA SIGN: the first, on the leaf, or the second, on the signed root, may have been disturbed (R269). -/
def slhRelease (p : Nat) (key msg rnd : List Byte) (hit : Option Bool) (draw : Nat) : Nat :=
  let r := slhRun p key msg rnd
  let cached := ((slhTop p key).headD []).getD r.leafPlace []
  if disturbed (hit == some false) draw r.leaf ≠ cached then 0x0030
  else if disturbed (hit == some true) draw r.root ≠ r.signed then 0x0031 else 0

/-- The path check of a stateful SIGN (R273). -/
def stfRelease (p levels : Nat) (payload : List Byte) (leaf : Nat) (hit : Option Bool) (draw : Nat) : Nat :=
  if stfPathsHold p levels payload leaf (disturbed hit.isSome draw) then 0 else 0x0040

/-! ### KPC entries (R173) -/

/-- Coefficients of polynomials, `n` bytes each. -/
def polyBytes (n : Nat) (l : List Poly) : List Byte := l.flatMap (fun a => a.flatMap (leBytes n))

/-- ML-KEM: Â, t̂ and H(ek) (R261). -/
def mlkemEntry (p : Nat) (ek : List Byte) : List Byte :=
  let k := (kemSet p).k
  polyBytes 2 ((kemMatrix k (slice ek (384 * k) 32)).flatten ++ (List.range k).map (fun i => unpackBits 12 256 (slice ek (384 * i) 384))) ++ sha3256 ek

/-- ML-DSA: Â, t̂₁ in NTT form and tr (R266). -/
def mldsaEntry (p : Nat) (pk : List Byte) : List Byte :=
  let q := dsaSet p
  polyBytes 4 ((dsaMatrix q (pk.take 32)).flatten ++ (List.range q.k).map (fun i => dsaNtt (unpackBits 10 256 (slice pk (32 + 320 * i) 320)))) ++ dsaTr pk

/-- The entry that follows from a public key: of a KEM or of ML-DSA. -/
def entryOfPub (cls p : Nat) (pub : List Byte) : List Byte :=
  if cls = 1 then (if p ≤ 3 then mlkemEntry p pub else if isMceliece p then pub else Config.hqcEntry p pub)
  else mldsaEntry p pub

/-- SLH-DSA: the tree of the top layer, level by level (R268). -/
def slhEntry (p : Nat) (key : List Byte) : List Byte := (slhTop p key).flatten.flatten

end Sys2Proof.Machine
end

