-- ==== Sys2Proof/Machine/Catalogue.lean ====
section
/-! DEFINITION. The operation catalogue (R71 to R104): the sizes of every parameter set, and when a submission entry is malformed and with which
cause (R73, R74, R122, R123, R128, R130, R142). -/

namespace Sys2Proof.Machine

/-! ### Parameter sets (R79 to R83, R101) -/

/-- Encapsulation key, ciphertext, shared secret and private payload of a KEM set (R79, R104; the expanded private keys of Classic McEliece have the lengths of
the pinned submission). -/
def kemSizes (p : Nat) : Option (Nat × Nat × Nat × Nat) :=
  if p = 1 then some (800, 768, 32, 64) else if p = 2 then some (1184, 1088, 32, 64) else if p = 3 then some (1568, 1568, 32, 64)
  else if p = 0x11 ∨ p = 0x12 then some (261120, 96, 32, 6524) else if p = 0x13 ∨ p = 0x14 then some (524160, 156, 32, 13640)
  else if p = 0x15 ∨ p = 0x16 then some (1044992, 208, 32, 13964) else if p = 0x17 ∨ p = 0x18 then some (1047319, 194, 32, 13980)
  else if p = 0x19 ∨ p = 0x1A then some (1357824, 208, 32, 14152)
  else if p = 0x21 then some (2249, 4433, 64, 96) else if p = 0x22 then some (4522, 8978, 64, 104)
  else if p = 0x23 then some (7245, 14421, 64, 112) else none

/-- The SHA2 set that an SLH-DSA set has the sizes of. -/
def slhBase (p : Nat) : Nat := if 0x21 ≤ p ∧ p ≤ 0x26 then p - 0x10 else p

/-- Public key, signature and private payload of a stateless signature set (R80, R104; SLH-DSA keys of four n-byte values, R158). -/
def sigSizes (p : Nat) : Option (Nat × Nat × Nat) :=
  let b := slhBase p
  if p = 1 then some (1312, 2420, 32) else if p = 2 then some (1952, 3309, 32) else if p = 3 then some (2592, 4627, 32)
  else if b = 0x11 then some (32, 7856, 64) else if b = 0x12 then some (32, 17088, 64) else if b = 0x13 then some (48, 16224, 96)
  else if b = 0x14 then some (48, 35664, 96) else if b = 0x15 then some (64, 29792, 128) else if b = 0x16 then some (64, 49856, 128)
  else none

/-- Public key length at a number of HSS levels (RFC 8554, RFC 8391). -/
def Stf.pub (x : Stf) (levels : Nat) : Nat := if x.xmss then 4 + 2 * x.n else 24 + x.n + (if 1 < levels then 4 else 0)

/-- Signature length at a number of HSS levels. -/
def Stf.sig (x : Stf) (levels : Nat) : Nat :=
  if x.xmss then (if 1 < x.layers then (x.h + 7) / 8 else 4) + x.n + (x.h + x.layers * x.chains) * x.n
  else if 1 < levels then 4 + (levels - 1) * (x.lmsSig + 24 + x.n) + x.lmsSig
  else x.lmsSig

/-- Private payload (R104). -/
def Stf.secret (x : Stf) : Nat := if x.xmss then 3 * x.n else x.n + 16

/-- Leaves of a key at a number of levels. -/
def Stf.leaves (x : Stf) (levels : Nat) : Nat := min (2 ^ (x.h * max 1 levels)) (2 ^ 64 - 1)

/-- Levels of a key, from the leaves its blob grants (R156, R167): the fewest that have as many. -/
def Stf.levelsOf (x : Stf) (stop : Nat) : Nat := ((List.range 8).map (· + 1)).find? (fun l => decide (stop ≤ x.leaves l)) |>.getD 8

/-- Field length L of a named curve (R90). -/
def curveLen (p : Nat) : Nat := [0, 32, 48, 66, 32, 56, 32, 57].getD p 0

/-- The public value of a curve's key: an uncompressed point, or the u-coordinate or key of X25519, X448, Ed25519, Ed448 (R90). -/
def ecPub (p l : Nat) : Nat := if p ≤ 3 ∨ 0x40 ≤ p then 1 + 2 * l else l

/-- A loaded curve slot. -/
def isSlotCurve (p : Nat) : Bool := decide (0x40 ≤ p ∧ p ≤ 0x43)

/-- An operation on the curve of a slot (R83): an EC operation with a slot's PSET. -/
def Sqe.slotCurve (e : Sqe) : Bool := decide (bits e.opcode 12 4 = 4) && decide (e.opcode.toNat % 0x800 < 0x10) && isSlotCurve e.pset.toNat

/-- Private payload of a curve key: on a loaded curve the digest of the record precedes it (R156). -/
def ecSecret (p l : Nat) : Nat := if isSlotCurve p then l + 32 else l

/-- The hybrid composites (R101): public key, ciphertext or signature, private payload. -/
def hybSizes (p : Nat) : Option (Nat × Nat × Nat) :=
  if p = 1 then some (1216, 1120, 96) else if p = 2 then some (1665, 1665, 112) else if p = 0x11 then some (1377, 2484, 64)
  else if p = 0x12 then some (2049, 3405, 80) else if p = 0x13 then some (2725, 4759, 98) else none

/-- Fixed length of a symmetric key type (R96): 0 where PARAM gives it; none for a type that does not exist. -/
def symKey? (t : Nat) : Option Nat :=
  if t = 1 then some 16 else if t = 2 then some 24 else if t = 3 then some 32 else if t = 4 then some 32 else if t = 5 then some 64
  else if t = 0x10 then some 0 else if t = 0x11 then some 32 else if t = 0x20 then some 0 else none

/-- Digest length of a HASH or PH code (R78); none for a reserved code. -/
def hashLen? (c : Nat) : Option Nat :=
  if c = 1 ∨ c = 4 ∨ c = 7 then some 32 else if c = 2 ∨ c = 5 then some 48 else if c = 3 ∨ c = 6 ∨ c = 8 then some 64 else none

/-- Digest length of a HASH PSET (R94): 0 for the XOFs. -/
def digestLen? (p : Nat) : Option Nat :=
  if p = 1 ∨ p = 5 ∨ p = 0x11 then some 28 else if p = 2 ∨ p = 6 ∨ p = 0x12 then some 32 else if p = 3 ∨ p = 0x13 then some 48
  else if p = 4 ∨ p = 0x14 then some 64 else if p = 0x21 ∨ p = 0x22 then some 0 else none

/-! ### Algorithm identifiers (R81) -/

/-- The identifier of a class and PSET. -/
def algId (cls p : Nat) (rsa : Bool := false) : W16 :=
  BitVec.ofNat 16 (cls * 4096 + p + (if (cls = 1 ∧ (isMceliece p = true ∨ (0x21 ≤ p ∧ p ≤ 0x23))) then 0x100 else if rsa then 0x800 else 0))

/-! ### Opcodes -/

/-- The opcodes of the catalogue (R84 to R101). -/
def knownOps : List Nat :=
  [0x1001, 0x1002, 0x1802, 0x1003, 0x2001, 0x2002, 0x2003, 0x2803, 0x3001, 0x3002, 0x3003, 0x3803, 0x3004,
   0x4001, 0x4002, 0x4003, 0x4803, 0x4004, 0x4005, 0x4006, 0x4806, 0x4007, 0x4008, 0x4010, 0x4011, 0x4012, 0x4812, 0x4013, 0x4813, 0x4014,
   0x5001, 0x5002, 0x5003, 0x5004, 0x5005,
   0x6001, 0x6002, 0x6003, 0x6004, 0x6005, 0x6006, 0x6007, 0x6008, 0x6009, 0x600A, 0x600B, 0x600C, 0x600D, 0x600E,
   0x7001, 0x7002, 0x8001, 0x9001, 0x9002, 0x9802, 0x9003, 0x9004, 0x9005, 0x9805, 0xA001, 0xA002, 0xA003,
   0xF001, 0xF002, 0xF003, 0xF004, 0xF005, 0xF006, 0xF007, 0xF010, 0xF020, 0xF021, 0xF030, 0xF031, 0xF040]

/-- The classes a queue takes (R72). -/
def classOn (mgr : Bool) (c : Nat) : Bool :=
  if mgr then c == 5 || c == 6 || c == 7 || c == 0xA || c == 0xF else decide (1 ≤ c ∧ c ≤ 0xA)

/-- The PSET is listed for the opcode (R79 to R83, R94, R96, R98, R101). -/
def psetOk (op p : Nat) : Bool :=
  match op / 4096 with
  | 1 => (kemSizes p).isSome
  | 2 => (sigSizes p).isSome
  | 3 => (stf? p).isSome
  | 4 =>
    let o := op % 0x800
    if o = 1 then decide (1 ≤ p ∧ p ≤ 7) || isSlotCurve p
    else if o = 2 ∨ o = 3 then decide (1 ≤ p ∧ p ≤ 3) || isSlotCurve p
    else if o = 4 then decide (1 ≤ p ∧ p ≤ 5) || isSlotCurve p
    else if o = 5 ∨ o = 6 then decide (p = 6 ∨ p = 7)
    else if o = 7 ∨ o = 8 then decide (p = 0)
    else decide (0x20 ≤ p ∧ p ≤ 0x80)
  | 5 =>
    if op = 0x5001 ∨ op = 0x5002 then
      decide (1 ≤ p / 16 ∧ p / 16 ≤ 7 ∧ p / 4 % 4 = 0 ∧ p % 4 < 3) && !(decide (p % 4 = 1) && (decide (p / 16 = 4) || decide (p / 16 = 7)))
    else if op = 0x5005 then (digestLen? p).isSome
    else (macTag? p).isSome
  | 6 =>
    if op = 0x6001 ∨ op = 0x6002 then (symKey? p).isSome
    else if op = 0x6005 then decide ((1 ≤ p ∧ p ≤ 7) ∨ p = 0x11 ∨ p = 0x12)
    else decide (p = 0)
  | 8 => decide (p < 64)
  | 9 => if op = 0x9001 then (hybSizes p).isSome else if op % 0x800 < 4 then decide (p = 1 ∨ p = 2) else decide (0x11 ≤ p ∧ p ≤ 0x13)
  | _ => decide (p = 0)

/-- The operation names a key in KEY_HANDLE. RUN and INST_RESTORE depend on more than the opcode: see `fieldOk`. -/
def namesKey (op : Nat) : Bool :=
  !(op / 0x800 % 2 == 1) && (decide (op / 4096 ≤ 4 ∧ op ≠ 0x4007 ∧ op ≠ 0x4008) || decide (0x5001 ≤ op ∧ op ≤ 0x5004)
    || decide (op / 4096 = 6 ∧ op ≠ 0x600A ∧ op ≠ 0x600B ∧ op ≠ 0x600D) || decide (op / 4096 = 8) || decide (op / 4096 = 9)
    || decide (op = 0xF004 ∨ op = 0xF005))

/-- The PARAM bits that the catalogue defines for an opcode and PSET. -/
def paramMask (op p : Nat) : Nat :=
  match op with
  | 0x1001 => 0xFFFFFFFF | 0x2001 => 0xFFFFFFFF | 0x2002 => 0xFFF3 | 0x2003 => 0xFFF1 | 0x2803 => 0xFFF1
  | 0x3001 => 0xFFFFFFFFF | 0x3003 => 0xFFFFFFFF | 0x3803 => 0xFFFFFFFF
  | 0x4001 => 0xFFFFFFFF | 0x4002 => 0x3F | 0x4003 => 0x1F | 0x4803 => 0x1F | 0x4005 => 0xFF10 | 0x4006 => 0xFF10 | 0x4806 => 0xFF10
  | 0x4007 => 0x1FFF0000 | 0x4008 => 0x30000 | 0x4010 => 0xFFFFFFFFFFFFFFFF | 0x4011 => 0xFF5F | 0x4012 => 0xFF5F | 0x4812 => 0xFF5F
  | 0x4013 => 0xFF0F | 0x4813 => 0xFF0F | 0x4014 => 0xFF0F
  | 0x5001 => if p / 16 = 3 then 0xFF01 else 0
  | 0x5002 => if p / 16 = 3 then 0xFF00 else 0
  | 0x5003 => 0xFF00 | 0x5004 => 0xFF00
  | 0x5005 => if p = 0x21 ∨ p = 0x22 then 0xFFFFFFFF else 0
  | 0x6001 => if symKey? p = some 0 then 0xFFFFFFFFFFFF else 0xFFFFFFFF
  | 0x6002 => if symKey? p = some 0 then 0xFFFFFFFFFFFF else 0xFFFFFFFF
  | 0x6004 => 0xFFFFFFFF00000000 | 0x6005 => 0xFFFFFFFFFFFFFF | 0x600E => 0x7FFFFFFFF
  | 0x7001 => 0x1FFFFFFFF | 0x8001 => 0xFFFFFFFFFFFFFFFF
  | 0x9001 => 0xFFFFFFFF | 0x9002 => 3 | 0x9802 => 3 | 0x9003 => 3 | 0x9004 => 0xFFF3 | 0x9005 => 0xFFF1 | 0x9805 => 0xFFF1
  | 0xA001 => 0x3F
  | 0xF002 => 0x10FFF | 0xF003 => 0x10FFF | 0xF004 => 0xFFF | 0xF005 => 0x10FFF | 0xF006 => 0x77FFF | 0xF007 => 0x7FF0FFF
  | 0xF010 => 0xF | 0xF020 => 0xF
  | _ => 0

/-- The RSA modulus length k in bytes. -/
def Sqe.rsaK (e : Sqe) : Nat := 8 * e.ps
/-- FIELD_BITS of CURVE_LOAD (R91). -/
def Sqe.fieldBits (e : Sqe) : Nat := e.par 18 11
/-- The public-key length of an operation's parameter set, at a field length L. -/
def Sqe.pubLen (e : Sqe) (l : Nat) : Nat :=
  match e.cls with
  | 1 => ((kemSizes e.ps).getD (0, 0, 0, 0)).1
  | 2 => ((sigSizes e.ps).getD (0, 0, 0)).1
  | 3 => ((stf? e.ps).map (fun x => x.pub (e.par 32 4))).getD 0
  | 4 => if 0x10 ≤ e.op % 0x800 then e.rsaK + 4 else ecPub e.ps l
  | 9 => ((hybSizes e.ps).getD (0, 0, 0)).1
  | _ => 0
/-- The private payload of a key that an operation's parameter set creates, at a field length L. -/
def Sqe.secretLen (e : Sqe) (l : Nat) : Nat :=
  match e.cls with
  | 1 => ((kemSizes e.ps).getD (0, 0, 0, 0)).2.2.2
  | 2 => ((sigSizes e.ps).getD (0, 0, 0)).2.2
  | 3 => ((stf? e.ps).map Stf.secret).getD 0
  | 4 => if 0x10 ≤ e.op % 0x800 then 20 * e.ps else ecSecret e.ps l
  | 9 => ((hybSizes e.ps).getD (0, 0, 0)).2.2
  | _ => 0
/-- The length of the symmetric key that GENERATE, IMPORT or DERIVE creates (R96). -/
def Sqe.symLen (e : Sqe) : Nat :=
  if e.op = 0x6005 then (match symKey? (e.par 32 8) with | some 0 => e.par 40 16 | some n => n | none => 0)
  else (match symKey? e.ps with | some 0 => e.par 32 16 | some n => n | none => 0)

/-- The context length of the signature operations. -/
def Sqe.ctxLen (e : Sqe) : Nat := e.par 8 8

/-- An operation takes AUX (R73, R84 to R101). -/
def Sqe.takesAux (e : Sqe) : Bool :=
  e.ext || decide (e.op = 0x2002 ∨ e.op = 0x2003 ∨ e.op = 0x4005 ∨ e.op = 0x4006 ∨ e.op = 0x4013 ∨ e.op = 0x4014 ∨ e.op = 0x8001 ∨ e.op = 0x9004 ∨ e.op = 0x9005)
    || (decide (e.op = 0x5001 ∨ e.op = 0x5002) && decide (e.mode ≠ 5 ∧ e.mode ≠ 6))
    || (decide (e.op = 0x5003) && decide (e.ps = 2 ∨ e.ps = 0x21 ∨ e.ps = 0x22)) || decide (e.op = 0x5004)
    || decide (e.op = 0xF004) || (decide (e.op = 0xF005) && !bit e.param 16)

/-- An operation has output (R73, R84 to R101). -/
def Sqe.hasOut (e : Sqe) : Bool :=
  match e.cls with
  | 2 => decide (e.op = 0x2001 ∨ e.op = 0x2002)
  | 3 => !decide (e.op = 0x3003 ∨ e.op = 0x3803)
  | 4 => decide (e.op = 0x4001 ∨ e.op = 0x4002 ∨ e.op = 0x4004 ∨ e.op = 0x4005 ∨ e.op = 0x4010 ∨ e.op = 0x4011 ∨ e.op = 0x4013 ∨ e.op = 0x4813 ∨ e.op = 0x4014)
  | 5 => !decide (e.op = 0x5004)
  | 6 => decide (e.op ≤ 0x6005 ∨ e.op = 0x6008 ∨ e.op = 0x6009 ∨ e.op = 0x600E)
  | 7 => decide (e.op = 0x7001)
  | 9 => !decide (e.op = 0x9005 ∨ e.op = 0x9805)
  | 0xF => decide (e.op = 0xF004 ∨ e.op = 0xF040) || (decide (e.op = 0xF005) && bit e.param 16)
  | _ => true

/-- IN_PLACE is permitted (R95). -/
def Sqe.inPlaceOk (e : Sqe) : Bool :=
  decide (e.op = 0x5001 ∨ e.op = 0x5002) && decide (e.mode = 1 ∨ e.mode = 2 ∨ e.mode = 4)

/-- A field of an owner program image (R217). -/
def progField (img : List Byte) (off n : Nat) : Nat := fieldLe img off n

/-- The fields other than lengths keep the rules (R73, R87, R88, R91, R96, R102, R128, R220, R354). `prog` is the active owner program of the slot. -/
def fieldOk (prog : Option (List Byte)) (e : Sqe) : Bool :=
  let keyed := namesKey e.op && !(decide (e.op = 0xF005) && bit e.param 16)
    && !(decide (e.op = 0x8001) && decide (prog.map (fun x => progField x 54 2) = some 0))
  (keyed || decide (e.handle = 0)) && (e.takesAux || decide (e.auxAddr = 0 ∧ e.auxLen = 0)) && (e.hasOut || decide (e.outAddr = 0 ∧ e.outCap = 0))
  && decide (e.param.toNat &&& paramMask e.op e.ps = e.param.toNat)
  && (!e.inPlace || (e.inPlaceOk && decide (e.outAddr = 0 ∧ e.outCap = e.inLen)))
  && (match e.op % 0x1000 % 0x800 + e.op / 4096 * 4096 with
    | 0x2002 => if bit e.param 0 then (hashLen? (e.par 4 4)).isSome else decide (e.par 4 4 = 0)
    | 0x2003 => if bit e.param 0 then (hashLen? (e.par 4 4)).isSome else decide (e.par 4 4 = 0)
    | 0x3001 => (match stf? e.ps with | some x => if x.xmss then decide (e.par 32 4 = 0) else decide (1 ≤ e.par 32 4 ∧ e.par 32 4 ≤ 8) | none => false)
    | 0x4002 => decide (1 ≤ e.par 0 4 ∧ e.par 0 4 ≤ 6)
    | 0x4003 => decide (1 ≤ e.par 0 4 ∧ e.par 0 4 ≤ 6)
    | 0x4007 => decide (192 ≤ e.fieldBits ∧ e.fieldBits ≤ 1024)
    | 0x4010 => decide (e.par 32 32 = 0 ∨ (e.par 32 32 % 2 = 1 ∧ 65537 ≤ e.par 32 32))
    | 0x4011 => decide (1 ≤ e.par 0 4 ∧ e.par 0 4 ≤ 6)
    | 0x4012 => decide (1 ≤ e.par 0 4 ∧ e.par 0 4 ≤ 6)
    | 0x4013 => decide (1 ≤ e.par 0 4 ∧ e.par 0 4 ≤ 6)
    | 0x4014 => decide (1 ≤ e.par 0 4 ∧ e.par 0 4 ≤ 6)
    | 0x6005 => (match symKey? (e.par 32 8) with
        | some 0 => decide (16 ≤ e.par 40 16 ∧ e.par 40 16 ≤ 128) | some _ => decide (e.par 40 16 = 0) | none => false)
    | 0x9002 => decide (e.par 0 2 < 2)
    | 0x9003 => decide (e.par 0 2 < 2)
    | 0x9004 => if bit e.param 0 then (hashLen? (e.par 4 4)).isSome else decide (e.par 4 4 = 0)
    | 0x9005 => if bit e.param 0 then (hashLen? (e.par 4 4)).isSome else decide (e.par 4 4 = 0)
    | 0xF007 => decide (1 ≤ e.par 16 11 ∧ e.par 16 11 ≤ 1024)
    | _ => true)

/-! ### Lengths (R74, R519) -/

/-- Field lengths that a curve PSET admits: its own, or those of 192 to 1,024 bits for a loaded slot (R519). -/
def Sqe.fieldLens (e : Sqe) : Nat × Nat := if e.slotCurve then (24, 128) else (curveLen e.ps, curveLen e.ps)

/-- Length of the signature that follows the message in IN, at a field length L (R86, R90). On a loaded curve whose order is shorter than its field, r and s have L bytes
each. DESIGN CHOICE (log 138). -/
def Sqe.sigLen (e : Sqe) (l : Nat) : Nat :=
  match e.op % 0x800 + e.op / 4096 * 4096 with
  | 0x2003 => ((sigSizes e.ps).getD (0, 0, 0)).2.1
  | 0x4003 => 2 * l
  | 0x4006 => if e.ps = 6 then 64 else 114
  | 0x4012 => e.rsaK
  | 0x9005 => ((hybSizes e.ps).getD (0, 0, 0)).2.1
  | _ => 0

/-- A message of `m` bytes is admitted: a digest of HASH where PREHASHED says so. -/
def digestOk (pre : Bool) (len : Option Nat) (m : Nat) : Bool := !pre || decide (len = some m)

/-- IN_LEN keeps the rules of its operation. -/
def inLenOk (prog : Option (List Byte)) (e : Sqe) : Bool :=
  let n := e.inLen.toNat
  let lo := e.fieldLens.1
  let hi := e.fieldLens.2
  let o := e.op % 0x800 + e.op / 4096 * 4096
  let pre := bit e.param 4
  match o with
  | 0x1003 => decide (n = ((kemSizes e.ps).getD (0, 0, 0, 0)).2.1)
  | 0x2002 => digestOk (bit e.param 0) (hashLen? (e.par 4 4)) n
  | 0x2003 => decide (e.sigLen 0 ≤ n) && digestOk (bit e.param 0) (hashLen? (e.par 4 4)) (n - e.sigLen 0)
  | 0x3002 => true
  | 0x3003 => decide (e.par 0 32 ≤ n)
  | 0x4002 => digestOk pre (hashLen? (e.par 0 4)) n
  | 0x4003 => decide (2 * lo ≤ n) && (!pre || (match hashLen? (e.par 0 4) with | some h => decide (n - 2 * hi ≤ h ∧ h ≤ n - 2 * lo) | none => false))
  | 0x4004 => decide (ecPub e.ps lo ≤ n ∧ n ≤ ecPub e.ps hi)
  | 0x4005 => digestOk pre (some 64) n
  | 0x4006 => decide (e.sigLen 0 ≤ n) && digestOk pre (some 64) (n - e.sigLen 0)
  | 0x4007 => decide (n = 6 * ((e.fieldBits + 7) / 8) + 8)
  | 0x4011 => digestOk pre (hashLen? (e.par 0 4)) n
  | 0x4012 => decide (e.rsaK ≤ n) && digestOk pre (hashLen? (e.par 0 4)) (n - e.rsaK)
  | 0x4013 => (match hashLen? (e.par 0 4) with | some h => decide (n + 2 * h + 2 ≤ e.rsaK) | none => false)
  | 0x4014 => decide (n = e.rsaK)
  | 0x5001 =>
    (match e.mode with
    | 1 => decide (n % 16 = 0 ∧ 16 ≤ n) | 2 => decide (1 ≤ n) | 3 => decide (n ≤ 2 ^ 32 - 17) | 4 => decide (16 ≤ n ∧ n ≤ 2 ^ 24)
    | 5 => decide (n % 8 = 0 ∧ 16 ≤ n ∧ n ≤ 65536) | 6 => decide (1 ≤ n ∧ n ≤ 65536) | _ => decide (n ≤ 65536))
  | 0x5002 =>
    (match e.mode with
    | 1 => decide (n % 16 = 0 ∧ 16 ≤ n) | 2 => decide (1 ≤ n) | 3 => decide (e.tagLen ≤ n ∧ n - e.tagLen ≤ 2 ^ 32 - 17)
    | 4 => decide (16 ≤ n ∧ n ≤ 2 ^ 24) | 5 => decide (n % 8 = 0 ∧ 24 ≤ n ∧ n ≤ 65544) | 6 => decide (n % 8 = 0 ∧ 16 ≤ n ∧ n ≤ 65544)
    | _ => decide (16 ≤ n ∧ n - 16 ≤ 65536))
  | 0x5003 => true | 0x5004 => true | 0x5005 => true
  | 0x6002 => decide (n % 8 = 0 ∧ 16 ≤ n ∧ n ≤ 65544)
  | 0x6005 => decide (n ≤ 1024)
  | 0x6008 => decide (76 ≤ n ∧ n ≤ 1024 * 16384)
  | 0x600A => decide (n % 4 = 0 ∧ 8 ≤ n ∧ n ≤ 4 + 4 * 4096)
  | 0x600B => decide (n % 8 = 0 ∧ 16 ≤ n ∧ n ≤ 8 + 8 * 4096)
  | 0x600C => decide (1 ≤ n)
  | 0x600D => decide (n = 44)
  | 0x7001 => decide (n ≤ 256) | 0x7002 => decide (n ≤ 256)
  | 0x8001 => (match prog with | some x => decide (n ≤ progField x 32 4) && (xformOf x 0).lenOk n | none => true)
  | 0x9003 => decide (n = ((hybSizes e.ps).getD (0, 0, 0)).2.1)
  | 0x9004 => digestOk (bit e.param 0) (hashLen? (e.par 4 4)) n
  | 0x9005 => decide (e.sigLen 0 ≤ n) && digestOk (bit e.param 0) (hashLen? (e.par 4 4)) (n - e.sigLen 0)
  | 0xA001 => decide (n = 32) | 0xA002 => decide (n = 32)
  | 0xF001 => decide (n = 2656 ∨ n = 7315) | 0xF002 => decide (n = 0 ∨ n = 7251)
  | 0xF005 => if bit e.param 16 then decide (n = 0) else decide (92 ≤ n)
  | 0xF020 => true
  | 0xF021 => decide (n = 4691 ∨ n = 7283)
  | _ => decide (n = 0)

/-- AUX_LEN keeps the rules of its operation. -/
def auxLenOk (prog : Option (List Byte)) (e : Sqe) : Bool :=
  let n := e.auxLen.toNat
  let lo := e.pubLen e.fieldLens.1
  let hi := e.pubLen e.fieldLens.2
  match e.op with
  | 0x1802 => decide (n = lo) | 0x9802 => decide (n = lo)
  | 0x2002 => decide (n = e.ctxLen) | 0x2003 => decide (n = e.ctxLen) | 0x9004 => decide (n = e.ctxLen) | 0x9005 => decide (n = e.ctxLen)
  | 0x2803 => decide (n = lo + e.ctxLen) | 0x9805 => decide (n = lo + e.ctxLen)
  | 0x3803 => (match stf? e.ps with | some x => decide (n = x.pub 1) || (!x.xmss && decide (n = x.pub 2)) | none => false)
  | 0x4803 => decide (lo ≤ n ∧ n ≤ hi) | 0x4005 => decide (n = e.ctxLen) | 0x4006 => decide (n = e.ctxLen)
  | 0x4806 => decide (n = lo + e.ctxLen)
  | 0x4812 => decide (n = lo) | 0x4013 => decide (n = e.ctxLen) | 0x4813 => decide (n = lo + e.ctxLen) | 0x4014 => decide (n = e.ctxLen)
  | 0x5001 => (match e.mode with | 3 => bit e.param 0 || decide (12 ≤ n) | 7 => decide (12 ≤ n) | 5 => true | 6 => true | _ => decide (n = 16))
  | 0x5002 => (match e.mode with | 3 => decide (12 ≤ n) | 7 => decide (12 ≤ n) | 5 => true | 6 => true | _ => decide (n = 16))
  | 0x5003 => if e.ps = 2 then decide (n = 12) else decide (n ≤ 256)
  | 0x5004 => if e.ps = 2 then decide (n = 12 + e.tagLen) else if e.ps = 0x21 ∨ e.ps = 0x22 then decide (e.tagLen ≤ n ∧ n ≤ 256 + e.tagLen)
              else decide (n = e.tagLen)
  | 0x8001 => (match prog with | some x => decide (n ≤ progField x 36 4) && (xformOf x 1).lenOk n | none => true)
  | 0xF004 => decide (n = 48)
  | 0xF005 => bit e.param 16 || decide (n = 64)
  | _ => true

/-- Lengths that PARAM carries keep their limits (R87, R91, R95 to R97). -/
def paramLenOk (e : Sqe) : Bool :=
  match e.op with
  | 0x4011 => !bit e.param 6 || decide (e.ctxLen ≤ 64) | 0x4012 => !bit e.param 6 || decide (e.ctxLen ≤ 64)
  | 0x4812 => !bit e.param 6 || decide (e.ctxLen ≤ 64)
  | 0x5001 => decide (e.mode ≠ 3) || decide (e.par 8 8 = 0 ∨ (12 ≤ e.par 8 8 ∧ e.par 8 8 ≤ 16))
  | 0x5002 => decide (e.mode ≠ 3) || decide (e.par 8 8 = 0 ∨ (12 ≤ e.par 8 8 ∧ e.par 8 8 ≤ 16))
  | 0x5003 => (match macTag? e.ps with | some t => decide (e.par 8 8 = 0 ∨ (t.2.1 ≤ e.par 8 8 ∧ e.par 8 8 ≤ t.2.2)) | none => false)
  | 0x5004 => (match macTag? e.ps with | some t => decide (e.par 8 8 = 0 ∨ (t.2.1 ≤ e.par 8 8 ∧ e.par 8 8 ≤ t.2.2)) | none => false)
  | 0x5005 => decide (e.ps ≠ 0x21 ∧ e.ps ≠ 0x22) || decide (1 ≤ e.par 0 32 ∧ e.par 0 32 ≤ 65536)
  | 0x6001 => decide (symKey? e.ps ≠ some 0) || decide (16 ≤ e.par 32 16 ∧ e.par 32 16 ≤ 128)
  | 0x6002 => decide (symKey? e.ps ≠ some 0) || decide (16 ≤ e.par 32 16 ∧ e.par 32 16 ≤ 128)
  | 0x7001 => decide (1 ≤ e.par 0 32 ∧ e.par 0 32 ≤ 65536)
  | 0xF040 => decide (e.outCap.toNat % 64 = 0)
  | _ => true

/-- Output of ENCRYPT, DECRYPT, MAC_GENERATE and HASH (R93 to R95). -/
def symOut (e : Sqe) : Nat :=
  let n := e.inLen.toNat
  match e.op with
  | 0x5001 =>
    (match e.mode with
    | 3 => n + e.tagLen + (if bit e.param 0 then 12 else 0) | 5 => n + 8 | 6 => (n + 7) / 8 * 8 + 8 | 7 => n + 16 | _ => n)
  | 0x5002 => (match e.mode with | 3 => n - e.tagLen | 5 => n - 8 | 6 => n - 8 | 7 => n - 16 | _ => n)
  | 0x5003 => e.tagLen
  | 0x5005 => if e.ps = 0x21 ∨ e.ps = 0x22 then e.par 0 32 else (digestLen? e.ps).getD 0
  | _ => 0

/-- The least OUT_CAP (R74, R519): the largest output, or one byte where only the key decides it. `saveLen` is the image of the instance named,
`idLen` the certificates. -/
def outNeed (prog : Option (List Byte)) (saveLen idLen : Nat) (e : Sqe) : Nat :=
  let l := e.fieldLens.1
  let created := 76 + e.secretLen l + e.pubLen l
  if !e.hasOut then 0
  else match e.op with
  | 0x1001 => created | 0x2001 => created | 0x3001 => created | 0x9001 => created | 0x4010 => created
  | 0x4001 => if isSlotCurve e.ps then 1 else created
  | 0x1002 => ((kemSizes e.ps).getD (0, 0, 0, 0)).2.1 + ((kemSizes e.ps).getD (0, 0, 0, 0)).2.2.1
  | 0x1802 => ((kemSizes e.ps).getD (0, 0, 0, 0)).2.1 + ((kemSizes e.ps).getD (0, 0, 0, 0)).2.2.1
  | 0x1003 => ((kemSizes e.ps).getD (0, 0, 0, 0)).2.2.1
  | 0x2002 => ((sigSizes e.ps).getD (0, 0, 0)).2.1
  | 0x3002 => ((stf? e.ps).map (fun x => x.sig 1)).getD 0
  | 0x3004 => 8
  | 0x4002 => if isSlotCurve e.ps then 1 else 2 * l
  | 0x4004 => if isSlotCurve e.ps then 1 else l
  | 0x4005 => if e.ps = 6 then 64 else 114
  | 0x4011 => e.rsaK | 0x4013 => e.rsaK | 0x4813 => e.rsaK
  | 0x4014 => e.rsaK - 2 * (hashLen? (e.par 0 4)).getD 0 - 2
  | 0x5001 => symOut e | 0x5002 => symOut e | 0x5003 => symOut e | 0x5005 => symOut e
  | 0x6001 => 76 + e.symLen | 0x6002 => 76 + e.symLen | 0x6005 => 76 + e.symLen
  | 0x6008 => e.inLen.toNat
  | 0x7001 => e.par 0 32
  | 0x8001 => (match prog with | some x => progField x 40 4 | none => 0)
  | 0x9002 => ((hybSizes e.ps).getD (0, 0, 0)).2.1 + (if e.par 0 2 = 1 then 32 else if e.ps = 1 then 64 else 80)
  | 0x9802 => ((hybSizes e.ps).getD (0, 0, 0)).2.1 + (if e.par 0 2 = 1 then 32 else if e.ps = 1 then 64 else 80)
  | 0x9003 => if e.par 0 2 = 1 then 32 else if e.ps = 1 then 64 else 80
  | 0x9004 => ((hybSizes e.ps).getD (0, 0, 0)).2.1
  | 0xA001 => 64 | 0xA002 => 4843 | 0xA003 => idLen
  | 0xF004 => saveLen | 0xF005 => 48 | 0xF040 => 4736
  | _ => 1

/-- The address rules of R123. -/
def addrOk (a : W64) (n : W32) : Bool := decide (n = 0 → a = 0) && decide (a.toNat + n.toNat ≤ 2 ^ 64)

/-- The lengths keep R74, R123 and the catalogue's limits. -/
def lengthOk (prog : Option (List Byte)) (saveLen idLen : Nat) (e : Sqe) : Bool :=
  inLenOk prog e && auxLenOk prog e && paramLenOk e && decide (outNeed prog saveLen idLen e ≤ e.outCap.toNat)
    && addrOk e.inAddr e.inLen && addrOk e.auxAddr e.auxLen && (e.inPlace || addrOk e.outAddr e.outCap)

/-! ### Entries (R122, R130, R142) -/

/-- A submission entry from its 64 bytes (R122). -/
def Sqe.ofBytes (b : List Byte) : Sqe where
  opcode := BitVec.ofNat 16 (fieldLe b 0 2)
  pset := b.getD 2 0
  flags := b.getD 3 0
  handle := BitVec.ofNat 32 (fieldLe b 4 4)
  tag := BitVec.ofNat 64 (fieldLe b 8 8)
  inAddr := BitVec.ofNat 64 (fieldLe b 16 8)
  inLen := BitVec.ofNat 32 (fieldLe b 24 4)
  outCap := BitVec.ofNat 32 (fieldLe b 28 4)
  outAddr := BitVec.ofNat 64 (fieldLe b 32 8)
  auxAddr := BitVec.ofNat 64 (fieldLe b 40 8)
  auxLen := BitVec.ofNat 32 (fieldLe b 48 4)
  param := BitVec.ofNat 64 (fieldLe b 52 8)
  rsv := BitVec.ofNat 16 (fieldLe b 60 2)
  check := BitVec.ofNat 16 (fieldLe b 62 2)

/-- The 64 bytes of an entry (R122). -/
def Sqe.bytes (e : Sqe) : List Byte :=
  leBytes 2 e.opcode.toNat ++ [e.pset, e.flags] ++ leBytes 4 e.handle.toNat ++ leBytes 8 e.tag.toNat ++ leBytes 8 e.inAddr.toNat
    ++ leBytes 4 e.inLen.toNat ++ leBytes 4 e.outCap.toNat ++ leBytes 8 e.outAddr.toNat ++ leBytes 8 e.auxAddr.toNat ++ leBytes 4 e.auxLen.toNat
    ++ leBytes 8 e.param.toNat ++ leBytes 2 e.rsv.toNat ++ leBytes 2 e.check.toNat

/-- One bit step of the CRC of R130. -/
def crcBit (c : W16) : W16 := if c.getLsbD 15 then (c <<< 1) ^^^ 0x1021#16 else c <<< 1

/-- The CRC-16 of R130. -/
def crc16 (bs : List Byte) : W16 :=
  bs.foldl (fun c b => (List.range 8).foldl (fun c _ => crcBit c) (c ^^^ ((b.setWidth 16 : W16) <<< (8 : Nat)))) 0xFFFF#16

/-- What the checks of an entry rest on beside its bytes: a manager queue, QC_CTRL.CHECKED, the active owner programs' images by slot, the length of an image
of the instance named by PARAM, the length of the certificates. -/
structure EntryCtx where
  mgr : Bool
  checked : Bool
  prog : Nat → Option (List Byte)
  saveLen : Nat → Nat
  idLen : Nat

/-- The cause for which an entry is malformed, the first in the order of R142; 0 for none. -/
def entryError (x : EntryCtx) (b : List Byte) : Nat :=
  let e := Sqe.ofBytes b
  let prog := if e.op = 0x8001 then x.prog e.ps else none
  if (x.checked || bit e.flags 3) && decide (crc16 (b.take 62) ≠ e.check) then 1
  else if !(knownOps.contains e.op && classOn x.mgr e.cls) then 2
  else if !psetOk e.op e.ps then 3
  else if e.rsv ≠ 0 then 4
  else if !fieldOk prog e then 5
  else if !lengthOk prog (x.saveLen (e.par 0 12)) x.idLen e then 6
  else 0

end Sys2Proof.Machine
end

