-- ==== Sys2Proof/Machine/Microcode.lean ====
section
/-! DEFINITION. The microcode sequencer (R222 to R228, R235, R239): microwords, operand selectors, entry vectors, micro-loops and the walk of an expansion that a
patch has redirected. The microwords of the ROM and their data-path encodings are internal to a ROM revision (R224). -/

namespace Sys2Proof.Machine

/-! ### The microword (R222) -/

/-- A microword. -/
abbrev Microword := BitVec 36

/-- Even parity over all 36 bits. -/
def Microword.parOk (w : Microword) : Bool := decide (((List.range 36).map (fun i => b2n (bit w i))).foldl (· + ·) 0 % 2 = 0)
/-- CYC. -/
def Microword.cyc (w : Microword) : Nat := bits w 32 3
/-- FA. -/
def Microword.fa (w : Microword) : Nat := bits w 21 5
/-- FB. -/
def Microword.fb (w : Microword) : Nat := bits w 16 5
/-- FD. -/
def Microword.fd (w : Microword) : Nat := bits w 11 5
/-- MOD. -/
def Microword.mod (w : Microword) : Nat := bits w 7 4
/-- CKPT. -/
def Microword.ckpt (w : Microword) : Bool := bit w 6
/-- IMM. -/
def Microword.imm (w : Microword) : Nat := bits w 0 6

/-- The micro-operations (R224). -/
inductive Uop where
  | unop | uend | uloop | ujmp | ucall | uret | urepeat
  | reserved
  | data (code : Nat)
  deriving DecidableEq, Repr

/-- UOP. -/
def Microword.uop (w : Microword) : Uop :=
  match bits w 26 6 with
  | 0 => .unop
  | 1 => .uend
  | 2 => .uloop
  | 3 => .ujmp
  | 4 => .ucall
  | 5 => .uret
  | 6 => .urepeat
  | 7 => .reserved
  | n => .data n

/-- The microaddress that UJMP and UCALL name: FA ‖ FB ‖ FD ‖ MOD[1:0]. -/
def Microword.target (w : Microword) : Nat := ((w.fa * 32 + w.fb) * 32 + w.fd) * 4 + w.mod % 4

/-! ### Operand selectors (R223) -/

/-- What FA, FB or FD selects: a register of the file that UOP implies, or a temporary register. -/
inductive MicroReg where
  | file (number : Nat)
  | temp (number : Nat)
  deriving DecidableEq, Repr

/-- The register that a selector names in an instruction: D, A or B plus the offset k, or Tk. -/
def microReg (sel : Nat) (f : LveFields) : MicroReg :=
  match sel / 8 with
  | 0 => .file (f.d.toNat + sel % 8)
  | 1 => .file (f.a.toNat + sel % 8)
  | 2 => .file (f.b.toNat + sel % 8)
  | _ => .temp (sel % 8)

/-! ### Entry vectors (R225) -/

/-- The entry vector of an instruction: OP[6:0], VTYPE.SEW, the variant of its SUB. -/
def entryVector (o : LveOp) (f : LveFields) (vt : BitVec 4) : Nat :=
  (o.enc.op % 128) * 32 + vt.toNat % 4 * 8 + Config.variant o.enc.op f.sub.toNat % 8

/-- The microaddress at which an expansion begins, where a patch has redirected its vector. -/
def PatchSet.redirected (p : PatchSet) (o : LveOp) (f : LveFields) (vt : BitVec 4) : Option Nat :=
  if p.targets = [] then Option.none else Assoc.get? p.targets (entryVector o f vt)

/-- The vector table of a die (R225). -/
def PatchSet.entry (p : PatchSet) (o : LveOp) (f : LveFields) (vt : BitVec 4) : Nat :=
  (p.redirected o f vt).getD (Config.romVector (entryVector o f vt) % 65536)

/-- The microword at a microaddress: ROM below 0x1_0000, patch RAM above (R239). -/
def PatchSet.word (p : PatchSet) (ua : Nat) : Microword := if ua < 65536 then Config.microRom ua else Assoc.getD p.ram (ua - 65536) 0

/-! ### Sequencing (R224, R226, R227) -/

/-- The count of a ULOOP by its source (R226). -/
def microCount (l : Lve) (o : LveOp) (f : LveFields) (w : Microword) : Nat :=
  let vl := l.core.vl
  match w.mod with
  | 0 => w.imm + 1
  | 1 => cdiv vl 8
  | 2 => cdiv vl 16
  | 3 => cdiv (f.sub.toNat * vl) 16
  | 4 => (match o with
    | .kabs => l.absorbPerms (l.sr f.b.toNat).toNat
    | .kabsm => l.absorbPerms (l.sr f.b.toNat).toNat
    | .vxof => l.squeezePerms f.imm.toNat
    | .vrej => f.imm.toNat / 16 % 16
    | _ => 0)
  | 5 => cdiv (l.sr f.b.toNat).toNat 8
  | 6 => (match o with
    | .vrej => f.imm.toNat / 16 % 16
    | .hblk => f.imm.toNat % 4 + 1
    | _ => f.imm.toNat + 1)
  | 7 => l.logSew
  | 8 => cdiv (vl * f.imm.toNat) 2048
  | _ => 0

/-- A micro-loop that runs: its level, its first and last microaddress, the iterations left with the running one. -/
structure MicroLoop where
  level : Nat
  start : Nat
  last : Nat
  left : Nat
  deriving DecidableEq, Repr

/-- Where a sequencer stands within an expansion: microaddress, micro-loops innermost first, saved return microaddress. -/
structure MicroPos where
  ua : Nat
  loops : List MicroLoop
  back : Option Nat
  deriving DecidableEq, Repr

/-- After a microword that does not jump: the next one, or the back-edge of each micro-loop that ends here (R226). -/
def microAfter (ua : Nat) : List MicroLoop → Nat × List MicroLoop
  | [] => (ua + 1, [])
  | m :: rest =>
    if m.last = ua then (if 1 < m.left then (m.start, { m with left := m.left - 1 } :: rest) else microAfter ua rest) else (ua + 1, m :: rest)

/-- The position that follows a microword: a function of the microaddress, the loop counters and the return address (R227). -/
def microNext (l : Lve) (o : LveOp) (f : LveFields) (w : Microword) (p : MicroPos) : MicroPos :=
  match w.uop with
  | .ujmp => { p with ua := w.target }
  | .ucall => { p with ua := w.target, back := some (p.ua + 1) }
  | .uret => { p with ua := p.back.getD (p.ua + 1), back := none }
  | .uloop =>
    let n := microCount l o f w
    if n = 0 then { p with ua := p.ua + 1 + w.fd } else { p with ua := p.ua + 1, loops := ⟨w.fa % 2, p.ua + 1, p.ua + w.fd, n⟩ :: p.loops }
  | _ =>
    let q := microAfter p.ua p.loops
    { p with ua := q.1, loops := q.2 }

/-- How the walk of an expansion ends: at UEND or UREPEAT with the temporary registers written and where from, at a parity mismatch (R245) and whether in patch
RAM, or at the 161st microword since a checkpoint (R235). -/
inductive MicroEnd where
  | done (temps : List (Nat × Nat))
  | parity (inPatch : Bool)
  | gap
  deriving DecidableEq, Repr

/-- The temporary register that a microword writes. -/
def Microword.temp (w : Microword) (f : LveFields) : Option Nat :=
  match w.uop, microReg w.fd f with
  | .data _, .temp k => some k
  | _, _ => none

/-- Walk an expansion, `since` microwords after the last checkpoint, `fuel` microwords at most. -/
def PatchSet.walk (p : PatchSet) (l : Lve) (o : LveOp) (f : LveFields) : Nat → Nat → MicroPos → List (Nat × Nat) → MicroEnd
  | 0, _, _, ts => .done ts
  | fuel + 1, since, q, ts =>
    let w := p.word q.ua
    if !w.parOk then .parity (decide (65536 ≤ q.ua))
    else if w.uop = .uend ∨ w.uop = .urepeat then .done ts
    else if !w.ckpt ∧ 160 ≤ since then .gap
    else p.walk l o f fuel (if w.ckpt then 0 else since + 1) (microNext l o f w q) (match w.temp f with | some k => ts ++ [(k, q.ua)] | Option.none => ts)

/-- The expansion of an instruction whose vector a patch has redirected; none where the ROM's own expansion runs, which has its checkpoints as R228 and R235 say. -/
def PatchSet.expansion (p : PatchSet) (o : LveOp) (f : LveFields) (l : Lve) : Option MicroEnd :=
  (p.redirected o f l.core.vtype).map (fun ua => p.walk l o f 100000 0 ⟨ua, [], Option.none⟩ [])

/-- The temporary registers after an expansion: free values in those it writes. -/
def Lve.withTemps (l : Lve) (ts : List (Nat × Nat)) : Lve :=
  { l with core := { l.core with temps := ts.foldl (fun (v : Vector VReg 8) p => v.setIfInBounds p.1 (Config.tempValue p.2 l.seq.draws)) l.core.temps } }

end Sys2Proof.Machine
end

