-- ==== Sys2Proof/Machine/EngineMaps.lean ====
section
/-! DEFINITION. The cycle-class maps and skip patterns of the engines (R229 to R233, R286), engine time (R106, R231), and what ends a job on an LVE: its wipe and page
(R196, R221, R237), a fence and a map that waited for it (R232, R247), aborts (R236 to R238). -/

namespace Sys2Proof.Machine

/-! ### Maps (R229, R286) -/

/-- The map side of the Pacer's engine `e` of a die: 0 to 15 LVE, 16 to 19 BNE (R464). -/
def Die.emap (d : Die) (e : Nat) : Option EngineMap :=
  if e < 16 then (d.lves[e]?).map LveUnit.map else (d.bnes[e - 16]?).map BneUnit.map

/-- Change it. -/
def Die.modMap (d : Die) (e : Nat) (f : EngineMap → EngineMap) : Die :=
  if e < 16 then { d with lves := d.lves.modify e (fun u => { u with map := f u.map }) }
  else { d with bnes := d.bnes.modify (e - 16) (fun u => { u with map := f u.map }) }

/-- L[c] of a map word, in clocks. -/
def mapLen (m : W32) (c : Nat) : Nat := bits m (4 * c) 4 + 1

/-- The word of a map from its lengths, class 0 first. -/
def mapWord (ls : List Nat) : W32 := BitVec.ofNat 32 ((ls.zipIdx).foldl (fun a p => a + (p.1 - 1) * 16 ^ p.2) 0)

/-- Classes of an engine: 8 for an LVE, 4 for a BNE. -/
def nClasses (e : Nat) : Nat := if e < 16 then 8 else 4

/-- The shipped map of an engine of a die (R249, R303). -/
def Die.floorOf (d : Die) (e : Nat) : W32 := if e < 16 then d.fuses.cycLve else d.fuses.cycBne

/-- The lengths of a map. -/
def mapLens (m : W32) (e : Nat) : List Nat := (List.range (nClasses e)).map (mapLen m)

/-- A pattern that R233 admits: at most three bits. -/
def skipOk (p : W16) : Bool := decide (((List.range 16).map (fun i => b2n (bit p i))).foldl (· + ·) 0 ≤ 3)

/-- An engine holds no job: an LVE is neither granted, running nor reserved (its wipe after a job takes at most 0.34 µs); a BNE runs none and is not reserved between legs. -/
def Die.engineIdle (d : Die) (e : Nat) : Bool :=
  if e < 16 then (match d.lves[e]? with | some u => decide (u.eng.job = none) | none => false)
  else (match d.bnes[e - 16]? with | some u => u.running.isNone && !u.betweenLegs | none => false)

/-- The page of an engine that reports its maps: the MCS page of an LVE, the BNE page: block, instance, MAP_CHANGES, MAP_REFUSED, MAP_APPLIED's bit. -/
def mapPage (e : Nat) : Nat × Nat × Nat × Nat × Nat := if e < 16 then (MCS, e, 0x110, 0x114, 2) else (BNE, e - 16, 0x130, 0x134, 2)

/-- A map and a pattern come into force (R232). -/
def State.mapApply (s : State) (d e : Nat) (m : W32) (k : W16) : State :=
  let p := mapPage e
  ((s.modDie d (fun x => x.modMap e (fun y => { y with cyc := m, skip := k, next := none }))).count d p.1 p.2.1 p.2.2.1).event d p.1 p.2.1 p.2.2.2.2

/-- A request for a job map and a pattern (R232, R233): refused below the floor or with more than three bits, held while the engine holds a job,
else applied at once. A held request is replaced by a later one. -/
def State.mapRequest (s : State) (d e : Nat) (m : W32) (k : W16) : State :=
  let p := mapPage e
  if !skipOk k ∨ (List.range (nClasses e)).any (fun c => decide (mapLen m c < mapLen ((s.die d).floorOf e) c)) then
    s.count d p.1 p.2.1 p.2.2.2.1
  else if (s.die d).engineIdle e then s.mapApply d e m k
  else s.modDie d (fun x => x.modMap e (fun y => { y with next := some (m, k) }))

/-- A held request comes into force once the engine's job has ended (R232). -/
def State.mapHeld (s : State) (d e : Nat) : State :=
  match ((s.die d).emap e).bind EngineMap.next with
  | some r => if (s.die d).engineIdle e then s.mapApply d e r.1 r.2 else s
  | none => s

/-! ### Engine time of the LVE (R230, R231) -/

/-- The time in ps of so many ENG clocks and `rest` ps under a skip pattern: suppressed pulses count (R231). -/
def skipTime (skip : W16) (clocks rest : Nat) : Nat :=
  let k := 16 - ((List.range 16).map (fun i => b2n (bit skip i))).foldl (· + ·) 0
  ((clocks * 625 + rest) * 16 + k - 1) / max 1 k

/-! ### LVE (R230) -/

/-- Microwords of a class that fit in what is left of a duration: `want` of them at most, `len` clocks each. The answer is the number and the clocks left. -/
def takeWords (want len left : Nat) : Nat × Nat :=
  let n := min want (left / max 1 len)
  (n, left - n * len)

/-- The class profile of a vendor program that takes `c` clocks at the shipped map `floor`: ML-KEM-768 DECAPS as the manual's example gives it; of the others the
manual gives the sum alone, and the profile is a free value with that sum (log 25). The clocks left over are those that no whole number of VEC microwords fills. -/
def vendorCounts (floor : W32) (prog c : Nat) : Classes × Nat :=
  if prog = 0x100302 ∧ c = 5760 then (⟨410, 2046, 388, 620, 0, 456, 0, 600⟩, 0)
  else
    let n (i left : Nat) : Nat × Nat := takeWords (Config.classCount prog c i) (mapLen floor i) left
    let a0 := n 0 c
    let a2 := n 2 a0.2
    let a3 := n 3 a2.2
    let a4 := n 4 a3.2
    let a5 := n 5 a4.2
    let a6 := n 6 a5.2
    let a7 := n 7 a6.2
    let a1 := takeWords a7.2 (mapLen floor 1) a7.2
    (⟨a0.1, a1.1, a2.1, a3.1, a4.1, a5.1, a6.1, a7.1⟩, a1.2)

/-- The time in ps of a vendor program that takes `base` ps at the shipped map, at the map in force (R230, R231). -/
def lveMapTime (m : EngineMap) (floor : W32) (prog base : Nat) : Nat :=
  if m.cyc = floor then skipTime m.skip (base / 625) (base % 625)
  else
    let p := vendorCounts floor prog (base / 625)
    skipTime m.skip (p.1.clocks (mapLen m.cyc) + p.2) (base % 625)

/-! ### The end of a job on an LVE -/

/-- A number of a job's program: its opcode and PSET. -/
def Sqe.prog (e : Sqe) : Nat := e.opcode.toNat * 256 + e.pset.toNat

/-- The status with which a job ends: what stopped it, else what its program gave. -/
def Job.endStatus (x : Job) : W16 :=
  match x.failed with
  | some f => f.1
  | none => (x.result.map JobResult.status).getD stOk

/-- Microwords that the job on an LVE has executed (R249): those its instructions counted, or a free value for a vendor program that has run so long. -/
def LveUnit.microwords (u : LveUnit) (ps : Nat) : Nat :=
  match u.eng.seq.prog with
  | none => u.eng.seq.counts.total
  | some p => Config.microwords p ps

/-- An LVE after its job (R196, R237): all clear, its maps kept, its window being wiped; a fence that waited takes effect (R247). -/
def LveUnit.ended (u : LveUnit) (ps : Nat) : LveUnit :=
  let f := if u.svc.fenceReq ≠ 0 then u.svc.fenceReq else u.svc.fence
  { eng := { Lve.clear with phase := if f ≠ 0 then .fenced else .idle }
    map := u.map
    svc := { u.svc with fence := f, fenceReq := 0, busyFrac := (u.svc.busyFrac + ps / 625) % 1024, wiping := decide (f = 0),
                        uwFrac := (u.svc.uwFrac + u.microwords ps) % 1024 }
    fill := none }

/-- The counters and events of R221 for a job that ended, and UW_COUNT of its sequencer (R249). -/
def State.lveCounts (s : State) (d e : Nat) (status : W16) (busy words : Nat) : State :=
  let s := ((s.count d LVE e 0x100).count d LVE e 0x104 busy).count d MCS e 0x11C words
  if status = stOperandFault then (s.count d LVE e 0x110).event d LVE e 0
  else if status = stMachineCheck then (s.count d LVE e 0x114).event d LVE e 1
  else s

/-- Set a lane of a BNE. -/
def BneUnit.setLane (u : BneUnit) (one : Bool) (l : BneLane) : BneUnit := if one then { u with lane1 := l } else { u with lane0 := l }

/-- A lane of a BNE. -/
def BneUnit.lane (u : BneUnit) (one : Bool) : BneLane := if one then u.lane1 else u.lane0

/-- An engine's service state after a job of `ps`: the fence that waited applies. -/
def EngineSvc.after (v : EngineSvc) (ps : Nat) : EngineSvc :=
  { v with fence := if v.fenceReq ≠ 0 then v.fenceReq else v.fence, fenceReq := 0, busyFrac := (v.busyFrac + ps / 625) % 1024 }

/-- Whether a lane is wiped when a job in it ends (R300). -/
def State.wipes (s : State) (x : Job) (fenced : Bool) : Bool :=
  decide (s.part = .vq8400 ∨ s.part = .vq8800) || x.suppress || fenced || decide (x.endStatus = stKeygenLimit ∨ x.endStatus = stMachineCheck)

/-- A BNE leaves the job that it ran for `ps`: its lane is free, wiped where R300 says so; the page counts, a fence and a map that waited apply (R296, R303). -/
def State.bneFreed (s : State) (d e : Nat) (x : Job) (ps : Nat) : State :=
  match (s.die d).bnes[e]? with
  | none => s
  | some u =>
    match u.running with
    | none => s
    | some one =>
      let fenced := decide (u.svc.fenceReq ≠ 0)
      let l' : BneLane := { u.lane one with job := none, staged := false, wiping := s.wipes x fenced }
      let u1 : BneUnit := { u.setLane one l' with running := none, betweenLegs := false, legs := 0, svc := u.svc.after ps }
      let u2 : BneUnit := if fenced then u1.emptied else u1
      let s1 := ((s.modDie d (fun y => { y with bnes := y.bnes.set e u2 })).count d BNE e 0x100).count d BNE e 0x104 ((u.svc.busyFrac + ps / 625) / 1024)
      let s2 := if x.endStatus = stMachineCheck then (s1.count d BNE e 0x118).event d BNE e 0 else s1
      let s3 := if fenced then s2.event d BNE e 1 else s2
      s3.mapHeld d (16 + e)

/-- The BNE whose running lane holds a job. -/
def Die.bneOf (d : Die) (j : Nat) : Option Nat :=
  (List.range 4).find? (fun e => match d.bnes[e]? with
    | some u => (u.running.bind (fun one => (u.lane one).job)) == some j
    | none => false)

/-- The BNE that runs the classical half of a composite leaves it with the LVE's part (R72, R251, log 49). -/
def State.halfOver (s : State) (d j : Nat) (x : Job) : State :=
  match (s.die d).bneOf j with
  | some e => s.bneFreed d e x x.span
  | none => s

/-- The job on an LVE ends: the engine is cleared, counted and, where a fence waited, fenced; a held map comes into force; then the job's output
goes out or its completion is written. -/
def State.lveOver (s : State) (d e : Nat) : State :=
  match (s.die d).lves[e]? with
  | none => s
  | some u =>
    match u.eng.job with
    | none => s
    | some j =>
      let x := s.job? d j
      let ps := ((x.bind Job.result).map JobResult.etime).getD 0
      let s1 := s.modDie d (fun y => { y with lves := y.lves.set e (u.ended ps) })
      let s2 := s1.lveCounts d e ((x.map Job.endStatus).getD stOk) ((u.svc.busyFrac + ps / 625) / 1024) ((u.svc.uwFrac + u.microwords ps) / 1024)
      let s3 := if u.svc.fenceReq ≠ 0 then (s2.event d LVE e 2).event d MCS e 0 else s2
      let s4 := match x with
        | some y => (s3.halfOver d j y).modAux d y.src.queue (fun a => { a with lveTime := a.lveTime + ps })
        | none => s3
      (s4.mapHeld d e).jobDone d j

/-- The engine time so far of the job on an LVE: of an owner program the microwords it has executed at the map in force (R230, R231), of a vendor program, whose
text the manual does not give, a free value. -/
def State.lveTime (s : State) (u : LveUnit) (d : Nat) : Nat :=
  match u.eng.seq.prog with
  | none => skipTime u.map.skip (u.eng.seq.counts.clocks (mapLen u.map.cyc)) 0
  | some p => lveMapTime u.map (s.die d).fuses.cycLve p (Config.partTime p s.freeCtr)

/-- A job on an LVE is stopped where it stands, with a status (R196, R235, R245): its engine time is what it has run. -/
def State.lveStop (s : State) (d e : Nat) (status : W16) (detail : W32) : State :=
  match (s.die d).lves[e]? with
  | none => s
  | some u =>
    match u.eng.job with
    | none => s
    | some j =>
      let ps := s.lveTime u d
      let s1 := s.modJob d j (fun x => { x.fail status detail with result := some ⟨status, detail, ps, []⟩ })
      { s1 with freeCtr := s1.freeCtr + 1 }.lveOver d e

/-- A job that is to be aborted stops at a checkpoint (R236, R237): with the status its request fixed (R238). -/
def State.lveAbort (s : State) (d e : Nat) : State :=
  match (s.die d).lves[e]? with
  | none => s
  | some u =>
    match u.eng.job with
    | none => s
    | some j =>
      let f := ((s.job? d j).bind Job.failed).getD (stMachineCheck, 0)
      let late := max (s.reg d MCS e 0x124).toNat (min 0xFFFFFFFF (Config.abortLatency s.freeCtr))
      ((s.lveStop d e f.1 f.2).count d MCS e 0x120).setReg d MCS e 0x124 (BitVec.ofNat 32 late)

/-- A request that finds an engine reserved between passes, or granted before its first, takes effect at once (R236). -/
def State.abortWaiting (s : State) (d : Nat) : State :=
  (List.range 16).foldl (fun (t : State) e =>
    match (t.die d).lves[e]? with
    | some u => if u.eng.abortReq ∧ u.eng.job.isSome ∧ u.eng.phase ≠ .running then t.lveAbort d e else t
    | none => t) s

end Sys2Proof.Machine
end

