-- ==== Sys2Proof/Machine/InstOps.lean ====
section
/-! DEFINITION. Instance reset and the mailbox (R355 to R359): stopping the work of an instance or of a queue on every die (R236, R293,
R314, R341), the reset's acceptance and its completion, and the rows that request them. -/

namespace Sys2Proof.Machine

/-! ### Stopping work -/

/-- Clear an LVE that holds no job any longer: its window is wiped, a held map and a fence that waited come into force (R232, R237, R247). -/
def LveUnit.cleared (u : LveUnit) : LveUnit :=
  let f := if u.svc.fenceReq ≠ 0 then u.svc.fenceReq else u.svc.fence
  { eng := { Lve.clear with phase := if f ≠ 0 then .fenced else .idle }
    map := match u.map.next with | some m => { u.map with cyc := m.1, skip := m.2, next := none } | none => u.map
    svc := { u.svc with fence := f, fenceReq := 0, wiping := decide (f = 0) }
    fill := none }

/-- An LVE is cleared, with what its pages show of a map and a fence that waited (R221, R249). -/
def Die.clearLve (d : Die) (e : Nat) (u : LveUnit) : Die :=
  let ev (x : Die) (blk b : Nat) : Die := x.setReg blk e 0x018 (x.reg blk e 0x018 ||| BitVec.ofNat 32 (2 ^ b))
  let d := { d with lves := d.lves.set e u.cleared }
  let d := if u.map.next.isSome then ev (d.setReg MCS e 0x110 (satInc (d.reg MCS e 0x110))) MCS 2 else d
  if u.svc.fenceReq ≠ 0 then ev (ev d LVE 2) MCS 0 else d

/-- Stop one job that writes nothing more (R341): a pass, leg or segment that runs goes on to its next checkpoint, its end or its boundary with its
completion suppressed; everything else leaves at once. -/
def Die.stopJob (d : Die) (j : Nat) (x : Job) : Die :=
  let quiet : Die := { d.dropXfers j with jobs := Assoc.update d.jobs j (fun y => { y with suppress := true, data := { y.data with reads := [] } }) }
  match x.stage, x.engine with
  | .outXfer, _ => d.dropJob j
  | .running, .lve i =>
    match d.lves[i]? with
    | none => d.dropJob j
    | some u =>
      if u.eng.phase = .running ∧ u.eng.job = some j then
        { quiet with lves := d.lves.set i { u with eng := { u.eng with abortReq := true } } }
      else if u.eng.job = some j then (d.clearLve i u).dropJob j
      else d.dropJob j
  | .running, .bne i =>
    match d.bnes[i]? with
    | none => d.dropJob j
    | some u =>
      if u.running.isSome ∧ !u.betweenLegs ∧ ((u.running = some false ∧ u.lane0.job = some j) ∨ (u.running = some true ∧ u.lane1.job = some j)) then quiet
      else d.dropJob j
  | .running, .sye i =>
    match d.syes[i]? with
    | none => d.dropJob j
    | some u =>
      if (u.running.bind (fun k => Assoc.get? u.ctxs k)).map SyeCtx.job = some j then quiet
      else
        ({ d with syes := d.syes.set i { u with ctxs := u.ctxs.filter (fun (p : Nat × SyeCtx) => decide (p.2.job ≠ j)),
                                                hold := if u.hold = some j then none else u.hold } }).dropJob j
  | _, _ => d.dropJob j

/-- Writes of a job's output are under way. -/
def Die.writing (d : Die) (j : Nat) : Bool := d.chans.any (fun c => decide (c.job = some j) && decide (c.part = partOut) && decide (c.state = .active))

/-- Stop every job of a die that satisfies a condition; each output write discarded counts in SUPPRESSED (R341, R344). -/
def Die.stopJobs (d : Die) (p : Job → Bool) : Die :=
  let gone := (d.jobs.filter (fun (x : Nat × Job) => p x.2 && d.writing x.1)).length
  let d' := (d.jobs.filter (fun (x : Nat × Job) => p x.2)).foldl (fun y x => y.stopJob x.1 x.2) d
  if gone = 0 then d'
  else (d'.setReg DMX 0 0x190 (satAdd (d'.reg DMX 0 0x190) gone)).setReg DMX 0 0x018 (d'.reg DMX 0 0x018 ||| 8#32)

/-! ### The reset of an instance (R357, R358) -/

/-- A queue context with every index, SEQ, EPOCH and latch zero; DISABLED stays DISABLED, every other state becomes ACTIVE (R141). -/
def Queue.afterReset (q : Queue) : Queue where
  ctx := { Queue.reset.ctx with
    rings := { q.ctx.rings with sqHead := 0, sqTail := 0, cqHead := 0, cqTail := 0 },
    state := if q.ctx.state = .disabled then .disabled else .active }
  aux := { Queue.reset.aux with irqNow := q.ctx.rings.irq }

/-- Queues of an instance on a die. -/
def Die.queuesOf (d : Die) (n : Nat) : List (Nat × Queue) :=
  d.queues.filter (fun (p : Nat × Queue) => p.2.ctx.rings.bound && decide (p.2.ctx.rings.inst = n))

/-- Step 1 of R358 on a queue: fetching stops, copies and unconsumed entries go, chains are abandoned. -/
def Queue.stopFetch (q : Queue) : Queue :=
  { ctx := { q.ctx with win := dropWindow q.ctx.win (fun _ => false), held := [], parked := [],
                        rings := { q.ctx.rings with sqHead := q.ctx.rings.sqTail } },
    aux := { q.aux with chainOpen := false, chainJob := none, chainAborted := false, prep := none, irqCount := 0, irqTimer := false, rehomeTo := none, rehomeJob := none } }

/-- A lane that holds no job is wiped when its last owner is reset (R300). -/
def BneLane.leave (l : BneLane) (n : Nat) : BneLane :=
  if l.job.isNone ∧ l.held ∧ !l.lastMgr ∧ l.lastInst = n then { l with wiping := true } else l

/-- Acceptance on one die: steps 1 to 5 of R358. -/
def Die.acceptReset (d : Die) (n : Nat) : Die :=
  let d := d.stopJobs (fun j => !j.src.mgr && decide (j.src.inst = n))
  { d with kvdReads := d.kvdReads.filter (fun r => decide (r.what ≠ .mailbox n)),
           bnes := d.bnes.map (fun u => { u with lane0 := u.lane0.leave n, lane1 := u.lane1.leave n }), queues := d.queues.map (fun (p : Nat × Queue) =>
      if p.2.ctx.rings.bound && decide (p.2.ctx.rings.inst = n) then (p.1, p.2.stopFetch) else p) }

/-- Re-homings of an instance's queues under way, with the jobs that ordered them (R359). -/
def State.rehomesOf (s : State) (n : Nat) : List (Nat × Nat) :=
  s.dies.flatMap (fun d => (d.queuesOf n).filterMap (fun p => p.2.aux.rehomeJob))

/-- The entry of a manager's job that ends with a status (R448, R450). -/
def State.offerJob (s : State) (d j : Nat) (status : W16) : State :=
  match s.job? d j with
  | none => s
  | some x => s.offer { Offer.of 1 d x.sqe.opcode.toNat (x.sqe.par 0 32) with rid := x.src.rid, result := status.toNat }

/-- INST reset of an instance is accepted (R357): RESETTING from here; a freeze job ends with INSTANCE_STATE (R359), as does a re-homing; the portal takes
its reset values (R61), which returns an attestation to idle, and P_EVT_EN may be written again before RESET_DONE; the reset is
recorded (R448). -/
def State.acceptReset (s : State) (n : Nat) : State :=
  let i := s.inst n
  let ends := (i.work.freezeJob.toList.map (fun p => (p, 4)) ++ (s.rehomesOf n).map (fun p => (p, 0x404)))
  let s := ends.foldl (fun t p => (t.offerJob p.1.1 p.1.2 stInstState).finish p.1.1 p.1.2 stInstState (BitVec.ofNat 32 p.2) 0 0) s
  let s := i.portal.keys.attJob.toList.foldl (fun t j => t.modDie 0 (·.dropJob j)) s
  let s := s.modInst n (fun x => { x with
    code := .resetting, work := { x.work with freezeJob := none, resetWaiting := false },
    portal := Portal.reset })
  let s := s.allDies (·.acceptReset n)
  let s := s.dieList.foldl (fun t d => t.goChans d) s
  s.offer { Offer.of 1 0 0x2004 n with inst := n, pasid := some i.cfg.pasid }

/-- Key slots of an owner go as their holders release them (R160, R358 step 6). -/
def flushSlots (slots : Assoc Slot) (n : Nat) : Assoc Slot :=
  (slots.map (fun (p : Nat × Slot) => if p.2.owner = n then (p.1, { p.2 with dying := true }) else p)).filter
    (fun (p : Nat × Slot) => !(decide (p.2.owner = n) && p.2.holders.isEmpty))

/-- Step 6 of R358 on a die: slots flushed, KPC partition wiped, queues as new. -/
def Die.flushInst (d : Die) (n : Nat) : Die :=
  { d with kvd := { d.kvd with slots := flushSlots d.kvd.slots n },
           kpc := d.kpc.filter (fun (p : Nat × KpcEntry) => decide (p.2.owner ≠ n)),
           queues := d.queues.map (fun (p : Nat × Queue) =>
             if p.2.ctx.rings.bound && decide (p.2.ctx.rings.inst = n) then (p.1, p.2.afterReset) else p) }

/-- Transient slots and loaded curves go (R358 step 6). -/
def Inst.flush (i : Inst) : Inst := { i with transients := [], curves := [] }

/-- Unbind the queue contexts of an instance on a die (R351). -/
def Die.unbind (d : Die) (n : Nat) : Die :=
  { d with queues := d.queues.filter (fun (p : Nat × Queue) => !(p.2.ctx.rings.bound && decide (p.2.ctx.rings.inst = n))) }

/-- Counter records of an instance go (R351, R362). -/
def Bbram.freeCounters (b : Bbram) (n : Nat) : Bbram :=
  { b with counters := b.counters.filter (fun (p : Nat × CounterRec) => decide (p.2.owner ≠ n)) }

/-- The BBRAM record of an instance number. -/
def Bbram.instRec (b : Bbram) (n : Nat) : InstRec := Assoc.getD b.insts n ⟨false, [], ⟨0, []⟩⟩

/-- Set it. -/
def Bbram.setRec (b : Bbram) (n : Nat) (r : InstRec) : Bbram := { b with insts := Assoc.set b.insts n r }

/-- The BBRAM write of a RETIRE or of a save's commit (R351, R362): ROOT_VERSION increments, HELD clears, the counter records are freed. -/
def Bbram.retire (b : Bbram) (n : Nat) : Bbram :=
  let r := b.instRec n
  (b.setRec n { r with held := false, root := { r.root with version := r.root.version + 1 } }).freeCounters n

/-- The end of an INST_DESTROY (R351): contexts unbound, quotas, PASID and pinned entries freed, and the BBRAM record kept or retired. -/
def State.endDestroy (s : State) (n : Nat) : State :=
  let i := s.inst n
  let s := s.allDies (fun d => (d.flushInst n).unbind n)
  let s := if i.work.retire then { s with bbram := s.bbram.retire n } else s
  let s := s.setInst n { Inst.free with code := if i.work.retire then .free else .held }
  match i.work.destroyJob with
  | some (d, j) =>
    let s := s.progress 0 VIM 0 3 1000
    let ps := Config.opTime 0xF00200 s.freeCtr
    { (s.result d j stOk 0 ps []).finish d j stOk 0 ps 0 with freeCtr := s.freeCtr + 1 }
  | none => s

/-- The reset completes (R358 steps 6 and 8) once the last holder has ended: flush, RESET_DONE, ACTIVE; a destroy goes on to its end. -/
def State.completeReset (s : State) (n : Nat) : State :=
  let s := s.count 0 VIM 0 0x218
  if (s.inst n).work.destroyJob.isSome ∨ (s.inst n).code = .destroying then s.endDestroy n
  else
    let s := s.allDies (·.flushInst n)
    let s := s.modInst n (fun i => { i.flush with code := .active })
    (s.portalEvent n 9).event 0 VIM 0 1

/-- A class 0x6 job of the instance has committed and its host writes are not finished (R357): its OUT, or writes that wait under the instance's PASID. -/
def State.commitWindow (s : State) (n : Nat) : Bool :=
  s.dies.any (fun d => (d.jobsOf n).any (fun p => decide (p.2.sqe.cls = 6) && decide (p.2.stage = .outXfer)))
    || s.waitTx.any (fun t => match t with | .write _ _ p _ => decide (p = some (s.inst n).cfg.pasid) | _ => false)

/-- An INST_SAVE of the instance runs. -/
def State.saving (s : State) (n : Nat) : Bool :=
  s.dies.any (fun d => d.jobs.any (fun p => decide (p.2.sqe.op = 0xF004) && decide (p.2.stage = .running) && decide (p.2.sqe.par 0 12 = n)))

/-- A reset request (R357, R359): from the tenant's P_RESET or the manager's INST_CMD. Either waits while INST_SAVE runs. -/
def State.requestReset (s : State) (n : Nat) (manager : Bool) : State :=
  let i := s.inst n
  let mark := s.modInst n (fun x => { x with work := { x.work with resetWaiting := true } })
  match i.code with
  | .resetting => s.count 0 VIM 0 0x220
  | .active => if i.work.resetWaiting then s.count 0 VIM 0 0x220 else mark
  | .freezing => if manager then mark else s
  | .frozen => if manager ∨ s.saving n then mark else s
  | _ => s

/-! ### The rows -/

/-- A tenant's P_RESET write: only the value 1 requests (R61), and writes to the portal of an instance that does not exist are ignored (R62). -/
def opPReset (n : Nat) (value : W32) (s : State) : State := if value = 1 then s.requestReset n false else s

/-- A waiting request is accepted unless a save runs or a commit window is open (R357, R359). -/
def resetAcceptable (n : Nat) (s : State) : Bool :=
  (s.inst n).work.resetWaiting && !s.saving n && !s.commitWindow n

/-- A reset in progress with no job of the instance left on any reachable die may complete. -/
def resetDone (n : Nat) (s : State) : Bool :=
  (decide ((s.inst n).code = .resetting) || (decide ((s.inst n).code = .destroying) && (s.inst n).work.destroyJob.isSome)) && s.noJobs n

/-! ### Mailbox (R355, R356) -/

/-- Change the mailbox of an instance. -/
def State.modMb (s : State) (n : Nat) (f : Mailbox → Mailbox) : State :=
  s.modPortal n (fun p => { p with mb := f p.mb })

/-- Portal writes take effect: the instance is live and not resetting (R62, R357). -/
def portalOpen (n : Nat) (s : State) : Bool := (s.inst n).code.live && decide ((s.inst n).code ≠ .resetting)

/-- VIM.MB_AREA. -/
def State.mbArea (s : State) : W64 := (s.reg 0 VIM 0 0x204 ++ s.reg 0 VIM 0 0x200 : BitVec 64)

/-- Deliver the tenant's message: TO_FULL and MB_EVENT. -/
def State.mbDeliver (s : State) (n : Nat) (withBuf err : Bool) : State :=
  (s.modMb n (fun m => { m with toFull := true, bufBusy := false, buf := withBuf && !err,
                                bufErr := if withBuf then err else m.bufErr })).event 0 VIM 0 0

/-- The read of a SEND's buffer, over channel 12 of die 0 (R39, R327). -/
def State.mbFetch (s : State) (n : Nat) : State :=
  let m := (s.inst n).portal.mb
  s.kvdRead 0 ⟨.mailbox n, ((m.toMgr.getD 14 0) ++ (m.toMgr.getD 13 0) : BitVec 64), (m.toMgr.getD 15 0).toNat, some (s.inst n).cfg.pasid, false, n, false, false⟩

/-- The buffer read goes to the manager's area, without a PASID (R39), once the function may issue requests (R46); then the message is delivered. -/
def State.mbStore (s : State) (n : Nat) : State :=
  match (s.inst n).portal.mb.bufData with
  | none => s
  | some data =>
    if s.hostOpen then
      (((s.modMb n (fun m => { m with bufData := none })).send (.write (s.mbArea + BitVec.ofNat 64 (n * 0x1000)) data none false)).countBytes 0 true data.length).mbDeliver
        n true false
    else s

/-- Mailbox buffers go on where they waited (R46). -/
def State.resumeMail (s : State) : State :=
  s.insts.foldl (fun t p => if p.2.portal.mb.bufBusy then t.mbStore p.1 else t) s

/-- The tenant's ACK. -/
def opMbAck (n : Nat) (s : State) : State := if portalOpen n s then s.modMb n (fun m => { m with fromFull := false }) else s

/-- The tenant's SEND, once any ACK in the same write has been applied (R356). -/
def mbSendOnly (n : Nat) (withBuf : Bool) (s : State) : State :=
  let m := (s.inst n).portal.mb
  if m.toFull || m.bufBusy then s.modMb n (fun m => { m with overflow := true })
  else
    let s := s.modMb n (fun m => { m with overflow := false })
    let len := (m.toMgr.getD 15 0).toNat
    if !withBuf then s.mbDeliver n false false
    else if len = 0 ∨ 4096 < len ∨ s.mbArea = 0 then s.mbDeliver n true true
    else
      (s.modMb n (fun m => { m with bufBusy := true })).mbFetch n

/-- A MB_DOORBELL write: ACK first, then SEND, with or without BUF (R355, R356). -/
def opMbSend (n : Nat) (value : W32) (s : State) : State :=
  if portalOpen n s then
    let s := if bit value 1 then opMbAck n s else s
    if bit value 0 then mbSendOnly n (bit value 2) s else s
  else s

/-- The data of a SEND's buffer has been read. -/
def State.mbGood (s : State) (n : Nat) (data : List Byte) : State :=
  if s.kvdSent 0 (.mailbox n) then ((s.modMb n (fun m => { m with bufData := some data })).mbStore n).kvdDone 0 else s

/-- The read of a SEND's buffer has failed: not copied (R41). -/
def State.mbFailed (s : State) (n : Nat) : State :=
  if s.kvdSent 0 (.mailbox n) then ((s.count 0 HIF 0 0x118).mbDeliver n true true).kvdDone 0 else s

/-- The instance that VIM.INST_SEL selects. -/
def State.instSel (s : State) : Nat := bits (s.reg 0 VIM 0 0x100) 0 12

/-- The manager's MB_CMD SEND for the selected instance. -/
def opMgrMbSend (s : State) : State :=
  let n := s.instSel
  if (s.inst n).code.live then
    if (s.inst n).portal.mb.fromFull then s.modMb n (fun m => { m with overflowOut := true })
    else (s.modMb n (fun m => { m with fromMgr := m.out, fromFull := true, overflowOut := false })).portalEvent n 8
  else s

/-- The manager's MB_CMD ACK for the selected instance. -/
def opMgrMbAck (s : State) : State := s.modMb s.instSel (fun m => { m with toFull := false })

end Sys2Proof.Machine
end

