-- ==== Sys2Proof/Machine/Tamper.lean ====
section
/-! DEFINITION. Tamper sensing and the battery domain (R418 to R436), and with it the two package responses that other chapters share: LOCK with
its key bus gate (R422, R424) and the split baton (R384); the fault sources' own actions (R441); fences (R247, R303, R324); the
dissolution of the quorum (R404). -/

namespace Sys2Proof.Machine

/-! ### Fences and links -/

/-- Fence an LVE (R247): at once when it holds no job; a job that holds it is aborted with MACHINE_CHECK (R238). -/
def State.fenceLve (s : State) (d e cause : Nat) : State :=
  match (s.die d).lves[e]? with
  | none => s
  | some u =>
    if u.svc.fence ≠ 0 then s
    else if u.eng.job.isSome then
      (s.modDie d (fun x => { x with
        lves := x.lves.set e { u with eng := { u.eng with abortReq := true }, svc := { u.svc with fenceReq := BitVec.ofNat 3 cause } }
        jobs := match u.eng.job with | some j => Assoc.update x.jobs j (·.fail stMachineCheck 0) | none => x.jobs })).abortWaiting d
    else
      let u' : LveUnit := { u with eng := { u.eng with phase := .fenced }, svc := { u.svc with fence := BitVec.ofNat 3 cause, fenceReq := 0 }, fill := none }
      ((s.modDie d (fun x => { x with lves := x.lves.set e u' })).event d LVE e 2).event d MCS e 0

/-- Fence a BNE (R296, R303). -/
def State.fenceBne (s : State) (d e cause : Nat) : State :=
  match (s.die d).bnes[e]? with
  | none => s
  | some u =>
    if u.svc.fence ≠ 0 then s
    else if u.running.isSome then
      s.modDie d (fun x => { x with bnes := x.bnes.set e { u with svc := { u.svc with fenceReq := BitVec.ofNat 3 cause } } })
    else
      let u' : BneUnit := { u.emptied with svc := { u.svc with fence := BitVec.ofNat 3 cause, fenceReq := 0 } }
      (s.modDie d (fun x => { x with bnes := x.bnes.set e u' })).event d BNE e 1

/-- Every job bound to an SYE ends with MACHINE_CHECK, its context and the hold buffer zeroed (R314). -/
def State.endCtxs (s : State) (d e : Nat) : State :=
  match (s.die d).syes[e]? with
  | none => s
  | some u => u.ctxs.foldl (fun (t : State) (p : Nat × SyeCtx) =>
      if p.2.digest then t.modJob d p.2.job (fun y => y.fail stMachineCheck 0)
      else (((t.count d SYE e 0x100).event d SYE e 0).modJob d p.2.job (fun y => { y.fail stMachineCheck 0 with result := some ⟨stMachineCheck, 0, y.span, []⟩ })).jobDone d p.2.job)
      (s.modDie d (fun x => { x with syes := x.syes.set e { u with ctxs := [], running := none, hold := none } }))

/-- Fence an SYE (R314, R324): at the segment boundary when a segment runs. -/
def State.fenceSye (s : State) (d e cause : Nat) : State :=
  match (s.die d).syes[e]? with
  | none => s
  | some u =>
    if u.svc.fence ≠ 0 then s
    else if u.running.isSome then
      s.modDie d (fun x => { x with syes := x.syes.set e { u with svc := { u.svc with fenceReq := BitVec.ofNat 3 cause } } })
    else
      let u' : SyeUnit := { u with svc := { u.svc with fence := BitVec.ofNat 3 cause, fenceReq := 0 } }
      ((s.modDie d (fun x => { x with syes := x.syes.set e u' })).endCtxs d e).event d SYE e 1

/-- A Relay link goes DOWN at one of its ports and retrains (R376). -/
def State.portDown (s : State) (d p : Nat) : State :=
  match (s.die d).ports[p]? with
  | none => s
  | some x =>
    if x.state = .down ∨ x.state = .absent then s
    else
      (((s.modDie d (fun y => { y with ports := y.ports.set p { x with state := .down, replays := 0, retraining := true } })).count d RLK p 0x11C)).event d RLK p 0

/-- Both ends of a link go DOWN. -/
def State.linkDown (s : State) (d p : Nat) : State :=
  let q := s.peer d p
  (s.portDown d p).portDown q.1 q.2

/-- Exclude a die until WARM or COLD reset (R382, R387, R388). -/
def State.exclude (s : State) (d : Nat) : State :=
  let s := s.modDie d (fun x => { x with state := .excluded })
  ({ s with baton := { s.baton with excluded := Assoc.set s.baton.excluded d (), reachable := Assoc.erase s.baton.reachable d,
                                    joins := Assoc.erase s.baton.joins d } }).event 0 RLK 0 5

/-! ### The quorum dissolves (R404), a transition ends before its first bit (R483) -/

/-- A port keeps no share. -/
def CardPort.dropShare (p : CardPort) : CardPort := { p with session := { p.session with share := none } }

/-- The job that ordered a transition ends, recorded with its status, if a reset has not withdrawn it (R449, R482). -/
def State.endTransitionJob (s : State) (t : Transition) (status : W16) : State :=
  match t.job with
  | some (d, j) => (s.offerJob d j status).finish d j status 0 0 0
  | none => s

/-- A transition whose first LC bit is not burned ends: its job takes the status given and no LC bit is burned (R483). A reset that waits for the bit keeps
its turn. -/
def State.dropTransition (s : State) (status : W16) : State :=
  match s.lcc.xfer with
  | none => s
  | some t =>
    if t.done = 0 ∧ t.phase < 3 ∧ s.lcc.deferred = none then
      let s := { s with lcc := { s.lcc with xfer := none, result := 3, stop := none } }
      let s := if t.waitQuorum then { s with cards := { s.cards with roster := none, provisional := false } } else s
      (s.event 0 LCC 0 2).endTransitionJob t status
    else s

/-- A transition that a custodial quorum authorises (R479): by an owner ticket, which brings no IN, or by a provisioning record. -/
def Transition.byQuorum (t : Transition) : Bool := decide (t.input = []) || decide (t.input.take 4 = [0x56, 0x50, 0x52, 0x31])

/-- QTK and every held share are zeroised; QUORUM_DISSOLVED and QUORUM_CHANGE are raised and the change is recorded, where a quorum was present. A transition
that rests on it ends, if no bit is burned yet. -/
def State.dissolve (s : State) : State :=
  let t := { s with cards := { s.cards with quorum := Quorum.absent, ports := s.cards.ports.map CardPort.dropShare } }
  if s.cards.quorum.present then
    let t := (((List.range 4).foldl (fun u p => u.event 0 CIU p 5) t).event 0 KVD 0 2).offer (Offer.of 6 0 0x5004 0)
    if (t.lcc.xfer.map Transition.byQuorum).getD false then t.dropTransition stQuorumAbsent else t
  else t

/-! ### LOCK and ERASE (R422, R424) -/

/-- Every LVE job that runs ends at its next checkpoint with a status (R236, R424). -/
def Die.abortLves (d : Die) (status : W16) : Die :=
  let js := d.lves.filterMap (fun u => u.eng.job)
  { d with lves := d.lves.map (fun u => if u.eng.job.isSome then { u with eng := { u.eng with abortReq := true } } else u),
           jobs := js.foldl (fun t j => Assoc.update t j (·.fail status 0)) d.jobs }

/-- An UNLOCK that runs when an alarm arrives ends with LOCKED (R425). -/
def Die.failUnlock (d : Die) : Die :=
  { d with jobs := d.jobs.map (fun (p : Nat × Job) => if p.2.stage = .running ∧ p.2.sqe.op = 0xF031 then (p.1, p.2.fail stLocked 0) else p) }

/-- The package enters LOCK (R422): every key bus gated, the persistent flag, the pulse on FAULT_N, LOCK_ENTERED on die 0's page, LVE jobs
aborted with LOCKED (R424), a transition before its first bit ended (R483), the quorum dissolved (R404). -/
def State.lockEntry (s : State) : State :=
  let s := ({ s with bbd := { s.bbd with lock := true } } : State).allDies (·.failUnlock)
  let s := s.allDies (fun d => { d with tmn := { d.tmn with gated := true } })
  if s.pkg.lock then s
  else
    let s := { s with pkg := { s.pkg with lock := true } }
    let s := (s.pulse).event 0 TMN 0 1
    let s := s.allDies (·.abortLves stLocked)
    let s := s.dieList.foldl State.abortWaiting s
    (s.dropTransition stLocked).dissolve

/-- Key slot memory and the operand memories of a die are zeroised (R422). -/
def Die.zeroise (d : Die) : Die :=
  { d with kvd := { d.kvd with slots := [] }, kpc := [],
           lves := d.lves.map (fun u => { u with
             eng := { u.eng with window := [], kpc := [], core := { u.eng.core with temps := Vector.replicate 8 0 } },
             svc := { u.svc with maskBuf := 0 } }),
           syes := d.syes.map (fun u => { u with hold := none, svc := { u.svc with maskBuf := 0 } }) }

/-- The instances that exist. -/
def State.liveInsts (s : State) : List Nat :=
  (s.insts.filter (fun (p : Nat × Inst) => p.2.code.live && decide (p.2.code ≠ .resetting))).map Prod.fst

/-- ERASE (R422): LOCK; the OSK; key slots; the die memories; an INST reset of every instance. -/
def State.eraseEntry (s : State) : State :=
  let s := s.lockEntry
  let s := { s with bbd := { s.bbd with osk := none }, pkg := { s.pkg with erased := true } }
  let s := s.allDies (fun d => { d.zeroise with kvd := { d.zeroise.kvd with derived := d.kvd.derived } })
  (s.liveInsts.foldl (fun t n => t.acceptReset n) s).event 0 TMN 0 2

/-- THROTTLE on a die (R422). -/
def State.throttleDie (s : State) (d : Nat) : State :=
  (s.modDie d (fun x => { x with tmn := { x.tmn with throttle := true, throttleEnd := false } })).event d TMN 0 3

/-! ### Classes (R418) -/

/-- The floor of a class's response. -/
def classFloor (c : Nat) : Nat := if c = 0x09 ∨ c = 0x0E ∨ c = 0x10 ∨ (0x11 ≤ c ∧ c ≤ 0x15) ∨ c = 0x17 then 0 else 2

/-- The shipped response of a class. -/
def classShipped (c : Nat) : Nat :=
  if c = 0x09 then 1 else if c = 0x0C ∨ c = 0x0D ∨ c = 0x16 then 3 else if c = 0x10 ∨ c = 0x15 ∨ c = 0x17 then 0 else 2

/-- Lasting classes: their condition is present until the sensor no longer sees it. -/
def classLasting (c : Nat) : Bool :=
  [0x01, 0x02, 0x04, 0x07, 0x09, 0x0A, 0x0B, 0x0C, 0x0D, 0x10, 0x11, 0x12, 0x13, 0x14, 0x15, 0x16, 0x18].contains c

/-- A map word with every field at its shipped value: classes 16·w + 1 onward. -/
def shippedMap (w : Nat) : W32 :=
  BitVec.ofNat 32 (((List.range 16).map (fun k => if 16 * w + k + 1 ≤ 0x18 then classShipped (16 * w + k + 1) * 4 ^ k else 0)).foldl (· + ·) 0)

/-- A map word with every field raised to its class's floor (R419). -/
def flooredMap (w : Nat) (v : W32) : W32 :=
  BitVec.ofNat 32 (((List.range 16).map (fun k =>
    if 16 * w + k + 1 ≤ 0x18 then max (classFloor (16 * w + k + 1)) (bits v (2 * k) 2) * 4 ^ k else 0)).foldl (· + ·) 0)

/-- The response a die maps a class to (R418, R435). -/
def Die.resp (d : Die) (c : Nat) : Nat :=
  max (classFloor c) (bits (d.reg TMN 0 (if c ≤ 16 then 0x100 else 0x104)) (2 * ((c - 1) % 16)) 2)

/-- A THROTTLE for the class reaches every die (R422). -/
def classWide (c : Nat) : Bool := decide (0x11 ≤ c ∧ c ≠ 0x17)

/-- The effect of a response for a class raised by die `d` (R422). -/
def State.applyResp (s : State) (d c resp : Nat) : State :=
  if resp = 3 then s.eraseEntry
  else if resp = 2 then s.lockEntry
  else if resp = 1 then (if classWide c then s.dieList.foldl (fun t x => t.throttleDie x) s else s.throttleDie d)
  else s

/-- The holder issues a response of the whole package by TAMPER_ORDER, in both directions (R389, R425). -/
def State.order (s : State) (c resp : Nat) : State :=
  match s.baton.holder with
  | some h => if 2 ≤ resp ∨ (resp = 1 ∧ classWide c) then s.control h none frOrder [resp, c] else s
  | none => s

/-- The response to a class raised by die `d`: ordered, and applied on every die (R422, R425). -/
def State.respond (s : State) (d c resp : Nat) : State := (s.order c resp).applyResp d c resp

/-- The die's sensors watch: it is out of reset. -/
def Die.watching (d : Die) : Bool := decide (d.state ≠ .inReset) && decide (d.state ≠ .dieReset)

/-- A class is raised (R418, R422, R425): its sticky bit and heat, ACTIVE while it lasts, ALARM on its die's page, the entry of the log or of the tamper
record, and the response. A lasting class whose condition is already present raises nothing. -/
def State.raiseClass (s : State) (d c : Nat) : State :=
  if classLasting c ∧ bit (s.die d).tmn.active (c - 1) then s
  else
    let resp := (s.die d).resp c
    let s := if classLasting c then s.modDie d (fun x => { x with tmn := { x.tmn with active := x.tmn.active ||| BitVec.ofNat 32 (2 ^ (c - 1)) } }) else s
    let s := ((s.fault d (640 + (c - 1))).event d TMN 0 0).count 0 TMN 0 0x11C
    let s := if s.logOpen then s.offer { Offer.of 4 d (0x3000 + c) d with result := resp } else (s.recordTamper c resp d).event 0 BBD 0 0
    s.respond d c resp

/-- The condition of a class that lasts is gone (R418): ACTIVE clears; the release timer of THROTTLE runs once none of the die's THROTTLE classes is
present. -/
def State.clearClass (s : State) (d c : Nat) : State :=
  let s := s.modDie d (fun x => { x with tmn := { x.tmn with active := x.tmn.active &&& ~~~(BitVec.ofNat 32 (2 ^ (c - 1))) } })
  let still := (List.range 24).any (fun k => bit (s.die d).tmn.active k && decide ((s.die d).resp (k + 1) = 1))
  s.modDie d (fun x => { x with tmn := { x.tmn with throttleEnd := x.tmn.throttle && !still } })

/-! ### What a SEVERE source's own chapter does (R441) -/

/-- The action of a source that became SEVERE. -/
def State.severeAct (s : State) (d src : Nat) : State :=
  let g := src / 32
  let b := src % 32
  if g < 16 ∧ b = 8 then s.fenceLve d g 1
  else if g < 16 ∧ b = 9 then s.fenceLve d g 2
  else if g = 16 ∧ (b % 8 = 1 ∨ b % 8 = 2 ∨ b % 8 = 4) then s.fenceBne d (b / 8) 1
  else if g = 17 ∧ (b = 1 ∨ b = 3) then s.fenceSye d 0 1
  else if g = 17 ∧ (b = 9 ∨ b = 11) then s.fenceSye d 1 1
  else if g = 17 ∧ 16 ≤ b ∧ b ≤ 18 then
    (s.modDie d (fun x => { x with rng := { x.rng with disabled := true, drbgReady := false, feedRun := false, recovering := false } })).event d RNG 0 2
  else if src = 578 then s.raiseClass d 0x0E
  else if src = 584 then s.raiseClass d 0x17
  else if src = 608 then s.linkDown d 0
  else if src = 616 then s.linkDown d 1
  else if src = 624 then s.exclude d
  else if src = 664 then s.raiseClass d 0x08
  else s

/-- Firmware takes the LVEs of a die out of service for a refresh of its patch RAM (R246, step 1); a refresh that waits goes on waiting. -/
def State.startRefresh (s : State) (d : Nat) : State :=
  if (s.die d).patch.refreshPending then s
  else (List.range 16).foldl (fun (t : State) i => t.fwWriteAt d LVE i 0x010 1) (s.modDie d (fun x => { x with patch := { x.patch with refreshPending := true } }))

/-- A source counts one event, with everything that follows when it becomes SEVERE (R441); STORE_PARITY starts the refresh of R246. -/
def State.faultAct (s : State) (d src : Nat) : State :=
  let r := s.fclMark d src
  let s := if src < 512 ∧ src % 32 = 10 then r.1.startRefresh d else r.1
  if r.2 then s.severeAct d src else s

/-! ### The split baton (R384) -/

/-- The fixed response to a split baton: the detecting die gates its bus and broadcasts SPLIT; LOCK with its persistent flag; the pulse; no holder; the log
stopped; a transition stopped after the current bit (R483); die 0 records the event; every die shows SPLIT. -/
def State.splitBaton (s : State) (d : Nat) : State :=
  if s.baton.result = .split then s
  else
    let s := (s.control d none frSplit []).lockEntry
    let s := match s.lcc.xfer with
      | some t => if t.phase = 2 then { s with lcc := { s.lcc with stop := some stLocked } } else s
      | none => s
    let s := { s with baton := { s.baton with result := .split, holder := none }, alg := { s.alg with stopped := true },
                      bbd := { s.bbd with split := true } }
    let s := (s.pulse).recordTamper 0x20 2 d
    s.dieList.foldl (fun t x => t.event x RLK 0 4) s

/-! ### Rows: the classes of R418 -/

/-- A class that a die's own sensor raises. -/
def opSensor (c d : Nat) (s : State) : State := if (s.die d).watching then s.raiseClass d c else s

/-- A temperature class: the measurement that crossed the threshold is TMN.TEMP from here (R435). -/
def State.measure (s : State) (d : Nat) (tj : BitVec 11) : State :=
  s.modDie d (fun x => { x with
    tmn := { x.tmn with temp := some tj, tempMax := some (match x.tmn.tempMax with | none => tj | some m => if m.toInt < tj.toInt then tj else m) }
    pcr := { x.pcr with minuteMax := some (max (x.pcr.minuteMax.getD tj.toInt) tj.toInt) } })

/-- A temperature class. -/
def opTemp (c d : Nat) (tj : BitVec 11) (s : State) : State :=
  if (s.die d).watching then (s.measure d tj).raiseClass d c else s

/-- CLK_HIGH. -/
def execClkHigh (d : Nat) (s : State) : Host.Outcome State Fault Refusal := ret (opSensor 0x01 d s)
/-- CLK_LOW. -/
def execClkLow (d : Nat) (s : State) : Host.Outcome State Fault Refusal := ret (opSensor 0x02 d s)
/-- CLK_SHORT. -/
def execClkShort (d : Nat) (s : State) : Host.Outcome State Fault Refusal := ret (opSensor 0x03 d s)
/-- REF_FREQ. -/
def execRefFreq (d : Nat) (s : State) : Host.Outcome State Fault Refusal := ret (opSensor 0x04 d s)
/-- CLK_SKIP. -/
def execClkSkip (d : Nat) (s : State) : Host.Outcome State Fault Refusal := ret (opSensor 0x05 d s)
/-- SUPPLY_GLITCH. -/
def execSupplyGlitch (d : Nat) (s : State) : Host.Outcome State Fault Refusal := ret (opSensor 0x06 d s)
/-- SUPPLY_HIGH. -/
def execSupplyHigh (d : Nat) (s : State) : Host.Outcome State Fault Refusal := ret (opSensor 0x07 d s)
/-- TEMP_HIGH. -/
def execTempHigh (d : Nat) (tj : BitVec 11) (s : State) : Host.Outcome State Fault Refusal := ret (opTemp 0x09 d tj s)
/-- TEMP_CRIT. -/
def execTempCrit (d : Nat) (tj : BitVec 11) (s : State) : Host.Outcome State Fault Refusal := ret (opTemp 0x0A d tj s)
/-- TEMP_LOW. -/
def execTempLow (d : Nat) (tj : BitVec 11) (s : State) : Host.Outcome State Fault Refusal := ret (opTemp 0x0B d tj s)
/-- SHIELD. -/
def execShield (d : Nat) (s : State) : Host.Outcome State Fault Refusal := ret (opSensor 0x0C d s)
/-- LIGHT. -/
def execLight (d : Nat) (s : State) : Host.Outcome State Fault Refusal := ret (opSensor 0x0D d s)

/-- Main power is present: the supplies are in range, as PWRGOOD says (R502, R426). -/
def State.mainPower (s : State) : Bool := s.pkg.pwrgood

/-- The response that the battery domain maps a class to (R427). -/
def Bbd.resp (b : Bbd) (c : Nat) : Nat := max (classFloor c) (bits (if c ≤ 16 then b.map0 else b.map1) (2 * ((c - 1) % 16)) 2)

/-- A class that the battery domain detects with main power absent (R427): the record, and from the response the LOCK flag and the OSK. -/
def State.batteryClass (s : State) (c : Nat) : State :=
  let resp := s.bbd.resp c
  let s := (s.recordTamper c resp 0 true)
  let s := if 2 ≤ resp then { s with bbd := { s.bbd with lock := true } } else s
  if resp = 3 then { s with bbd := { s.bbd with osk := none } } else s

/-- A class of the battery domain, with or without main power. -/
def State.bbdClass (s : State) (c : Nat) : State :=
  if !s.bbd.powered then s
  else if s.mainPower then s.raiseClass 0 c
  else if c = 0x15 then s
  else s.batteryClass c

/-- An input's mode is DISABLED (R429). -/
def tmpDisabled (n : Nat) (s : State) : Bool := decide (bits s.bbd.tmpCfg (8 * n) 2 = 0)

/-- An enclosure input's sample alarms once more (R429, R430): at N consecutive alarming samples it enters alarm and raises its class. The command is
the entry into alarm. -/
def opTmpIn (n : Nat) (s : State) : State :=
  if 4 ≤ n ∨ tmpDisabled n s ∨ bit s.bbd.tmpState n then s
  else
    let s := { s with bbd := { s.bbd with tmpState := s.bbd.tmpState ||| BitVec.ofNat 4 (2 ^ n) } }
    let s := if s.mainPower then s.event 0 BBD 0 2 else s
    s.bbdClass (0x11 + n)

/-- TMP_IN. -/
def execTmpIn (n : Nat) (s : State) : Host.Outcome State Fault Refusal := ret (opTmpIn n s)

/-- VBAT falls below 2.3 V: LOW of BBD.VBAT and the class (R418, R436). -/
def opBatLow (s : State) : State :=
  if s.bbd.powered then
    let s := { s with bbd := { s.bbd with low := true } }
    (if s.mainPower then s.event 0 BBD 0 1 else s).bbdClass 0x15
  else s

/-- BAT_LOW. -/
def execBatLow (s : State) : Host.Outcome State Fault Refusal := ret (opBatLow s)

/-- VBAT falls below 2.1 V while main power is absent: the class, mapped to ERASE as shipped (R418, R427). -/
def opBatCrit (s : State) : State := if s.bbd.powered ∧ !s.mainPower then s.batteryClass 0x16 else s

/-- BAT_CRIT. -/
def execBatCrit (s : State) : Host.Outcome State Fault Refusal := ret (opBatCrit s)

/-- XTAL_STOP. -/
def execXtalStop (s : State) : Host.Outcome State Fault Refusal := ret (s.bbdClass 0x18)

/-- A sensor no longer sees the condition of a lasting class (R418); an enclosure input leaves alarm (R430); VBAT is above 2.3 V again. -/
def opConditionClear (d c : Nat) (s : State) : State :=
  if !classLasting c then s
  else
    let s := if 0x11 ≤ c ∧ c ≤ 0x14 then
        { s with bbd := { s.bbd with tmpState := s.bbd.tmpState &&& ~~~(BitVec.ofNat 4 (2 ^ (c - 0x11))) } } else s
    let s := if c = 0x15 then { s with bbd := { s.bbd with low := false } } else s
    s.clearClass d c

/-- TAMPER_CONDITION_CLEAR. -/
def execTamperConditionClear (d c : Nat) (s : State) : Host.Outcome State Fault Refusal := ret (opConditionClear d c s)

/-- One second after the last THROTTLE condition has cleared, THROTTLE ends on the die (R422). -/
def opThrottleRelease (d : Nat) (s : State) : State :=
  let still := (List.range 24).any (fun k => bit (s.die d).tmn.active k && decide ((s.die d).resp (k + 1) = 1))
  if (s.die d).tmn.throttle ∧ !still then
    s.modDie d (fun x => { x with tmn := { x.tmn with throttle := false, throttleEnd := false } })
  else s

/-- THROTTLE_RELEASE. -/
def execThrottleRelease (d : Nat) (s : State) : Host.Outcome State Fault Refusal := ret (opThrottleRelease d s)

/-! ### Supply dips (R423) -/

/-- The clocks of every engine of a die freeze or resume. -/
def Die.freeze (d : Die) (b : Bool) : Die :=
  { d with lves := d.lves.map (fun u => { u with svc := { u.svc with frozen := b } }),
           bnes := d.bnes.map (fun u => { u with svc := { u.svc with frozen := b } }),
           syes := d.syes.map (fun u => { u with svc := { u.svc with frozen := b } }) }

/-- A dip: the die's bus is gated and its engines freeze; it counts in SUPPLY_WARN, whose heat raises SUPPLY_DIPS. A fall during the recovery
restarts its 50 µs. -/
def opSupplyDip (d : Nat) (s : State) : State :=
  if (s.die d).watching then
    let s := s.modDie d (fun x => { x.freeze true with tmn := { x.tmn with gated := true, dip := true } })
    (((s.event d TMN 0 4).count d TMN 0 0x118)).faultAct d 664
  else s

/-- SUPPLY_DIP. -/
def execSupplyDip (d : Nat) (s : State) : Host.Outcome State Fault Refusal := ret (opSupplyDip d s)

/-- A probe ends: the job map that was in force is in force again and the engine returns to service (R234, R464). -/
def Die.endProbe (d : Die) (e : Nat) : Die :=
  { d.modMap e (fun m => { m with probe := false, probeMap := none }) with pcr := { d.pcr with probing := none } }

/-- An engine is first in order at the next interval (R467). -/
def Pcr.first (p : Pcr) (e : Nat) : Pcr := { p with order := e :: p.order.filter (fun x => decide (x ≠ e)) }

/-- A probe under way is abandoned without a result, the engine first in order next interval (R467). -/
def Die.abandonProbe (d : Die) : Die :=
  match d.pcr.probing with
  | some p => if p.started then (let y := d.endProbe p.engine; { y with pcr := y.pcr.first p.engine }) else d
  | none => d

/-- The rail has stayed above WARN + 10 mV for 50 µs: the engines resume, the gate is released unless LOCK or a boundary
instruction holds it, and a probe that the dip met is abandoned (R467). -/
def opDipRecovered (d : Nat) (s : State) : State :=
  if (s.die d).tmn.dip then
    s.modDie d (fun x => { (x.freeze false).abandonProbe with tmn := { x.tmn with dip := false, gated := s.pkg.lock || s.pkg.boundary || x.orphan } })
  else s

/-- DIP_RECOVERED. -/
def execDipRecovered (d : Nat) (s : State) : Host.Outcome State Fault Refusal := ret (opDipRecovered d s)

/-! ### The battery supply (R426, R428, R436) -/

/-- VBAT is first applied, or returns after a loss: RTC and MONO start from zero, TMP_CFG reads zero. -/
def opVbatApplied (mv : Nat) (s : State) : State :=
  let s := { s with pkg := { s.pkg with vbatMv := mv } }
  if s.bbd.powered then s
  else { s with bbd := { Bbd.off with powered := true, lost := true } }

/-- VBAT_APPLIED. -/
def execVbatApplied (mv : Nat) (s : State) : Host.Outcome State Fault Refusal := ret (opVbatApplied mv s)

/-- VBAT is lost while main power is absent: the BBRAM, RTC, MONO and the tamper record are lost (R428). -/
def opVbatLost (s : State) : State :=
  if s.mainPower then { s with pkg := { s.pkg with vbatMv := 0 } }
  else
    { s with pkg := { s.pkg with vbatMv := 0 },
             bbd := Bbd.off, bbram := Bbram.empty }

/-- VBAT_LOST. -/
def execVbatLost (s : State) : Host.Outcome State Fault Refusal := ret (opVbatLost s)

/-! ### Reads and writes with a row of their own (R436) -/

/-- A read of RTC_LO latches RTC_HI and returns the low word (R436). -/
def opRtcLoRead (s : State) : State :=
  ({ s with bbd := { s.bbd with rtcHi := s.bbd.rtc.extractLsb' 32 32 } }).send (.readReply (s.bbd.rtc.extractLsb' 0 32))

/-- A read of MONO_LO latches MONO_HI and returns the low word (R436). -/
def opMonoLoRead (s : State) : State :=
  ({ s with bbd := { s.bbd with monoHi := s.bbd.mono.extractLsb' 32 32 } }).send (.readReply (s.bbd.mono.extractLsb' 0 32))

/-- The SCU clears the tamper record with its key; any other value does nothing (R436). -/
def opRecClear (value : W32) (s : State) : State :=
  if value = 0x0000C1EA then { s with bbd := { s.bbd with record := [] } } else s

/-- REC_CLEAR. -/
def execRecClear (value : W32) (s : State) : Host.Outcome State Fault Refusal := ret (opRecClear value s)

/-- The SCU writes ALIVE_CTRL: any value renews the heartbeat (R505, R515). -/
def execAliveCtrl (_value : W32) (s : State) : Host.Outcome State Fault Refusal :=
  ret { s with pkg := { s.pkg with aliveFresh := true } }

/-- The heartbeat is missed: ALIVE is driven low (R505). -/
def execAliveTimeout (s : State) : Host.Outcome State Fault Refusal :=
  ret { s with pkg := { s.pkg with aliveFresh := false } }

end Sys2Proof.Machine
end

