-- ==== Sys2Proof/Machine/Pacer.lean ====
section
/-! DEFINITION. The Pacer (R461 to R476): cycle-class maps and skip patterns (R232, R233, R286), probes and planning (R464 to R468), VCORE
steps (R469), skip levels (R470), the ageing record (R471, R472) and projected margin (R473). -/

namespace Sys2Proof.Machine

/-! ### Policy (R476) -/

/-- POLICY.GUARD. -/
def Die.guardBits (d : Die) : Int := max 1 (bits (d.reg PCR 0 0x100) 0 3)
/-- POLICY.STRETCH. -/
def Die.stretch (d : Die) : Nat := min 4 (bits (d.reg PCR 0 0x100) 4 3)
/-- VMAX, within 700 to 850 mV. -/
def Die.vmax (d : Die) : Nat := max 700 (min 850 (bits (d.reg PCR 0 0x104) 0 10))
/-- LIMIT[c] (R468). -/
def Die.limit (d : Die) (e c : Nat) : Nat := min 16 (mapLen (d.floorOf e) c + d.stretch)
/-- The die's temperature in quarter degrees, zero before the first measurement. -/
def Die.tj (d : Die) : Int := (d.tmn.temp.getD 0).toInt

/-- Tj_max: the highest temperature of the last 24 h, or since boot (R466). -/
def Die.tjMax (d : Die) : Int := (d.pcr.minutes.take 1440).foldl (fun a x => max a x.2) (d.pcr.minuteMax.getD d.tj)

/-- REQ of a probe that started at a temperature (R466). -/
def Die.req (d : Die) (tjProbe : Int) : Int := d.guardBits + (max 0 (d.tjMax - tjProbe)) / 80

/-- Steps of a class's search (R465). -/
def kmaxOf (len : Nat) : Nat := min 16 (8 * len - 1)

/-- The probe map of step `k` of the search of class `c` (R465): that class shortened by `k` eighths of a clock, below its floor where the step asks for it (R234),
every other class at its job length. -/
def probeStepMap (job : W32) (n c k : Nat) : W32 :=
  mapWord ((List.range n).map (fun i => if i = c then (8 * mapLen job c - k + 7) / 8 else mapLen job i))

/-- A probe's margins: one per class, from -1 to kmax. -/
def Die.marginsOk (d : Die) (e : Nat) (ms : List Int) : Bool :=
  match d.emap e with
  | none => false
  | some m => decide (ms.length = nClasses e) &&
      (List.range (nClasses e)).all (fun c => decide (-1 ≤ ms.getD c 0) && decide (ms.getD c 0 ≤ kmaxOf (mapLen m.cyc c)))

/-! ### The ageing record (R471, R472) -/

/-- Largest stretch of a class over the engines given. -/
def Die.stretchOf (d : Die) (es : List Nat) (c : Nat) : Nat :=
  es.foldl (fun a e => max a (match d.emap e with | some m => mapLen m.cyc c - mapLen (d.floorOf e) c | none => 0)) 0

/-- The stretch field of a group of engines. -/
def Die.stretchWord (d : Die) (es : List Nat) (n : Nat) : Nat :=
  ((List.range n).map (fun c => d.stretchOf es c * 16 ^ c)).foldl (· + ·) 0

/-- TJ_MEAN: the mean over the minutes kept. -/
def Die.tjMean (d : Die) : Int :=
  if d.pcr.minutes = [] then d.tj else (d.pcr.minutes.foldl (fun a x => a + x.1) 0) / (d.pcr.minutes.length : Int)

/-- The record of a die as it stands. -/
def State.ageOf (s : State) (d : Nat) : AgeRec :=
  let x := s.die d
  ⟨x.pcr.stress, x.pcr.setMv, x.fuses.vcoreBase, BitVec.ofNat 32 (x.stretchWord (List.range 16) 8),
   BitVec.ofNat 16 (x.stretchWord [16, 17, 18, 19] 4), x.pcr.marginBase.getD 0, x.pcr.marginNorm, x.pcr.degPpm, x.tjMean, x.pcr.marginYears,
   s.bbd.rtc.extractLsb' 16 32, x.pcr.exhausts⟩

/-- Commit the record in one write (R472). -/
def State.commitAge (s : State) (d : Nat) : State := { s with bbram := { s.bbram with ages := Assoc.set s.bbram.ages d (s.ageOf d) } }

/-! ### Planning (R468) -/

/-- What R468 decides for a class. -/
inductive Plan where
  | keep | shorten | lengthen (len : Nat) | vstep | exhausted
  deriving DecidableEq, Repr

/-- VCORE counts as at VMAX (R468, R469). -/
def Die.atVmax (d : Die) : Bool := d.pcr.exhausted || decide (d.vmax ≤ d.pcr.ramping.getD d.pcr.setMv)

/-- The decision for class `c`: the first matching row. `wide` says whether the previous probe had REQ + 8 too. -/
def Die.plan (d : Die) (e c : Nat) (len : Nat) (m req : Int) (wide : Bool) : Plan :=
  let need := len + ((req - m + 7) / 8).toNat
  if req + 8 ≤ m ∧ wide ∧ mapLen (d.floorOf e) c < len then .shorten
  else if req ≤ m then .keep
  else if need ≤ d.limit e c then .lengthen need
  else if !d.atVmax then .vstep
  else .exhausted

/-- The length of a class after its plan. -/
def Die.planLen (d : Die) (e c len : Nat) (p : Plan) : Nat :=
  match p with
  | .shorten => len - 1
  | .lengthen n => n
  | .vstep => d.limit e c
  | .keep => len
  | .exhausted => len

/-- Update the Pacer of a die. -/
def State.modPcr (s : State) (d : Nat) (f : Pcr → Pcr) : State := s.modDie d (fun x => { x with pcr := f x.pcr })

/-- Update the Pacer's view of an engine. -/
def State.modPe (s : State) (d e : Nat) (f : PcrEngine → PcrEngine) : State :=
  s.modPcr d (fun p => { p with engines := p.engines.modify e f })

/-- Ask the regulator for a VCORE step of 10 mV, never beyond VMAX (R469, R420): VCORE_MV shows it from the request. -/
def State.vcoreStep (s : State) (d : Nat) : State :=
  let x := s.die d
  if x.pcr.ramping.isSome ∨ x.atVmax then s
  else
    let mv := min x.vmax (x.pcr.setMv + 10)
    (s.modDie d (fun y => { y with pcr := { y.pcr with ramping := some mv, awaiting := true }, tmn := { y.tmn with mv := mv } })).send (.avs d mv)

/-- The source PACER_EXHAUSTED of an engine (R476). -/
def exhaustSource (e : Nat) : Nat := if e < 16 then 32 * e + 17 else 518 + 8 * (e - 16)
/-- The source PROBE_FAIL of an engine (R476). -/
def probeSource (e : Nat) : Nat := if e < 16 then 32 * e + 16 else 517 + 8 * (e - 16)

/-- No remedy is left for an engine: it is fenced with PACER_EXHAUSTED (R468). -/
def State.exhaustEngine (s : State) (d e : Nat) : State :=
  let s := if e < 16 then s.fenceLve d e 3 else s.fenceBne d (e - 16) 3
  let s := s.modPcr d (fun p => { p with exhausts := satInc p.exhausts, engines := p.engines.modify e (fun x => { x with hold := false }) })
  (s.faultAct d (exhaustSource e)).event d PCR 0 2

/-- The tightest point: engine, class and m - REQ, smallest over the latest probe of every engine (R473, R476 WORST). -/
def Pcr.worst (p : Pcr) : Option (Nat × Nat × Int) :=
  (p.engines.zipIdx).foldl (fun w x =>
    (x.1.margin.zipIdx).foldl (fun (v : Option (Nat × Nat × Int)) y =>
      match v with
      | none => some (x.2, y.2, y.1 - x.1.req)
      | some z => if y.1 - x.1.req < z.2.2 then some (x.2, y.2, y.1 - x.1.req) else some z) w) none

/-- The normalised margin of R473 at a point, in eighths; VCORE moves in steps of 10 mV, so the division is exact below VMAX. -/
def Die.normAt (d : Die) (e c : Nat) (m : Int) : Int :=
  match d.emap e with
  | none => m
  | some x => m - 8 * ((mapLen x.cyc c : Int) - mapLen (d.floorOf e) c) - 2 * (((d.pcr.setMv : Int) - d.fuses.vcoreBase) / 10)

/-- The normalised worst margin of a die. -/
def Die.norm (d : Die) : Int :=
  match d.pcr.worst with
  | none => 0
  | some w => d.normAt w.1 w.2.1 (((d.pcr.engines[w.1]?).map (fun x => x.margin.getD w.2.1 0)).getD 0)

/-- A probe's result is planned (R468) and the engine's view brought up to date. -/
def State.planProbe (s : State) (d e : Nat) (ms : List Int) (tjProbe : Int) : State :=
  let x := s.die d
  match x.emap e with
  | none => s
  | some mp =>
    let req := x.req tjProbe
    let prev := ((x.pcr.engines[e]?).map PcrEngine.wide).getD []
    let plans := (List.range (nClasses e)).map (fun c => x.plan e c (mapLen mp.cyc c) (ms.getD c 0) req (prev.getD c false))
    let word := mapWord ((plans.zipIdx).map (fun p => x.planLen e p.2 (mapLen mp.cyc p.2) p.1))
    let stepped := plans.any (fun p => decide (p = .vstep))
    let done := plans.any (fun p => decide (p = .exhausted))
    let n1 := (plans.filter (fun p => match p with | .lengthen _ => true | _ => false)).length
    let n2 := (plans.filter (fun p => decide (p = .shorten))).length
    let s := s.modPe d e (fun y => { y with
      margin := ms, wide := ms.map (fun m => decide (req + 8 ≤ m)), req := req, age := 0, skipped := false, never := false, hold := stepped && !done })
    let s := if n1 = 0 then s else s.count d PCR 0 0x138 n1
    let s := if n2 = 0 then s else s.count d PCR 0 0x13C n2
    let s := if word = mp.cyc then s else (s.mapApply d e word mp.skip).event d PCR 0 0
    let s := if done then s.exhaustEngine d e else if stepped then s.vcoreStep d else s
    if word = mp.cyc then s else s.commitAge d

/-! ### Probe rows (R464, R467) -/

/-- An engine counts as kept in service under THROTTLE: the lowest-numbered THROTTLE_CAP engines of its class are (R422). -/
def Die.inCap (d : Die) (e : Nat) : Bool :=
  let cap := d.reg TMN 0 0x108
  if e < 16 then decide (e < bits cap 0 5) else if e < 20 then decide (e - 16 < bits cap 8 3) else decide (e - 20 < bits cap 16 2)

/-- An engine is passed over: OFFLINE, fenced or in HOLD (R467); under THROTTLE, only engines kept out of service are probed. -/
def Die.passedOver (d : Die) (e : Nat) : Bool :=
  let off := if e < 16 then bit (d.reg LVE e 0x010) 0 else bit (d.reg BNE (e - 16) 0x010) 0
  let fenced := if e < 16 then (match d.lves[e]? with | some u => decide (u.svc.fence ≠ 0) | none => true)
                else (match d.bnes[e - 16]? with | some u => decide (u.svc.fence ≠ 0) | none => true)
  let hold := ((d.pcr.engines[e]?).map PcrEngine.hold).getD true
  off || fenced || hold || (d.tmn.throttle && d.inCap e)

/-- The engine an interval withdraws. -/
def Die.nextProbe (d : Die) : Option Nat := d.pcr.order.find? (fun e => !d.passedOver e)

/-- A probe interval may withdraw an engine: the die runs, PROBE_EN, none withdrawn. -/
def probeDue (d : Nat) (s : State) : Bool :=
  decide ((s.die d).state = .running) && bit (s.reg d PCR 0 0x100) 16 && (s.die d).pcr.probing.isNone && (s.die d).nextProbe.isSome

/-- Withdraw an engine and move the round robin past it (R464). -/
def Die.withdraw (d : Die) (e : Nat) : Die :=
  { d with pcr := { d.pcr with
      probing := some ⟨e, false, 0⟩,
      order := d.pcr.order.filter (fun x => decide (x ≠ e) && !(d.pcr.order.takeWhile (fun y => decide (y ≠ e))).contains x)
        ++ d.pcr.order.takeWhile (fun y => decide (y ≠ e)) ++ [e] } }

/-- PROBE_INTERVAL. -/
def opProbeInterval (d : Nat) (s : State) : State :=
  if probeDue d s then (match (s.die d).nextProbe with | some e => s.modDie d (·.withdraw e) | none => s) else s

/-- PROBE_INTERVAL. -/
def execProbeInterval (d : Nat) (s : State) : Host.Outcome State Fault Refusal := ret (opProbeInterval d s)

/-- A withdrawn engine has gone idle, its probe not begun. -/
def probeReady (d : Nat) (s : State) : Bool :=
  match (s.die d).pcr.probing with
  | some p => !p.started && (s.die d).engineIdle p.engine
  | none => false

/-- The probe map is installed and the search begins with step 0 of class 0 (R464, R465); the steps that follow, each with its own probe map, give the margins that
PROBE_COMPLETE brings. The page reads PROBE. -/
def opProbeStart (d : Nat) (s : State) : State :=
  if probeReady d s then
    match (s.die d).pcr.probing with
    | some p =>
      s.modDie d (fun x =>
        { x.modMap p.engine (fun m => { m with probe := true, probeMap := some (probeStepMap m.cyc (nClasses p.engine) 0 0) }) with pcr := { x.pcr with probing := some ⟨p.engine, true, x.tj⟩ } })
    | none => s
  else s

/-- PROBE_START. -/
def execProbeStart (d : Nat) (s : State) : Host.Outcome State Fault Refusal := ret (opProbeStart d s)

/-- The engine has not gone idle in time: the probe is skipped and the engine is first in order next time (R467). -/
def opProbeWaitTimeout (d : Nat) (s : State) : State :=
  match (s.die d).pcr.probing with
  | some p =>
    if p.started then s
    else
      (((s.modDie d (·.endProbe p.engine)).modPcr d (·.first p.engine)).modPe d p.engine (fun x => { x with skipped := true })).count d PCR 0 0x134
  | none => s

/-- PROBE_WAIT_TIMEOUT. -/
def execProbeWaitTimeout (d : Nat) (s : State) : Host.Outcome State Fault Refusal := ret (opProbeWaitTimeout d s)

/-- Count a source several times. -/
def State.faultTimes (s : State) (d src : Nat) (n : Nat) : State := (List.range n).foldl (fun t _ => t.faultAct d src) s

/-- The next engine in HOLD whose VCORE step has completed is withdrawn for its re-probe (R468, R469). -/
def State.reprobe (s : State) (d : Nat) : State :=
  let x := s.die d
  if x.pcr.ramping.isSome ∨ x.pcr.probing.isSome then s
  else
    match (List.range 20).find? (fun e => ((x.pcr.engines[e]?).map PcrEngine.hold).getD false) with
    | some e => s.modPcr d (fun p => { p with probing := some ⟨e, false, 0⟩ })
    | none => s

/-- A probe under way with a well-formed result. -/
def probeDone (d : Nat) (ms : List Int) (s : State) : Bool :=
  match (s.die d).pcr.probing with
  | some p => p.started && (s.die d).marginsOk p.engine ms
  | none => false

/-- A probe finishes (R464, R465, R468): each failing step counts in PROBE_FAIL, the job map is restored, the classes are planned. -/
def opProbeComplete (d : Nat) (ms : List Int) (s : State) : State :=
  if probeDone d ms s then
    match (s.die d).pcr.probing with
    | some p =>
      let e := p.engine
      let mp := (((s.die d).emap e).map EngineMap.cyc).getD 0
      let fails := ((List.range (nClasses e)).filter (fun c => decide (ms.getD c 0 < kmaxOf (mapLen mp c)))).length
      let s := ((s.modDie d (·.endProbe e)).count d PCR 0 0x130).faultTimes d (probeSource e) fails
      (s.planProbe d e ms p.temp).reprobe d
    | none => s
  else s

/-- PROBE_COMPLETE. -/
def execProbeComplete (d : Nat) (ms : List Int) (s : State) : Host.Outcome State Fault Refusal := ret (opProbeComplete d ms s)

/-! ### VCORE steps (R469, R420) -/

/-- A step awaits the regulator. -/
def avsWaiting (d : Nat) (s : State) : Bool := (s.die d).pcr.awaiting && (s.die d).pcr.ramping.isSome

/-- The regulator reports completion: WARN and RESET move with the set-point (R420), the record is committed, and engines in HOLD are re-probed. -/
def opAvsComplete (d : Nat) (s : State) : State :=
  if avsWaiting d s then
    let s := s.modPcr d (fun p => { p with
      setMv := p.ramping.getD p.setMv, ramping := none, awaiting := false, avsFail := false, avsTries := 0, exhausted := false })
    (((s.count d PCR 0 0x140).event d PCR 0 1).commitAge d).reprobe d
  else s

/-- AVS_COMPLETE. -/
def execAvsComplete (d : Nat) (s : State) : Host.Outcome State Fault Refusal := ret (opAvsComplete d s)

/-- No completion in time: AVS_FAIL. -/
def opAvsTimeout (d : Nat) (s : State) : State :=
  if avsWaiting d s then s.modPcr d (fun p => { p with awaiting := false, avsFail := true, avsTries := p.avsTries + 1 }) else s

/-- AVS_TIMEOUT. -/
def execAvsTimeout (d : Nat) (s : State) : Host.Outcome State Fault Refusal := ret (opAvsTimeout d s)

/-- A failed step waits for its retry. -/
def vstepDue (d : Nat) (s : State) : Bool := !(s.die d).pcr.awaiting && (s.die d).pcr.ramping.isSome

/-- The step is requested again. -/
def opVstepRetry (d : Nat) (s : State) : State :=
  if vstepDue d s then (s.modPcr d (fun p => { p with awaiting := true })).send (.avs d ((s.die d).pcr.ramping.getD 0)) else s

/-- VSTEP_RETRY. -/
def execVstepRetry (d : Nat) (s : State) : Host.Outcome State Fault Refusal := ret (opVstepRetry d s)

/-- Three failed attempts in a row. -/
def avsSpent (d : Nat) (s : State) : Bool := decide (3 ≤ (s.die d).pcr.avsTries) && !(s.die d).pcr.exhausted

/-- VCORE counts as at VMAX until the next successful step (R469), so engines in HOLD have no remedy left (R468). -/
def opAvsExhausted (d : Nat) (s : State) : State :=
  if avsSpent d s then
    let s := s.modPcr d (fun p => { p with exhausted := true })
    ((List.range 20).filter (fun e => (((s.die d).pcr.engines[e]?).map PcrEngine.hold).getD false)).foldl (fun t e => t.exhaustEngine d e) s
  else s

/-- AVS_EXHAUSTED. -/
def execAvsExhausted (d : Nat) (s : State) : Host.Outcome State Fault Refusal := ret (opAvsExhausted d s)

/-! ### Sensors (R461 to R463) -/

/-- The median over the ring-oscillator pairs is DEG_PPM. -/
def opRoMeasure (d ppm : Nat) (s : State) : State := s.modPcr d (fun p => { p with degPpm := ppm })

/-- RO_MEASURE. -/
def execRoMeasure (d ppm : Nat) (s : State) : Host.Outcome State Fault Refusal := ret (opRoMeasure d ppm s)

/-- A slack window of 1 s ends with the smallest slack of each engine in ps: engines below SLACK_ALERT move to the head of the probe order (R463). Every
AGE counts the second. -/
def opSlackWindow (d : Nat) (slack : List Nat) (s : State) : State :=
  let alert := 5 * bits (s.reg d PCR 0 0x100) 8 8
  let low := (List.range 20).filter (fun e => decide (slack.getD e 0xFFF < alert))
  s.modPcr d (fun p => { p with
    engines := (p.engines.zipIdx).map (fun x => { x.1 with slack := slack.getD x.2 0xFFF, age := min 0xFFFF (x.1.age + b2n (!x.1.never)) }),
    order := low ++ p.order.filter (fun e => !low.contains e),
    slackMin := slack.foldl min 0xFFF })

/-- SLACK_WINDOW. -/
def execSlackWindow (d : Nat) (slack : List Nat) (s : State) : Host.Outcome State Fault Refusal := ret (opSlackWindow d slack s)

/-- The largest a with a^40 ≤ x. -/
def root40 (x : Nat) : Nat := (List.range 64).foldr (fun i a => if (a + 2 ^ i) ^ 40 ≤ x then a + 2 ^ i else a) 0

/-- accel of R462 in units of 2^-32, rounded down: 2^((Tj - 100) ÷ 10) for a temperature in quarter degrees. -/
def accelFix (q : Int) : Nat :=
  let n := q - 400 + 1280
  if n < 0 then 0 else root40 (2 ^ n.toNat)

/-- One minute of operation at a mean temperature (R462). -/
def Pcr.minute (p : Pcr) (tj : Int) : Pcr :=
  let f := p.stressFrac + accelFix tj
  { p with
    stress := min (2 ^ 32 - 1) (p.stress + f / (60 * 2 ^ 32)), stressFrac := f % (60 * 2 ^ 32),
    minutes := ((tj, max tj (p.minuteMax.getD tj)) :: p.minutes).take 43200, minuteMax := none }

/-- STRESS_MINUTE. -/
def opStressMinute (d : Nat) (tj : BitVec 11) (s : State) : State :=
  if (s.die d).state = .running then s.modPcr d (·.minute tj.toInt) else s

/-- STRESS_MINUTE. -/
def execStressMinute (d : Nat) (tj : BitVec 11) (s : State) : Host.Outcome State Fault Refusal := ret (opStressMinute d tj s)

/-! ### Skip levels (R470) -/

/-- The pattern of a level. -/
def skipPattern (l : Nat) : W16 := if l = 1 then 0x0001 else if l = 2 then 0x0101 else if l = 3 then 0x0421 else 0x0000

/-- SKIP_TJ in quarter degrees. -/
def Die.skipTj (d : Die) : Int := ((d.reg PCR 0 0x108).setWidth 11 : BitVec 11).toInt

/-- The temperature at which a level is entered. -/
def Die.enterTj (d : Die) (l : Nat) : Int := d.skipTj + (if l = 2 then 20 else if l = 3 then 32 else 0)

/-- The temperature below which a level is left. -/
def Die.leaveTj (d : Die) (l : Nat) : Int := d.skipTj + (if l = 2 then 0 else if l = 3 then 12 else -20)

/-- The level after an evaluation at a temperature: at most one level away. -/
def Die.nextLevel (d : Die) (tj : Int) : Nat :=
  let l := d.pcr.skipLevel
  if l < 3 ∧ d.enterTj (l + 1) ≤ tj then l + 1
  else if 0 < l ∧ tj < d.leaveTj l then l - 1
  else l

/-- Set the pattern of a level on every LVE and BNE, under R232. -/
def State.setLevel (s : State) (d l : Nat) : State :=
  let s := s.modPcr d (fun p => { p with skipLevel := l })
  (List.range 20).foldl (fun t e =>
    match (t.die d).emap e with
    | some m => t.mapRequest d e ((m.next.map Prod.fst).getD m.cyc) (skipPattern l)
    | none => t) s

/-- TMN.TEMP is measured and the level evaluated while SKIP_EN = 1. -/
def opSkipEvaluate (d : Nat) (tj : BitVec 11) (s : State) : State :=
  if (s.die d).state = .running then
    let s := s.measure d tj
    if bit (s.reg d PCR 0 0x100) 17 ∧ (s.die d).nextLevel tj.toInt ≠ (s.die d).pcr.skipLevel then s.setLevel d ((s.die d).nextLevel tj.toInt) else s
  else s

/-- SKIP_EVALUATE. -/
def execSkipEvaluate (d : Nat) (tj : BitVec 11) (s : State) : Host.Outcome State Fault Refusal := ret (opSkipEvaluate d tj s)

/-! ### Projected margin (R473) -/

/-- Whether y, in units of 1/256 year, is at most the projection: y · 8,766 · accel · loss² ≤ 256 · stress · ((loss + budget)² − loss²), both sides to the 40th power
so that accel = 2^(n/40) is exact. -/
def yearsLe (stress : Nat) (loss budget : Nat) (n : Int) (y : Nat) : Bool :=
  decide ((y * 8766 * loss ^ 2) ^ 40 * 2 ^ n.toNat ≤ (256 * stress * ((loss + budget) ^ 2 - loss ^ 2)) ^ 40 * 2 ^ (-n).toNat)

/-- MARGIN_YEARS of a die: the largest such y up to 0xFFFE; 0xFFFF before a projection, 0 without budget. -/
def Die.project (d : Die) : Nat :=
  match d.pcr.worst with
  | none => 0xFFFF
  | some w =>
    let len := ((d.emap w.1).map (fun m => mapLen m.cyc w.2.1)).getD 1
    let loss := 5 * (d.pcr.marginBase.getD 0) - 5 * d.norm
    let budget := 5 * w.2.2 + 40 * ((d.limit w.1 w.2.1 : Int) - len) + ((d.vmax : Int) - d.pcr.setMv)
    if d.pcr.stress < 1000 ∨ d.pcr.degPpm = 0 ∨ loss ≤ 0 then 0xFFFF
    else if budget ≤ 0 then 0
    else
      min 0xFFFE ((List.range 16).foldr (fun i a =>
        if yearsLe d.pcr.stress loss.toNat budget.toNat (d.tjMean - 400) (a + 2 ^ i) then a + 2 ^ i else a) 0)

/-- MARGIN_PROJECT: MARGIN_LOW when it first falls below MARGIN_WARN. -/
def opMarginProject (d : Nat) (s : State) : State :=
  let y := (s.die d).project
  let warn := 256 * bits (s.reg d PCR 0 0x100) 24 8
  let was := (s.die d).pcr.marginYears
  let s := s.modDie d (fun x => { x with pcr := { x.pcr with marginYears := y, marginNorm := x.norm } })
  if y < warn ∧ ¬ was < warn then s.event d PCR 0 3 else s

/-- MARGIN_PROJECT. -/
def execMarginProject (d : Nat) (s : State) : Host.Outcome State Fault Refusal := ret (opMarginProject d s)

/-- AGEING_RECORD_COMMIT. -/
def execAgeingRecordCommit (d : Nat) (s : State) : Host.Outcome State Fault Refusal := ret (s.commitAge d)

/-! ### The Pacer at boot (R472) -/

/-- The map of a record's stretch: floor[c] + stretch[c]. -/
def stretchMap (floor : W32) (n : Nat) (w : Nat) : W32 := mapWord ((List.range n).map (fun c => min 16 (mapLen floor c + w / 16 ^ c % 16)))

/-- Steps 1 and 2 of R472 on a die: VCORE and the job maps from the record, or a fresh record. -/
def Die.pacerBoot (d : Die) (r : Option AgeRec) : Die :=
  let base := d.fuses.vcoreBase
  let mv := match r with | some a => max base (min d.vmax a.mv) | none => base
  let p := { Pcr.reset mv with
    stress := (r.map AgeRec.stress).getD 0, degPpm := (r.map AgeRec.degPpm).getD 0, marginYears := (r.map AgeRec.marginYears).getD 0xFFFF,
    marginBase := r.map AgeRec.marginBase, marginNorm := (r.map AgeRec.marginNorm).getD 0, exhausts := (r.map AgeRec.exhausts).getD 0 }
  let lw := ((r.map AgeRec.lveStretch).getD 0).toNat
  let bw := ((r.map AgeRec.bneStretch).getD 0).toNat
  { d with
    pcr := p, tmn := { d.tmn with mv := mv }
    lves := d.lves.map (fun u => { u with map := { u.map with cyc := stretchMap d.fuses.cycLve 8 lw } })
    bnes := d.bnes.map (fun u => { u with map := { u.map with cyc := stretchMap d.fuses.cycBne 4 bw } }) }

/-- Steps 1 and 2 of R472 on a die, with the AVSBus write that moves its VCORE (R501). -/
def State.pacerStart (s : State) (d : Nat) : State :=
  let s := s.modDie d (fun x => x.pacerBoot (Assoc.get? s.bbram.ages d))
  s.send (.avs d (s.die d).pcr.setMv)

/-- Step 3 of R472 and the first level of R470: every engine is probed once, MARGIN_BASE of a fresh record is taken, the skip level is the highest whose entry
temperature is reached. -/
def State.pacerProbes (s : State) (d : Nat) (margins : List (List Int)) : State :=
  let s := (List.range 20).foldl (fun t e =>
    let ms := margins.getD e []
    if (t.die d).marginsOk e ms then t.planProbe d e ms (t.die d).tj else t) s
  let s := s.modDie d (fun x => { x with pcr := { x.pcr with marginBase := some (x.pcr.marginBase.getD x.norm), marginNorm := x.norm } })
  let tj := (s.die d).tj
  let l := ((List.range 4).filter (fun k => decide (k = 0) || decide ((s.die d).enterTj k ≤ tj))).foldl max 0
  let s := if bit (s.reg d PCR 0 0x100) 17 ∧ l ≠ 0 then s.setLevel d l else s
  s.commitAge d

end Sys2Proof.Machine
end

