-- ==== Sys2Proof/Machine/LveArith.lean ====
section
/-! DEFINITION. The register-only LVE instructions: control and scalar (R199), integer and mask (R201), modular
(R202), butterflies (R203), layout (R204). Each effect answers the engine after the instruction, before the sequencer
passes on, or `none` where the engine's public state makes the instruction invalid (R189, R198). -/

namespace Sys2Proof.Machine

/-! ### Control and scalar (R199) -/

/-- SETVL: VL = min(S[A], VLMAX), S[D] = VL (R190). -/
def lveSetvl (f : LveFields) (l : Lve) : Option Lve :=
  let n := min (l.sr f.a.toNat).toNat l.vlmax
  some ({ l with core := { l.core with vl := n } }.setS f.d.toNat (BitVec.ofNat 64 n))

/-- VSETTYPE: VTYPE = IMM[3:0], VL = min(VL, new VLMAX) (R189). -/
def lveVsettype (f : LveFields) (l : Lve) : Option Lve :=
  let vt : BitVec 4 := f.imm.truncate 4
  if vtypeOk vt l.core.lmod then
    some { l with core := { l.core with vtype := vt, vl := min l.core.vl (2048 / sewOf vt) } }
  else none

/-- VSETMOD: LMOD = IMM32. -/
def lveVsetmod (f : LveFields) (l : Lve) : Option Lve := some { l with core := { l.core with lmod := f.imm32 } }

/-- SETOUT: OUTLEN = S[A] if it fits in min(OUT_CAP, OUT region), else an operand fault with index 0xFFFF_FFFF. After a
first fault it raises no second one and leaves OUTLEN (R211). -/
def lveSetout (f : LveFields) (l : Lve) : Option Lve :=
  let n := (l.sr f.a.toNat).toNat
  if n ≤ min l.jr.outCap l.regions.outMax then
    some { l with core := { l.core with outlen := BitVec.ofNat 32 n } }
  else if l.seq.fault.isSome then some l
  else some (l.operandFault 0xFFFFFFFF)

/-- VACCEPT: any bit below VL of M[A] clears ACCEPT. -/
def lveVaccept (f : LveFields) (l : Lve) : Option Lve :=
  if (List.range l.core.vl).any (fun i => bit (l.mr f.a.toNat) i) then
    some { l with core := { l.core with accept := false } }
  else some l

/-- SLI: S[D] = IMM32 sign-extended. -/
def lveSli (f : LveFields) (l : Lve) : Option Lve := some (l.setS f.d.toNat (f.imm32.signExtend 64))

/-- The scalar operations of SALU and SALUI. -/
def scalarOp (op : Nat) (a b : W64) : W64 :=
  match op with
  | 0x0 => a + b
  | 0x1 => a - b
  | 0x2 => a * b
  | 0x3 => a &&& b
  | 0x4 => a ||| b
  | 0x5 => a ^^^ b
  | 0x6 => a <<< (b.toNat % 64)
  | 0x7 => a >>> (b.toNat % 64)
  | 0x8 => if a.toNat ≤ b.toNat then a else b
  | 0x9 => if a.toNat ≤ b.toNat then b else a
  | 0xA => if a.toNat < b.toNat then 1 else 0
  | _ => if a = b then 1 else 0

/-- SALU. -/
def lveSalu (f : LveFields) (l : Lve) : Option Lve :=
  some (l.setS f.d.toNat (scalarOp f.sub.toNat (l.sr f.a.toNat) (l.sr f.b.toNat)))

/-- SALUI: IMM zero-extended. -/
def lveSalui (f : LveFields) (l : Lve) : Option Lve :=
  some (l.setS f.d.toNat (scalarOp f.sub.toNat (l.sr f.a.toNat) (f.imm.zeroExtend 64)))

/-- The job registers of SJR. -/
def Lve.jobReg (l : Lve) (k : Nat) : W64 :=
  match k with
  | 0x0 => BitVec.ofNat 64 l.jr.inLen
  | 0x1 => BitVec.ofNat 64 l.jr.auxLen
  | 0x2 => BitVec.ofNat 64 l.jr.outCap
  | 0x3 => l.jr.param
  | 0x4 => l.jr.pset.zeroExtend 64
  | 0x5 => l.core.pass.zeroExtend 64
  | 0x6 => BitVec.ofNat 64 l.jr.keyLen
  | 0x7 => BitVec.ofNat 64 l.kpc.length
  | 0x8 => BitVec.ofNat 64 l.vlmax
  | 0x9 => BitVec.ofNat 64 l.regions.inOff
  | 0xA => BitVec.ofNat 64 l.regions.auxOff
  | 0xB => BitVec.ofNat 64 l.regions.outOff
  | 0xC => BitVec.ofNat 64 l.regions.constOff
  | _ => BitVec.ofNat 64 l.regions.winSize

/-- SJR. -/
def lveSjr (f : LveFields) (l : Lve) : Option Lve := some (l.setS f.d.toNat (l.jobReg f.sub.toNat))

/-! ### Integer and mask (R201) -/

/-- The element operations of VALU on `w`-bit elements. -/
def valuOp (w op a b : Nat) : Nat :=
  match op with
  | 0x00 => a + b
  | 0x01 => a + (2 ^ w - b % 2 ^ w)
  | 0x02 => a &&& b
  | 0x03 => a ||| b
  | 0x04 => a ^^^ b
  | 0x05 => a &&& (2 ^ w - 1 - b % 2 ^ w)
  | 0x06 => a <<< (b % w)
  | 0x07 => a >>> (b % w)
  | 0x08 => ofSigned w (toSigned w a / 2 ^ (b % w))
  | 0x09 => a * b
  | 0x0A => a * b / 2 ^ w
  | 0x0B => min a b
  | 0x0C => max a b
  | 0x0D => ofSigned w (min (toSigned w a) (toSigned w b))
  | _ => ofSigned w (max (toSigned w a) (toSigned w b))

/-- VALU. -/
def lveValu (f : LveFields) (l : Lve) : Option Lve :=
  some (l.setV f.d.toNat (l.mapActive f f.d.toNat (fun i => valuOp l.sew (f.sub.toNat % 64) (l.elA f i) (l.opB f i))))

/-- The conditions of VCMP. -/
def vcmpCond (w c a b : Nat) : Bool :=
  match c with
  | 0x0 => a == b
  | 0x1 => a != b
  | 0x2 => decide (a < b)
  | 0x3 => decide (toSigned w a < toSigned w b)
  | 0x4 => decide (a ≤ b)
  | 0x5 => decide (toSigned w a ≤ toSigned w b)
  | 0x6 => decide (b ≤ a)
  | _ => decide (toSigned w b ≤ toSigned w a)

/-- VCMP: the mask bits of active elements. -/
def lveVcmp (f : LveFields) (l : Lve) : Option Lve :=
  some (l.setM f.d.toNat (packMask (fun i =>
    if l.active f i then vcmpCond l.sew (f.sub.toNat % 8) (l.elA f i) (l.opB f i) else bit (l.mr f.d.toNat) i)))

/-- MALU, full width: all 256 bits are written, those at and above VLMAX too, which R191 ignores (DEDUCED, log 142). -/
def lveMalu (f : LveFields) (l : Lve) : Option Lve :=
  let a := l.mr f.a.toNat
  let b := l.mr f.b.toNat
  some (l.setM f.d.toNat (match f.sub.toNat with
    | 0 => a &&& b
    | 1 => a ||| b
    | 2 => a ^^^ b
    | 3 => a &&& ~~~ b
    | 4 => ~~~ a
    | 5 => BitVec.allOnes 256
    | _ => 0))

/-- VMERGE: every element below VL, by the mask. -/
def lveVmerge (f : LveFields) (l : Lve) : Option Lve :=
  some (l.setV f.d.toNat (packElems l.sew l.vlmax (fun i =>
    if i < l.core.vl then (if bit (l.mr f.km.toNat) i then l.elB f i else l.elA f i)
    else elemN l.sew (l.vr f.d.toNat) i)))

/-! ### Modular (R202) -/

/-- A one-result VMOD operation, with a modulus in force. -/
def lveMod1 (f : LveFields) (l : Lve) (g : Nat → Nat → Nat) : Option Lve :=
  if l.modOk then some (l.setV f.d.toNat (l.mapActive f f.d.toNat (fun i => g (l.elA f i) (l.opB f i)))) else none

/-- A two-result VMOD operation with the modulus `q` in force: V[D] and V[D+1]. -/
def lveMod2 (q : Nat) (f : LveFields) (l : Lve) (g h : Nat → Nat) : Option Lve :=
  if l.modOk && l.modulus == q then
    some (l.setVs f.d.toNat [l.mapActive f f.d.toNat (fun i => g (l.elA f i)),
      l.mapActive f (f.d.toNat + 1) (fun i => h (l.elA f i))])
  else none

/-- MADD. -/
def lveMadd (f : LveFields) (l : Lve) : Option Lve := lveMod1 f l (fun a b => (a + b) % l.modulus)
/-- MSUB. -/
def lveMsub (f : LveFields) (l : Lve) : Option Lve :=
  lveMod1 f l (fun a b => (a + (l.modulus - b % l.modulus)) % l.modulus)
/-- MNEG. -/
def lveMneg (f : LveFields) (l : Lve) : Option Lve := lveMod1 f l (fun a _ => (l.modulus - a % l.modulus) % l.modulus)
/-- MRED. -/
def lveMred (f : LveFields) (l : Lve) : Option Lve := lveMod1 f l (fun a _ => a % l.modulus)
/-- MMONT. -/
def lveMmont (f : LveFields) (l : Lve) : Option Lve := lveMod1 f l (fun a b => mont l.sew l.modulus a b)
/-- MBAR. -/
def lveMbar (f : LveFields) (l : Lve) : Option Lve := lveMod1 f l (fun a b => a * b % l.modulus)
/-- TOMONT. -/
def lveTomont (f : LveFields) (l : Lve) : Option Lve := lveMod1 f l (fun a _ => a * 2 ^ l.sew % l.modulus)

/-- Compress_d of FIPS 203: round(2^d / q · x) mod 2^d, halves upward (q is odd, so no tie arises). -/
def compressD (d x : Nat) : Nat := (x * 2 ^ (d + 1) + 3329) / (2 * 3329) % 2 ^ d
/-- Decompress_d of FIPS 203: round(q / 2^d · y). -/
def decompressD (d y : Nat) : Nat := (y * 3329 * 2 + 2 ^ d) / 2 ^ (d + 1)

/-- CMPR: q = 3,329. -/
def lveCmpr (f : LveFields) (l : Lve) : Option Lve :=
  if l.modulus = 3329 then lveMod1 f l (fun a _ => compressD (f.imm.toNat % 16) (a % 3329)) else none
/-- DCMPR: q = 3,329. -/
def lveDcmpr (f : LveFields) (l : Lve) : Option Lve :=
  if l.modulus = 3329 then
    lveMod1 f l (fun a _ => decompressD (f.imm.toNat % 16) (a % 2 ^ (f.imm.toNat % 16)))
  else none

/-- The modulus of FIPS 204. -/
def qDsa : Nat := 8380417

/-- r mod± 2^13 of Power2Round, as an integer in (−2^12, 2^12]. -/
def p2rLow (r : Nat) : Int := if r % 8192 ≤ 4096 then (r % 8192 : Int) else (r % 8192 : Int) - 8192

/-- P2R: r1 and r0 mod q of Power2Round (FIPS 204), d = 13. -/
def lveP2r (f : LveFields) (l : Lve) : Option Lve :=
  lveMod2 qDsa f l (fun a => (((a % qDsa : Nat) : Int) - p2rLow (a % qDsa)).toNat / 8192)
    (fun a => (p2rLow (a % qDsa) % (qDsa : Int)).toNat)

/-- Decompose of FIPS 204 with 2·γ2 = α: (r1, r0). -/
def decompose (alpha r : Nat) : Nat × Int :=
  let r0 : Int := if r % alpha ≤ alpha / 2 then (r % alpha : Int) else (r % alpha : Int) - alpha
  if (r : Int) - r0 = (qDsa : Int) - 1 then (0, r0 - 1) else (((r : Int) - r0).toNat / alpha, r0)

/-- DECOMP: γ2 = (q − 1)/88 or (q − 1)/32 by IMM[0]. -/
def lveDecomp (f : LveFields) (l : Lve) : Option Lve :=
  let alpha := 2 * (if bit f.imm 0 then (qDsa - 1) / 32 else (qDsa - 1) / 88)
  lveMod2 qDsa f l (fun a => (decompose alpha (a % qDsa)).1)
    (fun a => ((decompose alpha (a % qDsa)).2 % (qDsa : Int)).toNat)

/-! ### Butterflies (R203) -/

/-- VBFLY: one NTT layer on V[D], V[D+1]. -/
def lveVbfly (f : LveFields) (l : Lve) : Option Lve :=
  let t := f.imm.toNat % 8
  let k := f.imm.toNat / 8 % 256
  let g := f.imm.toNat / 2048 % 16
  let q := l.modulus
  let tm := twiddleMod t
  if l.modOk && q == tm.1 && l.sew == tm.2.2 && decide (k + (l.vlmax - 1) / 2 ^ g < tm.2.1) && decide (t ≤ 4) then
    let w := fun i => twiddle t (k + i / 2 ^ g)
    let u := l.elA f
    let v := l.elB f
    let d0 := fun i => if bit f.sub 0 then (u i + v i) % q else (u i + mont l.sew q (v i) (w i)) % q
    let d1 := fun i =>
      if bit f.sub 0 then mont l.sew q ((u i + (q - v i % q)) % q) (w i)
      else (u i + (q - mont l.sew q (v i) (w i))) % q
    some (l.setVs f.d.toNat [l.mapActive f f.d.toNat d0, l.mapActive f (f.d.toNat + 1) d1])
  else none

/-- VBMUL: products of element pairs modulo X² − g. The last twiddle used is that of the last pair. VL must be even: with an odd VL the manual states no
result for the element that has no partner, which is free. -/
def lveVbmul (r : LveRef) (f : LveFields) (l : Lve) : Option Lve :=
  let k := f.imm.toNat / 8 % 256
  let g := f.imm.toNat / 2048 % 16
  let q := 3329
  if l.modOk && l.modulus == q && decide (k + (l.vlmax / 2 - 1) / 2 ^ g < 128) then
    let w := fun j => powMod q 16 17 (2 * bitRev 7 (k + j / 2 ^ g) + 1)
    let a := l.elA f
    let b := l.elB f
    let c := fun i =>
      let j := i / 2
      if i + 1 = l.core.vl ∧ l.core.vl % 2 = 1 then elemN l.sew (l.fresh r 0) i
      else if i % 2 = 0 then (a (2 * j) * b (2 * j) + a (2 * j + 1) * b (2 * j + 1) % q * w j) % q * invPow2 16 q % q
      else (a (2 * j) * b (2 * j + 1) + a (2 * j + 1) * b (2 * j)) % q * invPow2 16 q % q
    some ((l.setV f.d.toNat (l.mapActive f f.d.toNat c)).drawn 0 1)
  else none

/-! ### Layout (R204) -/

/-- ZIP: interleave blocks of 2^g elements of two registers. -/
def lveZip (f : LveFields) (l : Lve) : Option Lve :=
  let g := 2 ^ f.imm.toNat
  let n := l.vlmax
  if g ≤ n / 2 then
    let c := fun i =>
      let blk := i / g
      let e := i % g
      if blk % 2 = 0 then l.elA f (blk / 2 * g + e) else l.elB f (blk / 2 * g + e)
    some (l.setVs f.d.toNat [packElems l.sew n c, packElems l.sew n (fun i => c (n + i))])
  else none

/-- UNZIP: even blocks of V[A], V[A+1] to V[D], odd blocks to V[D+1]. -/
def lveUnzip (f : LveFields) (l : Lve) : Option Lve :=
  let g := 2 ^ f.imm.toNat
  let n := l.vlmax
  if g ≤ n / 2 then
    let s := fun i =>
      if i < n then l.elA f i else elemN l.sew (l.vr (f.a.toNat + 1)) (i - n)
    let pick := fun odd i => s ((2 * (i / g) + odd) * g + i % g)
    some (l.setVs f.d.toNat [packElems l.sew n (pick 0), packElems l.sew n (pick 1)])
  else none

/-- BREV: bit-reversed order within groups of 2^g elements. -/
def lveBrev (f : LveFields) (l : Lve) : Option Lve :=
  let g := f.imm.toNat
  if 2 ^ g ≤ l.vlmax then
    some (l.setV f.d.toNat (packElems l.sew l.vlmax (fun i => l.elA f (i / 2 ^ g * 2 ^ g + bitRev g (i % 2 ^ g)))))
  else none

/-- SLIDEUP. -/
def lveSlideup (f : LveFields) (l : Lve) : Option Lve :=
  let k := f.imm.toNat
  some (l.setV f.d.toNat (packElems l.sew l.vlmax (fun i => if k ≤ i then l.elA f (i - k) else 0)))

/-- SLIDEDN. -/
def lveSlidedn (f : LveFields) (l : Lve) : Option Lve :=
  let k := f.imm.toNat
  some (l.setV f.d.toNat (packElems l.sew l.vlmax (fun i => if i + k < l.vlmax then l.elA f (i + k) else 0)))

/-- BMT: transpose the SEW × SEW bit matrix of each group of SEW elements. At SEW 64 a register has 32 of the 64 rows: the manual does not say what the others are,
the model reads them as zero (DESIGN CHOICE, log 143). -/
def lveBmt (f : LveFields) (l : Lve) : Option Lve :=
  let w := l.sew
  some (l.setV f.d.toNat (packElems w l.vlmax (fun i =>
    (List.range w).foldr (fun j acc => (l.elA f (i / w * w + j) >>> (i % w)) % 2 + 2 * acc) 0)))

/-- The indices below `n` that satisfy `p`, ascending. -/
def selected (n : Nat) (p : Nat → Bool) : List Nat := (List.range n).filter p

/-- VCOMPRESS: compact the masked elements, zeros above. -/
def lveVcompress (f : LveFields) (l : Lve) : Option Lve :=
  let sel := selected l.core.vl (fun i => bit (l.mr f.km.toNat) i)
  some (l.setV f.d.toNat (packElems l.sew l.vlmax (fun j =>
    match sel[j]? with | some i => l.elA f i | none => 0)))

/-- The `n` consecutive registers from `k` as one bit stream. -/
def Lve.stream (l : Lve) (k n : Nat) : Nat :=
  (List.range n).foldr (fun i acc => (l.vr (k + i)).toNat + 2 ^ 2048 * acc) 0

/-- VPACK: d-bit fields of elements 0 to VL − 1 end to end, into as many registers as they fill. -/
def lveVpack (f : LveFields) (l : Lve) : Option Lve :=
  let d := f.imm.toNat
  let n := cdiv (l.core.vl * d) 2048
  if f.d.toNat + n ≤ 32 then
    let s := (List.range l.core.vl).foldr (fun i acc => l.elA f i % 2 ^ d + 2 ^ d * acc) 0
    some (l.setVs f.d.toNat ((List.range n).map (fun j => BitVec.ofNat 2048 (s >>> (2048 * j)))))
  else none

/-- VUNPACK: element i = bits [i·d + d − 1 : i·d] of the stream. Elements at or above VL keep their values (R191). -/
def lveVunpack (f : LveFields) (l : Lve) : Option Lve :=
  let d := f.imm.toNat
  let n := cdiv (l.core.vl * d) 2048
  if f.a.toNat + n ≤ 32 then
    let s := l.stream f.a.toNat n
    some (l.setV f.d.toNat (packElems l.sew l.vlmax (fun i =>
      if i < l.core.vl then (s >>> (i * d)) % 2 ^ d else elemN l.sew (l.vr f.d.toNat) i)))
  else none

end Sys2Proof.Machine
end

