-- ==== Sys2Proof/Machine/LveHash.lean ====
section
/-! DEFINITION. The hash units of the LVE (R188, R206, R209): the Keccak sponge with its PUBLIC flag and its shares, the
rejection sampler VREJ, and the SHA-2 compression unit. -/

namespace Sys2Proof.Machine

/-- The rate in force. -/
def Lve.kRate (l : Lve) : Nat := Machine.kRate l.hash.kfun

/-- The value a Keccak state recombines to. -/
def kVal (sh : List KState) : KState := sh.foldl (· ^^^ ·) 0

/-- A permutation of the shares: the plain permutation of an unmasked state; for a masked one, fresh shares 1 to o and the
share 0 that makes them recombine to the permuted state. -/
def kPermute (r : LveRef) (n : Nat) (sh : List KState) : List KState :=
  match sh with
  | [] => []
  | [s] => [keccakF s]
  | _ :: rest =>
    let fresh := (List.range rest.length).map (fun j => Config.freeKeccak r.die r.engine (n + j))
    fresh.foldl (· ^^^ ·) (keccakF (kVal sh)) :: fresh

/-- XOR byte `b k` into byte `p` of share `k`. -/
def kXorShares (sh : List KState) (p : Nat) (b : Nat → Byte) : List KState :=
  sh.mapIdx (fun k s => kXorByte s p (b k))

/-- Absorb bytes, each given by its shares. -/
def Lve.absorb (l : Lve) (r : LveRef) : List (Nat → Byte) → Lve
  | [] => l
  | b :: bs =>
    let sh := kXorShares l.hash.kshares l.hash.kpos b
    let l' : Lve :=
      if l.hash.kpos + 1 = l.kRate then
        { l with hash := { l.hash with kshares := kPermute r l.seq.draws sh, kpos := 0 }
                 seq := { l.seq with draws := l.seq.draws + sh.length } }
      else { l with hash := { l.hash with kshares := sh, kpos := l.hash.kpos + 1 } }
    l'.absorb r bs

/-- Squeeze `n` bytes, each as its shares. -/
def Lve.squeeze (l : Lve) (r : LveRef) : Nat → List (Nat → Byte) × Lve
  | 0 => ([], l)
  | n + 1 =>
    let l1 : Lve :=
      if l.hash.kpos = l.kRate then
        { l with hash := { l.hash with kshares := kPermute r l.seq.draws l.hash.kshares, kpos := 0 }
                 seq := { l.seq with draws := l.seq.draws + l.hash.kshares.length } }
      else l
    let p := l1.hash.kpos
    let sh := l1.hash.kshares
    let b := fun k => kByte (sh.getD k 0) p
    let rest := ({ l1 with hash := { l1.hash with kpos := p + 1 } } : Lve).squeeze r n
    (b :: rest.1, rest.2)

/-- Charge the masking bytes of `p` permutations before an effect, or note the fault of R216. The draws themselves are
counted by the permutations. -/
def Lve.withPerms (l : Lve) (p : Nat) (eff : Lve → Lve) : Lve :=
  if l.maskFits (l.permMask p) then
    eff { l with seq := { l.seq with maskUsed := l.seq.maskUsed + l.permMask p } }
  else l.setFault .maskBudget

/-- KINIT: zero state, absorb position 0; PUBLIC 1 unmasked, 0 masked (R188). -/
def lveKinit (f : LveFields) (l : Lve) : Option Lve :=
  let masked := bit f.sub 7
  let o := if masked then b2n (bit f.sub 6) + 1 else 0
  some { l with hash := { l.hash with
    kshares := List.replicate (o + 1) 0, kpublic := !masked, kpos := 0, kfun := f.sub.toNat % 8, ksqueeze := false } }

/-- A Keccak state about which the manual says nothing: free shares, position 0. -/
def Lve.kFree (l : Lve) (r : LveRef) : Lve :=
  { l with
    hash := { l.hash with
      kshares := l.hash.kshares.mapIdx (fun j _ => Config.freeKeccak r.die r.engine (l.seq.draws + j)), kpos := 0 }
    seq := { l.seq with draws := l.seq.draws + l.hash.kshares.length } }

/-- KABS: absorb S[B] bytes of V[A] (of the shares V[A..A+o]); PUBLIC becomes 0. A count above 256 leaves a free state:
the manual limits the count and states no result beyond. -/
def lveKabs (r : LveRef) (f : LveFields) (l : Lve) : Option Lve :=
  let n := (l.sr f.b.toNat).toNat
  if l.hash.ksqueeze || decide (32 ≤ f.a.toNat + l.kOrder) then none
  else
    let l1 : Lve := { l with hash := { l.hash with kpublic := false } }
    if 256 < n then some (l1.kFree r)
    else
      some (l1.withPerms (l1.absorbPerms n) (fun l =>
        l.absorb r ((List.range n).map (fun i k => BitVec.ofNat 8 (elemN 8 (l.vr (f.a.toNat + k)) i)))))

/-- The bytes that KABSM and HBLKM load: element i at SEW 8 is byte i (R209). The first byte that breaks R195 faults, unless
the job has faulted already. -/
def Lve.byteFault (l : Lve) (base n : Nat) : Option Nat :=
  if l.seq.fault.isSome then none
  else (List.range n).find? (fun i => !l.loadOk (addr64 (base + i)) 1)

/-- Byte `i` of such a load: zero where it breaks R195 (R211). -/
def Lve.byteAt (l : Lve) (base i : Nat) : Byte :=
  if l.loadOk (addr64 (base + i)) 1 then l.loadByte (addr64 (base + i)) else 0

/-- Byte `a` lies in a source that leaves PUBLIC unchanged: IN, AUX, CONST or the KPC aperture (R188). -/
def Lve.publicSource (l : Lve) (a : Nat) : Bool := l.readOnlyByte a || l.inKpc a 1

/-- KABSM: absorb S[B] bytes from S[A] + IMM. PUBLIC stays only if every byte comes from a public source. -/
def lveKabsm (r : LveRef) (f : LveFields) (l : Lve) : Option Lve :=
  let n := (l.sr f.b.toNat).toNat
  if l.hash.ksqueeze then none
  else if 4096 < n then some (({ l with hash := { l.hash with kpublic := false } } : Lve).kFree r)
  else
    let base := l.base f
    let flt := l.byteFault base n
    let m := flt.getD n
    let pub := l.hash.kpublic && (List.range m).all (fun i => l.publicSource (addr64 (base + i)))
    let l1 : Lve := { l with hash := { l.hash with kpublic := pub } }
    some ((l1.withPerms (l1.absorbPerms m) (fun l =>
      l.absorb r ((List.range m).map (fun i k => if k = 0 then l.byteAt base i else 0)))).raiseAt flt)

/-- The domain byte of a function code (FIPS 202); raw has no padding. -/
def kDomain (f : Nat) : Byte := if f ≤ 1 then 0x1F else 0x06

/-- KFIN: pad and switch to squeezing; the first squeezed byte needs a new block. Raw applies no padding. -/
def lveKfin (l : Lve) : Option Lve :=
  if l.hash.ksqueeze then none
  else
    let pad := fun s => kPad l.kRate (kDomain l.hash.kfun) s l.hash.kpos
    let sh := match l.hash.kshares with
      | [] => []
      | s :: rest => (if 5 ≤ l.hash.kfun then s else pad s) :: rest
    some { l with hash := { l.hash with kshares := sh, kpos := l.kRate, ksqueeze := true } }

/-- VXOF: squeeze IMM bytes into V[D] from byte 0, or its shares into V[D..D+o]. Bytes above keep their values. -/
def lveVxof (r : LveRef) (f : LveFields) (l : Lve) : Option Lve :=
  let n := f.imm.toNat
  if !l.hash.ksqueeze || decide (32 ≤ f.d.toNat + l.kOrder) then none
  else
    some (l.withPerms (l.squeezePerms n) (fun l =>
      let q := l.squeeze r n
      q.2.setVs f.d.toNat ((List.range l.hash.kshares.length).map (fun k =>
        packElems 8 256 (fun i => match q.1[i]? with
          | some b => (b k).toNat
          | none => elemN 8 (l.vr (f.d.toNat + k)) i)))))

/-- KSAVE: V[D..D+6] = state bytes 0 to 199, then zeros. For a masked state the manual does not say what the seven
registers hold: they are free. -/
def lveKsave (r : LveRef) (f : LveFields) (l : Lve) : Option Lve :=
  match l.hash.kshares with
  | [s] => some (l.setVs f.d.toNat (s.zeroExtend 2048 :: List.replicate 6 0))
  | _ => some ((l.setVs f.d.toNat ((List.range 7).map (l.fresh r))).drawn 0 7)

/-- KLOAD: the state = V[A..A+6] bytes 0 to 199, absorb position = IMM, PUBLIC 0 (R188). -/
def lveKload (f : LveFields) (l : Lve) : Option Lve :=
  if f.imm.toNat < l.kRate then
    some { l with hash := { l.hash with
      kshares := [(l.vr f.a.toNat).truncate 1600], kpos := f.imm.toNat, kpublic := false, ksqueeze := false } }
  else none

/-! ### Rejection sampling (R206) -/

/-- The candidates of a byte stream: 12-bit or 23-bit values from three bytes, or nibbles. -/
def vrejCands (mode : Nat) : List Byte → List Nat
  | b0 :: b1 :: b2 :: rest =>
    if mode = 0 then
      (b0.toNat + 256 * (b1.toNat % 16)) :: (b1.toNat / 16 + 16 * b2.toNat) :: vrejCands mode rest
    else if mode = 1 then
      (b0.toNat + 256 * b1.toNat + 65536 * (b2.toNat % 128)) :: vrejCands mode rest
    else
      (b0.toNat % 16) :: (b0.toNat / 16) :: (b1.toNat % 16) :: (b1.toNat / 16) :: (b2.toNat % 16) :: (b2.toNat / 16)
        :: vrejCands mode rest
  | [b0, b1] =>
    if mode < 2 then [] else [b0.toNat % 16, b0.toNat / 16, b1.toNat % 16, b1.toNat / 16]
  | [b0] => if mode < 2 then [] else [b0.toNat % 16, b0.toNat / 16]
  | [] => []

/-- A candidate is accepted. -/
def vrejAccept (mode c : Nat) : Bool :=
  match mode with
  | 0 => decide (c < 3329)
  | 1 => decide (c < 8380417)
  | 2 => decide (c < 15)
  | _ => decide (c < 9)

/-- The value written for an accepted candidate. -/
def vrejValue (mode q c : Nat) : Nat :=
  match mode with
  | 0 => c
  | 1 => c
  | 2 => ((2 - ((c % 5 : Nat) : Int)) % (q : Int)).toNat
  | _ => ((4 - (c : Int)) % (q : Int)).toNat

/-- The registers of a group of `gs` read as one sequence, elements from `p` replaced by `xs`. -/
def Lve.groupWrite (l : Lve) (d gs p : Nat) (xs : List Nat) : Lve :=
  l.setVs d ((List.range gs).map (fun k => packElems l.sew l.vlmax (fun i =>
    let j := k * l.vlmax + i
    if j < p then elemN l.sew (l.vr (d + k)) i
    else match xs[j - p]? with
      | some x => x
      | none => elemN l.sew (l.vr (d + k)) i)))

/-- VREJ. A count S[A] above the capacity accepts nothing more. On a masked state the manual does not say in what form the values are written: the model takes the
stream that the shares recombine to and writes plain registers (DESIGN CHOICE, log 141). -/
def lveVrej (r : LveRef) (f : LveFields) (l : Lve) : Option Lve :=
  let mode := f.imm.toNat % 16
  let nb := f.imm.toNat / 16 % 16
  let gs := 2 ^ (f.imm.toNat / 256)
  let cap := gs * l.vlmax
  let n := nb * l.kRate
  if !l.hash.ksqueeze || !l.modOk then none
  else if l.hash.kpublic then
    if f.km = 0 then
      let q := l.squeeze r n
      let p := (l.sr f.a.toNat).toNat
      let acc := (vrejCands mode (q.1.map (fun b => b 0))).filter (vrejAccept mode)
      let xs := acc.take (cap - p)
      some ((q.2.groupWrite f.d.toNat gs p (xs.map (vrejValue mode l.modulus))).setS f.a.toNat
        (BitVec.ofNat 64 (p + xs.length)))
    else none
  else if f.a = 0 ∧ n * (if mode < 2 then 2 else 6) / (if mode = 1 then 6 else 3) ≤ min cap 256 then
    some (l.withPerms (l.squeezePerms n) (fun l =>
      let q := l.squeeze r n
      let cs := vrejCands mode (q.1.map (fun b => (List.range l.hash.kshares.length).foldl (fun acc k => acc ^^^ b k) 0))
      let l1 := q.2.groupWrite f.d.toNat gs 0
        (cs.map (fun c => if vrejAccept mode c then vrejValue mode l.modulus c else c))
      l1.setM f.km.toNat (packMask (fun j =>
        match cs[j]? with | some c => vrejAccept mode c | none => bit (l.mr f.km.toNat) j))))
  else none

/-! ### SHA-2 (R209) -/

/-- The SHA-2 function in force has 64-byte blocks. -/
def Lve.hSmall (l : Lve) : Bool := decide (l.hash.hfun < 2)
/-- The block size of the SHA-2 function in force. -/
def Lve.hBlk (l : Lve) : Nat := if l.hSmall then 64 else 128

/-- HINIT: the IV of SUB. -/
def lveHinit (f : LveFields) (l : Lve) : Option Lve :=
  some { l with hash := { l.hash with hstate := sha2Iv f.sub.toNat, hfun := f.sub.toNat } }

/-- Compress blocks of a byte string. -/
def Lve.compress (l : Lve) (n : Nat) (bs : List Byte) : Lve :=
  { l with hash := { l.hash with hstate := sha2Blocks l.hSmall l.hBlk n l.hash.hstate bs } }

/-- The bytes of `n` registers from `k`. -/
def Lve.regBytes (l : Lve) (k n : Nat) : List Byte :=
  (List.range (256 * n)).map (fun i => BitVec.ofNat 8 (elemN 8 (l.vr (k + i / 256)) (i % 256)))

/-- HBLK: IMM[1:0] + 1 blocks from V[A] onward. -/
def lveHblk (f : LveFields) (l : Lve) : Option Lve :=
  let n := f.imm.toNat % 4 + 1
  let k := cdiv (n * l.hBlk) 256
  if f.a.toNat + k ≤ 32 then some (l.compress n (l.regBytes f.a.toNat k)) else none

/-- HBLKM: IMM[7:0] + 1 blocks from S[A]. Only blocks wholly below a faulting byte are compressed (R210). -/
def lveHblkm (f : LveFields) (l : Lve) : Option Lve :=
  let n := f.imm.toNat + 1
  let base := (l.sr f.a.toNat).toNat
  let flt := l.byteFault base (n * l.hBlk)
  let m := (flt.getD (n * l.hBlk)) / l.hBlk
  some ((l.compress m ((List.range (m * l.hBlk)).map (l.byteAt base))).raiseAt flt)

/-- HOUT: V[D] bytes 0 to 63 = the chaining value, the rest zero. -/
def lveHout (f : LveFields) (l : Lve) : Option Lve :=
  some (l.setV f.d.toNat (packElems 8 256 (fun i => (l.hash.hstate.getD i 0).toNat)))

/-- HLOAD: the chaining value = V[A] bytes 0 to 63. -/
def lveHload (f : LveFields) (l : Lve) : Option Lve :=
  some { l with hash := { l.hash with hstate := (l.regBytes f.a.toNat 1).take 64 } }

end Sys2Proof.Machine
end

