-- ==== Sys2Proof/Machine/LveMask.lean ====
section
/-! DEFINITION. The sampling and masked instructions of the LVE (R205, R207, R208). The fresh shares of a masking
instruction are free values; its remaining share is what makes the output recombine to the value R207 binds. -/

namespace Sys2Proof.Machine

/-- Element `i` of share `k` of the group at register `base`. -/
def Lve.share (l : Lve) (base k i : Nat) : Nat := elemN l.sew (l.vr (base + k)) i

/-- The value a Boolean group of o + 1 shares recombines to. -/
def Lve.boolVal (l : Lve) (base o i : Nat) : Nat :=
  (List.range (o + 1)).foldl (fun acc k => acc ^^^ l.share base k i) 0

/-- The value an arithmetic group of o + 1 shares recombines to, modulo `md`. -/
def Lve.arithVal (l : Lve) (md base o i : Nat) : Nat :=
  (List.range (o + 1)).foldl (fun acc k => (acc + l.share base k i) % md) 0

/-- Write a group of o + 1 registers, active elements only, share `k` of element `i` being `g k i`. -/
def Lve.writeGroup (l : Lve) (f : LveFields) (o : Nat) (g : Nat → Nat → Nat) : Lve :=
  l.setVs f.d.toNat ((List.range (o + 1)).map (fun k => l.mapActive f (f.d.toNat + k) (g k)))

/-- Boolean shares of `x`, shares 1 to o fresh. -/
def Lve.boolShares (l : Lve) (r : LveRef) (o : Nat) (x : Nat → Nat) (k i : Nat) : Nat :=
  let fresh := fun j => elemN l.sew (l.fresh r j) i
  if k = 0 then (List.range o).foldl (fun acc j => acc ^^^ fresh (j + 1)) (x i) else fresh k

/-- Arithmetic shares of `x` modulo `md`, shares 1 to o fresh. -/
def Lve.arithShares (l : Lve) (r : LveRef) (md o : Nat) (x : Nat → Nat) (k i : Nat) : Nat :=
  let fresh := fun j => elemN l.sew (l.fresh r j) i % md
  if k = 0 then (List.range o).foldl (fun acc j => (acc + (md - fresh (j + 1))) % md) (x i % md) else fresh k

/-- A masked instruction that writes fresh Boolean shares of `x`. -/
def lveFreshBool (r : LveRef) (n : Nat) (f : LveFields) (l : Lve) (x : Nat → Nat) : Option Lve :=
  some (l.masking n (f.order + 1) (fun l => l.writeGroup f f.order (l.boolShares r f.order x)))

/-- A masked instruction that writes fresh arithmetic shares of `x`, where arithmetic shares are defined. -/
def lveFreshArith (r : LveRef) (n : Nat) (f : LveFields) (l : Lve) (x : Nat → Nat) : Option Lve :=
  if vtypeOk l.core.vtype l.core.lmod then
    some (l.masking n (f.order + 1) (fun l => l.writeGroup f f.order (l.arithShares r l.shareMod f.order x)))
  else none

/-- SPLIT: V[A] as Boolean shares. -/
def lveSplit (r : LveRef) (f : LveFields) (l : Lve) : Option Lve :=
  lveFreshBool r (f.order * l.maskW) f l (l.elA f)

/-- SPLITA: V[A] as arithmetic shares. -/
def lveSplita (r : LveRef) (f : LveFields) (l : Lve) : Option Lve :=
  lveFreshArith r (f.order * l.maskW) f l (l.elA f)

/-- JOIN: V[D] = XOR of V[A..A+o]. -/
def lveVjoin (f : LveFields) (l : Lve) : Option Lve :=
  some (l.setV f.d.toNat (l.mapActive f f.d.toNat (l.boolVal f.a.toNat f.order)))

/-- JOINA: V[D] = sum of V[A..A+o]. -/
def lveJoina (f : LveFields) (l : Lve) : Option Lve :=
  if vtypeOk l.core.vtype l.core.lmod then
    some (l.setV f.d.toNat (l.mapActive f f.d.toNat (l.arithVal l.shareMod f.a.toNat f.order)))
  else none

/-- BXOR, share by share. -/
def lveBxor (f : LveFields) (l : Lve) : Option Lve :=
  some (l.writeGroup f f.order (fun k i => l.share f.a.toNat k i ^^^ l.share f.b.toNat k i))

/-- BAND. First order: the two output shares that R207 writes out, with r fresh. Second order: fresh shares of x & y. -/
def lveBand (r : LveRef) (f : LveFields) (l : Lve) : Option Lve :=
  if f.order = 1 then
    some (l.masking l.maskW 1 (fun l =>
      let a := fun k i => l.share f.a.toNat k i
      let b := fun k i => l.share f.b.toNat k i
      let rr := fun i => elemN l.sew (l.fresh r 0) i
      l.writeGroup f 1 (fun k i =>
        if k = 0 then (a 0 i &&& b 0 i) ^^^ rr i
        else (a 1 i &&& b 1 i) ^^^ ((rr i ^^^ (a 0 i &&& b 1 i)) ^^^ (a 1 i &&& b 0 i)))))
  else
    lveFreshBool r (3 * l.maskW) f l (fun i => l.boolVal f.a.toNat 2 i &&& l.boolVal f.b.toNat 2 i)

/-- BNOT: the complement of share 0, the other shares copied. -/
def lveBnot (f : LveFields) (l : Lve) : Option Lve :=
  some (l.writeGroup f f.order (fun k i =>
    if k = 0 then 2 ^ l.sew - 1 - l.share f.a.toNat 0 i else l.share f.a.toNat k i))

/-- AADD, share by share. -/
def lveAadd (f : LveFields) (l : Lve) : Option Lve :=
  if vtypeOk l.core.vtype l.core.lmod then
    some (l.writeGroup f f.order (fun k i => (l.share f.a.toNat k i + l.share f.b.toNat k i) % l.shareMod))
  else none

/-- ASUB, share by share. -/
def lveAsub (f : LveFields) (l : Lve) : Option Lve :=
  if vtypeOk l.core.vtype l.core.lmod then
    some (l.writeGroup f f.order (fun k i =>
      (l.share f.a.toNat k i + (l.shareMod - l.share f.b.toNat k i % l.shareMod)) % l.shareMod))
  else none

/-- AMONT: fresh arithmetic shares of mont(x, V[B]), V[B] public. It is a modular instruction. -/
def lveAmont (r : LveRef) (f : LveFields) (l : Lve) : Option Lve :=
  if l.modOk then
    lveFreshArith r (f.order * l.maskW) f l
      (fun i => mont l.sew l.modulus (l.arithVal l.shareMod f.a.toNat f.order i) (l.elB f i))
  else none

/-- A2B: Boolean shares of the arithmetic x. -/
def lveA2b (r : LveRef) (f : LveFields) (l : Lve) : Option Lve :=
  if vtypeOk l.core.vtype l.core.lmod then
    lveFreshBool r (f.order * (l.logSew + 1) * l.maskW) f l (l.arithVal l.shareMod f.a.toNat f.order)
  else none

/-- B2A: arithmetic shares of the Boolean x. -/
def lveB2a (r : LveRef) (f : LveFields) (l : Lve) : Option Lve :=
  lveFreshArith r (f.order * (l.logSew + 1) * l.maskW) f l (l.boolVal f.a.toNat f.order)

/-- REFRESH: the Boolean value x with fresh shares. -/
def lveRefresh (r : LveRef) (f : LveFields) (l : Lve) : Option Lve :=
  lveFreshBool r (f.order * l.maskW) f l (l.boolVal f.a.toNat f.order)

/-- The centred binomial sample of element `i` from a bit stream, as a residue of `md` (R205). -/
def cbdSample (md eta : Nat) (s : Nat → Nat) (i : Nat) : Nat :=
  let x := (List.range eta).foldl (fun acc j => acc + s (2 * i * eta + j)) 0
  let y := (List.range eta).foldl (fun acc j => acc + s (2 * i * eta + eta + j)) 0
  (x + (md - y)) % md

/-- VCBD: unmasked from V[A]; masked, arithmetic shares of the same results from Boolean shares of the stream. With
MODSEL = 0 the samples are signed in SEW (R205). -/
def lveVcbd (r : LveRef) (f : LveFields) (l : Lve) : Option Lve :=
  let eta := f.imm.toNat
  if vtypeOk l.core.vtype l.core.lmod then
    if bit f.sub 0 then
      let o := b2n (bit f.sub 1) + 1
      let s := fun (j : Nat) => (List.range (o + 1)).foldl (fun acc k => acc ^^^ (l.vr (f.a.toNat + k)).toNat >>> j % 2) 0 % 2
      some (l.masking ((if o = 1 then 2 else 6) * l.maskW) (o + 1) (fun l =>
        l.writeGroup f o (l.arithShares r l.shareMod o (cbdSample l.shareMod eta s))))
    else
      let s := fun (j : Nat) => (l.vr f.a.toNat).toNat >>> j % 2
      some (l.setV f.d.toNat (l.mapActive f f.d.toNat (cbdSample l.shareMod eta s)))
  else none

end Sys2Proof.Machine
end

