-- ==== Sys2Proof/Machine/LveMem.lean ====
section
/-! DEFINITION. The LVE memory instructions of R200: unit stride, pitch, fielded, indexed, and the key load. -/

namespace Sys2Proof.Machine

/-- The element size in bytes. -/
def Lve.esize (l : Lve) : Nat := l.sew / 8

/-- A load of one register with element addresses `addr`. -/
def Lve.loadInto (l : Lve) (f : LveFields) (addr : Nat → Nat) : Lve :=
  let ok := fun i => l.loadOk (addr i) l.esize
  (l.setV f.d.toNat (l.loadReg f f.d.toNat ok addr)).raiseAt (l.faultAt f ok)

/-- A store of one register with element addresses `addr`. -/
def Lve.storeFrom (l : Lve) (f : LveFields) (addr : Nat → Nat) : Lve :=
  let ok := fun i => l.storeOk (addr i) l.esize
  (l.storeRegs f ok (fun i => [(addr i, elemN l.sew (l.vr f.d.toNat) i)])).raiseAt (l.faultAt f ok)

/-- Unit stride: base + i·esize. -/
def Lve.unitAddr (l : Lve) (f : LveFields) (i : Nat) : Nat := addr64 (l.base f + i * l.esize)
/-- Pitch: base + i·S[B], S[B] signed, modulo 2^64. -/
def Lve.pitchAddr (l : Lve) (f : LveFields) (i : Nat) : Nat := addr64 (l.base f + i * (l.sr f.b.toNat).toNat)
/-- Fielded: base + (i·NF + k)·esize. -/
def Lve.fieldAddr (l : Lve) (f : LveFields) (k i : Nat) : Nat :=
  addr64 (l.base f + (i * f.sub.toNat + k) * l.esize)
/-- Indexed: base + V[B][i]. -/
def Lve.indexAddr (l : Lve) (f : LveFields) (i : Nat) : Nat := addr64 (l.base f + elemN l.sew (l.vr f.b.toNat) i)

/-- VLDU. -/
def lveVldu (f : LveFields) (l : Lve) : Option Lve := some (l.loadInto f (l.unitAddr f))
/-- VSTU. -/
def lveVstu (f : LveFields) (l : Lve) : Option Lve := some (l.storeFrom f (l.unitAddr f))
/-- VLDP. -/
def lveVldp (f : LveFields) (l : Lve) : Option Lve := some (l.loadInto f (l.pitchAddr f))
/-- VSTP. -/
def lveVstp (f : LveFields) (l : Lve) : Option Lve := some (l.storeFrom f (l.pitchAddr f))

/-- VLDF: field k of record i to V[D+k][i]; a record is one element for the fault rules (R200, R210). -/
def lveVldf (f : LveFields) (l : Lve) : Option Lve :=
  let nf := f.sub.toNat
  let ok := fun i => (List.range nf).all (fun k => l.loadOk (l.fieldAddr f k i) l.esize)
  some ((l.setVs f.d.toNat ((List.range nf).map (fun k =>
    l.loadReg f (f.d.toNat + k) ok (l.fieldAddr f k)))).raiseAt (l.faultAt f ok))

/-- VSTF: V[D+k][i] to field k of record i. -/
def lveVstf (f : LveFields) (l : Lve) : Option Lve :=
  let nf := f.sub.toNat
  let ok := fun i => (List.range nf).all (fun k => l.storeOk (l.fieldAddr f k i) l.esize)
  some ((l.storeRegs f ok (fun i => (List.range nf).map (fun k =>
    (l.fieldAddr f k i, elemN l.sew (l.vr (f.d.toNat + k)) i)))).raiseAt (l.faultAt f ok))

/-- VGATHER. -/
def lveVgather (f : LveFields) (l : Lve) : Option Lve := some (l.loadInto f (l.indexAddr f))
/-- VSCATTER: the highest index prevails, since stores go in ascending order. -/
def lveVscatter (f : LveFields) (l : Lve) : Option Lve := some (l.storeFrom f (l.indexAddr f))

/-- VKLD: V[D] byte k = key byte 256·IMM + k, or zero beyond KEY_LEN. -/
def lveVkld (key : List Byte) (f : LveFields) (l : Lve) : Option Lve :=
  some (l.setV f.d.toNat (packElems 8 256 (fun k =>
    if 256 * f.imm.toNat + k < l.jr.keyLen then (key.getD (256 * f.imm.toNat + k) 0).toNat else 0)))

end Sys2Proof.Machine
end

