-- ==== Sys2Proof/Machine/LveValid.lean ====
section
/-! DEFINITION. What makes an LVE instruction valid beyond its word: the type, the modulus and the state of the hash units that it meets (R189, R198,
R203, R204, R206, R209, R218). -/

namespace Sys2Proof.Machine

/-- The twiddles of VBFLY lie in the table of the modulus in force (R203). -/
def Lve.bflyOk (l : Lve) (f : LveFields) : Bool :=
  let t := f.imm.toNat % 8
  let tm := twiddleMod t
  l.modOk && l.modulus == tm.1 && l.sew == tm.2.2 && decide (f.imm.toNat / 8 % 256 + (l.vlmax - 1) / 2 ^ (f.imm.toNat / 2048 % 16) < tm.2.1) && decide (t ≤ 4)

/-- Those of VBMUL, without the parity of VL. -/
def Lve.bmulOk (l : Lve) (f : LveFields) : Bool :=
  l.modOk && l.modulus == 3329 && decide (f.imm.toNat / 8 % 256 + (l.vlmax / 2 - 1) / 2 ^ (f.imm.toNat / 2048 % 16) < 128)

/-- VREJ in the form that PUBLIC selects (R206). -/
def Lve.vrejOk (l : Lve) (f : LveFields) : Bool :=
  let mode := f.imm.toNat % 16
  let n := f.imm.toNat / 16 % 16 * l.kRate
  let cap := 2 ^ (f.imm.toNat / 256) * l.vlmax
  l.hash.ksqueeze && l.modOk
    && (if l.hash.kpublic then decide (f.km = 0)
        else decide (f.a = 0) && decide (n * (if mode < 2 then 2 else 6) / (if mode = 1 then 6 else 3) ≤ min cap 256))

/-- The instruction is valid in the state it meets. -/
def Lve.ready (l : Lve) (o : LveOp) (f : LveFields) : Bool :=
  match o with
  | .vsettype => vtypeOk (f.imm.truncate 4) l.core.lmod
  | .madd | .msub | .mneg | .mred | .mmont | .mbar | .tomont => l.modOk
  | .cmpr | .dcmpr => decide (l.modulus = 3329) && l.modOk
  | .p2r | .decomp => l.modOk && l.modulus == qDsa
  | .vbfly => l.bflyOk f
  | .vbmul => l.bmulOk f
  | .zip | .unzip => decide (2 ^ f.imm.toNat ≤ l.vlmax / 2)
  | .brev => decide (2 ^ f.imm.toNat ≤ l.vlmax)
  | .vpack => decide (f.d.toNat + cdiv (l.core.vl * f.imm.toNat) 2048 ≤ 32)
  | .vunpack => decide (f.a.toNat + cdiv (l.core.vl * f.imm.toNat) 2048 ≤ 32)
  | .splita | .joina | .aadd | .asub | .a2b | .b2a | .vcbd => vtypeOk l.core.vtype l.core.lmod
  | .amont => l.modOk && vtypeOk l.core.vtype l.core.lmod
  | .kabs => !l.hash.ksqueeze && decide (f.a.toNat + l.kOrder < 32)
  | .kabsm | .kfin => !l.hash.ksqueeze
  | .vxof => l.hash.ksqueeze && decide (f.d.toNat + l.kOrder < 32)
  | .kload => decide (f.imm.toNat < l.kRate)
  | .vrej => l.vrejOk f
  | .hblk => decide (f.a.toNat + cdiv ((f.imm.toNat % 4 + 1) * l.hBlk) 256 ≤ 32)
  | .nop | .lend | .loop | .loopi | .setvl | .vsetmod | .setout | .vaccept | .sli | .salu | .salui | .sjr | .vldu | .vstu | .vldp | .vstp
  | .vldf | .vstf | .vgather | .vscatter | .vkld | .valu | .vcmp | .malu | .vmerge | .slideup | .slidedn | .bmt | .vcompress | .split
  | .vjoin | .bxor | .band | .bnot | .refresh | .kinit | .ksave | .hinit | .hblkm | .hout | .hload => true

end Sys2Proof.Machine
end

