-- ==== Sys2Proof/Machine/ProgramText.lean ====
section
/-! DEFINITION. The image of an owner program and its checks (R217, R218, R339): its header, its regions, its text, its signature. -/

namespace Sys2Proof.Machine

/-! ### The header (R217, R339) -/

/-- The regions of an image: field of the offset, offset, field of the length, length. -/
def imageRegions (img : List Byte) : List (Nat × Nat × Nat × Nat) :=
  let f (o : Nat) : Nat := fieldLe img o 4
  [(20, f 20, 32, f 32), (24, f 24, 36, f 36), (28, f 28, 40, f 40), (44, f 44, 48, fieldLe img 48 2)]

/-- Two ranges have a byte in common. -/
def overlaps (a b : Nat × Nat × Nat × Nat) : Bool :=
  decide (0 < a.2.2.2) && decide (0 < b.2.2.2) && decide (a.2.1 < b.2.1 + b.2.2.2) && decide (b.2.1 < a.2.1 + a.2.2.2)

/-- The offset of the first region that is misplaced: off its boundary, out of the window, or over an earlier one. -/
def regionFail (img : List Byte) : Option Nat :=
  let rs := imageRegions img
  (rs.zipIdx.find? (fun (p : (Nat × Nat × Nat × Nat) × Nat) =>
    decide (p.1.2.1 % 64 ≠ 0) || decide (fieldLe img 16 4 < p.1.2.1 + p.1.2.2.2) || (rs.take p.2).any (fun r => overlaps r p.1))).map (fun p => p.1.1)

/-- The offset of the first transform word that fails (R339). -/
def xformFail (img : List Byte) : Option Nat :=
  if hasXform img then
    ([(0, 32), (1, 36), (2, 40)].find? (fun (p : Nat × Nat) =>
      let w : W32 := BitVec.ofNat 32 (fieldLe (imageConst img) (4 + 4 * p.1) 4)
      !(xformOk w && (xformWord w).fits (fieldLe img p.2 4)))).map (fun p => 64 + 8 * fieldLe img 10 2 + 4 + 4 * p.1)
  else none

/-- The offset of the first header field out of range (R218 check 2). A length of the image that is not IN_LEN is told at INSTR_COUNT. -/
def headerFail (img : List Byte) : Option Nat :=
  let f (o n : Nat) : Nat := fieldLe img o n
  if img.take 4 ≠ [0x56, 0x4F, 0x50, 0x31] then some 0
  else if f 4 2 ≠ 1 then some 4
  else if 0x3F < f 6 1 then some 6
  else if f 7 1 ≠ 0 then some 7
  else if 0x1000 ≤ f 8 2 ∧ f 8 2 ≠ 0xFFFF then some 8
  else if 1536 < f 10 2 ∨ img.length ≠ 64 + 8 * f 10 2 + f 48 2 + 4627 then some 10
  else if f 16 4 % 4096 ≠ 0 ∨ 0x80000 < f 16 4 then some 16
  else match regionFail img with
    | some o => some o
    | none =>
      if 8192 < f 48 2 then some 48
      else if 4096 < f 50 2 then some 50
      else if f 52 2 = 0 then some 52
      else if f 56 8 ≠ 0 then some 56
      else xformFail img

/-! ### What the program text fixes (R188, R189, R218 check 4) -/

/-- The public state that validity rests on, as one walk reaches an instruction. -/
structure LveAbs where
  vtype : BitVec 4
  lmod : W32
  kpub : Bool
  kord : Nat
  kfun : Nat
  ksq : Bool
  hfun : Nat
  deriving DecidableEq, Repr

/-- At the start of a job (R185). -/
def LveAbs.start : LveAbs := ⟨0, 0, true, 0, 0, false, 0⟩

/-- An engine in that state, VL at its largest. -/
def LveAbs.engine (a : LveAbs) (rg : LveRegions) : Lve :=
  { Lve.clear with
    core := { LveCore.fresh with vtype := a.vtype, lmod := a.lmod, vl := 2048 / sewOf a.vtype }
    hash := { LveHash.fresh with kshares := List.replicate (a.kord + 1) 0, kpublic := a.kpub, kfun := a.kfun, ksqueeze := a.ksq, hfun := a.hfun }
    regions := rg }

/-- What the text says of a scalar: nothing, its value (`true`), or an upper bound. -/
abbrev ScalarAbs := Option (Bool × Nat)

/-- What is known on entry to an instruction. -/
structure WalkAt where
  states : List LveAbs
  sc : List ScalarAbs
  deriving DecidableEq, Repr

/-- The exact value of a scalar. -/
def exactOf (x : ScalarAbs) : Option W64 :=
  match x with
  | some (true, v) => some (BitVec.ofNat 64 v)
  | _ => none

/-- The PUBLIC values after a KABSM (R188): as before where every byte that it may read lies in a read-only region or in the KPC aperture, 0 where none of them
does for certain, either where the text does not tell. -/
def kabsmPub (rg : LveRegions) (f : LveFields) (sc : List ScalarAbs) (p : Bool) : List Bool :=
  if !p then [false]
  else
    match exactOf (sc.getD f.a.toNat none), sc.getD f.b.toNat none with
    | some a, some (_, n) =>
      let base := (a.toNat + f.imm.signExtend 64).toNat
      let inside (o m : Nat) : Bool := decide (o ≤ base) && decide (base + n ≤ o + m)
      if inside rg.inOff rg.inMax || inside rg.auxOff rg.auxMax || inside rg.constOff rg.constLen || decide (kpcBase ≤ base) then [true]
      else [true, false]
    | _, _ => [true, false]

/-- The states after an instruction. -/
def LveAbs.after (rg : LveRegions) (o : LveOp) (f : LveFields) (sc : List ScalarAbs) (a : LveAbs) : List LveAbs :=
  match o with
  | .vsettype => [{ a with vtype := f.imm.truncate 4 }]
  | .vsetmod => [{ a with lmod := f.imm32 }]
  | .kinit => [{ a with kpub := !bit f.sub 7, kord := if bit f.sub 7 then b2n (bit f.sub 6) + 1 else 0, kfun := f.sub.toNat % 8, ksq := false }]
  | .kabs => [{ a with kpub := false }]
  | .kabsm => (kabsmPub rg f sc a.kpub).map (fun p => { a with kpub := p })
  | .kfin => [{ a with ksq := true }]
  | .kload => [{ a with kpub := false, kord := 0, ksq := false }]
  | .hinit => [{ a with hfun := f.sub.toNat }]
  | _ => [a]

/-- A job register as far as the text fixes it (R199). -/
def jobRegAbs (rg : LveRegions) (vlmax k : Nat) : ScalarAbs :=
  match k with
  | 0x0 => some (false, rg.inMax)
  | 0x1 => some (false, rg.auxMax)
  | 0x8 => some (true, vlmax)
  | 0x9 => some (true, rg.inOff)
  | 0xA => some (true, rg.auxOff)
  | 0xB => some (true, rg.outOff)
  | 0xC => some (true, rg.constOff)
  | 0xD => some (true, rg.winSize)
  | _ => none

/-- A scalar operation on what is known: exact on exact operands; MINU is bounded by either. -/
def scalarAbs (op : Nat) (a b : ScalarAbs) : ScalarAbs :=
  match exactOf a, exactOf b with
  | some x, some y => some (true, (scalarOp op x y).toNat)
  | _, _ =>
    if op = 8 then
      (match a, b with
      | some x, some y => some (false, min x.2 y.2)
      | some x, none => some (false, x.2)
      | none, some y => some (false, y.2)
      | none, none => none)
    else none

/-- The scalars after an instruction. -/
def scalarsAfter (rg : LveRegions) (o : LveOp) (f : LveFields) (vlmax : Nat) (sc : List ScalarAbs) : List ScalarAbs :=
  let rd (k : Nat) : ScalarAbs := sc.getD k none
  match o with
  | .sli => sc.set f.d.toNat (some (true, (f.imm32.signExtend 64).toNat))
  | .salu => sc.set f.d.toNat (scalarAbs f.sub.toNat (rd f.a.toNat) (rd f.b.toNat))
  | .salui => sc.set f.d.toNat (scalarAbs f.sub.toNat (rd f.a.toNat) (some (true, f.imm.toNat)))
  | .sjr => sc.set f.d.toNat (jobRegAbs rg vlmax f.sub.toNat)
  | .setvl => sc.set f.d.toNat (scalarAbs 8 (rd f.a.toNat) (some (true, vlmax)))
  | .vrej => sc.set f.a.toNat none
  | _ => sc

/-- Two descriptions of a scalar as one. -/
def ScalarAbs.join (a b : ScalarAbs) : ScalarAbs := if a = b then a else none

/-- What arrives at an instruction joins what is known there. -/
def WalkAt.join (x : Option WalkAt) (y : WalkAt) : Option WalkAt :=
  match x with
  | none => some y
  | some x => some ⟨x.states ++ (y.states.filter (fun a => !x.states.contains a)), (x.sc.zip y.sc).map (fun p => ScalarAbs.join p.1 p.2)⟩

/-! ### The walk -/

/-- A decoded text. -/
abbrev LveText := List (Option (LveOp × LveFields))

/-- The loop bodies of a text: index of the LOOP, first and last index of its body. -/
def loopsOf (t : LveText) : List (Nat × Nat × Nat) :=
  (t.zipIdx).filterMap (fun (p : Option (LveOp × LveFields) × Nat) =>
    match p.1 with
    | some (.loop, f) => some (p.2, p.2 + 1, p.2 + f.imm.toNat % 4096)
    | some (.loopi, f) => some (p.2, p.2 + 1, p.2 + f.imm32.toNat % 4096)
    | _ => none)

/-- Where control may go after the instruction at `p` has ended (R199): the next one, and the first of every body that ends at `p`. -/
def followers (ls : List (Nat × Nat × Nat)) (p : Nat) : List Nat :=
  (p + 1) :: (ls.filter (fun (l : Nat × Nat × Nat) => decide (l.2.2 = p))).map (fun l => l.2.1)

/-- Where control may go from an instruction: a body may run zero times. -/
def successors (ls : List (Nat × Nat × Nat)) (p : Nat) (i : Option (LveOp × LveFields)) : List Nat :=
  match i with
  | some (.loop, f) => (p + 1) :: followers ls (p + f.imm.toNat % 4096)
  | some (.loopi, f) => (p + 1) :: followers ls (p + f.imm32.toNat % 4096)
  | some (.lend, f) => if bit f.sub 0 then [f.imm.toNat % 65536] else []
  | _ => followers ls p

/-- One walk over the text: what each instruction leaves joins its successors. -/
def walkOnce (rg : LveRegions) (ls : List (Nat × Nat × Nat)) (t : LveText) (known : List (Option WalkAt)) : List (Option WalkAt) :=
  (t.zipIdx).foldl (fun (k : List (Option WalkAt)) (p : Option (LveOp × LveFields) × Nat) =>
    match k.getD p.2 none with
    | none => k
    | some w =>
      let out : WalkAt :=
        match p.1 with
        | none => w
        | some (o, f) =>
          ⟨(w.states.flatMap (LveAbs.after rg o f w.sc)).eraseDups,
           scalarsAfter rg o f (2048 / sewOf ((w.states.head?.map LveAbs.vtype).getD 0)) w.sc⟩
      (successors ls p.2 p.1).foldl (fun (k : List (Option WalkAt)) q => k.modify q (fun x => WalkAt.join x out)) k) known

/-- Walk until nothing changes. -/
def walk (rg : LveRegions) (ls : List (Nat × Nat × Nat)) (t : LveText) (n : Nat) (known : List (Option WalkAt)) : List (Option WalkAt) :=
  match n with
  | 0 => known
  | n + 1 =>
    let k := walkOnce rg ls t known
    if k = known then k else walk rg ls t n k

/-- The nesting and body rules of R199 for a loop: within the text before END, inside the body that encloses it, at most four deep. -/
def loopOk (ls : List (Nat × Nat × Nat)) (n p : Nat) : Bool :=
  match ls.find? (fun (l : Nat × Nat × Nat) => decide (l.1 = p)) with
  | none => true
  | some l =>
    let outer := ls.filter (fun (m : Nat × Nat × Nat) => decide (m.2.1 ≤ p) && decide (p ≤ m.2.2))
    decide (l.2.2 + 1 < n) && outer.all (fun m => decide (l.2.2 ≤ m.2.2)) && decide (outer.length ≤ 3)

/-- END is last and nowhere else, and its restart index lies before it and outside every body (R214). -/
def endOk (ls : List (Nat × Nat × Nat)) (n p : Nat) (i : Option (LveOp × LveFields)) : Bool :=
  match i with
  | some (.lend, f) =>
    let r := f.imm.toNat % 65536
    decide (p + 1 = n) && (!bit f.sub 0 || (decide (r + 1 < n) && ls.all (fun (l : Nat × Nat × Nat) => !(decide (l.2.1 ≤ r) && decide (r ≤ l.2.2)))))
  | _ => decide (p + 1 ≠ n)

/-- The instruction at `p` passes check 4 with what is known there. -/
def instrOk (rg : LveRegions) (ls : List (Nat × Nat × Nat)) (n p : Nat) (i : Option (LveOp × LveFields)) (w : Option WalkAt) : Bool :=
  match i with
  | none => false
  | some (o, f) =>
    loopOk ls n p && endOk ls n p i
      && (match w with
          | none => true
          | some w =>
            w.states.all (fun a => (a.engine rg).ready o f && decide (some a.vtype = w.states.head?.map LveAbs.vtype)))

/-- The regions that an image declares. -/
def imageRegs (img : List Byte) : LveRegions :=
  let f (o n : Nat) : Nat := fieldLe img o n
  ⟨f 16 4, f 20 4, f 32 4, f 24 4, f 36 4, f 28 4, f 40 4, f 44 4, f 48 2⟩

/-- The instructions of an image. -/
def imageText (img : List Byte) : List W64 := (List.range (fieldLe img 10 2)).map (fun i => BitVec.ofNat 64 (fieldLe img (64 + 8 * i) 8))

/-- The first instruction that fails check 4 (R218). -/
def textFail (rg : LveRegions) (ws : List W64) : Option Nat :=
  let t : LveText := ws.map lveDecode
  let ls := loopsOf t
  let known := walk rg ls t 4096 ((t.map (fun _ => (none : Option WalkAt))).set 0 (some ⟨[LveAbs.start], List.replicate 16 (some (true, 0))⟩))
  (((t.zip known).zipIdx).find? (fun (p : (Option (LveOp × LveFields) × Option WalkAt) × Nat) => !instrOk rg ls ws.length p.2 p.1.1 p.1.2)).map Prod.snd

/-! ### The signature (R217, R218 check 1) -/

/-- The signature of an image verifies under the program key's public key: ML-DSA-87 with the context of R217. -/
def imageSigned (pub img : List Byte) : Bool :=
  let m := img.length - 4627
  decide (64 + 4627 ≤ img.length) && mldsaVerify pub (ascii "VQ-PROGRAM") (img.take m) (img.drop m)

/-- An active program verifies again at a boot (R219): its signature, its header and its text. -/
def OwnerProgram.verifies (p : OwnerProgram) : Bool :=
  imageSigned p.key p.image && (headerFail p.image).isNone && (textFail (imageRegs p.image) (imageText p.image)).isNone

end Sys2Proof.Machine
end

