-- ==== Sys2Proof/Machine/Boot.lean ====
section
/-! DEFINITION. COLD and WARM reset entry (R510 to R512), the boot sequence (R491 to R495), the life-cycle decode at boot (R477, R485 to R489), the
outcome of an election (R382), and the end of boot at step 8. -/

namespace Sys2Proof.Machine

/-! ### Reset entry (R511, R512) -/

/-- A queue context after WARM reset or a reset of R43: its configuration kept, no longer bound to an instance (R146), DISABLED. -/
def Queue.kept (q : Queue) : Queue where
  ctx := { Queue.reset.ctx with
    rings := ⟨q.ctx.rings.ctrl &&& 0xFF3E#32, q.ctx.rings.sqBase, q.ctx.rings.cqBase, q.ctx.rings.shadow, q.ctx.rings.irq, 0, 0, 0, 0⟩ }
  aux := Queue.reset.aux

/-- A die at COLD (0) or WARM (1) reset entry, with what R512 and the register tables keep. -/
def Die.enterReset (x : Die) (kind cause : Nat) : Die :=
  let f := Die.inReset x.fuses cause kind
  if kind = 1 then
    { f with
      regs := x.regs.filter (fun (p : Nat × W32) => warmKept p.1)
      fcl := { x.fcl with handling := [] }
      tmn := { f.tmn with mv := x.tmn.mv, throttle := x.tmn.throttle, throttleEnd := x.tmn.throttle }
      pcr := { f.pcr with setMv := x.pcr.setMv }
      ports := f.ports
      queues := x.queues.map (fun (p : Nat × Queue) => (p.1, p.2.kept))
      tap := x.tap }
  else f

/-- A card port deactivated by a reset (R399, R512); its detect pin stays as it is. -/
def CardPort.atReset (p : CardPort) : CardPort := { CardPort.empty with detLow := p.detLow }

/-- The pins and the package's own flags at reset entry: READY and ALIVE low, the hold of FAULT_N in force (R445, R503, R505, R506). -/
def Pkg.atReset (p : Pkg) (cold : Bool) : Pkg :=
  { p with ready := false, alive := false, aliveFresh := false, fault := ⟨false, true, false⟩, lock := false, coldBoot := cold, serving := false,
           boundary := false, erased := p.erased && !cold, severes := if cold then 0 else p.severes }

/-- Instances end; a number whose record is HELD passes to HELD (R350). -/
def State.instsAtReset (s : State) : Assoc Inst :=
  (s.bbram.insts.filter (fun (p : Nat × InstRec) => p.2.held)).map (fun (p : Nat × InstRec) => (p.1, { Inst.free with code := .held }))

/-- COLD or WARM reset entry with a cause (R510, R511, R515): everything the package holds outside fuses, BBD, BBRAM and flash ends. -/
def State.enterReset (s : State) (kind cause : Nat) : State :=
  let cold := decide (kind = 0)
  let s' := { s with
    dies := s.dies.map (fun x => x.enterReset kind cause)
    hif := { Hif.reset with flrCount := if cold then 0 else s.hif.flrCount }
    msix := Msix.reset
    evr := Evr.reset
    waitTx := []
    insts := s.instsAtReset
    baton := Baton.reset
    alg := Alg.reset
    cards := ⟨s.cards.ports.map CardPort.atReset, none, false, Quorum.absent⟩
    bmp := { Bmp.empty with detLow := s.bmp.detLow }
    lcc := Lcc.reset
    bfi := Bfi.reset
    pkg := s.pkg.atReset cold }
  if cold then s' else s'.dieList.foldl (fun t d => t.count d CRU 0 0x118) s'

/-! ### The boot flash directory (R494) -/

/-- CRC-32 with the polynomial 0x04C11DB7, bits reflected, as the Ethernet standard computes it. -/
def crc32 (bs : List Byte) : Nat :=
  let step (c : Nat) (_ : Nat) : Nat := if c % 2 = 1 then c / 2 ^^^ 0xEDB88320 else c / 2
  (bs.foldl (fun c b => (List.range 8).foldl step (c ^^^ b.toNat)) 0xFFFFFFFF) ^^^ 0xFFFFFFFF

/-- A directory with valid MAGIC and CRC. -/
def dirValid (d : List Byte) : Bool :=
  decide (d.take 4 = [0x56, 0x51, 0x44, 0x31]) && decide (276 ≤ d.length) && decide (fieldLe d 272 4 = crc32 (d.take 272))

/-- SEQ of a directory. -/
def dirSeq (d : List Byte) : Nat := fieldLe d 8 4

/-- The sixteen entries. -/
def dirEntries (d : List Byte) : List DirEntry :=
  (List.range 16).map (fun i => ⟨fieldLe d (16 + 16 * i) 1, fieldLe d (17 + 16 * i) 1, fieldLe d (20 + 16 * i) 4, fieldLe d (24 + 16 * i) 4⟩)

/-- The copy the ROM uses: the valid one with the higher SEQ, copy 0 when equal. -/
def dirPick (b : BootIn) : Option (Nat × List Byte) :=
  match dirValid b.dir0, dirValid b.dir1 with
  | true, true => if dirSeq b.dir0 < dirSeq b.dir1 then some (1, b.dir1) else some (0, b.dir0)
  | true, false => some (0, b.dir0)
  | false, true => some (1, b.dir1)
  | false, false => none

/-- The image behind a directory entry. -/
def bootImage (b : BootIn) (i : Nat) : List Byte := ((b.firmware.find? (fun p => decide (p.1 = i))).map Prod.snd).getD []

/-- The patch packages of a die, in load order. -/
def bootPatches (b : BootIn) (d : Nat) : List (List Byte) := (b.patches.filter (fun p => decide (p.1 = d))).map Prod.snd

/-- The entry whose boot firmware step 3 boots: the active one, else the first CANDIDATE that verifies (R495). -/
def bootEntry (b : BootIn) (es : List DirEntry) : Option Nat :=
  let ok (t : Nat) (i : Nat) : Bool := decide ((es.getD i ⟨0, 0, 0, 0⟩).type = t) && Config.fwValid (bootImage b i)
  match (List.range 16).find? (ok 1) with
  | some i => some i
  | none => (List.range 16).find? (ok 6)

/-! ### Patch packages (R241 to R243) -/

/-- The five bytes of a microword: bits [39:36] zero, parity even over the 36 bits (R222, R241). -/
def parOk (w : Nat) : Bool := Microword.parOk (BitVec.ofNat 36 w) && decide (w < 2 ^ 36)

/-- What a set has loaded so far: patch RAM ranges with the microwords, vectors with their targets, vendor programs and their bytes. -/
structure PatchLoad where
  ranges : List (Nat × Nat)
  vectors : List (Nat × Nat)
  bytes : Nat
  wordsOk : Bool
  rangesOk : Bool
  ram : Assoc Microword
  vendor : Assoc (List W64)
  deriving DecidableEq, Repr

/-- Nothing. -/
def PatchLoad.empty : PatchLoad := ⟨[], [], 0, true, true, [], []⟩

/-- Read the records of an image from an offset: `n` of them. -/
def patchRecords (img : List Byte) : Nat → Nat → PatchLoad → PatchLoad
  | 0, _, l => l
  | n + 1, o, l =>
    let ty := fieldLe img o 1
    let cnt := fieldLe img (o + 2) 2
    let addr := fieldLe img (o + 4) 4
    if ty = 1 then
      let ws := (List.range cnt).map (fun i => fieldLe img (o + 8 + 5 * i) 5)
      patchRecords img n (o + 8 + 5 * cnt)
        { l with ranges := l.ranges ++ [(addr, cnt)], wordsOk := l.wordsOk && ws.all parOk,
                 ram := (ws.zipIdx).foldl (fun (m : Assoc Microword) p => Assoc.set m (addr + p.2) (BitVec.ofNat 36 p.1)) l.ram,
                 rangesOk := l.rangesOk && decide (addr + cnt ≤ 16384) &&
                   l.ranges.all (fun r => decide (r.1 + r.2 ≤ addr) || decide (addr + cnt ≤ r.1)) }
    else if ty = 2 then
      patchRecords img n (o + 12) { l with vectors := l.vectors ++ [(addr, fieldLe img (o + 8) 4)], rangesOk := l.rangesOk && decide (addr < 4096) }
    else if ty = 3 then
      patchRecords img n (o + 8 + 8 * cnt)
        { l with bytes := l.bytes + 8 * cnt,
                 vendor := Assoc.set l.vendor addr ((List.range cnt).map (fun i => BitVec.ofNat 64 (fieldLe img (o + 8 + 8 * i) 8))) }
    else { l with rangesOk := false }

/-- A vector target lies in ROM, or in a patch RAM range of the list; patch RAM follows the 65,536 microwords of ROM (R239). -/
def vectorOk (ranges : List (Nat × Nat)) (t : Nat) : Bool :=
  decide (t < 65536) || ranges.any (fun r => decide (65536 + r.1 ≤ t) && decide (t < 65536 + r.1 + r.2))

/-- MAGIC, FORMAT and reserved bytes of a clear header, for which R242 lists no check of their own: judged with DIE_UID. DESIGN CHOICE (log 145). -/
def patchHeaderOk (f : Fuses) (pkg : List Byte) : Bool :=
  decide (pkg.take 4 = [0x56, 0x4D, 0x50, 0x31]) && decide (fieldLe pkg 4 2 = 1) && decide (fieldLe pkg 6 2 = 0) && decide (fieldLe pkg 8 8 = f.uid.toNat)

/-- The image that a package decrypts to. -/
def patchImage (f : Fuses) (pkg : List Byte) : Option (List Byte) :=
  gcmOpen f.kpatch (slice pkg 16 12) (pkg.take 32) (slice pkg 32 (fieldLe pkg 28 4)) (slice pkg (32 + fieldLe pkg 28 4) 16)

/-- The records of an image, after those of the images before it. -/
def imageRecords (img : List Byte) (l : PatchLoad) : PatchLoad := patchRecords (img.take (img.length - 4627)) (fieldLe img 12 4) 16 l

/-- The outcome of one package of `n` whose patch RAM ranges together are `ranges`: the reason of R242, or the load so far with SVN and SET_SIZE. -/
def patchOne (f : Fuses) (ranges : List (Nat × Nat)) (n : Nat) (pkg : List Byte) (idx : Nat) (prev : Option (Nat × Nat)) (l : PatchLoad) :
    Nat × Option (Nat × Nat) × PatchLoad :=
  if !patchHeaderOk f pkg then (1, prev, l)
  else
    match patchImage f pkg with
    | none => (2, prev, l)
    | some img =>
      let body := img.take (img.length - 4627)
      if !mldsaVerify Config.sirvamosKey (ascii "VQ-PATCH") body (img.drop (img.length - 4627)) then (3, prev, l)
      else
        let svn := fieldLe img 8 1
        let size := fieldLe img 10 1
        if img.take 4 ≠ [0x56, 0x4D, 0x49, 0x31] ∨ slice img 4 4 ≠ slice Config.mRom 0 4 ∨ fieldLe img 9 1 ≠ idx ∨ fieldLe img 11 1 ≠ 0
          ∨ size ≠ n ∨ (match prev with | some p => decide (p ≠ (svn, size)) | none => false) = true then (4, prev, l)
        else
          let l' := imageRecords img l
          if !l'.rangesOk || !l'.vectors.all (fun v => vectorOk ranges v.2) then (5, prev, l') else if !l'.wordsOk then (6, prev, l')
          else if 634880 < l'.bytes then (7, prev, l') else (0, some (svn, size), l')

/-- The set of a die (R242, R243): ROM only where it has no package; the first failing check's reason rejects it, with nothing loaded. -/
def patchSet (f : Fuses) (pkgs : List (List Byte)) : PatchSet :=
  if pkgs = [] then { PatchSet.none with measure := sha384 [] }
  else
    let ranges := ((pkgs.filterMap (patchImage f)).foldl (fun l img => imageRecords img l) PatchLoad.empty).ranges
    let r := (pkgs.zipIdx).foldl (fun (a : Nat × Option (Nat × Nat) × PatchLoad) p =>
      if a.1 ≠ 0 then a else patchOne f ranges pkgs.length p.1 p.2 a.2.1 a.2.2) (0, none, PatchLoad.empty)
    let l := r.2.2
    if r.1 ≠ 0 then ⟨2, r.1, 0, 0, 0, 0, sha384 pkgs.flatten, 0, false, [], [], []⟩
    else ⟨1, 0, pkgs.length, (r.2.1.map Prod.fst).getD 0, (l.ranges.map Prod.snd).foldl (· + ·) 0, l.vectors.length, sha384 pkgs.flatten, 0, false,
      l.ram, l.vectors.foldl (fun (m : Assoc Nat) v => Assoc.set m v.1 v.2) [], l.vendor⟩

/-! ### Measurements (R315, R317) -/

/-- Change the MHA of a die. -/
def State.modMha (s : State) (d : Nat) (f : Mha → Mha) : State := s.modDie d (fun x => { x with mha := f x.mha })

/-- A refused command: RESULT and the count. -/
def State.mhaRefuse (s : State) (d : Nat) (r : BitVec 3) : State := (s.modMha d (fun m => { m with result := r })).count d MHA 0 0x114

/-- The hasher after a measurement of its own by the boot, a refresh or SEAL_CANDIDATE: so many ranges, closed. -/
def Mha.measured (ranges : List (List Byte)) : Mha := ⟨.done, 0, ranges.flatten, 0, 0, min 65535 ranges.length, sha384 ranges.flatten⟩

/-- Such a measurement ends: DONE. -/
def State.measures (s : State) (d : Nat) (ranges : List (List Byte)) : State := (s.modMha d (fun _ => Mha.measured ranges)).event d MHA 0 0

/-! ### Derivation (R149, R153) -/

/-- The derived values of a die from its DUS and its measurements. -/
def derive149 (dus mfw mmc : List Byte) : Derived :=
  let cdi0 := kdf dus "VQ-CDI" Config.mRom
  let cdi2 := kdf (kdf cdi0 "VQ-CDI" mfw) "VQ-CDI" mmc
  ⟨cdi0, cdi2, mldsaPk ((kdf cdi0 "VQ-DEVID" []).take 32), mldsaPk ((kdf cdi2 "VQ-ALIAS" []).take 32),
   (kdf cdi2 "VQ-SEAL" []).take 32, (kdf cdi2 "VQ-SEALID" []).take 4⟩

/-! ### Steps 1 to 6 on a die (R491, R492) -/

/-- The fence of an engine that fails its tests: cause SELFTEST (R492). -/
def Die.bootFence (d : Die) (e : Nat) : Die :=
  if e < 16 then
    { d with lves := d.lves.modify e (fun u => { u with eng := { u.eng with phase := .fenced }, svc := { u.svc with fence := 4 } }) }
  else if e < 20 then { d with bnes := d.bnes.modify (e - 16) (fun u => { u with svc := { u.svc with fence := 4 } }) }
  else { d with syes := d.syes.modify (e - 20) (fun u => { u with svc := { u.svc with fence := 4 } }) }

/-- Every engine of some class fails. -/
def classLost (fails : List Nat) : Bool :=
  (List.range 16).all fails.contains || [16, 17, 18, 19].all fails.contains || [20, 21].all fails.contains

/-- What a die meets in this boot; a die the operand does not describe fails. -/
def bootDieIn (b : BootIn) (d : Nat) : DieBoot := b.dies.getD d ⟨false, false, [], [], 0⟩

/-- Steps 4 to 6 of a die: patch set, derivation, the owner programs that verify again (R219), self-tests and its vote. -/
def Die.bootSteps (x : Die) (b : BootIn) (d : Nat) (fw : List Byte) (programs : Assoc OwnerProgram) : Die :=
  let m := bootDieIn b d
  let mfw := sha384 fw
  let ps := patchSet x.fuses (bootPatches b d)
  let blank := decide (lcCode x.fuses.lc = 0)
  let der := if m.puf && !blank then
      some (derive149 (kdf x.fuses.seed "VQ-DUS" (Config.pufKey d x.fuses.helper)) mfw ps.measure) else none
  let good := m.puf && decide (ps.state ≠ 2) && m.tests && !classLost m.engineFail
  let y := { x with
    patch := ps, programs := programs.filter (fun (p : Nat × OwnerProgram) => p.2.verifies)
    kvd := { x.kvd with derived := der, mfw := mfw, mmc := ps.measure, svnFw := Config.fwSvn fw % 256, svnMc := ps.svn }
    rng := ⟨m.tests, m.tests, m.tests, false, false, 0, 0, 0, 0, 0⟩
    mha := Mha.measured (bootPatches b d)
    tmn := { x.tmn with temp := some m.temp, tempMax := some m.temp }
    boot := { x.boot with
      step := if ps.state = 2 then 3 else if good then 6 else 5
      failed := if !m.puf then 1 else if ps.state = 2 then 4 else if good then 0 else 6
      reason := if ps.state = 2 then ps.reason else 0, pass := good } }
  m.engineFail.foldl Die.bootFence (y.setReg MHA 0 0x018 (y.reg MHA 0 0x018 ||| 1#32))

/-! ### The outcome of the election and step 8 -/

/-- The firmware write of BBD.TMP_CFG, which is kept in the battery domain: its entry covers the old value and the value written (R14, R419, R436). -/
def State.fwTmpCfg (s : State) (v : W32) : State :=
  ({ s with bbd := { s.bbd with tmpCfg := v &&& 0x1F1F1F1F#32 } }).offer
    { Offer.of 0 0 (0x1000 + BBD) (woff BBD 0 0x118) with digestOf := leBytes 4 s.bbd.tmpCfg.toNat ++ leBytes 4 v.toNat }

/-- A valid tamper configuration record (R419): MAGIC, FORMAT, reserved bytes zero, its signature under the owner key, and a SEQ not below the last one
accepted. -/
def tamperCfgOk (s : State) : Bool :=
  let r := s.store.tamperCfg
  decide (r.take 4 = [0x56, 0x54, 0x43, 0x31]) && decide (fieldLe r 4 2 = 1) && decide (fieldLe r 6 2 = 0) && decide (fieldLe r 28 4 = 0)
    && mldsaVerify s.store.ownerKey (ascii "VQ-TAMPER") (r.take 32) (r.drop 32) && decide (s.bbram.tmpSeq ≤ fieldLe r 8 4)

/-- The map, the cap and the enclosure configuration that firmware writes on every die, and the LOCK of the TMN and BBD pages (R419, R435, R436). -/
def State.writeTamperMap (s : State) : State :=
  let ok := tamperCfgOk s
  let r := s.store.tamperCfg
  let word (o : Nat) : W32 := BitVec.ofNat 32 (fieldLe r o 4)
  let m0 := if ok then flooredMap 0 (word 12) else shippedMap 0
  let m1 := if ok then flooredMap 1 (word 16) else shippedMap 1
  let seqNo := fieldLe r 8 4
  let s := if ok ∧ s.bbram.tmpSeq < seqNo then
      ({ s with bbram := { s.bbram with tmpSeq := seqNo } }).offer (Offer.of 0 0 0x9001 seqNo)
    else if !ok then s.offer (Offer.of 0 0 0x9002 seqNo) else s
  let s := s.dieList.foldl (fun t d =>
    let t := (t.fwWrite d TMN 0x100 m0).fwWrite d TMN 0x104 m1
    let t := if ok then t.fwWrite d TMN 0x108 (word 20 &&& 0x3071F#32) else t
    t.fwWrite d TMN 0x00C 1) s
  let s := { s with bbd := { s.bbd with map0 := m0, map1 := m1 } }
  (if ok then s.fwTmpCfg (word 24) else s).fwWrite 0 BBD 0x00C 1

/-- The offer that reports an entry of the tamper record (R428): RTC[47:16] in OBJECT, the die and ON_BATTERY in REQUESTER. -/
def recordOffer (e : TamperEntry) : Offer :=
  let resp := fieldLe e 9 1
  { Offer.of 4 (fieldLe e 10 1) (0x3000 + fieldLe e 8 1) (fieldLe e 2 4) with
    rid := BitVec.ofNat 16 (fieldLe e 10 1 % 8 + 256 * (resp / 4 % 2)), result := resp % 4, fromRecord := true }

/-- The first entries of a log session: BOOT, then what firmware held, the tamper record, its overflow (R428, R449, R453). -/
def State.openLog (s : State) : State :=
  let k := (s.die 0).kvd
  let held := s.alg.offers
  let chain := sha384 (ascii "VQ-ALGBOOT" ++ leBytes 8 (s.die 0).fuses.uid.toNat ++ leBytes 8 s.bbd.mono.toNat)
  let boot := { Offer.of 0 0 0x0001 (s.bbd.mono.toNat % 2 ^ 32) with result := s.lc, digestOf := k.mfw ++ k.mmc }
  let warm := if s.pkg.coldBoot then [] else [Offer.of 0 0 0x2002 0]
  let spill := if s.bbd.overflow = 0 then [] else [{ Offer.of 0 0 0x0007 s.bbd.overflow.toNat with fromRecord := true }]
  { s with alg := { s.alg with offers := [boot] ++ warm ++ held ++ s.bbd.record.map recordOffer ++ spill, chain := chain, stopped := false } }

/-- Dies that passed and dies that did not. -/
def State.passed (s : State) : List Nat := s.dieList.filter (fun d => (s.die d).boot.pass && decide ((s.die d).state = .booting))

/-- Step 8 up to the link: pages locked, the host link released from Detect (R45, R491). -/
def State.stepEight (s : State) : State :=
  let s := s.writeTamperMap
  let s := s.dieList.foldl (fun t d =>
    t.modDie d (fun x => if x.state = .running then { x with boot := { x.boot with step := 7 } } else x)) s
  { s with hif := { s.hif with link := .training } }

/-- A clean election with holder `h` (R382): the dies that failed or were absent are excluded, the log opens, and where the holder is not die 0 the package
stays in LOCK. -/
def State.cleanElection (s : State) (h code : Nat) (nonce : List Byte) (voters : List Nat) : State :=
  let pass := s.passed.filter (fun d => voters.contains d)
  let out := s.dieList.filter (fun d => !pass.contains d && !(decide (d = 0) && decide (h ≠ 0)))
  let s := s.dieList.foldl (fun t d => t.modDie d (fun x =>
    { x with state := if out.contains d then .excluded else .running })) s
  let set (l : List Nat) : Assoc Unit := (s.dieList.filter l.contains).map (fun d => (d, ()))
  let s := { s with baton := { s.baton with
    result := .clean, holder := some h, code := code, nonce := nonce, present := set voters, reachable := set pass, excluded := set out } }
  let s := if h = 0 then s else
    let t := s.allDies (fun x => { x with tmn := { x.tmn with gated := true } })
    { t with pkg := { t.pkg with lock := true } }
  (s.stepEight).openLog

/-- No vote is PASS (R382): no holder, LOCK, FAULT_N held low, no service. -/
def State.noHolder (s : State) (voters : List Nat) : State :=
  let s := s.dieList.foldl (fun t d => t.modDie d (fun x => { x with state := if d = 0 then .running else .excluded })) s
  let s := s.allDies (fun x => { x with tmn := { x.tmn with gated := true } })
  let s := { s with
    baton := { s.baton with result := .noHolder, holder := none, present := (s.dieList.filter voters.contains).map (fun d => (d, ())) }
    pkg := { s.pkg with lock := true, fault := { s.pkg.fault with noHolder := true } } }
  s.stepEight

/-! ### The boot of the package -/

/-- Step 1: the boot is counted in MONO, the BBRAM content is checked, a set LOCK flag is applied (R426, R428); every die's VCORE and job maps are set from its
ageing record (R472). The roster digest of a part whose content was lost comes from its fuse (R490). -/
def State.bootStepOne (s : State) : State :=
  let s := { s with bbd := { s.bbd with powered := true, mono := satInc s.bbd.mono, lost := s.bbd.lost || !s.bbd.powered, contentOk := true } }
  let s := if s.bbd.lost then
      let t := s.recordTamper 0x24 3 0
      { t with bbd := { t.bbd with lost := false, contentOk := false, lock := true, osk := none }
               bbram := { Bbram.empty with roster := ((t.die 0).fuses.roster).getD [] }
               pkg := { t.pkg with erased := true } }
    else s
  let s := { s with insts := s.instsAtReset, pkg := { s.pkg with lock := s.bbd.lock } }
  let s := s.allDies (fun x => { x with state := .booting, boot := { x.boot with step := 1 }, tmn := { x.tmn with gated := s.pkg.lock } })
  s.dieList.foldl (fun t d => t.pacerStart d) s

/-- The owner content of the BBRAM and the seal area go at a boot in DECOMMISSIONED (R488). -/
def State.clearOwner (s : State) : State :=
  { s with
    bbram := { s.bbram with insts := [], ownerRoot := ⟨0, []⟩, counters := [], roster := [], tmpSeq := 0 }
    store := { s.store with ownerKey := [], roster := none, tamperCfg := [], migration := [], programs := [] }
    insts := [] }

/-- Fuse fields with every unburned bit burned (R478): what they hold is overwritten. -/
def Fuses.scrap (f : Fuses) : Fuses :=
  { f with seed := List.replicate 48 0xFF, helper := List.replicate 512 0xFF, kpatch := List.replicate 32 0xFF, kpair := List.replicate 32 0xFF,
           cycLve := 0xFFFFFFFF, cycBne := 0xFFFF, vcoreBase := 0xFFFF, ownerDigest := some (List.replicate 32 0xFF),
           roster := some (List.replicate 32 0xFF), scrapDone := true }

/-- A boot that stops: the step that failed and its reason; the link stays in Detect, FAULT_N stays low (R489, R495). -/
def State.bootStops (s : State) (done failed reason : Nat) : State :=
  s.allDies (fun x => { x with boot := { x.boot with step := done, failed := failed, reason := reason } })

/-- A pending migration record is unwrapped under the new CDI_2, or discarded; either way it is erased and logged (R153). -/
def State.bootMigrate (s : State) : State :=
  if s.store.migration = [] then s
  else
    let cdi2 := ((s.die 0).kvd.derived.map Derived.cdi2).getD []
    let s' := { s with store := { s.store with migration := [] } }
    match kwpOpen ((kdf cdi2 "VQ-MIGRATE" []).take 32) s.store.migration with
    | some r => ((s'.modDie 0 (fun x => { x with kvd := { x.kvd with prevDsk := some (r.take 32, slice r 32 4) } })).event 0 KVD 0 3).offer (Offer.of 0 0 0x9003 0)
    | none => (s'.event 0 KVD 0 3).offer (Offer.of 0 0 0x9003 0)

/-- The bytes of a roster (R402). -/
def Roster.bytes (r : Roster) : List Byte :=
  [BitVec.ofNat 8 r.m, BitVec.ofNat 8 r.n] ++ r.check ++ r.entries.flatMap (fun e => e.cardId ++ e.keyDigest ++ [BitVec.ofNat 8 e.index])

/-- Its digest, as the BBRAM and ROSTER_FUSE keep it. -/
def Roster.digest (r : Roster) : List Byte := sha3256 r.bytes

/-- The roster in force after a boot: the one of the seal area where its digest is the BBRAM's (R402). -/
def State.bootRoster (s : State) : State :=
  { s with cards := { s.cards with roster := s.store.roster.filter (fun r => decide (r.digest = s.bbram.roster)), provisional := false } }

/-- Steps 2 to 6 with the images of the flash, then on a VQ-8100 the Baton without an election (R391), else the links begin to train. -/
def State.bootFrom (s : State) (i copy : Nat) (dir : List Byte) : State :=
  let b := s.flash
  let fw := bootImage b i
  let es := dirEntries dir
  let s : State := { s with
    bfi := { Bfi.reset with mode := 2, copy := copy, fallback := decide ((es.getD i ⟨0, 0, 0, 0⟩).type = 6), seq := dirSeq dir, entries := es }
    hif := { s.hif with subsys := Config.fwSubsys fw }
    dies := (s.dies.zipIdx).map (fun (p : Die × Nat) => p.1.bootSteps b p.2 fw s.store.programs) }
  let s := s.count 0 BFI 0 0x11C ((fw.length + ((b.patches.map (fun p => p.2.length)).foldl (· + ·) 0)) / 1024)
  let s := s.dieList.foldl (fun t d => if (t.die d).patch.state = 2 then t.recordTamper 0x21 2 d else t) s
  let s := if s.lc = 5 then s.clearOwner else s
  let s := (s.bootMigrate).bootRoster
  let s := s.dieList.foldl (fun t d => if (t.die d).boot.pass then t.pacerProbes d (bootDieIn b d).margins else t) s
  if s.nDies = 1 then
    (if (s.die 0).boot.pass then s.cleanElection 0 (lcCode (s.die 0).fuses.lc) [] [0] else s.noHolder [0])
  else s.allDies (fun x => { x with ports := x.ports.map (fun p => { p with state := .training }) })

/-- The boot sequence from step 1 (R491), with what the flash holds. -/
def State.boot (s : State) : State :=
  let s := s.bootStepOne
  if lcCode (s.die 0).fuses.lc = 6 then (s.allDies (fun x => { x with fuses := x.fuses.scrap })).bootStops 2 0 0
  else
    match dirPick s.flash with
    | none => s.bootStops 2 3 0xFF
    | some d =>
      match bootEntry s.flash (dirEntries d.2) with
      | none => s.bootStops 2 3 0xFF
      | some i => s.bootFrom i d.1 d.2

/-- A WARM reset that the device starts itself, with the boot that follows it (R510). -/
def State.warmReset (s : State) (cause : Nat) : State :=
  let s := s.enterReset 1 cause
  if s.pkg.pwrgood && s.pkg.perstN && !s.pkg.railsLow.contains 0 then s.boot else s

/-- A WARM source: while bits are being burned it waits for the current bit (R483). -/
def State.warmSource (s : State) (cause : Nat) : State :=
  match s.lcc.xfer with
  | some t => if t.phase = 2 then { s with lcc := { s.lcc with deferred := some cause } } else s.warmReset cause
  | none => s.warmReset cause

/-! ### Rows -/

/-- PWRGOOD rises: the boot runs unless a rail of die 0 is at RESET or PERST_N is low (R502). -/
def opPwrgoodRise (b : BootIn) (s : State) : State :=
  if s.pkg.pwrgood then s
  else
    let s := { s with flash := b, pkg := { s.pkg with pwrgood := true } }
    if s.pkg.railsLow.contains 0 || !s.pkg.perstN then s else s.boot

/-- PWRGOOD_RISE. -/
def execPwrgoodRise (b : BootIn) (s : State) : Host.Outcome State Fault Refusal := ret (opPwrgoodRise b s)

/-- The battery domain without main power: it is lost without VBAT too (R428). -/
def State.mainLost (s : State) : State :=
  if s.pkg.vbatMv = 0 then { s with bbd := { Bbd.off with lost := true }, bbram := Bbram.empty } else s

/-- PWRGOOD falls: COLD reset entry on every die (R502, R511). -/
def opPwrgoodFall (s : State) : State :=
  if s.pkg.pwrgood then
    let s := s.enterReset 0 1
    ({ s with pkg := { s.pkg with pwrgood := false } }).mainLost
  else s

/-- PWRGOOD_FALL. -/
def execPwrgoodFall (s : State) : Host.Outcome State Fault Refusal := ret (opPwrgoodFall s)

/-- PERST_N goes low while PWRGOOD is high: WARM reset entry, held (R502, R510), deferred to the end of a bit being burned (R483). A package held in COLD
reset stays there. -/
def opPerstNAssert (s : State) : State :=
  let t := { s with pkg := { s.pkg with perstN := false } }
  if s.pkg.pwrgood ∧ s.pkg.perstN ∧ !s.pkg.railsLow.contains 0 then t.warmSource 3 else t

/-- PERST_N_ASSERT. -/
def execPerstNAssert (s : State) : Host.Outcome State Fault Refusal := ret (opPerstNAssert s)

/-- PERST_N goes high: the boot starts where the reset is held by nothing else. -/
def opPerstNRelease (b : BootIn) (s : State) : State :=
  if s.pkg.perstN then s
  else
    let s := { s with flash := b, pkg := { s.pkg with perstN := true } }
    if s.pkg.pwrgood ∧ !s.pkg.railsLow.contains 0 ∧ (s.die 0).state = .inReset then s.boot else s

/-- PERST_N_RELEASE. -/
def execPerstNRelease (b : BootIn) (s : State) : Host.Outcome State Fault Refusal := ret (opPerstNRelease b s)

/-- A rail of a die falls to RESET (R421): on die 0 the package is held in COLD reset and the BBD records SUPPLY_RESET; another die is held in reset and falls
silent. -/
def opRailReset (d : Nat) (s : State) : State :=
  if s.nDies ≤ d then s
  else
    let low := if s.pkg.railsLow.contains d then s.pkg.railsLow else s.pkg.railsLow ++ [d]
    if d = 0 then
      let s := s.recordTamper 0x22 0 0
      let s := s.enterReset 0 2
      { s with pkg := { s.pkg with railsLow := low } }
    else
      { s.modDie d (fun x => { Die.inReset x.fuses 2 2 with queues := x.queues }) with pkg := { s.pkg with railsLow := low } }

/-- RAIL_RESET. -/
def execRailReset (d : Nat) (s : State) : Host.Outcome State Fault Refusal := ret (opRailReset d s)

/-- The rails of a die are above WARN again: the package boots from COLD reset; another die leaves its CRU's hold and may boot and rejoin (R387, R421). -/
def opRailRestored (d : Nat) (b : BootIn) (s : State) : State :=
  if !s.pkg.railsLow.contains d then s
  else
    let s := { s with flash := b, pkg := { s.pkg with railsLow := s.pkg.railsLow.filter (fun x => decide (x ≠ d)) } }
    if d = 0 then (if s.pkg.pwrgood ∧ s.pkg.perstN then s.boot else s) else s

/-- RAIL_RESTORED. -/
def execRailRestored (d : Nat) (b : BootIn) (s : State) : Host.Outcome State Fault Refusal := ret (opRailRestored d b s)

/-- The host link reaches L0: the function becomes ready at the end of step 8. READY rises, firmware releases the reset hold of FAULT_N, except in
INVALID (R485), and a DRS message goes out (R36, R45, R445, R506). -/
def opPcieLinkUp (speed width : Nat) (flit : Bool) (s : State) : State :=
  if s.hif.link ≠ .training then s
  else
    let s := { s with hif := { s.hif with
      link := .l0, speed := BitVec.ofNat 4 speed, trained := BitVec.ofNat 5 width, width := BitVec.ofNat 5 width, flit := flit || decide (speed = 6),
      drsSent := !s.hif.flrActive } }
    let s := if s.pkg.ready then s
      else
        let t := s.allDies (fun x => if x.state = .running then { x with boot := { x.boot with step := 8, time := Config.bootTime s.freeCtr } } else x)
        { t with freeCtr := t.freeCtr + 1
                 pkg := { t.pkg with ready := true, fault := { t.pkg.fault with resetHold := decide (t.lc = 0xF) } } }
    if s.hif.flrActive then s else s.send .drs

/-- PCIE_LINK_UP. -/
def execPcieLinkUp (speed width : Nat) (flit : Bool) (s : State) : Host.Outcome State Fault Refusal := ret (opPcieLinkUp speed width flit s)

end Sys2Proof.Machine
end

