-- ==== Sys2Proof/Machine/Board.lean ====
section
/-! DEFINITION. The burning of life-cycle bits (R482, R483), test access (R496, R497), boot flash programming (R495, R500), the Measurement Hasher (R315,
R316, R325) and the management port (R509). -/

namespace Sys2Proof.Machine

/-! ### Burning (R482, R483) -/

/-- A transition is burning and bits are left. -/
def burning (s : State) : Bool :=
  match s.lcc.xfer with
  | some t => decide (t.phase = 2) && !t.left.isEmpty
  | none => false

/-- Dies that take part in burning: the reachable ones. -/
def State.burnBit (s : State) (p : Nat) (but : Option Nat) : State :=
  s.dieList.foldl (fun t d =>
    t.modDie d (fun x => if x.reachable ∧ but ≠ some d then { x with fuses := { x.fuses with lc := x.fuses.lc ||| BitVec.ofNat 64 (2 ^ p) } } else x)) s

/-- A transition stops before its last bit: XFER.RESULT and the event of it. -/
def State.stopTransition (s : State) (t : Transition) (status : W16) (result ev : Nat) : State :=
  (({ s with lcc := { s.lcc with xfer := none, result := result, stop := none } }).event 0 LCC 0 ev).endTransitionJob t status

/-- The last bit is burned (R482): for SCRAPPED the overwrites (R489), the completion, event 0x7001, and the WARM reset to come. -/
def State.lastBit (s : State) (t : Transition) : State :=
  let old := s.lc
  let s := if t.target = 6 then s.allDies (fun x => { x with fuses := x.fuses.scrap }) else s
  let s := { s with lcc := { s.lcc with xfer := some { t with phase := 3, left := [], job := none }, result := 1 } }
  let s := (s.event 0 LCC 0 0).endTransitionJob t stOk
  s.offer { Offer.of 1 0 0x7001 t.target with digestOf := [BitVec.ofNat 8 old, BitVec.ofNat 8 t.target] }

/-- One bit is burned and confirmed on every die, after so many repeated burns (R482). What waits for the end of a bit then happens (R483). -/
def opLcBitBurned (retries : Nat) (s : State) : State :=
  match s.lcc.xfer with
  | none => s
  | some t =>
    match t.left with
    | [] => s
    | p :: rest =>
      if t.phase ≠ 2 then s
      else
        let s := (s.burnBit p none).count 0 LCC 0 0x11C retries
        let t' := { t with left := rest, done := t.done + 1 }
        let s := { s with lcc := { s.lcc with xfer := some t' } }
        let s := if rest.isEmpty then s.progress 0 LCC 0 t.total 1000
          else match t.job with
            | some p => s.pageStep p.1 p.2 LCC 0 (t.done + 2) t.total
            | none => s.progress 0 LCC 0 (t.done + 2) (min 990 (1000 * (t.done + 1) / max 1 t.total))
        match s.lcc.deferred with
        | some cause => s.warmReset cause
        | none =>
          match s.lcc.stop with
          | some st => s.stopTransition t' st 3 2
          | none => if rest.isEmpty then s.lastBit t' else s

/-- LC_BIT_BURNED. -/
def execLcBitBurned (retries : Nat) (s : State) : Host.Outcome State Fault Refusal := ret (opLcBitBurned retries s)

/-- A bit still reads unburned on a die after three more burns: the transition is abandoned with MACHINE_CHECK and BURN_FAIL (R482). -/
def opBurnFail (d : Nat) (s : State) : State :=
  match s.lcc.xfer with
  | none => s
  | some t =>
    match t.left with
    | [] => s
    | p :: _ =>
      if t.phase ≠ 2 then s
      else
        let s := ((s.burnBit p (some d)).count d LCC 0 0x11C 3).event d LCC 0 1
        ({ s with lcc := { s.lcc with xfer := none, result := 2, stop := none } }).endTransitionJob t stMachineCheck

/-- BURN_FAIL. -/
def execBurnFail (d : Nat) (s : State) : Host.Outcome State Fault Refusal := ret (opBurnFail d s)

/-- A completed transition awaits its reset. -/
def lcResetDue (s : State) : Bool :=
  match s.lcc.xfer with
  | some t => decide (t.phase = 3)
  | none => false

/-- t_lcreset after a completed transition the package performs a WARM reset; the new state is in force from that boot (R482). -/
def opLcResetTimer (s : State) : State := if lcResetDue s then s.warmReset 6 else s

/-- LC_RESET_TIMER. -/
def execLcResetTimer (s : State) : Host.Outcome State Fault Refusal := ret (opLcResetTimer s)

/-! ### Test access (R496, R497) -/

/-- Load an instruction register. -/
def State.loadTap (s : State) (d : Nat) (ir : TapIr) : State := s.modDie d (fun x => { x with tap := ir })

/-- From PERSONALISED onward, and in INVALID, a boundary instruction gates every key bus and holds the host link down (R496). -/
def State.boundaryHold (s : State) : State :=
  if s.lc = 0 ∨ s.lc = 1 then s
  else
    let s := s.allDies (fun x => { x with tmn := { x.tmn with gated := true } })
    { s with pkg := { s.pkg with boundary := true }, hif := { s.hif with link := .detect } }

/-- BYPASS. -/
def execTapBypass (d : Nat) (s : State) : Host.Outcome State Fault Refusal := ret (s.loadTap d 0xFF)

/-- The IDCODE of every die of a part (R496). -/
def idcode (p : Part) : Nat := Config.stepping.toNat % 16 * 2 ^ 28 + p.number * 2 ^ 12 + Config.jep106.toNat * 2 + 1

/-- IDCODE. -/
def execTapIdcode (d : Nat) (s : State) : Host.Outcome State Fault Refusal := ret ((s.loadTap d 0x01).send (.tap d (idcode s.part)))

/-- SAMPLE/PRELOAD. -/
def execTapSamplePreload (d : Nat) (s : State) : Host.Outcome State Fault Refusal := ret (s.loadTap d 0x02)

/-- EXTEST. -/
def execTapExtest (d : Nat) (s : State) : Host.Outcome State Fault Refusal := ret ((s.loadTap d 0x00).boundaryHold)

/-- CLAMP. -/
def execTapClamp (d : Nat) (s : State) : Host.Outcome State Fault Refusal := ret ((s.loadTap d 0x03).boundaryHold)

/-- HIGHZ. -/
def execTapHighz (d : Nat) (s : State) : Host.Outcome State Fault Refusal := ret ((s.loadTap d 0x04).boundaryHold)

/-- Production test burns the fuse fields of a BLANK die and its step to TESTED (R478, R479). -/
def Fuses.test (f : Fuses) (i : FuseImage) : Fuses :=
  { f with lc := lcWord 1, uid := i.uid, seed := i.seed, helper := i.helper, kpatch := i.kpatch, kpair := i.kpair,
           cycLve := i.cycLve, cycBne := i.cycBne, vcoreBase := i.vcoreBase }

/-- An internal instruction: enabled only while the die's word is C0 or C1; otherwise it acts as BYPASS (R496, R497). -/
def opTapInternal (d : Nat) (opc : Byte) (burn : Option FuseImage) (s : State) : State :=
  if opc.toNat < 0x80 ∨ 0xFE < opc.toNat then s
  else
    let s := s.loadTap d opc
    match burn with
    | some i => if (s.die d).fuses.lc = lcWord 0 then s.modDie d (fun x => { x with fuses := x.fuses.test i }) else s
    | none => s

/-- TAP_INTERNAL. -/
def execTapInternal (d : Nat) (opc : Byte) (burn : Option FuseImage) (s : State) : Host.Outcome State Fault Refusal := ret (opTapInternal d opc burn s)

/-- Test-Logic-Reset or TRST_N: every TAP reads IDCODE; leaving a boundary instruction that held the link causes a WARM reset (R496, R510). -/
def opTestLogicReset (s : State) : State :=
  let t := s.allDies (fun x => { x with tap := 1 })
  if s.pkg.boundary then t.warmSource 5 else t

/-- TEST_LOGIC_RESET. -/
def execTestLogicReset (s : State) : Host.Outcome State Fault Refusal := ret (opTestLogicReset s)

/-! ### Boot flash programming (R495, R500) -/

/-- The host link is up. -/
def State.linkUp (s : State) : Bool := decide (s.hif.link = .l0) || decide (s.hif.link = .l1)

/-- A range lies inside a CANDIDATE region. -/
def Bfi.inCandidate (b : Bfi) (a n : Nat) : Bool :=
  b.entries.any (fun e => decide (e.type = 6) && decide (e.base ≤ a) && decide (a + n ≤ e.base + e.len))

/-- A command ends with an error code (R500). -/
def State.flashErr (s : State) (err : Nat) : State :=
  ({ s with bfi := { s.bfi with state := 3, err := BitVec.ofNat 8 err, running := none } }).event 0 BFI 0 1

/-- A command runs: BUSY, and the operation goes to the flash. -/
def State.flashRun (s : State) (op entry a : Nat) (data : List Byte) : State :=
  ({ s with bfi := { s.bfi with state := 1, err := 0, running := some (op, entry) } }).send (.flashOp op a data)

/-- The PROG_CMD write is taken: the link is up and no command runs. -/
def flashTaken (op : Nat) (w : RegW) (s : State) : Bool :=
  s.linkUp && decide (bits w.value 0 2 = op) && decide (s.bfi.state ≠ 1)

/-- PROG_ADDR. -/
def State.progAddr (s : State) : Nat := (s.reg 0 BFI 0 0x10C).toNat
/-- PROG_LEN. -/
def State.progLen (s : State) : Nat := bits (s.reg 0 BFI 0 0x110) 0 9

/-- ERASE of the 64 KiB sector at PROG_ADDR. -/
def opFlashErase (w : RegW) (s : State) : State :=
  if !flashTaken 1 w s then s
  else if s.lc = 6 then s.flashErr 6
  else if !s.bfi.inCandidate (s.progAddr / 65536 * 65536) 65536 then s.flashErr 1
  else s.flashRun 1 0 (s.progAddr / 65536 * 65536) []

/-- The bytes of PROG_DATA. -/
def Bfi.progBytes (b : Bfi) (n : Nat) : List Byte :=
  ((List.range 64).flatMap (fun i => leBytes 4 (Assoc.getD b.data i 0).toNat)).take n

/-- PROGRAM of PROG_LEN bytes at PROG_ADDR, within one 256-byte page. -/
def opFlashProgram (w : RegW) (s : State) : State :=
  if !flashTaken 2 w s then s
  else if s.lc = 6 then s.flashErr 6
  else if !s.bfi.inCandidate s.progAddr s.progLen then s.flashErr 1
  else if 256 < s.progAddr % 256 + s.progLen then s.flashErr 2
  else s.flashRun 2 0 s.progAddr (s.bfi.progBytes s.progLen)

/-- ACTIVATE of the entry in [7:4]. -/
def opFlashActivate (w : RegW) (s : State) : State :=
  if !flashTaken 3 w s then s
  else if s.lc = 6 then s.flashErr 6
  else if (s.bfi.entries.getD (bits w.value 4 4) ⟨0, 0, 0, 0⟩).type ≠ 6 then s.flashErr 4
  else s.flashRun 3 (bits w.value 4 4) (s.bfi.entries.getD (bits w.value 4 4) ⟨0, 0, 0, 0⟩).base []

/-- What the flash holds after an ACTIVATE: the directory copy with the lower SEQ is written; the candidate's images are behind its active entries, the former
active image behind its CANDIDATE entries (R495). -/
def BootInActivated (b : BootIn) (copy : Nat) (k : Nat) (dir bootFw : List Byte) (patches : List (Nat × List Byte)) : BootIn :=
  let used := if copy = 1 then b.dir1 else b.dir0
  let new := Config.activatedDir used k dir
  let former := ((bootEntry b (dirEntries used)).map (bootImage b)).getD []
  { dir0 := if copy = 1 then new else b.dir0, dir1 := if copy = 1 then b.dir1 else new,
    firmware := (List.range 16).map (fun i => (i, if ((dirEntries new).getD i ⟨0, 0, 0, 0⟩).type = 1 then bootFw else former)),
    patches := patches, dies := b.dies }

/-- The flash command ends: a good one counts and raises PROG_DONE; an ACTIVATE whose candidate verifies is written and raises ACTIVATED. -/
def opFlashOpDone (e : FlashEnd) (s : State) : State :=
  match s.bfi.running with
  | none => s
  | some r =>
    let good := (({ s with bfi := { s.bfi with state := 2, running := none } }).count 0 BFI 0 0x120).event 0 BFI 0 0
    match e with
    | .flashError => s.flashErr 3
    | .done => if r.1 = 3 then s.flashErr 5 else good
    | .candidate dir fw patches =>
      if r.1 ≠ 3 then good
      else if dirValid dir && Config.fwValid fw &&
          s.dieList.all (fun d => decide ((patchSet (s.die d).fuses ((patches.filter (fun p => decide (p.1 = d))).map Prod.snd)).state ≠ 2)) then
        { good.event 0 BFI 0 2 with flash := BootInActivated s.flash s.bfi.copy r.2 dir fw patches }
      else s.flashErr 5

/-- FLASH_OP_DONE. -/
def execFlashOpDone (e : FlashEnd) (s : State) : Host.Outcome State Fault Refusal := ret (opFlashOpDone e s)

/-! ### The Measurement Hasher (R315, R316) -/

/-- A measurement fails: ERROR, DIGEST zero. -/
def Mha.error (m : Mha) (r : BitVec 3) : Mha := { m with state := .error, result := r, digest := [] }

/-- OPEN: hash state reset, DIGEST cleared; refused while a measurement is open. -/
def opMhaOpen (d : Nat) (s : State) : State :=
  if (s.die d).mha.state = .open_ then s.mhaRefuse d 1
  else s.modMha d (fun _ => ⟨.open_, 0, [], 0, 0, 0, []⟩)

/-- OPEN. -/
def execMhaOpen (d : Nat) (s : State) : Host.Outcome State Fault Refusal := ret (opMhaOpen d s)

/-- One byte of the flash stream (R316). -/
def Mha.byte (m : Mha) (a : Nat) (b : Byte) : Mha :=
  if m.state ≠ .open_ ∨ m.rangeEnd ≤ a ∨ a < m.nextAddr then m
  else if a = m.nextAddr then { m with msg := m.msg ++ [b], nextAddr := a + 1 }
  else m.error 3

/-- The range is complete. -/
def Mha.rangeDone (m : Mha) : Bool := decide (m.nextAddr = m.rangeEnd)

/-- RANGE: the range is appended, and the bytes of the stream that follow are hashed; refused with NOT_OPEN or, while the previous range is incomplete, with
BUSY. -/
def opMhaRange (d base len : Nat) (stream : List (Nat × Byte)) (s : State) : State :=
  let s1 := (s.setReg d MHA 0 0x104 (BitVec.ofNat 32 base)).setReg d MHA 0 0x108 (BitVec.ofNat 32 len)
  let s2 :=
    if (s.die d).mha.state ≠ .open_ then s1.mhaRefuse d 2
    else if !(s.die d).mha.rangeDone then s1.mhaRefuse d 1
    else s1.modMha d (fun m => { m with result := 0, rangeEnd := base + len, nextAddr := base, ranges := min 65535 (m.ranges + 1) })
  let s3 := s2.modMha d (fun m => stream.foldl (fun m p => m.byte p.1 p.2) m)
  if (s2.die d).mha.state = .open_ ∧ (s3.die d).mha.state = .error then s3.event d MHA 0 1 else s3

/-- RANGE. -/
def execMhaRange (d base len : Nat) (stream : List (Nat × Byte)) (s : State) : Host.Outcome State Fault Refusal := ret (opMhaRange d base len stream s)

/-- CLOSE: padding applied, DIGEST valid. -/
def opMhaClose (d : Nat) (s : State) : State :=
  if (s.die d).mha.state = .open_ then
    (s.modMha d (fun m => { m with state := .done, result := 0, digest := sha384 m.msg })).event d MHA 0 0
  else s.mhaRefuse d 2

/-- CLOSE. -/
def execMhaClose (d : Nat) (s : State) : Host.Outcome State Fault Refusal := ret (opMhaClose d s)

/-- ABORT. -/
def opMhaAbort (d : Nat) (s : State) : State :=
  if (s.die d).mha.state = .open_ then (s.modMha d (·.error 4)).event d MHA 0 1 else s

/-- ABORT. -/
def execMhaAbort (d : Nat) (s : State) : Host.Outcome State Fault Refusal := ret (opMhaAbort d s)

/-! ### The management port (R509) -/

/-- Answer a read with bytes, or not at all while the port is down. -/
def State.smbReply (s : State) (bs : List Byte) : State :=
  if s.mgiUp then (s.send (.smbus bs)).count 0 MGI 0 0x108 else s.send .nack

/-- LEVEL of TMN.STATUS (R435). -/
def State.level (s : State) : Nat :=
  if s.pkg.lock then (if s.pkg.erased then 3 else 2) else if s.throttled then 1 else 0

/-- TMN.TEMP of the reachable dies that have a measurement, in quarter degrees. -/
def State.temps (s : State) : List Int :=
  s.dies.filterMap (fun x => if x.reachable then x.tmn.temp.map BitVec.toInt else none)

/-- VERSION. -/
def execSmbVersion (s : State) : Host.Outcome State Fault Refusal := ret (s.smbReply [0x01, Config.stepping])

/-- STATE. -/
def execSmbState (s : State) : Host.Outcome State Fault Refusal := ret (s.smbReply (leBytes 2 s.stateNow.toNat))

/-- The highest temperature, 0x8000 when none is measured. -/
def State.maxTemp (s : State) : W16 :=
  match s.temps with
  | [] => 0x8000
  | t :: ts => BitVec.ofInt 16 (ts.foldl max t)

/-- MAX_TEMP. -/
def execSmbMaxTemp (s : State) : Host.Outcome State Fault Refusal := ret (s.smbReply (leBytes 2 s.maxTemp.toNat))

/-- The byte of a die: signed whole degrees, 0x80 when absent, unreachable or not measured. -/
def State.tempByte (s : State) (d : Nat) : Byte :=
  match s.dies[d]? with
  | none => 0x80
  | some x =>
    if !x.reachable then 0x80
    else
      match x.tmn.temp with
      | none => 0x80
      | some t => if t.toInt % 4 = 0 then BitVec.ofInt 8 (t.toInt / 4) else Config.wholeDegrees t.toInt

/-- DIE_TEMPS. -/
def execSmbDieTemps (s : State) : Host.Outcome State Fault Refusal := ret (s.smbReply ((List.range 8).map s.tempByte))

/-- The FAULTS word. -/
def State.faultsWord (s : State) : Nat := min 255 s.pkg.severes + 256 * s.level

/-- FAULTS. -/
def execSmbFaults (s : State) : Host.Outcome State Fault Refusal := ret (s.smbReply (leBytes 2 s.faultsWord))

/-- DIE_UID. -/
def execSmbDieUid (s : State) : Host.Outcome State Fault Refusal := ret (s.smbReply (leBytes 8 (s.die 0).fuses.uid.toNat))

/-- The BOOT word. -/
def State.bootWord (s : State) : Nat :=
  let b := (s.die 0).boot
  b.step % 16 + 16 * (b.failed % 16) + 256 * (b.reason % 256)

/-- BOOT. -/
def execSmbBoot (s : State) : Host.Outcome State Fault Refusal := ret (s.smbReply (leBytes 2 s.bootWord))

/-- The Alert Response Address is answered with 0x5A while MG_ALERT_N is low, which releases it. -/
def opSmbAlertResponse (s : State) : State :=
  if s.mgiUp ∧ s.pkg.alertLow then ({ s with pkg := { s.pkg with alertLow := false } }).smbReply [0x5A] else s.send .nack

/-- ALERT_RESPONSE. -/
def execSmbAlertResponse (s : State) : Host.Outcome State Fault Refusal := ret (opSmbAlertResponse s)

/-- A write other than a command code is acknowledged and ignored; one that fails PEC counts. -/
def opSmbusWrite (pecBad : Bool) (s : State) : State := if s.mgiUp ∧ pecBad then s.count 0 MGI 0 0x10C else s

/-- SMBUS_WRITE. -/
def execSmbusWrite (pecBad : Bool) (s : State) : Host.Outcome State Fault Refusal := ret (opSmbusWrite pecBad s)

/-- A bus timeout counts. -/
def opSmbusTimeout (s : State) : State := if s.mgiUp then s.count 0 MGI 0 0x110 else s

/-- SMBUS_TIMEOUT. -/
def execSmbusTimeout (s : State) : Host.Outcome State Fault Refusal := ret (opSmbusTimeout s)

/-- An LVE whose wipe after a job has ended: at most 0.34 µs, far less than a period of the battery domain's clock (R196, R238). -/
def LveUnit.wiped (u : LveUnit) : LveUnit := { u with svc := { u.svc with wiping := false } }

/-- The owner ticket of a transition has expired before its first bit is burned: it ends with OWNER_AUTH (R483). -/
def State.expireTicket (s : State) : State :=
  match s.lcc.xfer with
  | some t =>
    if t.phase = 2 ∧ t.input = [] ∧ ((t.job.bind (fun p => s.job? p.1 p.2)).map (fun x => decide (fieldLe x.data.ticket 16 8 < s.bbd.rtc.toNat))).getD false then
      settle (s.dropTransition stOwnerAuth)
    else s
  | none => s

/-- One period of the battery domain's clock while no command waits (R426: RTC counts units of 2^-16 s, and XT32 has 32,768 periods in a
second). DESIGN CHOICE (log 1). -/
def State.idle (s : State) : State :=
  let s : State := { s with dies := s.dies.map (fun d => { d with lves := d.lves.map LveUnit.wiped }) }
  if s.bbd.powered then ({ s with bbd := { s.bbd with rtc := s.bbd.rtc + 2 } } : State).expireTicket else s

end Sys2Proof.Machine
end

