-- ==== Sys2Proof/Machine/EngineOps.lean ====
section
/-! DEFINITION. Running an LVE instruction: which one executes (R193, R198, R225), what takes its place (R196, R210, R235, R236, R245), its effect and its microwords. -/

namespace Sys2Proof.Machine

/-! ### Running an instruction -/

/-- The LVE an instruction names. -/
def State.lve? (s : State) (r : LveRef) : Option LveUnit := (s.dies[r.die]?).bind (fun x => x.lves[r.engine]?)

/-- Put back an LVE's engine; the masking bytes it has drawn leave the engine's buffer (R208, R237). -/
def State.setEng (s : State) (r : LveRef) (l : Lve) : State :=
  s.modDie r.die (fun x => { x with lves := x.lves.modify r.engine (fun u => { u with
    eng := l, svc := { u.svc with maskBuf := u.svc.maskBuf - (l.seq.maskUsed - u.eng.seq.maskUsed) } }) })

/-- An instruction that would raise an operand fault now. -/
def faultsNow (o : LveOp) (f : LveFields) (l : Lve) : Bool :=
  let hits (x : Option Lve) : Bool := (x.bind (fun y => y.seq.fault)).isSome
  match o with
  | .setout => hits (lveSetout f l)
  | .vldu => hits (lveVldu f l)
  | .vstu => hits (lveVstu f l)
  | .vldp => hits (lveVldp f l)
  | .vstp => hits (lveVstp f l)
  | .vldf => hits (lveVldf f l)
  | .vstf => hits (lveVstf f l)
  | .vgather => hits (lveVgather f l)
  | .vscatter => hits (lveVscatter f l)
  | _ => false

/-- An instruction keeps to the forms that its vendor program declares at this index (R256, R257): JOIN and JOINA act only on the four kinds of value, and a split
that raises an order acts at first order on share 0 and leaves the register of share 1. -/
def formOk (form : Nat) (o : LveOp) (f : LveFields) : Bool :=
  match o with
  | .vjoin | .joina => decide (1 ≤ form) && decide (form ≤ 4)
  | .split | .splita => decide (form < 5) || (decide (f.order = 1) && decide (f.d.toNat ≠ form - 5) && decide (f.d.toNat + 1 ≠ form - 5))
  | _ => true

/-- An LVE executes: a pass runs on it, its clock is not frozen by a dip (R423), and the instruction is the one its program has next. The text of a vendor program is
its replacement in the program RAM, else that of the ROM, which the manual does not give (log 17): it keeps to the declared forms and raises no operand fault for
any input (R211, R279). -/
def LveUnit.executes (u : LveUnit) (o : LveOp) (f : LveFields) : Bool :=
  let q := u.eng.seq
  decide (u.eng.phase = .running) && !u.svc.frozen &&
    (match q.prog with
    | none => decide (q.text[q.pc]? = some (lveEncode o f))
    | some p => (if q.text = [] then decide (Config.vendorText p q.pc = lveEncode o f) else decide (q.text[q.pc]? = some (lveEncode o f)))
        && formOk (Config.formChange p q.pc) o f && !faultsNow o f u.eng)

/-- A microword parity mismatch (R245): the job ends with MACHINE_CHECK and MC_PARITY counts; in patch RAM STORE_PARITY counts as well, which starts the refresh of
R246. -/
def State.mcParity (s : State) (d e : Nat) (inPatch : Bool) : State :=
  let s1 := (s.lveStop d e stMachineCheck 0).faultAct d (32 * e + 8)
  if inPatch then s1.faultAct d (32 * e + 10) else s1

/-- The 161st microword since a checkpoint (R235). -/
def State.ckptGap (s : State) (d e : Nat) : State := (s.lveStop d e stMachineCheck 0).faultAct d (32 * e + 9)

/-- An upset stops the job (R196, R210, R221, R245). -/
def upsetStops : LveUpset → Bool
  | .mcParity _ => true
  | .regParity => true
  | .eccUncorrectable => true
  | .integrity => true
  | _ => false

/-- What an upset does in place of the instruction (R196, R210, R245). -/
def State.lveUpset (s : State) (r : LveRef) : State :=
  match r.upset with
  | .mcParity p => s.mcParity r.die r.engine p
  | .regParity => (s.lveStop r.die r.engine stMachineCheck 0).faultAct r.die (32 * r.engine)
  | .eccUncorrectable => (s.lveStop r.die r.engine stMachineCheck 0).faultAct r.die (32 * r.engine + 2)
  | .integrity => (s.lveStop r.die r.engine stIntegrity 0).faultAct r.die (32 * r.engine + 3)
  | _ => s

/-- What takes the place of an instruction: an abort request sampled at the checkpoint it begins with (R228, R236), an upset, or the end of an expansion that a patch
has redirected (R235, R245). -/
def State.lveStruck (s : State) (r : LveRef) (o : LveOp) (f : LveFields) (u : LveUnit) : Option State :=
  if u.eng.abortReq then some (s.lveAbort r.die r.engine)
  else if upsetStops r.upset then some (s.lveUpset r)
  else match (s.die r.die).patch.expansion o f u.eng with
    | some (.parity p) => some (s.mcParity r.die r.engine p)
    | some .gap => some (s.ckptGap r.die r.engine)
    | _ => none

/-- The temporary registers that a redirected expansion leaves (R223). -/
def State.lveTemps (s : State) (r : LveRef) (o : LveOp) (f : LveFields) (l0 l : Lve) : Lve :=
  match (s.die r.die).patch.expansion o f l0 with
  | some (.done ts) => l.withTemps ts
  | _ => l

/-- The engine after an instruction, and what an upset that stops nothing leaves: ECC_CORRECTED counts (R221), or a fault has struck the pass (R254). -/
def State.lveFinish (s : State) (r : LveRef) (l : Lve) : Host.Outcome State Fault Refusal :=
  match r.upset with
  | .eccCorrected => ret ((s.setEng r l).faultAct r.die (32 * r.engine + 1))
  | .glitch b => .next (s.setEng r { l with hit := some b })
  | _ => .next (s.setEng r l)

/-- An instruction that does not execute: nothing happens, but for a parity mismatch that the sequencer meets while it fetches for a probe or a self-test, which counts
and ends the probe without result (R245, R467). -/
def State.lveIdle (s : State) (r : LveRef) (u : LveUnit) : Host.Outcome State Fault Refusal :=
  match r.upset with
  | .mcParity p =>
    if u.map.probe ∨ u.svc.selfTest then
      ret ((fun (t : State) => if p then t.faultAct r.die (32 * r.engine + 10) else t)
        ((s.modDie r.die (fun x => if u.map.probe then x.abandonProbe else x)).faultAct r.die (32 * r.engine + 8)))
    else .next s
  | _ => .next s

/-- Run an LVE instruction: its effect on the engine, then the next instruction (R212). A word that R198 calls invalid never runs; on an engine that
does not execute it nothing happens. -/
def lveExec (o : LveOp) (r : LveRef) (f : LveFields) (s : State) (eff : Lve → Option Lve) : Host.Outcome State Fault Refusal :=
  match s.lve? r with
  | none => .fault .noSuchUnit
  | some u =>
    if !o.valid f then .refused .invalidInstruction
    else if !u.executes o f then s.lveIdle r u
    else match s.lveStruck r o f u with
      | some t => ret t
      | none =>
        match eff u.eng with
        | none => .refused .invalidInstruction
        | some l => s.lveFinish r ((s.lveTemps r o f u.eng l).advance (u.eng.classesOf o f))

end Sys2Proof.Machine
end

