-- ==== Sys2Proof/Machine/EngineCtl.lean ====
section
/-! DEFINITION. What the control registers of the engines and channels do once their write takes effect (R221, R247, R249, R303, R324, R332, R344),
the self-tests after UNFENCE, and the refresh of the patch RAM (R246). -/

namespace Sys2Proof.Machine

/-- Bytes of a free value, as many as asked for. -/
def fit (n : Nat) (l : List Byte) : List Byte := slice l 0 n

/-- The bytes that the DRBG gives at the next draw (R320). -/
def State.rand (s : State) (n : Nat) : List Byte := fit n (Config.drbg s.freeCtr n)

/-- A draw has been made. -/
def State.drawn (s : State) : State := { s with freeCtr := s.freeCtr + 1 }

/-! ### CTRL registers -/

/-- LVE.CTRL takes effect: OFFLINE (R221). -/
def State.lveCtrl (s : State) (d e : Nat) (v : W32) : State := s.setReg d LVE e 0x010 (v &&& 1#32)

/-- UNFENCE of an engine's service state: the self-tests run unless the cause is one that is ignored. -/
def EngineSvc.unfence (x : EngineSvc) (ignored : List Nat) : EngineSvc :=
  if x.fence = 0 ∨ ignored.contains x.fence.toNat then x else { x with selfTest := true }

/-- MCS.CTRL takes effect: UNFENCE (R247). -/
def State.mcsCtrl (s : State) (d e : Nat) (v : W32) : State :=
  if bit v 0 then s.modDie d (fun x => { x with lves := x.lves.modify e (fun u => { u with svc := u.svc.unfence [3, 4, 5] }) }) else s

/-- BNE.CTRL takes effect: OFFLINE and UNFENCE (R303). -/
def State.bneCtrl (s : State) (d e : Nat) (v : W32) : State :=
  let s := s.setReg d BNE e 0x010 (v &&& 1#32)
  if bit v 1 then s.modDie d (fun x => { x with bnes := x.bnes.modify e (fun u => { u with svc := u.svc.unfence [3, 4] }) }) else s

/-- SYE.CTRL takes effect: OFFLINE and UNFENCE (R324). -/
def State.syeCtrl (s : State) (d e : Nat) (v : W32) : State :=
  let s := s.setReg d SYE e 0x010 (v &&& 1#32)
  if bit v 1 then s.modDie d (fun x => { x with syes := x.syes.modify e (fun u => { u with svc := u.svc.unfence [4] }) }) else s

/-- DMX.CH_CTRL takes effect on the selected channel: OFFLINE stops it at the next descriptor boundary, and a channel released goes on (R332, R344). -/
def State.chCtrl (s : State) (d : Nat) (v : W32) : State :=
  let ch := bits (s.reg d DMX 0 0x100) 0 4
  (s.setChan d ch { (s.die d).chan ch with offline := bit v 0 }).resumeChans d

/-- RLK.DIE_RESET takes effect (R391): the key orders a DIE reset of a die that is neither the holder nor excluded, outside a split baton. -/
def State.dieResetReq (s : State) (v : W32) : State :=
  let d := bits v 0 3
  if bits v 16 16 = 0xA55A ∧ d < s.nDies ∧ s.baton.holder ≠ some d ∧ (s.die d).state ≠ .excluded ∧ s.baton.result ≠ .split then
    s.modDie d (fun x => { x with resetReq := true })
  else s

/-- VIM.INST_CMD takes effect for the selected instance (R357, R369). -/
def State.instCmd (s : State) (v : W32) : State := if bits v 0 2 = 1 then s.requestReset s.instSel true else s

/-! ### Self-tests after UNFENCE (R247, R296, R324) -/

/-- The verdict on an engine's service state: back in service, or cause SELFTEST. -/
def EngineSvc.verdict (x : EngineSvc) (pass : Bool) : EngineSvc :=
  if x.selfTest then { x with selfTest := false, fence := if pass then 0 else 4 } else x

/-- An LVE after its verdict. -/
def LveUnit.verdict (u : LveUnit) (pass : Bool) : LveUnit :=
  if u.svc.selfTest then
    { u with svc := u.svc.verdict pass, eng := { u.eng with phase := if pass ∧ u.eng.phase = .fenced then .idle else u.eng.phase } }
  else u

/-- SELFTEST_DONE. -/
def opSelftestDone (d : Nat) (e : EngineId) (pass : Bool) (s : State) : State :=
  match e with
  | .lve i => s.modDie d (fun x => { x with lves := x.lves.modify i (·.verdict pass) })
  | .bne i => s.modDie d (fun x => { x with bnes := x.bnes.modify i (fun u => { u with svc := u.svc.verdict pass }) })
  | .sye i => s.modDie d (fun x => { x with syes := x.syes.modify i (fun u => { u with svc := u.svc.verdict pass }) })
  | _ => s

/-- SELFTEST_DONE. -/
def execSelftestDone (d : Nat) (e : EngineId) (pass : Bool) (s : State) : Host.Outcome State Fault Refusal := ret (opSelftestDone d e pass s)

/-! ### The refresh of the patch RAM (R246) -/

/-- A refresh waits and every LVE of the die is idle. -/
def refreshReady (d : Nat) (s : State) : Bool := (s.die d).patch.refreshPending && (s.die d).lves.all (fun u => u.eng.job.isNone && u.fill.isNone)

/-- What the boot flash gives at a refresh (R246): the die's set, checked again as R242 says; `intact` says that the flash still reads as at the boot. -/
def State.reloaded (s : State) (d : Nat) (intact : Bool) : Option PatchSet :=
  if intact then
    let p := patchSet (s.die d).fuses (bootPatches s.flash d)
    if p.state = 2 ∨ p.measure ≠ (s.die d).kvd.mmc then none else some p
  else none

/-- The measurement of a refresh; a flash that reads otherwise gives other bytes, which are free (log 139). -/
def State.refreshMeasures (s : State) (d : Nat) (intact : Bool) : State :=
  let l := bootPatches s.flash d
  if intact then s.measures d l else { s.measures d [Config.disturb s.freeCtr l.flatten] with freeCtr := s.freeCtr + 1 }

/-- The accepted set is reloaded and its measurement compared with M_MC: with a match REFRESH_COUNT advances, else every LVE of the die is fenced. While another
measurement is open the hasher refuses it with BUSY, and the refresh waits (R317). -/
def opPatchRefresh (d : Nat) (intact : Bool) (s : State) : State :=
  if refreshReady d s ∧ (s.die d).mha.state = .open_ then s.mhaRefuse d 1
  else if refreshReady d s then
    let p := s.reloaded d intact
    let s := (s.refreshMeasures d intact).modDie d (fun x => { x with patch := match p with
      | some y => { y with refreshes := min 0xFFFF (x.patch.refreshes + 1), refreshPending := false }
      | none => { x.patch with refreshPending := false } })
    let s := (List.range 16).foldl (fun (t : State) i => (t.fwWriteAt d LVE i 0x010 0).event d MCS i 1) s
    if p.isSome then s else (List.range 16).foldl (fun (t : State) i => t.fenceLve d i 5) s
  else s

/-- PATCH_REFRESH. -/
def execPatchRefresh (d : Nat) (intact : Bool) (s : State) : Host.Outcome State Fault Refusal := ret (opPatchRefresh d intact s)

end Sys2Proof.Machine
end

