-- ==== Sys2Proof/Machine/Cards.lean ====
section
/-! DEFINITION. Custodian cards and the quorum (R393 to R404): activation, ATR and PPS, the applet session, the roster's checks, Shamir's
reconstruction, and the provisioning that a quorum lets go on (R481). -/

namespace Sys2Proof.Machine

/-! ### Answer to reset (R395; ISO/IEC 7816-3) -/

/-- What an ATR says: TA1, TA2, the protocols of its TDi, IFSC of T=1, the first TA after T=15. -/
structure Atr where
  ta1 : Option Nat
  ta2 : Option Nat
  protos : List Nat
  ifsc : Option Nat
  ind : Option Nat
  deriving DecidableEq, Repr

/-- Take an interface byte where its presence bit is set. -/
def atrTake (has : Bool) (l : List Byte) : Option (Option Nat × List Byte) :=
  if has then (match l with | [] => none | b :: r => some (some b.toNat, r)) else some (none, l)

/-- The interface bytes from the i-th group on: `y` its presence bits, `t` the protocol that announced it. -/
def atrGroups (n i y t : Nat) (l : List Byte) (a : Atr) : Option (Atr × List Byte) :=
  match n with
  | 0 => none
  | n + 1 =>
    match atrTake (decide (y % 2 = 1)) l with
    | none => none
    | some (ta, l1) =>
      match atrTake (decide (y / 2 % 2 = 1)) l1 with
      | none => none
      | some (_, l2) =>
        match atrTake (decide (y / 4 % 2 = 1)) l2 with
        | none => none
        | some (_, l3) =>
          let a : Atr := {
            ta1 := if i = 1 then ta else a.ta1
            ta2 := if i = 2 then ta else a.ta2
            protos := a.protos
            ifsc := if 2 < i ∧ t = 1 ∧ a.ifsc = none then ta else a.ifsc
            ind := if 2 < i ∧ t = 15 ∧ a.ind = none then ta else a.ind }
          if y / 8 % 2 = 1 then
            (match l3 with
            | [] => none
            | td :: r => atrGroups n (i + 1) (td.toNat / 16) (td.toNat % 16) r { a with protos := a.protos ++ [td.toNat % 16] })
          else some (a, l3)

/-- An ATR that R395 accepts but for its timing: TS, the groups, as many historical bytes as T0 says, TCK where a protocol other than T=0 is indicated,
and at least one protocol that is supported. -/
def parseAtr (bs : List Byte) : Option Atr :=
  match bs with
  | ts :: t0 :: rest =>
    if ts ≠ 0x3B ∧ ts ≠ 0x3F then none
    else
      match atrGroups 8 1 (t0.toNat / 16) 0 rest ⟨none, none, [], none, none⟩ with
      | none => none
      | some (a, tail) =>
        let tck := a.protos.any (fun t => decide (t ≠ 0))
        let offers := a.protos.filter (fun t => decide (t ≠ 15))
        let sum := (t0 :: rest).foldl (fun x y => x ^^^ y) 0
        if tail.length = t0.toNat % 16 + b2n tck ∧ (!tck ∨ sum = 0) ∧ (offers = [] ∨ offers.contains 0 ∨ offers.contains 1) then some a else none
  | _ => none

/-- A supported pair of transmission factors (R393), from a TA1 byte. -/
def factors? (ta1 : Nat) : Option (Nat × Nat) :=
  let f := ta1 / 16
  let d := ta1 % 16
  if (f = 0 ∨ f = 1 ∨ f = 9) ∧ 1 ≤ d ∧ d ≤ 6 then some (if f = 9 then 512 else 372, 2 ^ (d - 1)) else none

/-- The class indicator excludes a class: 0 is class C, 1 class B, 2 class A (R393 VSEL). -/
def Atr.excludes (a : Atr) (cls : Nat) : Bool :=
  match a.ind with
  | some x => decide (x / 2 ^ (2 - cls) % 2 = 0)
  | none => false

/-! ### Ports -/

/-- A card port. -/
def State.cardPort (s : State) (p : Nat) : CardPort := s.cards.ports.getD p CardPort.empty
/-- Change a card port. -/
def State.modCard (s : State) (p : Nat) (f : CardPort → CardPort) : State :=
  { s with cards := { s.cards with ports := s.cards.ports.modify p f } }

/-- CTRL.PORT_EN of a port. -/
def State.portEn (s : State) (p : Nat) : Bool := bit (s.reg 0 CIU p 0x010) 0

/-- A port serves cards: it exists, die 0 runs, the port is enabled. -/
def State.cardLive (s : State) (p : Nat) : Bool := decide (p < 4) && decide ((s.die 0).state = .running) && s.portEn p

/-- The port activates its card in a class (R394). -/
def State.activate (s : State) (p cls : Nat) (noPps : Bool := false) : State :=
  (s.modCard p (fun c => { c with
    state := .activating, wait := .atr, session := CardSession.none, link := { CardLink.off with cls := cls, noPps := noPps, vcc := true } })).send (.cardPower p cls)

/-- The deactivation sequence (R399): the interface without power. -/
def CardPort.unpower (c : CardPort) : CardPort := { c with wait := .none, session := CardSession.none, link := { CardLink.off with cls := c.link.cls } }

/-- A card is refused with a reason (R400, R401): REFUSED and the entry. One that gives no acceptable ATR or PPS response is left unpowered. -/
def State.refuseCard (s : State) (p reason : Nat) : State :=
  let c := s.cardPort p
  let id := fieldLe c.session.cardId 0 4
  let s := s.modCard p (fun c => { (if reason ≤ 2 then c.unpower else c) with
    state := .refused, wait := .none, reason := BitVec.ofNat 8 reason, session := CardSession.none })
  (s.event 0 CIU p 3).offer { Offer.of 6 0 0x5002 id with rid := BitVec.ofNat 16 p, result := reason }

/-- An attempt to activate has failed: the next class after 10 ms without VCC, or the card is refused (R394, R396). -/
def State.nextClass (s : State) (p : Nat) : State :=
  let c := s.cardPort p
  if c.link.noPps then s.refuseCard p 2
  else if c.link.cls < 2 then
    s.modCard p (fun c => { c.unpower with state := .deactivating, link := { CardLink.off with cls := c.link.cls, holdNext := some (c.link.cls + 1) } })
  else s.refuseCard p 1

/-- CARD_INSERTED: Cn_DET_N has been low for t_cdeb (R394, R399). -/
def opCardInserted (p : Nat) (s : State) : State :=
  if p < 4 then
    let s := s.modCard p (fun c => { c with detLow := true })
    if s.cardLive p ∧ (s.cardPort p).state = .empty then
      (((s.modCard p (fun c => { c with present := true })).event 0 CIU p 0).count 0 CIU p 0x114).activate p 0
    else s
  else s

/-- CARD_INSERTED. -/
def execCardInserted (p : Nat) (s : State) : Host.Outcome State Fault Refusal := ret (opCardInserted p s)

/-- CARD_REMOVED: deactivation without debounce; a card that supplied a share of the quorum dissolves it (R399, R404). -/
def opCardRemoved (p : Nat) (s : State) : State :=
  if p < 4 then
    let was := (s.cardPort p).present
    let s := s.modCard p (fun c => { CardPort.empty with state := if c.state = .disabled then .disabled else .empty })
    let s := if was then s.event 0 CIU p 1 else s
    if s.cards.quorum.ports.contains p then s.dissolve else s
  else s

/-- CARD_REMOVED. -/
def execCardRemoved (p : Nat) (s : State) : Host.Outcome State Fault Refusal := ret (opCardRemoved p s)

/-- A write of CTRL.PORT_EN: disabling deactivates the card and ignores it (R399, R416); a port enabled again waits for an insertion. -/
def State.portEnable (s : State) (p : Nat) (on : Bool) : State :=
  if on then s.modCard p (fun c => if c.state = .disabled then { CardPort.empty with detLow := c.detLow } else c)
  else
    let s := s.modCard p (fun c => { CardPort.empty with state := .disabled, detLow := c.detLow })
    if s.cards.quorum.ports.contains p then s.dissolve else s

/-- Send an applet command (R400); its clock runs again first (R398). -/
def State.sendApdu (s : State) (p : Nat) (w : CardWait) (ins : Nat) (data : List Byte) : State :=
  (s.modCard p (fun c => { c with wait := w, state := if w = .endSession then c.state else .authenticating, link := { c.link with clkStopped := false } })).send
    (.apdu p ins data)

/-- The applet session begins, provided the package holds a roster (R401, R402). -/
def State.beginSession (s : State) (p : Nat) : State :=
  if s.cards.roster.isSome then s.sendApdu p .select 0xA4 [0xF0, 0x56, 0x51, 0x43, 0x31] else s.refuseCard p 0x0B

/-- The PPS request (R396): PPSS, PPS0 with PPS1 announced, PPS1 = TA1, PCK. -/
def ppsRequest (t1 : Bool) (ta1 : Byte) : List Byte :=
  let p0 : Byte := BitVec.ofNat 8 (0x10 + b2n t1)
  [0xFF, p0, ta1, 0xFF ^^^ p0 ^^^ ta1]

/-- The response that keeps the default factors: PPS0 repeated without PPS1. -/
def ppsDefault (t1 : Bool) : List Byte :=
  let p0 : Byte := BitVec.ofNat 8 (b2n t1)
  [0xFF, p0, 0xFF ^^^ p0]

/-- ATR: accepted, its factors negotiated or taken; else the next class (R394 to R396). -/
def opAtr (p : Nat) (bytes : List Byte) (inTime : Bool) (s : State) : State :=
  let c := s.cardPort p
  if s.cardLive p ∧ c.wait = .atr then
    match (if inTime then parseAtr bytes else none) with
    | none => s.nextClass p
    | some a =>
      if a.excludes c.link.cls then s.nextClass p
      else
        let t1 := match a.ta2 with
          | some x => decide (x % 16 = 1)
          | none => a.protos.contains 1
        let fac := (a.ta1.bind factors?)
        let stop := (a.ind.map (fun x => x / 64)).getD 0
        let link (f : Nat × Nat) : CardLink := { c.link with
          t1 := t1, fi := f.1, di := f.2, ifsc := if t1 then a.ifsc.getD 32 else 0, clkStop := decide (stop ≠ 0), clkHigh := decide (stop = 2) }
        match a.ta2 with
        | some x =>
          let named : Option (Nat × Nat) := if x / 16 % 2 = 1 then some (372, 1) else (match a.ta1 with | none => some (372, 1) | some _ => fac)
          (match named with
          | some f => if x % 16 ≤ 1 then (s.modCard p (fun c => { c with link := link f })).beginSession p else s.refuseCard p 1
          | none => s.refuseCard p 1)
        | none =>
          (match fac with
          | some f =>
            if f ≠ (372, 1) ∧ !c.link.noPps then
              let b : Byte := BitVec.ofNat 8 (a.ta1.getD 0)
              (s.modCard p (fun c => { c with state := .negotiating, wait := .pps, link := { link (372, 1) with ppsByte := b } })).send
                (.apdu p 0xFF (ppsRequest t1 b))
            else (s.modCard p (fun c => { c with link := link (372, 1) })).beginSession p
          | none => (s.modCard p (fun c => { c with link := link (372, 1) })).beginSession p)
  else s

/-- ATR. -/
def execAtr (p : Nat) (bytes : List Byte) (inTime : Bool) (s : State) : Host.Outcome State Fault Refusal := ret (opAtr p bytes inTime s)

/-- ATR_TIMEOUT. -/
def opAtrTimeout (p : Nat) (s : State) : State := if s.cardLive p ∧ (s.cardPort p).wait = .atr then s.nextClass p else s

/-- ATR_TIMEOUT. -/
def execAtrTimeout (p : Nat) (s : State) : Host.Outcome State Fault Refusal := ret (opAtrTimeout p s)

/-- The PPS attempt has failed: the card is activated once more without PPS (R396). -/
def State.ppsFailed (s : State) (p : Nat) : State := s.activate p (s.cardPort p).link.cls true

/-- PPS_RESPONSE. -/
def opPpsResponse (p : Nat) (bytes : List Byte) (s : State) : State :=
  let c := s.cardPort p
  if s.cardLive p ∧ c.wait = .pps then
    if bytes = ppsRequest c.link.t1 c.link.ppsByte then
      let f := (factors? c.link.ppsByte.toNat).getD (372, 1)
      (s.modCard p (fun c => { c with link := { c.link with fi := f.1, di := f.2 } })).beginSession p
    else if bytes = ppsDefault c.link.t1 then s.beginSession p
    else s.ppsFailed p
  else s

/-- PPS_RESPONSE. -/
def execPpsResponse (p : Nat) (bytes : List Byte) (s : State) : Host.Outcome State Fault Refusal := ret (opPpsResponse p bytes s)

/-- The port awaits the response to an applet command. -/
def CardPort.inApdu (c : CardPort) : Bool :=
  decide (c.wait = .select) || decide (c.wait = .info) || decide (c.wait = .auth) || decide (c.wait = .share) || decide (c.wait = .endSession)

/-- S_WTX: BWT is multiplied for the next block only, and the request is answered at once (R397). -/
def opSWtx (p mult : Nat) (s : State) : State :=
  let c := s.cardPort p
  if s.cardLive p ∧ c.inApdu ∧ c.link.t1 ∧ 1 ≤ mult ∧ mult ≤ 255 then
    (s.modCard p (fun c => { c with link := { c.link with bwtMult := mult } })).send (.apdu p 0xE3 [BitVec.ofNat 8 mult])
  else s

/-- S_WTX. -/
def execSWtx (p mult : Nat) (s : State) : Host.Outcome State Fault Refusal := ret (opSWtx p mult s)

/-- CARD_WAIT_TIMEOUT: no PPS response in time (R396), or a command that exceeds its limit (R397): the TIMEOUT source counts, the card is refused and
deactivated. -/
def opCardWaitTimeout (p : Nat) (s : State) : State :=
  let c := s.cardPort p
  if s.cardLive p then
    if c.wait = .pps then s.ppsFailed p
    else if c.inApdu then ((s.faultAct 0 (672 + 4 * p + 2)).refuseCard p 3).modCard p (fun c => { c.unpower with state := .refused })
    else s
  else s

/-- CARD_WAIT_TIMEOUT. -/
def execCardWaitTimeout (p : Nat) (s : State) : Host.Outcome State Fault Refusal := ret (opCardWaitTimeout p s)

/-- CLOCK_STOP (R398). -/
def opClockStop (p : Nat) (s : State) : State :=
  let c := s.cardPort p
  if s.cardLive p ∧ bit (s.reg 0 CIU p 0x010) 1 ∧ c.link.clkStop ∧ c.link.vcc ∧ c.wait = .none then
    s.modCard p (fun c => { c with link := { c.link with clkStopped := true } })
  else s

/-- CLOCK_STOP. -/
def execClockStop (p : Nat) (s : State) : Host.Outcome State Fault Refusal := ret (opClockStop p s)

/-- VCC_OFF_HOLD_END: the 10 ms without VCC are over (R394, R404). -/
def opVccOffHoldEnd (p : Nat) (s : State) : State :=
  match (s.cardPort p).link.holdNext with
  | some cls => if s.cardLive p then s.activate p cls else s
  | none => s

/-- VCC_OFF_HOLD_END. -/
def execVccOffHoldEnd (p : Nat) (s : State) : Host.Outcome State Fault Refusal := ret (opVccOffHoldEnd p s)

/-! ### The quorum (R403) -/

/-- Multiplication in GF(2^8) modulo x^8 + x^4 + x^3 + x + 1. -/
def gfMul (a b : Byte) : Byte :=
  ((List.range 8).foldl (fun (x : Byte × Byte) i =>
    (if bit b i then x.1 ^^^ x.2 else x.1, if bit x.2 7 then (x.2 <<< (1 : Nat)) ^^^ 0x1B else x.2 <<< (1 : Nat))) (0, a)).1

/-- Inversion: the 254th power. -/
def gfInv (a : Byte) : Byte := (List.range 6).foldl (fun r _ => gfMul (gfMul r r) a) a |> fun r => gfMul r r

/-- Lagrange's coefficient at zero of the share with index `x` among indices `xs`. -/
def gfLagrange (xs : List Nat) (x : Nat) : Byte :=
  (xs.filter (fun y => decide (y ≠ x))).foldl (fun c y => gfMul c (gfMul (BitVec.ofNat 8 y) (gfInv (BitVec.ofNat 8 y ^^^ BitVec.ofNat 8 x)))) 1

/-- The secret of a set of shares, byte by byte. -/
def shamir (shares : List (Nat × List Byte)) : List Byte :=
  (List.range 32).map (fun i =>
    shares.foldl (fun a (p : Nat × List Byte) => a ^^^ gfMul (gfLagrange (shares.map Prod.fst) p.1) (p.2.getD i 0)) 0)

/-- Authenticated cards with a share, in port order. -/
def State.shares (s : State) : List (Nat × Nat × List Byte) :=
  (s.cards.ports.zipIdx).filterMap (fun (p : CardPort × Nat) => if p.1.state = .authenticated then p.1.session.share.map (fun x => (p.2, x)) else none)

/-- The digests, the owner key, the roster and the OSK of provisioning (R481 step 3), and the LC bits begin to burn (step 4). -/
def State.provision (s : State) (t : Transition) : State :=
  let key := slice t.input 32 2592
  let r := s.cards.roster
  let dg := (r.map Roster.digest).getD []
  let osk := s.rand 48
  let s := s.drawn
  { s with
    dies := s.dies.map (fun x => if x.reachable then { x with fuses := { x.fuses with ownerDigest := some (sha3256 key), roster := some dg } } else x)
    store := { s.store with ownerKey := key, roster := r }
    bbd := { s.bbd with osk := some osk }
    bbram := { s.bbram with roster := dg }
    cards := { s.cards with provisional := false }
    lcc := { s.lcc with xfer := some { t with phase := 2, waitQuorum := false } } }

/-- Quorum events on the four pages and the KVD's (R403, R404). -/
def State.quorumEvents (s : State) (b : Nat) : State := ((List.range 4).foldl (fun t p => t.event 0 CIU p b) s).event 0 KVD 0 2

/-- The idle timer starts again at a committed custodial step (R404). -/
def State.custodial (s : State) : State := { s with cards := { s.cards with quorum := { s.cards.quorum with idle := 300 } } }

/-- A quorum forms where M cards hold shares that make the roster's check value; otherwise their shares are discarded and they are refused (R403). -/
def State.tryQuorum (s : State) : State :=
  match s.cards.roster with
  | none => s
  | some r =>
    if s.cards.quorum.present ∨ s.shares.length < r.m then s
    else
      let used := s.shares.take r.m
      let qtk := shamir (used.map Prod.snd)
      if (kdf qtk "VQ-QTKCHK" []).take 16 = r.check then
        let s := { s with cards := { s.cards with quorum := ⟨true, qtk, used.map Prod.fst, 300⟩ } }
        let s := (s.quorumEvents 4).offer (Offer.of 6 0 0x5003 0)
        match s.lcc.xfer with
        | some t => if t.waitQuorum then s.provision t else s
        | none => s
      else (s.shares.map Prod.fst).foldl (fun t p => t.refuseCard p 0x0A) s

/-! ### The applet session (R400, R401) -/

/-- The reason for a status word other than 0x9000. -/
def swReason (sw : W16) : Nat := if sw = 0x6A82 then 4 else if sw = 0x6982 then 5 else 3

/-- A response arrives that the port waits for: the APDU counts, BWT is back at its value; a status word other than 0x9000 refuses the card. -/
def State.cardStep (s : State) (p : Nat) (w : CardWait) (r : CardResp) (go : State → State) : State :=
  let c := s.cardPort p
  if s.cardLive p ∧ c.wait = w then
    let s := (s.count 0 CIU p 0x10C).modCard p (fun c => { c with wait := .none, link := { c.link with bwtMult := 1 } })
    if r.sw = 0x9000 then go s else s.refuseCard p (swReason r.sw)
  else s

/-- SELECT. -/
def opCardSelect (p : Nat) (r : CardResp) (s : State) : State := s.cardStep p .select r (fun s => s.sendApdu p .info 0x10 [])

/-- SELECT. -/
def execCardSelect (p : Nat) (r : CardResp) (s : State) : Host.Outcome State Fault Refusal := ret (opCardSelect p r s)

/-- The roster entry that a card matches (R401 check 1). -/
def Roster.matching (r : Roster) (id key : List Byte) (idx : Nat) : Bool :=
  r.entries.any (fun e => decide (e.cardId = id) && decide (e.keyDigest = sha3256 key) && decide (e.index = idx))

/-- GET_INFO: check 1, then AUTHENTICATE with a fresh challenge and ML-KEM-768 key pair. -/
def opGetInfo (p : Nat) (r : CardResp) (s : State) : State :=
  s.cardStep p .info r (fun s =>
    if r.data.length ≠ 1331 then s.refuseCard p 3
    else
      let id := r.data.take 16
      let idx := (r.data.getD 18 0).toNat
      let key := r.data.drop 19
      let s := s.modCard p (fun c => { c with session := { c.session with cardId := id, index := idx, pubKey := key } })
      match s.cards.roster with
      | none => s.refuseCard p 0x0B
      | some ro =>
        if !ro.matching id key idx then s.refuseCard p 6
        else
          let ch := s.rand 32
          let dk := s.drawn.rand 64
          let ek := fit 1184 (kemPub 2 dk)
          (s.drawn.drawn.modCard p (fun c => { c with session := { c.session with challenge := ch, ek := ek, dk := dk } })).sendApdu p .auth 0x20 (ch ++ ek))

/-- GET_INFO. -/
def execGetInfo (p : Nat) (r : CardResp) (s : State) : Host.Outcome State Fault Refusal := ret (opGetInfo p r s)

/-- AUTHENTICATE: check 2, then GET_SHARE with a nonce. -/
def opAuthenticate (p : Nat) (r : CardResp) (s : State) : State :=
  s.cardStep p .auth r (fun s =>
    let x := (s.cardPort p).session
    if r.data.length ≠ 3508 then s.refuseCard p 3
    else
      let ct := r.data.take 1088
      let sig := r.data.drop 1088
      if !sigVerify 1 x.pubKey (ascii "VQ-CUST") 0 (x.challenge ++ x.ek ++ ct) sig then (s.faultAct 0 (672 + 4 * p + 3)).refuseCard p 7
      else
        let sk := (kdf (fit 32 (kemDecap 2 x.dk [] ct)) "VQ-CUSTSK" x.challenge).take 32
        let nonce := s.rand 12
        (s.drawn.modCard p (fun c => { c with session := { c.session with sk := sk, nonce := nonce, dk := [] } })).sendApdu p .share 0x30 nonce)

/-- AUTHENTICATE. -/
def execAuthenticate (p : Nat) (r : CardResp) (s : State) : Host.Outcome State Fault Refusal := ret (opAuthenticate p r s)

/-- An authenticated card on another port has the same CARD_ID or SHARE_INDEX (R401 check 4). -/
def State.duplicate (s : State) (p : Nat) (x : CardSession) : Bool :=
  (s.cards.ports.zipIdx).any (fun (q : CardPort × Nat) =>
    decide (q.2 ≠ p) && decide (q.1.state = .authenticated) && (decide (q.1.session.cardId = x.cardId) || decide (q.1.session.index = x.index)))

/-- GET_SHARE: checks 3 and 4; the card is AUTHENTICATED, and a quorum may form. -/
def opGetShare (p : Nat) (r : CardResp) (s : State) : State :=
  s.cardStep p .share r (fun s =>
    let x := (s.cardPort p).session
    match (if r.data.length = 49 then gcmOpen x.sk x.nonce x.cardId (r.data.take 33) (r.data.drop 33) else none) with
    | none => (s.faultAct 0 (672 + 4 * p + 3)).refuseCard p 8
    | some pt =>
      if (pt.getD 0 0).toNat ≠ x.index then (s.faultAct 0 (672 + 4 * p + 3)).refuseCard p 8
      else if s.duplicate p x then s.refuseCard p 9
      else
        let s := s.modCard p (fun c => { c with
          state := .authenticated, session := { c.session with share := some (x.index, slice pt 1 32), sk := [], challenge := [], ek := [] } })
        let s := (s.event 0 CIU p 2).offer { Offer.of 6 0 0x5001 (fieldLe x.cardId 0 4) with rid := BitVec.ofNat 16 p }
        (s.sendApdu p .endSession 0x40 []).tryQuorum)

/-- GET_SHARE. -/
def execGetShare (p : Nat) (r : CardResp) (s : State) : Host.Outcome State Fault Refusal := ret (opGetShare p r s)

/-- END_SESSION. -/
def opEndSession (p : Nat) (r : CardResp) (s : State) : State := s.cardStep p .endSession r id

/-- END_SESSION. -/
def execEndSession (p : Nat) (r : CardResp) (s : State) : Host.Outcome State Fault Refusal := ret (opEndSession p r s)

/-! ### QCMD and the idle timer (R404, R416) -/

/-- REAUTH of one port. -/
def State.reauthPort (s : State) (p : Nat) : State :=
  let c := s.cardPort p
  if !c.present ∨ c.session.share.isSome then s
  else if c.state = .authenticated then s.beginSession p
  else if c.state = .refused ∧ (c.reason.toNat ≤ 5 ∨ c.reason = 0x0B) then
    s.modCard p (fun c => { c.unpower with state := .deactivating, link := { CardLink.off with holdNext := some 0 } })
  else s

/-- CIU.QCMD takes effect: REAUTH or DISSOLVE, each of them logged. -/
def State.qcmd (s : State) (page : Nat) (v : W32) : State :=
  let op := bits v 0 2
  let s := if op = 1 ∨ op = 2 then s.offer { Offer.of 6 0 0x5005 0 with rid := BitVec.ofNat 16 page } else s
  if op = 1 then (List.range 4).foldl (fun t p => t.reauthPort p) s else if op = 2 then s.dissolve else s

/-- QUORUM_IDLE_EXPIRY: 300 s without a committed custodial step. -/
def opQuorumIdleExpiry (s : State) : State := if s.cards.quorum.present then s.dissolve else s

/-- QUORUM_IDLE_EXPIRY. -/
def execQuorumIdleExpiry (s : State) : Host.Outcome State Fault Refusal := ret (opQuorumIdleExpiry s)

/-- PROVISION_QUORUM_TIMEOUT: no quorum formed within t_provwait (R481). -/
def opProvisionQuorumTimeout (s : State) : State :=
  match s.lcc.xfer with
  | some t => if t.waitQuorum then s.dropTransition stQuorumAbsent else s
  | none => s

/-- PROVISION_QUORUM_TIMEOUT. -/
def execProvisionQuorumTimeout (s : State) : Host.Outcome State Fault Refusal := ret (opProvisionQuorumTimeout s)

end Sys2Proof.Machine
end

