-- ==== Sys2Proof/Machine/Fcl.lean ====
section
/-! DEFINITION. The Fault Collector's configuration, clearing and acknowledgement (R437 to R445, R458), and the Event Router's tables (R446, R459,
R69). -/

namespace Sys2Proof.Machine

/-! ### Sources and groups -/

/-- Change the collector of a die. -/
def State.modFcl (s : State) (d : Nat) (f : Fcl → Fcl) : State := s.modDie d (fun x => { x with fcl := f x.fcl })

/-- The sticky bits of a group. -/
def Fcl.group (f : Fcl) (g : Nat) : W32 :=
  BitVec.ofNat 32 (((List.range 32).map (fun b => if (Assoc.get? f.sticky (32 * g + b)).isSome then 2 ^ b else 0)).foldl (· + ·) 0)

/-- Clear the sticky bits of a group that a write names (R437). -/
def Fcl.clearGroup (f : Fcl) (g : Nat) (v : W32) : Fcl :=
  { f with sticky := f.sticky.filter (fun (p : Nat × Unit) => !(decide (p.1 / 32 = g) && bit v (p.1 % 32))) }

/-- FCL.SRC_CLEAR takes effect on the selected source (R458). -/
def State.srcClear (s : State) (d : Nat) (v : W32) : State :=
  let src := bits (s.reg d FCL 0 0x100) 0 11
  s.modFcl d (fun f => { f with sticky := if bit v 0 then Assoc.erase f.sticky src else f.sticky,
                                severe := if bit v 1 then Assoc.erase f.severe src else f.severe })

/-- SRC_CFG of a source as it reads: the last value written, with FIXED; zero for a reserved source. -/
def Fcl.cfgWord (f : Fcl) (src : Nat) : W32 :=
  if !sourceExists src then 0
  else
    let c := match Assoc.get? f.cfgNext src with
      | some w => (bits w 0 8, bits w 8 5)
      | none => f.heatCfg src
    BitVec.ofNat 32 (c.1 + 256 * c.2 + 2 ^ 31 * b2n (shippedHeat src).2.2)

/-- FCL.SRC_CFG takes effect on the selected source, from its next slice boundary (R439, R442, R458): N = 0 and a reserved WCODE leave their field
unchanged; a FIXED source ignores it. -/
def State.srcCfg (s : State) (d : Nat) (v : W32) : State :=
  let src := bits (s.reg d FCL 0 0x100) 0 11
  if !sourceExists src ∨ (shippedHeat src).2.2 then s
  else
    let w := (s.die d).fcl.cfgWord src
    let old := (bits w 0 8, bits w 8 5)
    let n := if bits v 0 8 = 0 then old.1 else bits v 0 8
    let c := if 29 < bits v 8 5 then old.2 else bits v 8 5
    s.modFcl d (fun f => { f with cfgNext := Assoc.set f.cfgNext src (BitVec.ofNat 32 (n + 256 * c)) })

/-- The job that a BNE runs fails with MACHINE_CHECK, at the end of its full time (R289). -/
def State.bneFails (s : State) (d k : Nat) : State :=
  match ((s.die d).bnes[k]?).bind (fun u => u.running.bind (fun one => (u.lane one).job)) with
  | some j => s.modJob d j (fun y => y.fail stMachineCheck 0)
  | none => s

/-- The job whose segment an SYE runs fails with MACHINE_CHECK, at the segment's end (R314). -/
def State.syeFails (s : State) (d e : Nat) : State :=
  match ((s.die d).syes[e]?).bind (fun u => (u.running.bind (Assoc.get? u.ctxs)).map SyeCtx.job) with
  | some j => s.modJob d j (fun y => y.fail stMachineCheck 0)
  | none => s

/-- What an event that a source counts does to the work of its unit: an uncorrectable error of a memory ends or fails the job there, as does a mismatch of the residue
code or of a context's parity (R196, R289, R314); a frame that fails LCODE is replayed by the other end of its link, and a heartbeat that is missing counts (R376, R391). -/
def State.sourceHits (s : State) (d src : Nat) : State :=
  let b := src % 32
  if src < 512 ∧ b = 2 then s.lveStop d (src / 32) stMachineCheck 0
  else if src / 32 = 16 ∧ (b % 8 = 1 ∨ b % 8 = 2) then s.bneFails d (b / 8)
  else if src = 545 ∨ src = 547 then s.syeFails d 0
  else if src = 553 ∨ src = 555 then s.syeFails d 1
  else if src = 608 ∨ src = 616 then
    let p := (src - 608) / 8
    (s.count d RLK p 0x104).count (s.peer d p).1 RLK (s.peer d p).2 0x108
  else if src = 610 ∨ src = 618 then s.count d RLK ((src - 610) / 8) 0x10C
  else s

/-- SEVERE: a source counts an event that no other command carries; when its heat reaches N its steps follow (R437, R440, R441). -/
def opSevere (d src : Nat) (s : State) : State := if d < s.nDies ∧ (s.die d).watching then (s.sourceHits d src).faultAct d src else s

/-- SEVERE. -/
def execSevere (d src : Nat) (s : State) : Host.Outcome State Fault Refusal := ret (opSevere d src s)

/-- A slice of W / 16 of a window code ends: the windows of that code advance and their pending configurations apply (R440, R442). -/
def Fcl.slice (f : Fcl) (code : Nat) : Fcl :=
  let mine (src : Nat) : Bool := decide ((f.heatCfg src).2 = code)
  { f with
    heat := (f.heat.map (fun (p : Nat × Heat) => if mine p.1 then (p.1, (⟨0 :: p.2.slices.take 15⟩ : Heat)) else p)).filter
      (fun (p : Nat × Heat) => p.2.slices.any (fun n => decide (n ≠ 0)))
    cfg := (f.cfgNext.filter (fun (p : Nat × W32) => mine p.1)).foldl (fun (m : Assoc W32) (p : Nat × W32) => Assoc.set m p.1 p.2) f.cfg
    cfgNext := f.cfgNext.filter (fun (p : Nat × W32) => !mine p.1) }

/-- HEAT_SLICE_BOUNDARY. -/
def execHeatSliceBoundary (d code : Nat) (s : State) : Host.Outcome State Fault Refusal := ret (s.modFcl d (·.slice code))

/-- FCL.GRP_CTRL: the acknowledgement of the selected group (R444). -/
def opGrpCtrl (d : Nat) (v : W32) (s : State) : State :=
  let g := bits (s.reg d FCL 0 0x110) 0 6
  let f := (s.die d).fcl
  if !bit v 0 ∨ (Assoc.get? f.handling g).isNone then s
  else if f.group g = 0 then s.modFcl d (fun f => { f with handling := Assoc.erase f.handling g })
  else s.event d FCL 0 0

/-- FCL.FAULT_PIN takes effect: DRIVE (R445). -/
def State.faultPin (s : State) (v : W32) : State := s.setReg 0 FCL 0 0x130 (v &&& 1#32)

/-- FAULT_PULSE_END (R445). -/
def execFaultPulseEnd (s : State) : Host.Outcome State Fault Refusal :=
  ret { s with pkg := { s.pkg with fault := { s.pkg.fault with pulse := false } } }

/-! ### The Event Router's tables (R446, R459) -/

/-- A write of ROUTE for the selected page; enabling it while the page raises its event sends one message. -/
def opRoute (v : W32) (s : State) : State :=
  let sel := s.reg 0 EVR 0 0x100
  let key := sel.toNat
  let blk := bits sel 4 8
  let v := v &&& 0x800007FF#32
  if fixedRoute blk then s
  else
    let was := bit (s.evr.route (bits sel 0 3) blk (bits sel 12 4)) 31
    let t := { s with evr := { s.evr with routes := Assoc.set s.evr.routes key v } }
    if bit v 31 ∧ !was ∧ (s.die (bits sel 0 3)).raises blk (bits sel 12 4) then t.signal (bits v 0 11) else t

/-- A write of MQ_ROUTE for the selected manager queue; enabling it with PENDING sends one message. -/
def opMqRoute (v : W32) (s : State) : State :=
  let key := (s.reg 0 EVR 0 0x108).toNat
  let old := Assoc.getD s.evr.mqRoutes key 0
  let v := v &&& 0x800007FF#32
  if bit v 31 ∧ bit old 30 then ({ s with evr := { s.evr with mqRoutes := Assoc.set s.evr.mqRoutes key v } }).signal (bits v 0 11)
  else { s with evr := { s.evr with mqRoutes := Assoc.set s.evr.mqRoutes key (v ||| (old &&& 0x40000000#32)) } }

/-- A word of an interrupt table entry (R69); PENDING is read-only. -/
def IitEntry.setWord (e : IitEntry) (w : Nat) (v : W32) : IitEntry :=
  if w = 0 then { e with addr := (e.addr.extractLsb' 32 32 ++ (v &&& 0xFFFFFFFC#32) : BitVec 64) }
  else if w = 1 then { e with addr := (v ++ e.addr.extractLsb' 0 32 : BitVec 64) }
  else if w = 2 then { e with data := v }
  else { e with ctl := (v &&& 0x07FF0003#32) ||| (e.ctl &&& 4#32) }

/-- A write of IIT_DATA for the selected entry. -/
def opIitData (w : Nat) (v : W32) (s : State) : State :=
  let i := bits (s.reg 0 EVR 0 0x110) 0 15
  if w < 4 then { s with evr := { s.evr with iit := Assoc.set s.evr.iit i ((s.evr.iitEntry i).setWord w v) } } else s

end Sys2Proof.Machine
end

