-- ==== Sys2Proof/Machine/Audit.lean ====
section
/-! DEFINITION. The audit log (R448 to R456): recorded register writes and what commits with their acceptance, the arbiter, the
chain, checkpoints, and the entries of jobs. -/

namespace Sys2Proof.Machine

/-! ### Recorded register writes (R448, R449) -/

/-- Block, instance and offset in the page of a window offset (R53). -/
def woffParts (off : Nat) : Nat × Nat × Nat := (off / 0x10000, off / 0x1000 % 16, off % 0x1000)

/-- The register write-only in its effect, or kept elsewhere than in the stored registers, that a window offset names. -/
def State.oldValue (s : State) (d off : Nat) : W32 :=
  let p := woffParts off
  if p.1 = FCL ∧ p.2.2 = 0x104 then (s.die d).fcl.cfgWord (bits (s.reg d FCL 0 0x100) 0 11)
  else if p.1 = FCL ∧ p.2.2 = 0x10C then
    let src := bits (s.reg d FCL 0 0x100) 0 11
    BitVec.ofNat 32 (b2n (Assoc.get? (s.die d).fcl.sticky src).isSome + 2 * b2n (Assoc.get? (s.die d).fcl.severe src).isSome)
  else if p.1 = BBD ∧ p.2.2 = 0x118 then s.bbd.tmpCfg
  else if p.1 = DMX ∧ p.2.2 = 0x104 then BitVec.ofNat 32 (b2n ((s.die d).chan (bits (s.reg d DMX 0 0x100) 0 4)).offline)
  else s.reg d p.1 p.2.1 p.2.2

/-- A value that a lockable register takes: the watermarks need LOW < HIGH and HIGH within the ring (R344), an owner table at least 66 entries (R181), a source
must not be FIXED (R442, R458). -/
def State.rwlTakes (s : State) (d off : Nat) (v : W32) : Bool :=
  let p := woffParts off
  let marks (ring : Nat) : Bool := decide (bits v 16 12 < bits v 0 12 ∧ bits v 0 12 ≤ ring)
  if p.1 = DMX ∧ p.2.2 = 0x140 then marks 2050
  else if p.1 = DMX ∧ p.2.2 = 0x144 then marks 8
  else if p.1 = DMX ∧ p.2.2 = 0x148 then marks 64
  else if p.1 = KVD ∧ p.2.2 = 0x118 then decide (66 ≤ bits v 0 20)
  else if p.1 = FCL ∧ p.2.2 = 0x104 then
    sourceExists (bits (s.reg d FCL 0 0x100) 0 11) && !(shippedHeat (bits (s.reg d FCL 0 0x100) 0 11)).2.2
  else true

/-- A register written with a plain value where the page's LOCK does not hold it (R12, R56). -/
def State.rwlWrite (s : State) (d blk inst o : Nat) (v : W32) : State :=
  match regRow? blk o with
  | none => s
  | some r =>
    if (s.die d).locked blk inst then s
    else
      let m := BitVec.ofNat 32 r.mask
      s.setReg d blk inst o ((v &&& m) ||| (s.reg d blk inst o &&& ~~~m))

/-- The write of a recorded register takes effect. -/
def State.applyReg (s : State) (d off : Nat) (v : W32) : State :=
  let p := woffParts off
  let blk := p.1
  let inst := p.2.1
  let o := p.2.2
  if o = 0x00C then (if bit v 0 then s.setReg d blk inst 0x00C 1 else s)
  else if blk = LVE ∧ o = 0x010 then s.lveCtrl d inst v
  else if blk = MCS ∧ o = 0x010 then s.mcsCtrl d inst v
  else if blk = BNE ∧ o = 0x010 then s.bneCtrl d inst v
  else if blk = SYE ∧ o = 0x010 then s.syeCtrl d inst v
  else if blk = DMX ∧ o = 0x104 then s.chCtrl d v
  else if blk = RLK ∧ o = 0x20C then s.dieResetReq v
  else if blk = CIU ∧ o = 0x204 then s.qcmd inst v
  else if blk = VIM ∧ o = 0x110 then s.instCmd v
  else if blk = FCL ∧ o = 0x10C then s.srcClear d v
  else if blk = FCL ∧ o = 0x130 then s.faultPin v
  else if blk = HIF ∧ o = 0x108 then (if v = 0x0000A55A then s.warmSource 4 else s)
  else if (s.die d).locked blk inst || !s.rwlTakes d off v then s
  else if blk = FCL ∧ o = 0x104 then s.srcCfg d v
  else if blk = BBD ∧ o = 0x118 then { s with bbd := { s.bbd with tmpCfg := v &&& 0x1F1F1F1F#32 } }
  else s.rwlWrite d blk inst o v

/-- A change takes effect. -/
def State.applyChange (s : State) (c : Change) : State :=
  match c with
  | .none => s
  | .reg d off v => s.applyReg d off v

/-- The write would take effect: what makes it a change entry (R456). -/
def State.wouldApply (s : State) (d off : Nat) (v : W32) : Bool :=
  let p := woffParts off
  if p.2.2 = 0x00C then bit v 0
  else if p.1 = MCS ∧ p.2.2 = 0x010 then bit v 0
  else if p.1 = HIF ∧ p.2.2 = 0x108 then decide (v = 0x0000A55A)
  else if p.1 = RLK ∧ p.2.2 = 0x20C then decide (bits v 16 16 = 0xA55A)
  else if p.1 = CIU ∧ p.2.2 = 0x204 then decide (bits v 0 2 = 1 ∨ bits v 0 2 = 2)
  else if p.1 = VIM ∧ p.2.2 = 0x110 then decide (bits v 0 2 = 1)
  else match regRow? p.1 p.2.2 with
    | some r => decide (r.acc ≠ .rwl) || (!(s.die d).locked p.1 p.2.1 && s.rwlTakes d off v)
    | none => false

/-! ### The arbiter (R452 to R454, R456) -/

/-- The holder whose ALG page shows the log. -/
def State.algDie (s : State) : Nat := s.baton.holder.getD 0

/-- An entry that is not placed counts in MISSED (R456, R460). -/
def State.miss (s : State) : State :=
  let s := if s.alg.missed = 0 then s.event s.algDie ALG 0 3 else s
  { s with alg := { s.alg with missed := s.alg.missed + 1 } }

/-- Bytes 0 to 47 of an entry (R450). -/
def entryHead (s : State) (o : Offer) (result : Nat) : List Byte :=
  leBytes 8 s.bbd.rtc.toNat ++ leBytes 4 (s.alg.seqNo % 2 ^ 32) ++ [BitVec.ofNat 8 o.kind, BitVec.ofNat 8 o.die] ++ leBytes 2 o.inst
    ++ leBytes 4 (match o.pasid with | some p => p.toNat + 2 ^ 31 | none => 0) ++ leBytes 2 o.rid.toNat ++ leBytes 2 o.event
    ++ leBytes 4 (o.object % 2 ^ 32) ++ leBytes 2 result ++ [0, 0] ++ (sha3256 o.digestOf).take 16

/-- Levels that the occupancy has crossed: HIGH_WATER and FULL (R456, R460). -/
def State.logLevels (s : State) (before : Nat) : State :=
  let h := s.algDie
  let hwm := (s.reg h ALG 0 0x108).toNat
  let s1 := if before < hwm ∧ hwm ≤ s.alg.occupancy then s.event h ALG 0 0 else s
  if 330 < 16384 - before ∧ s.alg.free ≤ 330 then s1.event h ALG 0 1 else s1

/-- Place an entry: its sequence number, its chain value, its slot (R450, R453, R454). -/
def State.place (s : State) (o : Offer) (result : Nat) : State :=
  let hd := entryHead s o result
  let h := sha384 (s.alg.chain ++ hd)
  let occ := s.alg.occupancy
  let n := s.alg.sinceCkpt + 1
  ({ s with alg := { s.alg with
      slots := s.alg.slots ++ [LogSlot.entry (hd ++ h.take 16)], seqNo := s.alg.seqNo + 1, chain := h, sinceCkpt := n,
      ckptDue := s.alg.ckptDue || decide (1024 ≤ n) || decide (o.event = 0x0001) } }).logLevels occ

/-- What the acceptance of an entry clears in the tamper record (R428). -/
def State.unrecord (s : State) (o : Offer) : State :=
  if !o.fromRecord then s
  else if o.event = 0x0007 then { s with bbd := { s.bbd with overflow := 0 } }
  else { s with bbd := { s.bbd with record := s.bbd.record.eraseP (fun e => decide (recordOffer e = o)) } }

/-- The arbiter takes one offer (R456): placed with its change, refused with an entry, or not placed. -/
def State.arbitrate (s : State) (o : Offer) : State :=
  let f := s.alg.free
  if f ≤ 74 then
    let s := s.miss
    if decide (o.kind = 4) && !o.fromRecord && !o.refusable then s.recordTamper (o.event % 0x1000) o.result o.die else s
  else
    let s := if s.alg.missed ≠ 0 ∧ 75 < f then
        let t := s.place (Offer.of 0 s.algDie 0x0003 s.alg.missed) 0
        { t with alg := { t.alg with missed := 0 } }
      else s
    if o.refusable ∧ f ≤ 330 then (s.place o stLogFull.toNat).count s.algDie ALG 0 0x114
    else ((s.place o o.result).unrecord o).applyChange o.change

/-- The checkpoint that is due is appended with the 73 slots of its signature (R454). -/
def State.appendCkpt (s : State) : State :=
  if s.alg.free < 74 then s
  else
    let alias_ := ((s.die 0).kvd.derived.map Derived.alias_).getD []
    let o := { Offer.of 0 s.algDie 0x0002 (s.alg.prevCkpt.getD 0xFFFFFFFF) with digestOf := fit 2592 (mldsaPk alias_) }
    let hd := entryHead s o 0
    let h := sha384 (s.alg.chain ++ hd)
    let occ := s.alg.occupancy
    ({ s with alg := { s.alg with
        slots := s.alg.slots ++ [LogSlot.checkpoint (hd ++ h.take 16) h none], prevCkpt := some (s.alg.seqNo % 2 ^ 32), seqNo := s.alg.seqNo + 1, chain := h,
        sinceCkpt := 0, ckptDue := false, signing := true } }).logLevels occ

/-- The arbiter accepts entries. -/
def State.arbiterReady (s : State) : Bool := !s.alg.stopped && !s.alg.ckptDue

/-- AUDIT_ENTRY_ACCEPT: the next offer, in the order of the queue. -/
def opAuditEntryAccept (s : State) : State :=
  match s.alg.offers with
  | [] => s
  | o :: rest => if s.arbiterReady then ({ s with alg := { s.alg with offers := rest } }).arbitrate o else s

/-- AUDIT_ENTRY_ACCEPT. -/
def execAuditEntryAccept (s : State) : Host.Outcome State Fault Refusal := ret (opAuditEntryAccept s)

/-- CHECKPOINT (R454). -/
def opCheckpoint (s : State) : State := if s.alg.ckptDue ∧ !s.alg.stopped then s.appendCkpt else s

/-- CHECKPOINT. -/
def execCheckpoint (s : State) : Host.Outcome State Fault Refusal := ret (opCheckpoint s)

/-- The first checkpoint without a signature receives it; its SEQ. -/
def signSlots (alias_ : List Byte) (l : List LogSlot) : List LogSlot × Option Nat :=
  match l with
  | [] => ([], none)
  | LogSlot.checkpoint b h none :: r =>
    (LogSlot.checkpoint b h (some (fit 4627 (mldsaSign alias_ (ascii "VQ-AUDIT") (b.take 48 ++ h)))) :: r, some (fieldLe b 8 4))
  | x :: r => let t := signSlots alias_ r; (x :: t.1, t.2)

/-- A slot is a checkpoint that waits for its signature. -/
def LogSlot.unsigned : LogSlot → Bool
  | LogSlot.checkpoint _ _ none => true
  | _ => false

/-- CHECKPOINT_SIGNED (R454). -/
def opCheckpointSigned (s : State) : State :=
  let alias_ := ((s.die 0).kvd.derived.map Derived.alias_).getD []
  match signSlots alias_ s.alg.slots with
  | (l, some q) => ({ s with alg := { s.alg with slots := l, ckptSeq := q, signing := l.any LogSlot.unsigned } }).event s.algDie ALG 0 2
  | (_, none) => s

/-- CHECKPOINT_SIGNED. -/
def execCheckpointSigned (s : State) : Host.Outcome State Fault Refusal := ret (opCheckpointSigned s)

/-- The entries of a slot group as bytes (R450, R454): the signature's 73 slots padded with zeros. -/
def LogSlot.bytes : LogSlot → List Byte
  | .entry b => b
  | LogSlot.checkpoint b _ sig => b ++ fit 4672 (sig.getD [])

/-- Offers that come before something are accepted, with the checkpoints that fall due, at most `n` of them. -/
def drainOffers (n : Nat) (s : State) : State :=
  match n with
  | 0 => s
  | n + 1 =>
    if s.alg.stopped then s
    else if s.alg.ckptDue then drainOffers n s.appendCkpt
    else match s.alg.offers with
      | [] => s
      | _ :: _ => drainOffers n (opAuditEntryAccept s)

/-- Entries of the tamper record that wait for no acceptance are offered (R428, R433). -/
def State.offerRecord (s : State) : State :=
  { s with alg := { s.alg with
      offers := s.alg.offers ++ (s.bbd.record.map recordOffer).filter (fun o => !s.alg.offers.contains o) } }

/-- Drop whole slots from the front, `n` of the 64-byte slots. -/
def dropSlots (l : List LogSlot) (n : Nat) : List LogSlot :=
  match l with
  | [] => []
  | x :: r => if x.size ≤ n then dropSlots r (n - x.size) else x :: r

/-- The slots that a drain has written are freed; the tamper record's entries get their turn (R428, R455). -/
def State.freeSlots (s : State) (n : Nat) : State :=
  (({ s with alg := { s.alg with slots := dropSlots s.alg.slots n, draining := none } }).progress s.algDie ALG 0 1024 1000).offerRecord

/-- Every offer made so far is accepted. -/
def State.drain (s : State) : State := drainOffers (2 * s.alg.offers.length + 2) s

/-! ### Register writes that are recorded -/

/-- The entry of a register write (R448, R451). -/
def State.writeOffer (s : State) (d off : Nat) (v : W32) (rid : W16) : Offer :=
  let would := s.wouldApply d off v
  let key := decide (off = woff HIF 0 0x108) && decide (v = 0x0000A55A)
  { Offer.of 1 d (if key then 0x2005 else 0x1000 + off / 0x10000) off with
    rid := rid, digestOf := if key then [] else leBytes 4 (s.oldValue d off).toNat ++ leBytes 4 v.toNat,
    refusable := would, change := if would then .reg d off v else .none }

/-- A host write to a register that R448 lists: offered, and committed with its acceptance; while the log is stopped it is ignored and counted, but for
the key of DEV_RESET (R449). -/
def State.recordedWrite (s : State) (d off : Nat) (v : W32) (rid : W16) : State :=
  if s.alg.stopped then (if off = woff HIF 0 0x108 ∧ v = 0x0000A55A then s.warmSource 4 else s.miss)
  else s.offer (s.writeOffer d off v rid)

/-- A write of a recorded register of a page that a die has. -/
def opRecorded (d blk inst o : Nat) (w : RegW) (s : State) : State :=
  if (s.die d).reachable ∧ d < s.nDies ∧ inst < pagesOf blk then s.recordedWrite d (woff blk inst o) w.value w.rid else s

/-! ### Entries of jobs (R448, R449, R456) -/

/-- The entry of a job (R450, R451): its opcode, KEY_HANDLE or PARAM, its final status, the header of the blob it produced. -/
def Job.offer (x : Job) (d : Nat) (status : W16) (header : List Byte) (pasid : Option (BitVec 20)) (change : Bool) : Offer :=
  { Offer.of (if x.src.mgr then 1 else 2) d x.sqe.opcode.toNat (if x.sqe.handle = 0 then x.sqe.par 0 32 else x.sqe.handle.toNat) with
    inst := if x.src.mgr then 0xFFFF else x.src.inst, pasid := if x.src.mgr then none else pasid, rid := x.src.rid, result := status.toNat,
    digestOf := header, refusable := change }

/-- Jobs that the log records: class 0x6, and class 0xF but LOG_DRAIN. -/
def Sqe.recorded (e : Sqe) : Bool := decide (e.cls = 6) || (decide (e.cls = 15) && decide (e.op ≠ 0xF040))

/-- Jobs whose entry is a change entry: class 0x6 operations that R171 row 3 checks, class 0xF but ZEROISE and LOG_DRAIN (R456). -/
def Sqe.isChange (e : Sqe) : Bool :=
  (decide (e.cls = 6) && decide (e.op ≠ 0x6003 ∧ e.op ≠ 0x6007)) || (decide (e.cls = 15) && decide (e.op ≠ 0xF030 ∧ e.op ≠ 0xF040))

/-- The PASID an instance's job carries. -/
def State.jobPasid (s : State) (x : Job) : Option (BitVec 20) := if x.src.mgr then none else some (s.inst x.src.inst).cfg.pasid

/-- Record a job with a status: offers made before it are accepted first, then its own. The answer says whether a change may commit. -/
def State.recordJob (s : State) (d j : Nat) (status : W16) (header : List Byte) (change : Bool) : State × Bool :=
  match s.job? d j with
  | none => (s, false)
  | some x =>
    if !x.sqe.recorded then (s, true)
    else if s.alg.stopped then (s.miss, false)
    else
      let s := s.drain
      let ok := !change || decide (330 < s.alg.free)
      (s.arbitrate (x.offer d status header (s.jobPasid x) change), ok)

/-- A recorded job ends with a status, without output: recorded, then completed (R449). -/
def State.closeJob (s : State) (d j : Nat) (status : W16) (detail : W32) (etime : Nat) : State :=
  ((s.recordJob d j status [] false).1.result d j status detail etime []).jobDone d j

end Sys2Proof.Machine
end

