-- ==== Sys2Proof/Machine/Edwards.lean ====
section
/-! DEFINITION. Ed25519 and Ed448 (R104, R287; FIPS 186-5, RFC 8032): points, key pairs, signatures and the cofactorless verification. -/

namespace Sys2Proof.Machine

/-- An Edwards curve a·x² + y² = 1 + d·x²·y²: field, a (1 or p - 1), d, base point, group order, length of an encoded point. -/
structure EdCurve where
  p : Nat
  a : Nat
  d : Nat
  bx : Nat
  bY : Nat
  n : Nat
  len : Nat
  deriving DecidableEq, Repr

/-- Ed25519. -/
def ed25519 : EdCurve :=
  ⟨2 ^ 255 - 19, 2 ^ 255 - 20, 37095705934669439343138083508754565189542113879843219016388785533085940283555,
   15112221349535400772501151409588531511454012693041857206046113283949847762202,
   46316835694926478169428394003475163141307993866256225615783033603165251855960,
   2 ^ 252 + 27742317777372353535851937790883648493, 32⟩

/-- Ed448. -/
def ed448 : EdCurve :=
  ⟨2 ^ 448 - 2 ^ 224 - 1, 1, 2 ^ 448 - 2 ^ 224 - 1 - 39081,
   224580040295924300187604334099896036246789641632564134246125461686950415467406032909029192869357953282578032075146446173674602635247710,
   298819210078481492676017930443930673437544040154080242095928241372331506189835876003536878655418784733982303233503462500531545062832660,
   2 ^ 446 - 13818066809895115352007386748515426880336692474882178609894547503885, 57⟩

/-- The curve of PSET 6 or 7. -/
def edOf (ps : Nat) : EdCurve := if ps = 6 then ed25519 else ed448

/-- A point in projective coordinates. -/
abbrev EdPoint := Nat × Nat × Nat

/-- The complete sum of two points. -/
def EdCurve.add (c : EdCurve) (s t : EdPoint) : EdPoint :=
  let p := c.p
  let a := s.2.2 * t.2.2 % p
  let b := a * a % p
  let cc := s.1 * t.1 % p
  let dd := s.2.1 * t.2.1 % p
  let e := c.d * cc % p * dd % p
  let f := subMod b e p
  let g := (b + e) % p
  let xy := subMod ((s.1 + s.2.1) * (t.1 + t.2.1)) ((cc + dd) % p) p
  (a * f % p * xy % p, a * g % p * subMod dd (c.a * cc) p % p, f * g % p)

/-- A multiple of a point, by the bits of the scalar. -/
def EdCurve.mulN (c : EdCurve) (n k : Nat) (q : EdPoint) : EdPoint :=
  match n with
  | 0 => (0, 1, 1)
  | n + 1 =>
    let r := c.mulN n (k / 2) (c.add q q)
    if k % 2 = 1 then c.add q r else r

/-- k·Q. -/
def EdCurve.mul (c : EdCurve) (k : Nat) (q : EdPoint) : EdPoint := c.mulN (k.log2 + 1) k q

/-- The base point. -/
def EdCurve.base (c : EdCurve) : EdPoint := (c.bx, c.bY, 1)

/-- An encoded point: y, with the sign of x in the top bit. -/
def EdCurve.encode (c : EdCurve) (q : EdPoint) : List Byte :=
  let z := invMod q.2.2 c.p
  let x := q.1 * z % c.p
  let y := q.2.1 * z % c.p
  leBytes c.len (y + x % 2 * 2 ^ (8 * c.len - 1))

/-- A square root of u / v, where there is one. -/
def EdCurve.root (c : EdCurve) (u v : Nat) : Option Nat :=
  let p := c.p
  let w := u * invMod v p % p
  let x := if p % 4 = 3 then modExp w ((p + 1) / 4) p else modExp w ((p + 3) / 8) p
  if x * x % p = w then some x
  else if p % 4 = 3 then none
  else
    let x' := x * modExp 2 ((p - 1) / 4) p % p
    if x' * x' % p = w then some x' else none

/-- The point of an encoding; none for every non-canonical or false one (R104). -/
def EdCurve.decode (c : EdCurve) (b : List Byte) : Option EdPoint :=
  let n := leNat b
  let sign := n / 2 ^ (8 * c.len - 1)
  let y := n % 2 ^ (8 * c.len - 1)
  if b.length ≠ c.len ∨ c.p ≤ y then none
  else
    match c.root (subMod 1 (y * y) c.p) (subMod c.a (c.d * (y * y % c.p)) c.p) with
    | none => none
    | some x =>
      if x = 0 ∧ sign = 1 then none
      else some (if x % 2 = sign then x else c.p - x, y, 1)

/-- The hash with its domain separation: context and pre-hash flag; none of it for plain Ed25519. -/
def EdCurve.hash (c : EdCurve) (pre : Bool) (ctx msg : List Byte) : Nat :=
  if c.len = 32 then
    let dom := if pre ∨ ctx ≠ [] then ascii "SigEd25519 no Ed25519 collisions" ++ [BitVec.ofNat 8 (b2n pre), BitVec.ofNat 8 ctx.length] ++ ctx else []
    leNat (sha2 3 64 (dom ++ msg))
  else leNat (sponge 136 0x1F 114 (ascii "SigEd448" ++ [BitVec.ofNat 8 (b2n pre), BitVec.ofNat 8 ctx.length] ++ ctx ++ msg))

/-- The scalar and the prefix of a private key. -/
def EdCurve.expand (c : EdCurve) (priv : List Byte) : Nat × List Byte :=
  let h := if c.len = 32 then sha2 3 64 priv else sponge 136 0x1F 114 priv
  let x := leNat (h.take c.len)
  (if c.len = 32 then x / 8 * 8 % 2 ^ 254 + 2 ^ 254 else x / 4 * 4 % 2 ^ 447 + 2 ^ 447, h.drop c.len)

/-- The public key. -/
def EdCurve.pub (c : EdCurve) (priv : List Byte) : List Byte := c.encode (c.mul (c.expand priv).1 c.base)

/-- A signature of a message, or with `pre` of its digest. -/
def EdCurve.sign (c : EdCurve) (pre : Bool) (priv ctx msg : List Byte) : List Byte :=
  let k := c.expand priv
  let r := c.hash pre ctx (k.2 ++ msg) % c.n
  let rb := c.encode (c.mul r c.base)
  let h := c.hash pre ctx (rb ++ c.pub priv ++ msg)
  rb ++ leBytes c.len ((r + h % c.n * k.1) % c.n)

/-- Verification: S below the order, R and A canonical, [S]B = R + [k]A (R104). -/
def EdCurve.verify (c : EdCurve) (pre : Bool) (pk ctx msg sig : List Byte) : Bool :=
  let rb := sig.take c.len
  let s := leNat (sig.drop c.len)
  match c.decode rb, c.decode pk with
  | some r, some a =>
    decide (s < c.n) && decide (c.encode (c.mul s c.base) = c.encode (c.add r (c.mul (c.hash pre ctx (rb ++ pk ++ msg) % c.n) a)))
  | _, _ => false

end Sys2Proof.Machine
end

