-- ==== Sys2Proof/Machine/BmpPort.lean ====
section
/-! DEFINITION. The backup media port (R405 to R408, R414, R417): identification, the transfers of a running export or import, their
errors, removal and reinsertion. The steps of the jobs themselves are in Machine/Backup. -/

namespace Sys2Proof.Machine

/-- Change the port. -/
def State.modBmp (s : State) (f : Bmp → Bmp) : State := { s with bmp := f s.bmp }

/-- Change the operation it runs. -/
def State.modBk (s : State) (f : BkJob → BkJob) : State := s.modBmp (fun b => { b with op := b.op.map f })

/-- The mode reached from those that the port may use, highest first, and the modes whose checked switch succeeds: one retry at the next lower mode,
else Default Speed (R406). -/
def reachMode (tries ok : List Nat) : Nat :=
  match tries with
  | a :: b :: _ => if ok.contains a then a else if ok.contains b then b else 0
  | [a] => if ok.contains a then a else 0
  | [] => 0

/-- VOLUME_STATE of a block 0 (R417). -/
def volumeState (b : List Byte) : Nat :=
  if b.take 4 = [0x56, 0x51, 0x42, 0x4B] ∧ fieldLe b 4 2 = 1 ∧ (b.getD 6 0 = 1 ∨ b.getD 6 0 = 2) then (b.getD 6 0).toNat else 0

/-- Volume bytes not transferred (R414). -/
def BkJob.bytesLeft (o : BkJob) : Nat := if o.exporting ∧ o.items.length < o.step then 512 else 512 * (o.blocks + 1 - o.lba)

/-- Send the transfer under way: a write of the record from its first block, or a read (R407). A write of one block is CMD24, of several CMD25 and
CMD12; a read CMD17, or CMD18 and CMD12. -/
def State.bkSend (s : State) : State :=
  match s.bmp.op with
  | none => s
  | some o =>
    let n := if o.exporting then (o.record.length + 511) / 512 else o.block
    let addr (l : Nat) : Nat := if s.bmp.capacity = 0 then 512 * l else l
    let s := s.modBmp (fun b => { b with state := if o.exporting then .busy else .transfer, clkStopped := false })
    if o.exporting then
      s.sends (([Tx.sdCmd (if n = 1 then 24 else 25) (addr o.lba)] ++ (List.range n).map (fun i => Tx.sdData (o.lba + i) (slice o.record (512 * i) 512)))
        ++ (if n = 1 then [] else [Tx.sdCmd 12 0]))
    else
      s.sends ([Tx.sdCmd (if n = 1 then 17 else 18) (addr (o.lba + (o.record.length + 511) / 512))] ++ (if n = 1 then [] else [Tx.sdCmd 12 0]))

/-- The port writes a record from a block on. -/
def State.bkWrite (s : State) (lba : Nat) (data : List Byte) : State :=
  ((s.modBmp (fun b => { b with retries := 0 })).modBk (fun o => { o with record := data, lba := lba, block := (data.length + 511) / 512, checking := false })).bkSend

/-- The port reads so many more blocks of the record that begins at a block. -/
def State.bkRead (s : State) (lba n : Nat) (have_ : List Byte) : State :=
  ((s.modBmp (fun b => { b with retries := 0 })).modBk (fun o => { o with record := have_, lba := lba, block := n, checking := false })).bkSend

/-- A transfer of the operation is under way. -/
def State.bkBusy (s : State) : Bool := decide (s.bmp.state = .transfer) || decide (s.bmp.state = .busy)

/-- The card enters ERROR and is power-cycled; an operation waits for it as for a reinsertion (R407, R414). -/
def State.bkError (s : State) : State :=
  ((s.modBmp (fun b => { b with state := .error, retries := 0, op := b.op.map (fun o => { o with waiting := true }) })).event 0 BMP 0 3).sends
    [.cardPower 4 0, .cardPower 4 1]

/-- A transfer is tried again, three times at most (R407). -/
def State.bkRetry (s : State) : State :=
  if 3 ≤ s.bmp.retries then s.bkError else (s.modBmp (fun b => { b with retries := b.retries + 1 })).bkSend

/-- The block 0 of a reinserted card carries the volume of the operation, in its state; while an export writes the closing header, the header may be there
already (R414). -/
def BkJob.sameVolume (o : BkJob) (h : List Byte) : Bool :=
  (decide (volumeState h = if o.exporting then 1 else 2) || decide (o.exporting = true ∧ o.step = o.items.length + 1 ∧ volumeState h = 2))
    && decide (slice h 8 16 = o.volumeId)

/-- BACKUP_CARD_REMOVED (R408, R414). -/
def opBackupCardRemoved (s : State) : State :=
  if s.bmp.present then
    let op := s.bmp.op.map (fun o => { o with waiting := true })
    (((({ s with bmp := { Bmp.empty with op := op } }).event 0 BMP 0 1).count 0 BMP 0 0x11C)).send (.cardPower 4 0)
  else s.modBmp (fun b => { b with detLow := false })

/-- BACKUP_CARD_REMOVED. -/
def execBackupCardRemoved (s : State) : Host.Outcome State Fault Refusal := ret (opBackupCardRemoved s)

/-- BLOCK_READ: the data of the blocks requested; a CRC error is retried (R407). The job takes it from here. -/
def opBlockRead (r : BlockResult) (s : State) : State :=
  match s.bmp.op with
  | none => s
  | some o =>
    if s.bmp.state ≠ .transfer ∨ o.waiting then s
    else if (s.job? o.die o.job).isNone then s.modBmp (fun b => { b with op := none, state := .ready })
    else match r with
      | .good data =>
        (s.modBmp (fun b => { b with state := .ready })).modBk (fun o => { o with record := o.record ++ fit (512 * o.block) data, checking := true })
      | .crcError => ((s.faultAct 0 689).count 0 BMP 0 0x114).bkRetry

/-- BLOCK_READ. -/
def execBlockRead (r : BlockResult) (s : State) : Host.Outcome State Fault Refusal := ret (opBlockRead r s)

/-- SD_TIMEOUT: a command CRC error is retried; a response, read data or busy beyond its limit sends the card into ERROR (R407). -/
def opSdTimeout (l : SdLimit) (s : State) : State :=
  if !s.bkBusy then s
  else match l with
    | .cmdCrc => ((s.faultAct 0 688).count 0 BMP 0 0x110).bkRetry
    | .response => ((s.faultAct 0 690).count 0 BMP 0 0x110).bkError
    | .data => (s.faultAct 0 690).bkError
    | .busy => ((s.faultAct 0 690).count 0 BMP 0 0x118).bkError

/-- SD_TIMEOUT. -/
def execSdTimeout (l : SdLimit) (s : State) : Host.Outcome State Fault Refusal := ret (opSdTimeout l s)

/-- BK_CLOCK_IDLE: after 1 ms idle the port stops BK_CLK (R407). -/
def execBkClockIdle (s : State) : Host.Outcome State Fault Refusal :=
  ret (if s.bmp.state = .ready then s.modBmp (fun b => { b with clkStopped := true }) else s)

end Sys2Proof.Machine
end

