-- ==== Sys2Proof/Machine/KeyOps.lean ====
section
/-! DEFINITION. Keys: HB2 blobs (R156), the hierarchies and their generations (R149, R150, R164, R166), slots (R158, R160), the checks of a
key for its operation (R157, R159, R81), and the wrapping of new blobs (R77). -/

namespace Sys2Proof.Machine

/-! ### HB2 blobs (R156) -/

/-- The header of a blob. -/
structure BlobHdr where
  scope : Nat
  unbound : Bool
  depth : Nat
  algId : W16
  usage : W32
  parent : W32
  gen : W32
  svnFw : Nat
  svnMc : Nat
  counter : W16
  created : Nat
  rangeFirst : W64
  rangeEnd : W64
  deriving DecidableEq, Repr

/-- The 48 bytes of a header. -/
def BlobHdr.bytes (h : BlobHdr) : List Byte :=
  [0x48, 0x42, 0x32, 0x00, 0x01, BitVec.ofNat 8 (h.scope + 16 * b2n h.unbound + 32 * h.depth)] ++ leBytes 2 h.algId.toNat ++ leBytes 4 h.usage.toNat
    ++ leBytes 4 h.parent.toNat ++ leBytes 4 h.gen.toNat ++ [BitVec.ofNat 8 h.svnFw, BitVec.ofNat 8 h.svnMc] ++ leBytes 2 h.counter.toNat
    ++ leBytes 8 h.created ++ leBytes 8 h.rangeFirst.toNat ++ leBytes 8 h.rangeEnd.toNat

/-- The header of a blob with the right MAGIC and FORMAT. -/
def blobHdr? (b : List Byte) : Option BlobHdr :=
  if b.take 5 = [0x48, 0x42, 0x32, 0x00, 0x01] ∧ 76 ≤ b.length then
    let x := b.getD 5 0
    some ⟨bits x 0 4, bit x 4, bits x 5 3, BitVec.ofNat 16 (fieldLe b 6 2), BitVec.ofNat 32 (fieldLe b 8 4), BitVec.ofNat 32 (fieldLe b 12 4),
      BitVec.ofNat 32 (fieldLe b 16 4), fieldLe b 20 1, fieldLe b 21 1, BitVec.ofNat 16 (fieldLe b 22 2), fieldLe b 24 8,
      BitVec.ofNat 64 (fieldLe b 32 8), BitVec.ofNat 64 (fieldLe b 40 8)⟩
  else none

/-- What a slot keeps of a header. -/
def BlobHdr.key (h : BlobHdr) : KeyHdr :=
  ⟨h.algId, h.usage, h.depth, h.unbound, h.parent, h.gen, h.counter, h.rangeFirst, h.rangeEnd, h.svnFw, h.svnMc, h.created⟩

/-- PARENT of a root record. -/ def parentRoot : W32 := 0xFFFFFFFF
/-- PARENT of a device-scope blob. -/ def parentDevice : W32 := 0xFFFFFFFE

/-- A blob: header, nonce, ciphertext and tag. -/
def sealBlob (key nonce : List Byte) (h : BlobHdr) (payload : List Byte) : List Byte :=
  h.bytes ++ nonce ++ fit (payload.length + 16) (sivSeal key nonce h.bytes payload)

/-- The payload of a blob that authenticates under a key. -/
def openBlob (key b : List Byte) : Option (List Byte) :=
  let n := b.length - 76
  (sivOpen key (slice b 48 12) (b.take 48) (slice b 60 n) (slice b (60 + n) 16)).map (fit n)

/-- The tag of a blob. -/
def blobTag (b : List Byte) : List Byte := b.drop (b.length - 16)

/-! ### Handles (R154) -/

/-- SCOPE. -/ def hScope (h : W32) : Nat := bits h 28 4
/-- GENCHK. -/ def hGen (h : W32) : Nat := bits h 20 8
/-- INDEX. -/ def hIndex (h : W32) : Nat := bits h 0 20

/-- The handle that names a slot's key. -/
def Slot.handle (x : Slot) : W32 := BitVec.ofNat 32 (x.scope * 2 ^ 28 + (if x.index = 0 then 0 else x.hdr.gen.toNat % 256) * 2 ^ 20 + x.index)

/-- The header of the blob that a slot was loaded from. -/
def Slot.blobHdr (x : Slot) : BlobHdr :=
  let h := x.hdr
  ⟨x.scope, h.unbound, h.depth, h.algId, h.usage, h.parent, h.gen, h.svnFw, h.svnMc, h.counter, h.created, h.rangeFirst, h.rangeEnd⟩

/-! ### Wrapping keys (R150, R156) -/

/-- ck_fw(v) or ck_mc(v), by the label of its chain. -/
def chainKey (osk : List Byte) (label : String) (v : Nat) : List Byte := (List.range (255 - v)).foldl (fun x _ => sha384 x) (kdf osk label [])

/-- ck_fw(SVN_FW) followed by ck_mc(SVN_MC). -/
def State.chains (s : State) (fw mc : Nat) : List Byte :=
  let osk := s.bbd.osk.getD []
  chainKey osk "VQ-SVNFW" fw ++ chainKey osk "VQ-SVNMC" mc

/-- The key of a hierarchy's root record. -/
def State.rootKey (s : State) (hier fw mc : Nat) : List Byte := (kdf (s.bbd.osk.getD []) "VQ-ROOT" (leBytes 2 hier ++ s.chains fw mc)).take 32

/-- The key under a parent's secret. -/
def State.childKey (s : State) (secret : List Byte) (fw mc : Nat) : List Byte := (kdf (secret.take 32) "VQ-HB2" (s.chains fw mc)).take 32

/-- The device sealing key with a SEAL_ID (R153, R156). -/
def Kvd.sealKey (k : Kvd) (id : W32) : Option (List Byte) :=
  match k.derived with
  | some x => if leBytes 4 id.toNat = x.sealId then some x.dsk else (match k.prevDsk with | some p => if leBytes 4 id.toNat = p.2 then some p.1 else none | none => none)
  | none => none

/-! ### Hierarchies (R164) -/

/-- The root of a hierarchy in the BBRAM. -/
def State.rootRec (s : State) (hier : Nat) : RootRec := if hier = ownerShared then s.bbram.ownerRoot else (s.bbram.instRec hier).root

/-- Set it. -/
def State.setRoot (s : State) (hier : Nat) (r : RootRec) : State :=
  if hier = ownerShared then { s with bbram := { s.bbram with ownerRoot := r } }
  else { s with bbram := s.bbram.setRec hier { s.bbram.instRec hier with root := r } }

/-- The hierarchy of a scope, for a job of an owner. -/
def hierOf (owner scope : Nat) : Nat := if scope = 0 then owner else ownerShared

/-- A slot's entry in its hierarchy's parent table: 0 for the root (R164). -/
def Slot.entry (x : Slot) : Nat := if x.index = 0 then 0 else x.hdr.rangeFirst.toNat

/-- A parent's current generation: its entry's, SEAL_ID for the device sealing root. -/
def State.genOf (s : State) (d : Nat) (p : Slot) : W32 :=
  if p.scope = 2 then BitVec.ofNat 32 (fieldLe (((s.die d).kvd.derived.map Derived.sealId).getD []) 0 4)
  else Assoc.getD (s.rootRec (hierOf p.owner p.scope)).gens p.entry 0

/-- The whole ancestry of a slot still carries the generations that it recorded at load (R166). -/
def State.current (s : State) (d : Nat) (x : Slot) : Bool :=
  if x.scope = 3 ∨ (x.scope = 2 ∧ x.index = 0) then true
  else if x.scope = 2 then ((s.die d).kvd.sealKey x.hdr.gen).isSome
  else
    let r := s.rootRec (hierOf x.owner x.scope)
    x.ancestry.all (fun (p : Nat × W32) => decide (Assoc.getD r.gens p.1 0 = p.2))

/-! ### Slots (R158, R160) -/

/-- Extents of a payload. -/
def extentsOf (n : Nat) : Nat := if n ≤ 32 then 0 else (n + 255) / 256

/-- Slots of an owner that count in its quota: not the copies of transient keys and of the device sealing root that jobs hold. -/
def Kvd.counted (k : Kvd) (owner : Nat) : List (Nat × Slot) :=
  k.slots.filter (fun (p : Nat × Slot) => decide (p.2.owner = owner) && decide (p.2.scope ≠ 3) && !(decide (p.2.scope = 2) && decide (p.2.index = 0)))

/-- Slots and extents that the filled transient slots of an instance take (R158, R162). -/
def Inst.stagedUse (i : Inst) : Nat × Nat :=
  (i.transients.length, (i.transients.map (fun (p : Nat × Transient) => extentsOf p.2.key.length)).foldl (· + ·) 0)

/-- The quota of an owner on a die: an instance's own, less its transient keys; for the manager what the instances leave. -/
def State.slotQuota (s : State) (owner : Nat) : Nat × Nat :=
  if owner = ownerShared then
    let live := s.insts.filter (fun (p : Nat × Inst) => p.2.code.live)
    (32768 - (live.map (fun (p : Nat × Inst) => p.2.cfg.slotQ)).foldl (· + ·) 0, 4096 - (live.map (fun (p : Nat × Inst) => p.2.cfg.extentQ)).foldl (· + ·) 0)
  else
    let t := (s.inst owner).stagedUse
    ((s.inst owner).cfg.slotQ - t.1, (s.inst owner).cfg.extentQ - t.2)

/-- Slots and extents in use by an owner. -/
def Kvd.used (k : Kvd) (owner : Nat) : Nat × Nat :=
  ((k.counted owner).length, ((k.counted owner).map (fun (p : Nat × Slot) => extentsOf p.2.payload.length)).foldl (· + ·) 0)

/-- Slots and extents in use on a die by all owners, the transient keys among them (R24, R181). -/
def State.slotUse (s : State) (d : Nat) : Nat × Nat :=
  let l := (s.die d).kvd.slots.filter (fun (p : Nat × Slot) => decide (p.2.scope ≠ 3) && !(decide (p.2.scope = 2) && decide (p.2.index = 0)))
  let t := s.insts.map (fun (p : Nat × Inst) => p.2.stagedUse)
  (l.length + (t.map Prod.fst).foldl (· + ·) 0,
   (l.map (fun (p : Nat × Slot) => extentsOf p.2.payload.length)).foldl (· + ·) 0 + (t.map Prod.snd).foldl (· + ·) 0)

/-- What an owner may use on a die: its quota, and no more than the die's 32,768 slots and 4,096 extents leave beside the other owners (R24, R158). -/
def State.slotLimit (s : State) (d owner : Nat) : Nat × Nat :=
  let q := s.slotQuota owner
  let u := (s.die d).kvd.used owner
  let t := s.slotUse d
  (min q.1 (u.1 + (32768 - t.1)), min q.2 (u.2 + (4096 - t.2)))

/-- The resident slot of an index whatever the generation, for a key that no handle names (R160, R178). -/
def Kvd.findAny (k : Kvd) (owner scope index : Nat) : Option Nat :=
  (k.slots.find? (fun (p : Nat × Slot) => decide (p.2.owner = owner) && decide (p.2.scope = scope) && decide (p.2.index = index) && !p.2.dying)).map Prod.fst

/-- The resident slot of a handle (R160). -/
def Kvd.find (k : Kvd) (owner scope index gen8 : Nat) : Option Nat :=
  (k.slots.find? (fun (p : Nat × Slot) => decide (p.2.owner = owner) && decide (p.2.scope = scope) && decide (p.2.index = index) && !p.2.dying
    && (decide (index = 0) || decide (p.2.hdr.gen.toNat % 256 = gen8)))).map Prod.fst

/-- A slot. -/
def State.slot? (s : State) (d k : Nat) : Option Slot := Assoc.get? (s.die d).kvd.slots k

/-- Change the key vault of a die. -/
def State.modKvd (s : State) (d : Nat) (f : Kvd → Kvd) : State := s.modDie d (fun x => { x with kvd := f x.kvd })

/-- The lowest free slot number. -/
def Kvd.free (k : Kvd) : Nat := ((List.range (k.slots.length + 1)).find? (fun i => (Assoc.get? k.slots i).isNone)).getD k.slots.length

/-- A job takes a slot: it holds it, and the slot is the most recently used. -/
def State.takeSlot (s : State) (d j k : Nat) : State :=
  (s.modKvd d (fun v => { v with lruClock := v.lruClock + 1, slots := Assoc.update v.slots k (fun x => { x with
      lru := v.lruClock, holders := if x.holders.contains j then x.holders else x.holders ++ [j] }) })).modJob d j
    (fun y => { y with data := { y.data with keys := y.data.keys ++ [k] } })

/-- The least recently used slot of an owner that no job holds but those in `loose`. -/
def Kvd.victim (k : Kvd) (owner : Nat) (loose : List Nat) : Option Nat :=
  ((k.counted owner).filter (fun (p : Nat × Slot) => p.2.holders.all loose.contains)).foldl (fun (a : Option (Nat × Nat)) (p : Nat × Slot) =>
    match a with
    | some (_, l) => if p.2.lru < l then some (p.1, p.2.lru) else a
    | none => some (p.1, p.2.lru)) none |>.map Prod.fst

/-- Evict until a payload of so many extents fits; none where held slots block it. -/
def makeRoom (n : Nat) (quota : Nat × Nat) (owner ext : Nat) (loose : List Nat) (k : Kvd) : Option Kvd :=
  let u := k.used owner
  if u.1 + 1 ≤ quota.1 ∧ u.2 + ext ≤ quota.2 then some k
  else match n with
    | 0 => none
    | n + 1 =>
      match k.victim owner loose with
      | none => none
      | some v => makeRoom n quota owner ext loose { k with slots := Assoc.erase k.slots v }

/-- Evict slots of the manager that no dispatched job holds until the others fit into a quota. -/
def trimSlots (n : Nat) (quota : Nat × Nat) (loose : List Nat) (k : Kvd) : Kvd :=
  let u := k.used ownerShared
  match n with
  | 0 => k
  | n + 1 =>
    if u.1 ≤ quota.1 ∧ u.2 ≤ quota.2 then k
    else match k.victim ownerShared loose with
      | none => k
      | some v => trimSlots n quota loose { k with slots := Assoc.erase k.slots v }

/-- Jobs of a die that are not dispatched and have all that they wait for: they keep no slot from being freed (R160). A head whose keys, fill or copy are still
on their way keeps what it has found (DESIGN CHOICE, log 37). -/
def State.looseJobs (s : State) (d : Nat) : List Nat :=
  ((s.die d).jobs.filter (fun (p : Nat × Job) => !p.2.data.begun && (decide (p.2.stage = .ready) || decide (p.2.stage = .input)))).map Prod.fst

/-- The key vault of a die with room for a key of an owner, if there can be. -/
def State.roomFor (s : State) (d owner ext : Nat) : Option Kvd := makeRoom 33000 (s.slotLimit d owner) owner ext (s.looseJobs d) (s.die d).kvd

/-- The copy of a key that a job holds outside the quota: a transient key (R163) or the device sealing root. -/
def State.heldCopy (s : State) (d j : Nat) (x : Slot) : State :=
  let k := (s.die d).kvd.free
  (s.modKvd d (fun v => { v with slots := Assoc.set v.slots k { x with holders := [], dying := true } })).takeSlot d j k

/-- The header that a key without a blob shows to the checks. -/
def bareHdr (alg : W16) (usage : W32) : KeyHdr := ⟨alg, usage, 1, false, parentDevice, 0, 0xFFFF, 0, 0, 0, 0, 0⟩

/-! ### What an operation asks of a key (R81, R94, R96, R159) -/

/-- The identifier of a symmetric key type (R156). -/
def symAlg (t : Nat) : W16 := algId 6 t

/-- AES key types by the key-size field of a PSET. -/
def aesType (p : Nat) : Nat := p % 4 + 1

/-- Opcodes whose KEY_HANDLE names the parent of a new blob (R77), or a parent itself. -/
def namesParent (op : Nat) : Bool :=
  [0x1001, 0x2001, 0x3001, 0x4001, 0x4010, 0x9001, 0x6001, 0x600E, 0x6006, 0x6008, 0x600B].contains op

/-- The identifiers that the device implements (R81): class, revision and PSET. -/
def knownAlg (a : W16) : Bool :=
  let p := bits a 0 8
  match bits a 12 4 with
  | 1 => (kemSizes p).isSome && decide (a = algId 1 p)
  | 2 => (sigSizes p).isSome && decide (a = algId 2 p)
  | 3 => (stf? p).isSome && decide (a = algId 3 p)
  | 4 => (decide (a = algId 4 p) && (decide (1 ≤ p ∧ p ≤ 7) || isSlotCurve p)) || (decide (a = algId 4 p true) && decide (0x20 ≤ p ∧ p ≤ 0x80))
  | 6 => (symKey? p).isSome && decide (a = symAlg p)
  | 9 => (hybSizes p).isSome && decide (a = algId 9 p)
  | _ => false

/-- The identifiers that check 7 admits for the key in KEY_HANDLE (`second` false) or in PARAM[63:32]; none where any key of the device will do. -/
def Sqe.algs (e : Sqe) (runAlg : Nat) (second : Bool) : Option (List W16) :=
  if second then some [symAlg 1, symAlg 2, symAlg 3]
  else if namesParent e.op then some [symAlg 3]
  else match e.cls with
    | 4 => some [if 0x10 ≤ e.op % 0x800 then algId 4 e.ps true else algId 4 e.ps]
    | 5 => some (match e.op with
      | 0x5003 => if e.ps = 1 ∨ e.ps = 2 then [symAlg 1, symAlg 2, symAlg 3] else if e.ps < 0x20 then [symAlg 0x10] else [symAlg 0x11]
      | 0x5004 => if e.ps = 1 ∨ e.ps = 2 then [symAlg 1, symAlg 2, symAlg 3] else if e.ps < 0x20 then [symAlg 0x10] else [symAlg 0x11]
      | _ => if e.mode = 4 then [symAlg (if e.ps % 4 = 0 then 4 else 5)] else [symAlg (aesType e.ps)])
    | 6 =>
      match e.op with
      | 0x6002 => some [symAlg 1, symAlg 2, symAlg 3]
      | 0x6005 => some (if e.ps = 4 then [symAlg 3] else if e.ps = 7 then [symAlg 0x11, symAlg 0x20] else [symAlg 0x10, symAlg 0x20])
      | 0x600C => some [algId 2 3]
      | _ => none
    | 8 => some [BitVec.ofNat 16 runAlg]
    | 15 => some [symAlg 3]
    | c => some [algId c e.ps]

/-- The USAGE bits that check 8 asks for. -/
def Sqe.usageBits (e : Sqe) (second : Bool) : List Nat :=
  if second then [11]
  else if namesParent e.op then [6]
  else match e.op with
    | 0x1002 => [0] | 0x1003 => [1] | 0x2002 => [2] | 0x2003 => [3] | 0x3002 => [2] | 0x3003 => [3] | 0x3004 => []
    | 0x4002 => [2] | 0x4003 => [3] | 0x4004 => [9] | 0x4005 => [2] | 0x4006 => [3]
    | 0x4011 => [2] | 0x4012 => [3] | 0x4013 => [0] | 0x4014 => [1]
    | 0x5001 => [0] | 0x5002 => [1] | 0x5003 => [4] | 0x5004 => [4]
    | 0x6002 => [11] | 0x6003 => [] | 0x6004 => [7] | 0x6005 => [5] | 0x6007 => [] | 0x6009 => [2, 8] | 0x600C => [12]
    | 0x8001 => [7] | 0x9002 => [0] | 0x9003 => [1] | 0x9004 => [2] | 0x9005 => [3]
    | 0xF004 => [6, 8] | 0xF005 => [6, 8]
    | _ => []

/-- Operations that sign with the key (R157 check 8: UNBOUND clear). -/
def Sqe.signs (e : Sqe) : Bool := decide (e.op = 0x3002 ∨ e.op = 0x6009)

/-- The job's key is private to a tenant queue of its kind (R157 check 1): scopes that a queue admits. -/
def scopeOk (mgr : Bool) (scope : Nat) : Bool := if mgr then decide (scope = 1 ∨ scope = 2) else decide (scope = 0 ∨ scope = 1 ∨ scope = 3)

/-- The curve record of a slot for a job's owner (R92). -/
def State.curve (s : State) (x : Job) : Option CurveRec :=
  Assoc.get? (s.inst x.src.inst).curves (x.sqe.ps - 0x40)

/-- The active owner program of a slot that an instance may run (R217, R220). -/
def State.program (s : State) (d : Nat) (x : Job) : Option OwnerProgram :=
  (Assoc.get? (s.die d).programs x.sqe.ps).filter (fun p => decide (p.inst = 0xFFFF) || (!x.src.mgr && decide (p.inst = x.src.inst)))

/-- Checks 7 and 8 of R157 of a key for an operation: 0 where it passes. -/
def State.keyFit (s : State) (d : Nat) (x : Job) (second : Bool) (k : Slot) : W16 :=
  let runAlg := progField (((s.program d x).map OwnerProgram.image).getD []) 54 2
  let typeOk := match x.sqe.algs runAlg second with
    | some l => l.contains k.hdr.algId
    | none => knownAlg k.hdr.algId
  let curveOk := !x.sqe.slotCurve || namesParent x.sqe.op || second ||
    (match s.curve x with | some c => decide (k.payload.take 32 = sha3256 c.record) | none => false)
  let scope := if x.sqe.op = 0xF004 ∨ x.sqe.op = 0xF005 then decide (k.scope = 1) else true
  if x.sqe.cls = 15 ∧ x.sqe.op ≠ 0xA001 then
    (if typeOk && scope && (x.sqe.usageBits second).all (fun b => bit k.hdr.usage b) then 0 else stKeyUsage)
  else if !typeOk || !curveOk then stKeyType
  else if k.scope = 1 ∧ !x.src.mgr ∧ !bit k.hdr.usage 10 then stKeyScope
  else if !(x.sqe.usageBits second).all (fun b => bit k.hdr.usage b) then stKeyUsage
  else if x.sqe.signs ∧ k.hdr.unbound then stKeyUsage
  else 0

/-! ### New blobs (R77, R156, R159, R164) -/

/-- The USAGE word of a new key is permitted: no reserved bit, WRAP on AES-256 alone and not at DEPTH 4. -/
def usageOk (usage : W32) (alg : W16) (parent : Slot) : Bool :=
  decide (bits usage 14 18 = 0) && (!bit usage 6 || (decide (alg = symAlg 3) && decide (parent.hdr.depth + 1 < 4)))

/-- The lowest free entry of a parent table (R164); none for a 65th parent. -/
def RootRec.freeEntry (r : RootRec) : Option Nat := ((List.range 63).map (· + 1)).find? (fun i => (Assoc.get? r.gens i).isNone)

/-- Whether a new key needs an entry of its hierarchy's parent table. -/
def needsEntry (usage : W32) (parent : Slot) : Bool := bit usage 6 && decide (parent.scope ≠ 2)

/-- The blob of a new key under a parent, with its header; the nonce is a draw. A device-scope blob is wrapped under the DSK and carries DEPTH 2 (R156). -/
def State.newBlob (s : State) (d : Nat) (parent : Slot) (alg : W16) (usage : W32) (counter : W16) (first stop : Nat) (unbound : Bool) (created : Nat)
    (payload : List Byte) : List Byte × BlobHdr :=
  let k := (s.die d).kvd
  let dev := decide (parent.scope = 2)
  let fw := if dev then 0 else k.svnFw
  let mc := if dev then 0 else k.svnMc
  let h : BlobHdr := ⟨parent.scope, unbound, if dev then 2 else parent.hdr.depth + 1, alg, usage, if dev then parentDevice else parent.handle, s.genOf d parent, fw, mc, counter,
    created, BitVec.ofNat 64 first, BitVec.ofNat 64 stop⟩
  let key := if dev then (k.derived.map Derived.dsk).getD [] else s.childKey parent.payload fw mc
  (sealBlob key (s.rand 12) h payload, h)

/-- A parent's entry is added with generation 0 (R164). -/
def State.addEntry (s : State) (hier e : Nat) : State :=
  let r := s.rootRec hier
  s.setRoot hier { r with gens := Assoc.set r.gens e 0 }

/-- The payload of a root record: its secret and the parent table (R164). -/
def rootPayload (secret : List Byte) (r : RootRec) : List Byte :=
  secret.take 32 ++ (List.range 64).flatMap (fun i =>
    match Assoc.get? r.gens i with
    | some g => leBytes 4 1 ++ leBytes 4 g.toNat
    | none => leBytes 4 (if i = 0 then 1 else 0) ++ leBytes 4 0)

/-- A root record (R156, R164). -/
def State.rootBlob (s : State) (d hier : Nat) (secret : List Byte) : List Byte :=
  let k := (s.die d).kvd
  let r := s.rootRec hier
  let h : BlobHdr := ⟨if hier = ownerShared then 1 else 0, false, 1, symAlg 3, 0x40, parentRoot, r.version, k.svnFw, k.svnMc, 0xFFFF, s.bbd.rtc.toNat, 0, 0⟩
  sealBlob (s.rootKey hier k.svnFw k.svnMc) (s.rand 12) h (rootPayload secret r)

/-- The generations of a root record's payload (R164). -/
def payloadGens (p : List Byte) : Assoc W32 :=
  (List.range 64).filterMap (fun i => if fieldLe p (32 + 8 * i) 4 = 1 then some (i, BitVec.ofNat 32 (fieldLe p (36 + 8 * i) 4)) else none)

end Sys2Proof.Machine
end

