-- ==== Sys2Proof/Machine/Resolve.lean ====
section
/-! DEFINITION. How a job comes by its keys (R154 to R160, R171, R172): the blobs that it waits for, the checks of R157 in their order, the owner
ticket, and what an operation needs before it may be dispatched. -/

namespace Sys2Proof.Machine

/-! ### Failures before dispatch (R135) -/

/-- A job fails before its program runs: it waits for completion space as a failed head; a job already dispatched ends now. -/
def State.failPrep (s : State) (d j : Nat) (status : W16) (detail : W32 := 0) : State :=
  match s.job? d j with
  | none => s
  | some x =>
    if x.data.begun then s.closeJob d j status detail 0
    else (s.modDie d (fun y => { y with xferQueue := y.xferQueue.filter (fun p => decide (p.1 ≠ j)) })).modJob d j
      (fun y => { y.fail status detail with stage := .ready, data := { y.data with wants := [] } })

/-! ### Tables (R154, R155) -/

/-- The owner table at die 0's KVD.OWNER_TBL: base and entries; on the other dies the registers are ignored (R181). -/
def State.ownerTable (s : State) : W64 × Nat :=
  ((s.reg 0 KVD 0 0x114 ++ s.reg 0 KVD 0 0x110 : BitVec 64), bits (s.reg 0 KVD 0 0x118) 0 20)

/-- A want for a handle of a job: the table of its scope. -/
def State.mkWant (s : State) (x : Job) (kind : WantKind) (handle : W32) : KeyWant :=
  if hScope handle = 0 then
    let c := (s.inst x.src.inst).cfg
    ⟨handle, kind, c.blobTbl, c.blobTblSize, some c.pasid, x.src.inst, [], none⟩
  else ⟨handle, kind, s.ownerTable.1, s.ownerTable.2, none, ownerShared, [], none⟩

/-- A want for the root record of an instance, in its own table. -/
def State.rootWant (s : State) (n : Nat) : KeyWant :=
  let c := (s.inst n).cfg
  ⟨0, .parent, c.blobTbl, c.blobTblSize, some c.pasid, n, [], none⟩

/-- The root of the hierarchy of a handle's scope. -/
def rootHandle (h : W32) : W32 := BitVec.ofNat 32 (hScope h * 2 ^ 28)

/-- The handle of the ticket of a scope: INDEX 1. -/
def ticketHandle (scope : Nat) : W32 := BitVec.ofNat 32 (scope * 2 ^ 28 + 1)

/-! ### What an operation asks for (R96, R171, R172) -/

/-- Owner and custodial operations of class 0x6. -/
def ownerClass (op : Nat) : Bool := [0x6004, 0x6006, 0x6008, 0x6009, 0x600A, 0x600B, 0x600C, 0x600D].contains op
/-- Custodial operations. -/
def custodialClass (op : Nat) : Bool := [0x6009, 0x600A, 0x600B, 0x600C, 0x600D].contains op

/-- The scope whose table holds the ticket of a job; none where it has no such table. -/
def Job.ticketScope (x : Job) : Option Nat :=
  if x.sqe.op / 4096 = 15 then some 1
  else if x.sqe.op = 0x600A ∨ x.sqe.op = 0x600B ∨ x.sqe.op = 0x600D then some (if x.src.mgr then 1 else 0)
  else if hScope x.sqe.handle = 0 ∧ !x.src.mgr then some 0
  else if hScope x.sqe.handle = 1 ∨ (hScope x.sqe.handle = 2 ∧ x.src.mgr) then some 1
  else none

/-- A class 0xF job that needs an owner ticket (R432, R479, R490). -/
def Sqe.ticketF (e : Sqe) (lc : Nat) : Bool :=
  decide (e.op = 0xF031) || (decide (e.op = 0xF020) && (decide (e.par 0 4 = 4 ∨ e.par 0 4 = 5) || (decide (e.par 0 4 = lc) && decide (lc = 3 ∨ lc = 4))))

/-- Whether an operation creates a key with USAGE.WRAP, whose parent's root record it therefore writes (R164, R165). -/
def Sqe.wrapNew (e : Sqe) : Bool :=
  (decide (e.op = 0x6001 ∨ e.op = 0x6002 ∨ e.op = 0x6005 ∨ e.op = 0x600E)) && bit e.param 6

/-- The operation names a key here: R85 to R102, with RUN by its program and INST_RESTORE by PREPARE. -/
def State.keyed (s : State) (d : Nat) (x : Job) : Bool :=
  namesKey x.sqe.op && !(decide (x.sqe.op = 0x8001) && decide (progField (((s.program d x).map OwnerProgram.image).getD []) 54 2 = 0))
    && !(decide (x.sqe.op = 0xF005) && bit x.sqe.param 16) && decide (x.sqe.op ≠ 0x6007)

/-- The blobs that a job waits for at first, in the order of its checks. -/
def State.firstWants (s : State) (d : Nat) (x : Job) : List KeyWant :=
  let e := x.sqe
  let ticket := if ownerClass e.op ∨ e.ticketF s.lc then (x.ticketScope.map (fun c => [s.mkWant x .ticket (ticketHandle c)])).getD [] else []
  let main := if s.keyed d x then [s.mkWant x .main e.handle] else []
  let second := if e.op = 0x6004 then [s.mkWant x .second (BitVec.ofNat 32 (e.par 32 32))] else []
  let root := if (e.op = 0x6006 ∨ e.op = 0x6001 ∨ e.op = 0x600E) ∧ (e.op = 0x6006 ∨ e.wrapNew) ∧ hScope e.handle < 2 then
      [s.mkWant x .parent (rootHandle e.handle), s.mkWant x .entry0 (rootHandle e.handle)] else []
  let ver := if e.op = 0xA001 then [s.mkWant x .verifier (BitVec.ofNat 32 (0x10000002 + e.par 0 6))] else []
  let img := if e.op = 0xF004 then [s.rootWant (e.par 0 12)] else []
  ticket ++ main ++ second ++ root ++ ver ++ img

/-! ### The owner ticket (R172) -/

/-- The ticket's ARG for a job. -/
def Sqe.ticketArg (e : Sqe) : Nat := if e.op = 0x6004 then e.par 32 32 else if e.op = 0xF020 then e.par 0 4 else 0

/-- A ticket is valid for a job. -/
def State.ticketOk (s : State) (x : Job) (t : List Byte) : Bool :=
  match x.ticketScope with
  | none => false
  | some c =>
    let hier := if c = 0 then x.src.inst else ownerShared
    let key := if c = 0 then (s.inst x.src.inst).cfg.ownerKey else s.store.ownerKey
    decide (t.length = 4659) && decide (t.take 4 = [0x4F, 0x54, 0x31, 0x00]) && decide (fieldLe t 4 2 = x.sqe.op) && decide (fieldLe t 6 2 = hier)
      && decide (fieldLe t 8 4 = x.sqe.handle.toNat) && decide (fieldLe t 12 4 = x.sqe.ticketArg)
      && decide (s.bbd.rtc.toNat ≤ fieldLe t 16 8 ∧ fieldLe t 16 8 ≤ s.bbd.rtc.toNat + 300 * 65536)
      && decide (fieldLe t 24 4 = (s.rootRec hier).version.toNat) && decide (fieldLe t 28 4 = 0)
      && mldsaVerify key (ascii "VQ-OWNER") (t.take 32) (t.drop 32)

/-! ### Security checks before the keys (R171, R424, R456, R482, R484) -/

/-- Life-cycle states in which a job of an opcode may run (R171 row 2, R484, R487). ZEROISE runs in every state (R433). -/
def Job.lifeOk (x : Job) (lc : Nat) : Bool :=
  let op := x.sqe.op
  let plain := decide (op = 0x5005) || decide (op / 4096 = 7)
  if op = 0xF030 then true
  else match lc with
    | 0 => plain
    | 1 => plain || decide (op = 0xF020)
    | 2 => plain || decide (op = 0xF020) || decide (op = 0xA003)
    | 3 => !(decide (0xF001 ≤ op ∧ op ≤ 0xF007)) && decide (op ≠ 0xF021)
        && !(decide (op / 4096 = 6) && namesKey op && decide (hScope x.sqe.handle ≠ 1 ∧ hScope x.sqe.handle ≠ 2))
    | 4 => decide (op ≠ 0xF021)
    | 5 => plain || decide (op = 0xF020) || decide (op = 0xF040) || decide (op = 0xA002) || decide (op = 0xA003)
    | 0xF => decide (op = 0xF021) || decide (op = 0xF040) || decide (op = 0xA003)
    | _ => false

/-- The target of an LC_TRANSITION is the state after the current one or, where the OSK is to be renewed, the current one (R479, R490). BLANK to TESTED has no
job. -/
def Job.targetOk (x : Job) (lc : Nat) (osk : Bool) : Bool :=
  let t := x.sqe.par 0 4
  (decide (t = lc + 1) && decide (2 ≤ t ∧ t ≤ 6)) || (decide (t = lc) && decide (lc = 3 ∨ lc = 4) && !osk)

/-- The first failing check of the package's state for a job: its status and DETAIL. -/
def State.secCheck (s : State) (d : Nat) (x : Job) : Option (W16 × W32) :=
  let op := x.sqe.op
  let lc := s.lc
  if !s.serving ∨ (s.alg.stopped ∧ x.sqe.recorded) then some (stLocked, 0)
  else if lc = 0xF then (if x.lifeOk lc then none else some (stLocked, 0))
  else if (s.pkg.lock ∨ (s.die d).orphan) ∧ op ≠ 0xF031 ∧ op ≠ 0xF030 ∧ op ≠ 0xF040 then some (stLocked, 0)
  else if !x.lifeOk lc then some (stLifecycle, BitVec.ofNat 32 lc)
  else if op = 0xF031 ∧ !s.pkg.lock then some (stOk, 0)
  else if op = 0xF020 ∧ !x.targetOk lc s.oskValid then some (stLifecycle, BitVec.ofNat 32 lc)
  else if x.sqe.isChange ∧ s.alg.free ≤ 330 then some (stLogFull, 0)
  else if x.sqe.ticketF lc ∧ !s.cards.quorum.present then some (stQuorumAbsent, 0)
  else if custodialClass op ∧ !s.cards.quorum.present then some (stQuorumAbsent, 0)
  else if ownerClass op ∧ x.ticketScope.isNone then some (stOwnerAuth, 0)
  else none

/-! ### A load (R157) -/

/-- How a load that has its blob ends: failed, waiting for its parent's blob, waiting for room, loaded. -/
inductive Load where
  | fails (status : W16) (detail : W32)
  | parent (w : KeyWant)
  | full
  | ok (slot : Slot)
  deriving DecidableEq, Repr

/-- The owner of the slot of a want. -/
def KeyWant.slotOwner (w : KeyWant) (x : Job) : Nat := if hScope w.handle = 0 then w.hier else x.owner

/-- The checks of the operation on a key, for the wants that name one, and USAGE.ATTEST of a verifier record (R159). -/
def State.wantFit (s : State) (d : Nat) (x : Job) (w : KeyWant) (k : Slot) : W16 :=
  match w.kind with
  | .main => s.keyFit d x false k
  | .second => s.keyFit d x true k
  | .verifier => if bit k.hdr.usage 13 then 0 else stKeyUsage
  | _ => 0

/-- Put wants in front. -/
def State.pushWants (s : State) (d j : Nat) (ws : List KeyWant) : State :=
  s.modJob d j (fun y => { y with data := { y.data with wants := ws ++ y.data.wants } })

/-- Jobs not dispatched whose slots have been taken load their keys again; the inputs that they have staged stay (R160). -/
def State.reloadLost (s : State) (d : Nat) : State :=
  (s.looseJobs d).foldl (fun (t : State) j =>
    match t.job? d j with
    | none => t
    | some x =>
      if x.failed.isSome ∨ x.data.keys.all (fun k => (t.slot? d k).isSome) then t
      else
        let ws := (t.firstWants d x).filter (fun w => decide (w.kind = .main) || decide (w.kind = .second) || decide (w.kind = .parent) || decide (w.kind = .verifier))
        (t.modKvd d (fun v => { v with slots := leaveSlots v.slots j })).modJob d j (fun y => { y with
          stage := .table, data := { y.data with keys := [], wants := ws, reload := true } })) s

/-- The slots of a die after some were freed, with the jobs that must load them again. -/
def State.freed (s : State) (d : Nat) (v : Kvd) : State := (s.modKvd d (fun _ => v)).reloadLost d

/-- Checks 4 to 9 of R157 on a blob. Its generation is compared with those current when its load began (R166). A blob whose header names another scope than the
handle, or a parent of another scope, fails at check 4: the table of R157 lists no check for it (DESIGN CHOICE, log 131). -/
def State.tryLoad (s : State) (d : Nat) (x : Job) (w : KeyWant) : Load :=
  let v := (s.die d).kvd
  let sc := hScope w.handle
  let ix := hIndex w.handle
  let owner := w.slotOwner x
  match blobHdr? w.blob with
  | none => .fails stKeyAuth 0
  | some h =>
    if h.scope ≠ sc ∨ (sc ≠ 2 ∧ (v.svnFw < h.svnFw ∨ v.svnMc < h.svnMc)) then .fails stKeyAuth 0
    else
      let finish (key : List Byte) (anc : List (Nat × W32)) (currentGen : Bool) : Load :=
        match openBlob key w.blob with
        | none => .fails stKeyAuth 0
        | some p =>
          if ix ≠ 0 ∧ hGen w.handle ≠ h.gen.toNat % 256 ∧ (w.kind = .main ∨ w.kind = .second ∨ w.kind = .parent ∨ w.kind = .chain) then .fails stKeyStale 0
          else if !currentGen then .fails stKeyRevoked 0
          else
            let k : Slot := ⟨owner, sc, ix, h.key, p, anc, [], 0, false⟩
            let st := s.wantFit d x w k
            if st ≠ 0 then .fails st 0
            else
              let q := if x.sqe.cls = 15 ∧ w.kind = .parent then (40000, 40000) else s.slotQuota owner
              if q.1 = 0 ∨ q.2 < extentsOf p.length then .fails stSlotQuota 0
              else if !(decide (x.sqe.cls = 15) && decide (w.kind = .parent)) && (s.roomFor d owner (extentsOf p.length)).isNone then .full
              else .ok k
      if sc = 2 then
        (match v.sealKey h.gen with
        | none => if hGen w.handle ≠ h.gen.toNat % 256 then .fails stKeyStale 0 else .fails stKeyRevoked 0
        | some key => finish key [] true)
      else if ix = 0 then
        (if h.parent ≠ parentRoot ∨ s.bbd.osk.isNone then .fails stKeyAuth 0
        else finish (s.rootKey w.hier h.svnFw h.svnMc) [] (decide (h.gen = (w.gens.getD (s.rootRec w.hier)).version)))
      else if w.kind = .verifier ∧ h.parent = parentRoot then .fails stKeyAuth 0
      else if h.parent = parentRoot ∨ h.parent = parentDevice ∨ hScope h.parent ≠ sc then .fails stKeyAuth 0
      else
        match v.find owner sc (hIndex h.parent) (hGen h.parent) with
        | none => .parent { w with handle := h.parent, kind := .chain, blob := [], gens := none }
        | some pk =>
          match Assoc.get? v.slots pk with
          | none => .fails stKeyAuth 0
          | some p => finish (s.childKey p.payload h.svnFw h.svnMc) (p.ancestry ++ [(p.entry, h.gen)])
              (decide (h.gen = Assoc.getD (w.gens.getD (s.rootRec w.hier)).gens p.entry 0))

/-- A failure at check 4 counts (R157). -/
def State.authFail (s : State) (d : Nat) (status : W16) : State :=
  if status = stKeyAuth then ((s.count d KVD 0 0x148).event d KVD 0 0).faultAct d 592
  else if status = stKeyRevoked then s.count d KVD 0 0x14C
  else s

/-- Drop the want in front. -/
def State.popWant (s : State) (d j : Nat) : State := s.modJob d j (fun y => { y with data := { y.data with wants := y.data.wants.drop 1 } })

/-- Put wants last. -/
def State.moreWants (s : State) (d j : Nat) (ws : List KeyWant) : State :=
  s.modJob d j (fun y => { y with data := { y.data with wants := y.data.wants ++ ws } })

/-- Set the stage of a job that is not dispatched; a dispatched job stays running. -/
def State.stage (s : State) (d j : Nat) (g : JobStage) : State := s.modJob d j (fun y => { y with stage := g })

/-- The want in front begins its load: it keeps the generations of its hierarchy as they are now (R166). -/
def beginLoad (r : RootRec) (l : List KeyWant) : List KeyWant :=
  match l with
  | [] => []
  | w :: rest => { w with gens := some r } :: rest

/-- Issue the read of the table entry of a want (R39, R155). -/
def State.readTable (s : State) (d j : Nat) (w : KeyWant) : State :=
  (s.modJob d j (fun y => { y with stage := .table, data := { y.data with wants := beginLoad (s.rootRec w.hier) y.data.wants } })).readPart
    d j 0 (w.base + BitVec.ofNat 64 (32 * hIndex w.handle)) 32 w.pasid false

/-- The read of a table entry, or KEY_NOT_FOUND for an index at or beyond the size of the table (R155, R181). -/
def State.wantTable (s : State) (d j : Nat) (w : KeyWant) : State :=
  if w.size ≤ hIndex w.handle then s.failPrep d j stKeyNotFound (BitVec.ofNat 32 (hIndex w.handle)) else s.readTable d j w

/-- The want that follows a main key by what the key says: the parent of the blob that IMPORT, DERIVE and STATEFUL_SPLIT create (R77, R96), and the root
record where the new key is a parent. KEY_HANDLE of IMPORT names the transport key and of DERIVE the source key; the spec does not say which parent then wraps the new
blob: it is that key's own parent, the root of the instance for a transient key (DESIGN CHOICE, log 132). -/
def State.afterMain (s : State) (d j : Nat) (x : Job) (k : Slot) : State :=
  if x.sqe.op = 0x6002 ∨ x.sqe.op = 0x6005 ∨ x.sqe.op = 0x6009 then
    let ph : W32 := if k.scope = 3 then 0 else if k.hdr.parent = parentDevice then 0x20000000 else if k.index = 0 then rootHandle k.handle else k.hdr.parent
    let roots := if x.sqe.wrapNew ∧ hScope ph < 2 then [s.mkWant x .parent (rootHandle ph), s.mkWant x .entry0 (rootHandle ph)] else []
    s.pushWants d j ([s.mkWant x .parent ph] ++ roots)
  else s

/-- A key is in a slot: the job takes it. -/
def State.gotKey (s : State) (d j : Nat) (x : Job) (w : KeyWant) (k : Nat) : State :=
  let s := s.popWant d j
  if w.kind = .chain then s
  else
    let s := s.takeSlot d j k
    match s.slot? d k with
    | some y => if w.kind = .main then s.afterMain d j x y else s
    | none => s

/-- The first part of a key want: scope, transient keys, the device root, a resident slot, the index, else the table entry is read. -/
def State.beginKey (s : State) (d j : Nat) (x : Job) (w : KeyWant) : State :=
  let sc := hScope w.handle
  let ix := hIndex w.handle
  let named := decide (w.kind = .main) || decide (w.kind = .second)
  if named && !scopeOk x.src.mgr sc then s.failPrep d j stKeyScope
  else if sc = 3 then
    (match Assoc.get? (s.inst x.src.inst).transients ix with
    | none => s.failPrep d j stKeyNotFound (BitVec.ofNat 32 ix)
    | some t =>
      let k : Slot := ⟨x.src.inst, 3, ix, bareHdr (symAlg t.type.toNat) (BitVec.ofNat 32 t.usage.toNat), t.key, [], [], 0, true⟩
      let st := s.wantFit d x w k
      if st ≠ 0 then s.failPrep d j st
      else
        let n := (s.die d).kvd.free
        let s := (s.popWant d j).heldCopy d j k
        match s.slot? d n with
        | some y => if w.kind = .main then s.afterMain d j x y else s
        | none => s)
  else if sc = 2 ∧ ix = 0 then
    (match (s.die d).kvd.derived with
    | none => s.failPrep d j stKeyRevoked
    | some q =>
      let k : Slot := ⟨ownerShared, 2, 0, bareHdr (symAlg 3) 0x40, q.dsk, [], [], 0, true⟩
      let st := s.wantFit d x w k
      if st ≠ 0 then s.failPrep d j st else (s.popWant d j).heldCopy d j k)
  else if named ∧ ix = 1 then s.failPrep d j stKeyNotFound 1
  else if w.size ≤ ix then s.failPrep d j stKeyNotFound (BitVec.ofNat 32 ix)
  else
    match (if w.kind = .verifier then (s.die d).kvd.findAny (w.slotOwner x) sc ix else (s.die d).kvd.find (w.slotOwner x) sc ix (hGen w.handle)) with
    | some k =>
      let st := match s.slot? d k with
        | some y => s.wantFit d x w y
        | none => 0
      if st ≠ 0 then s.failPrep d j st else s.gotKey d j x w k
    | none => (s.count d KVD 0 0x144).readTable d j w

/-- Take a want as far as it goes. The answer says whether it is done with. -/
def State.stepWant (s : State) (d j : Nat) (x : Job) (w : KeyWant) : State :=
  if w.blob ≠ [] then
    match s.tryLoad d x w with
    | .fails st det => (s.authFail d st).failPrep d j st det
    | .full => s
    | .parent p => s.pushWants d j [p]
    | .ok k =>
      let owner := k.owner
      if x.sqe.cls = 15 ∧ w.kind = .parent then (s.popWant d j).heldCopy d j k
      else
      let s := s.freed d ((s.roomFor d owner (extentsOf k.payload.length)).getD (s.die d).kvd)
      let n := (s.die d).kvd.free
      let s := (s.modKvd d (fun v => { v with slots := Assoc.set v.slots n { k with lru := v.lruClock }, lruClock := v.lruClock + 1 })).count d KVD 0 0x140
      let h := blobHdr? w.blob
      let s := if k.scope = 0 then s.modInst owner (fun i => { i with svnFw := max i.svnFw ((h.map BlobHdr.svnFw).getD 0), svnMc := max i.svnMc ((h.map BlobHdr.svnMc).getD 0) }) else s
      let s := s.modDie d (fun y => { y with kpc := y.kpc.map (fun (p : Nat × KpcEntry) =>
        if p.2.owner = owner ∧ p.2.key = .tag (blobTag w.blob) then
          (p.1, { p.2 with key := .handle k.scope k.index k.hdr.gen, hier := hierOf k.owner k.scope, ancestry := k.ancestry }) else p) })
      s.gotKey d j x w n
  else match w.kind with
    | .ticket => s.wantTable d j w
    | .entry0 => s.wantTable d j w
    | .entry => s.wantTable d j w
    | .size => if w.size ≤ hIndex w.handle then s.popWant d j else s.readTable d j w
    | _ => s.beginKey d j x w

/-- A job waits for a read of its own: nothing more to do until it returns. -/
def Job.reading (x : Job) : Bool := x.data.reads.contains 0 || x.data.reads.contains 1 || x.data.reads.contains 2

/-- Take the wants of a job as far as they go. -/
def resolveWants (n : Nat) (d j : Nat) (s : State) : State :=
  match n with
  | 0 => s
  | n + 1 =>
    match s.job? d j with
    | none => s
    | some x =>
      if x.failed.isSome ∨ x.reading then s
      else match x.data.wants with
        | [] => s
        | w :: _ =>
          let t := s.stepWant d j x w
          if (t.job? d j).map (fun y => y.data.wants) = some x.data.wants then t else resolveWants n d j t

/-- A table entry's fields (R155). -/
def entryLen (b : List Byte) : Nat := fieldLe b 8 4

/-- A table entry has been read. A ticket's entry that is empty or outside the range of R155 ends with KEY_NOT_FOUND, one of another length than a ticket's with
OWNER_AUTH: R155 and R171 name both (DESIGN CHOICE, log 133). -/
def State.gotEntry (s : State) (d j : Nat) (bytes : List Byte) : State :=
  if !s.kvdSent d (.job j 0) then s else
  let s := s.kvdDone d
  match s.job? d j with
  | none => s
  | some x =>
    if x.stage ≠ .table ∨ !x.data.reads.contains 0 then s
    else match x.data.wants with
      | [] => s
      | w :: _ =>
        let e := fit 32 bytes
        let n := entryLen e
        let s := s.modJob d j (fun y =>
          let rs := y.data.reads.filter (fun r => decide (r ≠ 0))
          let e1 := if w.kind = .main ∨ w.kind = .entry then e else y.data.entry
          let e0 := if w.kind = .entry0 then e else y.data.root
          { y with data := { y.data with reads := rs, entry := e1, root := e0 } })
        let rd := (s.modJob d j (fun y => { y with stage := .blob })).readPart d j 1 (BitVec.ofNat 64 (fieldLe e 0 8)) n w.pasid false
        match w.kind with
        | .entry0 => s.popWant d j
        | .entry => s.popWant d j
        | .size =>
          let pub := if n = 0 then 0 else fieldLe e 12 4
          let s := if 76 ≤ n ∧ n ≤ 16384 then s.modBk (fun o => { o with blocks := o.blocks + (n + 20 + pub + 511) / 512 }) else s
          s.popWant d j
        | .ticket => if n = 4659 then rd else if 76 ≤ n ∧ n ≤ 16384 then s.failPrep d j stOwnerAuth else s.failPrep d j stKeyNotFound 1
        | _ => if 76 ≤ n ∧ n ≤ 16384 then rd else s.failPrep d j stKeyNotFound (BitVec.ofNat 32 (hIndex w.handle))

/-- A blob, or a ticket, has been read. -/
def State.gotBlob (s : State) (d j : Nat) (bytes : List Byte) : State :=
  if !s.kvdSent d (.job j 1) then s else
  let s := s.kvdDone d
  match s.job? d j with
  | none => s
  | some x =>
    if x.stage ≠ .blob ∨ !x.data.reads.contains 1 then s
    else match x.data.wants with
      | [] => s
      | w :: rest =>
        let s := s.modJob d j (fun y => { y with data := { y.data with reads := y.data.reads.filter (fun r => decide (r ≠ 1)) } })
        if w.kind = .ticket then
          (if s.ticketOk x bytes then (s.modJob d j (fun y => { y with data := { y.data with ticket := bytes } })).popWant d j
          else s.failPrep d j stOwnerAuth)
        else s.modJob d j (fun y => { y with data := { y.data with wants := { w with blob := bytes } :: rest } })

end Sys2Proof.Machine
end

