-- ==== Sys2Proof/Machine/Times.lean ====
section
/-! DEFINITION. The engine times of the catalogue in ps (R106 to R111), and the segments of an SYE job (R306). -/

namespace Sys2Proof.Machine

/-! ### LVE (R107 to R109) -/

/-- KEYGEN, ENCAPS and DECAPS of a KEM set (R108); a Classic McEliece attempt for KEYGEN. -/
def kemTime (p : Nat) : Nat × Nat × Nat :=
  if p = 1 then (2200000, 2000000, 2500000) else if p = 2 then (3200000, 3000000, 3600000) else if p = 3 then (4400000, 4100000, 4900000)
  else if p = 0x11 ∨ p = 0x12 then (13200000000, 18000000, 50000000) else if p = 0x13 ∨ p = 0x14 then (35300000000, 34000000, 92000000)
  else if p = 0x15 ∨ p = 0x16 then (76500000000, 62000000, 125000000) else if p = 0x17 ∨ p = 0x18 then (79400000000, 60000000, 133000000)
  else if p = 0x19 ∨ p = 0x1A then (88200000000, 75000000, 140000000)
  else if p = 0x21 then (14000000, 30000000, 53300000) else if p = 0x22 then (28000000, 60000000, 105000000)
  else (46000000, 98000000, 170000000)

/-- KEYGEN, SIGN and VERIFY of an SLH-DSA set with SHA2 (R108), by its PSET. -/
def slhTime (b : Nat) : Nat × Nat × Nat :=
  if b = 0x11 then (920000000, 6400000000, 16000000) else if b = 0x12 then (31000000, 667000000, 45700000)
  else if b = 0x13 then (1350000000, 11700000000, 24500000) else if b = 0x14 then (46000000, 1090000000, 72000000)
  else if b = 0x15 then (2150000000, 10300000000, 34000000) else (120000000, 2200000000, 74000000)

/-- KEYGEN, SIGN with r passes and VERIFY of a stateless signature set (R108). -/
def sigTime (p r : Nat) : Nat × Nat × Nat :=
  if p = 1 then (5000000, 4300000 + 1100000 * r, 4400000) else if p = 2 then (7600000, 6200000 + 1500000 * r, 6600000)
  else if p = 3 then (11000000, 9000000 + 2100000 * r, 9800000)
  else
    let t := slhTime (slhBase p)
    if 0x21 ≤ p then (t.1 * 7 / 10, t.2.1 * 7 / 10, t.2.2 * 7 / 10) else t

/-- Block length and block time of the hash of a class 0x2 set (R107). -/
def sigHash (p : Nat) : Nat × Nat := if p ≤ 3 ∨ 0x21 ≤ p then (136, 7500) else if p ≤ 0x12 then (64, 20000) else (128, 25000)

/-- t_msg for one pass (R107). -/
def msgTime (h : Nat × Nat) (n : Nat) : Nat := h.2 * (n / h.1 + 2)

/-- Passes of the message term (R107): two for SLH-DSA SIGN. -/
def msgPasses (p : Nat) (sign : Bool) : Nat := if sign ∧ 0x11 ≤ p then 2 else 1

/-- t_h of a stateful set (R109). -/
def Stf.th (x : Stf) : Nat := if x.shake then 7500 else 20000

/-- The message hash of a stateful set (R107). -/
def Stf.hash (x : Stf) : Nat × Nat := if x.shake then (136, 7500) else (64, 20000)

/-- c_leaf (R109). -/
def Stf.leafCost (x : Stf) : Nat := if x.xmss then x.chains * 18 else x.chains * (2 ^ x.w - 1) + 3

/-- Key generation (R109). -/
def Stf.keygenTime (x : Stf) (levels : Nat) : Nat := x.th * 2 ^ x.treeH * x.leafCost * x.trees levels

/-- Signing, without the message term (R109). -/
def Stf.signTime (x : Stf) (steps : Nat) : Nat := (if x.xmss then 22000000 else 18000000) + x.th * steps

/-- Verification, without the message term (R109). -/
def Stf.verifyTime (x : Stf) (levels steps : Nat) : Nat := x.th * (x.trees levels * (x.chains * (2 ^ x.w - 1) + x.treeH + 4) - steps)

/-! ### Composites (R101) -/

/-- The ML-KEM or ML-DSA set of a composite. -/
def hybPq (ps : Nat) : Nat := if ps = 1 then 2 else if ps = 2 then 3 else ps - 0x10

/-- The curve of a composite's classical part, as a PSET of class 0x4. -/
def hybCurve (ps : Nat) : Nat := if ps = 1 then 4 else if ps = 2 then 2 else ps - 0x10

/-- The hash matched to the curve of a composite signature (R103): SHA-256, SHA-384, SHA-512. -/
def hybHash (ps : Nat) : Nat := ps - 0x10

/-- A composite of key encapsulation. -/
def hybKem (ps : Nat) : Bool := decide (ps ≤ 2)

/-! ### BNE (R110) -/

/-- The column of a curve PSET, at a field length in bits. -/
def curveCol (p fieldBits : Nat) : Nat :=
  if p = 1 then 0 else if p = 2 then 1 else if p = 3 then 2 else if p = 4 ∨ p = 6 then 5 else if p = 5 ∨ p = 7 then 6
  else if fieldBits ≤ 256 then 0 else if fieldBits ≤ 384 then 1 else if fieldBits ≤ 576 then 2 else if fieldBits ≤ 768 then 3 else 4

/-- The column of an RSA modulus of `k` bytes. -/
def rsaCol (k : Nat) : Nat := if k ≤ 256 then 0 else if k ≤ 384 then 1 else if k ≤ 512 then 2 else if k ≤ 768 then 3 else 4

/-- Time of a BNE operation of one leg, in ps. -/
def bneBase (op p fieldBits : Nat) : Nat :=
  let c := curveCol p fieldBits
  let us (l : List Nat) (i : Nat) : Nat := 1000000 * l.getD i 0
  let o := op % 0x800
  if o = 1 ∨ o = 4 then (if o = 4 ∧ c = 5 then 8000000 else if o = 4 ∧ c = 6 then 26000000 else us [9, 20, 42, 105, 190, 7, 24] c)
  else if o = 2 then us [10, 22, 46, 110, 200] c
  else if o = 3 then us [18, 40, 84, 200, 370] c
  else if o = 5 then (if c = 5 then 8000000 else 27000000)
  else if o = 6 then (if c = 5 then 16000000 else 52000000)
  else if o = 0x11 ∨ o = 0x14 then us [100, 300, 667, 2200, 6500] (rsaCol (8 * p))
  else us [5, 11, 19, 42, 74] (rsaCol (8 * p))

/-- The most a CURVE_LOAD takes. -/
def curveLoadMax (fieldBits : Nat) : Nat := 1000000 * [45000, 120000, 300000, 900000, 2500000].getD (curveCol 0x40 fieldBits) 0

/-! ### SYE (R111) -/

/-- Blocks and block time of a digest by its HASH code (R78). -/
def digestBlocks (c n : Nat) : Nat :=
  if c = 1 then (n + 72) / 64 * 12800 else if c = 2 ∨ c = 3 then (n + 144) / 128 * 20000
  else (n / ([136, 104, 72, 168, 136].getD (c - 4) 136) + 1) * 10000

/-- SYE time of a message digest. -/
def digestTime (c n : Nat) : Nat := 200000 + digestBlocks c n

/-- Customisation bytes of KMAC. -/
def Sqe.customLen (e : Sqe) : Nat := e.auxLen.toNat - (if e.op = 0x5004 then e.tagLen else 0)

/-- Block term of a class 0x5 job with a key of so many bytes. -/
def Sqe.symBlocks (e : Sqe) (keyLen : Nat) : Nat :=
  let n := e.symLenIn
  if e.op = 0x5001 ∨ e.op = 0x5002 then
    (match e.mode with
    | 1 => blocks16 n * (if e.op = 0x5001 then 5120 else 1280)
    | 3 => (blocks16 e.aadLen + blocks16 n) * 1280
    | 5 => (n + 7) / 8 * 30720
    | 6 => (n + 7) / 8 * 30720
    | 7 => blocks16 e.aadLen * 1280 + blocks16 n * 2560
    | _ => blocks16 n * 1280)
  else if e.op = 0x5005 then
    (if e.ps = 1 ∨ e.ps = 2 then (n + 72) / 64 * 12800 else if e.ps < 0x11 then (n + 144) / 128 * 20000
    else
      let r := keccakRate e.op e.ps
      let more := if 0x21 ≤ e.ps then (e.par 0 32 + r - 1) / r - 1 else 0
      (n / r + 1 + more) * 10000)
  else if e.ps = 1 then max 1 (blocks16 n) * 5120
  else if e.ps = 2 then blocks16 n * 1280
  else if e.ps = 0x11 then ((n + 72) / 64 + 2) * 12800
  else if e.ps < 0x21 then ((n + 144) / 128 + 2) * 20000
  else
    let r := keccakRate e.op e.ps
    let pre := (bytepad (encodeString (ascii "KMAC") ++ encodeString (List.replicate e.customLen 0)) r).length / r
    let key := (bytepad (encodeString (List.replicate keyLen 0)) r).length / r
    (pre + key + (n + (rightEncode (8 * e.tagLen)).length) / r + 1) * 10000

/-- Engine time of a class 0x5 job (R111, R307). -/
def Sqe.symTime (e : Sqe) (keyLen : Nat) : Nat := 200000 + e.symBlocks keyLen

/-- The time of segment `i`, with setup, but for the last (R306, R307, R309): of AAD, of IN, or of output. -/
def Sqe.segPart (e : Sqe) (i : Nat) : Nat :=
  let n := e.symLenIn
  let per := max 1 (pieces n e.segSize)
  let a := min 0x10000 (e.aadLen - i * 0x10000)
  let m := min e.segSize (n - (i - e.leadSegments) % per * e.segSize)
  (if i = 0 then 100000 else 0) +
    (if e.wraps then 1024 * 5120
    else if i < e.leadSegments then blocks16 a * 1280
    else if e.op = 0x5001 ∨ e.op = 0x5002 then blocks16 m * (if e.segSize = 0x4000 then 5120 else if e.segSize = 0x8000 then 2560 else 1280)
    else if e.op = 0x5005 ∧ 0x21 ≤ e.ps ∧ per ≤ i then 512 * 10000
    else if e.segSize = 0x6000 then m / 64 * 12800 else if e.op ≠ 0x5005 ∧ e.ps < 0x11 then blocks16 m * (if e.ps = 1 then 5120 else 1280)
    else if e.segSize = 0x8000 then m / 128 * 20000 else m / keccakRate e.op e.ps * 10000)

/-- The time of unit `i` of `n` units that take `all` together, when each but the last takes its own part. -/
def unitTime (part : Nat → Nat) (n all i : Nat) : Nat := if n ≤ i + 1 then all - ((List.range i).map part).foldl (· + ·) 0 else part i

/-- The time of segment `i` of a class 0x5 job: the segments of a job sum to its ETIME (R307). -/
def Sqe.segTime (e : Sqe) (keyLen i : Nat) : Nat := unitTime e.segPart e.segments (e.symTime keyLen) i

/-- Time of a class 0x7 job. -/
def Sqe.drbgTime (e : Sqe) : Nat := 100000 + 250 * (if e.op = 0x7001 then e.par 0 32 else 0)

/-! ### Digests of BNE jobs (R287, R306, R309) -/

/-- PREHASHED. -/
def Sqe.prehashed (e : Sqe) : Bool := bit e.param 4
/-- HASH. -/
def Sqe.hashCode (e : Sqe) : Nat := e.par 0 4

/-- Field length of the curve that a job has staged (R298): of its record, or of the named curve. -/
def Job.curveBytes (x : Job) : Nat := if x.sqe.slotCurve then (x.data.entry.length - 8) / 6 else curveLen x.sqe.ps

/-- The short-Weierstrass curve of a job. -/
def Job.weier (x : Job) : Curve := (namedCurve? x.sqe.ps).getD (curveOf x.data.entry x.curveBytes)

/-- Bits of the curve's field for the times of R110. -/
def Job.curveBits (x : Job) : Nat := if x.sqe.slotCurve then x.weier.p.log2 + 1 else 8 * curveLen x.sqe.ps

/-- SYE time of an HMAC of `n` bytes with the hash of a code: two blocks more (R111). -/
def hmacTime (c n : Nat) : Nat := digestTime c n + 2 * (if c = 1 then 12800 else if c = 2 ∨ c = 3 then 20000 else 10000)

/-- SYE time of the HMACs that give a deterministic nonce with an order of `q` bytes: the first candidate is taken as good (DEDUCED, log 26). -/
def nonceTime (c q : Nat) : Nat :=
  let h := (hashLen? c).getD 32
  2 * hmacTime c (h + 1 + 2 * q) + (2 + (q + h - 1) / h) * hmacTime c h

/-- SYE time of the hashes of EdDSA on a message of `m` bytes with a context of `n`: SHA-512 or SHAKE256 of the private key, of the prefix with the message, and of the two
points with the message; verification takes the last alone (DEDUCED, log 26). -/
def eddsaTime (sign : Bool) (p : Nat) (pre : Bool) (n m : Nat) : Nat :=
  let l := curveLen p
  let dom := if p = 6 then (if pre ∨ n ≠ 0 then 34 + n else 0) else 10 + n
  let t (k : Nat) : Nat := digestTime (if p = 6 then 3 else 8) k
  t (dom + 2 * l + m) + (if sign then t l + t (dom + l + m) else 0)

/-- Message bytes whose digest a job of the BNE takes: IN without the signature or the points that follow. -/
def Job.digestLen (x : Job) : Nat := x.sqe.inLen.toNat - x.sqe.sigLen x.weier.len

/-- The HASH code of that digest: of EdDSA that of its hash function, of a composite the one matched to its curve (R103). -/
def Sqe.digestCode (e : Sqe) : Nat :=
  if e.cls = 9 then hybHash e.ps else if e.op % 0x800 = 5 ∨ e.op % 0x800 = 6 then (if e.ps = 6 then 3 else 8) else e.hashCode

/-- The time on an SYE of what a job needs hashed before its BNE program starts (R106, R287); zero for nothing. -/
def Job.digestPs (x : Job) : Nat :=
  let e := x.sqe
  let o := e.op % 0x800
  let plain : Nat := if e.prehashed then 0 else digestTime e.hashCode x.digestLen
  if e.cls = 9 then (if hybKem e.ps ∨ o = 1 then 0 else digestTime e.digestCode x.digestLen)
  else if e.cls ≠ 4 then 0
  else if o = 2 then plain + (if bit e.param 5 then nonceTime e.hashCode x.weier.nLen else 0)
  else if o = 3 ∨ o = 0x11 ∨ o = 0x12 then plain
  else if o = 5 ∨ o = 6 then eddsaTime (decide (o = 5)) e.ps e.prehashed e.ctxLen x.digestLen
  else 0

/-- Message bytes of a full segment of a digest, by its HASH code (R306). -/
def digestSize (c : Nat) : Nat := if c = 1 then 0x6000 else if c = 2 ∨ c = 3 then 0x8000 else min 0x10000 (512 * [136, 104, 72, 168, 136].getD (c - 4) 136)

/-- Its segments (R306). -/
def Job.digestSegments (x : Job) : Nat := max 1 (pieces x.digestLen (digestSize x.sqe.digestCode))

/-- The time of segment `i` of it: the last takes what the nonce's HMACs and the further hashes of EdDSA take (R287, R309). -/
def Job.digestPart (x : Job) (i : Nat) : Nat :=
  let c := x.sqe.digestCode
  unitTime (fun k => (if k = 0 then 100000 else 0) + (if c = 1 then digestSize c / 64 * 12800 else if c = 2 ∨ c = 3 then digestSize c / 128 * 20000
    else digestSize c / [136, 104, 72, 168, 136].getD (c - 4) 136 * 10000)) x.digestSegments x.digestPs i

/-- A job has what its BNE program needs hashed. -/
def Job.digestDone (x : Job) : Bool := x.data.digested || decide (x.digestPs = 0)

/-- Engine time of the classical half of a composite on its BNE (R103, R110). -/
def Sqe.hybBne (e : Sqe) : Nat :=
  let op (o : Nat) : Nat := bneBase o (hybCurve e.ps) 0
  match e.op % 0x800 with
  | 1 => op 0x4001
  | 2 => op 0x4001 + op 0x4004
  | 3 => op 0x4004
  | 4 => op 0x4002
  | _ => op 0x4003

/-! ### The engine that a class runs on (R20, R71) -/

/-- Field bits of the curve that a job uses: its PSET's, or those of the loaded curve. -/
def State.fieldBits (s : State) (x : Job) : Nat :=
  if x.sqe.op = 0x4007 then x.sqe.fieldBits
  else if x.sqe.slotCurve then ((s.curve x).map CurveRec.fieldBits).getD 256 else 8 * curveLen x.sqe.ps

/-- Field length L of a job's curve in bytes. -/
def State.fieldLen (s : State) (x : Job) : Nat := if x.sqe.slotCurve then (s.fieldBits x + 7) / 8 else curveLen x.sqe.ps

end Sys2Proof.Machine
end

