-- ==== Sys2Proof/Machine/Primitives.lean ====
section
/-! DEFINITION. What a BNE executes by cycle class and the time that takes (R283 to R286, R288): its primitives and their step counts, the size classes of R285, and
the padding that ends every standard program. -/

namespace Sys2Proof.Machine

/-! ### BNE (R283 to R286, R288) -/

/-- Steps by cycle class. -/
structure BneSteps where
  ctl : Nat
  add : Nat
  mul : Nat
  mem : Nat
  deriving DecidableEq, Repr

/-- Their duration in ENG clocks at the lengths `len`. -/
def BneSteps.clocks (a : BneSteps) (len : Nat → Nat) : Nat := a.ctl * len 0 + a.add * len 1 + a.mul * len 2 + a.mem * len 3

/-- `n` times these steps, after others. -/
def BneSteps.plus (a b : BneSteps) (n : Nat) : BneSteps := ⟨a.ctl + n * b.ctl, a.add + n * b.add, a.mul + n * b.mul, a.mem + n * b.mem⟩

/-- The primitives of standard programs (R283). -/
inductive Primitive where
  | mul | red | addSub | sel | mov | invp | invg
  | exp (e : Nat)
  | pad
  deriving DecidableEq, Repr

/-- Fixed 4-bit-window exponentiation with an `e`-bit exponent. -/
def expSteps (w e : Nat) : BneSteps :=
  let n := e + (e + 3) / 4 + 16
  ⟨8 + 4 * n, 0, 2 * w * w * n, 0⟩

/-- The steps of a primitive on `w` digits in a size class of `b` bits. -/
def Primitive.steps (p : Primitive) (w b : Nat) : BneSteps :=
  match p with
  | .mul | .red => ⟨4, 0, 2 * w * w, 0⟩
  | .addSub => ⟨2, w + 2, 0, 0⟩
  | .sel => ⟨1, w + 1, 0, 0⟩
  | .mov => ⟨2, 0, 0, w⟩
  | .invp => expSteps w b
  | .invg => ⟨2 * (2 * b + 64), w * (2 * b + 64), 0, 0⟩
  | .exp e => expSteps w e
  | .pad => ⟨1, 0, 0, 0⟩

/-- The size class of a BNE operation (R285): digits of the field or modulus, and bits. -/
def sizeClass (op p fieldBits : Nat) : Nat × Nat :=
  if 0x10 ≤ op % 0x800 then ([8, 12, 16, 24, 32].getD (rsaCol (8 * p)) 32, [2048, 3072, 4096, 6144, 8192].getD (rsaCol (8 * p)) 8192)
  else ([1, 2, 3, 3, 4, 1, 2].getD (curveCol p fieldBits) 4, [256, 384, 576, 768, 1024, 255, 448].getD (curveCol p fieldBits) 1024)

/-- The primitives that a standard program may run, each with its steps in the size class: an RSA private operation works on primes of half the digits, with
exponents of the prime's length and 64 bits more (R287). -/
def programSteps (op p fieldBits : Nat) : List BneSteps :=
  let c := sizeClass op p fieldBits
  let priv : List BneSteps := if 0x10 ≤ op % 0x800 then [(Primitive.exp (c.2 / 2 + 64)).steps (c.1 / 2) (c.2 / 2)] else []
  [Primitive.exp 32, .invg, .invp, .mul, .red, .addSub, .sel, .mov].map (fun q => q.steps c.1 c.2) ++ priv

/-- The steps of a standard program that takes `c` clocks at the shipped map: as many of each primitive as the program runs, which the manual does not give
(log 25), and PAD steps to the program's time (R288). -/
def bneProgram (prog op p fieldBits c : Nat) : BneSteps :=
  let r := ((programSteps op p fieldBits).zipIdx).foldl (fun (a : BneSteps × Nat) (q : BneSteps × Nat) =>
    let t := takeWords (Config.primCount prog q.2) (q.1.clocks (fun _ => 1)) a.2
    (a.1.plus q.1 t.1, t.2)) (⟨0, 0, 0, 0⟩, c)
  r.1.plus (Primitive.pad.steps 0 0) r.2

/-- The time in ps of a BNE operation that takes `base` ps at the shipped map, at the map in force (R286). -/
def bneMapTime (m : EngineMap) (floor : W32) (prog op p fieldBits base : Nat) : Nat :=
  if m.cyc = floor then skipTime m.skip (base / 625) (base % 625)
  else skipTime m.skip ((bneProgram prog op p fieldBits (base / 625)).clocks (mapLen m.cyc)) (base % 625)

end Sys2Proof.Machine
end

