-- ==== Sys2Proof/Machine/Heads.lean ====
section
/-! DEFINITION. The head of a queue on its way to an engine: the checks between its keys and its dispatch (R135, R159, R519), the KPC
(R173, R174, R270, R277), its inputs, and its preparation in ring order (R118, R125, R126, R131, R142). -/

namespace Sys2Proof.Machine

/-! ### Engine classes (R71, R88, R353) -/

/-- The engine class of a job: 0 LVE, 1 BNE, 2 SYE; none for what the KVD, the RNG and the firmware serve in arrival order. -/
def Sqe.engClass (e : Sqe) : Option Nat :=
  if e.op = 0x3004 then none
  else match e.cls with
    | 1 => some 0 | 2 => some 0 | 3 => some 0 | 8 => some 0 | 9 => some 0 | 4 => some 1 | 5 => some 2 | _ => none

/-! ### Keys of a job -/

/-- The slots that a job holds, in order. -/
def State.jobKeys (s : State) (d : Nat) (x : Job) : List Slot := x.data.keys.filterMap (fun k => s.slot? d k)

/-- A key of a job. -/
def State.jobKey (s : State) (d : Nat) (x : Job) (i : Nat) : Option Slot := (s.jobKeys d x)[i]?

/-- The parent under which a job wraps its new blob: the key named, or the second one of IMPORT, DERIVE and STATEFUL_SPLIT (R77, R96, R169). -/
def State.jobParent (s : State) (d : Nat) (x : Job) : Option Slot :=
  s.jobKey d x (if x.sqe.op = 0x6002 ∨ x.sqe.op = 0x6005 ∨ x.sqe.op = 0x6009 then 1 else 0)

/-- Operations that create a key (R77). -/
def createsKey (op : Nat) : Bool := [0x1001, 0x2001, 0x3001, 0x4001, 0x4010, 0x9001, 0x6001, 0x6002, 0x6005, 0x600E].contains op

/-- The transient slot that STAGE_COMMIT names. -/
def State.staged (s : State) (x : Job) : Option Transient := Assoc.get? (s.inst x.src.inst).transients (x.sqe.par 32 3)

/-- The algorithm identifier of a new key. -/
def State.newAlg (s : State) (x : Job) : W16 :=
  let e := x.sqe
  if e.op = 0x6001 ∨ e.op = 0x6002 then symAlg e.ps
  else if e.op = 0x6005 then symAlg (e.par 32 8)
  else if e.op = 0x600E then symAlg (((x.data.staged.orElse (fun _ => s.staged x)).map (fun t => t.type.toNat)).getD 0)
  else algId e.cls e.ps (decide (e.op = 0x4010))

/-- The KEY_ID of a stateful key with so many levels (R167). -/
def keyIdOf (p levels : Nat) (payload : List Byte) : List Byte := (sha3256 (stfPub p levels payload)).take 8

/-- Levels of a stateful key: those whose public key its counter record carries the KEY_ID of; without such a record the fewest that have the leaves its blob
grants (DEDUCED, log 23: a blob does not say its levels). -/
def State.stfLevels (s : State) (t : Stf) (k : Slot) : Nat :=
  let byRange := t.levelsOf k.hdr.rangeEnd.toNat
  if t.xmss then 1
  else match Assoc.get? s.bbram.counters k.hdr.counter.toNat with
    | none => byRange
    | some c => (((List.range 8).map (· + 1)).find? (fun l => decide (keyIdOf (bits k.hdr.algId 0 8) l k.payload = c.keyId))).getD byRange

/-- The KEY_ID of a stateful key (R167). -/
def State.keyId (s : State) (k : Slot) : List Byte :=
  let p := bits k.hdr.algId 0 8
  keyIdOf p (((stf? p).map (fun t => s.stfLevels t k)).getD 1) k.payload

/-- Public-key length of a key (R79, R80, R82, R90, R101); zero for a symmetric one. -/
def State.pubLen (s : State) (k : Slot) : Nat :=
  let p := bits k.hdr.algId 0 8
  match bits k.hdr.algId 12 4 with
  | 1 => ((kemSizes p).getD (0, 0, 0, 0)).1
  | 2 => ((sigSizes p).getD (0, 0, 0)).1
  | 3 => ((stf? p).map (fun x => x.pub (s.stfLevels x k))).getD 0
  | 4 => if bit k.hdr.algId 11 then 8 * p + 4 else ecPub p (if isSlotCurve p then k.payload.length - 32 else curveLen p)
  | 9 => ((hybSizes p).getD (0, 0, 0)).1
  | _ => 0

/-! ### Exact lengths (R519) -/

/-- The length fields that depend on the key or the curve: offset in the entry, whether it keeps its rule, the length required. The signature of an HSS key grows with its
levels, which its PSET does not tell: it is held to OUT_CAP here too. DESIGN CHOICE (log 147). -/
def State.exactRules (s : State) (d : Nat) (x : Job) : List (Nat × Bool × Nat) :=
  let e := x.sqe
  let l := s.fieldLen x
  let n := e.inLen.toNat
  let out (k : Nat) : Nat × Bool × Nat := (0x1C, decide (k ≤ e.outCap.toNat), k)
  let key := s.jobKey d x 0
  if e.slotCurve then
    match e.op % 0x800 with
    | 1 => [out (76 + ecSecret e.ps l + ecPub e.ps l)]
    | 2 => [out (2 * l)]
    | 3 =>
      let need := 2 * l + (if bit e.param 4 then (hashLen? (e.par 0 4)).getD 0 else 0)
      [(0x18, if bit e.param 4 then decide (n = need) else decide (need ≤ n), need)]
        ++ (if e.ext then [(0x30, decide (e.auxLen.toNat = ecPub e.ps l), ecPub e.ps l)] else [])
    | 4 => [(0x18, decide (n = ecPub e.ps l), ecPub e.ps l), out l]
    | _ => []
  else match e.op with
    | 0x3002 => (match key, stf? e.ps with | some k, some t => [out (t.sig (s.stfLevels t k))] | _, _ => [])
    | 0x6003 => (match key with | some k => [out (s.pubLen k)] | none => [])
    | 0x6004 => (match key with | some k => [out ((k.payload.length + 7) / 8 * 8 + 8)] | none => [])
    | 0x6009 => (match key with | some k => [out (76 + k.payload.length)] | none => [])
    | 0x600E => (match s.staged x with | some t => [out (76 + t.key.length)] | none => [])
    | _ => []

/-- The first rule broken. -/
def State.exactFail (s : State) (d : Nat) (x : Job) : Option (W16 × W32) :=
  ((s.exactRules d x).find? (fun (r : Nat × Bool × Nat) => !r.2.1)).map (fun (r : Nat × Bool × Nat) =>
    (stLength, BitVec.ofNat 32 (r.1 + 256 * min r.2.2 0xFFFFFF)))

/-! ### Checks once the keys are there -/

/-- Counter records of an owner. -/
def Bbram.countersOf (b : Bbram) (n : Nat) : Nat := (b.counters.filter (fun (p : Nat × CounterRec) => decide (p.2.owner = n))).length

/-- No counter record is left to an instance: its quota is used up, or the package's 256 are (R88, R167). -/
def State.counterFull (s : State) (n : Nat) : Bool :=
  decide ((s.inst n).cfg.counterQ ≤ s.bbram.countersOf n) || decide (256 ≤ s.bbram.counters.length)

/-- The checks of a new key: its usage word, its parent's scope, the parent table and the counters (R88, R159, R164, R270). -/
def State.createFail (s : State) (d : Nat) (x : Job) : Option (W16 × W32) :=
  if !createsKey x.sqe.op then none
  else match s.jobParent d x with
    | none => none
    | some p =>
      let usage : W32 := BitVec.ofNat 32 (x.sqe.par 0 32)
      if !usageOk usage (s.newAlg x) p then some (stKeyUsage, 0)
      else if x.sqe.op = 0x3001 ∧ p.scope ≠ 0 then some (stKeyScope, 0)
      else if needsEntry usage p ∧ (s.rootRec (hierOf p.owner p.scope)).freeEntry.isNone then some (stSlotQuota, 0)
      else if x.sqe.op = 0x3001 ∧ s.counterFull x.src.inst then some (stCounterQuota, 0)
      else none

/-- The checks between the keys and the inputs. -/
def State.keyedFail (s : State) (d : Nat) (x : Job) : Option (W16 × W32) :=
  if x.sqe.op = 0x600E ∧ (s.staged x).isNone then some (stKeyNotFound, BitVec.ofNat 32 (x.sqe.par 32 3))
  else if x.sqe.op = 0x6003 ∧ ((s.jobKey d x 0).map s.pubLen).getD 1 = 0 then some (stKeyType, 0)
  else if x.sqe.op = 0x6009 ∧ ((s.jobKey d x 0).map (fun k => decide (bits k.hdr.algId 12 4 ≠ 3))).getD false then some (stKeyType, 0)
  else match s.exactFail d x with
    | some f => some f
    | none =>
      match s.createFail d x with
      | some f => some f
      | none => if x.sqe.cls = 5 ∧ !x.src.mgr ∧ (s.inst x.src.inst).cfg.ctxQ = 0 then some (stContextQuota, 0) else none

/-- The checks before the keys: an owner program that is not active, a curve slot that is empty (R92, R220). -/
def State.earlyFail (s : State) (d : Nat) (x : Job) : Option (W16 × W32) :=
  let e := x.sqe
  if e.op = 0x8001 ∧ (s.program d x).isNone then some (stProgramInactive, BitVec.ofNat 32 e.ps)
  else if e.op = 0x4008 ∧ (Assoc.get? (s.inst x.src.inst).curves (e.par 16 2)).isNone then some (stCurveNotLoaded, BitVec.ofNat 32 (e.par 16 2))
  else if e.slotCurve ∧ (s.curve x).isNone then some (stCurveNotLoaded, BitVec.ofNat 32 (e.ps - 0x40))
  else none

/-! ### Key and precompute cache (R173, R174, R270, R277) -/

/-- Units of the entry of a stateful key (R270). -/
def Stf.kpcUnits (x : Stf) (levels : Nat) : Nat :=
  let h := x.treeH
  let upper := if 10 < h then 2 ^ (h - 9) - 1 else 0
  let bottom := 2 ^ (min h 10 + 1) - 1
  let sig := if x.xmss then (x.chains + h) * x.n else x.lmsSig
  let n := x.trees levels
  (n * (upper + bottom) * x.n + (n - 1) * sig + 4095) / 4096

/-- Units of an entry by algorithm class and set (R173). -/
def kpcUnits (cls p levels : Nat) : Nat :=
  match cls with
  | 1 => if p ≤ 3 then p else if isMceliece p then [64, 128, 256, 256, 332].getD ((p - 0x11) / 2) 0 else p - 0x1F
  | 2 =>
    let b := slhBase p
    if p = 1 then 6 else if p = 2 then 10 else if p = 3 then 17
    else [8, 16, 12, 24, 16, 32].getD (b - 0x11) 0
  | 3 => ((stf? p).map (fun x => x.kpcUnits levels)).getD 0
  | 9 => if p = 1 then 2 else if p = 2 then 3 else if p = 0x11 then 6 else if p = 0x12 then 10 else 17
  | _ => 0

/-- Working units of a Classic McEliece KEYGEN (R277). -/
def workUnits (p : Nat) : Nat := [82, 176, 340, 329, 416].getD ((p - 0x11) / 2) 0

/-- Whether a job uses an entry of the key that it names or carries (R173). -/
def Sqe.usesKpc (e : Sqe) : Bool :=
  match e.op % 0x800 + e.op / 4096 * 4096 with
  | 0x1002 => true | 0x1003 => true
  | 0x2002 => true
  | 0x2003 => decide (e.ps ≤ 3)
  | 0x3002 => true
  | 0x8001 => true
  | 0x9002 => true | 0x9003 => true | 0x9004 => true | 0x9005 => true
  | _ => false

/-- Operations that generate a key with a KPC entry (R251). -/
def keygenKpc (op : Nat) : Bool := decide (op = 0x1001 ∨ op = 0x2001 ∨ op = 0x3001 ∨ op = 0x9001)

/-- Units of the entry that a key generation leaves. -/
def Sqe.newUnits (e : Sqe) : Nat := kpcUnits e.cls e.ps (max 1 (e.par 32 4))

/-- Units that the entry of a job needs; the public key of a Classic McEliece key that EXPORT_PUBLIC names comes from its entry (R155, R173). -/
def State.kpcNeed (s : State) (d : Nat) (x : Job) : Nat :=
  if x.sqe.op = 0x1001 ∧ isMceliece x.sqe.ps then workUnits x.sqe.ps
  else if keygenKpc x.sqe.op then x.sqe.newUnits
  else if x.sqe.op = 0x6003 then
    (match s.jobKey d x 0 with
    | some k => if bits k.hdr.algId 12 4 = 1 ∧ isMceliece (bits k.hdr.algId 0 8) then kpcUnits 1 (bits k.hdr.algId 0 8) 1 else 0
    | none => 0)
  else if !x.sqe.usesKpc then 0
  else if x.sqe.ext then kpcUnits x.sqe.cls x.sqe.ps 1
  else match s.jobKey d x 0 with
    | none => 0
    | some k =>
      let c := bits k.hdr.algId 12 4
      let p := bits k.hdr.algId 0 8
      kpcUnits c p (match stf? p with | some t => if c = 3 then s.stfLevels t k else 1 | none => 1)

/-- Units of a loaded curve (R298). -/
def curveUnits (c : CurveRec) : Nat := if c.fieldBits ≤ 576 then 1 else 2

/-- Units of an owner in use on a die, its pinned curves among them. -/
def State.kpcUsed (s : State) (kpc : Assoc KpcEntry) (owner : Nat) : Nat :=
  (kpc.filter (fun (p : Nat × KpcEntry) => decide (p.2.owner = owner))).foldl (fun n (p : Nat × KpcEntry) => n + p.2.units) 0
    + (s.inst owner).curves.foldl (fun n (p : Nat × CurveRec) => n + curveUnits p.2) 0

/-- The partition of an owner: an instance's quota; for the manager what the live instances leave (R173). -/
def State.kpcLimit (s : State) (owner : Nat) : Nat :=
  if owner = ownerShared then
    4096 - ((s.insts.filter (fun (p : Nat × Inst) => p.2.code.live)).map (fun (p : Nat × Inst) => p.2.cfg.kpcQ)).foldl (· + ·) 0
  else (s.inst owner).cfg.kpcQ

/-- The least recently used entry of an owner that no job holds. -/
def kpcVictim (kpc : Assoc KpcEntry) (owner : Nat) : Option Nat :=
  ((kpc.filter (fun (p : Nat × KpcEntry) => decide (p.2.owner = owner) && p.2.holders.isEmpty)).foldl (fun (a : Option (Nat × Nat)) (p : Nat × KpcEntry) =>
    match a with
    | some (_, l) => if p.2.lru < l then some (p.1, p.2.lru) else a
    | none => some (p.1, p.2.lru)) none).map Prod.fst

/-- Evict entries of an owner until so many units fit; the evictions made. -/
def State.kpcRoom (s : State) (n : Nat) (quota owner units : Nat) (kpc : Assoc KpcEntry) : Option (Assoc KpcEntry × Nat) :=
  if s.kpcUsed kpc owner + units ≤ quota then some (kpc, 0)
  else match n with
    | 0 => none
    | n + 1 =>
      match kpcVictim kpc owner with
      | none => none
      | some v => (s.kpcRoom n quota owner units (Assoc.erase kpc v)).map (fun r => (r.1, r.2 + 1))

/-- Evict entries of the manager that no job holds until the others fit into so many units. -/
def trimKpc (n quota : Nat) (kpc : Assoc KpcEntry) : Assoc KpcEntry :=
  let used := ((kpc.filter (fun (p : Nat × KpcEntry) => decide (p.2.owner = ownerShared))).map (fun (p : Nat × KpcEntry) => p.2.units)).foldl (· + ·) 0
  match n with
  | 0 => kpc
  | n + 1 =>
    if used ≤ quota then kpc
    else match kpcVictim kpc ownerShared with
      | none => kpc
      | some v => trimKpc n quota (Assoc.erase kpc v)

/-- The lowest free number of an allocation. -/
def kpcFree (kpc : Assoc KpcEntry) : Nat := ((List.range (kpc.length + 1)).find? (fun i => (Assoc.get? kpc i).isNone)).getD kpc.length

/-- How the entry of a job is keyed. -/
def State.kpcKeyOf (s : State) (d : Nat) (x : Job) (pub : List Byte) : KpcKey :=
  if x.sqe.ext then .ext (sha3256 pub)
  else match s.jobKey d x 0 with
    | some k => .handle k.scope k.index k.hdr.gen
    | none => .handle 0 0 0

/-- A KPC_QUOTA outcome (R174, R182). -/
def State.kpcQuota (s : State) (d j units : Nat) : State :=
  (s.event d KPC 0 0).failPrep d j stKpcQuota (BitVec.ofNat 32 (units * 4096))

/-- The hierarchy of the key of a job's entry with the generations of its ancestors: of a new key those of its parent and the parent's own (R166). -/
def State.kpcAncestry (s : State) (d : Nat) (x : Job) : Nat × List (Nat × W32) :=
  if x.sqe.ext then (ownerShared, [])
  else if keygenKpc x.sqe.op then
    (match s.jobParent d x with
    | some p => if p.scope = 2 then (ownerShared, []) else (hierOf p.owner p.scope, p.ancestry ++ [(p.entry, s.genOf d p)])
    | none => (ownerShared, []))
  else
    (match s.jobKey d x 0 with
    | some k => (hierOf k.owner k.scope, k.ancestry)
    | none => (ownerShared, []))

/-- Allocate units for a job, or wait for held entries. The answer says whether it has them. -/
def State.kpcAlloc (s : State) (d j : Nat) (x : Job) (units : Nat) (key : KpcKey) (use : KpcUse) : State × Bool :=
  let owner := x.owner
  match s.kpcRoom 5000 (s.kpcLimit owner) owner units (s.die d).kpc with
  | none => (s, false)
  | some (kpc, n) =>
    let i := kpcFree kpc
    let a := s.kpcAncestry d x
    let e : KpcEntry := ⟨owner, key, use, units, if keygenKpc x.sqe.op then x.sqe.newUnits else units, [], 0, [j], (s.die d).kvd.lruClock, a.1, a.2⟩
    let s := s.modDie d (fun y => { y with kpc := Assoc.set kpc i e, kvd := { y.kvd with lruClock := y.kvd.lruClock + 1 } })
    let s := if n = 0 then s else s.count d KPC 0 0x118 n
    (s.modJob d j (fun y => { y with data := (if use = .provisional then { y.data with prov := some i } else { y.data with kpcEntry := some i }) }), true)

/-- Change a KPC entry. -/
def State.modKpc (s : State) (d k : Nat) (f : KpcEntry → KpcEntry) : State := s.modDie d (fun y => { y with kpc := Assoc.update y.kpc k f })

/-! ### Inputs (R194, R281, R331) -/

/-- A transfer of a job's part is under way or waits for a channel. -/
def State.moving (s : State) (d j part : Nat) : Bool :=
  (s.die d).xferQueue.contains (j, part) || (s.die d).chans.any (fun c => decide (c.job = some j) && decide (c.part = part))

/-- The inputs of a job are staged: whole, or for an SYE job the mode data and what its first segment covers, which is not all of IN (R306, R331, R334). -/
def State.staged? (s : State) (d j : Nat) (x : Job) : Bool :=
  !s.moving d j partAux && (!s.moving d j partIn
    || (decide (x.sqe.cls = 5) && decide (x.sqe.segNeeds 0 < x.sqe.inLen.toNat) && decide (x.sqe.segNeeds 0 ≤ x.data.inData.length)))

/-- A job whose inputs have arrived is ready. -/
def State.checkStaged (s : State) (d j : Nat) : State :=
  match s.job? d j with
  | none => s
  | some x => if x.stage = .input ∧ s.staged? d j x then s.stage d j .ready else s

/-- Begin the inputs of a job. -/
def State.startInput (s : State) (d j : Nat) : State :=
  match s.job? d j with
  | none => s
  | some x =>
    let s := s.stage d j .input
    let s := if x.sqe.inLen = 0 then s else s.startXfer d j partIn
    let s := if x.auxRest = 0 then s else s.startXfer d j partAux
    s.checkStaged d j

/-- An LVE may take a job that needs so many masking bytes (R22, R174, R221, R247, R422). -/
def State.lveFree (s : State) (d e need : Nat) : Bool :=
  match (s.die d).lves[e]? with
  | none => false
  | some u =>
    decide (u.eng.phase = .idle) && u.fill.isNone && decide (u.svc.fence = 0) && decide (u.svc.fenceReq = 0) && !u.svc.frozen && !u.map.probe && !bit (s.reg d LVE e 0x010) 0
      && !((s.die d).pcr.probing.any (fun p => decide (p.engine = e)))
      && (!(s.die d).tmn.throttle || (s.die d).inCap e) && decide (need ≤ u.svc.maskBuf)

/-! ### From the keys to the inputs -/

/-- The provisional copy of an EXT Classic McEliece key becomes the entry that the miss fills (R174). -/
def State.keepCopy (s : State) (d j : Nat) (x : Job) (key : KpcKey) : State :=
  match x.data.prov with
  | none => s
  | some i =>
    let s := (s.modKpc d i (fun e => { e with key := key, use := .working })).count d KPC 0 0x114
    (s.modJob d j (fun y => { y with data := { y.data with kpcEntry := some i, prov := none } })).stage d j .fill

/-- Look up the entry of a job: hit, wait for the job that fills it, or a fill (R173, R174). -/
def State.kpcLookup (s : State) (d j : Nat) (x : Job) (pub : List Byte) : State :=
  let key := s.kpcKeyOf d x pub
  let units := s.kpcNeed d x
  let mine (u : KpcUse) : Option (Nat × KpcEntry) := (s.die d).kpc.find? (fun (p : Nat × KpcEntry) =>
    decide (p.2.owner = x.owner) && decide (p.2.key = key) && decide (p.2.use = u))
  match mine .entry with
  | some (i, _) =>
    let s := (s.count d KPC 0 0x110).modDie d (fun y => { y with
      kpc := (Assoc.update y.kpc i (fun e => { e with lru := y.kvd.lruClock, holders := e.holders ++ [j] })).filter
        (fun (p : Nat × KpcEntry) => !(decide (x.data.prov = some p.1)))
      kvd := { y.kvd with lruClock := y.kvd.lruClock + 1 } })
    (s.modJob d j (fun y => { y with data := { y.data with kpcEntry := some i, prov := none } })).startInput d j
  | none =>
    if (mine .working).isSome then s.stage d j .fill
    else if x.sqe.ext ∧ isMceliece x.sqe.ps ∧ x.data.prov.isSome then s.keepCopy d j x key
    else if s.kpcLimit x.owner < units then s.kpcQuota d j units
    else
      let r := s.kpcAlloc d j x units key .working
      if r.2 then (r.1.count d KPC 0 0x114).stage d j .fill
      else if x.stage = .fill then s else (s.count d KPC 0 0x11C).stage d j .fill

/-- Read the public part of an EXT key into a provisional copy, once it has its units. -/
def State.readPub (s : State) (d j : Nat) (x : Job) : State :=
  let n := x.sqe.pubLen 0
  let units := (n + 4095) / 4096
  if s.kpcLimit x.owner < units then s.kpcQuota d j units
  else
    let r := s.kpcAlloc d j x units (.ext []) .provisional
    let s := r.1.stage d j .pubRead
    if r.2 then
      let a := s.jobAttrs d x
      s.readPart d j 2 x.sqe.auxAddr n a.1 a.2
    else s

/-- The keys of a job are there: the checks that follow, the KPC, the inputs. -/
def State.keysDone (s : State) (d j : Nat) : State :=
  match s.job? d j with
  | none => s
  | some x =>
    match s.keyedFail d x with
    | some f => s.failPrep d j f.1 f.2
    | none =>
      let s := if x.sqe.slotCurve then
          s.modJob d j (fun y => { y with data := { y.data with entry := ((s.curve x).map CurveRec.record).getD [] } }) else s
      let units := s.kpcNeed d x
      if units = 0 then s.startInput d j
      else if keygenKpc x.sqe.op then
        (if s.kpcLimit x.owner < units then s.kpcQuota d j units
        else
          let r := s.kpcAlloc d j x units (.tag []) .working
          if r.2 then r.1.startInput d j else s.stage d j .fill)
      else if x.sqe.ext then s.readPub d j x
      else s.kpcLookup d j x []

/-- Classic McEliece handle fills read PUB_ADDR: the table entry is wanted first (R174). -/
def State.needsPubEntry (s : State) (d : Nat) (x : Job) : Bool :=
  match s.jobKey d x 0 with
  | some k => decide (bits k.hdr.algId 12 4 = 1) && isMceliece (bits k.hdr.algId 0 8) && !x.sqe.ext && decide (x.sqe.op ≠ 0x1001)
  | none => false

/-- A fill that an LVE of the die recomputes or expands: every one but that of a Classic McEliece key (R174, R180). -/
def State.fillsOnLve (s : State) (d : Nat) (x : Job) : Bool :=
  !(if x.sqe.ext then isMceliece x.sqe.ps else s.needsPubEntry d x)

/-- An LVE takes the fill of a job: the lowest-numbered one that is free (DESIGN CHOICE, log 62); without one the fill waits. -/
def State.fillOn (s : State) (d j : Nat) : State :=
  if (s.die d).lves.any (fun u => decide (u.fill = some j)) then s
  else match (List.range 16).find? (fun e => s.lveFree d e 0) with
    | none => s
    | some e => s.modDie d (fun y => { y with lves := y.lves.modify e (fun u => { u with fill := some j }) })

/-- A fill begins: on an LVE, or with the read of PUB_ADDR, for which the table entry is asked first. -/
def State.beginFill (s : State) (d j : Nat) (x : Job) : State :=
  if s.fillsOnLve d x then s.fillOn d j
  else if !s.needsPubEntry d x ∨ x.data.reads.contains 3 then s
  else if x.data.entry = [] then (s.stage d j .table).moreWants d j [s.mkWant x .entry x.sqe.handle]
  else
    let k := (s.jobKey d x 0).getD ⟨0, 0, 0, bareHdr 0 0, [], [], [], 0, false⟩
    let n := s.pubLen k
    if fieldLe x.data.entry 12 4 ≠ n then s.failPrep d j stKeyNotFound (BitVec.ofNat 32 (hIndex x.sqe.handle))
    else
      let a := s.jobAttrs d x
      s.readPart d j 3 (BitVec.ofNat 64 (fieldLe x.data.entry 16 8)) n a.1 false

/-- What follows once a job has all its blobs: keys loaded again are judged again and its staged inputs stand (R160); a fill goes on; else the checks after the keys. -/
def State.wantsDone (s : State) (d j : Nat) (x : Job) : State :=
  if x.data.reload then
    let s := s.modJob d j (fun y => { y with data := { y.data with reload := false } })
    match s.keyedFail d x with
    | some f => s.failPrep d j f.1 f.2
    | none => (s.stage d j .input).checkStaged d j
  else if x.data.kpcEntry.isSome then s.stage d j .fill
  else s.keysDone d j

/-- Take a job that is being prepared as far as it goes. -/
def State.advance (s : State) (d j : Nat) : State :=
  match s.job? d j with
  | none => s
  | some x =>
    if x.failed.isSome ∨ x.reading then s
    else match x.stage with
      | .table => let t := resolveWants 64 d j s
        (match t.job? d j with
        | some y => if y.failed.isSome ∨ y.reading ∨ y.data.wants ≠ [] then t else t.wantsDone d j y
        | none => t)
      | .blob => let t := resolveWants 64 d j s
        (match t.job? d j with
        | some y => if y.failed.isSome ∨ y.reading ∨ y.data.wants ≠ [] then t else t.wantsDone d j y
        | none => t)
      | .pubRead => if x.data.prov.isNone then s.readPub d j x else s
      | .fill =>
        if x.data.kpcEntry.isNone then (if keygenKpc x.sqe.op then s.keysDone d j else s.kpcLookup d j x x.data.auxData)
        else s.beginFill d j x
      | .input => s.checkStaged d j
      | _ => s

/-! ### The head of a queue (R118, R125, R126, R142) -/

/-- The length of an image of an instance (R364). -/
def State.saveLen (s : State) (n : Nat) : Nat := 76 + 320 * (s.inst n).cfg.homes.length + 136 + 3714 + 24 * s.bbram.countersOf n + 16

/-- The Alias certificate of die 0 (R179). -/
def State.aliasCert (s : State) : List Byte :=
  let k := (s.die 0).kvd
  Config.aliasCert ((k.derived.map Derived.alias_).getD []) (k.mfw ++ k.mmc ++ [BitVec.ofNat 8 k.svnFw, BitVec.ofNat 8 k.svnMc]) s.lc

/-- What the checks of an entry of a queue rest on. -/
def State.entryCtx (s : State) (d q : Nat) : EntryCtx where
  mgr := (s.queue d q).ctx.rings.mgr
  checked := (s.queue d q).ctx.rings.checked
  prog := fun p => ((Assoc.get? (s.die d).programs p).filter (fun r =>
    decide (r.inst = 0xFFFF) || decide (r.inst = (s.queue d q).ctx.rings.inst))).map OwnerProgram.image
  saveLen := s.saveLen
  idLen := s.store.deviceCert.length + s.aliasCert.length

/-- Consume the entry at the head for a job: SQ_HEAD passes it, it takes completion space and its SEQ, and its chain goes on or ends. -/
def State.consume (s : State) (d q j : Nat) (e : Sqe) : State :=
  let c := (s.queue d q).ctx
  let s := s.modCtx d q (fun c => { c with
    rings := { c.rings with sqHead := ringNext c.rings.ks c.rings.sqHead }
    win := Assoc.erase c.win c.rings.sqHead, nextSeq := c.nextSeq + 1, inflight := c.inflight + 1 })
  let s := s.modAux d q (fun a => { a with
    prep := none, chainOpen := e.chain, chainJob := if e.chain then some j else none, chainAborted := a.chainAborted && a.chainOpen && e.chain })
  s.modJob d j (fun y => { y with src := { y.src with cqSeq := c.nextSeq, epoch := c.epoch }, data := { y.data with begun := true, rtc := s.bbd.rtc.toNat } })

/-- A job record for the entry at the head of a queue. -/
def State.newJob (s : State) (d q : Nat) (e : Sqe) : Job :=
  let c := (s.queue d q).ctx
  let src : JobSrc := ⟨q, c.rings.mgr, if c.rings.mgr then 0xFFFF else c.rings.inst, c.rings.sqHead, 0, c.epoch, (s.queue d q).aux.rid⟩
  ⟨src, e, .table, .none, JobData.empty, none, none, 0, 0, 0, 0, false, 0⟩

/-- Add a job to a die. -/
def State.addJob (s : State) (d : Nat) (x : Job) : State :=
  s.modDie d (fun y => { y with jobs := Assoc.set y.jobs y.nextJob x, nextJob := y.nextJob + 1 })

/-- A failed head ends: consumed with its completion space, recorded where the log records it, completed (R135). -/
def State.endHead (s : State) (d q j : Nat) (x : Job) : State :=
  if (s.queue d q).ctx.space < 1 then s.stall d q
  else
    let f := x.failed.getD (stOk, 0)
    (s.consume d q j x.sqe).closeJob d j f.1 f.2 0

/-- The security and early checks of a new head, then its wants. -/
def State.beginHead (s : State) (d q j : Nat) (x : Job) : State :=
  let s := s.modAux d q (fun a => { a with prep := some j })
  match s.secCheck d x with
  | some f => s.failPrep d j f.1 f.2
  | none =>
    match s.earlyFail d x with
    | some f => s.failPrep d j f.1 f.2
    | none => (s.modJob d j (fun y => { y with data := { y.data with wants := s.firstWants d x } })).advance d j

/-- Take the entry at the head of an ACTIVE queue, once it is read and may be taken. -/
def State.prepare (s : State) (d q : Nat) : State :=
  let c := (s.queue d q).ctx
  let a := (s.queue d q).aux
  if c.state ≠ .active ∨ a.prep.isSome ∨ !s.hostOpen ∨ ringCount c.rings.ks c.rings.sqTail c.rings.sqHead = 0 then s
  else match Assoc.get? c.win c.rings.sqHead with
    | some (.copy b) =>
      let code := entryError (s.entryCtx d q) b
      let e := Sqe.ofBytes b
      let j := (s.die d).nextJob
      if code ≠ 0 then s.queueError d q code c.rings.sqHead
      else if a.chainOpen ∧ a.chainAborted then
        (if c.space < 1 then s.stall d q
        else
          let x := s.newJob d q e
          let t := (s.addJob d x).consume d q j e
          let t := t.modAux d q (fun a => { a with chainAborted := e.chain })
          t.closeJob d j stChainAborted 0 0)
      else if a.chainOpen ∧ ((a.chainJob.bind (fun k => s.job? d k)).isSome) then s
      else if e.fence ∧ c.inflight ≠ 0 then s
      else
        let x := s.newJob d q e
        (s.addJob d x).beginHead d q j x
    | _ => s

end Sys2Proof.Machine
end

