-- ==== Sys2Proof/Machine/Sched.lean ====
section
/-! DEFINITION. Scheduling and dispatch (R22, R118, R127, R137, R300, R308, R309, R352, R353): the weighted deficit round robin of a die, the
engines that may take a job, what a dispatch does, and the pump that takes the queues of a die as far as they go. -/

namespace Sys2Proof.Machine

/-! ### The pump -/

/-- The job of a queue's head entry: failed, it ends; ready without completion space, the queue stalls (R135, R138). -/
def State.headStep (s : State) (d q : Nat) : State :=
  match (s.queue d q).aux.prep with
  | none => s.prepare d q
  | some j =>
    let s := if s.hostOpen then s.advance d j else s
    match s.job? d j with
    | none => s.modAux d q (fun a => { a with prep := none })
    | some x =>
      if x.stage ≠ .ready then s
      else if x.failed.isSome then (if s.hostOpen then s.endHead d q j x else s)
      else if (s.queue d q).ctx.space < 1 then s.stall d q
      else s

/-- Step a head as often as it moves, `n` times at most. -/
def pumpN (n : Nat) (d q : Nat) (s : State) : State :=
  match n with
  | 0 => s
  | n + 1 =>
    let before := ((s.queue d q).aux.prep, (s.queue d q).ctx.rings.sqHead)
    let t := (s.fetch d q).headStep d q
    if ((t.queue d q).aux.prep, (t.queue d q).ctx.rings.sqHead) = before then t else pumpN n d q t

/-- Take a queue as far as it goes: fetch, prepare its head, end heads that fail. -/
def State.pump (s : State) (d q : Nat) : State := if (s.queue d q).ctx.state = .active then pumpN 40 d q s else s

/-- Take the channels and every queue of a die as far as they go. -/
def State.pumpDie (s : State) (d : Nat) : State := ((s.die d).queues.map Prod.fst).foldl (fun t q => t.pump d q) (s.goChans d)

/-- Take every queue of the package as far as it goes. -/
def State.pumpAll (s : State) : State := s.dieList.foldl (fun t d => t.pumpDie d) s

/-! ### Contenders (R352, R353) -/

/-- The contender of a job. -/
def Job.contender (x : Job) : Contender := if x.src.mgr then .mgr else .inst x.src.inst

/-- A contender's place in the round. -/
def Contender.key : Contender → Nat
  | .inst n => n
  | .mgr => 4096

/-- The share of a contender. -/
def State.share (s : State) (c : Contender) : Nat :=
  match c with
  | .inst n => (s.inst n).cfg.share
  | .mgr => bits (s.reg 0 VIM 0 0x20C) 0 11

/-- QUANTUM of a class in ns per share; zero is taken as 1. -/
def State.quantum (s : State) (cls : Nat) : Nat := 10 * max 1 (bits (s.reg 0 VIM 0 0x208) (8 * cls) 8)

/-- The heads of a die that are ready for a class, with their queues. -/
def State.readyHeads (s : State) (d cls : Nat) : List (Nat × Nat × Job) :=
  (s.die d).queues.filterMap (fun (p : Nat × Queue) =>
    match p.2.aux.prep with
    | none => none
    | some j =>
      match s.job? d j with
      | none => none
      | some x =>
        if p.2.ctx.state = .active ∧ x.stage = .ready ∧ x.failed = none ∧ x.sqe.engClass = some cls ∧ 1 ≤ p.2.ctx.space then some (p.1, j, x) else none)

/-- The class of the engine that a job runs on. -/
def engineCls : EngineId → Option Nat
  | .lve _ => some 0
  | .bne _ => some 1
  | .sye _ => some 2
  | _ => none

/-- Work of a contender runs on a class. -/
def State.working (s : State) (d cls : Nat) (c : Contender) : Bool :=
  (s.die d).jobs.any (fun (p : Nat × Job) => decide (p.2.contender = c) && decide (p.2.stage = .running) && decide (engineCls p.2.engine = some cls))

/-- The round robin of a class. -/
def Die.dwrr (d : Die) (cls : Nat) : Dwrr := Assoc.getD d.sched cls ⟨[], none, [], [], none⟩

/-- A contender's quantum in a class: its share and QUANTUM as the last round start found them (R352, R354, R369). -/
def State.credit (s : State) (cls : Nat) (r : Dwrr) (c : Contender) : Nat := Assoc.getD r.shares c.key (s.share c) * r.quantum.getD (s.quantum cls)

/-- A round start takes up the shares and the quantum. -/
def State.takeShares (s : State) (d cls : Nat) (r : Dwrr) : Dwrr :=
  { r with shares := (s.insts.filter (fun (p : Nat × Inst) => p.2.cfg.homes.any (fun h => decide (h.1 = d)))).map (fun (p : Nat × Inst) => (p.1, p.2.cfg.share)) ++ [(4096, s.share .mgr)],
           quantum := some (s.quantum cls) }

/-- Set it. -/
def State.setDwrr (s : State) (d cls : Nat) (r : Dwrr) : State := s.modDie d (fun y => { y with sched := Assoc.set y.sched cls r })

/-- The input of a context's next segment is staged (R306, R334); a job that has failed runs on without its data (R41). -/
def SyeCtx.fed (c : SyeCtx) (x : Job) : Bool := c.digest || x.failed.isSome || decide (x.sqe.segNeeds c.done ≤ x.data.inData.length)

/-- Contexts of an SYE whose next segment waits, with their jobs. -/
def State.waitingCtxs (s : State) (d e : Nat) : List (Nat × Nat × Job) :=
  match (s.die d).syes[e]? with
  | none => []
  | some u => u.ctxs.filterMap (fun (p : Nat × SyeCtx) =>
      if u.running = some p.1 ∨ p.2.total ≤ p.2.done then none else ((s.job? d p.2.job).filter p.2.fed).map (fun x => (p.1, p.2.job, x)))

/-- Ready heads whose BNE program needs digests that no SYE has computed or is computing (R287, R309). -/
def State.digestHeads (s : State) (d : Nat) : List (Nat × Nat × Job) :=
  (s.readyHeads d 1 ++ s.readyHeads d 0).filter (fun (p : Nat × Nat × Job) =>
    !p.2.2.digestDone && !(s.die d).syes.any (fun u => u.ctxs.any (fun (c : Nat × SyeCtx) => decide (c.2.job = p.2.1))))

/-- Contenders eligible for a class now. -/
def State.eligible (s : State) (d cls : Nat) : List Contender :=
  let heads := (s.readyHeads d cls).map (fun (p : Nat × Nat × Job) => p.2.2.contender)
  let segs := if cls = 2 then ([0, 1].flatMap (fun e => s.waitingCtxs d e) ++ s.digestHeads d).map (fun (p : Nat × Nat × Job) => p.2.2.contender) else []
  (heads ++ segs).dedup

/-- Contenders that come and go: a full quantum on becoming eligible, none left when neither eligible nor running (R352). -/
def State.syncDwrr (s : State) (d cls : Nat) : State :=
  let r := (s.die d).dwrr cls
  let el := s.eligible d cls
  let kept := r.deficits.filter (fun (p : Contender × Int) => el.contains p.1 || s.working d cls p.1)
  let new := (el.filter (fun c => !kept.any (fun (p : Contender × Int) => decide (p.1 = c)) && !s.working d cls c)).map (fun c => (c, (s.credit cls r c : Int)))
  s.setDwrr d cls { r with deficits := kept ++ new }

/-- The deficit of a contender. -/
def Dwrr.def_ (r : Dwrr) (c : Contender) : Int := ((r.deficits.find? (fun (p : Contender × Int) => decide (p.1 = c))).map Prod.snd).getD 0

/-- Change the deficit of a contender. -/
def Dwrr.add (r : Dwrr) (c : Contender) (n : Int) : Dwrr :=
  { r with deficits := r.deficits.map (fun (p : Contender × Int) => if p.1 = c then (c, p.2 + n) else p) }

/-- The next eligible contender with credit, in round-robin order from the last grant. -/
def Dwrr.next (r : Dwrr) (el : List Contender) : Option Contender :=
  let ok := el.filter (fun c => decide (0 < r.def_ c))
  let least (l : List Contender) : Option Contender := l.foldl (fun (a : Option Contender) c =>
    match a with
    | none => some c
    | some b => if c.key < b.key then some c else a) none
  let after := (r.last.map Contender.key)
  match after with
  | none => least ok
  | some k => match least (ok.filter (fun c => decide (k < c.key))) with
    | some c => some c
    | none => least ok

/-- DWRR_ROUND_START (R352). -/
def opDwrrRoundStart (d cls : Nat) (s : State) : State :=
  if 2 < cls then s
  else
    let s := (s.pumpDie d).syncDwrr d cls
    let el := s.eligible d cls
    let r := s.takeShares d cls ((s.die d).dwrr cls)
    s.setDwrr d cls { r with deficits := r.deficits.map (fun (p : Contender × Int) =>
      if el.contains p.1 then
        let q : Int := (s.credit cls r p.1 : Int)
        (p.1, min (p.2 + q) (4 * q))
      else p) }

/-- DWRR_ROUND_START. -/
def execDwrrRoundStart (d cls : Nat) (s : State) : Host.Outcome State Fault Refusal := ret (opDwrrRoundStart d cls s)

/-! ### Charges (R353) -/

/-- The part of the engine time in ps of unit `i` of a job that the public values known at dispatch determine; the rest is settled at the unit's end. -/
def State.knownTime (s : State) (d cls : Nat) (x : Job) (i : Nat := 0) : Nat :=
  let e := x.sqe
  if cls = 2 ∧ e.cls ≠ 5 then x.digestPart i else
  match e.cls with
  | 1 => (match e.op % 0x800 with | 1 => (kemTime e.ps).1 | 2 => (kemTime e.ps).2.1 | _ => (kemTime e.ps).2.2)
  | 2 => (match e.op % 0x800 with | 1 => (sigTime e.ps 1).1 | 2 => (sigTime e.ps 1).2.1 | _ => (sigTime e.ps 1).2.2)
  | 9 =>
    if hybKem e.ps then (match e.op % 0x800 with | 1 => (kemTime (hybPq e.ps)).1 | 2 => (kemTime (hybPq e.ps)).2.1 | _ => (kemTime (hybPq e.ps)).2.2)
    else (match e.op % 0x800 with | 1 => (sigTime (hybPq e.ps) 1).1 | 4 => (sigTime (hybPq e.ps) 1).2.1 | _ => (sigTime (hybPq e.ps) 1).2.2)
  | 4 => if e.op = 0x4007 ∨ e.op = 0x4008 ∨ e.op = 0x4010 then 0 else bneBase e.op e.ps (s.fieldBits x)
  | 5 => e.segTime (((s.jobKey d x 0).map (fun k => k.payload.length)).getD 0) i
  | _ => 0

/-- The charge of unit `i` of a job in ns: 1 µs at least. -/
def State.charge (s : State) (d cls : Nat) (x : Job) (i : Nat := 0) : Nat := max 1000 (s.knownTime d cls x i / 1000)

/-- A unit of a job begins: its contender is charged. -/
def State.chargeUnit (s : State) (d cls : Nat) (x : Job) (i : Nat := 0) : State :=
  let c := x.contender
  let r := (s.die d).dwrr cls
  s.setDwrr d cls (({ r with last := some c, lastQueue := Assoc.set r.lastQueue c.key x.src.queue } : Dwrr).add c (-(s.charge d cls x i : Int)))

/-- Units of a job have ended: the difference between what was charged and the engine time of them is settled. -/
def State.settleUnits (s : State) (d cls : Nat) (x : Job) (units ps : Nat) : State :=
  s.setDwrr d cls (((s.die d).dwrr cls).add x.contender ((units * s.charge d cls x : Int) - (ps / 1000 : Nat)))

/-- Segment `i` of a job has ended: the difference between its charge and its time is settled. -/
def State.settleSegment (s : State) (d : Nat) (x : Job) (i ps : Nat) : State :=
  s.setDwrr d 2 (((s.die d).dwrr 2).add x.contender ((s.charge d 2 x i : Int) - (ps / 1000 : Nat)))

/-! ### Random and masking bytes (R22, R255, R305, R320, R322) -/

/-- Masking bytes that a pass of a job needs; `first` for its first pass. -/
def State.maskNeed (s : State) (d : Nat) (x : Job) (first : Bool) : Nat :=
  let e := x.sqe
  let pick (l : List Nat) (p : Nat) : Nat := if 1 ≤ p ∧ p ≤ 3 then l.getD (p - 1) 0 else 0
  let o := e.op % 0x800
  if e.cls = 1 ∨ (e.cls = 9 ∧ e.ps ≤ 2) then
    let p := if e.cls = 1 then e.ps else e.ps + 1
    (if o = 1 then pick [1480, 2176, 2880] p else if o = 2 then pick [1760, 2500, 3264] p else pick [2016, 2848, 3712] p)
  else if e.cls = 2 ∨ e.cls = 9 then
    let p := if e.cls = 2 then e.ps else e.ps - 0x10
    (if o = 1 then pick [1200, 1600, 2100] p
    else if o = 2 ∨ o = 4 then (if first then pick [2400, 3352, 4000] p else pick [1000, 1352, 1800] p) else 0)
  else if e.cls = 8 then progField (((s.program d x).map OwnerProgram.image).getD []) 50 2
  else if e.cls = 5 then
    (if e.op = 0x5005 then 0
    else if (e.op = 0x5003 ∨ e.op = 0x5004) ∧ 0x11 ≤ e.ps then (if first then 32 else 0) + 48
    else (if first then 64 else 0) + 96)
  else 0

/-- A job that draws from the DRBG when it is staged or set up (R250, R281, R320). -/
def Sqe.draws (e : Sqe) : Bool :=
  match e.op % 0x800 + e.op / 4096 * 4096 with
  | 0x1001 => true | 0x1002 => true | 0x2001 => true | 0x3001 => true | 0x4001 => true | 0x4010 => true | 0x9001 => true | 0x9002 => true
  | 0x2002 => !bit e.param 1 | 0x9004 => true
  | 0x4002 => true | 0x4004 => true | 0x4005 => true | 0x4011 => true | 0x4013 => true | 0x4014 => true
  | 0x5001 => decide (e.mode = 3) && bit e.param 0
  | 0x6001 => true
  | _ => false

/-- What the die's RNG says of a job that is to be dispatched: it serves it, it must reseed first, or the job ends with RNG_FAIL. -/
inductive RngSays where
  | serves | waits | fails
  deriving DecidableEq, Repr

/-- The DRBG's answer to a request (R320, R322). -/
def Rng.asked (r : Rng) (entropy : Bool) : RngSays :=
  if r.disabled ∨ !r.drbgReady then .fails
  else if r.recovering then (if entropy ∨ 2 ^ 20 ≤ r.reqs then .fails else .serves)
  else if 2 ^ 20 ≤ r.reqs then .waits else .serves

/-- Bytes in the masking buffer of an engine; a BNE and the engines of the other classes use none. -/
def Die.maskHeld (y : Die) : EngineId → Nat
  | .lve e => ((y.lves[e]?).map (fun u => u.svc.maskBuf)).getD 0
  | .sye e => ((y.syes[e]?).map (fun u => u.svc.maskBuf)).getD 0
  | _ => 4096

/-- A job waits for masking bytes that a disabled generator never brings (R322). -/
def State.maskLost (s : State) (d need : Nat) (e : EngineId) : Bool := (s.die d).rng.disabled && decide ((s.die d).maskHeld e < need)

/-- The answer for a job that an engine is to take. -/
def State.rngFor (s : State) (d : Nat) (x : Job) (e : EngineId) : RngSays :=
  if s.maskLost d (s.maskNeed d x true) e then .fails else if x.sqe.draws then (s.die d).rng.asked false else .serves

/-- A request to the DRBG counts. -/
def State.countDraw (s : State) (d : Nat) : State := s.modDie d (fun y => { y with rng := { y.rng with reqs := y.rng.reqs + 1 } })

/-! ### Engines that may take a job -/

/-- A BNE is in service: it may be given jobs. -/
def State.bneServes (s : State) (d e : Nat) : Bool :=
  match (s.die d).bnes[e]? with
  | none => false
  | some u =>
    decide (u.svc.fence = 0) && decide (u.svc.fenceReq = 0) && !u.svc.frozen && !u.map.probe && !bit (s.reg d BNE e 0x010) 0
      && !((s.die d).pcr.probing.any (fun p => decide (p.engine = 16 + e)))
      && (!(s.die d).tmn.throttle || (s.die d).inCap (16 + e))

/-- The lane of a BNE that holds a staged job, and the job (R280, R282). -/
def BneUnit.stagedJob (u : BneUnit) : Option (Bool × Nat) :=
  if u.lane0.staged then u.lane0.job.map (fun j => (false, j)) else if u.lane1.staged then u.lane1.job.map (fun j => (true, j)) else none

/-- A BNE may start a program that is not staged in it. -/
def State.bneFree (s : State) (d e : Nat) : Bool :=
  s.bneServes d e && ((s.die d).bnes[e]?).any (fun u => u.running.isNone && u.stagedJob.isNone)

/-- An SYE may start a segment; `new` for a job's first. -/
def State.syeFree (s : State) (d e need : Nat) (new : Bool) : Bool :=
  match (s.die d).syes[e]? with
  | none => false
  | some u =>
    u.running.isNone && decide (u.svc.fence = 0) && decide (u.svc.fenceReq = 0) && !u.svc.frozen && decide (need ≤ u.svc.maskBuf)
      && (!new || (!bit (s.reg d SYE e 0x010) 0 && (!(s.die d).tmn.throttle || (s.die d).inCap (20 + e)) && decide (u.ctxs.length < 256)))

/-- Every engine of a class is fenced. -/
def State.classFenced (s : State) (d cls : Nat) : Bool :=
  if cls = 0 then (s.die d).lves.all (fun u => decide (u.svc.fence ≠ 0))
  else if cls = 1 then (s.die d).bnes.all (fun u => decide (u.svc.fence ≠ 0))
  else (s.die d).syes.all (fun u => decide (u.svc.fence ≠ 0))

/-- SYE contexts that the jobs of an instance hold on a die (R308); a digest for a BNE job takes none of its quota (DESIGN CHOICE, log 44). -/
def Die.ctxsOf (d : Die) (n : Nat) : Nat :=
  (d.syes.flatMap (fun u => u.ctxs)).foldl (fun k (p : Nat × SyeCtx) =>
    match Assoc.get? d.jobs p.2.job with
    | some x => if !p.2.digest && !x.src.mgr && decide (x.src.inst = n) then k + 1 else k
    | none => k) 0

/-! ### What comes up at dispatch itself -/

/-- STAGE_COMMIT takes the key of its transient slot at its dispatch, and what was judged of the key is judged of this one (R159, R163). -/
def State.takeStaged (s : State) (d j : Nat) (x : Job) : State × Option (W16 × W32) :=
  if x.sqe.op ≠ 0x600E then (s, none)
  else match s.keyedFail d x with
    | some f => (s, some f)
    | none => (s.modJob d j (fun y => { y with data := { y.data with staged := s.staged x } }), none)

/-- Transient keys are those of the slot now (R163); a key whose ancestry has changed revokes the job and its slot (R166). -/
def State.dispatchKeys (s : State) (d : Nat) (x : Job) : State × Option (W16 × W32) :=
  let s := s.modDie d (fun y => { y with kvd := { y.kvd with slots := y.kvd.slots.map (fun (p : Nat × Slot) =>
    if p.2.scope = 3 ∧ x.data.keys.contains p.1 then
      (match Assoc.get? (s.inst x.src.inst).transients p.2.index with
      | some t => (p.1, { p.2 with hdr := bareHdr (symAlg t.type.toNat) (BitVec.ofNat 32 t.usage.toNat), payload := t.key })
      | none => p)
    else p) } })
  let gone := x.data.keys.find? (fun k => match s.slot? d k with
    | some y => decide (y.scope = 3) && (Assoc.get? (s.inst x.src.inst).transients y.index).isNone
    | none => true)
  match gone with
  | some k => (s, some (stKeyNotFound, BitVec.ofNat 32 (((s.slot? d k).map Slot.index).getD 0)))
  | none =>
    let bad := x.data.keys.filter (fun k => match s.slot? d k with | some y => !s.current d y | none => false)
    if bad = [] then
      (match s.jobKey d x 0 with
      | some k => if k.scope = 3 ∧ s.keyFit d x false k ≠ 0 then (s, some (s.keyFit d x false k, 0)) else (s, none)
      | none => (s, none))
    else
      let t := s.modDie d (fun y => { y with
        kvd := { y.kvd with slots := y.kvd.slots.map (fun (p : Nat × Slot) => if bad.contains p.1 then (p.1, { p.2 with dying := true }) else p) }
        kpc := match x.data.kpcEntry with | some i => Assoc.update y.kpc i (fun e => { e with use := .working }) | none => y.kpc })
      ((t.count d KVD 0 0x14C), some (stKeyRevoked, 0))

/-- The block of leaves that a leaf lies in (R270). -/
def Stf.blockOf (x : Stf) (leaf : Nat) : Nat := leaf / 2 ^ min x.treeH 10

/-- A leaf for a stateful SIGN: assigned and committed once, in the BBRAM of die 0 (R168). -/
def State.assignLeaf (s : State) (d j : Nat) (x : Job) (k : Slot) : State × Option (W16 × W32) :=
  if x.data.leaf.isSome then (s, none)
  else
    match Assoc.get? s.bbram.counters k.hdr.counter.toNat with
    | none => (s, some (stKeyAuth, 0))
    | some c =>
      if c.keyId ≠ s.keyId k then (s, some (stKeyAuth, 0))
      else if c.stop ≤ c.next then (s, some (stExhausted, 0))
      else
        let t := { s with bbram := { s.bbram with counters := Assoc.set s.bbram.counters k.hdr.counter.toNat { c with next := c.next + 1 } } }
        (t.modJob d j (fun y => { y with data := { y.data with leaf := some c.next } }), none)

/-- The block of the entry that a job holds. -/
def State.entryBlock (s : State) (d : Nat) (x : Job) : Nat := ((x.data.kpcEntry.bind (fun i => Assoc.get? (s.die d).kpc i)).map KpcEntry.block).getD 0

/-! ### Dispatch -/

/-- The random bytes that an operation draws afresh for a job (R250), and whether its program treats them as masked: the ML-KEM message m, the ML-DSA rnd, the SLH-DSA
opt_rand, the encapsulation randomness of Classic McEliece and HQC. -/
def Sqe.scratch (e : Sqe) : Nat × Bool :=
  let o := e.op % 0x800
  if e.cls = 1 ∧ o = 2 then (kemRandLen e.ps, decide (e.ps ≤ 3))
  else if e.cls = 2 ∧ o = 2 ∧ !bit e.param 1 then (if e.ps ≤ 3 then (32, true) else (e.secretLen 0 / 4, false))
  else if e.op = 0x9002 ∨ e.op = 0x9802 ∨ (e.op = 0x9004 ∧ !bit e.param 1) then (32, true)
  else (0, false)

/-- The secret seed that the KVD draws for a new key of an LVE program (R251): of Classic McEliece δ alone, of SLH-DSA SK.seed, SK.prf and PK.seed, of a composite
that of its post-quantum part. -/
def Sqe.seedLen (e : Sqe) : Nat :=
  if e.op = 0x1001 then (if isMceliece e.ps then 32 else e.secretLen 0)
  else if e.op = 0x2001 then (if e.ps ≤ 3 then 32 else e.secretLen 0 / 4 * 3)
  else if e.op = 0x3001 then e.secretLen 0
  else if e.op = 0x9001 then (if e.ps ≤ 2 then 64 else 32)
  else 0

/-- Where the scratch area of a vendor program's window lies. DESIGN CHOICE (log 17). -/
def scratchAt : Nat := 0x70000

/-- The regions of a vendor program: the manual gives their rules but not their places. DESIGN CHOICE (log 17). -/
def vendorRegions (e : Sqe) : LveRegions := ⟨0x80000, 0, min e.inLen.toNat 0x30000, 0x30000, min e.auxLen.toNat 0x20000, 0x50000, 0x20000, 0, 0⟩

/-- The window of an owner program at its start: IN and AUX through their transforms, the constants. -/
def ownerWindow (x : Job) (img : List Byte) (rg : LveRegions) : Mem :=
  (stageInto (stageInto [] (xformOf img 0) rg.inOff x.data.inData) (xformOf img 1) rg.auxOff x.data.auxData).writes rg.constOff
    (slice img (64 + 8 * progField img 10 2) rg.constLen)

/-- The window of a vendor program at its start: IN and AUX as plain copies (R258), the fresh randomness in the scratch area (R250). -/
def vendorWindow (x : Job) (rnd : List Byte) : Mem :=
  let rg := vendorRegions x.sqe
  ((Mem.writes [] rg.inOff (x.data.inData.take rg.inMax)).writes rg.auxOff (x.data.auxData.take rg.auxMax)).writes scratchAt rnd

/-- The program of an LVE job starts (R185, R193, R194): an owner program with its regions and its text, waiting for RUN; or a vendor program, whose text is its
replacement in the program RAM, `text`, or the ROM. `rnd` are the random bytes staged for it. -/
def startLve (x : Job) (prog : Option OwnerProgram) (keyLen : Nat) (kpc : List Byte) (need j : Nat) (text : List W64) (rnd : List Byte) (u : LveUnit) : LveUnit :=
  let jr : LveJobRegs := ⟨x.sqe.inLen.toNat, x.sqe.auxLen.toNat, x.sqe.outCap.toNat, x.sqe.param, x.sqe.pset, keyLen⟩
  let l : Lve := { Lve.clear with job := some j, kpc := kpc, jr := jr }
  let eng : Lve := match prog with
    | some p =>
      let f (o n : Nat) : Nat := progField p.image o n
      let rg := imageRegs p.image
      { l with phase := .loading, regions := rg, window := ownerWindow x p.image rg,
               seq := { LveSeq.fresh with text := imageText p.image, head := p.image, maskBytes := f 50 2, repeatMax := f 52 2 } }
    | none =>
      { l with phase := .running, regions := vendorRegions x.sqe, window := vendorWindow x rnd,
               seq := { LveSeq.fresh with text := text, prog := some x.sqe.prog, maskBytes := need,
                                          repeatMax := if x.sqe.cls = 2 ∨ x.sqe.cls = 9 then 1000 else if x.sqe.cls = 1 then 1024 else 1 } }
  { u with eng := eng, svc := { u.svc with wiping := false } }

/-- A new key's seed is drawn into a slot of its own (R251), which its job alone holds and which goes with it; it counts among the owner's slots (DEDUCED, log 130). -/
def State.seedSlot (s : State) (d j : Nat) (x : Job) : State :=
  let n := x.sqe.seedLen
  if n = 0 then s
  else (s.freed d ((s.roomFor d x.owner (extentsOf n)).getD (s.die d).kvd)).heldCopy d j
    ⟨x.owner, 4, 0, bareHdr (s.newAlg x) 0, s.rand n, [], [], 0, true⟩

/-- There is room for the seed of a new key, or no seed is drawn; with none the job waits for dispatch (R158, R251). -/
def State.seedRoom (s : State) (d : Nat) (x : Job) : Bool := decide (x.sqe.seedLen = 0) || (s.roomFor d x.owner (extentsOf x.sqe.seedLen)).isSome

/-- A job is running on an engine. -/
def State.running (s : State) (d j : Nat) (e : EngineId) : State := s.modJob d j (fun y => { y with stage := .running, engine := e })

/-- The lane of a BNE that takes a job: free and wiped, or on the two smaller parts last used by the same owner (R300). The answer is the lane and
whether it must be wiped first. -/
def BneUnit.pick (u : BneUnit) (part : Part) (x : Job) : Option (Bool × Bool) :=
  let free (l : BneLane) : Bool := l.job.isNone && !l.wiping
  let same (l : BneLane) : Bool := !l.held || (decide (part = .vq8100 ∨ part = .vq8200) &&
    (if x.src.mgr then l.lastMgr else !l.lastMgr && decide (l.lastInst = x.src.inst)))
  if free u.lane0 ∧ same u.lane0 then some (false, false)
  else if free u.lane1 ∧ same u.lane1 then some (true, false)
  else if free u.lane0 then some (false, true)
  else if free u.lane1 then some (true, true)
  else none

/-- A ready job starts on an engine that may take it: the entry is consumed, unless an earlier dispatch of a stateful SIGN consumed it, and its unit is
charged. -/
def State.startOn (s : State) (d q j cls : Nat) (x : Job) (e : EngineId) (go : Die → Die) : State :=
  let s := if x.data.begun then s else s.consume d q j x.sqe
  let s := if x.sqe.draws then ((s.countDraw d).seedSlot d j x).drawn else s
  ((s.modDie d go).running d j e).chargeUnit d cls x

/-- Dispatch a ready head to an engine, with the checks of dispatch before it (R166, R168, R320, R424). -/
def State.dispatch (s : State) (d q j cls : Nat) (x : Job) (e : EngineId) (go : Die → Die) : State :=
  match s.secCheck d x with
  | some f => (s.failPrep d j f.1 f.2).pump d q
  | none =>
    match s.rngFor d x e with
    | .fails => (s.failPrep d j stRngFail 0).pump d q
    | .waits => s
    | .serves =>
      let r := s.dispatchKeys d x
      match r.2 with
      | some f => (r.1.failPrep d j f.1 f.2).pump d q
      | none =>
        if x.sqe.op = 0x3002 then
          (match r.1.jobKey d x 0, stf? x.sqe.ps with
          | some k, some t =>
            let a := r.1.assignLeaf d j x k
            (match a.2 with
            | some f => (a.1.failPrep d j f.1 f.2).pump d q
            | none =>
              let leaf := (((a.1.job? d j).bind (fun y => y.data.leaf))).getD 0
              if t.blockOf leaf = a.1.entryBlock d x then a.1.startOn d q j cls x e go
              else
                let b := a.1.modDie d (fun y => { y with kpc := match x.data.kpcEntry with
                  | some i => Assoc.update y.kpc i (fun z => { z with use := .working }) | none => y.kpc })
                b.stage d j .fill)
          | _, _ => r.1)
        else r.1.startOn d q j cls x e go

/-- A queue's place in the round robin of its contender: its distance behind the queue granted last (R127). -/
def Dwrr.queueTurn (r : Dwrr) (c : Contender) (q : Nat) : Nat :=
  match Assoc.get? r.lastQueue c.key with
  | some l => (q + 4096 - (l + 1)) % 4096
  | none => q

/-- The head that an engine of a class takes: of the contender whose turn it is, the highest PRIO first, and among equals round robin by queue (R127). -/
def State.turn (s : State) (d cls : Nat) (heads : List (Nat × Nat × Job)) : Option (Nat × Nat × Job) :=
  let r := (s.die d).dwrr cls
  match r.next (heads.map (fun (p : Nat × Nat × Job) => p.2.2.contender)).dedup with
  | none => none
  | some c => (heads.filter (fun (p : Nat × Nat × Job) => decide (p.2.2.contender = c))).foldl
      (fun (a : Option (Nat × Nat × Job)) p => match a with
        | none => some p
        | some b =>
          if b.2.2.sqe.prio < p.2.2.sqe.prio then some p
          else if b.2.2.sqe.prio = p.2.2.sqe.prio ∧ r.queueTurn c p.2.2.src.queue < r.queueTurn c b.2.2.src.queue then some p else a) none

/-- Heads whose class has every engine fenced end before dispatch (R135, R247), composites for want of a BNE too (R303). -/
def State.dropFenced (s : State) (d cls : Nat) : State :=
  ((s.readyHeads d cls).filter (fun (p : Nat × Nat × Job) => s.classFenced d cls || (decide (p.2.2.sqe.cls = 9) && s.classFenced d 1))).foldl
    (fun t p => (t.failPrep d p.2.1 stUnavailable 0).pump d p.1) s

/-- The BNE and lane that the classical half of a composite takes beside its LVE (R72, R251), and whether that lane must be wiped first; a lane that needs no wipe comes first. -/
def State.halfPick (s : State) (d : Nat) (x : Job) : Option (Nat × Bool × Bool) :=
  let picks := (List.range 4).filterMap (fun i =>
    if s.bneFree d i then (((s.die d).bnes[i]?).bind (fun u => u.pick s.part x)).map (fun p => (i, p)) else none)
  match picks.find? (fun p => !p.2.2) with
  | some p => some p
  | none => picks.head?

/-- A composite's turn may come: a BNE can take its classical half. -/
def State.halfReady (s : State) (d : Nat) (x : Job) : Bool := decide (x.sqe.cls ≠ 9) || (s.halfPick d x).isSome

/-- A lane of a BNE with a job in it, staged or running (R300). -/
def BneLane.taken (j : Nat) (x : Job) (staged : Bool) : BneLane := ⟨some j, staged, x.src.inst, x.src.mgr, true, false⟩

/-- A BNE begins a job in a lane. -/
def Die.startBne (y : Die) (i : Nat) (one : Bool) (j : Nat) (x : Job) : Die :=
  { y.setReg BNE i 0x114 (satInc (y.reg BNE i 0x114)) with bnes := y.bnes.modify i (fun u => { u.setLane one (BneLane.taken j x false) with
      running := some one, betweenLegs := false, legs := 0 }) }

/-- A job is staged in a lane of a BNE that runs another (R280, R282): it stays its queue's head until its program starts. -/
def Die.stageBne (y : Die) (i : Nat) (one : Bool) (j : Nat) (x : Job) : Die :=
  { y with bnes := y.bnes.modify i (fun u => u.setLane one (BneLane.taken j x true)) }

/-- The wipe of a lane begins. -/
def State.wipeLane (s : State) (d i : Nat) (one : Bool) : State :=
  s.modDie d (fun y => { y with bnes := y.bnes.modify i (fun u => u.setLane one { u.lane one with wiping := true }) })

/-- Another BNE of the die can start a job in a lane that needs no wipe: R300 prefers it. -/
def State.laneElsewhere (s : State) (d i : Nat) (x : Job) : Bool :=
  (List.range 4).any (fun k => decide (k ≠ i) && s.bneFree d k && (((s.die d).bnes[k]?).bind (fun u => u.pick s.part x)).any (fun p => !p.2))

/-- A BNE takes its next job: the one staged in it starts; else the head whose turn it is starts, or, while a program runs, is staged in the other lane, wiped first
where R300 asks it. A BNE that may be given no job keeps none staged. -/
def State.bneTake (s : State) (d i : Nat) : State :=
  match (s.die d).bnes[i]? with
  | none => s
  | some u =>
    if !s.bneServes d i then (match u.stagedJob with
      | some (_, j) => if u.svc.frozen then s else s.modDie d (fun y => { y with bnes := y.bnes.modify i (fun v => v.without j) })
      | none => s)
    else match u.stagedJob with
    | some (one, j) =>
      if u.running.isSome then s
      else (match (s.readyHeads d 1).find? (fun (p : Nat × Nat × Job) => decide (p.2.1 = j)) with
        | some (q, _, x) => (s.dispatch d q j 1 x (.bne i) (fun y => y.startBne i one j x)).pump d q
        | none => s)
    | none =>
      let others := (s.die d).bnes.filterMap (fun v => v.stagedJob.map Prod.snd)
      (match s.turn d 1 ((s.readyHeads d 1).filter (fun (p : Nat × Nat × Job) => p.2.2.digestDone && !others.contains p.2.1)) with
      | none => s
      | some (q, j, x) =>
        (match u.pick s.part x with
        | none => s
        | some (one, true) => if s.laneElsewhere d i x then s else s.wipeLane d i one
        | some (one, false) =>
          if u.running.isSome then s.modDie d (fun y => y.stageBne i one j x)
          else (s.dispatch d q j 1 x (.bne i) (fun y => y.startBne i one j x)).pump d q))

/-! ### SYE jobs that end (R309, R314) -/

/-- A job ends on its SYE: its context and the hold buffer are freed, the page counts (R324). -/
def State.syeEnd (s : State) (d e k : Nat) : State :=
  match (s.die d).syes[e]? with
  | none => s
  | some u =>
    match Assoc.get? u.ctxs k with
    | none => s
    | some c =>
      let x := s.job? d c.job
      let ps := ((x.bind Job.result).map JobResult.etime).getD 0
      let st := (x.map Job.endStatus).getD stOk
      let u' : SyeUnit := { u with
        ctxs := Assoc.erase u.ctxs k
        hold := if u.hold = some c.job then none else u.hold
        svc := { u.svc with busyFrac := (u.svc.busyFrac + ps / 625) % 1024 } }
      let s := ((s.modDie d (fun y => { y with syes := y.syes.set e u' })).count d SYE e 0x100).count d SYE e 0x104 ((u.svc.busyFrac + ps / 625) / 1024)
      let s := if st = stVerifyFail ∨ st = stTagMismatch then s.count d SYE e 0x11C else s
      let s := if st = stMachineCheck then s.event d SYE e 0 else s
      s.jobDone d c.job

/-- A job ends at this boundary whatever it has left to do: stopped, failed or under LOCK. Of a failed read of streamed input R41 says that the job runs to its end and
R314 that its remaining segments are skipped: they are skipped, and ETIME is that of the whole job. DESIGN CHOICE (log 137). -/
def State.syeStops (s : State) (x : Job) : Bool := x.suppress || x.failed.isSome || s.pkg.lock

/-- A context of an SYE that waits goes no further: its job ends at this boundary, or the masking bytes of its next segment never come (R322). -/
def State.ctxStops (s : State) (d e : Nat) (c : SyeCtx) (x : Job) : Bool := s.syeStops x || (!c.digest && s.maskLost d (s.maskNeed d x false) (.sye e))

/-- Its job, with RNG_FAIL where that is why. -/
def State.ctxFailed (s : State) (d e : Nat) (x : Job) : Job := if s.maskLost d (s.maskNeed d x false) (.sye e) then x.fail stRngFail 0 else x

/-- The result of a stopped SYE job: what its row computed, else the full time that its public values fix (R307). -/
def Job.stopped (x : Job) : Job := { x with result := some (x.result.getD ⟨stOk, 0, x.span, []⟩) }

/-- A digest for a BNE job leaves its SYE after `ps`; with `done` the job has what it needs. -/
def State.digestOver (s : State) (d e k j : Nat) (done : Bool) (ps : Nat) : State :=
  let go (u : SyeUnit) : SyeUnit := { u with ctxs := Assoc.erase u.ctxs k, svc := { u.svc with busyFrac := (u.svc.busyFrac + ps / 625) % 1024 } }
  let busy := (((s.die d).syes[e]?).map (fun u => (u.svc.busyFrac + ps / 625) / 1024)).getD 0
  let t := (s.modDie d (fun y => { y with syes := y.syes.modify e go })).count d SYE e 0x104 busy
  if done then t.modJob d j (fun x => { x with data := { x.data with digested := true } }) else t

/-- The contexts that wait on an SYE and whose jobs have nothing more to run end (R41, R314, R424). -/
def State.syeSweep (s : State) (d e : Nat) : State :=
  match (s.die d).syes[e]? with
  | none => s
  | some u => u.ctxs.foldl (fun (t : State) (p : Nat × SyeCtx) =>
      if u.running = some p.1 ∨ !((t.job? d p.2.job).map (t.ctxStops d e p.2)).getD true then t
      else if p.2.digest then t.digestOver d e p.1 p.2.job false 0
      else (t.modJob d p.2.job (fun x => (t.ctxFailed d e x).stopped)).syeEnd d e p.1) s

/-- A context slot of an SYE that holds nothing. -/
def SyeUnit.freeCtx (u : SyeUnit) : Nat := ((List.range 256).find? (fun i => (Assoc.get? u.ctxs i).isNone)).getD 0

/-- The segment that an SYE starts next: a waiting context, or the first of a new job or of a digest for a BNE job. -/
def State.syeSelect (s : State) (d e : Nat) : State :=
  let s := ((s.syeSweep d e).pumpDie d).syncDwrr d 2
  let segs := (s.waitingCtxs d e).filter (fun (p : Nat × Nat × Job) => s.syeFree d e (s.maskNeed d p.2.2 false) false)
  let held := (((s.die d).syes[e]?).bind SyeUnit.hold).isSome
  let heads := (s.readyHeads d 2).filter (fun (p : Nat × Nat × Job) =>
    (s.syeFree d e (s.maskNeed d p.2.2 true) true && !(held && p.2.2.sqe.holds)
      && (p.2.2.src.mgr || decide ((s.die d).ctxsOf p.2.2.src.inst < (s.inst p.2.2.src.inst).cfg.ctxQ)))
    || (s.syeFree d e 0 true && decide (s.rngFor d p.2.2 (.sye e) = .fails)))
  let digests := (s.digestHeads d).filter (fun _ => s.syeFree d e 0 true)
  match s.turn d 2 (segs ++ heads ++ digests) with
  | none => s
  | some p =>
    let x := p.2.2
    if digests.any (fun (g : Nat × Nat × Job) => decide (g.2.1 = p.2.1)) then
      (s.modDie d (fun y => { y with syes := y.syes.modify e (fun u => { u with
        ctxs := Assoc.set u.ctxs u.freeCtx ⟨p.2.1, 0, x.digestSegments, true⟩, running := some u.freeCtx }) })).chargeUnit d 2 x
    else if segs.any (fun (g : Nat × Nat × Job) => decide (g.2.1 = p.2.1)) then
      let go (y : Die) : Die := { y with syes := y.syes.modify e (fun u => { u with
        running := some p.1, svc := { u.svc with maskBuf := u.svc.maskBuf - s.maskNeed d x false } }) }
      (s.modDie d go).chargeUnit d 2 x ((((s.die d).syes[e]?).bind (fun u => Assoc.get? u.ctxs p.1)).map SyeCtx.done |>.getD 0)
    else
      let go (y : Die) : Die := { y with syes := y.syes.modify e (fun u =>
        let k := u.freeCtx
        { u with ctxs := Assoc.set u.ctxs k ⟨p.2.1, 0, x.sqe.segments, false⟩, running := some k,
                 hold := if x.sqe.holds then some p.2.1 else u.hold,
                 svc := { u.svc with maskBuf := u.svc.maskBuf - s.maskNeed d x true } }) }
      let span := x.sqe.symTime (((s.jobKey d x 0).map (fun k => k.payload.length)).getD 0)
      s.dispatch d p.1 p.2.1 2 { x with span := span } (.sye e) (fun y =>
        go { y with jobs := Assoc.update y.jobs p.2.1 (fun z => { z with span := span }) })

/-- Jobs of the classes without an engine class that are ready, oldest first: RANDOM and RESEED on the RNG, the others on the KVD and the firmware. -/
def State.servedHeads (s : State) (d : Nat) (rng : Bool) : List (Nat × Nat × Job) :=
  (s.die d).queues.filterMap (fun (p : Nat × Queue) =>
    match p.2.aux.prep with
    | none => none
    | some j =>
      match s.job? d j with
      | none => none
      | some x =>
        if p.2.ctx.state = .active ∧ x.stage = .ready ∧ x.failed = none ∧ x.sqe.engClass = none ∧ decide (x.sqe.cls = 7) = rng ∧ 1 ≤ p.2.ctx.space then
          some (p.1, j, x) else none)

/-- Dispatch the oldest of them. -/
def State.serveNext (s : State) (d : Nat) (e : EngineId) (rng : Bool) : State :=
  let hs := s.servedHeads d rng
  match hs.foldl (fun (a : Option (Nat × Nat × Job)) p => match a with | none => some p | some b => if p.2.1 < b.2.1 then some p else a) none with
  | none => s
  | some (q, j, x) =>
    match s.secCheck d x with
    | some f => (s.failPrep d j f.1 f.2).pump d q
    | none =>
      match (if x.sqe.draws then (s.die d).rng.asked false else .serves) with
      | .fails => (s.failPrep d j stRngFail 0).pump d q
      | .waits => s
      | .serves =>
        let k := s.dispatchKeys d x
        let r := if k.2.isSome then k else k.1.takeStaged d j x
        (match r.2 with
        | some f => (r.1.failPrep d j f.1 f.2).pump d q
        | none => ((if x.sqe.draws then (r.1.consume d q j x.sqe).countDraw d else r.1.consume d q j x.sqe).running d j e).pump d q)

/-- JOB_DISPATCH: an engine takes the head whose turn it is. -/
def opJobDispatch (d : Nat) (e : EngineId) (s : State) : State :=
  let s := s.pumpDie d
  match e with
  | .lve i =>
    let s := ((s.dropFenced d 0)).syncDwrr d 0
    let hs := (s.readyHeads d 0).filter (fun (p : Nat × Nat × Job) =>
      (s.lveFree d i (s.maskNeed d p.2.2 true) && s.seedRoom d p.2.2 && p.2.2.digestDone && s.halfReady d p.2.2)
      || (s.lveFree d i 0 && decide (s.rngFor d p.2.2 e = .fails)))
    (match s.turn d 0 hs with
    | none => s
    | some (q, j, x) =>
      let half := if x.sqe.cls = 9 then s.halfPick d x else none
      if half.any (fun p => p.2.2) then (match half with | some p => s.wipeLane d p.1 p.2.1 | none => s)
      else
      let prog := if x.sqe.op = 0x8001 then s.program d x else none
      let keyLen := if x.sqe.seedLen ≠ 0 then x.sqe.seedLen else ((s.jobKey d x 0).map (fun k => k.payload.length)).getD 0
      let kpc := ((x.data.kpcEntry.bind (fun k => Assoc.get? (s.die d).kpc k)).map KpcEntry.bytes).getD []
      let need := s.maskNeed d x true
      let r := x.sqe.scratch
      let rnd := if r.1 = 0 then [] else s.rand (if r.2 then 2 * r.1 else r.1)
      let text := Assoc.getD (s.die d).patch.vendor (Config.vendorProgram x.sqe.prog) []
      if x.sqe.op = 0x8001 ∧ prog.isNone then (s.failPrep d j stProgramInactive (BitVec.ofNat 32 x.sqe.ps)).pump d q
      else
        let go (y : Die) : Die := { y with lves := y.lves.modify i (startLve x prog keyLen kpc need j text rnd) }
        (match half with
        | some p => (s.dispatch d q j 0 x e (fun y => (go { y with jobs := Assoc.update y.jobs j (fun z => { z with span := x.sqe.hybBne }) }).startBne p.1 p.2.1 j x)).pump d q
        | none => (s.dispatch d q j 0 x e go).pump d q))
  | .bne i => ((s.dropFenced d 1).syncDwrr d 1).bneTake d i
  | .sye i => (s.dropFenced d 2).syeSelect d i
  | .rng => s.serveNext d e true
  | .kvd => s.serveNext d e false
  | .none => s

/-- JOB_DISPATCH. -/
def execJobDispatch (d : Nat) (e : EngineId) (s : State) : Host.Outcome State Fault Refusal := ret (opJobDispatch d e s)

end Sys2Proof.Machine
end

