-- ==== Sys2Proof/Machine/Queues.lean ====
section
/-! DEFINITION. The commands of queues and of the reads that they wait for: doorbells (R119 to R121), SQ_INVAL with RESUME and SKIP (R132, R133,
R143), QC_CMD (R141, R147), the entry, table, blob and fill reads (R131, R155, R174), read completions (R41, R47), DMX descriptors (R331 to
R334) and interrupt moderation (R144). -/

namespace Sys2Proof.Machine

/-! ### Doorbells -/

/-- The queue of a doorbell that takes effect: a portal write needs a live instance that is not resetting (R62, R357). -/
def State.doorbell (s : State) (x : QueueRef) : Option (Nat × Nat) :=
  match x with
  | .tenant n _ => if portalOpen n s then s.locate x else none
  | .manager _ _ => s.locate x

/-- A tail value in range (R119): it neither passes the ring's size nor retracts. -/
def QCtx.tailOk (c : QCtx) (t : Nat) : Bool :=
  let k := c.rings.ks
  decide (ringCount k t c.rings.sqHead ≤ ringSize k) && decide (ringCount k c.rings.sqTail c.rings.sqHead ≤ ringCount k t c.rings.sqHead)

/-- A range failure (R119). -/
def State.tailRange (s : State) (d q : Nat) : State :=
  let c := (s.queue d q).ctx
  match c.state with
  | .active => s.queueError d q 8 c.rings.sqHead
  | .frozen => if c.errCode ≠ 0 then s else
      (((s.modCtx d q (fun c => { c with errCode := 8, errIndex := c.rings.sqHead })).modAux d q (fun a => { a with returnError := true }))).queueEvent d q
  | .rehoming => if c.errCode ≠ 0 then s else
      (((s.modCtx d q (fun c => { c with errCode := 8, errIndex := c.rings.sqHead })).modAux d q (fun a => { a with returnError := true }))).queueEvent d q
  | .error => s
  | .disabled => s

/-- A write of SQ_TAIL (R119), by a Requester ID (R450). -/
def opSqTailDoorbell (x : QueueRef) (index : Nat) (rid : W16) (s : State) : State :=
  match s.doorbell x with
  | none => s
  | some (d, q) =>
    let c := (s.queue d q).ctx
    let t := index % 2 ^ (c.rings.ks + 1)
    if c.state = .disabled then s
    else if c.tailOk t then
      (((s.modCtx d q (fun c => { c with rings := { c.rings with sqTail := t } })).modAux d q (fun a => { a with rid := rid }))).pump d q
    else s.tailRange d q

/-- A head value that neither passes CQ_TAIL nor moves backward (R120). -/
def QCtx.headOk (c : QCtx) (h : Nat) : Bool :=
  let k := c.rings.kc
  decide (ringCount k c.rings.cqTail h ≤ ringCount k c.rings.cqTail c.rings.cqHead)

/-- A write of CQ_HEAD (R120, R138). -/
def opCqHeadDoorbell (x : QueueRef) (index : Nat) (s : State) : State :=
  match s.doorbell x with
  | none => s
  | some (d, q) =>
    let c := (s.queue d q).ctx
    let h := index % 2 ^ (c.rings.kc + 1)
    if c.state = .disabled then s
    else if c.headOk h then
      (((s.modCtx d q (fun c => { c with headErr := false, rings := { c.rings with cqHead := h } })).release d q)).pump d q
    else s.modCtx d q (fun c => { c with headErr := true })

/-! ### Invalidation, resume and skip -/

/-- The head entry is no longer prepared: its job leaves with what it held. -/
def State.cancelPrep (s : State) (d q : Nat) : State :=
  match (s.queue d q).aux.prep with
  | none => s
  | some j => (s.modDie d (·.dropJob j)).modAux d q (fun a => { a with prep := none })

/-- A slot in FIRST..LAST, which wraps (R132). -/
def inRange (k first last slot : Nat) : Bool :=
  let a := ringSlot k first
  let b := ringSlot k last
  if a ≤ b then decide (a ≤ slot ∧ slot ≤ b) else decide (a ≤ slot ∨ slot ≤ b)

/-- The slots that satisfy a condition are discarded: copies go, reads outstanding are marked stale. DONE is set at once where none of those reads is
outstanding, and otherwise when the last of them returns (R132, R133, R145 t_inval). -/
def QCtx.discard (c : QCtx) (hit : Nat → Bool) : QCtx :=
  let out := (c.win.filter (fun (p : Nat × Prefetch) => hit p.1 && (match p.2 with | .copy _ => false | .reading _ => true))).map Prod.fst
  { c with win := dropWindow c.win (fun i => !hit i), invWait := out, invDone := out.isEmpty }

/-- A read whose slot was discarded has returned: it is dropped, and DONE is set with the last one that an SQ_INVAL waits for. -/
def QCtx.readDropped (c : QCtx) (i : Nat) : QCtx :=
  let w := c.invWait.erase i
  { c with win := Assoc.erase c.win i, invWait := w, invDone := c.invDone || (c.invWait.contains i && w.isEmpty) }

/-- Copies discarded and reads marked stale for the unconsumed entries of a range (R131, R132). -/
def State.invalRange (s : State) (d q first last : Nat) : State :=
  let c := (s.queue d q).ctx
  let k := c.rings.ks
  let hit (i : Nat) : Bool := c.window.contains i && inRange k first last (ringSlot k i)
  let n := (c.win.filter (fun (p : Nat × Prefetch) => hit p.1 && (match p.2 with | .copy _ => true | .reading _ => false))).length
  let s := if hit c.rings.sqHead then s.cancelPrep d q else s
  (s.modCtx d q (fun c => { c.discard hit with discarded := n })).pump d q

/-- RESUME (R143), in ERROR only: every copy goes, and the queue fetches from Q_ERR_INDEX. -/
def State.resumeQueue (s : State) (d q : Nat) : State :=
  if (s.queue d q).ctx.state ≠ .error then s
  else
    let s := s.cancelPrep d q
    (s.modCtx d q (fun c => { c.discard (fun _ => true) with state := .active, errCode := 0 })).pump d q

/-- SKIP (R143): the latched entry is consumed without a completion and ends its chain (R125); with no entry at fault it acts as RESUME. -/
def State.skipQueue (s : State) (d q : Nat) : State :=
  let c := (s.queue d q).ctx
  if c.state ≠ .error then s
  else if c.errCode = 7 ∨ c.errCode = 8 then s.resumeQueue d q
  else
    let s := s.cancelPrep d q
    let s := s.modCtx d q (fun c => { c with rings := { c.rings with sqHead := ringNext c.rings.ks c.rings.sqHead } })
    (s.modAux d q (fun a => { a with chainOpen := false, chainJob := none, chainAborted := false })).resumeQueue d q

/-- SQ_INVAL, or QC_INVAL of a manager queue (R133): ignored while an earlier request has not taken effect (R132). -/
def opSqInval (x : QueueRef) (value : W32) (s : State) : State :=
  match s.doorbell x with
  | none => s
  | some (d, q) =>
    if (s.queue d q).ctx.invWait ≠ [] then s
    else match bits value 30 2 with
    | 0 => s.invalRange d q (bits value 0 15) (bits value 15 15)
    | 1 => s.resumeQueue d q
    | 2 => s.skipQueue d q
    | _ => s

/-- A tenant's RESUME and SKIP are writes to SQ_INVAL, ignored while an earlier request has not taken effect (R132); the manager's go through QC_CMD. -/
def State.invalTaken (s : State) (x : QueueRef) (d q : Nat) : Bool :=
  match x with
  | .tenant _ _ => (s.queue d q).ctx.invWait.isEmpty
  | .manager _ _ => true

/-- RESUME, through a portal's SQ_INVAL or the manager's QC_CMD. -/
def opResume (x : QueueRef) (s : State) : State :=
  match s.doorbell x with
  | none => s
  | some (d, q) => if s.invalTaken x d q then s.resumeQueue d q else s

/-- SKIP, through a portal's SQ_INVAL or the manager's QC_CMD. -/
def opSkip (x : QueueRef) (s : State) : State :=
  match s.doorbell x with
  | none => s
  | some (d, q) => if s.invalTaken x d q then s.skipQueue d q else s

/-! ### Queue commands (R141, R147) -/

/-- A context that ENABLE accepts: both orders within 4 to 15, and the instance of a bound queue exists. -/
def State.enableOk (s : State) (d q : Nat) : Bool :=
  let c := (s.queue d q).ctx
  decide (c.state = .disabled) && decide (4 ≤ c.rings.ks) && decide (4 ≤ c.rings.kc) && (!c.rings.bound || (s.inst c.rings.inst).code.live)

/-- QC_CMD ENABLE: indices, SEQ, EPOCH and latches zero, ACTIVE. -/
def opEnable (d q : Nat) (s : State) : State :=
  if q < 4096 ∧ (s.die d).reachable ∧ s.enableOk d q then
    let x := (s.queue d q).afterReset
    s.setQueue d q { ctx := { x.ctx with state := .active }, aux := { x.aux with irqNow := x.ctx.rings.irq } }
  else s

/-- QC_CMD DISABLE, on manager queues alone. -/
def opDisable (d q : Nat) (s : State) : State :=
  let c := (s.queue d q).ctx
  if c.rings.mgr ∧ c.state ≠ .disabled then s.modAux d q (fun a => { a with disableReq := true }) else s

/-- A requested DISABLE takes effect with no job in flight and none held (R141). -/
def disableReady (d q : Nat) (s : State) : Bool :=
  let x := s.queue d q
  x.aux.disableReq && decide (x.ctx.state ≠ .disabled) && decide (x.ctx.inflight = 0) && x.ctx.held.isEmpty

/-- DISABLE takes effect. -/
def opDisableEffective (d q : Nat) (s : State) : State :=
  if disableReady d q s then
    let s := s.cancelPrep d q
    (s.modCtx d q (fun c => { c with state := .disabled, stalled := false, win := dropWindow c.win (fun _ => false) })).modAux d q
      (fun a => { a with disableReq := false, chainOpen := false, chainJob := none, chainAborted := false, irqCount := 0, irqTimer := false })
  else s

/-- DISABLE_EFFECTIVE. -/
def execDisableEffective (d q : Nat) (s : State) : Host.Outcome State Fault Refusal := ret (opDisableEffective d q s)

/-! ### Entries, table entries and blobs -/

/-- An entry's data returns: kept, or dropped where its slot was discarded, and then read again (R131). -/
def opEntryFetched (d q i : Nat) (bytes : List Byte) (s : State) : State :=
  match Assoc.get? (s.queue d q).ctx.win i with
  | some (.reading false) => (s.modCtx d q (fun c => { c with win := Assoc.set c.win i (.copy (fit 64 bytes)) })).pump d q
  | some (.reading true) => (s.modCtx d q (fun c => c.readDropped i)).pump d q
  | _ => s

/-- ENTRY_FETCHED. -/
def execEntryFetched (d q i : Nat) (bytes : List Byte) (s : State) : Host.Outcome State Fault Refusal := ret (opEntryFetched d q i bytes s)

/-- Take a job on after a read of its own: a job dispatched resolves what it still wants and then runs on; a head is prepared further. -/
def State.advanceAny (s : State) (d j : Nat) : State :=
  match s.job? d j with
  | none => s
  | some x =>
    if x.data.begun then
      let t := resolveWants 64 d j s
      match t.job? d j with
      | none => t
      | some y => if y.data.wants = [] ∧ !y.reading then t.stage d j .running else t
    else s.advance d j

/-- Take the queues of a die on after an event of one of its jobs. -/
def State.goOn (s : State) (d j : Nat) : State := (s.advanceAny d j).pumpDie d

/-- A blob table entry's data returns (R155). -/
def opBlobTableEntryFetched (j : JobRef) (bytes : List Byte) (s : State) : State := (s.gotEntry j.die j.job bytes).goOn j.die j.job

/-- BLOB_TABLE_ENTRY_FETCHED. -/
def execBlobTableEntryFetched (j : JobRef) (bytes : List Byte) (s : State) : Host.Outcome State Fault Refusal := ret (opBlobTableEntryFetched j bytes s)

/-- A blob's data returns (R157). -/
def opBlobFetched (j : JobRef) (bytes : List Byte) (s : State) : State := (s.gotBlob j.die j.job bytes).goOn j.die j.job

/-- BLOB_FETCHED. -/
def execBlobFetched (j : JobRef) (bytes : List Byte) (s : State) : Host.Outcome State Fault Refusal := ret (opBlobFetched j bytes s)

/-! ### KPC fills (R174, R270) -/

/-- The block of leaves that a fill for a job brings: of the leaf assigned, or of the counter's NEXT. -/
def State.fillBlock (s : State) (d : Nat) (x : Job) : Nat :=
  match s.jobKey d x 0, stf? x.sqe.ps with
  | some k, some t =>
    if x.sqe.cls ≠ 3 then 0
    else t.blockOf (x.data.leaf.getD (((Assoc.get? s.bbram.counters k.hdr.counter.toNat).map CounterRec.next).getD 0))
  | _, _ => 0

/-- The digest of the public key that a Classic McEliece blob carries after its private key (R156). -/
def Slot.mcDigest (k : Slot) : List Byte := k.payload.drop (k.payload.length - 32)

/-- A fill ends, if an LVE runs it or it needs none: the entry holds the expansion and its job goes on; a Classic McEliece key that its blob's digest does not match ends with KEY_AUTH; the
provisional copy of an EXT key is released. A stateful SIGN whose block has been filled anew goes back to its engine. -/
def State.fillDone (s : State) (d j : Nat) (bytes : List Byte) : State :=
  match s.job? d j with
  | none => s
  | some x =>
    match x.data.kpcEntry with
    | none => s
    | some i =>
      if x.stage ≠ .fill ∨ x.failed.isSome ∨ (x.data.reads.contains 3 ∧ !s.kvdSent d (.job j 3)) then s
      else
      let s := if x.data.reads.contains 3 then s.kvdDone d else s
      if s.needsPubEntry d x ∧ ((s.jobKey d x 0).map Slot.mcDigest) ≠ some (sha3256 bytes) then
        (s.modDie d (fun y => { y with kpc := Assoc.erase y.kpc i })).failPrep d j stKeyAuth
      else if s.fillsOnLve d x ∧ !(s.die d).lves.any (fun u => decide (u.fill = some j)) then s
      else
        let blk := s.fillBlock d x
        let full (k : Assoc KpcEntry) : Assoc KpcEntry := Assoc.update k i (fun e => { e with use := .entry, bytes := bytes, block := blk })
        let s := s.modDie d (fun y => { y with
          lves := y.lves.map (fun u => if u.fill = some j then { u with fill := none } else u)
          kpc := (full y.kpc).filter (fun (p : Nat × KpcEntry) => !decide (x.data.prov = some p.1)) })
        let s := s.modJob d j (fun y => { y with data := { y.data with prov := none, reads := y.data.reads.filter (fun r => decide (r ≠ 3)) } })
        if x.data.leaf.isSome then s.stage d j .ready else s.startInput d j

/-- What an LVE computes for the fill of a job (R173, R261, R266, R268, R270, R278): from the key in its slot, or from the public key in AUX; `bytes` where the fill is
a copy. -/
def State.fillBytes (s : State) (d : Nat) (x : Job) (bytes : List Byte) : List Byte :=
  if !s.fillsOnLve d x then bytes
  else if x.sqe.ext then entryOfPub x.sqe.cls x.sqe.ps (x.data.auxData.take (x.sqe.pubLen 0))
  else match s.jobKey d x 0 with
    | none => bytes
    | some k =>
      let c := bits k.hdr.algId 12 4
      let p := bits k.hdr.algId 0 8
      if c = 1 then entryOfPub 1 p (kemPub p k.payload)
      else if c = 2 then (if p ≤ 3 then entryOfPub 2 p (sigPub p k.payload) else slhEntry p k.payload)
      else match stf? p with
        | some t => stfEntry p (s.stfLevels t k) k.payload (x.data.leaf.getD (((Assoc.get? s.bbram.counters k.hdr.counter.toNat).map CounterRec.next).getD 0))
        | none => bytes

/-- A fill completes: from AUX, from PUB_ADDR (its data here), or by recomputation. -/
def opKpcFillComplete (j : JobRef) (bytes : List Byte) (s : State) : State :=
  (s.fillDone j.die j.job (((s.job? j.die j.job).map (fun x => s.fillBytes j.die x bytes)).getD bytes)).pumpDie j.die

/-- KPC_FILL_COMPLETE. -/
def execKpcFillComplete (j : JobRef) (bytes : List Byte) (s : State) : Host.Outcome State Fault Refusal := ret (opKpcFillComplete j bytes s)

/-! ### Read completions (R41, R45) -/

/-- Take the channels of a job from it. -/
def State.freeChans (s : State) (d j : Nat) : State := (s.modDie d (fun y => y.dropXfers j)).goChans d

/-- The read of a job's part is outstanding; the parts before IN are reads of channel 12, in their turn. -/
def State.awaits (s : State) (d j part : Nat) : Bool :=
  ((s.job? d j).map (fun x => x.data.reads.contains part)).getD false && (decide (partIn ≤ part) || s.kvdSent d (.job j part))

/-- One read of a part returns. -/
def Job.gotRead (x : Job) (part : Nat) : Job := { x with data := { x.data with reads := x.data.reads.erase part } }

/-- The channel that moves a part of a job. -/
def Die.chanOf (d : Die) (j part : Nat) : Nat :=
  ((List.range 16).find? (fun i => decide ((d.chan i).job = some j) && decide ((d.chan i).part = (if part = partStream then partIn else part)))).getD 16

/-- Data of a job's IN or AUX arrives: its channel goes on with the descriptor, and an SYE job may be ready with it (R334). -/
def State.dataCame (s : State) (d j part : Nat) (data : List Byte) : State :=
  let ch := (s.die d).chanOf j part
  let c := (s.die d).chan ch
  let s := s.modJob d j (fun y =>
    let z := y.gotRead part
    if part = partAux then { z with data := { z.data with auxData := z.data.auxData ++ fit c.asked data } }
    else { z with data := { z.data with inData := z.data.inData ++ fit c.asked data } })
  let s := s.setChan d ch { c with got := c.got + c.asked, asked := 0 }
  let s := if c.got + c.asked < c.descLen then s.goOnDesc d ch else s
  (s.checkStaged d j).pumpDie d

/-- Good data of a job's read. -/
def State.jobData (s : State) (d j part : Nat) (data : List Byte) : State :=
  if part = 0 then opBlobTableEntryFetched ⟨d, j⟩ data s
  else if part = 1 then opBlobFetched ⟨d, j⟩ data s
  else if !s.awaits d j part then s
  else if part = 2 then
    match s.job? d j with
    | none => s
    | some x =>
      let pub := fit (x.sqe.pubLen 0) data
      let s := (s.modJob d j (fun y => let z := y.gotRead 2; { z with data := { z.data with auxData := pub } })).kvdDone d
      (match s.job? d j with
      | some y => (s.kpcLookup d j y pub).pumpDie d
      | none => s)
  else if part = 3 then (s.fillDone d j (fit (((s.job? d j).bind (fun x => (s.jobKey d x 0).map s.pubLen)).getD 0) data)).pumpDie d
  else s.dataCame d j part data

/-- A job's read fails: before the program starts the job ends with DMA_HOST_FAULT; a running LVE program stops at its next checkpoint, and other programs run to
their end with their output discarded. -/
def State.jobReadFails (s : State) (d j part cause : Nat) : State :=
  if !s.awaits d j part then s
  else
    let det : W32 := BitVec.ofNat 32 cause
    let s := s.modJob d j (·.gotRead part)
    let s := (if part < partIn then s.kvdDone d else s).freeChans d j
    if part = partStream then
      let s := s.modJob d j (·.fail stHostFault det)
      let s := s.modDie d (fun y => { y with lves := y.lves.map (fun u => if u.eng.job = some j then { u with eng := { u.eng with abortReq := true } } else u) })
      (((s.abortWaiting d).syeSweep d 0).syeSweep d 1).pumpDie d
    else (s.failPrep d j stHostFault det).pumpDie d

/-- A device read ends without good data (R41). Of several entry reads that fail out of order the first to return is latched, since the latches do not change in
ERROR (DEDUCED, log 127). -/
def State.readFails (s : State) (d : Nat) (what : ReadOf) (cause : Nat) : State :=
  match what with
  | .entry q i =>
    (match Assoc.get? (s.queue d q).ctx.win i with
    | some (.reading stale) =>
      let s := (s.count 0 HIF 0 0x118).modCtx d q (fun c => if stale then c.readDropped i else { c with win := Assoc.erase c.win i })
      if stale then s.pump d q else if (s.queue d q).ctx.state = .active then s.queueError d q 7 i else s
    | _ => s)
  | .job j part => if s.awaits d j part then (s.count 0 HIF 0 0x118).jobReadFails d j part cause else s
  | .mailbox n => s.mbFailed n

/-- A device read ends with good data. -/
def State.readGood (s : State) (d : Nat) (what : ReadOf) (data : List Byte) : State :=
  match what with
  | .entry q i => opEntryFetched d q i data s
  | .job j part => s.jobData d j part data
  | .mailbox n => s.mbGood n data

/-- A stream of IDE: the link stream 0, or a selective stream up to 64. -/
def Hif.stream (h : Hif) (k : Nat) : IdeStream := Assoc.getD h.ide k ⟨0, 0, [], none⟩

/-- An uncorrectable error is reported (R36): bits 12 poisoned data, 14 completion timeout, 15 Completer Abort, 19 ECRC, 20 Unsupported Request, as PCIe 6.0
numbers them (PRESUMED, log 123). -/
def State.aerSet (s : State) (b : Nat) : State := { s with hif := { s.hif with aer := s.hif.aer ||| BitVec.ofNat 32 (2 ^ b) } }

/-- The report of a failed read in AER, by its cause (log 123): a timeout, poisoned data; the other causes are the completer's to report. -/
def State.aerCause (s : State) (cause : Nat) : State :=
  if cause = 1 then s.aerSet 14 else if cause = 4 then s.aerSet 12 else if cause = 5 then s.aerSet 19 else s

/-- An IDE integrity failure of a stream: Insecure, counted, logged, its source counts (R49). -/
def State.ideFail (s : State) (k : Nat) : State :=
  let x := s.hif.stream k
  let s : State := { s with hif := { s.hif with ide := Assoc.set s.hif.ide k { x with state := 3, fails := satInc x.fails } } }
  (s.offer (Offer.of 3 0 0x8001 k)).faultAct 0 586

/-- A device read ends (R40, R41, R49). A completion without a digest is a wrong one where INTEG asks for digests; one of a stream that fails its integrity
check or is not Secure is discarded, so that its read ends by its timeout. -/
def opHostReadCompletion (d : Nat) (what : ReadOf) (r : ReadResult) (s : State) : State :=
  match r with
  | .failed cause => (s.aerCause cause).readFails d what cause
  | .good data => s.readGood d what data
  | .noDigest data => if bit (s.reg 0 HIF 0 0x104) 0 then (s.aerCause 5).readFails d what 5 else s.readGood d what data
  | .onStream k intact data =>
    if !intact then s.ideFail k else if (s.hif.stream k).state = 2 then s.readGood d what data else s

/-- HOST_READ_COMPLETION. -/
def execHostReadCompletion (d : Nat) (what : ReadOf) (r : ReadResult) (s : State) : Host.Outcome State Fault Refusal := ret (opHostReadCompletion d what r s)

/-- COMPLETION_TIMEOUT: a failed read with cause 0x1 (R41, R45). -/
def execCompletionTimeout (d : Nat) (what : ReadOf) (s : State) : Host.Outcome State Fault Refusal := ret (opHostReadCompletion d what (.failed 1) s)

/-- MB_BUFFER_COPIED: the read of a SEND's buffer ends (R39, R41, R356). -/
def opMbBufferCopied (n : Nat) (r : ReadResult) (s : State) : State := opHostReadCompletion 0 (.mailbox n) r s

/-- MB_BUFFER_COPIED. -/
def execMbBufferCopied (n : Nat) (r : ReadResult) (s : State) : Host.Outcome State Fault Refusal := ret (opMbBufferCopied n r s)

/-! ### DMX descriptors (R331 to R334) -/

/-- A transfer has completed. -/
def State.transferDone (s : State) (d ch j part : Nat) : State :=
  let s := (s.setChan d ch ((s.die d).chan ch).freed).grantChans d
  if part = partOut then
    (match s.job? d j with
    | some x =>
      let r : JobResult := x.result.getD ⟨stOk, 0, 0, []⟩
      if s.alg.draining = some (d, j) then
        let s := s.freeSlots (x.outLen / 64)
        (s.finish d j r.status (BitVec.ofNat 32 s.alg.occupancy) r.etime x.outLen).pumpDie d
      else (s.finish d j r.status r.detail r.etime x.outLen).pumpDie d
    | none => s)
  else (s.checkStaged d j).pumpDie d

/-- A descriptor of a job's channel completes once all of it has moved: the bytes acknowledged, and the next one or the transfer's end. -/
def State.descOk (s : State) (d ch : Nat) : State :=
  let c := (s.die d).chan ch
  match c.job with
  | none => s
  | some j =>
    if (s.job? d j).isNone ∨ c.state ≠ .active ∨ (c.part ≠ partOut ∧ c.got < c.descLen) then s
    else
      let c' : Channel := { c with pos := c.pos + c.descLen, remain := c.remain - c.descLen, got := 0, descs := satInc c.descs }
      let s := s.setChan d ch c'
      if c'.remain = 0 then s.transferDone d ch j c.part
      else ((s.nextDesc d ch).checkStaged d j).pumpDie d

/-- A transfer ends with INTEGRITY_FAIL (R331): FABRIC_CODE counts. -/
def State.descIntegrity (s : State) (d ch : Nat) : State :=
  let c := (s.die d).chan ch
  match c.job with
  | none => s
  | some j =>
    let s := (((s.faultAct d 578).event d DMX 0 2).modJob d j (fun y => { y with data := { y.data with reads := [] } })).freeChans d j
    match s.job? d j with
    | none => s
    | some x =>
      (match x.stage with
      | .outXfer => s.finish d j stIntegrity 0 ((x.result.map JobResult.etime).getD 0) 0
      | .running => s.modJob d j (·.fail stIntegrity 0)
      | _ => s.failPrep d j stIntegrity).pumpDie d

/-- DESCRIPTOR_COMPLETE (R331, R333): job channels move bounded sources, which never end short; SHORT and OVERRUN are results of the streamed sources of channels
13 to 15, whose own operations report them. -/
def opDescriptorComplete (d ch : Nat) (e : DescEnd) (s : State) : State :=
  match e with
  | .ok => if ch < 14 then s.descOk d ch else s
  | .integrity => if ch < 14 then s.descIntegrity d ch else s
  | .short _ => if 13 ≤ ch ∧ ch < 16 ∧ d < s.nDies then (s.count d DMX 0 0x188).event d DMX 0 0 else s
  | .overrun => if 13 ≤ ch ∧ ch < 16 ∧ d < s.nDies then (s.count d DMX 0 0x18C).event d DMX 0 1 else s

/-- DESCRIPTOR_COMPLETE. -/
def execDescriptorComplete (d ch : Nat) (e : DescEnd) (s : State) : Host.Outcome State Fault Refusal := ret (opDescriptorComplete d ch e s)

/-- PACE_RESUME: the ring has drained to LOW (R334); the descriptor goes on, also where a stop was requested meanwhile (R332). -/
def opPaceResume (d ch : Nat) (s : State) : State :=
  let c := (s.die d).chan ch
  match c.job with
  | none => s
  | some j => if c.state = .pacing ∧ s.syeFill d j ≤ (s.syeMarks d).2 then s.goOnDesc d ch else s

/-- PACE_RESUME. -/
def execPaceResume (d ch : Nat) (s : State) : Host.Outcome State Fault Refusal := ret (opPaceResume d ch s)

/-! ### Moderation (R144) -/

/-- The delay since the first counted completion has passed. -/
def opIrqDelayExpiry (d q : Nat) (s : State) : State := if (s.queue d q).aux.irqTimer then s.queueEvent d q else s

/-- IRQ_DELAY_EXPIRY. -/
def execIrqDelayExpiry (d q : Nat) (s : State) : Host.Outcome State Fault Refusal := ret (opIrqDelayExpiry d q s)

/-- IRQ_COUNT counted completions have been written since the last event. -/
def opIrqCountReached (d q : Nat) (s : State) : State :=
  let x := s.queue d q
  if x.aux.irqCount ≠ 0 ∧ x.aux.irqN ≤ x.aux.irqCount then s.queueEvent d q else s

/-- IRQ_COUNT_REACHED. -/
def execIrqCountReached (d q : Nat) (s : State) : Host.Outcome State Fault Refusal := ret (opIrqCountReached d q s)

end Sys2Proof.Machine
end

