-- ==== Sys2Proof/Machine/Relay.lean ====
section
/-! DEFINITION. Relay links and the Baton (R371 to R391): frames, heartbeats and silence, the election, the split baton's triggers, the loss of a die, DIE reset
and readmission. -/

namespace Sys2Proof.Machine

/-- ELECT_ID: the first four bytes of ELECT_NONCE (R379, R391). -/
def State.electId (s : State) : W32 := BitVec.ofNat 32 (fieldLe s.baton.nonce 0 4)

/-- Dies that run or boot. -/
def State.upDies (s : State) : List Nat := s.dieList.filter (fun d => (s.die d).reachable)

/-- Die d sends and receives frames: it is out of reset and not excluded. -/
def Die.onRelay (x : Die) : Bool := x.reachable || decide (x.state = .joining)

/-- The payload of a die's heartbeat (R379): its index and count, the holder it accepted, its life-cycle code, ELECT_ID, JOINING; from the holder, package
time. -/
def State.beat (s : State) (d : Nat) : List Nat :=
  let j := decide ((s.die d).state = .joining)
  [d, (s.die d).beats, if j then 0 else s.baton.holder.getD 0, lcCode (s.die d).fuses.lc, if j then 0 else s.electId.toNat, b2n j] ++
    (if s.baton.holder = some d then [s.bbd.rtc.toNat] else [])

/-- A die sends a HEARTBEAT on each port to its neighbour there, and one more, in both directions, to the holder (R379). -/
def State.sendBeat (s : State) (d : Nat) : State :=
  let body := s.beat d
  let f (dst : Nat) : RelayFrame := ⟨frBeat, .control, d, some dst, 0, body⟩
  let s := s.modDie d (fun x => { x with beats := x.beats + 1 })
  let s := (s.relay [0] (f (s.peer d 0).1)).relay [1] (f (s.peer d 1).1)
  match s.baton.holder with
  | some h => if h = d then s else s.relay [0, 1] (f h)
  | none => s

/-- HEARTBEAT_PERIOD: every die on Relay sends its heartbeats (R379). -/
def opHeartbeatPeriod (s : State) : State :=
  if s.nDies = 1 then s else (s.dieList.filter (fun d => (s.die d).onRelay)).foldl (fun t d => t.sendBeat d) s

/-- HEARTBEAT_PERIOD. -/
def execHeartbeatPeriod (s : State) : Host.Outcome State Fault Refusal := ret (opHeartbeatPeriod s)

/-- A heartbeat differs from what its receiver accepted (R383). -/
def beatDiffers (b : Beat) (s : State) : Bool :=
  if b.joining then !(Assoc.get? s.baton.joins b.src).isSome || decide (b.lc ≠ s.lc)
  else decide (some b.holder ≠ s.baton.holder) || decide (b.lc ≠ s.lc) || decide (b.electId ≠ s.electId)

/-- The frames of a die count: frames of a die in DIE reset, lost or excluded are discarded (R385). -/
def framesFrom (src : Nat) (s : State) : Bool := decide (src < s.nDies) && (s.die src).onRelay

/-- HEARTBEAT: received by a die after the election, and compared. -/
def opHeartbeat (d : Nat) (b : Beat) (s : State) : State :=
  if (s.die d).onRelay ∧ framesFrom b.src s ∧ s.baton.result = .clean ∧ beatDiffers b s then s.splitBaton d else s

/-- HEARTBEAT. -/
def execHeartbeat (d : Nat) (b : Beat) (s : State) : Host.Outcome State Fault Refusal := ret (opHeartbeat d b s)

/-! ### Loss of a die (R380, R386) -/

/-- An instance has a queue homed on a die. -/
def Inst.homedOn (i : Inst) (d : Nat) : Bool := i.cfg.homes.any (fun h => decide (h.1 = d))

/-- What the loss or the DIE reset of die `d` does to the package (R386): instances homed there are reset, the work of the die goes with it, its unsent entries are
replaced by DIE_LOST, and a transition stops after the current bit (R483). -/
def State.dieGone (s : State) (d : Nat) : State :=
  let s := (s.liveInsts.filter (fun n => (s.inst n).homedOn d)).foldl (fun t n => t.acceptReset n) s
  let s := s.modDie d (fun x => { x with jobs := [], logOut := [] })
  let s := { s with baton := { s.baton with reachable := Assoc.erase s.baton.reachable d } }
  match s.lcc.xfer with
  | some t => if t.phase = 2 then { s with lcc := { s.lcc with stop := some stMachineCheck } } else s
  | none => s

/-- The holder marks a die lost. -/
def State.loseDie (s : State) (d : Nat) : State :=
  let s := (s.modDie d (fun x => { x with state := .lost })).dieGone d
  (s.event 0 RLK 0 2).offer (Offer.of 0 0 0x0004 d)

/-- The guards of R380's rows. -/
def silenceCounts (x : Silence) (s : State) : Bool :=
  match x with
  | .port d p => (s.die d).onRelay && (match (s.die d).ports[p]? with | some q => decide (q.state = .up) | none => false)
  | .die d => decide (d ≠ s.baton.holder.getD 0) && decide (d < s.nDies) && (decide ((s.die d).state = .running) || decide ((s.die d).state = .inReset))
      && decide (s.baton.result = .clean)
  | .holder d => decide (some d ≠ s.baton.holder) && (s.die d).onRelay && decide (s.baton.result = .clean)

/-- HEARTBEAT_SILENCE (R380). -/
def opHeartbeatSilence (x : Silence) (s : State) : State :=
  if !silenceCounts x s then s
  else
    match x with
    | .port d p => (((s.raiseClass d 0x10).count d RLK p 0x10C 8).faultAct d (608 + 8 * p + 2)).portDown d p
    | .die d => s.loseDie d
    | .holder d => s.modDie d (fun y => { y with orphan := true, tmn := { y.tmn with gated := true } })

/-- HEARTBEAT_SILENCE. -/
def execHeartbeatSilence (x : Silence) (s : State) : Host.Outcome State Fault Refusal := ret (opHeartbeatSilence x s)

/-! ### Links (R376) -/

/-- Whether a port still trains. -/
def State.anyTraining (s : State) : Bool :=
  s.dies.any (fun x => decide (x.state = .booting) && x.ports.any (fun p => decide (p.state = .training)))

/-- The highest state whose codeword is contained in every word (R486). -/
def lcBase (ws : List W64) : Option Nat :=
  ((List.range 7).filter (fun c => ws.all (fun w => decide (w &&& lcWord c = lcWord c)))).getLast?

/-- Dies that burn in a catch-up and the word they reach (R486). -/
def catchUp (ws : List W64) : Option W64 :=
  match lcBase ws with
  | none => none
  | some b =>
    let c := lcWord (b + 1)
    if b < 6 ∧ ws.all (fun w => decide (w ||| c = c)) ∧ ws.any (fun w => decide (w = c)) ∧ ws.any (fun w => decide (w ≠ c)) then some c else none

/-- Little-endian bytes of a life-cycle word. -/
def lcBytes (w : W64) : List Byte := leBytes 8 w.toNat

/-- Every booting die catches up if R486 says so; each catch-up is offered for the log. -/
def State.catchUpAll (s : State) : State :=
  let ds := s.dieList.filter (fun d => decide ((s.die d).state = .booting))
  match catchUp (ds.map (fun d => (s.die d).fuses.lc)) with
  | none => s
  | some c =>
    ds.foldl (fun t d =>
      let w := (t.die d).fuses.lc
      if w = c then t
      else
        ((t.modDie d (fun x => { x with fuses := { x.fuses with lc := c } })).count d LCC 0 0x11C 0).offer
          { Offer.of 0 0 0x0006 d with digestOf := lcBytes w ++ lcBytes c }) s

/-- A die's own vote (R381): its index, verdict, code and a random share of 16 bytes. -/
def State.ownVote (s : State) (d : Nat) : Vote :=
  ⟨(s.die d).boot.pass, lcCode (s.die d).fuses.lc, Config.drbg s.freeCtr 16⟩

/-- Votes that a die holds. -/
def Baton.votesAt (b : Baton) (d : Nat) : Assoc Vote := Assoc.getD b.votes d []
/-- Accepts that a die holds. -/
def Baton.acceptsAt (b : Baton) (d : Nat) : Assoc AcceptMsg := Assoc.getD b.accepts d []

/-- Die `d` takes a vote into its set. -/
def State.takeVote (s : State) (d src : Nat) (v : Vote) : State :=
  { s with baton := { s.baton with votes := Assoc.set s.baton.votes d (Assoc.set (s.baton.votesAt d) src v) } }

/-- Die `d` takes an accept into its set. -/
def State.takeAccept (s : State) (d src : Nat) (m : AcceptMsg) : State :=
  { s with baton := { s.baton with accepts := Assoc.set s.baton.accepts d (Assoc.set (s.baton.acceptsAt d) src m) } }

/-- A die votes: its own vote in its own set, and a VOTE frame to every die. -/
def State.castVote (s : State) (d : Nat) : State :=
  let v := s.ownVote d
  ({ s.takeVote d d v with freeCtr := s.freeCtr + 1 }).control d none frVote [d, b2n v.pass, v.code, fieldLe v.share 0 16]

/-- Once no link trains any longer: the words are exchanged and caught up, and every booting die votes (R381, R486). -/
def State.afterTraining (s : State) : State :=
  if s.anyTraining ∨ s.baton.result ≠ .electing ∨ s.baton.votes ≠ [] then s
  else
    let ds := s.dieList.filter (fun d => decide ((s.die d).state = .booting))
    let s := ds.foldl (fun t d => t.control d none frWords [(t.die d).fuses.lc.toNat]) s
    ds.foldl (fun t d => t.castVote d) s.catchUpAll

/-- A port of a die changes. -/
def State.modPort (s : State) (d p : Nat) (f : RlkPort → RlkPort) : State := s.modDie d (fun x => { x with ports := x.ports.modify p f })

/-- A link may come up at a port: it trains, or it retrains and is not stuck. -/
def linkTrains (d p : Nat) (s : State) : Bool :=
  match (s.die d).ports[p]? with
  | some q => (decide (q.state = .training) || decide (q.state = .down)) && !q.stuck
  | none => false

/-- LINK_TRAINED. -/
def opLinkTrained (d p : Nat) (s : State) : State :=
  if linkTrains d p s then
    ((s.modPort d p (fun q => { q with state := .up, replays := 0, retraining := false })).event d RLK p 1).afterTraining
  else s

/-- LINK_TRAINED. -/
def execLinkTrained (d p : Nat) (s : State) : Host.Outcome State Fault Refusal := ret (opLinkTrained d p s)

/-- A link that has not come up stays DOWN until WARM or COLD reset. -/
def opLinkRetrainTimeout (d p : Nat) (s : State) : State :=
  if linkTrains d p s then
    let was := decide (((s.die d).ports.getD p ⟨.absent, 0, false, false⟩).state = .down)
    let s := s.modPort d p (fun q => { q with state := .down, stuck := true, retraining := false })
    (if was then s else (s.count d RLK p 0x11C).event d RLK p 0).afterTraining
  else s

/-- LINK_RETRAIN_TIMEOUT. -/
def execLinkRetrainTimeout (d p : Nat) (s : State) : Host.Outcome State Fault Refusal := ret (opLinkRetrainTimeout d p s)

/-- A frame has failed eight replays in a row: nine failures of LCODE, eight replays, both ends DOWN (R376). -/
def opReplayExhausted (d p : Nat) (s : State) : State :=
  match (s.die d).ports[p]? with
  | none => s
  | some q =>
    if q.state ≠ .up then s
    else
      let s := ((s.count d RLK p 0x104 9).count d RLK p 0x108 8).faultTimes d (608 + 8 * p) 9
      (s.faultAct d (608 + 8 * p + 1)).linkDown d p

/-- REPLAY_EXHAUSTED. -/
def execReplayExhausted (d p : Nat) (s : State) : Host.Outcome State Fault Refusal := ret (opReplayExhausted d p s)

/-! ### The election (R381, R382) -/

/-- What a die accepts from the votes it holds: the lowest index that passes, that die's code, the voters, the hash of the shares in die order. -/
def acceptOf (vs : Assoc Vote) : AcceptMsg :=
  let h := (vs.find? (fun (p : Nat × Vote) => p.2.pass)).map Prod.fst
  ⟨h, (h.map (fun i => (Assoc.getD vs i ⟨false, 0, []⟩).code)).getD 0, vs.map Prod.fst, sha3256 (vs.flatMap (fun (p : Nat × Vote) => p.2.share))⟩

/-- The voters' codes differ. -/
def codesDiffer (vs : Assoc Vote) : Bool := vs.any (fun (p : Nat × Vote) => vs.any (fun (q : Nat × Vote) => decide (p.2.code ≠ q.2.code)))

/-- The holder-to-be holds ACCEPTs from every voter that are identical to its own: it broadcasts COMMIT; alone, the election is clean at once. -/
def State.tryCommit (s : State) (d : Nat) : State :=
  match Assoc.get? (s.baton.acceptsAt d) d with
  | none => s
  | some own =>
    if own.holder ≠ some d ∨ s.baton.committed.isSome ∨ s.baton.result ≠ .electing then s
    else if own.voters.all (fun v => decide (Assoc.get? (s.baton.acceptsAt d) v = some own)) then
      let s := ({ s with baton := { s.baton with committed := some d } }).control d none frCommit [d]
      if own.voters = [d] then s.cleanElection d own.code own.nonce own.voters else s
    else s

/-- A die computes and sends its ACCEPT (R381 step 3), with R382's first two rows applied to the votes that it holds. -/
def State.sendAccept (s : State) (d : Nat) : State :=
  let vs := s.baton.votesAt d
  let m := acceptOf vs
  let s := (s.takeAccept d d m).control d none frAccept ([m.holder.getD 8, m.code] ++ m.voters ++ [leNat m.nonce])
  if codesDiffer vs then s.splitBaton d
  else if (s.baton.acceptsAt d).any (fun (p : Nat × AcceptMsg) => decide (p.2 ≠ m)) then s.splitBaton d
  else if m.holder = none then s.noHolder m.voters
  else s.tryCommit d

/-- A die is voting: booting, its own vote cast, no ACCEPT sent yet. -/
def voting (d : Nat) (s : State) : Bool :=
  decide ((s.die d).state = .booting) && decide (s.baton.result = .electing) && (Assoc.get? (s.baton.votesAt d) d).isSome
    && !(Assoc.get? (s.baton.acceptsAt d) d).isSome

/-- VOTE: a VOTE frame of `src` reaches a die; with votes from every die the die accepts. -/
def opVote (d src : Nat) (pass : Bool) (code : Nat) (share : List Byte) (s : State) : State :=
  if voting d s ∧ src < s.nDies then
    let s := s.takeVote d src ⟨pass, code, share⟩
    if (s.baton.votesAt d).length = s.nDies then s.sendAccept d else s
  else s

/-- VOTE. -/
def execVote (d src : Nat) (pass : Bool) (code : Nat) (share : List Byte) (s : State) : Host.Outcome State Fault Refusal :=
  ret (opVote d src pass code share s)

/-- VOTE_TIMEOUT: missing voters are absent. -/
def opVoteTimeout (d : Nat) (s : State) : State := if voting d s then s.sendAccept d else s

/-- VOTE_TIMEOUT. -/
def execVoteTimeout (d : Nat) (s : State) : Host.Outcome State Fault Refusal := ret (opVoteTimeout d s)

/-- ACCEPT: a die that has accepted compares; the holder-to-be may commit (R382). -/
def opAccept (d src : Nat) (m : AcceptMsg) (s : State) : State :=
  if (s.die d).state ≠ .booting ∨ s.baton.result ≠ .electing then s
  else
    let s := s.takeAccept d src m
    match Assoc.get? (s.baton.acceptsAt d) d with
    | none => s
    | some own => if m ≠ own then s.splitBaton d else s.tryCommit d

/-- ACCEPT. -/
def execAccept (d src : Nat) (m : AcceptMsg) (s : State) : Host.Outcome State Fault Refusal := ret (opAccept d src m s)

/-- COMMIT: from the accepted holder it ends the election cleanly; from any other die it is a split baton (R382, R383). -/
def opCommit (d src : Nat) (s : State) : State :=
  if !(s.die d).onRelay then s
  else if s.baton.result = .clean then (if some src = s.baton.holder then s else s.splitBaton d)
  else if s.baton.result ≠ .electing then s
  else
    match Assoc.get? (s.baton.acceptsAt d) d with
    | none => s
    | some own =>
      if own.holder ≠ some src then s.splitBaton d
      else if s.baton.committed = some src then s.cleanElection src own.code own.nonce own.voters
      else s

/-- COMMIT. -/
def execCommit (d src : Nat) (s : State) : Host.Outcome State Fault Refusal := ret (opCommit d src s)

/-! ### Split, orders and the life-cycle decode (R383, R384, R389) -/

/-- A SPLIT frame reaches a die: its bus is gated, the frame forwarded, and the response is package wide (R384). -/
def opSplitFrame (d : Nat) (s : State) : State :=
  if (s.die d).onRelay then
    let s := s.modDie d (fun x => { x with tmn := { x.tmn with gated := true } })
    if s.baton.result = .split then s.control d none frSplit [] else s.splitBaton d
  else s

/-- SPLIT_FRAME. -/
def execSplitFrame (d : Nat) (s : State) : Host.Outcome State Fault Refusal := ret (opSplitFrame d s)

/-- TAMPER_ORDER: applied on receipt from the holder; from any other die it is a split baton. -/
def opTamperOrder (d src resp cls : Nat) (s : State) : State :=
  if !(s.die d).onRelay ∨ s.baton.result ≠ .clean then s
  else if some src ≠ s.baton.holder then s.splitBaton d
  else s.applyResp d cls resp

/-- TAMPER_ORDER. -/
def execTamperOrder (d src resp cls : Nat) (s : State) : Host.Outcome State Fault Refusal := ret (opTamperOrder d src resp cls s)

/-- LC_DECODE_CHANGE: a die's word changes without a transition that the holder ordered. -/
def opLcDecodeChange (d : Nat) (word : W64) (s : State) : State :=
  if s.nDies ≤ d ∨ lcCode word = lcCode (s.die d).fuses.lc then s
  else
    let t := s.modDie d (fun x => { x with fuses := { x.fuses with lc := word } })
    if s.baton.result = .clean ∧ s.lcc.xfer = none then t.splitBaton d else t

/-- LC_DECODE_CHANGE. -/
def execLcDecodeChange (d : Nat) (word : W64) (s : State) : Host.Outcome State Fault Refusal := ret (opLcDecodeChange d word s)

/-! ### Frames of the log and of events (R389, R447) -/

/-- LOG_FRAME: the oldest entry that a die has not sent reaches the arbiter's queue. -/
def opLogFrame (d : Nat) (s : State) : State :=
  match (s.die d).logOut with
  | [] => s
  | o :: rest =>
    let s := s.modDie d (fun x => { x with logOut := rest })
    { s with alg := { s.alg with offers := s.alg.offers ++ [o] } }

/-- LOG_FRAME. -/
def execLogFrame (d : Nat) (s : State) : Host.Outcome State Fault Refusal := ret (opLogFrame d s)

/-- EVENT_FRAME: a page event of another die reaches the Event Router and is delivered by its route. -/
def opEventFrame (p : PageRef) (s : State) : State :=
  if p.die ≠ 0 ∧ (s.die p.die).reachable then s.pageEvent p.die p.blk p.inst else s

/-- EVENT_FRAME. -/
def execEventFrame (p : PageRef) (s : State) : Host.Outcome State Fault Refusal := ret (opEventFrame p s)

/-! ### DIE reset and readmission (R385 to R388) -/

/-- A DIE reset may be issued: by a clean holder to another die that is neither excluded nor beyond the package, on a lost die or at the manager's order. -/
def dieResetDue (d : Nat) (s : State) : Bool :=
  decide (s.baton.result = .clean) && decide (some d ≠ s.baton.holder) && decide (d < s.nDies) && decide ((s.die d).state ≠ .excluded)
    && (decide ((s.die d).state = .lost) || (s.die d).resetReq)

/-- The queue contexts of a die as die 0's VIM keeps them for readmission: bound ones ACTIVE with zero indices (R386, R387); manager queues are gone. -/
def Queue.rejoined (q : Queue) : Queue :=
  { Queue.reset with ctx := { Queue.reset.ctx with rings := { q.ctx.rings with sqHead := 0, sqTail := 0, cqHead := 0, cqTail := 0 }, state := .active } }

/-- Registers at COLD values, SRAM wiped, engines stopped without output; the heat of its DIE_RESET source goes on counting (R388). -/
def Die.dieReset (x : Die) : Die :=
  { Die.inReset x.fuses 7 2 with
    state := .dieReset
    queues := (x.queues.filter (fun (p : Nat × Queue) => p.2.ctx.rings.bound)).map (fun (p : Nat × Queue) => (p.1, p.2.rejoined))
    fcl := { sticky := [], severe := [], cfg := [], cfgNext := [], heat := x.fcl.heat.filter (fun (p : Nat × Heat) => decide (p.1 = 624)), handling := [] }
    ports := x.ports }

/-- A transition is burning a bit: a DIE reset of the holder's making waits for its end (R483). -/
def State.inBurn (s : State) : Bool := (s.lcc.xfer.map (fun t => decide (t.phase = 2))).getD false

/-- DIE_RESET_ENTRY. While a bit is burned, the reset of a die in service waits, and the transition stops after the bit (R483). -/
def opDieResetEntry (d : Nat) (s : State) : State :=
  if dieResetDue d s ∧ (s.die d).state ≠ .lost ∧ s.inBurn then { s with lcc := { s.lcc with stop := some stMachineCheck } }
  else if dieResetDue d s then
    let s := if (s.die d).state = .lost then s else s.dieGone d
    let s := ((s.modDie d (·.dieReset)).count 0 RLK 0 0x210).offer (Offer.of 0 0 0x2003 d)
    s.faultAct d 624
  else s

/-- DIE_RESET_ENTRY. -/
def execDieResetEntry (d : Nat) (s : State) : Host.Outcome State Fault Refusal := ret (opDieResetEntry d s)

/-- No JOIN within t_rejoin: the die is excluded. -/
def opRejoinTimeout (d : Nat) (s : State) : State := if (s.die d).state = .dieReset then s.exclude d else s

/-- REJOIN_TIMEOUT. -/
def execRejoinTimeout (d : Nat) (s : State) : Host.Outcome State Fault Refusal := ret (opRejoinTimeout d s)

/-- A JOIN frame reaches the holder (R383, R387): the die has booted through its self-tests with what die 0's flash gives it; one whose patch set is rejected has
failed its boot (R242). -/
def opJoinFrame (m : JoinMsg) (s : State) : State :=
  if (s.die m.die).state ≠ .dieReset ∨ s.baton.result ≠ .clean ∨ s.pkg.railsLow.contains m.die then s
  else if !m.pass then s.exclude m.die
  else if m.code ≠ s.lc then s.splitBaton (s.baton.holder.getD 0)
  else
    let fw := ((bootEntry s.flash s.bfi.entries).map (bootImage s.flash)).getD []
    let s := s.pacerStart m.die
    let x := (s.die m.die).bootSteps s.flash m.die fw s.store.programs
    if x.patch.state = 2 then
      ((s.modDie m.die (fun y => { x with state := y.state, boot := { x.boot with step := 3, failed := 4, reason := x.patch.reason, pass := false } })).recordTamper
        0x21 2 m.die).exclude m.die
    else
      let s := s.modDie m.die (fun _ => { x with state := .joining, boot := { x.boot with step := 6, failed := 0, reason := 0, pass := true },
                                                 tmn := { x.tmn with gated := s.pkg.lock } })
      let s := (s.pacerProbes m.die (bootDieIn s.flash m.die).margins)
      let share := Config.drbg s.freeCtr 16
      ({ s with freeCtr := s.freeCtr + 1, baton := { s.baton with joins := Assoc.set s.baton.joins m.die m.share } }).control
        (s.baton.holder.getD 0) (some m.die) frJoinAck [s.baton.holder.getD 0, fieldLe share 0 16]

/-- The first frame of the STATE_PUSH from `src` to die `d` (R378, R387): ELECT_NONCE sealed under the key that the two shares give, with SRC, DST and a counter as
nonce and the header as associated data. The layout of the frames that follow it is not stated (log entry 148). -/
def State.statePush (s : State) (src d : Nat) (own share : List Byte) : State :=
  let key := (kdf (s.die src).fuses.kpair "VQ-JOIN" (sha3256 (own ++ share))).take 32
  let f : RelayFrame := ⟨frPush, .secure, src, some d, 0, []⟩
  let c := gcmSeal key ([BitVec.ofNat 8 src, BitVec.ofNat 8 d] ++ leBytes 10 (s.die src).secured)
    (Config.relayHeader frPush src d (s.nextSeq f).toNat) s.baton.nonce
  (s.modDie src (fun x => { x with secured := x.secured + 1 })).relay [s.route src d] { f with body := (c.1 ++ c.2).map BitVec.toNat }

/-- JOIN_ACK: a rejoining die receives the holder's share; its STATE_PUSH may follow. An acknowledgement from any other die, or without a JOIN, is discarded. -/
def opJoinAck (d src : Nat) (share : List Byte) (s : State) : State :=
  if (s.die d).state = .joining ∧ some src = s.baton.holder ∧ (Assoc.get? s.baton.joins d).isSome then
    let own := Assoc.getD s.baton.joins d []
    s.statePush src d own share
  else s

/-- JOIN_ACK. -/
def execJoinAck (d src : Nat) (share : List Byte) (s : State) : Host.Outcome State Fault Refusal := ret (opJoinAck d src share s)

/-- A die readmitted serves again: pages locked, in service, DIE_JOINED. -/
def State.readmit (s : State) (d : Nat) : State :=
  let s := s.modDie d (fun x => { x with state := .running, boot := { x.boot with step := 8 }, tmn := { x.tmn with gated := s.pkg.lock } })
  let s := ((s.fwWrite d TMN 0x100 s.bbd.map0).fwWrite d TMN 0x104 s.bbd.map1).fwWrite d TMN 0x108 (s.reg 0 TMN 0 0x108)
  let s := s.fwWrite d TMN 0x00C 1
  let s := { s with baton := { s.baton with joins := Assoc.erase s.baton.joins d, reachable := Assoc.set s.baton.reachable d (),
                                            present := Assoc.set s.baton.present d () } }
  s.event 0 RLK 0 3

/-- STATE_PUSH: from a die that is not the holder it is a split baton; one whose tag fails raises RELAY_INTEGRITY; a good one readmits the die (R378, R383, R387). -/
def opStatePush (d src : Nat) (tagOk : Bool) (s : State) : State :=
  if s.baton.result ≠ .clean ∨ !(s.die d).onRelay then s
  else if some src ≠ s.baton.holder then s.splitBaton d
  else if !tagOk then (s.faultAct d 611).raiseClass d 0x0F
  else if (s.die d).state = .joining ∧ (Assoc.get? s.baton.joins d).isSome then s.readmit d
  else s

/-- STATE_PUSH. -/
def execStatePush (d src : Nat) (tagOk : Bool) (s : State) : Host.Outcome State Fault Refusal := ret (opStatePush d src tagOk s)

end Sys2Proof.Machine
end

