-- ==== Sys2Proof/Machine/EngineRows.lean ====
section
/-! DEFINITION. The ends of passes, legs and segments, and what stops a job on its engine: END with its repeat passes and the release word (R214 to R216,
R252, R253), aborts (R235 to R237), BNE legs and lane wipes (R289, R294 to R300), SYE segments (R309, R314). -/

namespace Sys2Proof.Machine

/-! ### Times of vendor programs (R106 to R109, R230) -/

/-- Message bytes that a signature job hashes (R107). -/
def Sqe.msgLen (e : Sqe) (sig : Nat) : Nat :=
  if e.cls = 3 then (if e.op % 0x800 = 3 then e.par 0 32 else e.inLen.toNat)
  else if e.op % 0x800 = 3 ∨ e.op % 0x800 = 5 then e.inLen.toNat - sig else e.inLen.toNat

/-- Engine time of the LVE's part of a composite with so many passes, at the shipped map. -/
def Sqe.hybLve (e : Sqe) (r : Nat) : Nat :=
  let n := if e.op % 0x800 = 5 then e.inLen.toNat - e.sigLen 0 else e.inLen.toNat
  let t := sigTime (hybPq e.ps) r
  if hybKem e.ps then
    (match e.op % 0x800 with
    | 1 => (kemTime (hybPq e.ps)).1
    | 2 => (kemTime (hybPq e.ps)).2.1
    | _ => (kemTime (hybPq e.ps)).2.2)
  else
    (match e.op % 0x800 with
    | 1 => t.1
    | 4 => t.2.1 + msgTime (sigHash (hybPq e.ps)) (n + e.ctxLen)
    | _ => t.2.2 + msgTime (sigHash (hybPq e.ps)) (n + e.ctxLen))

/-- Engine time of a class 0x1, 0x2 or 0x9 job on its LVE with so many passes, at the shipped map. -/
def Sqe.pqTime (e : Sqe) (r : Nat) : Nat :=
  if e.cls = 9 then e.hybLve r
  else if e.cls = 1 then
    (match e.op % 0x800 with
    | 1 => if isMceliece e.ps then (kemTime e.ps).1 * r else (kemTime e.ps).1
    | 2 => (kemTime e.ps).2.1
    | _ => (kemTime e.ps).2.2)
  else
    let sig := ((sigSizes e.ps).getD (0, 0, 0)).2.1
    let t := sigTime e.ps r
    match e.op % 0x800 with
    | 1 => t.1
    | 2 => t.2.1 + msgPasses e.ps true * msgTime (sigHash e.ps) (e.msgLen sig + e.ctxLen)
    | _ => t.2.2 + msgPasses e.ps false * msgTime (sigHash e.ps) (e.msgLen sig + e.ctxLen)

/-- The engine time of a vendor program at the map of the LVE that runs it. -/
def State.vendorTime (s : State) (d : Nat) (x : Job) (base : Nat) : Nat :=
  match x.engine with
  | .lve e => (match (s.die d).lves[e]? with | some u => lveMapTime u.map (s.die d).fuses.cycLve x.sqe.prog base | none => base)
  | .bne e => (match (s.die d).bnes[e]? with
    | some u => bneMapTime u.map (s.die d).fuses.cycBne x.sqe.prog x.sqe.op x.sqe.ps (s.fieldBits x) base
    | none => base)
  | _ => base

/-- The pass that an LVE job is in. -/
def State.passOf (s : State) (d : Nat) (x : Job) : Nat :=
  match x.engine with
  | .lve e => (((s.die d).lves[e]?).map (fun u => u.eng.core.pass.toNat)).getD 1
  | _ => 1

/-! ### END (R214, R216, R252, R253) -/

/-- A vendor program runs. -/
def LveUnit.vendor (u : LveUnit) : Bool := u.eng.seq.prog.isSome

/-- The engine time of the job on an LVE at its end: what its program's result says, or the clocks run. -/
def State.endTime (s : State) (d : Nat) (u : LveUnit) (x : Job) : Nat :=
  match x.result with
  | some r => r.etime
  | none => if u.vendor then s.vendorTime d x (x.sqe.pqTime u.eng.core.pass.toNat) else s.lveTime u d

/-- A job ends on its LVE with a result; its units are settled (R353), its die's queues go on. -/
def State.lveResult (s : State) (d e j : Nat) (x : Job) (r : JobResult) : State :=
  let n := (((s.die d).lves[e]?).map (fun u => u.eng.core.pass.toNat)).getD 1
  (((s.modJob d j (fun y => { y with result := some r })).settleUnits d 0 x n r.etime).lveOver d e).pumpDie d

/-- The repeat limit (R216, R277). -/
def State.repeatEnds (s : State) (d e j : Nat) (u : LveUnit) (x : Job) : State :=
  let t := s.endTime d u x
  if x.sqe.op = 0x1001 then s.lveResult d e j x ⟨stKeygenLimit, 0, t, []⟩
  else s.lveResult d e j x ⟨stFaultDetected, 1, t, []⟩

/-- The output of an owner program: OUTLEN bytes of its OUT region, through its inverse transform (R194, R339). -/
def ownerOut (img : List Byte) (l : Lve) : List Byte :=
  let n := l.core.outlen.toNat
  (xformOf img 2).unstage n (fun off len => l.window.reads (l.regions.outOff + off) len)

/-- The release word of a vendor program: the last 4 bytes of its window (R252). -/
def releaseWord (l : Lve) : Nat := leNat (l.window.reads (l.regions.winSize - 4) 4)

/-- The result with which END ends a job; none where a vendor program has not computed its own. -/
def State.endResult (s : State) (d : Nat) (u : LveUnit) (x : Job) : Option JobResult :=
  let t := s.endTime d u x
  if u.vendor ∧ x.result.isNone then none
  else match u.eng.seq.fault with
    | some (.operand i) => some ⟨stOperandFault, i, t, []⟩
    | some .maskBudget => some ⟨stFaultDetected, 2, t, []⟩
    | none =>
      if u.vendor then
        (if releaseWord u.eng = 0 then x.result else some ⟨stFaultDetected, BitVec.ofNat 32 (releaseWord u.eng), t, []⟩)
      else
        some ⟨stOk, BitVec.ofNat 32 (min 0xFFFF u.eng.core.pass.toNat), t, ownerOut u.eng.seq.head u.eng⟩

/-- A repeat pass: reserved until its masking bytes are there (R214, R215). -/
def LveUnit.nextPass (u : LveUnit) (restart : Nat) : LveUnit :=
  { u with eng := { u.eng with
      phase := .passWait
      core := { u.eng.core with pass := u.eng.core.pass + 1, accept := true }
      seq := { u.eng.seq with pc := restart, loops := [], maskUsed := 0 }
      hit := none } }

/-- An LVE that has run END's own microwords. -/
def LveUnit.endRun (u : LveUnit) : LveUnit := { u with eng := { u.eng with seq := { u.eng.seq with counts := u.eng.seq.counts.add (onlySeq 2) } } }

/-- The pass ends rejected at the repeat limit (R216). -/
def LveUnit.atLimit (u : LveUnit) : Bool :=
  !u.eng.core.accept && u.eng.seq.fault.isNone && decide (u.eng.seq.repeatMax ≤ u.eng.core.pass.toNat)

/-- END on an LVE. What a repeated pass has computed is discarded. -/
def State.lveEnd (s : State) (d e : Nat) (f : LveFields) : State :=
  match (s.die d).lves[e]? with
  | none => s
  | some u =>
    match u.eng.job with
    | none => s
    | some j =>
      match s.job? d j with
      | none => s
      | some x =>
        let u1 := u.endRun
        if u.atLimit then s.repeatEnds d e j u1 x
        else if bit f.sub 0 ∧ !u.eng.core.accept ∧ u.eng.seq.fault.isNone then
          (((s.modJob d j (fun y => { y with result := none })).modDie d (fun y => { y with
              lves := y.lves.set e (u1.nextPass (bits f.imm 0 16)) })).count d LVE e 0x10C)
        else
          match s.endResult d u1 x with
          | none => s
          | some r => s.lveResult d e j x r

/-- END comes next: the instruction at the index of an owner program is END; the END of a vendor program, whose text the manual does not give, is taken to come
next when it is commanded (log 17). -/
def LveUnit.endNext (u : LveUnit) : Bool :=
  decide (u.eng.phase = .running) && !u.svc.frozen &&
    (u.vendor || match (u.eng.seq.text[u.eng.seq.pc]?).bind lveDecode with | some (o, _) => decide (o = .lend) | none => false)

/-- END (R214). -/
def execLend (r : LveRef) (f : LveFields) (s : State) : Host.Outcome State Fault Refusal :=
  match s.lve? r with
  | none => .fault .noSuchUnit
  | some u =>
    if !LveOp.lend.valid f then .refused .invalidInstruction
    else if !(u.endNext && (u.vendor || u.executes .lend f)) then s.lveIdle r u
    else match s.lveStruck r .lend f u with
      | some t => ret t
      | none => ret (s.lveEnd r.die r.engine f)

/-- REPEAT_LIMIT: an END with ACCEPT = 0 when PASS = REPEAT_MAX (R216). -/
def opRepeatLimit (d e : Nat) (s : State) : State :=
  match (s.die d).lves[e]? with
  | none => s
  | some u =>
    match u.eng.job.bind (fun j => (s.job? d j).map (fun x => (j, x))) with
    | none => s
    | some (j, x) =>
      if !u.endNext then s
      else if u.eng.abortReq then s.lveAbort d e
      else if u.atLimit then s.repeatEnds d e j u.endRun x
      else s

/-- REPEAT_LIMIT. -/
def execRepeatLimit (d e : Nat) (s : State) : Host.Outcome State Fault Refusal := ret (opRepeatLimit d e s)

/-- JOIN: VMSK JOIN (R207), or the frame of a die that joins (R383, R387). -/
def execVjoin (x : JoinForm) (s : State) : Host.Outcome State Fault Refusal :=
  match x with
  | .vmsk r f => lveExec .vjoin r f s (fun l => lveVjoin f l)
  | .frame m => ret (opJoinFrame m s)

/-! ### Passes and aborts -/

/-- The masking requirement of a job's next pass (R215, R255): that of the program it runs. -/
def State.passNeed (s : State) (d : Nat) (u : LveUnit) (x : Job) : Nat := if u.vendor then s.maskNeed d x false else u.eng.seq.maskBytes

/-- PASS_DISPATCH (R215): the next pass of a reserved job begins once the buffer holds its masking requirement, of which it draws as it runs; with the generator
disabled below it the job ends with RNG_FAIL (R322). -/
def opPassDispatch (d e : Nat) (s : State) : State :=
  match (s.die d).lves[e]? with
  | none => s
  | some u =>
    match u.eng.job.bind (s.job? d) with
    | none => s
    | some x =>
      let need := s.passNeed d u x
      if u.eng.phase = .passWait ∧ !u.svc.frozen ∧ s.maskLost d need (.lve e) then (s.lveStop d e stRngFail 0).pumpDie d
      else if u.eng.phase = .passWait ∧ !u.eng.abortReq ∧ !u.svc.frozen ∧ need ≤ u.svc.maskBuf then
        let u' : LveUnit := { u with eng := { u.eng with phase := .running, seq := { u.eng.seq with maskBytes := need } } }
        (s.modDie d (fun y => { y with lves := y.lves.set e u' })).chargeUnit d 0 x
      else s

/-- PASS_DISPATCH. -/
def execPassDispatch (d e : Nat) (s : State) : Host.Outcome State Fault Refusal := ret (opPassDispatch d e s)

/-- LVE_ABORT: the request is sampled at a checkpoint, or takes effect at once between passes (R236). -/
def opLveAbort (d e : Nat) (s : State) : State :=
  match (s.die d).lves[e]? with
  | none => s
  | some u => if u.eng.abortReq ∧ u.eng.job.isSome ∧ !u.svc.frozen then (s.lveAbort d e).pumpDie d else s

/-- LVE_ABORT. -/
def execLveAbort (d e : Nat) (s : State) : Host.Outcome State Fault Refusal := ret (opLveAbort d e s)

/-- CKPT_GAP (R235). -/
def opCkptGap (d e : Nat) (s : State) : State :=
  match (s.die d).lves[e]? with
  | none => s
  | some u =>
    if u.eng.phase = .running ∧ u.eng.job.isSome ∧ !u.svc.frozen then (s.ckptGap d e).pumpDie d else s

/-- CKPT_GAP. -/
def execCkptGap (d e : Nat) (s : State) : Host.Outcome State Fault Refusal := ret (opCkptGap d e s)

/-! ### BNE (R289 to R300) -/

/-- The operation on a BNE ends. -/
def State.bneOver (s : State) (d e : Nat) : State :=
  match (s.die d).bnes[e]? with
  | none => s
  | some u =>
    match u.running with
    | none => s
    | some one =>
      let l := u.lane one
      match l.job.bind (fun j => (s.job? d j).map (fun x => (j, x))) with
      | none => s
      | some (j, x) =>
        let ps := (x.result.map JobResult.etime).getD 0 - x.digestPs
        (((s.bneFreed d e x ps).settleUnits d 1 x (max 1 (u.legs + 1)) ps).jobDone d j).pumpDie d

/-- Operations of several legs (R294). -/
def Sqe.multiLeg (e : Sqe) : Bool := decide (e.op = 0x4010 ∨ e.op = 0x4007)

/-- BNE_LEG_END: the next leg starts, or the operation ends; a result check that fails ends it with MACHINE_CHECK and CHECK_FAIL counts (R289). A reset, or LOCK (R424), stops
an operation at a leg's end. The classical half of a composite ends with its job's END, which a failed check gives MACHINE_CHECK. -/
def opBneLegEnd (d e : Nat) (flagsAgree : Bool) (s : State) : State :=
  match (s.die d).bnes[e]? with
  | none => s
  | some u =>
    if u.svc.frozen then s
    else match u.running.bind (fun one => (u.lane one).job.bind (fun j => (s.job? d j).map (fun x => (j, x)))) with
      | none => s
      | some (j, x) =>
        let span := s.vendorTime d x (bneBase x.sqe.op x.sqe.ps (s.fieldBits x))
        if x.engine ≠ .bne e then
          (if flagsAgree then s else (s.modJob d j (fun y => y.fail stMachineCheck 0)).faultAct d (512 + 8 * e + 4))
        else if x.suppress ∨ (s.pkg.lock ∧ x.sqe.multiLeg) then
          (s.modJob d j (fun y => { y with result := some (y.result.getD ⟨stOk, 0, if x.sqe.multiLeg then 0 else span, []⟩) })).bneOver d e
        else if !flagsAgree then
          let t := s.modJob d j (fun y =>
            let r : JobResult := y.result.getD ⟨stOk, 0, if x.sqe.multiLeg then 0 else span, []⟩
            { y with result := some { r with status := stMachineCheck, detail := 0, out := [] } })
          (t.bneOver d e).faultAct d (512 + 8 * e + 4)
        else if x.result.isSome then s.bneOver d e
        else if x.sqe.multiLeg then
          ((s.modDie d (fun y => { y with bnes := y.bnes.set e { u with legs := u.legs + 1 } })).count d BNE e 0x114).chargeUnit d 1 x
        else s

/-- BNE_LEG_END. -/
def execBneLegEnd (d e : Nat) (flagsAgree : Bool) (s : State) : Host.Outcome State Fault Refusal := ret (opBneLegEnd d e flagsAgree s)

/-- KEYGEN_LIMIT (R277, R299): the 65,536th failed candidate of one prime, or the 1,024th attempt of Classic McEliece. -/
def opKeygenLimit (j : JobRef) (s : State) : State :=
  match s.job? j.die j.job with
  | none => s
  | some x =>
    match x.stage, x.engine with
    | .running, .lve e =>
      (match (s.die j.die).lves[e]? with
      | some u =>
        if x.sqe.op = 0x1001 ∧ isMceliece x.sqe.ps ∧ u.eng.phase = .running ∧ !u.eng.core.accept ∧ 1024 ≤ u.eng.core.pass.toNat then
          s.lveResult j.die e j.job x ⟨stKeygenLimit, 0, s.endTime j.die u x, []⟩
        else s
      | none => s)
    | .running, .bne e =>
      if x.sqe.op = 0x4010 ∧ x.result.isNone then
        ((s.jobStep j.die j.job 1 5).result j.die j.job stKeygenLimit 0 (Config.rsaKeygenTime (x.sqe.rsaK / 2) 65536) []).bneOver j.die e
      else s
    | _, _ => s

/-- KEYGEN_LIMIT. -/
def execKeygenLimit (j : JobRef) (s : State) : Host.Outcome State Fault Refusal := ret (opKeygenLimit j s)

/-- LANE_WIPE_DONE (R300). -/
def opLaneWipeDone (d e : Nat) (lane : Bool) (s : State) : State :=
  match (s.die d).bnes[e]? with
  | none => s
  | some u =>
    if (u.lane lane).wiping ∧ (u.lane lane).job.isNone then
      ((s.modDie d (fun y => { y with bnes := y.bnes.set e (u.setLane lane BneLane.clear) })).count d BNE e 0x110).pumpDie d
    else s

/-- LANE_WIPE_DONE. -/
def execLaneWipeDone (d e : Nat) (lane : Bool) (s : State) : Host.Outcome State Fault Refusal := ret (opLaneWipeDone d e lane s)

/-! ### SYE (R306 to R314) -/

/-- A fence that waited for a segment boundary applies: every job bound to the SYE ends with MACHINE_CHECK (R314). -/
def State.syeFenceNow (s : State) (d e : Nat) : State :=
  match (s.die d).syes[e]? with
  | none => s
  | some u =>
    if u.svc.fenceReq = 0 then s
    else ((s.modDie d (fun y => { y with syes := y.syes.set e { u with svc := { u.svc with fence := u.svc.fenceReq, fenceReq := 0 } } })).endCtxs d e).event d SYE e 1

/-- The segment of a digest whose BNE job has gone ends: its context is freed and the next segment is selected. -/
def State.digestLost (s : State) (d e : Nat) : State :=
  match (s.die d).syes[e]? with
  | none => s
  | some u =>
    match u.running.bind (fun k => (Assoc.get? u.ctxs k).map (fun c => (k, c))) with
    | some (k, c) =>
      if c.digest ∧ !u.svc.frozen then
        (((s.digestOver d e k c.job false 0).modDie d (fun y => { y with syes := y.syes.modify e (fun v => { v with running := none }) })).count d SYE e 0x110).syeSelect d e
      else s
    | none => s

/-- SYE_SEGMENT_END: the segment's job goes on, or ends, and the next segment is selected (R309). -/
def opSyeSegmentEnd (d e : Nat) (s : State) : State :=
  match (s.die d).syes[e]? with
  | none => s
  | some u =>
    match u.running.bind (fun k => (Assoc.get? u.ctxs k).bind (fun c => (s.job? d c.job).map (fun x => (k, c, x)))) with
    | none => s.digestLost d e
    | some (k, c, x) =>
      let last := decide (c.total ≤ c.done + 1)
      if u.svc.frozen ∨ (last ∧ !c.digest ∧ x.result.isNone ∧ !s.syeStops x ∧ u.svc.fenceReq = 0) then s
      else
        let u' : SyeUnit := { u with running := none, ctxs := Assoc.set u.ctxs k { c with done := c.done + 1 } }
        let s := (((s.modDie d (fun y => { y with syes := y.syes.set e u' })).count d SYE e 0x110).settleSegment d x c.done (s.knownTime d 2 x c.done))
        let s := if u.svc.fenceReq ≠ 0 then s.syeFenceNow d e
          else if c.digest then (if last ∨ s.syeStops x then s.digestOver d e k c.job last x.digestPs else s)
          else if s.syeStops x then (s.modJob d c.job Job.stopped).syeEnd d e k
          else if last then s.syeEnd d e k
          else s
        let t := s.syeSelect d e
        let next := ((t.die d).syes[e]?).bind (fun v => v.running.bind (fun i => (Assoc.get? v.ctxs i).map SyeCtx.job))
        (if next.isSome ∧ next ≠ some c.job then t.count d SYE e 0x114 else t).pumpDie d

/-- SYE_SEGMENT_END. -/
def execSyeSegmentEnd (d e : Nat) (s : State) : Host.Outcome State Fault Refusal := ret (opSyeSegmentEnd d e s)

end Sys2Proof.Machine
end

