-- ==== Sys2Proof/Machine/OpsLve.lean ====
section
/-! DEFINITION. The operations of the vendor programs of the LVE (R84 to R89, R250 to R279) and RUN (R98, R193): what each computes; the job ends with END, and
with it its output goes out. REMAINING runs on no engine. -/

namespace Sys2Proof.Machine

/-! ### The job of an operation -/

/-- The job that an operation row names: its program runs, has this opcode and has not ended. -/
def State.opJob (s : State) (j : JobRef) (op : Nat) : Option Job :=
  (s.job? j.die j.job).filter (fun x => decide (x.stage = .running) && decide (x.sqe.op = op) && x.result.isNone)

/-- Apply an operation to its job. -/
def State.onOp (s : State) (j : JobRef) (op : Nat) (f : Job → State) : State :=
  match s.opJob j op with
  | some x => f x
  | none => s

/-- The private payload of the key that a job names. -/
def State.jobSecret (s : State) (d : Nat) (x : Job) : List Byte := ((s.jobKey d x 0).map Slot.payload).getD []

/-- The bytes of the KPC entry that a job holds. -/
def State.entryBytes (s : State) (d : Nat) (x : Job) : List Byte :=
  ((x.data.kpcEntry.bind (fun i => Assoc.get? (s.die d).kpc i)).map KpcEntry.bytes).getD []

/-- A job's program reports the steps of R114 in their order. -/
def State.jobSteps (s : State) (d j m : Nat) : State := (List.range m).foldl (fun t i => t.jobStep d j (i + 1) m) s

/-- The LVE that a job runs on. -/
def State.jobLve (s : State) (d : Nat) (x : Job) : Option (Nat × LveUnit) :=
  match x.engine with
  | .lve e => ((s.die d).lves[e]?).map (fun u => (e, u))
  | _ => none

/-- The fresh random bytes of a job, from the scratch area of its window: a value that is masked stands there as two draws whose XOR it is (R250). -/
def State.stagedRandom (s : State) (d : Nat) (x : Job) : List Byte :=
  let n := x.sqe.scratch.1
  match s.jobLve d x with
  | none => []
  | some (_, u) =>
    let a := u.eng.window.reads scratchAt n
    if x.sqe.scratch.2 then xorB a (u.eng.window.reads (scratchAt + n) n) else a

/-- The seed of a new key, from the slot that it was drawn into (R251). -/
def State.seedOf (s : State) (d : Nat) (x : Job) : List Byte := ((x.data.keys.getLast?.bind (s.slot? d)).map Slot.payload).getD []

/-- Whether an induced fault has struck the pass (R254). -/
def State.hitOf (s : State) (d : Nat) (x : Job) : Option Bool := (s.jobLve d x).bind (fun p => p.2.eng.hit)

/-- A vendor program has computed a pass: it has drawn the pass's masking bytes (R255), ACCEPT holds what VACCEPT was given (R214), and the release word what the checks
of the pass left (R252). -/
def State.passDone (s : State) (d : Nat) (x : Job) (accept : Bool) (word : Nat) : State :=
  match s.jobLve d x with
  | none => s
  | some (e, u) => s.setEng ⟨d, e, .none⟩ { u.eng with
      core := { u.eng.core with accept := accept }
      seq := { u.eng.seq with maskUsed := max u.eng.seq.maskUsed u.eng.seq.maskBytes }
      window := u.eng.window.writes (u.eng.regions.winSize - 4) (leBytes 4 word) }

/-- DETAIL of an operation that creates a key (R77). -/
def createdDetail (blobLen reps : Nat) : W32 := BitVec.ofNat 32 (blobLen % 65536 + 65536 * min reps 0xFFFF)

/-- A new asymmetric key: its blob under the parent named, the public key behind it, its KPC entry filled (R77, R251, R173). -/
def State.newKey (s : State) (d j : Nat) (x : Job) (counter : W16) (stop : Nat) (payload pub entry : List Byte) (reps etime : Nat) : State :=
  match s.jobParent d x with
  | none => s
  | some p =>
    let b := (s.newBlob d p (s.newAlg x) (BitVec.ofNat 32 (x.sqe.par 0 32)) counter 0 stop false s.bbd.rtc.toNat payload).1
    let s := match x.data.kpcEntry with
      | some i => s.modKpc d i (fun e => { e with key := .tag (blobTag b), bytes := entry })
      | none => s
    (s.result d j stOk (createdDetail b.length reps) etime (b ++ pub)).drawn

/-! ### Key encapsulation (R84, R85, R251, R260 to R262, R274 to R279) -/

/-- The private key of a KEM without the digest that follows a Classic McEliece key (R156). -/
def kemSecret (p : Nat) (payload : List Byte) : List Byte := if isMceliece p then payload.take (payload.length - 32) else payload

/-- Ten times the expected attempts of a Classic McEliece KEYGEN (R108): f-variants have even codes. -/
def mceExpected10 (p : Nat) : Nat := if (mceSet p).semi then 10 else 34

/-- One attempt of a Classic McEliece KEYGEN (R277): the candidate of pass `r`; one that fails leaves ACCEPT at 0, and END repeats with the next δ. -/
def State.mceKeygen (s : State) (d j : Nat) (x : Job) : State :=
  let p := x.sqe.ps
  let r := s.passOf d x
  let at2 (k : Nat) : State := (s.jobStep d j 1 4).jobRepeat d j 2 4 k (mceExpected10 p)
  match (mceSet p).attempt ((mceSet p).deltaAt (s.seedOf d x) r) with
  | none => (at2 r).passDone d x false 0
  | some (sk, pub) =>
    ((((at2 (r - 1)).jobStep d j 3 4).jobStep d j 4 4).passDone d x true 0).newKey d j x 0xFFFF 0 (sk ++ sha3256 pub) pub pub r
      (s.vendorTime d x (x.sqe.pqTime r))

/-- KEM KEYGEN: the public key and the entry of the seed drawn for it. -/
def opKemKeygen (j : JobRef) (s : State) : State :=
  s.onOp j 0x1001 (fun x =>
    let p := x.sqe.ps
    if isMceliece p then s.mceKeygen j.die j.job x
    else
      let seed := s.seedOf j.die x
      let pub := fit (x.sqe.pubLen 0) (kemPub p seed)
      (s.passDone j.die x true 0).newKey j.die j.job x 0xFFFF 0 seed pub (entryOfPub 1 p pub) 1 (s.vendorTime j.die x (x.sqe.pqTime 1)))

/-- KEM_KEYGEN. -/
def execKemKeygen (j : JobRef) (s : State) : Host.Outcome State Fault Refusal := ret (opKemKeygen j s)

/-- Encapsulation to a public key with the bytes staged for it. -/
def State.encaps (s : State) (d j : Nat) (x : Job) (ek : List Byte) : State :=
  let p := x.sqe.ps
  let z := (kemSizes p).getD (0, 0, 0, 0)
  let rnd := s.stagedRandom d x
  let r := kemEncap p ek rnd
  (s.passDone d x true (encapRelease p ek rnd)).result d j stOk 0 (s.vendorTime d x (x.sqe.pqTime 1)) (fit z.2.1 r.1 ++ fit z.2.2.1 r.2)

/-- ENCAPS with a key named: a Classic McEliece public key is its KPC entry. -/
def opKemEncaps (j : JobRef) (s : State) : State :=
  s.onOp j 0x1002 (fun x =>
    let ek := if isMceliece x.sqe.ps then s.entryBytes j.die x else kemPub x.sqe.ps (s.jobSecret j.die x)
    s.encaps j.die j.job x (fit (x.sqe.pubLen 0) ek))

/-- KEM_ENCAPS. -/
def execKemEncaps (j : JobRef) (s : State) : Host.Outcome State Fault Refusal := ret (opKemEncaps j s)

/-- Every 12-bit coefficient of a byte string, two in three bytes, is below 3,329. -/
def kemReduced : List Byte → Bool
  | a :: b :: c :: rest => decide (a.toNat + 256 * (b.toNat % 16) < 3329) && decide (b.toNat / 16 + 16 * c.toNat < 3329) && kemReduced rest
  | _ => true

/-- The modulus check of FIPS 203 (R85): all of an ML-KEM encapsulation key but its last 32 bytes are reduced coefficients. PRESUMED (log 20). -/
def kemKeyOk (ek : List Byte) : Bool := kemReduced (ek.take (ek.length - 32))

/-- ENCAPS (EXT): an ML-KEM key must pass the modulus check. -/
def opKemEncapsExt (j : JobRef) (s : State) : State :=
  s.onOp j 0x1802 (fun x =>
    let ek := x.data.auxData.take (x.sqe.pubLen 0)
    if x.sqe.ps ≤ 3 ∧ !kemKeyOk ek then
      (s.passDone j.die x true 0).result j.die j.job stEncoding 0 (s.vendorTime j.die x (x.sqe.pqTime 1)) []
    else s.encaps j.die j.job x ek)

/-- KEM_ENCAPS_EXT. -/
def execKemEncapsExt (j : JobRef) (s : State) : Host.Outcome State Fault Refusal := ret (opKemEncapsExt j s)

/-- DECAPS: OK for every ciphertext, implicit rejection in the secret (R85, R262, R275). -/
def opKemDecaps (j : JobRef) (s : State) : State :=
  s.onOp j 0x1003 (fun x =>
    let p := x.sqe.ps
    let z := (kemSizes p).getD (0, 0, 0, 0)
    let sk := kemSecret p (s.jobSecret j.die x)
    let k := fit z.2.2.1 (kemDecap p sk (s.entryBytes j.die x) x.data.inData)
    (s.passDone j.die x true (kemRelease p sk x.data.inData (s.hitOf j.die x) s.freeCtr)).drawn.result j.die j.job stOk 0
      (s.vendorTime j.die x (x.sqe.pqTime 1)) k)

/-- KEM_DECAPS. -/
def execKemDecaps (j : JobRef) (s : State) : Host.Outcome State Fault Refusal := ret (opKemDecaps j s)

/-! ### Stateless signatures (R86, R87, R251, R263 to R269) -/

/-- Hypertree layers of an SLH-DSA set (R114). -/
def slhLayers (p : Nat) : Nat := [7, 22, 7, 22, 8, 17].getD (slhBase p - 0x11) 0

/-- The hash code of a pre-hashed message; 0 for a pure one. -/
def Sqe.preHash (e : Sqe) : Nat := if bit e.param 0 then e.par 4 4 else 0

/-- KEYGEN of ML-DSA and SLH-DSA: of SLH-DSA the top tree gives PK.root, and is the entry (R268). -/
def opSigKeygen (j : JobRef) (s : State) : State :=
  s.onOp j 0x2001 (fun x =>
    let p := x.sqe.ps
    let seed := s.seedOf j.die x
    let payload := if p ≤ 3 then seed else slhKey p seed
    let pub := fit (x.sqe.pubLen 0) (sigPub p payload)
    let s1 := if 0x11 ≤ p then s.jobSteps j.die j.job 2 else s
    (s1.passDone j.die x true 0).newKey j.die j.job x 0xFFFF 0 payload pub (if p ≤ 3 then entryOfPub 2 p pub else slhEntry p payload) 1
      (s.vendorTime j.die x (x.sqe.pqTime 1)))

/-- SIG_KEYGEN. -/
def execSigKeygen (j : JobRef) (s : State) : Host.Outcome State Fault Refusal := ret (opSigKeygen j s)

/-- The randomness of a signature: rnd or opt_rand, as staged or, DETERMINISTIC, zeros or PK.seed (R263, R267). -/
def State.sigRand (s : State) (d : Nat) (x : Job) (secret : List Byte) : List Byte :=
  let n := secret.length / 4
  if !bit x.sqe.param 1 then s.stagedRandom d x else if x.sqe.ps ≤ 3 then List.replicate 32 0 else slice secret (2 * n) n

/-- SIGN: the candidate of the pass (R263 to R265) or, of SLH-DSA, the signature (R267, R269). A candidate that FIPS 204 rejects leaves ACCEPT at 0; DETAIL gives the
repeat count of ML-DSA (R108). -/
def opSigSign (j : JobRef) (s : State) : State :=
  s.onOp j 0x2002 (fun x =>
    let e := x.sqe
    let r := s.passOf j.die x
    let sk := s.jobSecret j.die x
    let msg := sigMessage x.data.auxData e.preHash x.data.inData
    let rnd := s.sigRand j.die x sk
    let time := s.vendorTime j.die x (e.pqTime r)
    let size := ((sigSizes e.ps).getD (0, 0, 0)).2.1
    if e.ps ≤ 3 then
      let t := mldsaPass e.ps sk msg rnd r
      let s1 := (s.passDone j.die x (!t.rejected) (dsaRelease e.ps sk msg rnd r (s.hitOf j.die x) s.freeCtr)).drawn
      if t.rejected then s1 else s1.result j.die j.job stOk (BitVec.ofNat 32 r) time (fit size (t.bytes (dsaSet e.ps)))
    else
      ((s.jobSteps j.die j.job (slhLayers e.ps + 1)).passDone j.die x true (slhRelease e.ps sk msg rnd (s.hitOf j.die x) s.freeCtr)).drawn.result
        j.die j.job stOk 0 time (fit size (slhRun e.ps sk msg rnd).sig))

/-- SIG_SIGN. -/
def execSigSign (j : JobRef) (s : State) : Host.Outcome State Fault Refusal := ret (opSigSign j s)

/-- Verification under a public key and a context. -/
def State.sigCheck (s : State) (d j : Nat) (x : Job) (pk ctx : List Byte) : State :=
  let e := x.sqe
  let m := x.data.inData.length - e.sigLen 0
  let ok := sigVerify e.ps pk ctx e.preHash (x.data.inData.take m) (x.data.inData.drop m)
  (s.passDone d x true 0).result d j (if ok then stOk else stVerifyFail) 0 (s.vendorTime d x (e.pqTime 1)) []

/-- VERIFY with a key named. -/
def opSigVerify (j : JobRef) (s : State) : State :=
  s.onOp j 0x2003 (fun x => s.sigCheck j.die j.job x (fit (x.sqe.pubLen 0) (sigPub x.sqe.ps (s.jobSecret j.die x))) x.data.auxData)

/-- SIG_VERIFY. -/
def execSigVerify (j : JobRef) (s : State) : Host.Outcome State Fault Refusal := ret (opSigVerify j s)

/-- VERIFY (EXT): AUX is the public key, then the context (R76). -/
def opSigVerifyExt (j : JobRef) (s : State) : State :=
  s.onOp j 0x2803 (fun x => s.sigCheck j.die j.job x (x.data.auxData.take (x.sqe.pubLen 0)) (x.data.auxData.drop (x.sqe.pubLen 0)))

/-- SIG_VERIFY_EXT. -/
def execSigVerifyExt (j : JobRef) (s : State) : Host.Outcome State Fault Refusal := ret (opSigVerifyExt j s)

/-! ### Stateful signatures (R88, R89, R167, R168, R270 to R273) -/

/-- The lowest free counter record (R167). -/
def Bbram.freeCounter (b : Bbram) : Option Nat := (List.range 256).find? (fun i => (Assoc.get? b.counters i).isNone)

/-- A counter record is taken: with fewer than 16 left COUNTERS_LOW is set (R181). -/
def State.takeCounter (s : State) (i : Nat) (c : CounterRec) : State :=
  let s := { s with bbram := { s.bbram with counters := Assoc.set s.bbram.counters i c } }
  if 256 < s.bbram.counters.length + 16 then s.event 0 KVD 0 1 else s

/-- KEYGEN of a stateful key: a counter record with NEXT = 0 and END the leaf count. -/
def opStatefulKeygen (j : JobRef) (s : State) : State :=
  s.onOp j 0x3001 (fun x =>
    match stf? x.sqe.ps, (if s.counterFull x.src.inst then none else s.bbram.freeCounter) with
    | some t, some i =>
      let levels := x.sqe.par 32 4
      let seed := s.seedOf j.die x
      let stop := t.leaves levels
      let pub := fit (t.pub levels) (stfPub x.sqe.ps levels seed)
      let s1 := ((s.jobSteps j.die j.job (min 1024 (2 ^ t.h))).passDone j.die x true 0).takeCounter i ⟨keyIdOf x.sqe.ps levels seed, x.src.inst, 0, stop⟩
      s1.newKey j.die j.job x (BitVec.ofNat 16 i) stop seed pub (stfEntry x.sqe.ps levels seed 0) 1 (s.vendorTime j.die x (t.keygenTime levels))
    | _, _ => s.result j.die j.job stCounterQuota 0 0 [])

/-- STATEFUL_KEYGEN. -/
def execStatefulKeygen (j : JobRef) (s : State) : Host.Outcome State Fault Refusal := ret (opStatefulKeygen j s)

/-- SIGN with the leaf committed at dispatch: DETAIL gives the leaves left; the last one ends with STATEFUL_LAST (R89); a path that fails its check withholds the
signature (R273). -/
def opStatefulSign (j : JobRef) (s : State) : State :=
  s.onOp j 0x3002 (fun x =>
    match stf? x.sqe.ps, s.jobKey j.die x 0, x.data.leaf with
    | some t, some k, some leaf =>
      let stop := ((Assoc.get? s.bbram.counters k.hdr.counter.toNat).map CounterRec.stop).getD 0
      let levels := s.stfLevels t k
      let sig := fit (t.sig levels) (stfSign x.sqe.ps levels k.payload leaf x.data.inData)
      let left := stop - leaf - 1
      let time := t.signTime (stfSteps x.sqe.ps levels k.payload leaf x.data.inData) + msgTime t.hash x.data.inData.length
      (s.passDone j.die x true (stfRelease x.sqe.ps levels k.payload leaf (s.hitOf j.die x) s.freeCtr)).drawn.result j.die j.job
        (if left = 0 then stStatefulLast else stOk) (BitVec.ofNat 32 (min left 0xFFFFFFFF)) (s.vendorTime j.die x time) sig
    | _, _, _ => s)

/-- STATEFUL_SIGN. -/
def execStatefulSign (j : JobRef) (s : State) : Host.Outcome State Fault Refusal := ret (opStatefulSign j s)

/-- Verification of a stateful signature under a public key of so many levels: its time counts the chain steps already in it (R109). -/
def State.stfVerify (s : State) (d j : Nat) (x : Job) (t : Stf) (levels : Nat) (pk : List Byte) : State :=
  let m := x.sqe.par 0 32
  let r := stfCheck x.sqe.ps levels pk (x.data.inData.take m) (x.data.inData.drop m)
  let time := t.verifyTime levels r.2 + msgTime t.hash m
  (s.passDone d x true 0).result d j (if r.1 then stOk else stVerifyFail) 0 (s.vendorTime d x time) []

/-- VERIFY with a stateful key named. -/
def opStatefulVerify (j : JobRef) (s : State) : State :=
  s.onOp j 0x3003 (fun x =>
    match stf? x.sqe.ps, s.jobKey j.die x 0 with
    | some t, some k =>
      let levels := s.stfLevels t k
      s.stfVerify j.die j.job x t levels (fit (t.pub levels) (stfPub x.sqe.ps levels k.payload))
    | _, _ => s)

/-- STATEFUL_VERIFY. -/
def execStatefulVerify (j : JobRef) (s : State) : Host.Outcome State Fault Refusal := ret (opStatefulVerify j s)

/-- Levels that a public key of AUX names: the first word of an HSS key. -/
def Stf.pubLevels (t : Stf) (pk : List Byte) : Nat := if t.xmss ∨ pk.length = t.pub 1 then 1 else min 8 (max 1 (beNat (pk.take 4)))

/-- VERIFY (EXT) of a stateful signature. -/
def opStatefulVerifyExt (j : JobRef) (s : State) : State :=
  s.onOp j 0x3803 (fun x =>
    match stf? x.sqe.ps with
    | some t => s.stfVerify j.die j.job x t (t.pubLevels x.data.auxData) x.data.auxData
    | none => s)

/-- STATEFUL_VERIFY_EXT. -/
def execStatefulVerifyExt (j : JobRef) (s : State) : Host.Outcome State Fault Refusal := ret (opStatefulVerifyExt j s)

/-- A job that its operation ends at once: completed, and the queues of its die go on. -/
def State.endOp (s : State) (d j : Nat) (status : W16) (detail : W32) (etime : Nat) (out : List Byte) : State :=
  ((s.result d j status detail etime out).jobDone d j).pumpDie d

/-- REMAINING: END - NEXT of the key's counter record (R88, R168). -/
def opRemaining (j : JobRef) (s : State) : State :=
  s.onOp j 0x3004 (fun x =>
    match s.jobKey j.die x 0 with
    | none => s
    | some k =>
      match Assoc.get? s.bbram.counters k.hdr.counter.toNat with
      | some c =>
        if c.keyId = s.keyId k then s.endOp j.die j.job stOk 0 0 (leBytes 8 (c.stop - c.next))
        else (s.authFail j.die stKeyAuth).endOp j.die j.job stKeyAuth 0 0 []
      | none => (s.authFail j.die stKeyAuth).endOp j.die j.job stKeyAuth 0 0 [])

/-- REMAINING. -/
def execRemaining (j : JobRef) (s : State) : Host.Outcome State Fault Refusal := ret (opRemaining j s)

/-! ### Owner programs (R98, R193, R220) -/

/-- RUN: the program that has been loaded starts. -/
def opRunProgram (j : JobRef) (s : State) : State :=
  s.onOp j 0x8001 (fun x =>
    match x.engine with
    | .lve e => s.modDie j.die (fun y => { y with lves := y.lves.modify e (fun u =>
        if u.eng.phase = .loading ∧ u.eng.job = some j.job then { u with eng := { u.eng with phase := .running } } else u) })
    | _ => s)

/-- RUN. -/
def execRunProgram (j : JobRef) (s : State) : Host.Outcome State Fault Refusal := ret (opRunProgram j s)

end Sys2Proof.Machine
end

