-- ==== Sys2Proof/Machine/Rsa.lean ====
section
/-! DEFINITION. RSA (R83, R87, R104, R287, R299): the key material, prime generation, the private operation by CRT, and the encodings of PKCS #1 (RFC 8017). -/

namespace Sys2Proof.Machine

/-! ### Key material -/

/-- The inverse of a number modulo another by the extended Euclidean algorithm: (r0, t0), (r1, t1) with r = t·a. -/
def egcd (fuel : Nat) (m : Nat) (r0 : Nat) (t0 : Int) (r1 : Nat) (t1 : Int) : Option Nat :=
  match fuel with
  | 0 => none
  | fuel + 1 =>
    if r1 = 0 then (if r0 = 1 then some (t0 % (m : Int)).toNat else none)
    else egcd fuel m r1 t1 (r0 % r1) (t0 - (r0 / r1 : Nat) * t1)

/-- The inverse of `a` modulo `m`, where there is one. -/
def invGen? (a m : Nat) : Option Nat := egcd (2 * m.log2 + 4) m m 0 (a % m) 1

/-- A private key: p, q, d_p, d_q, q⁻¹ mod p, each half as long as the modulus (R158). -/
structure RsaKey where
  p : Nat
  q : Nat
  dp : Nat
  dq : Nat
  qinv : Nat
  deriving DecidableEq, Repr

/-- The key of a payload; `h` is the length of a prime in bytes. -/
def RsaKey.of (h : Nat) (b : List Byte) : RsaKey :=
  let f (i : Nat) : Nat := beNat (slice b (i * h) h)
  ⟨f 0, f 1, f 2, f 3, f 4⟩

/-- Its payload. -/
def RsaKey.bytes (h : Nat) (k : RsaKey) : List Byte := beBytes h k.p ++ beBytes h k.q ++ beBytes h k.dp ++ beBytes h k.dq ++ beBytes h k.qinv

/-- The modulus. -/
def RsaKey.n (k : RsaKey) : Nat := k.p * k.q

/-- The public exponent: the inverse of d_p modulo p - 1. -/
def RsaKey.e (k : RsaKey) : Nat := (invGen? k.dp (k.p - 1)).getD 0

/-- The public key (R90): n in k bytes, e in 4. -/
def RsaKey.pub (h : Nat) (k : RsaKey) : List Byte := beBytes (2 * h) k.n ++ beBytes 4 k.e

/-- The private operation by CRT with Garner recombination. -/
def RsaKey.priv (k : RsaKey) (c : Nat) : Nat :=
  let m1 := modExp c k.dp k.p
  let m2 := modExp c k.dq k.q
  m2 + k.q * (k.qinv * subMod m1 m2 k.p % k.p)

/-- The key of two primes and an exponent. -/
def rsaKeyOf (p q e : Nat) : RsaKey := ⟨p, q, (invGen? e (p - 1)).getD 0, (invGen? e (q - 1)).getD 0, (invGen? q p).getD 0⟩

/-! ### Primes (R299) -/

/-- Random bytes of the DRBG at a draw. -/
def drawAt (ctr n : Nat) : Nat := beNat (fit n (Config.drbg ctr n))

/-- The first of `rounds` Miller-Rabin rounds that p fails, with bases of the DRBG from a draw on. -/
def mrFails (p len ctr rounds : Nat) : Option Nat := (List.range rounds).find? (fun i => !millerRabin p (2 + drawAt (ctr + i) len % (p - 3)))

/-- A candidate of `h` bytes: its two top bits and its low bit set. -/
def candidate (ctr h : Nat) : Nat :=
  let x := drawAt ctr h % 2 ^ (8 * h - 2) + 3 * 2 ^ (8 * h - 2)
  x / 2 * 2 + 1

/-- An odd prime below 2^16 divides a number (any odd divisor says the same). -/
def smallFactor (n : Nat) : Bool := (List.range 32767).any (fun i => decide (n % (2 * i + 3) = 0))

/-- A candidate is taken as a prime of a key with exponent e; `other` is the first prime, from which the second one is far enough away. -/
def primeOk (c h e ctr : Nat) (other : Option Nat) : Bool :=
  !smallFactor c && decide (Nat.gcd (c - 1) e = 1) && (mrFails c h (ctr + 1) (Config.rsaRounds (16 * h))).isNone
    && (match other with
      | some p => decide (2 ^ (8 * h - 100) < p - c + (c - p))
      | none => true)

/-- The next prime: its value, the candidates tried, the draws used; none after 65,536 failures. -/
def findPrime (fuel ctr h e : Nat) (other : Option Nat) (tried : Nat) : Option (Nat × Nat × Nat) :=
  match fuel with
  | 0 => none
  | fuel + 1 =>
    let c := candidate ctr h
    let next := ctr + 1 + Config.rsaRounds (16 * h)
    if primeOk c h e ctr other then some (c, tried + 1, next) else findPrime fuel next h e other (tried + 1)

/-! ### Encodings (RFC 8017) -/

/-- DigestInfo of a HASH code and a digest. -/
def digestInfo (c : Nat) (d : List Byte) : List Byte :=
  let h := d.length
  [0x30#8, BitVec.ofNat 8 (17 + h), 0x30#8, 0x0d#8, 0x06#8, 0x09#8, 0x60#8, 0x86#8, 0x48#8, 0x01#8, 0x65#8, 0x03#8, 0x04#8, 0x02#8,
    BitVec.ofNat 8 ([1, 2, 3, 8, 9, 10].getD (c - 1) 0), 0x05#8, 0x00#8, 0x04#8, BitVec.ofNat 8 h] ++ d

/-- EMSA-PKCS1-v1_5 of a digest, in k bytes. -/
def emsaV15 (c k : Nat) (d : List Byte) : List Byte :=
  let t := digestInfo c d
  [0x00#8, 0x01#8] ++ List.replicate (k - t.length - 3) 0xFF#8 ++ [0x00#8] ++ t

/-- MGF1. -/
def mgf1 (c : Nat) (seed : List Byte) (n : Nat) : List Byte :=
  let h := (hashLen? c).getD 32
  ((List.range ((n + h - 1) / h)).flatMap (fun i => hashOf c (seed ++ beBytes 4 i))).take n

/-- Clear the top bit of an encoded message. -/
def clearTop (l : List Byte) : List Byte :=
  match l with
  | [] => []
  | b :: r => (b &&& 0x7F#8) :: r

/-- EMSA-PSS of a digest and a salt, in k bytes with the top bit clear. -/
def emsaPss (c k : Nat) (d salt : List Byte) : List Byte :=
  let h := hashOf c (List.replicate 8 0x00#8 ++ d ++ salt)
  let n := k - h.length - 1
  let db := List.replicate (n - salt.length - 1) 0x00#8 ++ [0x01#8] ++ salt
  clearTop (xorB db (mgf1 c h n)) ++ h ++ [0xBC#8]

/-- EMSA-PSS verification with a salt of a fixed length. -/
def pssOk (c k saltLen : Nat) (d em : List Byte) : Bool :=
  let hl := (hashLen? c).getD 32
  let n := k - hl - 1
  let h := slice em n hl
  let db := clearTop (xorB (em.take n) (mgf1 c h n))
  let salt := db.drop (n - saltLen)
  decide (em = emsaPss c k d salt)

/-- EME-OAEP encoding. -/
def oaepEncode (c k : Nat) (label seed msg : List Byte) : List Byte :=
  let lh := hashOf c label
  let db := lh ++ List.replicate (k - msg.length - 2 * lh.length - 2) 0x00#8 ++ [0x01#8] ++ msg
  let mdb := xorB db (mgf1 c seed (k - lh.length - 1))
  [0x00#8] ++ xorB seed (mgf1 c mdb lh.length) ++ mdb

/-- EME-OAEP decoding; none for every failure. -/
def oaepDecode (c : Nat) (label em : List Byte) : Option (List Byte) :=
  let lh := hashOf c label
  let hl := lh.length
  let mdb := em.drop (1 + hl)
  let seed := xorB (slice em 1 hl) (mgf1 c mdb hl)
  let db := xorB mdb (mgf1 c seed mdb.length)
  let rest := (db.drop hl).dropWhile (fun b => decide (b = 0x00#8))
  if em.take 1 = [0x00#8] ∧ db.take hl = lh ∧ rest.take 1 = [0x01#8] then some (rest.drop 1) else none

end Sys2Proof.Machine
end

