-- ==== Sys2Proof/Machine/OpsBne.lean ====
section
/-! DEFINITION. The operations of the BNE (R90 to R92, R104, R287 to R299): what each computes, with the flags of R290; the job ends with BNE_LEG_END. -/

namespace Sys2Proof.Machine

/-! ### Flags (R290, R291) -/

/-- A flag: its rank in the order of R291 (0 ENCODING_INVALID, 1 OPERAND_RANGE, 2 POINT_INVALID, 3 NOT_INVERTIBLE) and its DETAIL. -/
abbrev BneFlag := Nat × Nat

/-- The flag that decides: the first rank, its lowest DETAIL. -/
def firstFlag (fs : List BneFlag) : Option BneFlag :=
  fs.foldl (fun a f => match a with
    | none => some f
    | some b => if f.1 < b.1 ∨ (f.1 = b.1 ∧ f.2 < b.2) then some f else a) none

/-- The status of a rank. -/
def flagStatus (r : Nat) : W16 := [stEncoding, stOperandRange, stPointInvalid, stNotInvertible].getD r stMachineCheck

/-- A flag where a condition holds. -/
def flagIf (c : Bool) (rank detail : Nat) : List BneFlag := if c then [(rank, detail)] else []

/-- The result of a BNE job: what its flags say, else the program's own, after the same time (R292). -/
def State.bneResult (s : State) (d j : Nat) (fs : List BneFlag) (time : Nat) (status : W16) (out : List Byte) : State :=
  match firstFlag fs with
  | some f => s.result d j (flagStatus f.1) (BitVec.ofNat 32 f.2) time []
  | none => s.result d j status 0 time out

/-! ### Scalars and points -/

/-- The private key without the digest of its curve's record (R156). -/
def Sqe.ecKey (e : Sqe) (payload : List Byte) : List Byte := if e.slotCurve then payload.drop 32 else payload

/-- The private scalar of a job. -/
def State.scalar (s : State) (d : Nat) (x : Job) : Nat := beNat (x.sqe.ecKey (s.jobSecret d x))

/-- Engine time of a BNE job: the program's at the engine's map, and the digests' (R106, R110). -/
def State.bneTime (s : State) (d : Nat) (x : Job) : Nat := s.vendorTime d x (bneBase x.sqe.op x.sqe.ps x.curveBits) + x.digestPs

/-- The digest of a job's message. -/
def Sqe.digest (e : Sqe) (msg : List Byte) : List Byte := if e.prehashed then msg else hashOf e.hashCode msg

/-- A random scalar of 1 to n - 1 by the extra-random-bits method, from the next draw. -/
def State.randScalar (s : State) (n : Nat) : Nat :=
  let k := n.log2 + 65
  beNat (s.rand ((k + 7) / 8)) % 2 ^ k % (n - 1) + 1

/-- The checks of an encoded point (R104, R290). -/
def Curve.pointFlags (c : Curve) (b : List Byte) (off index : Nat) : List BneFlag :=
  let x := beNat (slice b 1 c.len)
  let y := beNat (slice b (1 + c.len) c.len)
  flagIf (b.getD 0 0 ≠ 0x04#8) 0 off ++ flagIf (decide (c.p ≤ x ∨ c.p ≤ y)) 1 index ++ flagIf (decide (x = 0 ∧ y = 0) || !c.on x y) 2 index

/-- A point that its checks have passed. -/
def Curve.point (c : Curve) (b : List Byte) : EcPoint := some (beNat (slice b 1 c.len), beNat (slice b (1 + c.len) c.len))

/-! ### Elliptic curves -/

/-- The public key of an EC private key (R90). -/
def ecPublic (ps : Nat) (c : Curve) (key : List Byte) : List Byte :=
  if ps = 4 ∨ ps = 5 then (montOf ps).apply key (montOf ps).base
  else if ps = 6 ∨ ps = 7 then (edOf ps).pub key
  else c.encode (c.mul (beNat key) c.g)

/-- EC_KEYGEN. -/
def opEcKeygen (j : JobRef) (s : State) : State :=
  s.onOp j 0x4001 (fun x =>
    let ps := x.sqe.ps
    let c := x.weier
    let l := x.curveBytes
    let key := if 4 ≤ ps ∧ ps ≤ 7 then s.rand l else beBytes l (s.randScalar c.n)
    let payload := if isSlotCurve ps then sha3256 x.data.entry ++ key else key
    s.drawn.newKey j.die j.job x 0xFFFF 0 payload (ecPublic ps c key) [] 1 (s.bneTime j.die x))

/-- EC_KEYGEN. -/
def execEcKeygen (j : JobRef) (s : State) : Host.Outcome State Fault Refusal := ret (opEcKeygen j s)

/-- ECDSA_SIGN. -/
def opEcdsaSign (j : JobRef) (s : State) : State :=
  s.onOp j 0x4002 (fun x =>
    let e := x.sqe
    let c := x.weier
    let dk := s.scalar j.die x
    let h := e.digest x.data.inData
    let det := bit e.param 5
    let k := if det then c.nonce e.hashCode dk h else s.randScalar c.n
    let sig := c.sign dk k (digestInt c h)
    let time := s.bneTime j.die x
    (s.bneResult j.die j.job (flagIf (decide (dk % c.n = 0)) 1 5) time stOk (beBytes c.len sig.1 ++ beBytes c.len sig.2)).drawn)

/-- ECDSA_SIGN. -/
def execEcdsaSign (j : JobRef) (s : State) : Host.Outcome State Fault Refusal := ret (opEcdsaSign j s)

/-- Verification of r ‖ s under a point that `fs` has checked. -/
def State.ecdsaCheck (s : State) (d j : Nat) (x : Job) (fs : List BneFlag) (q : EcPoint) : State :=
  let e := x.sqe
  let c := x.weier
  let m := x.data.inData.length - 2 * c.len
  let r := beNat (slice x.data.inData m c.len)
  let t := beNat (slice x.data.inData (m + c.len) c.len)
  let fs := fs ++ flagIf (decide (r = 0 ∨ c.n ≤ r)) 1 2 ++ flagIf (decide (t = 0 ∨ c.n ≤ t)) 1 3
  let ok := c.verify q (digestInt c (e.digest (x.data.inData.take m))) r t
  s.bneResult d j fs (s.bneTime d x) (if ok then stOk else stVerifyFail) []

/-- ECDSA_VERIFY. -/
def opEcdsaVerify (j : JobRef) (s : State) : State :=
  s.onOp j 0x4003 (fun x =>
    let c := x.weier
    let q := c.mul (s.scalar j.die x) c.g
    s.ecdsaCheck j.die j.job x (flagIf q.isNone 2 1) q)

/-- ECDSA_VERIFY. -/
def execEcdsaVerify (j : JobRef) (s : State) : Host.Outcome State Fault Refusal := ret (opEcdsaVerify j s)

/-- ECDSA_VERIFY (EXT): the point is AUX. -/
def opEcdsaVerifyExt (j : JobRef) (s : State) : State :=
  s.onOp j 0x4803 (fun x =>
    let c := x.weier
    s.ecdsaCheck j.die j.job x (c.pointFlags x.data.auxData 0 1) (c.point x.data.auxData))

/-- ECDSA_VERIFY_EXT. -/
def execEcdsaVerifyExt (j : JobRef) (s : State) : Host.Outcome State Fault Refusal := ret (opEcdsaVerifyExt j s)

/-- KEY_AGREE: cofactor Diffie-Hellman, or X25519 and X448. -/
def opKeyAgree (j : JobRef) (s : State) : State :=
  s.onOp j 0x4004 (fun x =>
    let time := s.bneTime j.die x
    if x.sqe.ps = 4 ∨ x.sqe.ps = 5 then
      let z := (montOf x.sqe.ps).apply (s.jobSecret j.die x) x.data.inData
      (s.bneResult j.die j.job (flagIf (z.all (fun b => decide (b = 0x00#8))) 2 4) time stOk z).drawn
    else
      let c := x.weier
      let dk := s.scalar j.die x
      let fs := c.pointFlags x.data.inData 0 2 ++ flagIf (decide (dk % c.n = 0)) 1 5
      let z := c.mul (c.h * dk) (c.point x.data.inData)
      let out := match z with | some (a, _) => beBytes c.len a | none => []
      (s.bneResult j.die j.job (fs ++ flagIf z.isNone 2 4) time stOk out).drawn)

/-- KEY_AGREE. -/
def execKeyAgree (j : JobRef) (s : State) : Host.Outcome State Fault Refusal := ret (opKeyAgree j s)

/-- EDDSA_SIGN: PREHASHED is Ed25519ph or Ed448ph. -/
def opEddsaSign (j : JobRef) (s : State) : State :=
  s.onOp j 0x4005 (fun x =>
    let e := x.sqe
    let sig := (edOf e.ps).sign e.prehashed (s.jobSecret j.die x) x.data.auxData x.data.inData
    (s.result j.die j.job stOk 0 (s.bneTime j.die x) sig).drawn)

/-- EDDSA_SIGN. -/
def execEddsaSign (j : JobRef) (s : State) : Host.Outcome State Fault Refusal := ret (opEddsaSign j s)

/-- EdDSA verification under a public key and a context. -/
def State.eddsaCheck (s : State) (d j : Nat) (x : Job) (pk ctx : List Byte) : State :=
  let e := x.sqe
  let m := x.data.inData.length - e.sigLen 0
  let ok := (edOf e.ps).verify e.prehashed pk ctx (x.data.inData.take m) (x.data.inData.drop m)
  s.result d j (if ok then stOk else stVerifyFail) 0 (s.bneTime d x) []

/-- EDDSA_VERIFY. -/
def opEddsaVerify (j : JobRef) (s : State) : State :=
  s.onOp j 0x4006 (fun x => s.eddsaCheck j.die j.job x ((edOf x.sqe.ps).pub (s.jobSecret j.die x)) x.data.auxData)

/-- EDDSA_VERIFY. -/
def execEddsaVerify (j : JobRef) (s : State) : Host.Outcome State Fault Refusal := ret (opEddsaVerify j s)

/-- EDDSA_VERIFY (EXT). -/
def opEddsaVerifyExt (j : JobRef) (s : State) : State :=
  s.onOp j 0x4806 (fun x =>
    let n := curveLen x.sqe.ps
    s.eddsaCheck j.die j.job x (x.data.auxData.take n) (x.data.auxData.drop n))

/-- EDDSA_VERIFY_EXT. -/
def execEddsaVerifyExt (j : JobRef) (s : State) : Host.Outcome State Fault Refusal := ret (opEddsaVerifyExt j s)

/-! ### Loaded curves (R92, R297, R298) -/

/-- A failed check of a curve record: its position, status and DETAIL. -/
abbrev CurveFail := Nat × W16 × Nat

/-- The round that n fails as a prime: none for a prime. -/
def primeFails (n len ctr : Nat) : Option Nat :=
  if n < 4 then (if n = 2 ∨ n = 3 then none else some 0) else if n % 2 = 0 then some 0 else (mrFails n len ctr 64).map (· + 1)

/-- The smallest k of 1 to 100 with p^k = 1 mod n. -/
def embedding (p n : Nat) : Option Nat := ((List.range 100).map (· + 1)).find? (fun k => decide (modExp p k n = 1 % n))

/-- The form check: the offset of the first field that fails. -/
def curveForm (c : Curve) (fieldBits : Nat) : Option Nat :=
  if c.p.log2 + 1 ≠ fieldBits ∨ c.p = 0 then some 0
  else if c.p ≤ c.a then some c.len
  else if c.p ≤ c.b then some (2 * c.len)
  else if c.p ≤ c.gx then some (3 * c.len)
  else if c.p ≤ c.gy then some (4 * c.len)
  else if c.h = 0 then some (6 * c.len)
  else none

/-- The seven checks of R297 in their order, with bases from the DRBG from a draw on. -/
def curveFail (c : Curve) (fieldBits ctr : Nat) : Option CurveFail :=
  match curveForm c fieldBits with
  | some o => some (1, stEncoding, o)
  | none =>
    match primeFails c.p c.len ctr with
    | some r => some (1, stCurvePrime, r)
    | none =>
      if (4 * c.a ^ 3 + 27 * c.b ^ 2) % c.p = 0 then some (2, stCurveSingular, 0)
      else if !c.on c.gx c.gy || decide (c.gx = 0 ∧ c.gy = 0) then some (3, stCurveGOff, 0)
      else if (primeFails c.n c.len (ctr + 64)).isSome then some (4, stCurveOrder, 1)
      else if (c.mul c.n c.g).isSome then some (4, stCurveOrder, 2)
      else
        let t : Int := c.p + 1 - c.h * c.n
        if 4 * (c.p : Int) < t * t then some (5, stCurveHasse, 0)
        else if c.n = c.p then some (6, stCurveAnomalous, 0)
        else match embedding c.p c.n with
          | some k => some (7, stCurveEmbedding, k)
          | none => none

/-- The KPC of every die with room for the pinned entry of a curve, when the slot's present curve goes; none where a die lacks the units. -/
def State.curveRoom (s : State) (n slot : Nat) (r : CurveRec) : Option State :=
  let t := s.modInst n (fun i => { i with curves := Assoc.erase i.curves slot })
  s.dieList.foldl (fun (a : Option State) d => a.bind (fun u =>
    (u.kpcRoom 5000 (u.inst n).cfg.kpcQ n (curveUnits r) (u.die d).kpc).map (fun q =>
      let v := u.modDie d (fun y => { y with kpc := q.1 })
      if q.2 = 0 then v else v.count d KPC 0 0x118 q.2))) (some t)

/-- CURVE_LOAD: a record that passes every check is committed on every die at once. -/
def opCurveLoad (j : JobRef) (s : State) : State :=
  s.onOp j 0x4007 (fun x =>
    let e := x.sqe
    let n := x.src.inst
    let slot := e.par 16 2
    let fail := curveFail (curveOf x.data.inData ((e.fieldBits + 7) / 8)) e.fieldBits s.freeCtr
    let time := min (curveLoadMax e.fieldBits) (Config.curveTime e.fieldBits ((fail.map Prod.fst).getD 8) s.freeCtr)
    let done : State := { s with freeCtr := s.freeCtr + 128 }
    match fail with
    | some f => ((List.range f.1).foldl (fun (t : State) i => t.jobStep j.die j.job (i + 1) 7) done).result j.die j.job f.2.1 (BitVec.ofNat 32 f.2.2) time []
    | none =>
      let r : CurveRec := ⟨e.fieldBits, x.data.inData⟩
      match done.curveRoom n slot r with
      | none => ((done.jobSteps j.die j.job 7).event j.die KPC 0 0).result j.die j.job stKpcQuota (BitVec.ofNat 32 (curveUnits r * 4096)) time []
      | some t =>
        ((t.modInst n (fun i => { i with curves := Assoc.set i.curves slot r })).jobSteps j.die j.job 7).result j.die j.job stOk 0 time [])

/-- CURVE_LOAD. -/
def execCurveLoad (j : JobRef) (s : State) : Host.Outcome State Fault Refusal := ret (opCurveLoad j s)

/-- CURVE_UNLOAD: the entries go on every die. -/
def opCurveUnload (j : JobRef) (s : State) : State :=
  s.onOp j 0x4008 (fun x =>
    let n := x.src.inst
    let slot := x.sqe.par 16 2
    let time := Config.opTime x.sqe.prog s.freeCtr
    let s : State := { s with freeCtr := s.freeCtr + 1 }
    if (Assoc.get? (s.inst n).curves slot).isNone then s.result j.die j.job stCurveNotLoaded (BitVec.ofNat 32 slot) time []
    else (s.modInst n (fun i => { i with curves := Assoc.erase i.curves slot })).result j.die j.job stOk 0 time [])

/-- CURVE_UNLOAD. -/
def execCurveUnload (j : JobRef) (s : State) : Host.Outcome State Fault Refusal := ret (opCurveUnload j s)

/-! ### RSA -/

/-- The RSA key of a job. -/
def State.rsaKey (s : State) (d : Nat) (x : Job) : RsaKey := RsaKey.of (x.sqe.rsaK / 2) (s.jobSecret d x)

/-- Candidates that an RSA prime of `h` bytes is expected to take, in tenths (R113). -/
def rsaExpected10 (h : Nat) : Nat := 10 * ((347 * 8 * h + 999) / 1000)

/-- RSA_KEYGEN has tried `n` candidates for its first or second prime (R113, R114). -/
def State.rsaTried (s : State) (d j h step n : Nat) : State := (s.jobStep d j step 5).jobRepeat d j step 5 n (rsaExpected10 h)

/-- RSA_KEYGEN: two primes by the search of R299; 65,536 failures for one prime end with KEYGEN_LIMIT. Its time follows from the candidates tried (R110). -/
def opRsaKeygen (j : JobRef) (s : State) : State :=
  s.onOp j 0x4010 (fun x =>
    let h := x.sqe.rsaK / 2
    let e := if x.sqe.par 32 32 = 0 then 65537 else x.sqe.par 32 32
    let time (n : Nat) : Nat := Config.rsaKeygenTime h n
    match findPrime 65536 (s.freeCtr + 1) h e none 0 with
    | none => ((s.drawn.rsaTried j.die j.job h 1 65536).result j.die j.job stKeygenLimit 0 (time 65536) [])
    | some (p, n1, ctr) =>
      let s1 := ({ s with freeCtr := ctr } : State).rsaTried j.die j.job h 1 n1
      match findPrime 65536 ctr h e (some p) 0 with
      | none => (s1.rsaTried j.die j.job h 2 65536).result j.die j.job stKeygenLimit 0 (time (n1 + 65536)) []
      | some (q, n2, ctr2) =>
        let k := rsaKeyOf p q e
        let s2 := ({ s1 with freeCtr := ctr2 } : State).rsaTried j.die j.job h 2 n2
        (((s2.jobStep j.die j.job 3 5).jobStep j.die j.job 4 5).jobStep j.die j.job 5 5).newKey j.die j.job x 0xFFFF 0 (k.bytes h) (k.pub h) [] (n1 + n2)
          (time (n1 + n2)))

/-- RSA_KEYGEN. -/
def execRsaKeygen (j : JobRef) (s : State) : Host.Outcome State Fault Refusal := ret (opRsaKeygen j s)

/-- Steps of a long private operation (R114). -/
def State.rsaSteps (s : State) (d j : Nat) (x : Job) : State := if 3 ≤ rsaCol x.sqe.rsaK then s.jobSteps d j 3 else s

/-- The base-blinding value shares a factor with n (R290, R291). -/
def State.blindFlag (s : State) (n k : Nat) : List BneFlag := flagIf (decide (Nat.gcd (beNat (s.drawn.rand k) % n) n ≠ 1)) 3 6

/-- RSA_SIGN: PKCS #1 v1.5 or PSS. -/
def opRsaSign (j : JobRef) (s : State) : State :=
  s.onOp j 0x4011 (fun x =>
    let e := x.sqe
    let k := e.rsaK
    let key := s.rsaKey j.die x
    let h := e.digest x.data.inData
    let em := if bit e.param 6 then emsaPss e.hashCode k h (s.rand (e.par 8 8)) else emsaV15 e.hashCode k h
    let t := s.rsaSteps j.die j.job x
    (t.bneResult j.die j.job (s.blindFlag key.n k) (s.bneTime j.die x) stOk (beBytes k (key.priv (beNat em)))).drawn.drawn)

/-- RSA_SIGN. -/
def execRsaSign (j : JobRef) (s : State) : Host.Outcome State Fault Refusal := ret (opRsaSign j s)

/-- The checks of an RSA public key of an EXT operation (R290): n even or short, e even or below 3, at their offsets. -/
def rsaPubFlags (k n e : Nat) : List BneFlag :=
  flagIf (decide (n % 2 = 0 ∨ n < 2 ^ (8 * k - 1))) 0 0 ++ flagIf (decide (e % 2 = 0 ∨ e < 3)) 0 k

/-- RSA verification under n and e. -/
def State.rsaCheck (s : State) (d j : Nat) (x : Job) (fs : List BneFlag) (n ex : Nat) : State :=
  let e := x.sqe
  let k := e.rsaK
  let m := x.data.inData.length - k
  let sg := beNat (x.data.inData.drop m)
  let h := e.digest (x.data.inData.take m)
  let em := beBytes k (modExp sg ex n)
  let ok := if bit e.param 6 then pssOk e.hashCode k (e.par 8 8) h em else decide (em = emsaV15 e.hashCode k h)
  s.bneResult d j (fs ++ flagIf (decide (n ≤ sg)) 1 2) (s.bneTime d x) (if ok then stOk else stVerifyFail) []

/-- RSA_VERIFY. -/
def opRsaVerify (j : JobRef) (s : State) : State :=
  s.onOp j 0x4012 (fun x => s.rsaCheck j.die j.job x [] (s.rsaKey j.die x).n (s.rsaKey j.die x).e)

/-- RSA_VERIFY. -/
def execRsaVerify (j : JobRef) (s : State) : Host.Outcome State Fault Refusal := ret (opRsaVerify j s)

/-- n and e of AUX. -/
def Job.rsaPub (x : Job) : Nat × Nat := (beNat (x.data.auxData.take x.sqe.rsaK), beNat (slice x.data.auxData x.sqe.rsaK 4))

/-- RSA_VERIFY (EXT). -/
def opRsaVerifyExt (j : JobRef) (s : State) : State :=
  s.onOp j 0x4812 (fun x => s.rsaCheck j.die j.job x (rsaPubFlags x.sqe.rsaK x.rsaPub.1 x.rsaPub.2) x.rsaPub.1 x.rsaPub.2)

/-- RSA_VERIFY_EXT. -/
def execRsaVerifyExt (j : JobRef) (s : State) : Host.Outcome State Fault Refusal := ret (opRsaVerifyExt j s)

/-- RSA-OAEP encryption under n and e with a label. -/
def State.rsaSeal (s : State) (d j : Nat) (x : Job) (fs : List BneFlag) (n ex : Nat) (label : List Byte) : State :=
  let k := x.sqe.rsaK
  let em := oaepEncode x.sqe.hashCode k label (s.rand ((hashLen? x.sqe.hashCode).getD 32)) x.data.inData
  (s.bneResult d j fs (s.bneTime d x) stOk (beBytes k (modExp (beNat em) ex n))).drawn

/-- RSA_ENCRYPT. -/
def opRsaEncrypt (j : JobRef) (s : State) : State :=
  s.onOp j 0x4013 (fun x => s.rsaSeal j.die j.job x [] (s.rsaKey j.die x).n (s.rsaKey j.die x).e x.data.auxData)

/-- RSA_ENCRYPT. -/
def execRsaEncrypt (j : JobRef) (s : State) : Host.Outcome State Fault Refusal := ret (opRsaEncrypt j s)

/-- RSA_ENCRYPT (EXT): n, e and the label are AUX. -/
def opRsaEncryptExt (j : JobRef) (s : State) : State :=
  s.onOp j 0x4813 (fun x => s.rsaSeal j.die j.job x (rsaPubFlags x.sqe.rsaK x.rsaPub.1 x.rsaPub.2) x.rsaPub.1 x.rsaPub.2 (x.data.auxData.drop (x.sqe.rsaK + 4)))

/-- RSA_ENCRYPT_EXT. -/
def execRsaEncryptExt (j : JobRef) (s : State) : Host.Outcome State Fault Refusal := ret (opRsaEncryptExt j s)

/-- RSA_DECRYPT: every failure of the decoding ends with DECRYPT_ERROR (R104). -/
def opRsaDecrypt (j : JobRef) (s : State) : State :=
  s.onOp j 0x4014 (fun x =>
    let e := x.sqe
    let k := e.rsaK
    let key := s.rsaKey j.die x
    let c := beNat x.data.inData
    let fs := flagIf (decide (key.n ≤ c)) 1 2 ++ s.blindFlag key.n k
    let t := s.rsaSteps j.die j.job x
    let r := oaepDecode e.hashCode x.data.auxData (beBytes k (key.priv c))
    (t.bneResult j.die j.job fs (s.bneTime j.die x) (if r.isSome then stOk else stDecryptError) (r.getD [])).drawn.drawn)

/-- RSA_DECRYPT. -/
def execRsaDecrypt (j : JobRef) (s : State) : Host.Outcome State Fault Refusal := ret (opRsaDecrypt j s)

end Sys2Proof.Machine
end

