-- ==== Sys2Proof/Machine/OpsHybrid.lean ====
section
/-! DEFINITION. The hybrid composites (R101 to R103): the post-quantum part of a job runs on its LVE, and the classical part beside it; the job ends with END. -/

namespace Sys2Proof.Machine

/-! ### The parts of a composite (R101) -/

/-- Length of the post-quantum private part: the seed (R104). -/
def hybSeed (ps : Nat) : Nat := if hybKem ps then 64 else 32

/-- Length of the post-quantum public key. -/
def hybPub (ps : Nat) : Nat :=
  if hybKem ps then ((kemSizes (hybPq ps)).getD (0, 0, 0, 0)).1 else ((sigSizes (hybPq ps)).getD (0, 0, 0)).1

/-- Length of the post-quantum ciphertext or signature. -/
def hybOut (ps : Nat) : Nat :=
  if hybKem ps then ((kemSizes (hybPq ps)).getD (0, 0, 0, 0)).2.1 else ((sigSizes (hybPq ps)).getD (0, 0, 0)).2.1

/-- The short-Weierstrass curve of a composite; P-256 stands where the classical part is X25519. -/
def hybWeier (ps : Nat) : Curve := (namedCurve? (hybCurve ps)).getD curveP256

/-- A new classical private key. -/
def State.hybKey (s : State) (ps : Nat) : List Byte :=
  if hybCurve ps = 4 then s.rand 32 else beBytes (hybWeier ps).len (s.randScalar (hybWeier ps).n)

/-- The post-quantum public key of a composite's payload. -/
def hybPqPublic (ps : Nat) (payload : List Byte) : List Byte :=
  let seed := payload.take (hybSeed ps)
  fit (hybPub ps) (if hybKem ps then kemPub (hybPq ps) seed else sigPub (hybPq ps) seed)

/-- The public key of a composite's payload: the post-quantum key, then the classical one. -/
def hybPublic (ps : Nat) (payload : List Byte) : List Byte :=
  hybPqPublic ps payload ++ ecPublic (hybCurve ps) (hybWeier ps) (payload.drop (hybSeed ps))

/-- Engine time of a composite: its parts run alongside (R102, R251), so the longer of the two. DEDUCED (log 49). -/
def State.hybTime (s : State) (d : Nat) (x : Job) (passes : Nat) : Nat := max (s.vendorTime d x (x.sqe.hybLve passes)) (x.sqe.hybBne + x.digestPs)

/-! ### Key generation -/

/-- HYBRID_KEYGEN. -/
def opHybridKeygen (j : JobRef) (s : State) : State :=
  s.onOp j 0x9001 (fun x =>
    let ps := x.sqe.ps
    let payload := s.seedOf j.die x ++ s.hybKey ps
    (s.drawn.passDone j.die x true 0).newKey j.die j.job x 0xFFFF 0 payload (hybPublic ps payload)
      (entryOfPub (if hybKem ps then 1 else 2) (hybPq ps) (hybPqPublic ps payload)) 1 (s.hybTime j.die x 1))

/-- HYBRID_KEYGEN. -/
def execHybridKeygen (j : JobRef) (s : State) : Host.Outcome State Fault Refusal := ret (opHybridKeygen j s)

/-! ### Key encapsulation (R102) -/

/-- The classical secret shared with a peer's value under a private key; none where the value is invalid. -/
def hybShared (ps : Nat) (key peer : List Byte) : Option (List Byte) :=
  if hybCurve ps = 4 then
    let z := mont25519.apply key peer
    if z.all (fun b => decide (b = 0x00#8)) then none else some z
  else
    let c := hybWeier ps
    match c.mul (c.h * beNat key) (c.point peer) with
    | some (x, _) => some (beBytes c.len x)
    | none => none

/-- The flags of a peer's value: those of its encoding and its point. -/
def hybFlags (ps : Nat) (peer : List Byte) (off index : Nat) : List BneFlag :=
  if hybCurve ps = 4 then [] else (hybWeier ps).pointFlags peer off index

/-- The combined output (R102). -/
def hybCombine (kdf_ : Bool) (pq ec ct pk : List Byte) : List Byte :=
  if kdf_ then sha3256 (pq ++ ec ++ ct ++ pk ++ ascii "VQHKEM") else pq ++ ec

/-- Encapsulation to a composite public key; `ext` for one that came in AUX, whose parts are checked. -/
def State.hybEncaps (s : State) (d j : Nat) (x : Job) (pk : List Byte) (ext : Bool) : State :=
  let ps := x.sqe.ps
  let ek := pk.take (hybPub ps)
  let pkEc := pk.drop (hybPub ps)
  let time := s.hybTime d x 1
  let r := kemEncap (hybPq ps) ek (s.stagedRandom d x)
  let s1 := s.passDone d x true 0
  let own := s1.hybKey ps
  let share := ecPublic (hybCurve ps) (hybWeier ps) own
  let bad := flagIf (ext && !kemKeyOk ek) 0 0 ++ hybFlags ps pkEc (hybPub ps) 1
  let z := hybShared ps own pkEc
  match firstFlag (if bad = [] then flagIf z.isNone 2 4 else bad) with
  | some f => s1.drawn.result d j (flagStatus f.1) (BitVec.ofNat 32 f.2) time []
  | none =>
    s1.drawn.result d j stOk 0 time (fit (hybOut ps) r.1 ++ share ++ hybCombine (decide (x.sqe.par 0 2 = 1)) (fit 32 r.2) (z.getD []) share pkEc)

/-- HYBRID_ENCAPS with a key named. -/
def opHybridEncaps (j : JobRef) (s : State) : State :=
  s.onOp j 0x9002 (fun x => s.hybEncaps j.die j.job x (hybPublic x.sqe.ps (s.jobSecret j.die x)) false)

/-- HYBRID_ENCAPS. -/
def execHybridEncaps (j : JobRef) (s : State) : Host.Outcome State Fault Refusal := ret (opHybridEncaps j s)

/-- HYBRID_ENCAPS (EXT). -/
def opHybridEncapsExt (j : JobRef) (s : State) : State :=
  s.onOp j 0x9802 (fun x => s.hybEncaps j.die j.job x (x.data.auxData.take (x.sqe.pubLen 0)) true)

/-- HYBRID_ENCAPS_EXT. -/
def execHybridEncapsExt (j : JobRef) (s : State) : Host.Outcome State Fault Refusal := ret (opHybridEncapsExt j s)

/-- HYBRID_DECAPS: implicit rejection for the ML-KEM part; a classical share that is invalid in any way fails the job with POINT_INVALID (R102). -/
def opHybridDecaps (j : JobRef) (s : State) : State :=
  s.onOp j 0x9003 (fun x =>
    let ps := x.sqe.ps
    let payload := s.jobSecret j.die x
    let key := payload.drop (hybSeed ps)
    let ct := x.data.inData.drop (hybOut ps)
    let pq := fit 32 (kemDecap (hybPq ps) (payload.take (hybSeed ps)) [] (x.data.inData.take (hybOut ps)))
    let time := s.hybTime j.die x 1
    let z := hybShared ps key ct
    let s := (s.passDone j.die x true (kemRelease (hybPq ps) (payload.take (hybSeed ps)) (x.data.inData.take (hybOut ps)) (s.hitOf j.die x) s.freeCtr)).drawn
    if hybFlags ps ct 0 2 ≠ [] then s.result j.die j.job stPointInvalid 2 time []
    else match z with
      | none => s.result j.die j.job stPointInvalid 4 time []
      | some ec =>
        s.result j.die j.job stOk 0 time (hybCombine (decide (x.sqe.par 0 2 = 1)) pq ec ct (ecPublic (hybCurve ps) (hybWeier ps) key)))

/-- HYBRID_DECAPS. -/
def execHybridDecaps (j : JobRef) (s : State) : Host.Outcome State Fault Refusal := ret (opHybridDecaps j s)

/-! ### Signatures (R103) -/

/-- The integer that the ECDSA part signs. -/
def hybDigest (ps : Nat) (msg : List Byte) : Nat := digestInt (hybWeier ps) (hashOf (hybHash ps) msg)

/-- HYBRID_SIGN: both parts sign the same message; DETAIL gives the repeat count of ML-DSA. -/
def opHybridSign (j : JobRef) (s : State) : State :=
  s.onOp j 0x9004 (fun x =>
    let e := x.sqe
    let c := hybWeier e.ps
    let r := s.passOf j.die x
    let payload := s.jobSecret j.die x
    let msg := x.data.inData
    let rnd := if bit e.param 1 then List.replicate 32 0 else s.stagedRandom j.die x
    let pre := sigMessage x.data.auxData e.preHash msg
    let t := mldsaPass (hybPq e.ps) (payload.take 32) pre rnd r
    let s1 := (s.passDone j.die x (!t.rejected) (dsaRelease (hybPq e.ps) (payload.take 32) pre rnd r (s.hitOf j.die x) s.freeCtr)).drawn
    if t.rejected then s1
    else
      let ec := c.sign (beNat (payload.drop 32)) (s1.randScalar c.n) (hybDigest e.ps msg)
      s1.drawn.result j.die j.job stOk (BitVec.ofNat 32 r) (s.hybTime j.die x r)
        (fit (hybOut e.ps) (t.bytes (dsaSet (hybPq e.ps))) ++ beBytes c.len ec.1 ++ beBytes c.len ec.2))

/-- HYBRID_SIGN. -/
def execHybridSign (j : JobRef) (s : State) : Host.Outcome State Fault Refusal := ret (opHybridSign j s)

/-- Verification of both parts under a composite public key and a context. -/
def State.hybVerify (s : State) (d j : Nat) (x : Job) (pk ctx : List Byte) : State :=
  let e := x.sqe
  let c := hybWeier e.ps
  let n := x.data.inData.length - e.sigLen 0
  let msg := x.data.inData.take n
  let sig := x.data.inData.drop n
  let okPq := sigVerify (hybPq e.ps) (pk.take (hybPub e.ps)) ctx e.preHash msg (sig.take (hybOut e.ps))
  let q := pk.drop (hybPub e.ps)
  let r := beNat (slice sig (hybOut e.ps) c.len)
  let t := beNat (slice sig (hybOut e.ps + c.len) c.len)
  let okEc := (c.pointFlags q 0 1).isEmpty && decide (1 ≤ r ∧ r < c.n ∧ 1 ≤ t ∧ t < c.n) && c.verify (c.point q) (hybDigest e.ps msg) r t
  (s.passDone d x true 0).result d j (if okPq && okEc then stOk else stVerifyFail) (BitVec.ofNat 32 (b2n (!okPq) + 2 * b2n (!okEc))) (s.hybTime d x 1) []

/-- HYBRID_VERIFY with a key named. -/
def opHybridVerify (j : JobRef) (s : State) : State :=
  s.onOp j 0x9005 (fun x => s.hybVerify j.die j.job x (hybPublic x.sqe.ps (s.jobSecret j.die x)) x.data.auxData)

/-- HYBRID_VERIFY. -/
def execHybridVerify (j : JobRef) (s : State) : Host.Outcome State Fault Refusal := ret (opHybridVerify j s)

/-- HYBRID_VERIFY (EXT): AUX is the public key, then the context. -/
def opHybridVerifyExt (j : JobRef) (s : State) : State :=
  s.onOp j 0x9805 (fun x => s.hybVerify j.die j.job x (x.data.auxData.take (x.sqe.pubLen 0)) (x.data.auxData.drop (x.sqe.pubLen 0)))

/-- HYBRID_VERIFY_EXT. -/
def execHybridVerifyExt (j : JobRef) (s : State) : Host.Outcome State Fault Refusal := ret (opHybridVerifyExt j s)

end Sys2Proof.Machine
end

