-- ==== Sys2Proof/Machine/RngRows.lean ====
section
/-! DEFINITION. The random number generator of a die (R318 to R322, R326): conditioning, the DRBG's requests and reseeds, the masking feed, and the
failures of the noise source. -/

namespace Sys2Proof.Machine

/-- Change the RNG of a die. -/
def State.modRng (s : State) (d : Nat) (f : Rng → Rng) : State := s.modDie d (fun y => { y with rng := f y.rng })

/-- CONDITIONING_DONE (R319): another block in the pool, which holds four. -/
def opConditioningDone (d : Nat) (s : State) : State :=
  let r := (s.die d).rng
  if r.noiseOk ∧ !r.recovering ∧ !r.disabled ∧ r.pool < 4 then s.modRng d (fun r => { r with pool := r.pool + 1 }) else s

/-- CONDITIONING_DONE. -/
def execConditioningDone (d : Nat) (s : State) : Host.Outcome State Fault Refusal := ret (opConditioningDone d s)

/-- DRBG_REQUEST (R320): a consumer's draw of at most 65,536 bytes. -/
def opDrbgRequest (d bytes : Nat) (s : State) : State :=
  if 1 ≤ bytes ∧ bytes ≤ 65536 ∧ d < s.nDies ∧ (s.die d).rng.asked false = .serves then (s.countDraw d).drawn else s

/-- DRBG_REQUEST. -/
def execDrbgRequest (d bytes : Nat) (s : State) : Host.Outcome State Fault Refusal := ret (opDrbgRequest d bytes s)

/-- A reseed of the DRBG from the pool. -/
def State.drbgReseed (s : State) (d : Nat) : State := (s.modRng d (fun r => { r with pool := r.pool - 1, reqs := 0 })).count d RNG 0 0x10C

/-- DRBG_RESEED_DUE (R320): after 2^20 requests, before the next is served. -/
def opDrbgReseedDue (d : Nat) (s : State) : State :=
  let r := (s.die d).rng
  if r.drbgReady ∧ !r.disabled ∧ !r.recovering ∧ 2 ^ 20 ≤ r.reqs ∧ 1 ≤ r.pool then (s.drbgReseed d).pumpDie d else s

/-- DRBG_RESEED_DUE. -/
def execDrbgReseedDue (d : Nat) (s : State) : Host.Outcome State Fault Refusal := ret (opDrbgReseedDue d s)

/-! ### The masking feed (R321) -/

/-- Bytes in the masking buffer of a consumer: LVE 0 to 15, SYE 16 and 17. -/
def Die.maskBuf (x : Die) (i : Nat) : Nat :=
  if i < 16 then ((x.lves[i]?).map (fun u => u.svc.maskBuf)).getD 4096 else ((x.syes[i - 16]?).map (fun u => u.svc.maskBuf)).getD 4096

/-- Add to a masking buffer, which holds 4 KiB. -/
def Die.addMask (x : Die) (i n : Nat) : Die :=
  if i < 16 then { x with lves := x.lves.modify i (fun u => { u with svc := { u.svc with maskBuf := min 4096 (u.svc.maskBuf + n) } }) }
  else { x with syes := x.syes.modify (i - 16) (fun u => { u with svc := { u.svc with maskBuf := min 4096 (u.svc.maskBuf + n) } }) }

/-- Output of the feed between two reseeds. -/
def feedLimit : Nat := 8 * 2 ^ 20

/-- FEED_GRANT: 64 bytes to the next buffer below its level. -/
def opFeedGrant (d : Nat) (s : State) : State :=
  let x := s.die d
  let r := x.rng
  if !r.feedRun ∨ feedLimit ≤ r.feedBytes ∨ s.nDies ≤ d then s
  else match ((List.range 18).map (fun k => (r.feedLast + 1 + k) % 18)).find? (fun i => decide (x.maskBuf i < 4096)) with
    | none => s
    | some i =>
      let k := r.feedFrac + 64
      let s := s.modDie d (fun y => { y.addMask i 64 with rng := { r with feedBytes := r.feedBytes + 64, feedFrac := k % 1024, feedLast := i } })
      if 1024 ≤ k then s.count d RNG 0 0x114 else s

/-- FEED_GRANT. -/
def execFeedGrant (d : Nat) (s : State) : Host.Outcome State Fault Refusal := ret (opFeedGrant d s)

/-- The feed absorbs 32 bytes from the DRBG, one request. -/
def State.feedSeed (s : State) (d : Nat) : State :=
  ((s.modRng d (fun r => { r with reqs := r.reqs + 1, feedBytes := 0, feedRun := true })).count d RNG 0 0x118).drawn

/-- FEED_RESEED: due at start and after 8 MiB; during a recovery the feed stops (R322). -/
def opFeedReseed (d : Nat) (s : State) : State :=
  let r := (s.die d).rng
  if d < s.nDies ∧ (feedLimit ≤ r.feedBytes ∨ !r.feedRun) ∧ r.drbgReady ∧ !r.disabled then
    (if r.recovering then s.modRng d (fun r => { r with feedRun := false })
    else if r.asked false = .serves then s.feedSeed d else s)
  else s

/-- FEED_RESEED. -/
def execFeedReseed (d : Nat) (s : State) : Host.Outcome State Fault Refusal := ret (opFeedReseed d s)

/-! ### Noise-source failures (R318, R322) -/

/-- HEALTH_TEST_FAIL: of the repetition count test, or of the adaptive proportion test. The pool is discarded and the start-up tests rerun; a failure during
them counts as START-UP. At SEVERE the generator is disabled. -/
def opHealthTestFail (d stream : Nat) (rct : Bool) (s : State) : State :=
  let r := (s.die d).rng
  if 8 ≤ stream ∨ s.nDies ≤ d ∨ r.disabled ∨ (!r.noiseOk ∧ !r.recovering) then s
  else
    let s := (s.modRng d (fun r => { r with noiseOk := false, recovering := true, pool := 0 })).event d RNG 0 0
    ((s.count d RNG 0 (if rct then 0x104 else 0x108)).faultAct d (if r.recovering then 562 else if rct then 560 else 561)).pumpDie d

/-- HEALTH_TEST_FAIL. -/
def execHealthTestFail (d stream : Nat) (rct : Bool) (s : State) : Host.Outcome State Fault Refusal := ret (opHealthTestFail d stream rct s)

/-- STARTUP_TESTS_PASS: the pool is refilled, the DRBG instantiated again from two of its blocks, the feed reseeded; service resumes. -/
def opStartupTestsPass (d : Nat) (s : State) : State :=
  let r := (s.die d).rng
  if r.recovering ∧ !r.disabled then
    ((((s.modRng d (fun r => { r with noiseOk := true, recovering := false, drbgReady := true, pool := 2, reqs := 0 })).feedSeed d).event d RNG 0 1)).pumpDie d
  else s

/-- STARTUP_TESTS_PASS. -/
def execStartupTestsPass (d : Nat) (s : State) : Host.Outcome State Fault Refusal := ret (opStartupTestsPass d s)

end Sys2Proof.Machine
end

