-- ==== Sys2Proof/Machine/OpsSye.lean ====
section
/-! DEFINITION. The operations of the SYE (R93 to R95, R304 to R314): encryption, decryption, MACs and hashes; and those of the RNG (R97, R320, R322): RANDOM
and RESEED. -/

namespace Sys2Proof.Machine

/-- An SYE operation on its job, once all of its input is staged. -/
def State.onSym (s : State) (j : JobRef) (op : Nat) (f : Job → State) : State :=
  s.onOp j op (fun x => if x.failed.isNone ∧ x.data.inData.length ≠ x.sqe.inLen.toNat then s else f x)

/-- ENCRYPT of a mode (R94, R95). -/
def symSeal (e : Sqe) (key aux pt iv : List Byte) : List Byte :=
  let nonce := aux.take 12
  match e.mode with
  | 1 => cbcEnc key aux pt
  | 2 => ctrMode key aux pt
  | 3 =>
    let gen := bit e.param 0
    let r := if gen then gcmSeal key iv aux pt else gcmSeal key nonce (aux.drop 12) pt
    (if gen then iv else []) ++ r.1 ++ r.2.take e.tagLen
  | 4 => xtsMode true key aux pt
  | 5 => kwWrap key pt
  | 6 => kwpWrap key pt
  | _ => sivSeal key nonce (aux.drop 12) pt

/-- ENCRYPT: with GEN_IV the IV is drawn and written before the ciphertext. -/
def opEncrypt (j : JobRef) (s : State) : State :=
  s.onSym j 0x5001 (fun x =>
    (s.result j.die j.job stOk 0 x.span (symSeal x.sqe (s.jobSecret j.die x) x.data.auxData x.data.inData (s.rand 12))).drawn)

/-- ENCRYPT. -/
def execEncrypt (j : JobRef) (s : State) : Host.Outcome State Fault Refusal := ret (opEncrypt j s)

/-- DECRYPT of a mode; none where it does not authenticate. -/
def symOpen (e : Sqe) (key aux ct : List Byte) : Option (List Byte) :=
  let nonce := aux.take 12
  let aad := aux.drop 12
  match e.mode with
  | 1 => some (cbcDec key aux ct)
  | 2 => some (ctrMode key aux ct)
  | 3 => gcmOpen key nonce aad (ct.take (ct.length - e.tagLen)) (ct.drop (ct.length - e.tagLen))
  | 4 => some (xtsMode false key aux ct)
  | 5 => kwOpen key ct
  | 6 => kwpOpen key ct
  | _ => sivOpen key nonce aad (ct.take (ct.length - 16)) (ct.drop (ct.length - 16))

/-- DECRYPT: a failure of authentication ends with TAG_MISMATCH; a long GCM plaintext has been written by then (R95). -/
def opDecrypt (j : JobRef) (s : State) : State :=
  s.onSym j 0x5002 (fun x =>
    let e := x.sqe
    let key := s.jobSecret j.die x
    match symOpen e key x.data.auxData x.data.inData with
    | some pt => s.result j.die j.job stOk 0 x.span pt
    | none =>
      let out := if e.mode = 3 ∧ 65536 < e.symLenIn then gctr (roundKeys key) (x.data.auxData.take 12) 2 (x.data.inData.take e.symLenIn) else []
      s.result j.die j.job stTagMismatch 0 x.span out)

/-- DECRYPT. -/
def execDecrypt (j : JobRef) (s : State) : Host.Outcome State Fault Refusal := ret (opDecrypt j s)

/-- KMAC128 or KMAC256 by its rate (SP 800-185). -/
def kmac (rate : Nat) (k cs x : List Byte) (n : Nat) : List Byte :=
  sponge rate 0x04 n (bytepad (encodeString (ascii "KMAC") ++ encodeString cs) rate ++ bytepad (encodeString k) rate ++ x ++ rightEncode (8 * n))

/-- The tag of a MAC, with its mode data. -/
def macOf (e : Sqe) (key aux msg : List Byte) : List Byte :=
  let n := e.tagLen
  if e.ps = 1 then (cmac key msg).take n
  else if e.ps = 2 then (gcmSeal key aux msg []).2.take n
  else if e.ps < 0x21 then (hmac (e.ps - 0x10) key msg).take n
  else kmac (if e.ps = 0x21 then 168 else 136) key aux msg n

/-- MAC_GENERATE. -/
def opMacGenerate (j : JobRef) (s : State) : State :=
  s.onSym j 0x5003 (fun x => s.result j.die j.job stOk 0 x.span (macOf x.sqe (s.jobSecret j.die x) x.data.auxData x.data.inData))

/-- MAC_GENERATE. -/
def execMacGenerate (j : JobRef) (s : State) : Host.Outcome State Fault Refusal := ret (opMacGenerate j s)

/-- MAC_VERIFY: AUX is the mode data and the tag expected. -/
def opMacVerify (j : JobRef) (s : State) : State :=
  s.onSym j 0x5004 (fun x =>
    let m := x.data.auxData.length - x.sqe.tagLen
    let ok := decide (macOf x.sqe (s.jobSecret j.die x) (x.data.auxData.take m) x.data.inData = x.data.auxData.drop m)
    s.result j.die j.job (if ok then stOk else stVerifyFail) 0 x.span [])

/-- MAC_VERIFY. -/
def execMacVerify (j : JobRef) (s : State) : Host.Outcome State Fault Refusal := ret (opMacVerify j s)

/-- A digest or XOF output by PSET (R94). -/
def hashPset (e : Sqe) (msg : List Byte) : List Byte :=
  match e.ps with
  | 0x01 => sha2 0 28 msg
  | 0x02 => sha2 1 32 msg
  | 0x03 => sha2 2 48 msg
  | 0x04 => sha2 3 64 msg
  | 0x05 => sha2 4 28 msg
  | 0x06 => sha2 5 32 msg
  | 0x11 => sponge 144 0x06 28 msg
  | 0x12 => sponge 136 0x06 32 msg
  | 0x13 => sponge 104 0x06 48 msg
  | 0x14 => sponge 72 0x06 64 msg
  | 0x21 => sponge 168 0x1F (e.par 0 32) msg
  | _ => sponge 136 0x1F (e.par 0 32) msg

/-- HASH. -/
def opHash (j : JobRef) (s : State) : State :=
  s.onSym j 0x5005 (fun x => s.result j.die j.job stOk 0 x.span (hashPset x.sqe x.data.inData))

/-- HASH. -/
def execHash (j : JobRef) (s : State) : Host.Outcome State Fault Refusal := ret (opHash j s)

/-! ### RANDOM and RESEED -/

/-- RANDOM: one request, after a reseed where PARAM[32] asks for prediction resistance; a request that needs entropy during a recovery ends with RNG_FAIL. -/
def opRandom (j : JobRef) (s : State) : State :=
  s.onOp j 0x7001 (fun x =>
    let r := (s.die j.die).rng
    let fresh := bit x.sqe.param 32 || decide (2 ^ 20 ≤ r.reqs)
    let t := x.sqe.drbgTime
    match r.asked (bit x.sqe.param 32) with
    | .fails => s.endOp j.die j.job stRngFail 0 t []
    | _ =>
      if fresh ∧ r.pool = 0 then s
      else
        let s1 := (if fresh then s.drbgReseed j.die else s).countDraw j.die
        s1.drawn.endOp j.die j.job stOk 0 t (s.rand (x.sqe.par 0 32)))

/-- RANDOM. -/
def execRandom (j : JobRef) (s : State) : Host.Outcome State Fault Refusal := ret (opRandom j s)

/-- RESEED. -/
def opReseed (j : JobRef) (s : State) : State :=
  s.onOp j 0x7002 (fun x =>
    let r := (s.die j.die).rng
    let t := x.sqe.drbgTime
    if r.asked true = .fails ∨ r.recovering then s.endOp j.die j.job stRngFail 0 t []
    else if r.pool = 0 then s
    else (s.drbgReseed j.die).endOp j.die j.job stOk 0 t [])

/-- RESEED. -/
def execReseed (j : JobRef) (s : State) : Host.Outcome State Fault Refusal := ret (opReseed j s)

end Sys2Proof.Machine
end

