-- ==== Sys2Proof/Machine/OpsKey.lean ====
section
/-! DEFINITION. Key management (class 0x6; R96, R149 to R172) without the backup jobs and the activation of owner programs, and the attestation
operations (class 0xA; R99, R175 to R179). Each of these rows ends its job. -/

namespace Sys2Proof.Machine

/-! ### Commit (R171, R449) -/

/-- Engine time in ps of an operation whose time the manual only bounds (R96, R106): free up to the bound. -/
def State.opPs (s : State) (x : Job) (limit : Nat) : Nat := min limit (Config.opTime x.sqe.prog s.freeCtr)

/-- What is checked again when a class 0x6 job commits (R171, R424). -/
def State.commitFail (s : State) (x : Job) : Option W16 :=
  if s.pkg.lock then some stLocked
  else if custodialClass x.sqe.op && !s.cards.quorum.present then some stQuorumAbsent
  else if ownerClass x.sqe.op && !s.ticketOk x x.data.ticket then some stOwnerAuth
  else none

/-- An operation fails: recorded where the log records it, completed, and the queues of its die go on. -/
def State.opFail (s : State) (d j : Nat) (status : W16) (detail ps : Nat) : State :=
  (s.closeJob d j status (BitVec.ofNat 32 detail) (timeOf status ps)).pumpDie d

/-- A job commits: its entry is accepted, its change made, and it ends with its output; a refused entry ends it without the change (R449, R456). -/
def State.commitJob (s : State) (d j : Nat) (x : Job) (header : List Byte) (limit : Nat) (detail : W32) (out : List Byte) (change : State → State) : State :=
  let ps := s.opPs x limit
  match s.commitFail x with
  | some f => s.drawn.opFail d j f 0 ps
  | none =>
    let r := s.drawn.recordJob d j stOk header x.sqe.isChange
    if r.2 then (change r.1).endOp d j stOk detail ps out
    else r.1.endOp d j (if s.alg.stopped then stLocked else stLogFull) 0 0 []

/-! ### Root records (R164, R165) -/

/-- Base and PASID of the blob table of a hierarchy. -/
def State.hierTable (s : State) (hier : Nat) : W64 × Option (BitVec 20) :=
  if hier = ownerShared then (s.ownerTable.1, none) else ((s.inst hier).cfg.blobTbl, some (s.inst hier).cfg.pasid)

/-- A blob is written where a table entry says, and the entry with its length (R155, R165). -/
def State.writeBlob (s : State) (base : W64) (pasid : Option (BitVec 20)) (index : Nat) (entry blob : List Byte) : State :=
  let e := entry.take 8 ++ leBytes 4 blob.length ++ slice entry 12 20
  (s.hostWrite (BitVec.ofNat 64 (fieldLe entry 0 8)) blob pasid).hostWrite (base + BitVec.ofNat 64 (32 * index)) e pasid

/-- ROOT_VERSION of a hierarchy advances. -/
def State.bumpRoot (s : State) (hier : Nat) : State := s.setRoot hier { s.rootRec hier with version := (s.rootRec hier).version + 1 }

/-- The root record as it is now goes to entry 0 of its table; the root is the key that the job took last. -/
def State.writeRoot (s : State) (d : Nat) (x : Job) (hier : Nat) : State :=
  match x.data.keys.getLast?.bind (s.slot? d) with
  | none => s
  | some root =>
    let t := s.hierTable hier
    (s.writeBlob t.1 t.2 0 x.data.root (s.rootBlob d hier root.payload)).drawn

/-! ### Keys that a job creates (R77, R96, R163, R164) -/

/-- Two equal halves of an AES-XTS key. -/
def equalHalves (alg : W16) (key : List Byte) : Bool :=
  decide (alg = symAlg 4 ∨ alg = symAlg 5) && decide (key.take (key.length / 2) = key.drop (key.length / 2))

/-- A symmetric key goes into a blob under the job's parent; one with USAGE.WRAP takes an entry of the parent table, with which ROOT_VERSION advances. -/
def State.createSym (s : State) (d j : Nat) (x : Job) (limit : Nat) (key : List Byte) : State :=
  match s.jobParent d x with
  | none => s
  | some p =>
    let usage : W32 := BitVec.ofNat 32 (x.sqe.par 0 32)
    let hier := hierOf p.owner p.scope
    let alg := s.newAlg x
    if equalHalves alg key then s.opFail d j stKeyType 0 (s.opPs x limit)
    else
      let blob (e : Nat) : List Byte := (s.newBlob d p alg usage 0xFFFF e 0 false s.bbd.rtc.toNat key).1
      if needsEntry usage p then
        (match (s.rootRec hier).freeEntry with
        | none => s.opFail d j stSlotQuota 0 (s.opPs x limit)
        | some e =>
          let b := blob e
          s.drawn.commitJob d j x (b.take 48) limit (createdDetail b.length 1) b (fun t => ((t.addEntry hier e).bumpRoot hier).writeRoot d x hier))
      else
        let b := blob 0
        s.drawn.commitJob d j x (b.take 48) limit (createdDetail b.length 1) b id

/-- Time of a KWP unwrap or wrap of so many bytes (R96, R111). -/
def kwpTime (n : Nat) : Nat := 5000000 + 200000 + (n + 7) / 8 * 30720

/-- GENERATE. -/
def opGenerate (j : JobRef) (s : State) : State :=
  s.onOp j 0x6001 (fun x => s.drawn.createSym j.die j.job x 2000000 (s.rand x.sqe.symLen))

/-- GENERATE. -/
def execGenerate (j : JobRef) (s : State) : Host.Outcome State Fault Refusal := ret (opGenerate j s)

/-- IMPORT: the secret unwrapped under the transport key; one that does not authenticate, or has another length than its type. -/
def opImport (j : JobRef) (s : State) : State :=
  s.onOp j 0x6002 (fun x =>
    let limit := kwpTime x.data.inData.length
    match kwpOpen (s.jobSecret j.die x) x.data.inData with
    | none => s.drawn.opFail j.die j.job stTagMismatch 0 (s.opPs x limit)
    | some key =>
      if key.length ≠ x.sqe.symLen then s.drawn.opFail j.die j.job stKeyType 0 (s.opPs x limit)
      else s.createSym j.die j.job x limit key)

/-- IMPORT. -/
def execImport (j : JobRef) (s : State) : Host.Outcome State Fault Refusal := ret (opImport j s)

/-- STAGE_COMMIT: the key that its transient slot held at its dispatch (R163). -/
def opStageCommit (j : JobRef) (s : State) : State :=
  s.onOp j 0x600E (fun x =>
    match x.data.staged with
    | none => s.opFail j.die j.job stKeyNotFound (x.sqe.par 32 3) 0
    | some t => s.createSym j.die j.job x 2000000 t.key)

/-- STAGE_COMMIT. -/
def execStageCommit (j : JobRef) (s : State) : Host.Outcome State Fault Refusal := ret (opStageCommit j s)

/-! ### DERIVE (R96; SP 800-108, SP 800-56C) -/

/-- Counter mode: PRF(key, [i] ‖ fixed input) for i = 1, 2, … -/
def ctrKdf (prf : List Byte → List Byte) (fixedIn : List Byte) (blocks : Nat) : List Byte :=
  (List.range blocks).flatMap (fun i => prf (beBytes 4 (i + 1) ++ fixedIn))

/-- Feedback mode with an empty IV: K(i) = PRF(key, K(i-1) ‖ [i] ‖ fixed input). -/
def feedbackKdf (prf : List Byte → List Byte) (fixedIn : List Byte) (n i : Nat) (prev : List Byte) : List Byte :=
  match n with
  | 0 => []
  | n + 1 =>
    let k := prf (prev ++ beBytes 4 i ++ fixedIn)
    k ++ feedbackKdf prf fixedIn n (i + 1) k

/-- Double-pipeline mode: A(i) = PRF(key, A(i-1)), K(i) = PRF(key, A(i) ‖ [i] ‖ fixed input). -/
def pipelineKdf (prf : List Byte → List Byte) (fixedIn : List Byte) (n i : Nat) (a : List Byte) : List Byte :=
  match n with
  | 0 => []
  | n + 1 =>
    let a' := prf a
    prf (a' ++ beBytes 4 i ++ fixedIn) ++ pipelineKdf prf fixedIn n (i + 1) a'

/-- The output of a KDF by PSET, of `n` bytes: the counter is placed before the fixed input data, L after it as a 32-bit bit count. The two-step KDF extracts
with a salt of zeros of one block and expands in counter mode. -/
def deriveKey (ps : Nat) (key input : List Byte) (n : Nat) : List Byte :=
  let fixedIn := input ++ beBytes 4 (8 * n)
  let blocks (m : Nat) : Nat := (n + m - 1) / m
  fit n (
    if ps = 1 then ctrKdf (hmac 1 key) fixedIn (blocks 32)
    else if ps = 2 then ctrKdf (hmac 2 key) fixedIn (blocks 48)
    else if ps = 3 then ctrKdf (hmac 3 key) fixedIn (blocks 64)
    else if ps = 4 then ctrKdf (cmac key) fixedIn (blocks 16)
    else if ps = 5 then feedbackKdf (hmac 2 key) fixedIn (blocks 48) 1 []
    else if ps = 6 then pipelineKdf (hmac 2 key) fixedIn (blocks 48) 1 fixedIn
    else if ps = 7 then kmac256 key [] input n
    else if ps = 0x11 then (List.range (blocks 48)).flatMap (fun i => sha384 (beBytes 4 (i + 1) ++ key ++ fixedIn))
    else ctrKdf (hmac 2 (hmac 2 (List.replicate 128 0) key)) fixedIn (blocks 48))

/-- DERIVE: the new key is wrapped under the source key's parent. -/
def opDerive (j : JobRef) (s : State) : State :=
  s.onOp j 0x6005 (fun x => s.createSym j.die j.job x 8000000 (deriveKey x.sqe.ps (s.jobSecret j.die x) x.data.inData x.sqe.symLen))

/-- DERIVE. -/
def execDerive (j : JobRef) (s : State) : Host.Outcome State Fault Refusal := ret (opDerive j s)

/-! ### Export -/

/-- The public key of a slot's key (R96): recomputed, or a Classic McEliece key from its KPC entry; none where the curve of a loaded-curve key is not the one
loaded. -/
def State.publicOf (s : State) (d : Nat) (x : Job) (k : Slot) : Option (List Byte) :=
  let p := bits k.hdr.algId 0 8
  match bits k.hdr.algId 12 4 with
  | 1 => some (fit (s.pubLen k) (if isMceliece p then s.entryBytes d x else kemPub p k.payload))
  | 2 => some (fit (s.pubLen k) (sigPub p k.payload))
  | 3 => some (fit (s.pubLen k) (stfPub p (((stf? p).map (fun t => s.stfLevels t k)).getD 1) k.payload))
  | 4 =>
    if bit k.hdr.algId 11 then some ((RsaKey.of (4 * p) k.payload).pub (4 * p))
    else if isSlotCurve p then
      (match Assoc.get? (s.inst x.src.inst).curves (p - 0x40) with
      | none => none
      | some c => some (ecPublic p (curveOf c.record ((c.record.length - 8) / 6)) (k.payload.drop 32)))
    else some (ecPublic p ((namedCurve? p).getD curveP256) k.payload)
  | _ => some (hybPublic p k.payload)

/-- The digest of a loaded-curve key is that of the curve loaded (R157 check 7). -/
def State.curveMatches (s : State) (x : Job) (k : Slot) : Bool :=
  let p := bits k.hdr.algId 0 8
  decide (bits k.hdr.algId 12 4 ≠ 4) || bit k.hdr.algId 11 || !isSlotCurve p
    || decide ((Assoc.get? (s.inst x.src.inst).curves (p - 0x40)).map (fun c => sha3256 c.record) = some (k.payload.take 32))

/-- EXPORT_PUBLIC. -/
def opExportPublic (j : JobRef) (s : State) : State :=
  s.onOp j 0x6003 (fun x =>
    match s.jobKey j.die x 0 with
    | none => s
    | some k =>
      match s.publicOf j.die x k with
      | none => s.opFail j.die j.job stCurveNotLoaded (bits k.hdr.algId 0 8 - 0x40) 0
      | some pub =>
        if s.curveMatches x k then s.commitJob j.die j.job x [] 2000000 0 pub id else s.opFail j.die j.job stKeyType 0 0)

/-- EXPORT_PUBLIC. -/
def execExportPublic (j : JobRef) (s : State) : Host.Outcome State Fault Refusal := ret (opExportPublic j s)

/-- EXPORT_WRAPPED. -/
def opExportWrapped (j : JobRef) (s : State) : State :=
  s.onOp j 0x6004 (fun x =>
    match s.jobKey j.die x 0, s.jobKey j.die x 1 with
    | some k, some w => s.commitJob j.die j.job x [] (kwpTime k.payload.length) 0 (kwpWrap w.payload k.payload) id
    | _, _ => s)

/-- EXPORT_WRAPPED. -/
def execExportWrapped (j : JobRef) (s : State) : Host.Outcome State Fault Refusal := ret (opExportWrapped j s)

/-! ### INVALIDATE and EVICT (R160, R165, R166) -/

/-- KPC entries of keys of a hierarchy one of whose ancestors has another generation now: freed, or with their last holder (R166). -/
def State.dropRevoked (s : State) (hier : Nat) : State :=
  let r := s.rootRec hier
  let hit (e : KpcEntry) : Bool := decide (e.hier = hier) && e.ancestry.any (fun (p : Nat × W32) => decide (Assoc.getD r.gens p.1 0 ≠ p.2))
  s.dieList.foldl (fun (t : State) d =>
    t.modDie d (fun y => { y with
      kpc := (y.kpc.filter (fun (p : Nat × KpcEntry) => !(hit p.2 && p.2.holders.isEmpty))).map
        (fun (p : Nat × KpcEntry) => if hit p.2 then (p.1, { p.2 with use := .working }) else p) })) s

/-- INVALIDATE: the generation of the parent and ROOT_VERSION advance in one write, every die applies it, and the root record goes to entry 0. -/
def opInvalidate (j : JobRef) (s : State) : State :=
  s.onOp j 0x6006 (fun x =>
    match s.jobKey j.die x 0 with
    | none => s
    | some p =>
      if p.scope = 2 then s.opFail j.die j.job stKeyType 0 0
      else
        let hier := hierOf p.owner p.scope
        s.commitJob j.die j.job x [] 4000000 0 [] (fun t =>
          let r := t.rootRec hier
          (((t.setRoot hier { r with gens := Assoc.set r.gens p.entry (Assoc.getD r.gens p.entry 0 + 1) }).bumpRoot hier).dropRevoked hier).writeRoot j.die x hier))

/-- INVALIDATE. -/
def execInvalidate (j : JobRef) (s : State) : Host.Outcome State Fault Refusal := ret (opInvalidate j s)

/-- EVICT: the slot of the handle is freed, or with its last holder; a key that is not resident has no slot to free. -/
def opEvict (j : JobRef) (s : State) : State :=
  s.onOp j 0x6007 (fun x =>
    let h := x.sqe.handle
    let w := s.mkWant x .main h
    let missing := decide (hScope h ≠ 3 ∧ !(hScope h = 2 ∧ hIndex h = 0) ∧ (hIndex h = 1 ∨ w.size ≤ hIndex h))
      || (decide (hScope h = 3) && (Assoc.get? (s.inst x.src.inst).transients (hIndex h)).isNone)
    if !scopeOk x.src.mgr (hScope h) then s.opFail j.die j.job stKeyScope 0 0
    else if missing then s.opFail j.die j.job stKeyNotFound (hIndex h) 0
    else
      let k := if hScope h = 3 then none else (s.die j.die).kvd.find (w.slotOwner x) (hScope h) (hIndex h) (hGen h)
      s.commitJob j.die j.job x [] 1000000 0 [] (fun t =>
        match k with
        | none => t
        | some i =>
          let loose := t.looseJobs j.die
          let v := (t.die j.die).kvd
          let l := Assoc.update v.slots i (fun y => { y with dying := true })
          t.freed j.die { v with slots := l.filter (fun (p : Nat × Slot) => !(decide (p.1 = i) && p.2.holders.all loose.contains)) }))

/-- EVICT. -/
def execEvict (j : JobRef) (s : State) : Host.Outcome State Fault Refusal := ret (opEvict j s)

/-! ### REWRAP (R96, R153, R166) -/

/-- Length of the blob at the front of a concatenation: that of its algorithm, or up to the next blob where the header does not fix it. -/
def blobLenOf (alg : W16) (rest : List Byte) : Nat :=
  let p := bits alg 0 8
  let fixed : Nat :=
    match bits alg 12 4 with
    | 1 => ((kemSizes p).getD (0, 0, 0, 0)).2.2.2
    | 2 => ((sigSizes p).getD (0, 0, 0)).2.2
    | 3 => ((stf? p).map Stf.secret).getD 0
    | 4 => if bit alg 11 then 20 * p else if isSlotCurve p then 0 else curveLen p
    | 6 => (symKey? p).getD 0
    | 9 => ((hybSizes p).getD (0, 0, 0)).2.2
    | _ => 0
  if fixed ≠ 0 then 76 + fixed
  else ((List.range rest.length).find? (fun i => decide (76 ≤ i) && decide ((rest.drop i).take 5 = [0x48#8, 0x42#8, 0x32#8, 0x00#8, 0x01#8]))).getD rest.length

/-- What becomes of one blob of a REWRAP: it fails, its parent's blob is wanted first, or its new form. -/
inductive Rewrapped where
  | fails (status : W16)
  | wants (handle : W32)
  | done (blob : List Byte)
  deriving DecidableEq, Repr

/-- A blob under a new parent: it must load under checks 4 and 6 of R157 and lie in the new parent's scope. -/
def State.rewrapOne (s : State) (d : Nat) (x : Job) (np : Slot) (b : List Byte) : Rewrapped :=
  let v := (s.die d).kvd
  match blobHdr? b with
  | none => .fails stKeyAuth
  | some h =>
    let finish (key : List Byte) (current : Bool) : Rewrapped :=
      match openBlob key b with
      | none => .fails stKeyAuth
      | some p =>
        if !current then .fails stKeyRevoked
        else if bit h.usage 6 && decide (4 ≤ np.hdr.depth + 1) then .fails stKeyUsage
        else .done (s.newBlob d np h.algId h.usage h.counter h.rangeFirst.toNat h.rangeEnd.toNat h.unbound h.created p).1
    if h.scope ≠ np.scope then .fails stKeyScope
    else if h.scope = 2 then
      (match v.sealKey h.gen with
      | none => .fails stKeyRevoked
      | some key => finish key true)
    else if v.svnFw < h.svnFw ∨ v.svnMc < h.svnMc ∨ h.parent = parentRoot ∨ h.parent = parentDevice ∨ hScope h.parent ≠ h.scope then .fails stKeyAuth
    else
      let owner := if h.scope = 0 then x.src.inst else x.owner
      match (v.find owner h.scope (hIndex h.parent) (hGen h.parent)).bind (fun i => Assoc.get? v.slots i) with
      | none => .wants h.parent
      | some p => finish (s.childKey p.payload h.svnFw h.svnMc) (s.current d p && decide (h.gen = s.genOf d p))

/-- The lengths of the blobs concatenated in IN, `n` of them at most; a truncated last one counts with what is left of it. -/
def blobLens (n : Nat) (b : List Byte) : List Nat :=
  match n with
  | 0 => []
  | n + 1 =>
    if b = [] then []
    else
      let len := min b.length (max 1 (blobLenOf (((blobHdr? b).map BlobHdr.algId).getD 0) b))
      len :: blobLens n (b.drop len)

/-- Take a REWRAP as far as it goes: the blobs done so far stand in `auxData`, their input bytes in `pass`. Each blob is a step (R114), and the time is at most
12 µs for each (R96). More than 1,024 blobs end with ENCODING_INVALID at the offset of the first one too many (DESIGN CHOICE, log 128). -/
def rewrapLoop (n d j : Nat) (s : State) : State :=
  match n with
  | 0 => s
  | n + 1 =>
    match s.job? d j with
    | none => s
    | some x =>
      match s.jobKey d x 0 with
      | none => s
      | some np =>
        let lens := blobLens 1025 x.data.inData
        let rest := x.data.inData.drop x.pass
        if 1024 < lens.length then s.opFail d j stEncoding ((lens.take 1024).foldl (· + ·) 0) 0
        else if rest = [] then s.commitJob d j x (x.data.auxData.take 48) (12000000 * lens.length) 0 x.data.auxData id
        else
          let done := (blobLens 1025 (x.data.inData.take x.pass)).length
          let s := s.jobStep d j (done + 1) lens.length
          let len := blobLenOf (((blobHdr? rest).map BlobHdr.algId).getD 0) rest
          match (if rest.length < len then .fails stKeyAuth else s.rewrapOne d x np (rest.take len)) with
          | .fails st => (s.authFail d st).opFail d j st 0 (s.opPs x (12000000 * lens.length))
          | .wants h => ((s.pushWants d j [s.mkWant x .chain h]).stage d j .table).advanceAny d j
          | .done b => rewrapLoop n d j (s.drawn.modJob d j (fun y => { y with pass := y.pass + len, data := { y.data with auxData := y.data.auxData ++ b } }))

/-- REWRAP: as far as the parents of its blobs are resident; a parent that is not is loaded first. -/
def opRewrap (j : JobRef) (s : State) : State := s.onOp j 0x6008 (fun _ => rewrapLoop 1025 j.die j.job s)

/-- REWRAP. -/
def execRewrap (j : JobRef) (s : State) : Host.Outcome State Fault Refusal := ret (opRewrap j s)

/-! ### STATEFUL_SPLIT (R169) -/

/-- STATEFUL_SPLIT: half of the leaves left go to an unbound copy under the original's parent. -/
def opStatefulSplit (j : JobRef) (s : State) : State :=
  s.onOp j 0x6009 (fun x =>
    match s.jobKey j.die x 0, s.jobParent j.die x with
    | some k, some p =>
      let i := k.hdr.counter.toNat
      (match Assoc.get? s.bbram.counters i with
      | none => s.opFail j.die j.job stKeyAuth 0 0
      | some c =>
        let n := (c.stop - c.next) / 2
        if c.keyId ≠ s.keyId k then s.opFail j.die j.job stKeyAuth 0 0
        else if n = 0 then s.opFail j.die j.job stExhausted 0 0
        else
          let b := (s.newBlob j.die p k.hdr.algId k.hdr.usage 0xFFFF (c.stop - n) c.stop true s.bbd.rtc.toNat k.payload).1
          s.drawn.commitJob j.die j.job x (b.take 48) 40000000 0 b (fun t =>
            { t with bbram := { t.bbram with counters := Assoc.set t.bbram.counters i { c with stop := c.stop - n } } }))
    | _, _ => s)

/-- STATEFUL_SPLIT. -/
def execStatefulSplit (j : JobRef) (s : State) : Host.Outcome State Fault Refusal := ret (opStatefulSplit j s)

/-! ### Attestation (R175 to R179) -/

/-- The offset of the first field of a verifier record that is out of range. -/
def verifierFail (r : List Byte) : Option Nat :=
  let g := fieldLe r 2 2
  if 63 < (r.getD 0 0).toNat then some 0
  else if r.getD 1 0 ≠ 0 then some 1
  else if 4096 ≤ g ∧ g ≠ 0xFFFF then some 2
  else none

/-- ATTEST_PROVISION: the secret unwrapped under the quorum transport key becomes an owner-shared blob at entry 2 + verifier of the owner table. Its first step
loads the owner-shared root and the table entry. A secret of another length than 32 bytes, which an authentic wrapping of R178's 40 bytes can hold, is padded with
zeros or cut to 32: the spec names no outcome (DESIGN CHOICE, log 135). -/
def opAttestProvision (j : JobRef) (s : State) : State :=
  s.onOp j 0x600D (fun x =>
    let r := x.data.inData
    let v := (r.getD 0 0).toNat
    match verifierFail r with
    | some o => s.opFail j.die j.job stEncoding o 0
    | none =>
      match s.jobKey j.die x 0 with
      | none =>
        let root := s.mkWant x .parent 0x10000000
        ((s.pushWants j.die j.job [root, { root with kind := .entry, handle := BitVec.ofNat 32 (0x10000002 + v) }]).stage j.die j.job .table).advanceAny j.die j.job
      | some p =>
        match kwpOpen (s.cards.quorum.qtk.take 32) (r.drop 4) with
        | none => s.opFail j.die j.job stTagMismatch 0 (s.opPs x 20000000)
        | some secret =>
          let b := (s.newBlob j.die p (symAlg 0x11) 0x2000 0xFFFF 0 0 false s.bbd.rtc.toNat (slice r 2 2 ++ fit 32 secret)).1
          s.drawn.commitJob j.die j.job x (b.take 48) 20000000 0 [] (fun t => t.writeBlob t.ownerTable.1 none (2 + v) x.data.entry b))

/-- ATTEST_PROVISION. -/
def execAttestProvision (j : JobRef) (s : State) : Host.Outcome State Fault Refusal := ret (opAttestProvision j s)

/-- The attestation message (R175), with the RTC at the acceptance of the command. -/
def State.attMessage (s : State) (inst verifier rtc : Nat) (challenge : List Byte) : List Byte :=
  let k := (s.die 0).kvd
  [0x01#8, 0x00#8] ++ leBytes 2 s.part.number ++ leBytes 2 inst ++ [BitVec.ofNat 8 verifier, BitVec.ofNat 8 s.lc] ++ fit 32 challenge ++ fit 48 k.mfw ++ fit 48 k.mmc
    ++ [BitVec.ofNat 8 k.svnFw, BitVec.ofNat 8 k.svnMc, 0, 0] ++ leBytes 8 rtc ++ leBytes 4 s.bbd.mono.toNat ++ leBytes 4 s.alg.seqNo ++ [0, 0, 0, 0]

/-- The shared-secret response (R176). -/
def attResponse (secret msg : List Byte) : List Byte := slice msg 140 16 ++ kmac256 secret (ascii "VQATT") msg 48

/-- A verifier record is granted to an instance (R178). -/
def Slot.granted (k : Slot) (inst : Nat) : Bool := decide (fieldLe k.payload 0 2 = 0xFFFF ∨ fieldLe k.payload 0 2 = inst)

/-- ATTEST_SHARED: the response under a verifier granted to the instance. -/
def opAttestShared (j : JobRef) (s : State) : State :=
  s.onOp j 0xA001 (fun x =>
    match s.jobKey j.die x 0 with
    | none => s
    | some k =>
      let v := x.sqe.par 0 6
      let ps := s.opPs x 2000000
      let n := if x.src.mgr then 0xFFFF else x.src.inst
      if k.granted n then s.drawn.endOp j.die j.job stOk 0 ps (attResponse (k.payload.drop 2) (s.attMessage n v x.data.rtc x.data.inData))
      else s.drawn.endOp j.die j.job stKeyNotFound (BitVec.ofNat 32 (2 + v)) ps [])

/-- ATTEST_SHARED. -/
def execAttestShared (j : JobRef) (s : State) : Host.Outcome State Fault Refusal := ret (opAttestShared j s)

/-- ATTEST_SIGNED: the message with the owner's key and ROOT_VERSION, signed by die 0's Alias key (R179). -/
def opAttestSigned (j : JobRef) (s : State) : State :=
  s.onOp j 0xA002 (fun x =>
    let n := if x.src.mgr then 0xFFFF else x.src.inst
    let owner := if x.src.mgr then List.replicate 48 0 else sha384 (s.inst n).cfg.ownerKey
    let msg := s.attMessage n 0xFF x.data.rtc x.data.inData ++ owner ++ leBytes 4 (s.rootRec n).version.toNat ++ [0, 0, 0, 0]
    let sig := fit 4627 (mldsaSign (((s.die 0).kvd.derived.map Derived.alias_).getD []) (ascii "VQ-ATTEST") msg)
    s.drawn.endOp j.die j.job stOk 0 (Config.opTime x.sqe.prog s.freeCtr) (msg ++ sig))

/-- ATTEST_SIGNED. -/
def execAttestSigned (j : JobRef) (s : State) : Host.Outcome State Fault Refusal := ret (opAttestSigned j s)

/-- GET_IDENTITY: the DeviceID certificate, then the Alias certificate; DETAIL gives the length of the first (R179). -/
def opGetIdentity (j : JobRef) (s : State) : State :=
  s.onOp j 0xA003 (fun x =>
    s.drawn.endOp j.die j.job stOk (BitVec.ofNat 32 (s.store.deviceCert.length % 65536)) (Config.opTime x.sqe.prog s.freeCtr) (s.store.deviceCert ++ s.aliasCert))

/-- GET_IDENTITY. -/
def execGetIdentity (j : JobRef) (s : State) : Host.Outcome State Fault Refusal := ret (opGetIdentity j s)

end Sys2Proof.Machine
end

