-- ==== Sys2Proof/Machine/ProgramCheck.lean ====
section
/-! DEFINITION. PROGRAM_ACTIVATE (R171, R218, R219). -/

namespace Sys2Proof.Machine

/-! ### PROGRAM_ACTIVATE (R218, R219) -/

/-- The first check of R218 that an image fails: status and DETAIL. -/
def State.imageFail (s : State) (x : Job) (secret img : List Byte) : Option (W16 × Nat) :=
  let inst := fieldLe img 8 2
  if !imageSigned (fit 2592 (sigPub 3 secret)) img then some (stKeyAuth, 0)
  else match headerFail img with
    | some o => some (stEncoding, o)
    | none =>
      if !(if x.src.mgr then decide (inst = 0xFFFF) else decide (inst = x.src.inst)) then some (stKeyScope, 0)
      else match textFail (imageRegs img) (imageText img) with
        | some i => some (stEncoding, 64 + 8 * i)
        | none =>
          match Assoc.get? (s.die 0).programs (fieldLe img 6 1) with
          | some old => if fieldLe img 12 4 < old.svn then some (stKeyUsage, 0) else none
          | none => none

/-- The program of a slot on every die and in the boot flash; no instructions deactivate the slot. -/
def setProgram (ps : Assoc OwnerProgram) (pub img : List Byte) : Assoc OwnerProgram :=
  if fieldLe img 10 2 = 0 then Assoc.erase ps (fieldLe img 6 1)
  else Assoc.set ps (fieldLe img 6 1) ⟨fieldLe img 8 2, fieldLe img 12 4, sha384 img, img, pub⟩

/-- PROGRAM_ACTIVATE: PROGRAM_CHANGE on every LVE page at the commit (R221). -/
def opProgramActivate (j : JobRef) (s : State) : State :=
  s.onOp j 0x600C (fun x =>
    let img := x.data.inData
    let pub := fit 2592 (sigPub 3 (s.jobSecret j.die x))
    match s.imageFail x (s.jobSecret j.die x) img with
    | some f => s.opFail j.die j.job f.1 f.2 (s.opPs x 2000000000)
    | none =>
      s.commitJob j.die j.job x (sha384 img) 2000000000 0 [] (fun t =>
        let t := { t.allDies (fun y => { y with programs := setProgram y.programs pub img }) with
          store := { t.store with programs := setProgram t.store.programs pub img } }
        t.dieList.foldl (fun (t : State) d => (List.range 16).foldl (fun (t : State) e => t.event d LVE e 3) t) t))

/-- PROGRAM_ACTIVATE. -/
def execProgramActivate (j : JobRef) (s : State) : Host.Outcome State Fault Refusal := ret (opProgramActivate j s)

end Sys2Proof.Machine
end

