-- ==== Sys2Proof/Machine/Backup.lean ====
section
/-! DEFINITION. Backup volumes (R409, R410) and the jobs that write and read them (R411 to R414): each call of BACKUP_EXPORT or BACKUP_IMPORT takes its job as far as
it goes without the card or the host; BUSY_END confirms a whole record. -/

namespace Sys2Proof.Machine

/-! ### Volumes (R409, R410) -/

/-- VK. -/
def volumeKey (qtk vid : List Byte) : List Byte := (kdf qtk "VQ-BACKUP" vid).take 32

/-- A volume header: STATE, records, blocks of data, C. -/
def volumeHeader (qtk : List Byte) (state : Nat) (vid uid : List Byte) (created records blocks : Nat) (chain roster : List Byte) : List Byte :=
  let h := [0x56#8, 0x51#8, 0x42#8, 0x4B#8] ++ leBytes 2 1 ++ [BitVec.ofNat 8 state, 0] ++ fit 16 vid ++ fit 8 uid ++ leBytes 8 created ++ leBytes 4 records
    ++ leBytes 4 blocks ++ fit 48 chain ++ fit 32 roster ++ List.replicate 336 0
  h ++ kmac256 (volumeKey qtk vid) (ascii "VQBKHDR") h 48

/-- C_0 of a volume. -/
def chainStart (vid uid : List Byte) (created : Nat) : List Byte := sha384 (vid ++ uid ++ leBytes 8 created)

/-- A record up to its tag. -/
def volumeRecord (vk vid nonce : List Byte) (index : Nat) (plain : List Byte) (pubLen : Nat) : List Byte :=
  let h := [0x56#8, 0x51#8, 0x52#8, 0x43#8] ++ leBytes 4 index ++ leBytes 4 plain.length ++ leBytes 4 pubLen ++ fit 12 nonce ++ [0, 0, 0, 0]
  let c := gcmSeal vk nonce (h ++ vid) plain
  h ++ c.1 ++ c.2

/-- Bytes of a record up to its tag, from its first block. -/
def recordLen (r : List Byte) : Nat := 32 + fieldLe r 8 4 + 16

/-- Blocks of so many bytes. -/
def sdBlocks (n : Nat) : Nat := (n + 511) / 512

/-- The plaintext of a record that authenticates. -/
def openRecord (vk vid r : List Byte) : Option (List Byte) :=
  let n := fieldLe r 8 4
  gcmOpen vk (slice r 16 12) (r.take 32 ++ vid) (slice r 32 n) (slice r (32 + n) 16)

/-! ### The operation of the port -/

/-- The operation under way ends with a status (R411 to R414). -/
def State.endBackup (s : State) (status : W16) (detail : Nat) : State :=
  match s.bmp.op with
  | none => s
  | some o =>
    let s := s.modBmp (fun b => { b with op := none, state := if b.state = .transfer ∨ b.state = .busy then .ready else b.state })
    let s := s.closeJob o.die o.job status (BitVec.ofNat 32 detail) (timeOf status (Config.opTime (if o.exporting then 0x600A00 else 0x600B00) s.freeCtr))
    s.drawn.pumpDie o.die

/-- BACKUP_CARD_INSERTED: debounced, powered, identified, switched to its highest mode, block 0 read (R405, R406, R414). -/
def opBackupCardInserted (c : BkIdent) (s : State) : State :=
  if (s.die 0).state ≠ .running then s.modBmp (fun b => { b with detLow := true })
  else if s.bmp.state ≠ .empty ∧ s.bmp.state ≠ .error then s
  else
    let lim := s.reg 0 BMP 0 0x120
    let tries := (List.range (min 4 (bits lim 0 3) + 1)).reverse.filter (fun m => decide (m < 2) || c.s18a)
    let mode := reachMode tries (0 :: c.modes)
    let s := if s.bmp.state = .empty then (s.event 0 BMP 0 0).send (.cardPower 4 1) else s
    if !c.accepted then (s.modBmp (fun b => { b with detLow := true, present := true, state := .error })).event 0 BMP 0 3
    else
      let s := s.modBmp (fun b => { b with
        state := .ready, detLow := true, present := true, mode := mode, wide := c.wide && !bit lim 3, s18 := c.s18a, capacity := c.capacity, blocks := c.blocks,
        volState := volumeState c.header, volId := if volumeState c.header = 0 then [] else slice c.header 8 16,
        volRecords := if volumeState c.header = 0 then 0 else fieldLe c.header 40 4, clkStopped := false, retries := 0 })
      let s := s.event 0 BMP 0 2
      match s.bmp.op with
      | some o =>
        if !o.waiting then s
        else if o.sameVolume c.header then
          let s := s.modBk (fun o => { o with
            waiting := false
            record := if o.exporting || o.checking then o.record else []
            block := if o.exporting || o.checking then o.block else 1 })
          if o.checking then s else s.bkSend
        else s.endBackup stShort o.bytesLeft
      | none => s

/-- BACKUP_CARD_INSERTED. -/
def execBackupCardInserted (c : BkIdent) (s : State) : Host.Outcome State Fault Refusal := ret (opBackupCardInserted c s)

/-- REINSERT_TIMEOUT: no reinsertion within t_reinsert (R414). -/
def opReinsertTimeout (s : State) : State :=
  match s.bmp.op with
  | some o => if o.waiting then s.endBackup stShort o.bytesLeft else s
  | none => s

/-- REINSERT_TIMEOUT. -/
def execReinsertTimeout (s : State) : Host.Outcome State Fault Refusal := ret (opReinsertTimeout s)


/-- The operation of a job; one whose job is gone no longer counts. -/
def State.bkOp (s : State) : Option BkJob := s.bmp.op.filter (fun o => (s.job? o.die o.job).isSome)

/-- A new operation of a job. -/
def State.bkStart (s : State) (d j : Nat) (exporting : Bool) (items : List (Nat × Nat)) (parent : Nat) : State :=
  { s with bmp := { s.bmp with op := some ⟨d, j, exporting, 0, [], 0, 0, 0, [], [], [], 0, items, parent, 0, 0, true, false⟩ } }

/-- A scope that a backup job of a queue may name (R411). -/
def bkScope (mgr : Bool) (scope : Nat) : Bool := decide (scope = if mgr then 1 else 0)

/-- The first offset of a selection list that is wrong: COUNT or the length it gives, then the reserved bytes. -/
def selectionFail (input : List Byte) (o unit : Nat) : Option Nat :=
  let n := fieldLe input o 2
  if n = 0 ∨ 4096 < n ∨ input.length ≠ o + 4 + unit * n then some o else if fieldLe input (o + 2) 2 ≠ 0 then some (o + 2) else none

/-- A job leaves every key it holds, and the entry that it read. -/
def State.dropKeys (s : State) (d j : Nat) : State :=
  (s.modKvd d (fun v => { v with slots := leaveSlots v.slots j })).modJob d j (fun y => { y with data := { y.data with keys := [], entry := [] } })

/-- A job waits for blobs and comes back. -/
def State.wantMore (s : State) (d j : Nat) (ws : List KeyWant) : State := ((s.pushWants d j ws).stage d j .table).advanceAny d j

/-! ### BACKUP_EXPORT (R411) -/

/-- The first call: the selection list, then the lengths of its blobs. -/
def State.exportBegin (s : State) (d j : Nat) (x : Job) : State :=
  let input := x.data.inData
  match selectionFail input 0 4 with
  | some o => s.opFail d j stEncoding o (s.opPs x 4000000000)
  | none =>
    let hs := (List.range (fieldLe input 0 2)).map (fun i => (i, fieldLe input (4 + 4 * i) 4))
    (s.bkStart d j true hs 0).wantMore d j ((hs.filter (fun (p : Nat × Nat) => bkScope x.src.mgr (hScope (BitVec.ofNat 32 p.2)))).map
      (fun (p : Nat × Nat) => s.mkWant x .size (BitVec.ofNat 32 p.2)))

/-- The OPEN header, on a card that is READY and large enough. -/
def State.exportOpen (s : State) (o : BkJob) : State :=
  let have_ := if s.bmp.state = .ready then s.bmp.blocks else 0
  if have_ < 1 + o.blocks then s.endBackup stShort ((1 + o.blocks - have_) * 512)
  else
    let vid := s.rand 16
    let uid := leBytes 8 (s.die 0).fuses.uid.toNat
    let created := s.bbd.rtc.toNat
    let h := volumeHeader s.cards.quorum.qtk 1 vid uid created 0 o.blocks [] s.bbram.roster
    ((s.drawn.modBmp (fun b => { b with volState := 1, volId := vid, volRecords := 0 })).modBk (fun o => { o with
      volumeId := vid, created := created, chain := chainStart vid uid created })).bkWrite 0 h

/-- The plaintext of a key's record, and the length of the public key in it. -/
def recordPlain (k : Slot) : List Byte × Nat :=
  let n := ((kemSizes (bits k.hdr.algId 0 8)).getD (0, 0, 0, 0)).1
  let p := bits k.hdr.algId 0 8
  let body := k.blobHdr.bytes ++ k.payload
  if bits k.hdr.algId 12 4 = 1 ∧ isMceliece p then (body ++ fit n (kemPub p (kemSecret p k.payload)), n) else (body, 0)

/-- The step of a handle: its key loaded, its checks, its record written. -/
def State.exportStep (s : State) (d j : Nat) (x : Job) (o : BkJob) : State :=
  let h : W32 := BitVec.ofNat 32 ((o.items.getD (o.step - 1) (0, 0)).2)
  if !bkScope x.src.mgr (hScope h) then s.endBackup stKeyScope 0
  else match x.data.keys.head?.bind (s.slot? d) with
    | none => s.wantMore d j [s.mkWant x .main h]
    | some k =>
      if !bit k.hdr.usage 8 ∨ (bits k.hdr.algId 12 4 = 3 ∧ !k.hdr.unbound) then s.endBackup stKeyUsage 0
      else
        let p := recordPlain k
        s.drawn.bkWrite (o.lba + o.block) (volumeRecord (volumeKey s.cards.quorum.qtk o.volumeId) o.volumeId (s.rand 12) o.done p.1 p.2)

/-- The CLOSED header. -/
def State.exportClose (s : State) (o : BkJob) : State :=
  s.bkWrite 0 (volumeHeader s.cards.quorum.qtk 2 o.volumeId (leBytes 8 (s.die 0).fuses.uid.toNat) o.created o.done (o.lba + o.block - 1) o.chain s.bbram.roster)

/-- BACKUP_EXPORT, as far as it goes. -/
def opBackupExport (j : JobRef) (s : State) : State :=
  s.onOp j 0x600A (fun x =>
    match s.bkOp with
    | none => s.exportBegin j.die j.job x
    | some o =>
      if o.die ≠ j.die ∨ o.job ≠ j.job ∨ o.waiting ∨ !o.checking then s
      else match s.commitFail x with
        | some f => s.endBackup f 0
        | none =>
          if o.step = 0 then s.exportOpen o
          else if o.step ≤ o.items.length then s.exportStep j.die j.job x o
          else s.exportClose o)

/-- BACKUP_EXPORT. -/
def execBackupExport (j : JobRef) (s : State) : Host.Outcome State Fault Refusal := ret (opBackupExport j s)

/-- What the confirmation of a write does (R407, R411): the OPEN header, a record, the closing header. -/
def State.exportConfirmed (s : State) (o : BkJob) : State :=
  let n := o.items.length
  let s := s.modBk (fun o => { o with checking := true, step := o.step + 1 })
  if o.step = 0 then s.jobStep o.die o.job 1 (n + 1)
  else if o.step ≤ n then
    (((s.modBk (fun o => { o with done := o.done + 1, chain := sha384 (o.chain ++ o.record) })).dropKeys o.die o.job).custodial).jobStep o.die o.job
      (o.step + 1) (n + 1)
  else ((s.modBmp (fun b => { b with volState := 2, volRecords := o.done })).custodial).endBackup stOk 0

/-- BUSY_END: busy has ended; CMD13 reports no error bit, or the write is tried again (R407). -/
def opBusyEnd (statusOk : Bool) (s : State) : State :=
  match s.bmp.op with
  | none => s
  | some o =>
    if s.bmp.state ≠ .busy ∨ o.waiting then s
    else if (s.job? o.die o.job).isNone then s.modBmp (fun b => { b with op := none, state := .ready })
    else if statusOk then (s.modBmp (fun b => { b with state := .ready })).exportConfirmed o
    else s.bkRetry

/-- BUSY_END. -/
def execBusyEnd (statusOk : Bool) (s : State) : Host.Outcome State Fault Refusal := ret (opBusyEnd statusOk s)

/-! ### BACKUP_IMPORT (R412, R413) -/

/-- The first call: the selection, then the parent, with the root record of its hierarchy for keys that are parents themselves. -/
def State.importBegin (s : State) (d j : Nat) (x : Job) : State :=
  let input := x.data.inData
  match selectionFail input 4 8 with
  | some o => s.opFail d j stEncoding o (s.opPs x 4000000000)
  | none =>
    let ph : W32 := BitVec.ofNat 32 (fieldLe input 0 4)
    let items := (List.range (fieldLe input 4 2)).map (fun i => (fieldLe input (8 + 8 * i) 4, i))
    if !bkScope x.src.mgr (hScope ph) then s.opFail d j stKeyScope 0 (s.opPs x 4000000000)
    else
      (s.bkStart d j false items ph.toNat).wantMore d j
        [s.mkWant x .main ph, s.mkWant x .parent (rootHandle ph), s.mkWant x .entry0 (rootHandle ph)]

/-- The header's checks, in order: status and DETAIL. -/
def State.headerCheck (s : State) (o : BkJob) (h : List Byte) : Option (W16 × Nat) :=
  let vid := slice h 8 16
  if h.take 4 ≠ [0x56, 0x51, 0x42, 0x4B] then some (stEncoding, 0)
  else if fieldLe h 4 2 ≠ 1 then some (stEncoding, 4)
  else if fieldLe h 6 1 ≠ 2 then some (stEncoding, 6)
  else if slice h 96 32 ≠ fit 32 s.bbram.roster ∨ slice h 464 48 ≠ kmac256 (volumeKey s.cards.quorum.qtk vid) (ascii "VQBKHDR") (h.take 464) 48 then some (stKeyAuth, 0)
  else (o.items.find? (fun (p : Nat × Nat) => decide (fieldLe h 40 4 ≤ p.1))).map (fun p => (stEncoding, 8 + 8 * p.2))

/-- The header has been read. -/
def State.importHeader (s : State) (o : BkJob) : State :=
  let h := o.record.take 512
  match s.headerCheck o h with
  | some f => s.endBackup f.1 f.2
  | none =>
    let vid := slice h 8 16
    (s.modBk (fun o => { o with
      step := 1, header := h, volumeId := vid, records := fieldLe h 40 4, blocks := fieldLe h 44 4,
      chain := chainStart vid (slice h 24 8) (fieldLe h 32 8) })).bkRead 1 1 []

/-- A stateful record is bound to a fresh counter record (R413): its number, or what forbids it. -/
def State.bindCounter (s : State) (x : Job) (b : BlobHdr) (payload : List Byte) : Nat × W16 :=
  let ids := (List.range 8).map (fun l => keyIdOf (bits b.algId 0 8) (l + 1) payload)
  if x.src.mgr then (0, stKeyScope)
  else if (s.inst x.src.inst).cfg.counterQ ≤ s.bbram.countersOf x.src.inst then (0, stCounterQuota)
  else match s.bbram.freeCounter with
    | some i => if s.bbram.counters.any (fun (p : Nat × CounterRec) => ids.contains p.2.keyId) then (0, stKeyUsage) else (i, 0)
    | none => (0, stCounterQuota)

/-- A table entry with its blob's length, and with that of its public key where there is one. -/
def entryWith (e : List Byte) (blobLen pubLen : Nat) : List Byte :=
  e.take 8 ++ leBytes 4 blobLen ++ (if pubLen = 0 then slice e 12 4 else leBytes 4 pubLen) ++ slice e 16 16

/-- A selected record whose table entry has been read becomes a blob under PARENT (R412). -/
def State.importSelected (s : State) (d j : Nat) (x : Job) (o : BkJob) (pairNo : Nat) (plain : List Byte) : State :=
  match x.data.keys.head?.bind (s.slot? d), blobHdr? (plain ++ List.replicate 76 0) with
  | some p, some b =>
    let pubLen := fieldLe o.record 12 4
    let payload := (plain.drop 48).take (plain.length - 48 - pubLen)
    let pub := plain.drop (plain.length - pubLen)
    let stateful := decide (bits b.algId 12 4 = 3)
    let hier := hierOf p.owner p.scope
    let c := if stateful then s.bindCounter x b payload else (0, 0)
    let e := if bit b.usage 6 then (s.rootRec hier).freeEntry else some 0
    let first := if bit b.usage 6 then e.getD 0 else b.rangeFirst.toNat
    let blob := (s.newBlob d p b.algId b.usage (if stateful then BitVec.ofNat 16 c.1 else 0xFFFF) first b.rangeEnd.toNat false b.created payload).1
    if fieldLe x.data.entry 8 4 < blob.length ∨ (pubLen ≠ 0 ∧ fieldLe x.data.entry 12 4 < pubLen) then s.endBackup stEncoding (8 + 8 * pairNo)
    else if c.2 ≠ 0 then s.endBackup c.2 0
    else if bit b.usage 6 ∧ !usageOk b.usage b.algId p then s.endBackup stKeyUsage 0
    else match e with
      | none => s.endBackup stSlotQuota 0
      | some e =>
          let t := s.hierTable hier
          let ix := fieldLe x.data.inData (12 + 8 * pairNo) 4
          let s := s.drawn.hostWrite (BitVec.ofNat 64 (fieldLe x.data.entry 0 8)) blob t.2
          let s := if pubLen = 0 then s else s.hostWrite (BitVec.ofNat 64 (fieldLe x.data.entry 16 8)) pub t.2
          let s := s.hostWrite (t.1 + BitVec.ofNat 64 (32 * ix)) (entryWith x.data.entry blob.length pubLen) t.2
          let levels := ((stf? (bits b.algId 0 8)).map (fun t => t.levelsOf b.rangeEnd.toNat)).getD 1
          let s := if stateful then s.takeCounter c.1 ⟨keyIdOf (bits b.algId 0 8) levels payload, x.src.inst, b.rangeFirst.toNat, b.rangeEnd.toNat⟩ else s
          let s := if bit b.usage 6 then ((s.addEntry hier e).bumpRoot hier).writeRoot d x hier else s
          let s := (s.modJob d j (fun y => { y with data := { y.data with entry := [] } })).modBk (fun o => { o with
            step := o.step + 1, items := o.items.filter (fun (q : Nat × Nat) => decide (q.2 ≠ pairNo)) })
          (s.custodial).jobStep d j (o.step + 1) (fieldLe x.data.inData 4 2 + 1)
  | _, _ => s.endBackup stKeyAuth 0

/-- A record has been read as far as asked for: the rest of it, its tag, then each pair that selects it, then the next record or the final step. -/
def State.importRecord (s : State) (d j : Nat) (x : Job) (o : BkJob) : State :=
  let n := recordLen o.record
  let have_ := o.record.length / 512
  if o.record.take 4 ≠ [0x56, 0x51, 0x52, 0x43] ∨ fieldLe o.record 4 4 ≠ o.done ∨ o.blocks + 1 < o.lba + sdBlocks n then s.endBackup stKeyAuth 0
  else if have_ < sdBlocks n then s.bkRead o.lba (sdBlocks n - have_) o.record
  else match openRecord (volumeKey s.cards.quorum.qtk o.volumeId) o.volumeId (o.record.take n) with
    | none => s.endBackup stKeyAuth 0
    | some plain =>
      match o.items.find? (fun (p : Nat × Nat) => decide (p.1 = o.done)) with
      | some p =>
        if x.data.entry = [] then
          s.wantMore d j [s.mkWant x .entry (BitVec.ofNat 32 (hScope (BitVec.ofNat 32 o.parent) * 2 ^ 28 + fieldLe x.data.inData (12 + 8 * p.2) 4 % 2 ^ 20))]
        else (match s.commitFail x with
          | some f => s.endBackup f 0
          | none => s.importSelected d j x o p.2 plain)
      | none =>
        let chain := sha384 (o.chain ++ o.record.take n)
        if o.done + 1 < o.records then (s.modBk (fun o => { o with done := o.done + 1, chain := chain })).bkRead (o.lba + sdBlocks n) 1 []
        else if chain = slice o.header 48 48 then (s.custodial).endBackup stOk 0
        else s.endBackup stKeyAuth 0

/-- BACKUP_IMPORT, as far as it goes. A volume without records is compared at once. -/
def opBackupImport (j : JobRef) (s : State) : State :=
  s.onOp j 0x600B (fun x =>
    match s.bkOp with
    | none => s.importBegin j.die j.job x
    | some o =>
      if o.die ≠ j.die ∨ o.job ≠ j.job ∨ o.waiting ∨ !o.checking then s
      else match s.commitFail x with
        | some f => s.endBackup f 0
        | none =>
          if o.record = [] then (if s.bmp.state = .ready then s.bkRead 0 1 [] else s.endBackup stShort 512)
          else if o.step = 0 then s.importHeader o
          else s.importRecord j.die j.job x o)

/-- BACKUP_IMPORT. -/
def execBackupImport (j : JobRef) (s : State) : Host.Outcome State Fault Refusal := ret (opBackupImport j s)

end Sys2Proof.Machine
end

