-- ==== Sys2Proof/Machine/Staging.lean ====
section
/-! DEFINITION. The key registers of a portal: key staging (R162, R163, R424) and the shared-secret attestation response (R175 to R178). -/

namespace Sys2Proof.Machine

/-- Change the key registers of a portal. -/
def State.modPk (s : State) (n : Nat) (f : PortalKeys → PortalKeys) : State := s.modPortal n (fun p => { p with keys := f p.keys })

/-- The bytes of staging, challenge or response words: word j holds bytes 4j to 4j + 3. -/
def wordsBytes (l : List W32) : List Byte := l.flatMap (fun w => leBytes 4 w.toNat)

/-! ### Key staging (R162) -/

/-- The key vault of a die with room for a transient key of so many bytes in a slot of an instance, whose own key it replaces, evicting keys that nobody holds (R158,
R162). -/
def State.transientRoom (s : State) (d n slot len : Nat) : Option Kvd :=
  (s.modInst n (fun i => { i with transients := Assoc.erase i.transients slot })).roomFor d n (extentsOf len)

/-- What a LOAD meets: TYPE, LEN, USAGE, equal XTS halves, the slot quota. -/
def State.loadErr (s : State) (n : Nat) (cmd : W32) (key : List Byte) : Nat :=
  let type := bits cmd 8 8
  let len := bits cmd 16 7
  match symKey? type with
  | none => 1
  | some fixedLen =>
    if len = 0 ∨ 64 < len ∨ (fixedLen ≠ 0 ∧ len ≠ fixedLen) then 2
    else if bit cmd 30 then 3
    else if equalHalves (symAlg type) key then 5
    else if !s.dieList.all (fun d => (s.transientRoom d n (bits cmd 0 3) len).isSome) then 4
    else 0

/-- ERR of a staging command, decided as it is accepted: LOCKED, OP, the checks of a LOAD, LOG_FULL. -/
def State.stageErr (s : State) (n : Nat) (cmd : W32) (key : List Byte) : Nat :=
  if s.pkg.lock ∨ s.alg.stopped then 6
  else if bits cmd 3 2 = 3 then 8
  else
    let e := if bits cmd 3 2 = 0 then s.loadErr n cmd key else 0
    if e ≠ 0 then e else if s.alg.free ≤ 330 then 7 else 0

/-- The entry of a staging command (R448, R451): no key bits. -/
def State.recordStage (s : State) (n : Nat) (cmd : W32) (err : Nat) : State :=
  if s.alg.stopped then s.miss
  else
    (if err = 7 then s.count s.algDie ALG 0 0x114 else s).offer
      { Offer.of 2 0 0x8002 cmd.toNat with inst := n, pasid := some (s.inst n).cfg.pasid, result := err }

/-- A KSTAGE_CMD write: ignored while BUSY, and while the instance freezes or is frozen (R361); an accepted command takes the staging words and clears them. -/
def State.stageCmd (s : State) (n : Nat) (cmd : W32) : State :=
  let k := (s.inst n).portal.keys
  if !portalOpen n s || decide ((s.inst n).code ≠ .active) || decide (k.ksState = 1) then s
  else
    let key := (wordsBytes k.ksData).take (bits cmd 16 7)
    let err := s.stageErr n cmd key
    (s.modPk n (fun k => { k with
        ksState := 1, ksSlot := bits cmd 0 3, ksErr := BitVec.ofNat 8 err, ksCmd := cmd, ksKey := key, ksData := List.replicate 16 0 })).recordStage n cmd err

/-- A command word with the OP of its row. -/
def stageWord (op : Nat) (w : W32) : W32 := (w &&& ~~~0x18#32) ||| BitVec.ofNat 32 (8 * op)

/-- KSTAGE_LOAD. -/
def opKstageLoad (n : Nat) (w : W32) (s : State) : State := s.stageCmd n (stageWord 0 w)

/-- KSTAGE_CLEAR. -/
def opKstageClear (n : Nat) (w : W32) (s : State) : State := s.stageCmd n (stageWord 1 w)

/-- KSTAGE_CLEAR_ALL. -/
def opKstageClearAll (n : Nat) (w : W32) (s : State) : State := s.stageCmd n (stageWord 2 w)

/-- What a staging command leaves in the transient slots. -/
def stageApply (cmd : W32) (key : List Byte) (t : Assoc Transient) : Assoc Transient :=
  match bits cmd 3 2 with
  | 0 => Assoc.set t (bits cmd 0 3) ⟨BitVec.ofNat 8 (bits cmd 8 8), BitVec.ofNat 8 (bits cmd 24 8), key⟩
  | 1 => Assoc.erase t (bits cmd 0 3)
  | _ => []

/-- A staging command completes: its effect where it meets no error, STATE, the portal's event. A LOAD takes the slots of keys it displaces. -/
def opKstageDone (n : Nat) (s : State) : State :=
  let k := (s.inst n).portal.keys
  if k.ksState ≠ 1 then s
  else
    let ok := decide (k.ksErr = 0)
    let evict (t : State) : State :=
      if bits k.ksCmd 3 2 = 0 then
        t.dieList.foldl (fun (u : State) d => u.freed d ((u.transientRoom d n (bits k.ksCmd 0 3) k.ksKey.length).getD (u.die d).kvd)) t
      else t
    let s := if ok then (evict s).modInst n (fun i => { i with transients := stageApply k.ksCmd k.ksKey i.transients }) else s
    (s.modPk n (fun k => { k with ksState := if ok then 2 else 3, ksKey := [] })).portalEvent n 11

/-- KSTAGE_DONE. -/
def execKstageDone (n : Nat) (s : State) : Host.Outcome State Fault Refusal := ret (opKstageDone n s)

/-- KSTAGE_CMD with the reserved OP: accepted, refused at once, no transient slot changed. -/
def opKstageOpRefused (n : Nat) (w : W32) (s : State) : State :=
  if !portalOpen n s || decide ((s.inst n).code ≠ .active) || decide ((s.inst n).portal.keys.ksState = 1) then s else opKstageDone n (s.stageCmd n (stageWord 3 w))

/-! ### Attestation through the portal (R177, R178) -/

/-- The job of die 0 that loads the verifier record of a portal's command: it has no queue and no completion. -/
def attJob (v : Nat) : Job :=
  ⟨⟨0, true, 0xFFFF, 0, 0, 0, 0⟩, { Sqe.ofBytes [] with opcode := 0xA001, param := BitVec.ofNat 64 v }, .table, .none, JobData.empty, none, none, 0, 0, 0, 0, true, 0⟩

/-- ATT_CMD: START latches the challenge and the message of this moment; ignored while BUSY. -/
def opAttCmd (n : Nat) (value : W32) (s : State) : State :=
  let k := (s.inst n).portal.keys
  if !portalOpen n s || decide (k.attState = 1) || !bit value 31 then s
  else
    let v := bits value 0 6
    let x := attJob v
    let busy (t : State) (code : W16) (job : Option Nat) : State :=
      t.modPk n (fun k => { k with attState := 1, attVerifier := v, attCode := code, attJob := job,
                                   attMsg := s.attMessage n v s.bbd.rtc.toNat (wordsBytes k.attChal), attResp := List.replicate 64 0 })
    match s.secCheck 0 x with
    | some f => busy s f.1 none
    | none =>
      let j := (s.die 0).nextJob
      let x := { x with data := { x.data with wants := [s.mkWant x .verifier (BitVec.ofNat 32 (0x10000002 + v))] } }
      busy ((s.addJob 0 x).advance 0 j) 0 (some j)

/-- The code with which an attestation ends, once it can: that of its acceptance, of its record's load, of a LOCK meanwhile, or KEY_NOT_FOUND for a record not
granted to the instance. R177 lists three codes; a record that fails to load otherwise shows the status of that load (DESIGN CHOICE, log 134). -/
def State.attOutcome (s : State) (n : Nat) : Option (W16 × List Byte) :=
  let k := (s.inst n).portal.keys
  match k.attJob.bind (s.job? 0) with
  | none => some (if k.attCode = 0 then stLocked else k.attCode, [])
  | some x =>
    match x.failed, s.jobKey 0 x 0 with
    | some f, _ => some (f.1, [])
    | none, none => none
    | none, some r =>
      if s.pkg.lock then some (stLocked, [])
      else if r.granted n then some (stOk, attResponse (r.payload.drop 2) k.attMsg)
      else some (stKeyNotFound, [])

/-- The response is ready, or the command has failed. -/
def opAttDone (n : Nat) (s : State) : State :=
  let k := (s.inst n).portal.keys
  if k.attState ≠ 1 then s
  else
    match s.attOutcome n with
    | none => k.attJob.elim s (fun j => s.advance 0 j)
    | some r =>
      let s := match k.attJob with
        | some j => s.modDie 0 (·.dropJob j)
        | none => s
      (s.modPk n (fun k => { k with
          attState := if r.1 = stOk then 2 else 3, attCode := r.1, attJob := none, attMsg := [], attResp := if r.1 = stOk then r.2 else k.attResp })).portalEvent n 10

/-- ATT_DONE. -/
def execAttDone (n : Nat) (s : State) : Host.Outcome State Fault Refusal := ret (opAttDone n s)

end Sys2Proof.Machine
end

