-- ==== Sys2Proof/Machine/Instances.lean ====
section
/-! DEFINITION. The manager's operations on instances (class 0xF; R345 to R354, R361 to R367): creating, destroying, freezing, thawing, saving and restoring,
re-homing of queues, shares; and the ends of an instance reset (R357, R358). -/

namespace Sys2Proof.Machine

/-- No bound on the engine time of an operation of the firmware. -/
def anyTime : Nat := 42949672950000

/-- The instance that PARAM names. -/
def Job.paramInst (x : Job) : Nat := x.sqe.par 0 12

/-- DETAIL of INSTANCE_STATE (R346). -/
def State.stateDetail (s : State) (n : Nat) : Nat := (s.inst n).code.code

/-- The code of a queue state (R141). -/
def QState.code : QState → Nat
  | .disabled => 0 | .active => 1 | .error => 2 | .frozen => 3 | .rehoming => 4

/-- An owner ticket for an operation of the VIM (R172, R349, R351). -/
def State.instTicket (s : State) (key t : List Byte) (op n handle : Nat) : Bool :=
  decide (t.length = 4659) && decide (t.take 4 = [0x4F, 0x54, 0x31, 0x00]) && decide (fieldLe t 4 2 = op) && decide (fieldLe t 6 2 = n)
    && decide (fieldLe t 8 4 = handle) && decide (fieldLe t 12 4 = 0)
    && decide (s.bbd.rtc.toNat ≤ fieldLe t 16 8 ∧ fieldLe t 16 8 ≤ s.bbd.rtc.toNat + 300 * 65536)
    && decide (fieldLe t 24 4 = (s.rootRec n).version.toNat) && decide (fieldLe t 28 4 = 0)
    && mldsaVerify key (ascii "VQ-OWNER") (t.take 32) (t.drop 32)

/-- OWNER_ID of an owner key (R347). -/
def ownerIdOf (key : List Byte) : List Byte := (sha3256 key).take 16

/-! ### The binding record (R348, R349) -/

/-- What a record binds; its queue pairs' contexts are chosen when it is bound. -/
def recordCfg (r : List Byte) (key : List Byte) : InstCfg :=
  let f (o n : Nat) : Nat := fieldLe r o n
  ⟨BitVec.ofNat 20 (f 4 4), f 8 2, BitVec.ofNat 8 (f 10 1), (List.range (f 3 1)).map (fun j => (f (12 + j) 1, 0)), BitVec.ofNat 64 (f 20 8), f 28 4, f 32 2, f 34 2, f 36 2,
    f 38 2, f 40 2, key⟩

/-- A queue context that nothing uses: unbound, not a manager queue, DISABLED. -/
def Queue.unused (q : Queue) : Bool := !q.ctx.rings.bound && !q.ctx.rings.mgr && decide (q.ctx.state = .disabled)

/-- Contexts of a die in use. -/
def Die.usedCtx (d : Die) : Nat := (d.queues.filter (fun (p : Nat × Queue) => !p.2.unused)).length

/-- The lowest free queue context of a die. -/
def Die.freeCtx (d : Die) : Option Nat := (List.range 4096).find? (fun q => (d.queue q).unused)

/-- The offset of the first field of a record that is out of range (R349 check 2), for an instance number and a MODE that the operation admits. -/
def State.recordFail (s : State) (r : List Byte) (modes : List Nat) (n? : Option Nat) (qp? : Option Nat) : Option Nat :=
  let f (o n : Nat) : Nat := fieldLe r o n
  let n := f 0 2
  let q := f 3 1
  let homes := (List.range q).map (fun j => f (12 + j) 1)
  let bound := s.insts.any (fun (p : Nat × Inst) => decide (p.1 ≠ n) && decide (p.2.cfg.homes ≠ []) && decide (p.2.cfg.pasid.toNat = f 4 4))
  let badHome := (List.range 8).find? (fun j =>
    let d := f (12 + j) 1
    if j < q then !(decide (d < 8) && bit (BitVec.ofNat 8 (f 10 1)) d && decide (d < s.nDies)
      && decide ((s.die d).usedCtx + ((homes.take j).filter (fun e => decide (e = d))).length < 4096))
    else decide (d ≠ 0))
  if 4096 ≤ n ∨ (n?.map (fun m => decide (m ≠ n))).getD false then some 0
  else if !modes.contains (f 2 1) then some 2
  else if q = 0 ∨ 8 < q ∨ (qp?.map (fun m => decide (m ≠ q))).getD false then some 3
  else if 2 ^ 20 ≤ f 4 4 ∨ bound then some 4
  else if f 8 2 = 0 ∨ 1024 < f 8 2 then some 8
  else if 2 ^ s.nDies ≤ f 10 1 then some 10
  else if f 11 1 ≠ 0 then some 11
  else match badHome with
    | some j => some (12 + j)
    | none =>
      if f 20 8 % 32 ≠ 0 then some 20
      else if f 28 4 < 2 ∨ 2 ^ 20 < f 28 4 then some 28
      else if 512 < f 38 2 then some 38
      else if 256 < f 40 2 then some 40
      else if f 42 22 ≠ 0 then some 42
      else none

/-- The quota checks (R349 check 4) of a configuration for an instance: status and DETAIL. -/
def State.quotaFail (s : State) (n : Nat) (c : InstCfg) : Option (W16 × Nat) :=
  let others := s.insts.filter (fun (p : Nat × Inst) => decide (p.1 ≠ n))
  let sum (d : Nat) (g : InstCfg → Nat) : Nat :=
    ((others.filter (fun (p : Nat × Inst) => bit p.2.cfg.dies d)).map (fun (p : Nat × Inst) => g p.2.cfg)).foldl (· + ·) 0 + g c
  let ds := (List.range 8).filter (fun d => bit c.dies d)
  let above (g : InstCfg → Nat) (m : Nat) : Option Nat := (ds.find? (fun d => decide (m < sum d g))).map (fun d => sum d g - m)
  if (above InstCfg.slotQ 32768).isSome ∨ (above InstCfg.extentQ 4096).isSome then some (stSlotQuota, 0)
  else match above InstCfg.kpcQ 4096 with
    | some k => some (stKpcQuota, 4096 * k)
    | none =>
      if (above InstCfg.ctxQ 512).isSome then some (stContextQuota, 0)
      else if 256 < (others.map (fun (p : Nat × Inst) => p.2.cfg.counterQ)).foldl (· + ·) 0 + c.counterQ then some (stCounterQuota, 0)
      else none

/-- Bind one queue pair to the lowest free context of its home die (R350). -/
def State.bindQueue (s : State) (n : Nat) (homes : List (Nat × Nat)) (j d : Nat) : State × List (Nat × Nat) :=
  match (s.die d).freeCtx with
  | none => (s, homes)
  | some q =>
    let ctl : W32 := BitVec.ofNat 32 (2 ^ 31 + j * 2 ^ 28 + n * 2 ^ 16)
    (s.setQueue d q { Queue.reset with ctx := { Queue.reset.ctx with rings := { Queue.reset.ctx.rings with ctrl := ctl } } }, homes ++ [(d, q)])

/-- Evict keys and KPC entries of the manager that no job holds until it fits into what the instances leave it on every die (R24, R158, R173). -/
def State.trimManager (s : State) : State :=
  s.dieList.foldl (fun (t : State) d =>
    let q := t.slotQuota ownerShared
    let v := (t.die d).kvd
    let tooMany := decide (q.1 < (v.used ownerShared).1) || decide (q.2 < (v.used ownerShared).2)
    let t := if tooMany then t.freed d (trimSlots 33000 q (t.looseJobs d) v) else t
    t.modDie d (fun y => { y with kpc := trimKpc 5000 (t.kpcLimit ownerShared) y.kpc })) s

/-- Bind an instance: its PASID, quotas and queue contexts, in a state (R350). -/
def State.bindInst (s : State) (n : Nat) (c : InstCfg) (code : InstCode) : State :=
  let r := (c.homes.zipIdx).foldl (fun (a : State × List (Nat × Nat)) (p : (Nat × Nat) × Nat) => a.1.bindQueue n a.2 p.2 p.1.1) (s, [])
  (r.1.setInst n { Inst.free with code := code, cfg := { c with homes := r.2 } }).trimManager


/-- The BBRAM write of a new root (R350, R365): HELD, OWNER_ID, ROOT_VERSION advanced, the generations. -/
def State.newRoot (s : State) (n : Nat) (key : List Byte) (gens : Assoc W32) : State :=
  let r := s.bbram.instRec n
  { s with bbram := s.bbram.setRec n ⟨true, ownerIdOf key, ⟨r.root.version + 1, gens⟩⟩ }

/-- The root record of an instance goes to entry 0 of its table. -/
def State.writeInstRoot (s : State) (d n : Nat) (entry secret : List Byte) : State :=
  let c := (s.inst n).cfg
  (s.writeBlob c.blobTbl (some c.pasid) 0 entry (s.rootBlob d n secret)).drawn

/-- A want for entry 0, or for the root record, of a table that a record names. -/
def recordWant (kind : WantKind) (n : Nat) (c : InstCfg) : KeyWant := ⟨0, kind, c.blobTbl, c.blobTblSize, some c.pasid, n, [], none⟩

/-! ### INST_CREATE (R348 to R350) -/

/-- Checks 2 to 5 of R349: status and DETAIL of the first that fails. -/
def State.instCreateFail (s : State) (r : List Byte) : Option (W16 × Nat) :=
  let n := fieldLe r 0 2
  let attach := decide (fieldLe r 2 1 = 1)
  let key := slice r 64 2592
  let c := recordCfg r key
  let i := s.bbram.instRec n
  match s.recordFail r [if r.length = 2656 then 0 else 1] none none with
  | some o => some (stEncoding, o)
  | none =>
    if (s.inst n).code ≠ (if attach then .held else .free) then some (stInstState, s.stateDetail n)
    else match s.quotaFail n c with
      | some f => some f
      | none =>
        if attach ∧ (ownerIdOf key ≠ i.ownerId ∨ !s.instTicket key (r.drop 2656) 0xF001 n c.pasid.toNat) then some (stOwnerAuth, 0)
        else if attach ∧ c.counterQ < s.bbram.countersOf n then some (stCounterQuota, 0)
        else none

/-- INST_CREATE: the checks; then entry 0 of the new table, or the root record of an attached instance, is read; then everything takes effect at once. -/
def opInstCreate (j : JobRef) (s : State) : State :=
  s.onOp j 0xF001 (fun x =>
    let r := x.data.inData
    let n := fieldLe r 0 2
    let c := recordCfg r (slice r 64 2592)
    let s := s.pageStep j.die j.job VIM 0 1 3
    match s.instCreateFail r with
    | some f => s.opFail j.die j.job f.1 f.2 (s.opPs x anyTime)
    | none =>
      if fieldLe r 2 1 = 0 then
        (if x.data.root = [] then s.wantMore j.die j.job [recordWant .entry0 n c]
        else (s.pageStep j.die j.job VIM 0 2 3).commitJob j.die j.job x [] anyTime 0 [] (fun t =>
          let secret := t.rand 32
          ((((t.drawn.bindInst n c .active).newRoot n c.ownerKey [(0, 0)]).writeInstRoot j.die n x.data.root secret).progress 0 VIM 0 3 1000)))
      else match x.data.keys.head?.bind (s.slot? j.die) with
        | none => s.wantMore j.die j.job [recordWant .parent n c]
        | some root => (s.pageStep j.die j.job VIM 0 2 3).commitJob j.die j.job x [] anyTime 0 [] (fun t =>
            let i := t.bbram.instRec n
            let t := t.bindInst n c .active
            ({ t with bbram := t.bbram.setRec n { i with root := { i.root with gens := payloadGens root.payload } } }).progress 0 VIM 0 3 1000))

/-- INST_CREATE. -/
def execInstCreate (j : JobRef) (s : State) : Host.Outcome State Fault Refusal := ret (opInstCreate j s)

/-! ### INST_DESTROY and the ends of a reset (R351, R357, R358) -/

/-- RETIRE is authorised: a quorum, or the owner's key with a ticket. -/
def State.retireOk (s : State) (x : Job) (n : Nat) : Bool :=
  let key := x.data.inData.take 2592
  s.cards.quorum.present
    || (decide (ownerIdOf key = (s.bbram.instRec n).ownerId) && s.instTicket key (x.data.inData.drop 2592) 0xF002 n 0)

/-- An operation that has an effect which ends later commits: its entry is accepted now, with OK. -/
def State.commitLater (s : State) (d j : Nat) (x : Job) (change : State → State) : State :=
  match s.commitFail x with
  | some f => s.opFail d j f 0 0
  | none =>
    let r := s.recordJob d j stOk [] true
    if r.2 then change r.1 else r.1.endOp d j (if s.alg.stopped then stLocked else stLogFull) 0 0 []

/-- INST_DESTROY. An instance that is reset already is joined; while a commit window is open the reset waits to be accepted (R357). -/
def opInstDestroy (j : JobRef) (s : State) : State :=
  s.onOp j 0xF002 (fun x =>
    let n := x.paramInst
    let retire := bit x.sqe.param 16
    let i := s.inst n
    let begun := decide (i.work.destroyJob = some (j.die, j.job))
    let mark (t : State) : State := t.modInst n (fun y => { y with
      code := .destroying, work := { y.work with destroyJob := some (j.die, j.job), retire := retire, resetWaiting := false } })
    let wait (t : State) : State := t.modInst n (fun y => { y with work := { y.work with destroyJob := some (j.die, j.job), retire := retire, resetWaiting := true } })
    let reset (t : State) : State := if t.commitWindow n then wait t else mark (t.acceptReset n)
    let s := if begun then s else s.pageStep j.die j.job VIM 0 1 3
    let bad := s.opFail j.die j.job stInstState (s.stateDetail n) (s.opPs x anyTime)
    if begun then s
    else if i.code = .free ∨ i.code = .freezing ∨ i.code = .destroying ∨ i.work.destroyJob.isSome ∨ (i.code = .held ∧ !retire) then bad
    else if retire ∧ !s.retireOk x n then s.opFail j.die j.job stOwnerAuth 0 (s.opPs x anyTime)
    else match i.code with
      | .active => s.commitLater j.die j.job x reset
      | .frozen => s.commitLater j.die j.job x reset
      | .resetting => s.commitLater j.die j.job x mark
      | .held => (s.pageStep j.die j.job VIM 0 3 3).commitJob j.die j.job x [] anyTime 0 [] (fun t =>
          ({ t with bbram := t.bbram.retire n }.setInst n Inst.free).progress 0 VIM 0 3 1000)
      | _ => (s.pageStep j.die j.job VIM 0 2 3).commitJob j.die j.job x [] anyTime 0 [] (fun t =>
          ((t.allDies (fun d => (d.flushInst n).unbind n)).setInst n Inst.free).progress 0 VIM 0 3 1000))

/-- INST_DESTROY. -/
def execInstDestroy (j : JobRef) (s : State) : Host.Outcome State Fault Refusal := ret (opInstDestroy j s)

/-- INST_RESET_ACCEPT: a reset that waited is accepted; with a destroy that waited for it the instance is DESTROYING. -/
def opInstResetAccept (n : Nat) (s : State) : State :=
  if resetAcceptable n s then
    ((s.acceptReset n).modInst n (fun i => if i.work.destroyJob.isSome then { i with code := .destroying } else i)).pumpAll
  else s

/-- INST_RESET_ACCEPT. -/
def execInstResetAccept (n : Nat) (s : State) : Host.Outcome State Fault Refusal := ret (opInstResetAccept n s)

/-- INST_RESET_COMPLETE. -/
def opInstResetComplete (n : Nat) (s : State) : State := if resetDone n s then (s.completeReset n).pumpAll else s

/-- INST_RESET_COMPLETE. -/
def execInstResetComplete (n : Nat) (s : State) : Host.Outcome State Fault Refusal := ret (opInstResetComplete n s)

/-! ### INST_FREEZE (R361) -/

/-- The queues of an instance, by die. -/
def State.queuesOf (s : State) (n : Nat) : List (Nat × Nat) := s.dieList.flatMap (fun d => ((s.die d).queuesOf n).map (fun p => (d, p.1)))

/-- A queue freezes: what it has read and prepared is dropped, its error kept for the thaw; a re-homing ends where it is. -/
def State.freezeQueue (s : State) (d q : Nat) : State :=
  let c := (s.queue d q).ctx
  if c.state = .disabled then s
  else
    let s := s.cancelPrep d q
    let s := s.modAux d q (fun a => { a with returnError := a.returnError || decide (c.state = .error), rehomeTo := none, rehomeJob := none })
    s.modCtx d q (fun c => { c with state := .frozen, win := dropWindow c.win (fun _ => false) })

/-- INST_FREEZE of an ACTIVE instance: FREEZING until no job of it is in flight. -/
def opInstFreeze (j : JobRef) (s : State) : State :=
  s.onOp j 0xF003 (fun x =>
    let n := x.paramInst
    if bit x.sqe.param 16 ∨ (s.inst n).work.freezeJob = some (j.die, j.job) then s
    else if (s.inst n).code ≠ .active then (s.pageStep j.die j.job VIM 0 1 2).opFail j.die j.job stInstState (s.stateDetail n) (s.opPs x anyTime)
    else
      let s := s.pageStep j.die j.job VIM 0 1 2
      let ends := s.rehomesOf n
      let s := ends.foldl (fun t p => t.opFail p.1 p.2 stInstState 0x403 0) s
      let s := (s.queuesOf n).foldl (fun t p => t.freezeQueue p.1 p.2) s
      (s.modInst n (fun i => { i with code := .freezing, work := { i.work with freezeJob := some (j.die, j.job), resetWaiting := i.work.destroyJob.isSome } })).pageStep j.die j.job VIM 0 2 2)

/-- INST_FREEZE. -/
def execInstFreeze (j : JobRef) (s : State) : Host.Outcome State Fault Refusal := ret (opInstFreeze j s)

/-- No job of an instance is in flight, nor does an engine keep a completion of it (R46, R361). -/
def State.drained (s : State) (n : Nat) : Bool := s.noJobs n && (s.queuesOf n).all (fun p => (s.queue p.1 p.2).ctx.parked.isEmpty)

/-- FREEZE_DRAINED: no job of the instance is in flight any longer; the freeze job ends. -/
def opFreezeDrained (n : Nat) (s : State) : State :=
  let i := s.inst n
  if i.code = .freezing ∧ s.drained n then
    let s := (s.modInst n (fun i => { i with code := .frozen, work := { i.work with freezeJob := none } })).progress 0 VIM 0 2 1000
    match i.work.freezeJob with
    | some (d, j) => (s.closeJob d j stOk 0 (Config.opTime 0xF00300 s.freeCtr)).drawn.pumpDie d
    | none => s
  else s

/-- FREEZE_DRAINED. -/
def execFreezeDrained (n : Nat) (s : State) : Host.Outcome State Fault Refusal := ret (opFreezeDrained n s)

/-- A queue returns to the state it had before the freeze (R141, R361). -/
def State.thawQueue (s : State) (d q : Nat) : State :=
  let x := s.queue d q
  if x.ctx.state ≠ .frozen then s
  else
    let s := (s.modCtx d q (fun c => { c with state := if x.aux.returnError then .error else .active })).modAux d q (fun a => { a with returnError := false })
    (if x.aux.returnError then s.event d QMG 0 1 else s).pump d q

/-- The thaw of a FROZEN instance: INST_FREEZE with THAW. -/
def opInstThaw (j : JobRef) (s : State) : State :=
  s.onOp j 0xF003 (fun x =>
    let n := x.paramInst
    if !bit x.sqe.param 16 then s
    else if (s.inst n).code ≠ .frozen then (s.pageStep j.die j.job VIM 0 1 1).opFail j.die j.job stInstState (s.stateDetail n) (s.opPs x anyTime)
    else (s.pageStep j.die j.job VIM 0 1 1).commitJob j.die j.job x [] anyTime 0 [] (fun t =>
      ((t.queuesOf n).foldl (fun u p => u.thawQueue p.1 p.2) (t.modInst n (fun i => { i with code := .active }))).progress 0 VIM 0 1 1000))

/-- INST_THAW. -/
def execInstThaw (j : JobRef) (s : State) : Host.Outcome State Fault Refusal := ret (opInstThaw j s)

/-! ### INST_SAVE and INST_RESTORE (R362 to R365) -/

/-- MB_STATUS of a portal (R355). -/
def Mailbox.status (m : Mailbox) : Nat := b2n m.toFull + 2 * b2n m.fromFull + 4 * b2n m.overflow + 8 * b2n m.bufBusy + 16 * b2n m.bufErr

/-- Section A of an image for a queue pair. -/
def Queue.image (x : Queue) : List Byte :=
  let r := x.ctx.rings
  let held := x.ctx.held.take 8
  let before := if x.ctx.state = .disabled then 0 else if x.aux.returnError then 2 else 1
  leBytes 4 (r.ctrl &&& 0xFF3C#32).toNat ++ leBytes 8 r.sqBase.toNat ++ leBytes 8 r.cqBase.toNat ++ leBytes 8 r.shadow.toNat ++ leBytes 4 r.irq.toNat
    ++ leBytes 2 r.sqHead ++ leBytes 2 r.sqTail ++ leBytes 2 r.cqHead ++ leBytes 2 r.cqTail ++ leBytes 4 x.ctx.seqNo ++ [x.ctx.epoch, BitVec.ofNat 8 before]
    ++ leBytes 2 x.ctx.errIndex ++ [x.ctx.errCode, BitVec.ofNat 8 held.length] ++ List.replicate 14 0
    ++ fit 256 (held.flatMap (fun h => { h.cqe with seqNo := BitVec.ofNat 32 h.seqNo }.bytes))

/-- The eight transient slots of an image. -/
def transientsImage (t : Assoc Transient) : List Byte :=
  (List.range 8).flatMap (fun i =>
    match Assoc.get? t i with
    | some x => [x.type, BitVec.ofNat 8 x.key.length, x.usage, 1] ++ fit 64 x.key ++ List.replicate 4 0
    | none => List.replicate 72 0)

/-- The plaintext of an image (R364). -/
def State.imagePlain (s : State) (n : Nat) (root : List Byte) : List Byte :=
  let i := s.inst n
  let cs := s.bbram.counters.filter (fun (p : Nat × CounterRec) => decide (p.2.owner = n))
  (i.cfg.homes.flatMap (fun p => (s.queue p.1 p.2).image))
    ++ (wordsBytes i.portal.mb.toMgr ++ wordsBytes i.portal.mb.fromMgr ++ leBytes 4 i.portal.mb.status ++ leBytes 2 i.cfg.share ++ [0, 0])
    ++ (rootPayload root (s.rootRec n) ++ fit 2592 i.cfg.ownerKey ++ transientsImage i.transients ++ leBytes 2 cs.length
      ++ cs.flatMap (fun (p : Nat × CounterRec) => fit 8 p.2.keyId ++ leBytes 8 p.2.next ++ leBytes 8 p.2.stop))

/-- The key of an image (R364). -/
def imageKey (secret token : List Byte) : List Byte := (kdf secret "VQ-INSTIMG" token).take 32

/-- The image of an instance: header, ciphertext, tag; the nonce is a draw. -/
def State.saveImage (s : State) (n : Nat) (record secret root : List Byte) : List Byte :=
  let pt := s.imagePlain n root
  let i := s.inst n
  let k := (s.die 0).kvd
  let token := record.take 32
  let nonce := s.rand 12
  let h := [0x56#8, 0x49#8, 0x4D#8, 0x31#8] ++ leBytes 2 1 ++ leBytes 2 n ++ leBytes 8 (s.die 0).fuses.uid.toNat ++ fit 32 token ++ fit 8 (slice record 32 8)
    ++ [BitVec.ofNat 8 (max i.svnFw k.svnFw), BitVec.ofNat 8 (max i.svnMc k.svnMc), BitVec.ofNat 8 i.cfg.homes.length, 0] ++ leBytes 4 pt.length ++ fit 12 nonce
  let c := gcmSeal (imageKey secret token) (fit 12 nonce) h pt
  h ++ c.1 ++ c.2

/-- INST_SAVE: the image, then the commit, and only then the image to OUT. -/
def opInstSave (j : JobRef) (s : State) : State :=
  s.onOp j 0xF004 (fun x =>
    let n := x.paramInst
    let s := s.pageStep j.die j.job VIM 0 1 4
    if (s.inst n).code ≠ .frozen then s.opFail j.die j.job stInstState (s.stateDetail n) (s.opPs x anyTime)
    else match s.jobKey j.die x 0, s.jobKey j.die x 1 with
      | some mk_, some root =>
        (s.pageStep j.die j.job VIM 0 4 4).drawn.commitJob j.die j.job x [] anyTime 0 (s.saveImage n x.data.auxData mk_.payload root.payload) (fun t =>
          (({ t with bbram := t.bbram.retire n }.allDies (·.flushInst n)).modInst n (fun i => { i.flush with
            code := .saved, portal := Portal.reset, work := { i.work with resetWaiting := false } })).progress 0 VIM 0 4 1000)
      | _, _ => s)

/-- INST_SAVE. -/
def execInstSave (j : JobRef) (s : State) : Host.Outcome State Fault Refusal := ret (opInstSave j s)

/-- INST_RESTORE with PREPARE: a token, held in the VIM and given out (R363). -/
def opInstRestorePrepare (j : JobRef) (s : State) : State :=
  s.onOp j 0xF005 (fun x =>
    let n := x.paramInst
    let c := (s.inst n).code
    if !bit x.sqe.param 16 then s
    else if c ≠ .free ∧ c ≠ .reserved then s.opFail j.die j.job stInstState (s.stateDetail n) (s.opPs x anyTime)
    else
      let token := s.rand 32
      s.drawn.commitJob j.die j.job x [] anyTime 0 (token ++ leBytes 8 (s.die 0).fuses.uid.toNat ++ leBytes 2 n ++ List.replicate 6 0) (fun t =>
        t.setInst n { Inst.free with code := .reserved, token := some token }))

/-- INST_RESTORE_PREPARE. -/
def execInstRestorePrepare (j : JobRef) (s : State) : Host.Outcome State Fault Refusal := ret (opInstRestorePrepare j s)

/-- A completion entry from its 32 bytes (R134). -/
def Cqe.ofBytes (b : List Byte) : Cqe :=
  let f (o n : Nat) : Nat := fieldLe b o n
  ⟨BitVec.ofNat 64 (f 0 8), BitVec.ofNat 16 (f 8 2), BitVec.ofNat 8 (f 10 1), BitVec.ofNat 8 (f 11 1), BitVec.ofNat 32 (f 12 4), BitVec.ofNat 32 (f 16 4),
    BitVec.ofNat 16 (f 20 2), BitVec.ofNat 32 (f 24 4), BitVec.ofNat 32 (f 28 4)⟩

/-- A queue context with the contents of section A: FROZEN unless it was DISABLED; held completions are held again (R365). -/
def Queue.restored (x : Queue) (b : List Byte) : Queue :=
  let f (o n : Nat) : Nat := fieldLe b o n
  let before := f 45 1
  let r : QRings := ⟨(x.ctx.rings.ctrl &&& ~~~0xFF3C#32) ||| (BitVec.ofNat 32 (f 0 4) &&& 0xFF3C#32), BitVec.ofNat 64 (f 4 8), BitVec.ofNat 64 (f 12 8), BitVec.ofNat 64 (f 20 8),
    BitVec.ofNat 32 (f 28 4), f 32 2, f 34 2, f 36 2, f 38 2⟩
  let held := (List.range (min 8 (f 49 1))).map (fun k =>
    let e := Cqe.ofBytes (slice b (64 + 32 * k) 32)
    (⟨e.seqNo.toNat, e, true, 0, 0⟩ : Held))
  let n := f 40 4
  { ctx := { x.ctx with
      rings := r, state := if before = 0 then .disabled else .frozen, epoch := BitVec.ofNat 8 (f 44 1), seqNo := n, errIndex := f 46 2, errCode := BitVec.ofNat 8 (f 48 1), held := held,
      nextSeq := n + held.length },
    aux := { x.aux with returnError := decide (before = 2), irqNow := BitVec.ofNat 32 (f 28 4) } }

/-- The transient slots of an image. -/
def transientsOf (b : List Byte) : Assoc Transient :=
  (List.range 8).filterMap (fun i =>
    let r := slice b (72 * i) 72
    if r.getD 3 0 = 1 then some (i, ⟨r.getD 0 0, r.getD 2 0, slice r 4 (r.getD 1 0).toNat⟩) else none)

/-- Words of bytes. -/
def bytesWords (b : List Byte) : List W32 := (List.range (b.length / 4)).map (fun i => BitVec.ofNat 32 (fieldLe b (4 * i) 4))

/-- The plaintext of an image that authenticates, its header as the outstanding token and this device expect (R365 checks 2 and 3). -/
def State.openImage (s : State) (n : Nat) (secret img : List Byte) : Option (List Byte) :=
  let k := (s.die 0).kvd
  let token := slice img 16 32
  let len := fieldLe img 60 4
  if img.take 6 ≠ [0x56, 0x49, 0x4D, 0x31, 0x01, 0x00] ∨ (s.inst n).token ≠ some token ∨ slice img 48 8 ≠ leBytes 8 (s.die 0).fuses.uid.toNat
      ∨ img.length ≠ 76 + len + 16 then none
  else (gcmOpen (imageKey secret token) (slice img 64 12) (img.take 76) (slice img 76 len) (slice img (76 + len) 16)).filter (fun p =>
    decide (fieldLe img 56 1 ≤ k.svnFw ∧ fieldLe img 57 1 ≤ k.svnMc) && decide (320 * fieldLe img 58 1 + 136 + 3714 ≤ p.length))

/-- Where section C of a plaintext begins. -/
def sectionC (img : List Byte) : Nat := 320 * fieldLe img 58 1 + 136

/-- The counter records of an image, taken by an instance. -/
def State.takeCounters (s : State) (n : Nat) (recs : List (List Byte)) : State :=
  recs.foldl (fun (t : State) r =>
    match t.bbram.freeCounter with
    | some i => t.takeCounter i ⟨r.take 8, n, fieldLe r 8 8, fieldLe r 16 8⟩
    | none => t) s

/-- The counter records of a plaintext. -/
def imageCounters (img pt : List Byte) : List (List Byte) :=
  let c := sectionC img
  (List.range (fieldLe pt (c + 3712) 2)).map (fun i => slice pt (c + 3714 + 24 * i) 24)

/-- Check 4 of R365. -/
def State.restoreFail (s : State) (n : Nat) (img pt aux : List Byte) : Option (W16 × Nat) :=
  let c := recordCfg aux []
  let recs := imageCounters img pt
  match s.recordFail aux [2] (some n) (some (fieldLe img 58 1)) with
  | some o => some (stEncoding, o)
  | none =>
    match s.quotaFail n c with
    | some f => some f
    | none => if c.counterQ < recs.length ∨ 256 < s.bbram.counters.length + recs.length then some (stCounterQuota, 0) else none

/-- The restored instance, in one step (R365). -/
def State.restoreInst (s : State) (d n : Nat) (img pt aux entry : List Byte) : State :=
  let c := sectionC img
  let root := slice pt c 544
  let key := slice pt (c + 544) 2592
  let b := 320 * fieldLe img 58 1
  let s := (s.bindInst n (recordCfg aux key) .frozen).newRoot n key (payloadGens root)
  let s := ((s.inst n).cfg.homes.zipIdx).foldl (fun (t : State) (p : (Nat × Nat) × Nat) =>
    t.setQueue p.1.1 p.1.2 ((t.queue p.1.1 p.1.2).restored (slice pt (320 * p.2) 320))) s
  let m := fieldLe pt (b + 128) 4
  let mw : W32 := BitVec.ofNat 32 m
  let s := s.modInst n (fun i => { i with
    transients := transientsOf (slice pt (c + 3136) 576)
    svnFw := fieldLe img 56 1, svnMc := fieldLe img 57 1
    portal := { i.portal with mb := { Mailbox.reset with
      toMgr := bytesWords (slice pt b 64), fromMgr := bytesWords (slice pt (b + 64) 64), toFull := bit mw 0, fromFull := bit mw 1, overflow := bit mw 2,
      bufErr := bit mw 4 } } })
  ((s.takeCounters n (imageCounters img pt)).writeInstRoot d n entry root).progress 0 VIM 0 4 1000

/-- INST_RESTORE: the checks; then entry 0 of the new table is read; then the instance is created, FROZEN. -/
def opInstRestore (j : JobRef) (s : State) : State :=
  s.onOp j 0xF005 (fun x =>
    let n := x.paramInst
    let img := x.data.inData
    let aux := x.data.auxData
    let fail (s : State) (st : W16) (det : Nat) : State := s.opFail j.die j.job st det (s.opPs x anyTime)
    let s := if bit x.sqe.param 16 then s else s.pageStep j.die j.job VIM 0 1 4
    if bit x.sqe.param 16 then s
    else if (s.inst n).code ≠ .reserved then fail s stInstState (s.stateDetail n)
    else
      let s := s.pageStep j.die j.job VIM 0 4 4
      match s.openImage n (s.jobSecret j.die x) img with
      | none => fail s stKeyAuth 0
      | some pt =>
        match s.restoreFail n img pt aux with
        | some f => fail s f.1 f.2
        | none =>
          if x.data.root = [] then s.wantMore j.die j.job [recordWant .entry0 n (recordCfg aux [])]
          else s.commitJob j.die j.job x [] anyTime 0 [] (fun t => t.restoreInst j.die n img pt aux x.data.root))

/-- INST_RESTORE. -/
def execInstRestore (j : JobRef) (s : State) : Host.Outcome State Fault Refusal := ret (opInstRestore j s)

/-! ### Re-homing (R366, R367) -/

/-- A queue begins to move: REHOMING, EPOCH advanced, nothing fetched any longer. -/
def State.startRehome (s : State) (d q target : Nat) (job : Option (Nat × Nat)) : State :=
  let s := s.cancelPrep d q
  let s := s.modAux d q (fun a => { a with rehomeTo := some target, rehomeJob := job })
  (s.modCtx d q (fun c => { c with state := .rehoming, epoch := c.epoch + 1, win := dropWindow c.win (fun _ => false) })).progress d QMG 0 1 0

/-- QUEUE_REHOME. -/
def opQueueRehome (j : JobRef) (s : State) : State :=
  s.onOp j 0xF006 (fun x =>
    let n := x.paramInst
    let target := x.sqe.par 16 3
    match (s.inst n).home (x.sqe.par 12 3) with
    | none => s.opFail j.die j.job stInstState (s.stateDetail n) (s.opPs x anyTime)
    | some (d, q) =>
      let st := (s.queue d q).ctx.state
      let bad := (if st = .rehoming then s else s.pageStep j.die j.job QMG d 1 3).opFail j.die j.job stInstState (s.stateDetail n + 256 * st.code) (s.opPs x anyTime)
      if (s.queue d q).aux.rehomeJob = some (j.die, j.job) then s
      else if st ≠ .active ∨ !bit (s.inst n).cfg.dies target ∨ s.nDies ≤ target then bad
      else if target = d then (s.pageStep j.die j.job QMG d 3 3).commitJob j.die j.job x [] anyTime 0 [] (fun t => t.progress d QMG 0 3 1000)
      else if (s.die target).freeCtx.isNone then bad
      else (s.pageStep j.die j.job QMG d 1 3).startRehome d q target (some (j.die, j.job)))

/-- QUEUE_REHOME. -/
def execQueueRehome (j : JobRef) (s : State) : Host.Outcome State Fault Refusal := ret (opQueueRehome j s)

/-- The context of a drained queue moves to a context of its target (R366 step 6). -/
def State.moveQueue (s : State) (d q t q' : Nat) : State :=
  let x := s.queue d q
  let r := x.ctx.rings
  let y : Queue := {
    ctx := { x.ctx with win := [], state := if x.aux.returnError then .error else .active }
    aux := { x.aux with rehomeTo := none, rehomeJob := none, returnError := false } }
  let s := (s.modDie d (fun z => { z with queues := Assoc.erase z.queues q })).setQueue t q' y
  let s := s.modInst r.inst (fun i => { i with cfg := { i.cfg with homes := i.cfg.homes.set r.qpair (t, q') } })
  let s := if x.aux.returnError then s.event t QMG 0 1 else s
  ((((s.count 0 VIM 0 0x21C).event 0 VIM 0 2).progress d QMG 0 3 1000).pump t q')

/-- REHOME_DRAIN_COMPLETE: every completion of the old epoch is written; the queue moves. -/
def opRehomeDrainComplete (d q : Nat) (s : State) : State :=
  let x := s.queue d q
  if x.ctx.state ≠ .rehoming ∨ x.ctx.inflight ≠ 0 ∨ x.ctx.held ≠ [] then s
  else match x.aux.rehomeTo with
    | none => s
    | some t =>
      let s := match x.aux.rehomeJob with
        | some (jd, j) => s.pageStep jd j QMG d 2 3
        | none => s.progress d QMG 0 2 333
      match (s.die t).freeCtx with
      | none => s
      | some q' =>
        let s := s.moveQueue d q t q'
        match x.aux.rehomeJob with
        | some (jd, j) => (s.closeJob jd j stOk 0 (Config.opTime 0xF00600 s.freeCtr)).drawn.pumpDie jd
        | none => s.offer (Offer.of 1 0 0xF006 (x.ctx.rings.inst + 4096 * x.ctx.rings.qpair + 65536 * t))

/-- REHOME_DRAIN_COMPLETE. -/
def execRehomeDrainComplete (d q : Nat) (s : State) : Host.Outcome State Fault Refusal := ret (opRehomeDrainComplete d q s)

/-- SET_SHARE: the new share, in force at each class's next round (R354). -/
def opSetShare (j : JobRef) (s : State) : State :=
  s.onOp j 0xF007 (fun x =>
    let n := x.paramInst
    let c := (s.inst n).code
    if c = .active ∨ c = .freezing ∨ c = .frozen then
      s.commitJob j.die j.job x [] anyTime 0 [] (fun t => t.modInst n (fun i => { i with cfg := { i.cfg with share := x.sqe.par 16 11 } }))
    else s.opFail j.die j.job stInstState (s.stateDetail n) (s.opPs x anyTime))

/-- SET_SHARE. -/
def execSetShare (j : JobRef) (s : State) : Host.Outcome State Fault Refusal := ret (opSetShare j s)

/-- LVE engine time of the queues of a die in the balancing interval. -/
def Die.lveTime (d : Die) : Nat := (d.queues.map (fun (p : Nat × Queue) => p.2.aux.lveTime)).foldl (· + ·) 0

/-- The die with the greatest, or least, value; the lowest of equals. -/
def bestDie (l : List (Nat × Nat)) (better : Nat → Nat → Bool) : Option (Nat × Nat) :=
  l.foldl (fun (a : Option (Nat × Nat)) p =>
    match a with
    | none => some p
    | some b => if better p.2 b.2 then some p else some b) none

/-- The ACTIVE queue of a die with the most LVE time whose instance may home on another die. -/
def State.balanceQueue (s : State) (d t : Nat) : Option Nat :=
  (bestDie (((s.die d).queues.filter (fun (p : Nat × Queue) =>
    p.2.ctx.rings.bound && decide (p.2.ctx.state = .active) && bit (s.inst p.2.ctx.rings.inst).cfg.dies t)).map (fun (p : Nat × Queue) => (p.1, p.2.aux.lveTime)))
    (fun a b => decide (b < a))).map Prod.fst

/-- An automatic re-homing is under way. -/
def State.autoRehoming (s : State) : Bool :=
  s.dies.any (fun d => d.queues.any (fun (p : Nat × Queue) => decide (p.2.ctx.state = .rehoming) && p.2.aux.rehomeJob.isNone))

/-- BALANCE_INTERVAL: the interval of R367 ends. -/
def opBalanceInterval (s : State) : State :=
  let b := s.reg 0 VIM 0 0x210
  let loads := (s.dieList.filter (fun d => (s.die d).reachable)).map (fun d => (d, (s.die d).lveTime))
  let clear (t : State) : State := t.allDies (fun d => { d with
    queues := d.queues.map (fun (p : Nat × Queue) => (p.1, { p.2 with aux := { p.2.aux with lveTime := 0 } })) })
  if !bit b 0 then s
  else match bestDie loads (fun a b => decide (b < a)), bestDie loads (fun a b => decide (a < b)) with
    | some (d, hi), some (t, lo) =>
      if (hi - lo) * 100 ≤ bits b 8 7 * (bits b 16 16 * 1000000000) ∨ s.autoRehoming ∨ (s.die t).freeCtx.isNone then clear s
      else match s.balanceQueue d t with
        | some q => clear ((s.startRehome d q t none).event 0 VIM 0 3)
        | none => clear s
    | _, _ => s

/-- BALANCE_INTERVAL. -/
def execBalanceInterval (s : State) : Host.Outcome State Fault Refusal := ret (opBalanceInterval s)

end Sys2Proof.Machine
end

