-- ==== Sys2Proof/Machine/Lifecycle.lean ====
section
/-! DEFINITION. The manager's operations on the life cycle and on the package's custody (class 0xF; R152, R432, R433, R455, R479 to R490): migration records,
life-cycle transitions and their completion, renewal of the OSK, zeroisation, unlocking, and draining the audit log. -/

namespace Sys2Proof.Machine

/-- A job of the life cycle ends without its effect. -/
def State.lcFail (s : State) (j : JobRef) (x : Job) (status : W16) (detail : Nat) : State :=
  s.opFail j.die j.job status detail (s.opPs x anyTime)

/-- A change that LOCK does not stop commits with OK: its entry is accepted, its change made, and the job ends (R449, R456). -/
def State.commitFree (s : State) (j : JobRef) (x : Job) (change : State → State) : State :=
  let ps := s.opPs x anyTime
  let r := s.drawn.recordJob j.die j.job stOk [] x.sqe.isChange
  if r.2 then (change r.1).endOp j.die j.job stOk 0 ps [] else r.1.endOp j.die j.job (if s.alg.stopped then stLocked else stLogFull) 0 0 []

/-! ### SEAL_CANDIDATE (R152) -/

/-- The packages of a candidate for a die. -/
def packagesOf (e : FlashEnd) (d : Nat) : List (List Byte) :=
  match e with
  | .candidate _ _ patches => (patches.filter (fun p => decide (p.1 = d))).map Prod.snd
  | _ => []

/-- The candidate's measurements, its SVNs, and whether every signature verifies, for the patch sets of the package's dies. -/
def State.candidate (s : State) (e : FlashEnd) : Option (List Byte × PatchSet × Nat) :=
  match e with
  | .candidate dir fw _ =>
    let set (d : Nat) : PatchSet := patchSet (s.die d).fuses (packagesOf e d)
    if dirValid dir && Config.fwValid fw && s.dieList.all (fun d => decide ((set d).state ≠ 2)) then some (fw, set 0, Config.fwSvn fw % 256) else none
  | _ => none

/-- The migration record of a candidate: the DSK and SEAL_ID under a key of its CDI_2. -/
def migrationRecord (x : Derived) (mfw mmc : List Byte) : List Byte :=
  let cdi2 := kdf (kdf x.cdi0 "VQ-CDI" mfw) "VQ-CDI" mmc
  kwpWrap ((kdf cdi2 "VQ-MIGRATE" []).take 32) (x.dsk ++ x.sealId)

/-- SEAL_CANDIDATE, with what the flash holds at the region; it waits for a measurement that is open. -/
def opSealCandidate (j : JobRef) (e : FlashEnd) (s : State) : State :=
  s.onOp j 0xF010 (fun x =>
    let k := (s.die 0).kvd
    let s := s.pageStep j.die j.job KVD 0 1 3
    if (s.die 0).mha.state = .open_ then s.mhaRefuse 0 1
    else if (s.bfi.entries.getD (x.sqe.par 0 4) ⟨0, 0, 0, 0⟩).type ≠ 6 then s.lcFail j x stKeyAuth 0
    else
      let s := s.pageStep j.die j.job KVD 0 2 3
      match s.candidate e, k.derived with
      | some (fw, set, svn), some der =>
        let s := s.measures 0 (packagesOf e 0)
        if svn < k.svnFw ∨ set.svn < k.svnMc then s.lcFail j x stKeyUsage 0
        else (s.pageStep j.die j.job KVD 0 3 3).commitJob j.die j.job x [] anyTime 0 [] (fun t =>
          { t with store := { t.store with migration := migrationRecord der (sha384 fw) set.measure } }.progress 0 KVD 0 3 1000)
      | _, _ => s.lcFail j x stKeyAuth 0)

/-- SEAL_CANDIDATE. -/
def execSealCandidate (j : JobRef) (e : FlashEnd) (s : State) : Host.Outcome State Fault Refusal := ret (opSealCandidate j e s)

/-! ### Tokens and records (R480, R481) -/

/-- What is wrong with a transition token at the front of IN, for a step from a codeword to a state (R480): malformed at an offset, or any other failure. `owner`
says whether the owner may sign; `more` whether a certificate follows the token. -/
def State.tokenFail (s : State) (input : List Byte) (origin : W64) (target : Nat) (owner more : Bool) : Option (W16 × Nat) :=
  let f (o n : Nat) : Nat := fieldLe input o n
  let signer := f 7 1
  let key := if signer = 1 then Config.sirvamosKey else slice input 4691 2592
  if input.length < 4691 then some (stEncoding, input.length)
  else if input.take 4 ≠ [0x56, 0x4C, 0x54, 0x31] then some (stEncoding, 0)
  else if f 4 2 ≠ 1 then some (stEncoding, 4)
  else if signer ≠ 1 ∧ signer ≠ 2 then some (stEncoding, 7)
  else if slice input 32 32 ≠ List.replicate 32 0 then some (stEncoding, 32)
  else if !more ∧ input.length ≠ (if signer = 1 then 4691 else 7283) then some (stEncoding, 4691)
  else if signer = 2 ∧ (!owner ∨ (s.die 0).fuses.ownerDigest ≠ some (sha3256 key)) then some (stKeyAuth, 0)
  else if !mldsaVerify key (ascii "VQ-LCT") (input.take 64) (slice input 64 4627) then some (stKeyAuth, 0)
  else if f 8 8 ≠ (s.die 0).fuses.uid.toNat ∨ f 16 8 ≠ origin.toNat ∨ f 6 1 ≠ target ∨ f 24 8 < s.bbd.rtc.toNat then some (stKeyAuth, 0)
  else none

/-- The roster in a provisioning record. -/
def recordRoster (r : List Byte) : Roster :=
  let n := fieldLe r 7 1
  ⟨fieldLe r 6 1, n, slice r 16 16, (List.range n).map (fun i =>
    let o := 2624 + 49 * i
    ⟨slice r o 16, slice r (o + 16) 32, fieldLe r (o + 48) 1⟩)⟩

/-- What is wrong with a provisioning record (R481 step 1): its form at an offset, or its DIE_UID, its signature, or an owner key other than the one burned. -/
def State.provisionFail (s : State) (r : List Byte) : Option (W16 × Nat) :=
  let f (o n : Nat) : Nat := fieldLe r o n
  let m := f 6 1
  let n := f 7 1
  let es := (recordRoster r).entries
  let key := slice r 32 2592
  let bad := (List.range n).find? (fun i =>
    let e := es.getD i ⟨[], [], 0⟩
    decide (e.index = 0 ∨ n < e.index) || (es.take i).any (fun y => decide (y.cardId = e.cardId ∨ y.index = e.index)))
  if r.take 4 ≠ [0x56, 0x50, 0x52, 0x31] then some (stEncoding, 0)
  else if f 4 2 ≠ 1 then some (stEncoding, 4)
  else if m < 2 ∨ 4 < m then some (stEncoding, 6)
  else if n < m ∨ 16 < n then some (stEncoding, 7)
  else if r.length ≠ 7251 + 49 * n then some (stEncoding, min r.length (7251 + 49 * n))
  else match bad with
    | some i => some (stEncoding, 2624 + 49 * i)
    | none =>
      if f 8 8 ≠ (s.die 0).fuses.uid.toNat ∨ !mldsaVerify key (ascii "VQ-PROVISION") (r.take (2624 + 49 * n)) (r.drop (2624 + 49 * n))
        ∨ ((s.die 0).fuses.ownerDigest.map (fun g => decide (g ≠ sha3256 key))).getD false then some (stKeyAuth, 0)
      else none

/-! ### LC_TRANSITION (R479, R482, R488, R490) -/

/-- Bits begin to burn for a job. -/
def State.beginBurn (s : State) (j : JobRef) (target : Nat) (bits : List Nat) (input : List Byte) : State :=
  ({ s with lcc := { s.lcc with
      xfer := some ⟨2, target, bits, 0, bits.length, some (j.die, j.job), false, input⟩, result := 0, stop := none } }).pageStep j.die j.job LCC 0 1 bits.length

/-- ERASE is applied with code 0x23 (R433, R488): the record, its audit entry, the response, and the steps of R114. -/
def State.zeroiseAll (s : State) : State :=
  let full := decide (16 ≤ s.bbd.record.length)
  let s := (s.recordTamper 0x23 3 0).offerRecord
  let s := if full then s.offer { Offer.of 4 0 0x3023 0 with result := 3 } else s
  (s.order 0x23 3).eraseEntry

/-- A new OSK in one write of the BBRAM (R490). -/
def State.renew (s : State) : State :=
  let osk := s.rand 48
  let b := s.bbram
  ({ s.drawn with
      bbd := { s.bbd with osk := some osk }
      insts := s.insts.filter (fun (p : Nat × Inst) => decide (p.2.code ≠ InstCode.held))
      bbram := { b with
        ownerRoot := { b.ownerRoot with version := b.ownerRoot.version + 1 }
        insts := b.insts.map (fun (p : Nat × InstRec) =>
          if p.2.held then (p.1, { p.2 with held := false, root := { p.2.root with version := p.2.root.version + 1 } }) else p)
        counters := [] } }).progress 0 LCC 0 0 1000

/-- The roster of a provisioning record is in force provisionally: its cards are asked again, and the transition waits for a quorum (R481 step 2). -/
def State.awaitQuorum (s : State) (j : JobRef) (r : List Byte) : State :=
  let s := { s with
    cards := { s.cards with roster := some (recordRoster r), provisional := true }
    lcc := { s.lcc with xfer := some ⟨1, 3, lcStepBits 3, 0, 10, some (j.die, j.job), true, r⟩, result := 0, stop := none } }
  (List.range 4).foldl (fun t p => t.reauthPort p) (s.progress 0 LCC 0 0 0)

/-- The step to the state after the current one, by what authorises it (R479). -/
def State.lcStep (s : State) (j : JobRef) (x : Job) (target : Nat) : State :=
  let input := x.data.inData
  let burn (t : State) (i : List Byte) : State := t.beginBurn j target (lcStepBits target) i
  match target with
  | 2 =>
    (match s.tokenFail input (lcWord 1) 2 false true with
    | some f => s.lcFail j x f.1 f.2
    | none =>
      let cert := input.drop 4691
      if fieldLe input 7 1 ≠ 1 ∨ Config.certSubject cert ≠ ((s.die 0).kvd.derived.map Derived.deviceId).getD [] then s.lcFail j x stKeyAuth 0
      else burn { s with store := { s.store with deviceCert := cert } } input)
  | 3 =>
    (match s.provisionFail input with
    | some f => s.lcFail j x f.1 f.2
    | none => s.awaitQuorum j input)
  | 6 =>
    (match s.tokenFail input (lcWord 5) 6 true false with
    | some f => s.lcFail j x f.1 f.2
    | none => burn s input)
  | _ =>
    if !s.cards.quorum.present then s.lcFail j x stQuorumAbsent 0
    else if !s.ticketOk x x.data.ticket then s.lcFail j x stOwnerAuth 0
    else burn (if target = 5 then s.zeroiseAll else s.custodial) []

/-- LC_TRANSITION: the checks, all of them before the first bit; then the burn, or the renewal of the OSK. A second transition ends with LIFECYCLE (R483). -/
def opLcTransition (j : JobRef) (s : State) : State :=
  s.onOp j 0xF020 (fun x =>
    let target := x.sqe.par 0 4
    match s.lcc.xfer with
    | some t => if t.job = some (j.die, j.job) then s else s.lcFail j x stLifecycle s.lc
    | none =>
      let s := s.progress 0 LCC 0 0 0
      if s.pkg.lock then s.lcFail j x stLocked 0
      else if !x.targetOk s.lc s.oskValid then s.lcFail j x stLifecycle s.lc
      else if s.alg.stopped ∨ s.alg.free ≤ 330 then s.lcFail j x (if s.alg.stopped then stLocked else stLogFull) 0
      else if target ≠ s.lc then s.lcStep j x target
      else if !s.cards.quorum.present then s.lcFail j x stQuorumAbsent 0
      else if !s.ticketOk x x.data.ticket then s.lcFail j x stOwnerAuth 0
      else s.commitFree j x (fun t => t.renew.custodial))

/-- LC_TRANSITION. -/
def execLcTransition (j : JobRef) (s : State) : Host.Outcome State Fault Refusal := ret (opLcTransition j s)

/-! ### COMPLETE_TRANSITION (R487) -/

/-- The words of the dies that run. -/
def State.lcWords (s : State) : List W64 := s.upDies.map (fun d => (s.die d).fuses.lc)

/-- COMPLETE_TRANSITION: the missing bits of the state after the highest one that every word contains, for a token. -/
def opCompleteTransition (j : JobRef) (s : State) : State :=
  s.onOp j 0xF021 (fun x =>
    match s.lcc.xfer with
    | some t => if t.job = some (j.die, j.job) then s else s.lcFail j x stLifecycle s.lc
    | none =>
      let s := s.progress 0 LCC 0 0 0
      if s.lc ≠ 0xF then s.lcFail j x stLifecycle s.lc
      else if s.alg.stopped ∨ s.alg.free ≤ 330 then s.lcFail j x (if s.alg.stopped then stLocked else stLogFull) 0
      else match lcBase s.lcWords with
        | none => s.lcFail j x stLifecycle 0xF
        | some b =>
          let c := lcWord (b + 1)
          match s.tokenFail x.data.inData (lcWord b) (b + 1) true false with
          | some f => s.lcFail j x f.1 f.2
          | none =>
            if 6 ≤ b ∨ s.lcWords.any (fun w => decide (w ||| c ≠ c)) then s.lcFail j x stLifecycle 0xF
            else
              s.beginBurn j (b + 1) ((List.range 60).filter (fun p => bit c p && s.lcWords.any (fun w => !bit w p))) x.data.inData)

/-- COMPLETE_TRANSITION. -/
def execCompleteTransition (j : JobRef) (s : State) : Host.Outcome State Fault Refusal := ret (opCompleteTransition j s)

/-! ### ZEROISE and UNLOCK (R432, R433) -/

/-- ZEROISE. -/
def opZeroise (j : JobRef) (s : State) : State :=
  s.onOp j 0xF030 (fun x => (s.pageStep j.die j.job KVD 0 1 4).commitFree j x (fun t => t.zeroiseAll.progress 0 KVD 0 4 1000))

/-- ZEROISE. -/
def execZeroise (j : JobRef) (s : State) : Host.Outcome State Fault Refusal := ret (opZeroise j s)

/-- The lowest class mapped to LOCK or ERASE whose condition is present on a die. -/
def State.blockingClass (s : State) : Option Nat :=
  ((List.range 24).map (· + 1)).find? (fun c => s.dies.any (fun x => bit x.tmn.active (c - 1) && decide (2 ≤ x.resp c)))

/-- A split in force may be cleared: by a boot from COLD reset with a clean election (R384, R432). -/
def State.splitClearable (s : State) : Bool := !s.bbd.split || (s.pkg.coldBoot && decide (s.baton.result = .clean))

/-- The package leaves LOCK: the gates open but where a dip, a boundary instruction or the die's own isolation holds them. -/
def State.unlock (s : State) : State :=
  let s := s.allDies (fun x => { x with tmn := { x.tmn with gated := x.tmn.dip || s.pkg.boundary || x.orphan } })
  ({ s with pkg := { s.pkg with lock := false, erased := false }, bbd := { s.bbd with lock := false, split := false } }).event 0 TMN 0 5

/-- UNLOCK: the checks in their order. -/
def opUnlock (j : JobRef) (s : State) : State :=
  s.onOp j 0xF031 (fun x =>
    if x.failed.isSome then s.lcFail j x stLocked 0
    else if !s.pkg.lock then s.lcFail j x stOk 0
    else if s.alg.free ≤ 330 then s.lcFail j x stLogFull 0
    else if !s.cards.quorum.present then s.lcFail j x stQuorumAbsent 0
    else if !s.ticketOk x x.data.ticket then s.lcFail j x stOwnerAuth 0
    else if !s.splitClearable then s.lcFail j x stLocked 0
    else match s.blockingClass with
      | some c => s.lcFail j x stLocked c
      | none => s.commitFree j x (fun t => t.unlock.custodial))

/-- UNLOCK. -/
def execUnlock (j : JobRef) (s : State) : Host.Outcome State Fault Refusal := ret (opUnlock j s)

/-! ### LOG_DRAIN (R455) -/

/-- The slots that a drain takes: oldest first, up to a number of 64-byte slots, not beyond a checkpoint that is unsigned or does not fit. -/
def takeSlots (l : List LogSlot) (n : Nat) : List LogSlot :=
  match l with
  | [] => []
  | x :: r => if x.unsigned ∨ n < x.size then [] else x :: takeSlots r (n - x.size)

/-- Another drain runs. -/
def State.drainBusy (s : State) (d j : Nat) : Bool :=
  match s.alg.draining with
  | some p => decide (p ≠ (d, j)) && (s.job? p.1 p.2).isSome
  | none => false

/-- LOG_DRAIN: the slots taken go out; a second drain waits. -/
def opLogDrain (j : JobRef) (s : State) : State :=
  s.onOp j 0xF040 (fun x =>
    if s.drainBusy j.die j.job then s
    else
      let s := s.pageStep j.die j.job ALG s.algDie 1 1024
      if s.alg.stopped then s.opFail j.die j.job stLocked 0 0
      else
      let out := (takeSlots s.alg.slots (x.sqe.outCap.toNat / 64)).flatMap LogSlot.bytes
      let ps := s.opPs x anyTime
      if out = [] then (s.drawn.progress s.algDie ALG 0 1024 1000).endOp j.die j.job stOk (BitVec.ofNat 32 s.alg.occupancy) ps []
      else ({ s.drawn with alg := { s.alg with draining := some (j.die, j.job) } }).endOp j.die j.job stOk 0 ps out)

/-- LOG_DRAIN. -/
def execLogDrain (j : JobRef) (s : State) : Host.Outcome State Fault Refusal := ret (opLogDrain j s)

end Sys2Proof.Machine
end

