-- ==== Sys2Proof/Machine/Link.lean ====
section
/-! DEFINITION. The host link (R34 to R49, R68 to R70): the resets seen from it, D3hot and bus mastering, MSI-X, configuration and I/O requests, link states, IDE
key management. -/

namespace Sys2Proof.Machine

/-- The function takes configuration writes: the link is up and no reset of R43 runs (R44). -/
def State.fnOpen (s : State) : Bool := s.linkUp && !s.hif.flrActive

/-- A configuration write: answered with Request Retry Status while the reset of R43 runs (R44), not seen while the link is down. -/
def State.cfgWrite (s : State) (f : State → State) : State :=
  if s.fnOpen then f s else if s.linkUp then s.send .retryStatus else s

/-- An access of the host brings the link out of L1 (R38). -/
def State.wake (s : State) : State := if s.hif.link = .l1 then { s with hif := { s.hif with link := .l0 } } else s

/-! ### The reset of R43 -/

/-- Blocks whose registers take their WARM values under R43. -/
def linkBlock (blk : Nat) : Bool := blk == HIF || blk == QMG || blk == VIM || blk == DMX || blk == EVR

/-- A stored register stays through the reset of R43: of another block, RWL, LOCK, or kept. -/
def linkKept (off : Nat) : Bool :=
  !linkBlock (off / 0x10000) || decide (off % 0x1000 = 0x00C) || warmKept off ||
    (match regRow? (off / 0x10000) (off % 0x1000) with
    | some r => decide (r.acc = .rwl)
    | none => false)

/-- The reset of R43 on a die: manager work stops without a completion, manager queues are reset, channels are released, registers return. -/
def Die.linkReset (d : Die) : Die :=
  let d := d.stopJobs (fun _ => true)
  { d with
    regs := d.regs.filter (fun (p : Nat × W32) => linkKept p.1)
    queues := d.queues.map (fun (p : Nat × Queue) => if p.2.ctx.rings.mgr then (p.1, p.2.kept) else p)
    chans := d.chans.map (fun _ => Channel.idle), xferQueue := [], kvdReads := [], rdRest := 0, wrRest := 0 }

/-- A transition keeps burning without its job; one that waits for a quorum ends (R483). -/
def State.orphanTransition (s : State) : State :=
  match s.lcc.xfer with
  | none => s
  | some t =>
    let s := { s with lcc := { s.lcc with xfer := some { t with job := none } } }
    if t.phase = 1 then s.dropTransition stQuorumAbsent else s

/-- The reset of R43: instances, manager queues, host-visible state; the drain and a backup under way end with their jobs (R341, R455). -/
def State.linkReset (s : State) : State :=
  let s := s.orphanTransition
  let s := s.allDies Die.linkReset
  let s := s.liveInsts.foldl (fun t n => t.acceptReset n) s
  let s := { s with
    insts := s.insts.map (fun (p : Nat × Inst) => (p.1, { p.2 with jobs := 0, busy := 0 }))
    hif := { s.hif with busMaster := false, d3hot := false, flrActive := true, flrCount := satInc s.hif.flrCount, drsSent := false, ide := [] }
    msix := Msix.reset
    evr := Evr.reset
    waitTx := []
    alg := { s.alg with draining := none }
    bmp := { s.bmp with op := none, state := if s.bmp.state = BkState.transfer ∨ s.bmp.state = BkState.busy then BkState.ready else s.bmp.state } }
  s.offer (Offer.of 3 0 0x2001 0)

/-- FUNCTION_LEVEL_RESET. -/
def opFunctionLevelReset (s : State) : State := s.cfgWrite (fun s => s.wake.linkReset)

/-- FUNCTION_LEVEL_RESET. -/
def execFunctionLevelReset (s : State) : Host.Outcome State Fault Refusal := ret (opFunctionLevelReset s)

/-- HOT_RESET. -/
def opHotReset (s : State) : State := if s.linkUp then s.wake.linkReset else s

/-- HOT_RESET. -/
def execHotReset (s : State) : Host.Outcome State Fault Refusal := ret (opHotReset s)

/-- DL_DOWN: the reset, and the link trains again. -/
def opDlDown (s : State) : State :=
  if s.linkUp then
    let s := s.linkReset
    { s with hif := { s.hif with link := .training } }
  else s

/-- DL_DOWN. -/
def execDlDown (s : State) : Host.Outcome State Fault Refusal := ret (opDlDown s)

/-- The reset of R43 has finished: no job is left, and no instance is resetting. -/
def fnReadyDue (s : State) : Bool :=
  s.hif.flrActive && s.dies.all (fun d => d.jobs.isEmpty) && s.insts.all (fun (p : Nat × Inst) => decide (p.2.code ≠ .resetting))

/-- FUNCTION_READY: ACTIVE clears, and a DRS message goes out (R36, R44). -/
def opFunctionReady (s : State) : State :=
  if fnReadyDue s then
    let s := { s with hif := { s.hif with flrActive := false, drsSent := true } }
    if s.linkUp then s.send .drs else s
  else s

/-- FUNCTION_READY. -/
def execFunctionReady (s : State) : Host.Outcome State Fault Refusal := ret (opFunctionReady s)

/-! ### Power states and bus mastering (R46, R47) -/

/-- D3HOT_ENTRY. -/
def opD3hotEntry (s : State) : State := s.cfgWrite (fun s => { s with hif := { s.hif with d3hot := true } })

/-- D3HOT_ENTRY. -/
def execD3hotEntry (s : State) : Host.Outcome State Fault Refusal := ret (opD3hotEntry s)

/-- D3HOT_TO_D0: the reset of R43. -/
def opD3hotToD0 (s : State) : State := s.cfgWrite (fun s => if s.hif.d3hot then s.wake.linkReset else s)

/-- D3HOT_TO_D0. -/
def execD3hotToD0 (s : State) : Host.Outcome State Fault Refusal := ret (opD3hotToD0 s)

/-- Every unit goes on where it waited: channels, held completions, fetches (R46). -/
def State.resumeHost (s : State) : State :=
  ((s.dieList.foldl (fun t d => ((t.die d).queues.map Prod.fst).foldl (fun u q => u.release d q) (t.resumeChans d)) s.resumeWrites).resumeMail).pumpAll

/-- BUS_MASTER_ENABLE. -/
def opBusMasterEnable (on : Bool) (s : State) : State :=
  s.cfgWrite (fun s =>
    let s := { s.wake with hif := { s.wake.hif with busMaster := on } }
    if s.hostOpen then s.resumeHost else s)

/-- BUS_MASTER_ENABLE. -/
def execBusMasterEnable (on : Bool) (s : State) : Host.Outcome State Fault Refusal := ret (opBusMasterEnable on s)

/-! ### MSI-X (R68, R70) -/

/-- MSIX_CONTROL; messages that nothing holds any longer go out with the command. -/
def opMsixControl (enable mask : Bool) (s : State) : State :=
  s.cfgWrite (fun s => { s.wake with msix := { s.msix with enable := enable, functionMask := mask } })

/-- MSIX_CONTROL. -/
def execMsixControl (enable mask : Bool) (s : State) : Host.Outcome State Fault Refusal := ret (opMsixControl enable mask s)

/-- A word of a table entry written. -/
def MsixEntry.write (e : MsixEntry) (w : Nat) (v : W32) : MsixEntry :=
  match w with
  | 0 => { e with addr := e.addr.extractLsb' 32 32 ++ v }
  | 1 => { e with addr := v ++ e.addr.extractLsb' 0 32 }
  | 2 => { e with data := v }
  | _ => { e with masked := bit v 0 }

/-- A word of a table entry. -/
def MsixEntry.word (e : MsixEntry) (w : Nat) : W32 :=
  match w with
  | 0 => e.addr.extractLsb' 0 32
  | 1 => e.addr.extractLsb' 32 32
  | 2 => e.data
  | _ => if e.masked then 1 else 0

/-- A write of a doubleword in BAR4: the table's; the PBA and what follows it take none. -/
def opMsixTableWrite (off : Nat) (v : W32) (s : State) : State :=
  if s.fnOpen ∧ off < 0x8000 ∧ off % 4 = 0 then
    let e := (s.msix.entry (off / 16)).write (off / 4 % 4) v
    { s.wake with msix := { s.msix with table := Assoc.set s.msix.table (off / 16) e } }
  else s

/-- MSIX_TABLE_WRITE. -/
def execMsixTableWrite (off : Nat) (v : W32) (s : State) : Host.Outcome State Fault Refusal := ret (opMsixTableWrite off v s)

/-- A doubleword of the PBA. -/
def State.pbaWord (s : State) (k : Nat) : W32 :=
  BitVec.ofNat 32 (((List.range 32).map (fun i => if (Assoc.get? s.msix.pba (32 * k + i)).isSome then 2 ^ i else 0)).foldl (· + ·) 0)

/-! ### Configuration and I/O requests (R35, R37, R44) -/

/-- A word whose bits under `mask` the manual gives; the others are free. -/
def fixBits (free : W32) (mask value : Nat) : W32 := (free &&& ~~~(BitVec.ofNat 32 mask)) ||| BitVec.ofNat 32 value

/-- The capabilities of the function (R36), with the bytes each takes: power management, PCI Express, MSI-X; extended, from 0x10000 on: AER, PASID, DOE, Device 3,
IDE. There is no MSI capability (0x05), no SR-IOV (0x10010), no ATS (0x1000F) and no Page Request (0x10013) among them (R36, R37). The codes are those of
PCIe 6.0 (PRESUMED, log 123). -/
def funcCaps : List (Nat × Nat) :=
  [(0x01, 8), (0x10, 0x3C), (0x11, 12), (0x10001, 0x2C), (0x1001B, 8), (0x1002E, 0x18), (0x1002F, 0x10), (0x10030, 0x10)]

/-- The capability a configuration register belongs to, with its offset in it; where each lies the manual does not say. -/
def capAt (reg : Nat) : Option (Nat × Nat) :=
  (funcCaps.find? (fun c => decide (Config.capBase c.1 ≤ reg ∧ reg < Config.capBase c.1 + c.2))).map (fun c => (c.1, reg - Config.capBase c.1))

/-- A word of a capability (R34, R36, R38, R48; fields placed as in PCIe 6.0, log 123). -/
def State.capWord (s : State) (cap rel : Nat) (free : W32) : W32 :=
  if rel = 0 ∧ cap ≠ 0x11 then (if cap < 0x10000 then fixBits free 0xFF cap else fixBits free 0xFFFF (cap - 0x10000))
  else
    match cap, rel with
    | 0x01, 4 => fixBits free 0xB (if s.hif.d3hot then 3 else 0)
    | 0x10, 4 => fixBits free 0x10000007 0x10000002
    | 0x10, 0xC => fixBits free 0x38FFF (6 + 16 * 16 + 0x800 + 4 * 0x8000)
    | 0x10, 0x10 => fixBits free 0x03FF0000 (s.hif.speed.toNat * 0x10000 + s.hif.width.toNat * 0x100000)
    | 0x10, 0x24 => fixBits free 0x3001F 0x3001F
    | 0x11, 0 => fixBits free 0xC7FF00FF (0x11 + 2047 * 0x10000 + 0x40000000 * b2n s.msix.functionMask + 0x80000000 * b2n s.msix.enable)
    | 0x11, 4 => 4
    | 0x11, 8 => 0x8004
    | 0x10001, 4 => s.hif.aer
    | 0x10001, 0xC => BitVec.ofNat 32 (2 ^ 4 + 2 ^ 18)
    | 0x10001, 0x18 => fixBits free 0xA0 0xA0
    | 0x1001B, 4 => fixBits free 0x1F06 (20 * 256)
    | 0x1002F, 4 => fixBits free 0xE 0xE
    | 0x10030, 4 => fixBits free 0xFF0003 (3 + 63 * 0x10000)
    | _, _ => free

/-- A configuration register by its byte offset: the identity of R35, Bus Master Enable, the BARs of R50 (64-bit, not prefetchable, the address bits below the size
zero), the capabilities of R36; the rest the manual does not give. -/
def State.cfgReg (s : State) (reg : Nat) : W32 :=
  let free := Config.cfgReg reg s.freeCtr
  match reg with
  | 0x00 => BitVec.ofNat 32 (s.part.number * 65536 + Config.vendorId.toNat)
  | 0x04 => (free &&& ~~~4#32) ||| (if s.hif.busMaster then 4 else 0)
  | 0x08 => BitVec.ofNat 32 (0x108000 * 256 + Config.stepping.toNat)
  | 0x0C => free &&& 0xFF00FFFF#32
  | 0x10 => fixBits free (0x8000000 - 1) 4
  | 0x18 => fixBits free (0x1000000 - 1) 4
  | 0x20 => fixBits free (0x10000 - 1) 4
  | 0x14 | 0x1C | 0x24 => free
  | 0x2C => s.hif.subsys
  | _ =>
    match capAt reg with
    | some c => s.capWord c.1 c.2 free
    | none => free

/-- CONFIG_REQUEST: a read of a configuration register, answered with Request Retry Status while the reset of R43 runs. -/
def opConfigRequest (reg : Nat) (s : State) : State :=
  if !s.linkUp then s
  else if s.hif.flrActive then s.wake.send .retryStatus
  else ({ s.wake with freeCtr := s.freeCtr + 1 }).send (.cfgReply reg (s.cfgReg reg))

/-- CONFIG_REQUEST. -/
def execConfigRequest (reg : Nat) (s : State) : Host.Outcome State Fault Refusal := ret (opConfigRequest reg s)

/-- IO_REQUEST: Unsupported Request. -/
def opIoRequest (s : State) : State := if s.linkUp then (s.wake.aerSet 20).send .unsupported else s

/-- IO_REQUEST. -/
def execIoRequest (s : State) : Host.Outcome State Fault Refusal := ret (opIoRequest s)

/-! ### Link states (R38) -/

/-- L1_ENTRY: the host has enabled it, and 32 µs have passed without work. -/
def opL1Entry (s : State) : State :=
  if s.hif.link = .l0 ∧ !s.hasWork then { s with hif := { s.hif with link := .l1 } } else s

/-- L1_ENTRY. -/
def execL1Entry (s : State) : Host.Outcome State Fault Refusal := ret (opL1Entry s)

/-- L0P_REQUEST: a width up to the one trained. -/
def opL0pRequest (width : Nat) (s : State) : State :=
  if s.linkUp ∧ width ∈ [1, 2, 4, 8, 16] ∧ width ≤ s.hif.trained.toNat then
    ({ s.wake with hif := { s.wake.hif with width := BitVec.ofNat 5 width } }).send (.linkWidth (BitVec.ofNat 5 width))
  else s

/-- L0P_REQUEST. -/
def execL0pRequest (width : Nat) (s : State) : Host.Outcome State Fault Refusal := ret (opL0pRequest width s)

/-! ### IDE key management (R48) -/

/-- What an exchange makes of a stream: keys programmed, with the association of a selective stream; streams made Secure; keys taken away. -/
def IdeStream.exchange (x : IdeStream) (k : Nat) (key : List Byte) (m : IdeKm) : IdeStream :=
  match m with
  | .keyProg area => { x with state := 1, key := key, area := if k = 0 then none else some area }
  | .setGo => if x.state = 1 then { x with state := 2 } else x
  | .setStop => { x with state := 0, key := [] }

/-- IDE_KM, within an authenticated session alone; the keys are drawn inside the device. -/
def opIdeKm (session : Bool) (k : Nat) (m : IdeKm) (s : State) : State :=
  if s.fnOpen ∧ session ∧ k ≤ 64 then
    let key := Config.drbg s.freeCtr 32
    { s.wake with hif := { s.wake.hif with ide := Assoc.set s.hif.ide k ((s.hif.stream k).exchange k key m) }, freeCtr := s.freeCtr + 1 }
  else s

/-- IDE_KM. -/
def execIdeKm (session : Bool) (k : Nat) (m : IdeKm) (s : State) : Host.Outcome State Fault Refusal := ret (opIdeKm session k m s)

end Sys2Proof.Machine
end

