-- ==== Sys2Proof/Machine/Views.lean ====
section
/-! DEFINITION. What the registers of the pages read as (R55, and the page rule of each block), and what the registers of a portal read as (R61 to R63, R133,
R148). -/

namespace Sys2Proof.Machine

/-- A register from its fields: the low bit of each, and its value. -/
def word (fs : List (Nat × Nat)) : W32 := BitVec.ofNat 32 ((fs.map (fun f => f.2 * 2 ^ f.1)).foldl (· + ·) 0)

/-- Word j of a byte string, byte 4j in bits [7:0]. -/
def byteWord (bs : List Byte) (j : Nat) : W32 := BitVec.ofNat 32 (fieldLe bs (4 * j) 4)

/-- Count of the entries of a table that pass a test. -/
def countOf {α : Type} (m : Assoc α) (p : α → Bool) : Nat := (m.filter (fun x => p x.2)).length

/-! ### Common header (R55) -/

/-- The FCL source of bit 0 of a page's FLT_STICKY and the number of its bits (R437, R438). -/
def stickyMap (blk inst : Nat) : Nat × Nat :=
  match blk with
  | 0x07 => (640, 24)
  | 0x0A => (608 + 8 * inst, 4)
  | 0x10 => (32 * inst, 4)
  | 0x11 => (32 * inst + 8, 3)
  | 0x12 => (512 + 8 * inst, 5)
  | 0x13 => (544 + 8 * inst, 4)
  | 0x15 => (560, 4)
  | 0x16 => (576, 4)
  | 0x17 => (672 + 4 * inst, 4)
  | 0x18 => (688, 3)
  | _ => (0, 0)

/-- FLT_STICKY: the sticky bits of the page's sources. -/
def Die.fltSticky (x : Die) (blk inst : Nat) : W32 :=
  let m := stickyMap blk inst
  word ((List.range m.2).map (fun b => (b, b2n (Assoc.get? x.fcl.sticky (m.1 + b)).isSome)))

/-- VERSION (R55, R517): BLEVEL 1 (R4), MAJOR 1 since no block offers a level above 1, MINOR 0 on the first stepping. -/
def versionWord (blk : Nat) : W32 :=
  word [(24, 1), (16, 1), (0, if Config.stepping = 1 then 0 else (Config.blockMinor blk).toNat)]

/-- ID, VERSION and CAPS of a page. -/
def State.pageIdent (s : State) (d blk inst o : Nat) : W32 :=
  match o with
  | 0x000 => word [(16, blk), (8, inst), (0, d)]
  | 0x004 => versionWord blk
  | 0x008 => word [(0, pagesOf blk), (8, s.nDies), (16, blockCaps s.part blk)]
  | _ => 0

/-! ### Engines (R221, R249, R303, R324) -/

/-- CUR_JOB: the owner of a job, and that one is held. -/
def State.curJob (s : State) (d : Nat) (j : Option Nat) : W32 :=
  match j.bind (s.job? d) with
  | none => 0
  | some x => word [(0, if x.src.mgr then 0 else x.src.inst), (12, b2n x.src.mgr), (31, 1)]

/-- A skip pattern and the one held. -/
def EngineMap.skipWord (m : EngineMap) : W32 := word [(0, m.skip.toNat), (16, (m.next.map (fun p => p.2.toNat)).getD 0)]

/-- The map request held. -/
def EngineMap.nextWord (m : EngineMap) : W32 := (m.next.map Prod.fst).getD 0

/-- An LVE page. -/
def State.viewLve (s : State) (d e o : Nat) : W32 :=
  let x := s.die d
  match x.lves[e]? with
  | none => 0
  | some u =>
    let prog := Assoc.get? x.programs (bits (x.reg LVE e 0x200) 0 6)
    match o with
    | 0x014 => word [(0, if u.svc.fence ≠ 0 then 3 else if u.eng.job.isSome then 1 else 2 * b2n u.svc.wiping), (2, b2n u.map.probe),
        (3, b2n (bit (x.reg LVE e 0x010) 0 && u.eng.job.isNone && u.fill.isNone)), (4, b2n (decide (u.eng.phase = LvePhase.passWait)))]
    | 0x108 => s.curJob d u.eng.job
    | 0x118 => word [(0, u.svc.maskBuf)]
    | 0x204 => (prog.map (fun p => word [(0, 1), (16, progField p.image 10 2), (31, b2n (decide (p.inst = 0xFFFF)))])).getD 0
    | 0x208 => (prog.map (fun p => word [(0, p.svn)])).getD 0
    | 0x20C => (prog.map (fun p => byteWord p.hash 0)).getD 0
    | _ => x.reg LVE e o

/-- An MCS page; from 0x200 the shared store. -/
def State.viewMcs (s : State) (d e o : Nat) : W32 :=
  let x := s.die d
  match x.lves[e]? with
  | none => 0
  | some u =>
    match o with
    | 0x014 => word [(0, if u.svc.fence ≠ 0 then 3 else if u.eng.phase = LvePhase.running then 1 else 2 * b2n (u.svc.wiping && u.eng.job.isNone)), (2, b2n u.map.next.isSome),
        (3, b2n u.map.probeMap.isSome), (4, b2n u.eng.abortReq)]
    | 0x100 => u.map.cyc
    | 0x104 => u.map.nextWord
    | 0x108 => x.fuses.cycLve
    | 0x10C => u.map.skipWord
    | 0x118 => word [(0, u.svc.fence.toNat)]
    | 0x200 => byteWord Config.mRom 0
    | 0x204 => word [(0, x.patch.state), (8, x.patch.reason), (16, x.patch.images)]
    | 0x208 => word [(0, x.patch.svn)]
    | 0x20C => word [(0, x.patch.words)]
    | 0x210 => word [(0, x.patch.vectors)]
    | 0x214 => word [(0, x.patch.refreshes)]
    | _ => x.reg MCS e o

/-- A lane's owner fields; HELD reads 0 on the parts that wipe after every job (R300, R303). -/
def State.laneWord (s : State) (l : BneLane) : Nat :=
  (if l.lastMgr then 0 else l.lastInst) % 4096 + 4096 * b2n l.lastMgr + 8192 * b2n (l.held && decide (s.part = .vq8100 ∨ s.part = .vq8200))

/-- A BNE page. -/
def State.viewBne (s : State) (d k o : Nat) : W32 :=
  let x := s.die d
  match x.bnes[k]? with
  | none => 0
  | some u =>
    let job := u.running.bind (fun one => (u.lane one).job)
    match o with
    | 0x014 => word [(0, if u.svc.fence ≠ 0 then 3 else if u.betweenLegs then 2 else b2n job.isSome), (2, b2n (u.running.getD false)),
        (3, b2n (u.lane0.wiping || u.lane1.wiping)), (4, b2n (u.lane0.staged || u.lane1.staged)), (5, b2n u.map.probe),
        (6, b2n (bit (x.reg BNE k 0x010) 0 && u.running.isNone)), (7, b2n u.map.next.isSome)]
    | 0x108 => s.curJob d job
    | 0x10C => word [(0, s.laneWord u.lane0), (16, s.laneWord u.lane1)]
    | 0x120 => u.map.cyc
    | 0x124 => u.map.nextWord
    | 0x128 => x.fuses.cycBne
    | 0x12C => u.map.skipWord
    | 0x138 => word [(0, u.svc.fence.toNat)]
    | _ => x.reg BNE k o

/-- An SYE page. -/
def State.viewSye (s : State) (d i o : Nat) : W32 :=
  let x := s.die d
  match x.syes[i]? with
  | none => 0
  | some u =>
    let ctx := u.running.bind (Assoc.get? u.ctxs)
    match o with
    | 0x014 => word [(0, if u.svc.fence ≠ 0 then 3 else b2n u.running.isSome), (2, b2n u.hold.isSome),
        (3, b2n (bit (x.reg SYE i 0x010) 0 && u.ctxs.isEmpty))]
    | 0x108 => s.curJob d (ctx.map SyeCtx.job) ||| word [(13, b2n ((ctx.map SyeCtx.digest).getD false))]
    | 0x10C => word [(0, u.ctxs.length)]
    | 0x118 => word [(0, u.svc.maskBuf)]
    | 0x120 => word [(0, u.svc.fence.toNat)]
    | _ => x.reg SYE i o

/-- The MHA page (R325). -/
def Die.viewMha (x : Die) (o : Nat) : W32 :=
  let m := x.mha
  let st := match m.state with
    | .idle => 0
    | .open_ => 1
    | .done => 2
    | .error => 3
  if o = 0x10C then word [(0, st), (4, m.result.toNat), (16, m.ranges)]
  else if o = 0x110 then BitVec.ofNat 32 m.msg.length
  else if 0x140 ≤ o then byteWord m.digest ((o - 0x140) / 4)
  else x.reg MHA 0 o

/-- The RNG page (R326); raw samples are free values, shown in TESTED alone. -/
def State.viewRng (s : State) (d o : Nat) : W32 :=
  let x := s.die d
  let r := x.rng
  match o with
  | 0x100 => word [(0, b2n r.noiseOk), (1, b2n r.drbgReady), (2, b2n r.feedRun), (3, b2n r.recovering), (4, b2n r.disabled), (5, r.pool)]
  | 0x110 => word [(0, r.reqs)]
  | 0x120 => if s.lc = 1 ∧ bit (x.reg RNG 0 0x11C) 31 then BitVec.ofNat 32 (Config.freeNat s.freeCtr) else 0
  | _ => x.reg RNG 0 o

/-- The code of a channel's state (R344). -/
def ChState.code : ChState → Nat
  | .idle => 0 | .active => 1 | .pacing => 2 | .stopped => 3 | .held => 4

/-- The role of a channel (R327, R344). -/
def chRole (ch : Nat) : Nat := if ch < 12 then 0 else ch - 11

/-- What a channel shows. Channel 12 shows its first read (a KPC fill has the KPC for destination); the transfers of channels 14 and 15 belong to blocks that keep them
elsewhere (log 72): a card response, the record under way of the backup media. -/
def State.shownChan (s : State) (d ch : Nat) : Channel :=
  let x := s.die d
  let c := x.chan ch
  let held (j inst : Nat) (mgr dev : Bool) (src dst n : Nat) : Channel :=
    { c with state := .active, job := some j, inst := inst, mgr := mgr, dev := dev, srcKind := src, dstKind := dst, remain := n }
  if ch = 12 then
    (match x.kvdReads with
    | r :: _ =>
      let fills := match r.what with | .job _ part => decide (2 ≤ part) | _ => false
      { held 0xFFFF r.inst r.mgr false 0 (if fills then 6 else 5) r.len with state := if r.sent then .active else if s.hostOpen then .stopped else .held }
    | [] => c)
  else if ch = 14 ∧ d = 0 then (if s.cards.ports.any (fun p => decide (p.wait ≠ .none ∧ p.wait ≠ .debounce)) then held 0xFFFF 0 false true 7 5 0 else c)
  else if ch = 15 ∧ d = 0 then
    (match s.bmp.op with
    | some b => if b.checking ∨ b.waiting then c else if b.exporting then held b.job 0 true false 5 8 (512 * b.blocks - 512 * b.block) else held b.job 0 true false 8 5 512
    | none => c)
  else c

/-- The DMX page (R344). -/
def State.viewDmx (s : State) (d o : Nat) : W32 :=
  let x := s.die d
  let ch := bits (x.reg DMX 0 0x100) 0 4
  let c := s.shownChan d ch
  match o with
  | 0x014 => word ((List.range 16).map (fun k => (k, b2n (s.shownChan d k).job.isSome)))
  | 0x104 => word [(0, b2n c.offline)]
  | 0x108 => word [(0, c.state.code), (3, b2n (c.offline && c.job.isNone)), (4, chRole ch)]
  | 0x10C => if c.job.isNone then 0 else word [(0, if c.mgr then 0 else c.inst), (14, b2n c.mgr), (15, b2n c.dev), (31, 1)]
  | 0x110 => word [(0, c.srcKind), (4, c.dstKind), (8, c.xform), (16, c.fieldBytes)]
  | 0x114 => word [(0, c.descLen - c.got)]
  | 0x118 => c.descs
  | _ => x.reg DMX 0 o

/-! ### The host interface and the queues (R60, R133, R146, R147) -/

/-- The HIF page of die 0. -/
def State.viewHif (s : State) (o : Nat) : W32 :=
  let h := s.hif
  match o with
  | 0x100 => word [(0, h.speed.toNat), (4, h.width.toNat), (9, b2n h.flit), (10, b2n (decide (h.width < h.trained))),
      (12, match h.link with | .detect => 0 | .training => 0 | .l0 => 1 | .l1 => 2)]
  | 0x120 => word [(0, b2n h.flrActive), (16, h.flrCount.toNat)]
  | 0x204 => let x := h.stream (s.reg 0 HIF 0 0x200).toNat
    word [(0, x.state.toNat), (8, x.fails.toNat)]
  | _ => s.reg 0 HIF 0 o

/-- A ring index as a register shows it: the slot, and LAP in bit 15 (R133, R147). -/
def slotLap (k i : Nat) : Nat := i % 2 ^ k % 2 ^ 15 + 2 ^ 15 * (i / 2 ^ k % 2)

/-- QC_STATE, and the low half of Q_STATUS. -/
def QCtx.stateBits (c : QCtx) : List (Nat × Nat) := [(0, c.state.code), (3, b2n c.stalled), (4, b2n c.headErr), (8, c.errCode.toNat)]

/-- SQ_INVAL as it reads (R133). -/
def QCtx.inval (c : QCtx) : W32 := word [(0, slotLap c.rings.ks c.errIndex), (16, c.discarded), (31, b2n c.invDone)]

/-- The window of a queue context, from 0x200 (R147). -/
def QCtx.view (c : QCtx) (o : Nat) : W32 :=
  let r := c.rings
  match o with
  | 0x200 => r.ctrl
  | 0x204 => word (c.stateBits ++ [(16, c.epoch.toNat)])
  | 0x208 => r.sqBase.extractLsb' 0 32
  | 0x20C => r.sqBase.extractLsb' 32 32
  | 0x210 => r.cqBase.extractLsb' 0 32
  | 0x214 => r.cqBase.extractLsb' 32 32
  | 0x218 => r.shadow.extractLsb' 0 32
  | 0x21C => r.shadow.extractLsb' 32 32
  | 0x220 => word [(0, r.sqHead)]
  | 0x224 => word [(0, r.sqTail)]
  | 0x228 => word [(0, r.cqHead)]
  | 0x22C => word [(0, r.cqTail)]
  | 0x230 => BitVec.ofNat 32 c.seqNo
  | 0x234 => word [(0, slotLap r.ks c.errIndex)]
  | 0x238 => word [(0, c.errCode.toNat)]
  | 0x23C => r.irq
  | 0x240 => word [(0, c.inflight), (16, c.held.length)]
  | 0x248 => if r.mgr then c.inval else 0
  | _ => 0

/-- QMG.QSEL. -/
def Die.qsel (x : Die) : Nat := bits (x.reg QMG 0 0x100) 0 12

/-- The QMG page. -/
def Die.viewQmg (x : Die) (o : Nat) : W32 :=
  match o with
  | 0x108 => word [(0, countOf x.queues (fun q => decide (q.ctx.state ≠ .disabled)))]
  | 0x10C => word [(0, countOf x.queues (fun q => q.ctx.stalled))]
  | 0x110 => word [(0, countOf x.queues (fun q => decide (q.ctx.state = .error)))]
  | _ => if 0x200 ≤ o then (x.queue x.qsel).ctx.view o else x.reg QMG 0 o

/-! ### Instances and keys (R369, R181, R182) -/

/-- An instance exists: its number is bound and its portal live, or it is being destroyed. -/
def InstCode.exists_ (c : InstCode) : Bool := c.live || decide (c = .destroying)

/-- The VIM page of die 0. -/
def State.viewVim (s : State) (o : Nat) : W32 :=
  let n := s.instSel
  let i := s.inst n
  let m := i.portal.mb
  if 0x180 ≤ o ∧ o < 0x1C0 then m.toMgr.getD ((o - 0x180) / 4) 0
  else if 0x1C0 ≤ o ∧ o < 0x200 then m.out.getD ((o - 0x1C0) / 4) 0
  else match o with
  | 0x104 => word [(0, i.code.code), (8, if i.code.exists_ then i.cfg.homes.length else 0), (16, i.cfg.dies.toNat), (24, b2n i.token.isSome)]
  | 0x108 => word [(0, i.cfg.pasid.toNat)]
  | 0x10C => word [(0, i.cfg.share)]
  | 0x114 => i.jobs
  | 0x118 => i.busy
  | 0x11C => byteWord (s.bbram.instRec n).ownerId 0
  | 0x140 => match s.insts.find? (fun (p : Nat × Inst) => p.2.portal.mb.toFull) with
    | some p => word [(0, p.1), (31, 1)]
    | none => 0
  | 0x144 => word [(0, b2n m.toFull), (1, b2n m.fromFull), (2, b2n m.overflowOut), (3, b2n m.buf)]
  | 0x214 => word [(0, countOf s.insts (fun x => x.code.live))]
  | _ => s.reg 0 VIM 0 o

/-- AUTHENTICATED cards. -/
def State.authCards (s : State) : Nat := (s.cards.ports.filter (fun c => decide (c.state = .authenticated))).length

/-- M of the roster in force. -/
def State.rosterM (s : State) : Nat := (s.cards.roster.map Roster.m).getD 0

/-- The KVD page; transient keys count as slots (R162). -/
def State.viewKvd (s : State) (d o : Nat) : W32 :=
  let x := s.die d
  let n := bits (x.reg KVD 0 0x120) 0 12
  let tr := (s.inst n).stagedUse
  match o with
  | 0x100 => word [(0, (s.slotUse d).1), (16, (s.slotUse d).2)]
  | 0x104 => word [(0, s.bbram.counters.length)]
  | 0x108 => word [(0, x.kvd.svnFw), (8, x.kvd.svnMc), (16, b2n x.kvd.prevDsk.isSome)]
  | 0x10C => word [(0, b2n s.cards.quorum.present), (1, s.authCards), (4, s.rosterM)]
  | 0x124 => word [(0, (x.kvd.used n).1 + tr.1), (16, (s.inst n).cfg.slotQ)]
  | 0x128 => word [(0, (x.kvd.used n).2 + tr.2), (16, (s.inst n).cfg.extentQ)]
  | 0x12C => word [(0, s.bbram.countersOf n), (16, (s.inst n).cfg.counterQ)]
  | 0x130 => (s.bbram.instRec n).root.version
  | _ => x.reg KVD 0 o

/-- The KPC page. -/
def State.viewKpc (s : State) (d o : Nat) : W32 :=
  let x := s.die d
  let n := bits (x.reg KPC 0 0x104) 0 12
  match o with
  | 0x100 => word [(0, 0x1000), (16, (x.kpc.map (fun (p : Nat × KpcEntry) => p.2.units)).foldl (· + ·) 0
      + (s.insts.map (fun (p : Nat × Inst) => (p.2.curves.map (fun (c : Nat × CurveRec) => curveUnits c.2)).foldl (· + ·) 0)).foldl (· + ·) 0)]
  | 0x108 => word [(0, s.kpcUsed x.kpc n), (16, (s.inst n).cfg.kpcQ)]
  | _ => x.reg KPC 0 o

/-! ### Relay, cards, backup media (R391, R416, R417) -/

/-- A set of dies as a mask. -/
def dieMask (m : Assoc Unit) : Nat := (m.map (fun (p : Nat × Unit) => 2 ^ p.1)).foldl (· + ·) 0

/-- The code of a Relay port's state. -/
def PortState.code : PortState → Nat
  | .absent => 0 | .training => 1 | .up => 2 | .down => 3 | .peerExcluded => 4

/-- The code of BATON.RESULT. -/
def BatonResult.code : BatonResult → Nat
  | .electing => 0 | .clean => 1 | .split => 2 | .noHolder => 3

/-- An RLK page; from 0x200 the package. The payload that the links carry depends on frames whose contents the manual does not give: its counts are free (log 111). -/
def State.viewRlk (s : State) (d p o : Nat) : W32 :=
  let b := s.baton
  match o with
  | 0x100 => match (s.die d).ports[p]? with
    | none => 0
    | some x => if x.state = .absent then 0 else word [(0, x.state.code), (4, (s.peer d p).1), (7, (s.peer d p).2)]
  | 0x200 => word [(0, b.holder.getD 0), (3, b2n b.holder.isSome), (4, b.result.code), (6, b2n s.serving), (8, b.code)]
  | 0x204 => word [(0, dieMask b.present), (8, dieMask b.reachable), (16, dieMask b.excluded)]
  | 0x208 => s.electId
  | 0x110 | 0x114 | 0x118 => if s.nDies = 1 then 0 else BitVec.ofNat 32 (Config.freeNat s.freeCtr)
  | _ => (s.die d).reg RLK p o

/-- A CIU page; from 0x200 the quorum, the same on all four. IDLE_LEFT runs with time, which the model does not count. -/
def State.viewCiu (s : State) (p o : Nat) : W32 :=
  let c := s.cardPort p
  let q := s.cards.quorum
  match o with
  | 0x014 => word [(0, c.state.code), (3, b2n c.present), (4, c.link.cls), (6, b2n c.link.t1), (7, b2n c.link.clkStopped), (8, b2n c.session.share.isSome)]
  | 0x100 => if c.state = .authenticated then byteWord c.session.cardId 0 else 0
  | 0x104 => word [(0, c.link.fi), (16, c.link.di), (24, if c.link.t1 then c.link.ifsc else 0)]
  | 0x108 => word [(0, c.reason.toNat)]
  | 0x200 => word [(0, b2n q.present), (1, s.authCards), (4, s.rosterM), (8, (s.cards.roster.map Roster.n).getD 0),
      (16, if q.present then Config.freeNat s.freeCtr % (q.idle + 1) else 0)]
  | 0x208 => (s.cards.roster.map (fun r => byteWord r.digest 0)).getD 0
  | _ => s.reg 0 CIU p o

/-- The BMP page. -/
def State.viewBmp (s : State) (o : Nat) : W32 :=
  let b := s.bmp
  match o with
  | 0x014 => word [(0, b.state.code), (3, b2n b.present), (4, b.mode), (7, b2n b.wide), (8, b2n b.s18), (9, b.capacity)]
  | 0x100 => BitVec.ofNat 32 b.blocks
  | 0x104 => word [(0, b.volState)]
  | 0x108 => byteWord b.volId 0
  | 0x10C => BitVec.ofNat 32 b.volRecords
  | _ => s.reg 0 BMP 0 o

/-! ### Security and package blocks (R435, R436, R458 to R460, R476, R499, R500, R515, R516) -/

/-- The TMN page: STATUS, the response level and the alarms of the package; the rest the die's own. -/
def State.viewTmn (s : State) (d o : Nat) : W32 :=
  let t := (s.die d).tmn
  match o with
  | 0x014 => word [(0, s.level), (2, b2n t.gated), (3, b2n t.dip), (4, b2n (decide (s.baton.result = .split) || s.bbd.split)), (5, b2n (!s.oskValid))]
  | 0x10C => t.active
  | 0x110 => (t.temp.map (fun x => word [(0, x.toNat), (31, 1)])).getD 0
  | 0x114 => (t.tempMax.map (fun x => word [(0, x.toNat)])).getD 0
  | 0x11C => s.reg 0 TMN 0 0x11C
  | 0x120 => word [(0, t.mv)]
  | _ => (s.die d).reg TMN 0 o

/-- The BBD page of die 0. -/
def State.viewBbd (s : State) (o : Nat) : W32 :=
  let b := s.bbd
  let e := b.record.getD (bits (s.reg 0 BBD 0 0x124) 0 4) []
  match o with
  | 0x100 => b.rtc.extractLsb' 0 32
  | 0x104 => b.rtcHi
  | 0x108 => b.mono.extractLsb' 0 32
  | 0x10C => b.monoHi
  | 0x110 => word [(0, b2n b.lock), (1, b2n b.osk.isSome), (2, b2n b.split), (3, b2n b.contentOk)]
  | 0x114 => word [(0, s.pkg.vbatMv % 4096), (12, b2n b.low), (13, b2n s.mainPower)]
  | 0x118 => b.tmpCfg
  | 0x11C => word [(0, b.tmpState.toNat)]
  | 0x120 => word [(0, b.record.length), (8, b.overflow.toNat)]
  | 0x128 => byteWord e 0
  | 0x12C => byteWord e 1
  | 0x130 => byteWord e 2
  | _ => s.reg 0 BBD 0 o

/-- Groups of sources as a mask, from group `lo`. -/
def groupMask (m : Assoc Unit) (per lo : Nat) : W32 :=
  word ((List.range 32).map (fun g => (g, b2n (m.any (fun (p : Nat × Unit) => decide (p.1 / per = lo + g))))))

/-- The FCL page; FAULT_PIN and FAULT_STATE on die 0 alone. -/
def State.viewFcl (s : State) (d o : Nat) : W32 :=
  let x := s.die d
  let f := x.fcl
  let src := bits (x.reg FCL 0 0x100) 0 11
  let sticky := b2n (Assoc.get? f.sticky src).isSome
  let severe := b2n (Assoc.get? f.severe src).isSome
  match o with
  | 0x104 => f.cfgWord src
  | 0x108 => word [(0, sticky), (1, severe), (8, min 255 (f.heatSum src))]
  | 0x10C => word [(0, sticky), (1, severe)]
  | 0x114 => f.group (bits (x.reg FCL 0 0x110) 0 6)
  | 0x120 => groupMask f.handling 1 0
  | 0x124 => groupMask f.handling 1 32
  | 0x128 => groupMask f.severe 32 0
  | 0x12C => groupMask f.severe 32 32
  | 0x130 => if d = 0 then x.reg FCL 0 0x130 else 0
  | 0x134 => if d = 0 then word [(0, b2n s.faultLow), (1, b2n s.pkg.fault.pulse), (2, b2n s.pkg.fault.resetHold), (3, b2n s.pkg.fault.noHolder)] else 0
  | _ => x.reg FCL 0 o

/-- A word of an interrupt table entry. -/
def IitEntry.word (e : IitEntry) (w : Nat) : W32 :=
  if w = 0 then e.addr.extractLsb' 0 32 else if w = 1 then e.addr.extractLsb' 32 32 else if w = 2 then e.data else e.ctl

/-- The EVR page of die 0. -/
def State.viewEvr (s : State) (o : Nat) : W32 :=
  let sel := s.reg 0 EVR 0 0x100
  match o with
  | 0x104 => s.evr.route (bits sel 0 3) (bits sel 4 8) (bits sel 12 4)
  | 0x10C => Assoc.getD s.evr.mqRoutes (s.reg 0 EVR 0 0x108).toNat 0
  | _ =>
    if 0x114 ≤ o ∧ o ≤ 0x120 then (s.evr.iitEntry (bits (s.reg 0 EVR 0 0x110) 0 15)).word ((o - 0x114) / 4) else s.reg 0 EVR 0 o

/-- The ALG page of the holder. -/
def State.viewAlg (s : State) (o : Nat) : W32 :=
  let a := s.alg
  match o with
  | 0x014 => word [(0, if a.free ≤ 74 then 3 else if a.free ≤ 330 then 2 else b2n (decide ((s.reg s.algDie ALG 0 0x108).toNat ≤ a.occupancy))),
      (2, b2n a.signing), (3, b2n a.draining.isSome), (4, b2n a.stopped)]
  | 0x100 => BitVec.ofNat 32 a.seqNo
  | 0x104 => word [(0, a.occupancy)]
  | 0x10C => byteWord a.chain 0
  | 0x110 => BitVec.ofNat 32 a.ckptSeq
  | 0x118 => BitVec.ofNat 32 (min a.missed 0xFFFFFFFF)
  | _ => s.reg s.algDie ALG 0 o

/-- The PCR page. -/
def Die.viewPcr (x : Die) (o : Nat) : W32 :=
  let p := x.pcr
  let e := p.engines[bits (x.reg PCR 0 0x120) 0 5]?
  match o with
  | 0x10C => word [(0, p.setMv), (16, b2n p.ramping.isSome), (17, b2n p.avsFail)]
  | 0x110 => word [(0, p.marginYears)]
  | 0x114 => BitVec.ofNat 32 p.degPpm
  | 0x118 => BitVec.ofNat 32 p.stress
  | 0x11C => match p.worst with
    | none => 0
    | some w => word [(0, w.1), (8, w.2.1), (16, (BitVec.ofInt 8 (max (-128) (min 127 w.2.2))).toNat)]
  | 0x124 => match e with
    | none => 0
    | some y => word ((y.margin.zipIdx).map (fun (m : Int × Nat) => (4 * m.2, (min 15 (m.1 + 1)).toNat)))
  | 0x128 => match e with
    | none => 0
    | some y => word [(0, min y.age 0xFFFF), (16, b2n y.hold), (17, b2n y.skipped), (18, b2n y.never)]
  | 0x12C => word [(0, p.skipLevel)]
  | 0x144 => word [(0, p.slackMin % 4096)]
  | _ => x.reg PCR 0 o

/-- BASE: the highest state whose codeword the word contains, and the bits of the next one that it lacks (R486, R499). -/
def lcBaseWord (w : W64) : W32 :=
  match lcBase [w] with
  | none => word [(0, 0xF), (8, 0xF)]
  | some b =>
    let c := lcWord (b + 1)
    word [(0, b), (8, if b < 6 ∧ w ||| c = c then ((List.range 64).filter (fun i => bit c i && !bit w i)).length else 0xF)]

/-- The LCC page: the die's fuses, and the transition of the package. -/
def State.viewLcc (s : State) (d o : Nat) : W32 :=
  let f := (s.die d).fuses
  match o with
  | 0x100 => word [(0, lcCode f.lc), (4, b2n (decide (lcCode f.lc ≤ 1))), (5, b2n f.ownerDigest.isSome), (6, b2n f.roster.isSome), (7, b2n f.scrapDone)]
  | 0x104 => f.lc.extractLsb' 0 32
  | 0x108 => f.lc.extractLsb' 32 32
  | 0x10C => lcBaseWord f.lc
  | 0x110 => match s.lcc.xfer with
    | none => word [(24, s.lcc.result)]
    | some t => word [(0, t.phase), (4, t.target), (8, t.done), (16, t.total), (24, s.lcc.result)]
  | 0x114 => f.uid.extractLsb' 0 32
  | 0x118 => f.uid.extractLsb' 32 32
  | 0x120 => (f.ownerDigest.map (fun b => byteWord b 0)).getD 0
  | _ => (s.die d).reg LCC 0 o

/-- ALIVE_STATUS.STOP: the first condition of R505 that does not hold. -/
def State.aliveStop (s : State) : Nat :=
  if !s.pkg.ready then 1 else if s.pkg.lock then 2 else if !s.serving then 3 else if s.lc = 0xF ∨ s.lc = 6 then 4 else if !s.pkg.aliveFresh then 5 else 0

/-- The CRU page. -/
def State.viewCru (s : State) (d o : Nat) : W32 :=
  let x := s.die d
  match o with
  | 0x100 => word [(0, 1), (1, b2n (!bit x.tmn.active 3))]
  | 0x104 => word [(0, x.boot.cause), (8, x.boot.kind)]
  | 0x108 => word [(0, x.boot.step), (4, x.boot.failed)]
  | 0x110 => if d = 0 then word [(0, b2n s.pkg.alive), (1, s.aliveStop)] else 0
  | 0x114 => word [(0, x.boot.time.toNat)]
  | _ => x.reg CRU 0 o

/-- The BFI page of die 0. -/
def State.viewBfi (s : State) (o : Nat) : W32 :=
  let b := s.bfi
  match o with
  | 0x100 => word [(0, b.mode), (8, if b.mode = 2 then 100 else if b.mode = 1 then 25 else 0)]
  | 0x104 => word [(0, b.copy), (4, b2n b.fallback)]
  | 0x108 => BitVec.ofNat 32 b.seq
  | 0x118 => word [(0, b.state), (8, b.err.toNat)]
  | _ => s.reg 0 BFI 0 o

/-- The MGI page of die 0. -/
def State.viewMgi (s : State) (o : Nat) : W32 :=
  match o with
  | 0x100 => word [(0, s.stateNow.toNat)]
  | 0x104 => word [(0, b2n s.pkg.alertLow)]
  | _ => s.reg 0 MGI 0 o

/-! ### A register of a die window (R51 to R57, R520) -/

/-- The die whose page is authoritative for a register (R520). -/
def State.authDie (s : State) (d blk o : Nat) : Nat :=
  if blk = VIM then 0
  else if blk = ALG then s.algDie
  else if blk = RLK ∧ 0x200 ≤ o then 0
  else if blk = KVD ∧ (o = 0x104 ∨ o = 0x10C ∨ o = 0x12C ∨ o = 0x130) then 0
  else d

/-- What a register of a page shows, the header's identity apart. -/
def State.viewReg (s : State) (d blk inst o : Nat) : W32 :=
  if o = 0x024 then (s.die d).fltSticky blk inst
  else
    match blk with
    | 0x01 => s.viewCru d o
    | 0x03 => s.viewLcc d o
    | 0x04 => s.viewFcl d o
    | 0x05 => s.viewEvr o
    | 0x06 => s.viewAlg o
    | 0x07 => s.viewTmn d o
    | 0x08 => s.viewBbd o
    | 0x09 => (s.die d).viewPcr o
    | 0x0A => s.viewRlk d inst o
    | 0x0B => s.viewHif o
    | 0x0C => (s.die d).viewQmg o
    | 0x0D => s.viewVim o
    | 0x0E => s.viewKvd d o
    | 0x0F => s.viewKpc d o
    | 0x10 => s.viewLve d inst o
    | 0x11 => s.viewMcs d inst o
    | 0x12 => s.viewBne d inst o
    | 0x13 => s.viewSye d inst o
    | 0x14 => (s.die d).viewMha o
    | 0x15 => s.viewRng d o
    | 0x16 => s.viewDmx d o
    | 0x17 => s.viewCiu inst o
    | 0x18 => s.viewBmp o
    | 0x19 => s.viewBfi o
    | 0x1A => s.viewMgi o
    | _ => (s.die d).reg blk inst o

/-- A doubleword of a die window as a read returns it: zero where no register is, for a write-only one, and beyond the identity on a page that R21 holds
idle. -/
def State.windowWord (s : State) (d off : Nat) : W32 :=
  let p := woffParts off
  let blk := p.1
  let o := p.2.2
  if pagesOf blk ≤ p.2.1 then 0
  else
    match regRow? blk o with
    | none => 0
    | some r =>
      if o < 0x00C then s.pageIdent d blk p.2.1 o
      else if (d ≠ 0 ∧ idleOff0 blk) ∨ r.acc = .wo then 0
      else s.viewReg (s.authDie d blk o) blk p.2.1 o

/-! ### A register of a portal (R61 to R63, R148) -/

/-- The jobs of a queue in flight, the one submitted earliest first: completions held and jobs dispatched by the SEQ of their dispatch, the head under
preparation, entries fetched; each with its TAG and its progress (R63, R113). -/
def State.inFlight (s : State) (d q : Nat) : List (W64 × Nat × Nat) :=
  let x := s.die d
  let c := (x.queue q).ctx
  let prep := (x.queue q).aux.prep
  let jobs := (x.jobs.filter (fun (p : Nat × Job) => decide (p.2.src.queue = q) && decide (some p.1 ≠ prep))).map
    (fun (p : Nat × Job) => (p.2.src.cqSeq, p.2.sqe.tag, p.2.step, p.2.permille))
  let held := c.held.map (fun h => (h.seqNo, h.cqe.tag, h.step, h.permille))
  let consumed := (held ++ jobs).insertionSort (fun a b => a.1 ≤ b.1)
  let copies := c.window.filterMap (fun i => match Assoc.get? c.win i with
    | some (.copy b) => some ((Sqe.ofBytes b).tag, 0, 0)
    | _ => none)
  let head := (prep.bind (s.job? d)).map (fun j => (j.sqe.tag, j.step, j.permille))
  consumed.map (fun h => h.2) ++ head.toList ++ copies

/-- JOB_PROGRESS: of the first job in flight whose TAG has the low bits selected. -/
def State.jobProgress (s : State) (n : Nat) : W32 :=
  let i := s.inst n
  let all := i.cfg.homes.flatMap (fun h => s.inFlight h.1 h.2)
  if !i.portal.jobSelSet then 0xFFFF
  else
    match all.find? (fun j => decide (j.1.extractLsb' 0 32 = i.portal.jobSel)) with
    | some j => word [(16, j.2.1), (0, j.2.2)]
    | none => 0xFFFF

/-- A queue register of a portal: SQ_TAIL, CQ_HEAD, SQ_INVAL, Q_STATUS. -/
def QCtx.portalWord (c : QCtx) (k : Nat) : W32 :=
  match k with
  | 0 => word [(0, c.rings.sqTail)]
  | 1 => word [(0, c.rings.cqHead)]
  | 2 => c.inval
  | _ => word (c.stateBits ++ [(16, c.rings.cqTail)])

/-- A register of a live portal page. -/
def State.portalWord (s : State) (n o : Nat) : W32 :=
  let i := s.inst n
  let p := i.portal
  let k := p.keys
  if 0x100 ≤ o ∧ o < 0x180 then
    match i.cfg.homes[(o - 0x100) / 16]? with
    | none => 0
    | some h => if (s.die h.1).reachable then ((s.queue h.1 h.2).ctx).portalWord (o / 4 % 4) else 0xFFFFFFFF
  else if 0x200 ≤ o ∧ o < 0x240 then p.mb.toMgr.getD ((o - 0x200) / 4) 0
  else if 0x240 ≤ o ∧ o < 0x280 then p.mb.fromMgr.getD ((o - 0x240) / 4) 0
  else if 0x400 ≤ o ∧ o < 0x420 then k.attChal.getD ((o - 0x400) / 4) 0
  else if 0x440 ≤ o ∧ o < 0x480 then byteWord k.attResp ((o - 0x440) / 4)
  else
    match o with
    | 0x000 => word [(0, n), (31, 1)]
    | 0x004 => versionWord 0
    | 0x008 => word [(0, i.cfg.homes.length)]
    | 0x014 => word [(0, i.code.code)]
    | 0x018 => p.evtPend
    | 0x01C => p.evtEn
    | 0x284 => word [(0, b2n p.mb.toFull), (1, b2n p.mb.fromFull), (2, b2n p.mb.overflow), (3, b2n p.mb.bufBusy), (4, b2n p.mb.bufErr)]
    | 0x344 => word [(0, k.ksState.toNat), (8, k.ksSlot), (16, if k.ksState = 1 then 0 else k.ksErr.toNat)]
    | 0x380 => p.jobSel
    | 0x384 => s.jobProgress n
    | 0x424 => word [(0, k.attState.toNat), (16, if k.attState = 3 then k.attCode.toNat else 0)]
    | _ => 0

/-- A doubleword of BAR2: zero where the instance has no live portal (R62). -/
def State.bar2Word (s : State) (n o : Nat) : W32 := if (s.inst n).code.live then s.portalWord n o else 0

/-- A doubleword of BAR4: the MSI-X table, the PBA, zero in what is reserved (R50). -/
def State.bar4Word (s : State) (off : Nat) : W32 :=
  if off < 0x8000 then (s.msix.entry (off / 16)).word (off / 4 % 4)
  else if off < 0x8100 then s.pbaWord ((off - 0x8000) / 4)
  else 0

end Sys2Proof.Machine
end

