-- ==== Sys2Proof/Machine/HostAccess.lean ====
section
/-! DEFINITION. Host reads and writes of the BARs (R12 to R14, R40, R44, R49 to R63, R449, R520), and the rows that are the write or the read of one
register. -/

namespace Sys2Proof.Machine

/-! ### Admission (R40, R44, R49) -/

/-- A request with a wrong digest, or with none where one is required (R40): AER ECRC Error, the counter, the source. -/
def State.ecrcFail (s : State) : State := ((s.aerSet 19).count 0 HIF 0 0x110).faultAct 0 584

/-- A request may come on a stream: Secure, and a selective stream whose association is the BAR addressed (R48; log 124). -/
def State.streamTakes (s : State) (k bar : Nat) : Bool :=
  decide ((s.hif.stream k).state = 2) && (decide (k = 0) || decide ((s.hif.stream k).area = some (.bar bar)))

/-- The HIF meets a request: the answer says whether it goes on. A request of a stream that is not Secure is refused; nothing is taken while the reset of R43 runs. -/
def State.admitReq (s : State) (r : HostReq) : State × Bool :=
  if !s.fnOpen then (s, false)
  else
    let s := s.wake
    let ideOk := match r.ide with
      | none => true
      | some (k, ok) => ok && s.streamTakes k r.bar
    let digestOk := match r.digest with
      | .good => true
      | .bad => false
      | .absent => !bit (s.reg 0 HIF 0 0x104) 0
    match r.ide with
    | some (k, false) => (s.ideFail k, false)
    | _ => if !ideOk then (s, false) else if digestOk then (s, true) else (s.ecrcFail, false)

/-! ### Die windows (R51, R52, R449) -/

/-- A recorded write of a die's window waits for its acceptance. -/
def State.writesWait (s : State) (d : Nat) : Bool :=
  let mine (o : Offer) : Bool := match o.change with
    | .reg e _ _ => decide (e = d)
    | .none => false
  s.alg.offers.any mine || (s.die d).logOut.any mine

/-- A later access to a die's window waits until its recorded writes have taken effect or been refused (R449). -/
def State.settleWrites (s : State) (d : Nat) : State :=
  if s.writesWait d then
    (({ s with alg := { s.alg with offers := s.alg.offers ++ (s.die d).logOut } }).modDie d (fun x => { x with logOut := [] })).drain
  else s

/-- An access refused under R51 or R59. -/
def State.refuseAccess (s : State) : State := s.count 0 HIF 0 0x114

/-- A command that the host writes into a die's window: nothing while the link is down or the reset of R43 runs, counted where the die is absent or
unreachable, else applied after the recorded writes before it. -/
def State.atWindow (s : State) (d : Nat) (f : State → State) : State :=
  if !s.fnOpen ∨ 8 ≤ d then s
  else if s.nDies ≤ d ∨ !(s.die d).reachable then s.wake.refuseAccess
  else f (s.wake.settleWrites d)

/-- A command written through a portal. -/
def State.atPortal (s : State) (f : State → State) : State := if s.fnOpen then f s.wake else s

/-- A command for a queue, through its portal, where its home die must be reachable (R62), or through the QMG page of its die. -/
def State.atQueue (s : State) (x : QueueRef) (f : State → State) : State :=
  match x with
  | .manager d _ => s.atWindow d f
  | .tenant n q =>
    match (s.inst n).home q with
    | none => s.atPortal id
    | some h => if (s.die h.1).reachable then s.atPortal f else s.atPortal id

/-! ### Writes to a page (R12, R14, R56, R57) -/

/-- A page's write is ignored without a record: beyond the pages of the block, idle under R21, a mirror under R520, or declared ignored on the die. -/
def State.deaf (s : State) (d blk inst o : Nat) : Bool :=
  decide (pagesOf blk ≤ inst) || (decide (d ≠ 0) && idleOff0 blk) || decide (s.authDie d blk o ≠ d)
    || (decide (d ≠ 0) && decide (blk = KVD) && decide (0x110 ≤ o ∧ o ≤ 0x118)) || (decide (d ≠ 0) && decide (blk = FCL) && decide (o = 0x130))

/-- The registers whose writes R448 lists by name. -/
def namedRecord (blk o : Nat) : Bool :=
  [(HIF, 0x108), (RLK, 0x20C), (CIU, 0x204), (VIM, 0x110), (MCS, 0x010), (LVE, 0x010), (BNE, 0x010), (SYE, 0x010), (DMX, 0x104), (FCL, 0x10C),
    (FCL, 0x130)].contains (blk, o)

/-- A write that the log records. -/
def recordedReg (blk o : Nat) (r : RegRow) : Bool := decide (o = 0x00C) || decide (r.acc = .rwl) || namedRecord blk o

/-- EVT_FORCE: sets EVT_PEND bits in TESTED (R57). -/
def State.forceEvents (s : State) (d blk inst : Nat) (v : W32) : State :=
  if s.lc = 1 then s.setReg d blk inst 0x018 (s.reg d blk inst 0x018 ||| (v &&& BitVec.ofNat 32 (2 ^ evtBits blk - 1))) else s

/-- A write of ones to FLT_STICKY clears the sticky bits of those sources (R437). -/
def State.clearSticky (s : State) (d blk inst : Nat) (v : W32) : State :=
  let m := stickyMap blk inst
  s.modFcl d (fun f => { f with sticky := f.sticky.filter (fun (p : Nat × Unit) =>
    !(decide (m.1 ≤ p.1 ∧ p.1 < m.1 + m.2) && bit v (p.1 - m.1))) })

/-- One field of the two halves of a 64-bit address. -/
def half (a : W64) (hi : Bool) (v : W32) : W64 :=
  if hi then (v ++ a.extractLsb' 0 32 : BitVec 64) else (a.extractLsb' 32 32 ++ v : BitVec 64)

/-- A write of the ring registers in the window of a queue context: configuration and addresses while DISABLED alone, MGR while unbound alone (R147). -/
def QCtx.write (c : QCtx) (o : Nat) (v : W32) : QCtx :=
  let r := c.rings
  if o = 0x23C then { c with rings := { r with irq := v &&& 0x3FFFF#32 } }
  else if c.state ≠ .disabled then c
  else
    match o with
    | 0x200 =>
      let m : W32 := if r.bound then 0xFF3C else 0xFF3E
      { c with rings := { r with ctrl := (v &&& m) ||| (r.ctrl &&& ~~~m) } }
    | 0x208 => { c with rings := { r with sqBase := half r.sqBase false (v &&& 0xFFFFF000#32) } }
    | 0x20C => { c with rings := { r with sqBase := half r.sqBase true v } }
    | 0x210 => { c with rings := { r with cqBase := half r.cqBase false (v &&& 0xFFFFF000#32) } }
    | 0x214 => { c with rings := { r with cqBase := half r.cqBase true v } }
    | 0x218 => { c with rings := { r with shadow := half r.shadow false (v &&& 0xFFFFFFF8#32) } }
    | 0x21C => { c with rings := { r with shadow := half r.shadow true v } }
    | _ => c

/-- QC_CMD for the selected context (R147). -/
def State.queueCmd (s : State) (d q : Nat) (v : W32) : State :=
  match bits v 0 3 with
  | 1 => opResume (.manager d q) s
  | 2 => opSkip (.manager d q) s
  | 3 => opEnable d q s
  | 4 => opDisable d q s
  | _ => s

/-- A write to the QMG page. -/
def State.writeQmg (s : State) (d o : Nat) (w : RegW) : State :=
  let q := (s.die d).qsel
  let v := w.value
  match o with
  | 0x180 => opSqTailDoorbell (.manager d (bits v 0 12)) (bits v 16 16) w.rid s
  | 0x184 => opCqHeadDoorbell (.manager d (bits v 0 12)) (bits v 16 16) s
  | 0x244 => s.queueCmd d q v
  | 0x248 => opSqInval (.manager d q) v s
  | _ => s.modCtx d q (fun c => c.write o v)

/-- VIM.MB_CMD for the selected instance (R356): ACK, then SEND. -/
def State.mbCmd (s : State) (v : W32) : State :=
  let s := if bit v 1 then opMgrMbAck s else s
  if bit v 0 then opMgrMbSend s else s

/-- BFI.PROG_CMD (R500). -/
def State.progCmd (s : State) (w : RegW) : State :=
  match bits w.value 0 2 with
  | 1 => opFlashErase w s
  | 2 => opFlashProgram w s
  | 3 => opFlashActivate w s
  | _ => s

/-- CIU.CTRL (R416): PORT_EN acts when it changes. -/
def State.cardCtrl (s : State) (p : Nat) (v : W32) : State :=
  let was := s.portEn p
  let s := s.setReg 0 CIU p 0x010 (v &&& 3#32)
  if bit v 0 = was then s else s.portEnable p (bit v 0)

/-- A write that a register of the firmware's alone ignores: ALIVE_CTRL (R515), the MHA (R325), REC_CLEAR (R436). -/
def scuOnly (blk o : Nat) : Bool := (decide (blk = CRU) && decide (o = 0x10C)) || decide (blk = MHA) || (decide (blk = BBD) && decide (o = 0x134))

/-- A write that is not recorded, to a page that takes it. -/
def State.plainWrite (s : State) (d blk inst o : Nat) (r : RegRow) (w : RegW) : State :=
  let v := w.value
  let m := BitVec.ofNat 32 r.mask
  if o = 0x018 then s.setReg d blk inst o (s.reg d blk inst o &&& ~~~v)
  else if o = 0x020 then s.forceEvents d blk inst v
  else if o = 0x024 then s.clearSticky d blk inst v
  else if 0x100 ≤ o ∧ scuOnly blk o then s
  else if blk = QMG ∧ 0x180 ≤ o then s.writeQmg d o w
  else if blk = VIM ∧ o = 0x148 then s.mbCmd v
  else if blk = VIM ∧ 0x1C0 ≤ o ∧ o < 0x200 then
    (if (s.inst s.instSel).code.live then s.modMb s.instSel (fun x => { x with out := x.out.set ((o - 0x1C0) / 4) v }) else s)
  else if blk = CIU ∧ o = 0x010 then s.cardCtrl inst v
  else if blk = BFI ∧ o = 0x114 then s.progCmd w
  else if blk = BFI ∧ 0x140 ≤ o then { s with bfi := { s.bfi with data := Assoc.set s.bfi.data ((o - 0x140) / 4) v } }
  else if blk = FCL ∧ o = 0x114 then s.modFcl d (fun f => f.clearGroup (bits (s.reg d FCL 0 0x110) 0 6) v)
  else if blk = FCL ∧ o = 0x118 then opGrpCtrl d v s
  else if blk = EVR ∧ o = 0x104 then opRoute v s
  else if blk = EVR ∧ o = 0x10C then opMqRoute v s
  else if blk = EVR ∧ 0x114 ≤ o ∧ o ≤ 0x120 then opIitData ((o - 0x114) / 4) v s
  else if r.acc = .rw then s.setReg d blk inst o (v &&& m)
  else s

/-- A doubleword written to a reachable die's window. -/
def State.windowWrite (s : State) (d off : Nat) (w : RegW) : State :=
  let p := woffParts off
  match regRow? p.1 p.2.2 with
  | none => s
  | some r =>
    if s.deaf d p.1 p.2.1 p.2.2 then s
    else if recordedReg p.1 p.2.2 r then s.recordedWrite d off w.value w.rid
    else s.plainWrite d p.1 p.2.1 p.2.2 r w

/-! ### Writes to a portal (R61, R62, R357) -/

/-- A write to a queue register of a portal. -/
def State.portalQueue (s : State) (n o : Nat) (v : W32) (rid : W16) : State :=
  let q := (o - 0x100) / 16
  match o / 4 % 4 with
  | 0 => s.atQueue (.tenant n q) (opSqTailDoorbell (.tenant n q) (bits v 0 16) rid)
  | 1 => s.atQueue (.tenant n q) (opCqHeadDoorbell (.tenant n q) (bits v 0 16))
  | 2 => s.atQueue (.tenant n q) (opSqInval (.tenant n q) v)
  | _ => s

/-- KSTAGE_CMD (R162). -/
def State.stageWrite (s : State) (n : Nat) (v : W32) : State := if bits v 3 2 = 3 then opKstageOpRefused n v s else s.stageCmd n v

/-- A doubleword written to a portal page: none where the instance is not live, the event registers alone while it is RESETTING. -/
def State.portalWrite (s : State) (n o : Nat) (v : W32) (rid : W16) : State :=
  if !(s.inst n).code.live then s
  else if o = 0x018 then s.modPortal n (fun p => { p with evtPend := p.evtPend &&& ~~~v })
  else if o = 0x01C then s.modPortal n (fun p => { p with evtEn := v &&& 0xFFF#32 })
  else if !portalOpen n s then s
  else if 0x100 ≤ o ∧ o < 0x180 then s.portalQueue n o v rid
  else if 0x200 ≤ o ∧ o < 0x240 then
    s.modMb n (fun m => if m.toFull || m.bufBusy then m else { m with toMgr := m.toMgr.set ((o - 0x200) / 4) v })
  else if 0x300 ≤ o ∧ o < 0x340 then s.modPk n (fun k => { k with ksData := k.ksData.set ((o - 0x300) / 4) v })
  else if 0x400 ≤ o ∧ o < 0x420 then s.modPk n (fun k => { k with attChal := k.attChal.set ((o - 0x400) / 4) v })
  else
    match o with
    | 0x040 => opPReset n v s
    | 0x280 => opMbSend n v s
    | 0x340 => s.stageWrite n v
    | 0x380 => s.modPortal n (fun p => { p with jobSel := v, jobSelSet := true })
    | 0x420 => opAttCmd n v s
    | _ => s

/-! ### Requests (R50, R51, R54, R59) -/

/-- The size of a BAR (R50). -/
def barSize (bar : Nat) : Nat := if bar = 0 then 0x8000000 else if bar = 2 then 0x1000000 else if bar = 4 then 0x10000 else 0

/-- A doubleword written to a BAR. -/
def State.barWrite (s : State) (bar off : Nat) (w : RegW) : State :=
  if bar = 0 then s.atWindow (off / 0x1000000) (fun t => t.windowWrite (off / 0x1000000) (off % 0x1000000) w)
  else if bar = 2 then s.atPortal (fun t => t.portalWrite (off / 0x1000) (off % 0x1000) w.value w.rid)
  else opMsixTableWrite off w.value s

/-- The doublewords that a request takes, in order; none where R59 refuses it: a read with partial enables takes its whole doubleword. -/
def reqDwords (r : HostReq) (write : Bool) : Option (List Nat) :=
  match r.size with
  | .dword => if r.off % 4 = 0 then some [r.off] else none
  | .qword => if r.off % 8 = 0 then some [r.off, r.off + 4] else none
  | .partialBytes => if write then none else some [r.off / 4 * 4]
  | .other => none

/-- REGISTER_WRITE. -/
def opRegisterWrite (r : HostReq) (value : W64) (s : State) : State :=
  if barSize r.bar ≤ r.off then s
  else
    let a := s.admitReq r
    if !a.2 then a.1
    else
      match reqDwords r true with
      | none => a.1.refuseAccess
      | some os => (os.zipIdx).foldl (fun (t : State) (p : Nat × Nat) => t.barWrite r.bar p.1 ⟨value.extractLsb' (32 * p.2) 32, r.rid⟩) a.1

/-- REGISTER_WRITE. -/
def execRegisterWrite (r : HostReq) (value : W64) (s : State) : Host.Outcome State Fault Refusal := ret (opRegisterWrite r value s)

/-- What a read of a register does beside its answer: RC registers of an authoritative page clear (R12, R520), RTC_LO and MONO_LO latch (R436). -/
def State.readEffect (s : State) (d off : Nat) : State :=
  let p := woffParts off
  let blk := p.1
  let inst := p.2.1
  let o := p.2.2
  match regRow? blk o with
  | none => s
  | some r =>
    if s.deaf d blk inst o then s
    else if blk = BBD ∧ o = 0x100 then { s with bbd := { s.bbd with rtcHi := s.bbd.rtc.extractLsb' 32 32 } }
    else if blk = BBD ∧ o = 0x108 then { s with bbd := { s.bbd with monoHi := s.bbd.mono.extractLsb' 32 32 } }
    else if r.acc ≠ .rc then s
    else if blk = VIM ∧ o = 0x114 then s.modInst s.instSel (fun i => { i with jobs := 0 })
    else if blk = VIM ∧ o = 0x118 then s.modInst s.instSel (fun i => { i with busy := 0 })
    else if blk = DMX ∧ o = 0x118 then
      (let ch := bits (s.reg d DMX 0 0x100) 0 4
       s.setChan d ch { (s.die d).chan ch with descs := 0 })
    else if blk = TMN ∧ o = 0x114 then s.modDie d (fun x => { x with tmn := { x.tmn with tempMax := none } })
    else if blk = TMN ∧ o = 0x11C then s.setReg 0 TMN 0 0x11C 0
    else s.setReg d blk inst o 0

/-- A doubleword read from a BAR: what the host gets, and the state after it. Each read may show a free value. -/
def State.barRead (s : State) (bar off : Nat) : State × W32 :=
  if bar = 0 then
    let d := off / 0x1000000
    if s.nDies ≤ d then (s.refuseAccess, 0)
    else if !(s.die d).reachable then (s.refuseAccess, 0xFFFFFFFF)
    else
      let t := s.settleWrites d
      ((t.readEffect d (off % 0x1000000)).drawn, t.windowWord d (off % 0x1000000))
  else if bar = 2 then (s, s.bar2Word (off / 0x1000) (off % 0x1000))
  else (s, s.bar4Word off)

/-- One doubleword of a read, answered. -/
def State.readOne (s : State) (bar off : Nat) : State := ((s.barRead bar off).1).send (.readReply (s.barRead bar off).2)

/-- REGISTER_READ. -/
def opRegisterRead (r : HostReq) (s : State) : State :=
  if barSize r.bar ≤ r.off then s
  else
    let a := s.admitReq r
    if !a.2 then a.1
    else
      match reqDwords r false with
      | none => (a.1.refuseAccess.aerSet 15).send .completerAbort
      | some os => os.foldl (fun (t : State) o => t.readOne r.bar o) a.1

/-- REGISTER_READ. -/
def execRegisterRead (r : HostReq) (s : State) : Host.Outcome State Fault Refusal := ret (opRegisterRead r s)

/-- LOCK (R56). -/
def opLock (p : PageRef) (w : RegW) (s : State) : State :=
  s.atWindow p.die (fun t =>
    if t.deaf p.die p.blk p.inst 0x00C then t else t.recordedWrite p.die (woff p.blk p.inst 0x00C) w.value w.rid)

/-- LOCK. -/
def execLock (p : PageRef) (w : RegW) (s : State) : Host.Outcome State Fault Refusal := ret (opLock p w s)

/-- EVT_FORCE (R57). -/
def opEvtForce (p : PageRef) (w : RegW) (s : State) : State :=
  s.atWindow p.die (fun t => if t.deaf p.die p.blk p.inst 0x020 then t else t.forceEvents p.die p.blk p.inst w.value)

/-- EVT_FORCE. -/
def execEvtForce (p : PageRef) (w : RegW) (s : State) : Host.Outcome State Fault Refusal := ret (opEvtForce p w s)

/-! ### Rows that are the write or the read of one register -/

/-- P_RESET. -/
def execPReset (n : Nat) (value : W32) (s : State) : Host.Outcome State Fault Refusal := ret (s.atPortal (opPReset n value))
/-- MB_SEND. -/
def execMbSend (n : Nat) (value : W32) (s : State) : Host.Outcome State Fault Refusal := ret (s.atPortal (opMbSend n value))
/-- MB_ACK. -/
def execMbAck (n : Nat) (s : State) : Host.Outcome State Fault Refusal := ret (s.atPortal (opMbAck n))
/-- MGR_MB_SEND. -/
def execMgrMbSend (s : State) : Host.Outcome State Fault Refusal := ret (s.atWindow 0 opMgrMbSend)
/-- MGR_MB_ACK. -/
def execMgrMbAck (s : State) : Host.Outcome State Fault Refusal := ret (s.atWindow 0 opMgrMbAck)
/-- RTC_LO_READ. -/
def execRtcLoRead (s : State) : Host.Outcome State Fault Refusal := ret (s.atWindow 0 opRtcLoRead)
/-- MONO_LO_READ. -/
def execMonoLoRead (s : State) : Host.Outcome State Fault Refusal := ret (s.atWindow 0 opMonoLoRead)
/-- ERASE_SECTOR. -/
def execFlashErase (w : RegW) (s : State) : Host.Outcome State Fault Refusal := ret (s.atWindow 0 (opFlashErase w))
/-- PROGRAM. -/
def execFlashProgram (w : RegW) (s : State) : Host.Outcome State Fault Refusal := ret (s.atWindow 0 (opFlashProgram w))
/-- ACTIVATE. -/
def execFlashActivate (w : RegW) (s : State) : Host.Outcome State Fault Refusal := ret (s.atWindow 0 (opFlashActivate w))
/-- GRP_CTRL_ACK. -/
def execGrpCtrlAck (d : Nat) (w : RegW) (s : State) : Host.Outcome State Fault Refusal := ret (s.atWindow d (opGrpCtrl d w.value))
/-- ROUTE. -/
def execRoute (value : W32) (s : State) : Host.Outcome State Fault Refusal := ret (s.atWindow 0 (opRoute value))
/-- MQ_ROUTE. -/
def execMqRoute (value : W32) (s : State) : Host.Outcome State Fault Refusal := ret (s.atWindow 0 (opMqRoute value))
/-- IIT_DATA. -/
def execIitData (word : Nat) (value : W32) (s : State) : Host.Outcome State Fault Refusal := ret (s.atWindow 0 (opIitData word value))
/-- LVE_OFFLINE (R221). -/
def execLveOffline (d e : Nat) (w : RegW) (s : State) : Host.Outcome State Fault Refusal := ret (s.atWindow d (opRecorded d LVE e 0x010 w))
/-- LVE_UNFENCE (R247, R249). -/
def execLveUnfence (d e : Nat) (w : RegW) (s : State) : Host.Outcome State Fault Refusal := ret (s.atWindow d (opRecorded d MCS e 0x010 w))
/-- BNE_OFFLINE (R303). -/
def execBneOffline (d e : Nat) (w : RegW) (s : State) : Host.Outcome State Fault Refusal := ret (s.atWindow d (opRecorded d BNE e 0x010 w))
/-- BNE_UNFENCE (R303): the same register. -/
def execBneUnfence (d e : Nat) (w : RegW) (s : State) : Host.Outcome State Fault Refusal := ret (s.atWindow d (opRecorded d BNE e 0x010 w))
/-- SYE_OFFLINE (R324). -/
def execSyeOffline (d e : Nat) (w : RegW) (s : State) : Host.Outcome State Fault Refusal := ret (s.atWindow d (opRecorded d SYE e 0x010 w))
/-- SYE_UNFENCE (R324): the same register. -/
def execSyeUnfence (d e : Nat) (w : RegW) (s : State) : Host.Outcome State Fault Refusal := ret (s.atWindow d (opRecorded d SYE e 0x010 w))
/-- CH_OFFLINE (R332, R344). -/
def execChOffline (d : Nat) (w : RegW) (s : State) : Host.Outcome State Fault Refusal := ret (s.atWindow d (opRecorded d DMX 0 0x104 w))
/-- SRC_CLEAR (R458). -/
def execSrcClear (d : Nat) (w : RegW) (s : State) : Host.Outcome State Fault Refusal := ret (s.atWindow d (opRecorded d FCL 0 0x10C w))
/-- FAULT_PIN (R445). -/
def execFaultPin (w : RegW) (s : State) : Host.Outcome State Fault Refusal := ret (s.atWindow 0 (opRecorded 0 FCL 0 0x130 w))
/-- DIE_RESET_REQUEST (R391). -/
def execDieResetRequest (w : RegW) (s : State) : Host.Outcome State Fault Refusal := ret (s.atWindow 0 (opRecorded 0 RLK 0 0x20C w))
/-- INST_CMD_RESET (R357, R369). -/
def execInstCmdReset (w : RegW) (s : State) : Host.Outcome State Fault Refusal := ret (s.atWindow 0 (opRecorded 0 VIM 0 0x110 w))
/-- REAUTH (R404, R416). -/
def execReauth (w : RegW) (s : State) : Host.Outcome State Fault Refusal := ret (s.atWindow 0 (opRecorded 0 CIU 0 0x204 w))
/-- DISSOLVE (R404, R416). -/
def execDissolve (w : RegW) (s : State) : Host.Outcome State Fault Refusal := ret (s.atWindow 0 (opRecorded 0 CIU 0 0x204 w))
/-- DEV_RESET (R60, R449, R510). -/
def execDevReset (w : RegW) (s : State) : Host.Outcome State Fault Refusal := ret (s.atWindow 0 (opRecorded 0 HIF 0 0x108 w))
/-- SQ_TAIL_DOORBELL. -/
def execSqTailDoorbell (x : QueueRef) (index : Nat) (rid : W16) (s : State) : Host.Outcome State Fault Refusal := ret (s.atQueue x (opSqTailDoorbell x index rid))
/-- CQ_HEAD_DOORBELL. -/
def execCqHeadDoorbell (x : QueueRef) (index : Nat) (s : State) : Host.Outcome State Fault Refusal := ret (s.atQueue x (opCqHeadDoorbell x index))
/-- SQ_INVAL. -/
def execSqInval (x : QueueRef) (value : W32) (s : State) : Host.Outcome State Fault Refusal := ret (s.atQueue x (opSqInval x value))
/-- RESUME. -/
def execResume (x : QueueRef) (s : State) : Host.Outcome State Fault Refusal := ret (s.atQueue x (opResume x))
/-- SKIP. -/
def execSkip (x : QueueRef) (s : State) : Host.Outcome State Fault Refusal := ret (s.atQueue x (opSkip x))
/-- ENABLE. -/
def execEnable (d q : Nat) (s : State) : Host.Outcome State Fault Refusal := ret (s.atWindow d (opEnable d q))
/-- DISABLE. -/
def execDisable (d q : Nat) (s : State) : Host.Outcome State Fault Refusal := ret (s.atWindow d (opDisable d q))
/-- KSTAGE_LOAD. -/
def execKstageLoad (n : Nat) (w : W32) (s : State) : Host.Outcome State Fault Refusal := ret (s.atPortal (opKstageLoad n w))
/-- KSTAGE_CLEAR. -/
def execKstageClear (n : Nat) (w : W32) (s : State) : Host.Outcome State Fault Refusal := ret (s.atPortal (opKstageClear n w))
/-- KSTAGE_CLEAR_ALL. -/
def execKstageClearAll (n : Nat) (w : W32) (s : State) : Host.Outcome State Fault Refusal := ret (s.atPortal (opKstageClearAll n w))
/-- KSTAGE_OP_REFUSED. -/
def execKstageOpRefused (n : Nat) (w : W32) (s : State) : Host.Outcome State Fault Refusal := ret (s.atPortal (opKstageOpRefused n w))
/-- ATT_CMD. -/
def execAttCmd (n : Nat) (value : W32) (s : State) : Host.Outcome State Fault Refusal := ret (s.atPortal (opAttCmd n value))

end Sys2Proof.Machine
end

