-- ==== Sys2Proof/Machine/LveExec.lean ====
section
/-! DEFINITION. The instructions of the LVE (R199 to R209), one meaning each over the effects of Machine/LveArith, LveMem, LveMask and LveHash.
END and JOIN are in Machine/EngineRows. -/

namespace Sys2Proof.Machine

/-- LVE instruction NOP. (R199) -/
def execNop (r : LveRef) (f : LveFields) (s : State) : Host.Outcome State Fault Refusal := lveExec .nop r f s (fun l => some l)

/-- A loop begins: its body follows, or is skipped (R199). -/
def lveLoopExec (o : LveOp) (r : LveRef) (f : LveFields) (s : State) (len count : Lve → Nat) : Host.Outcome State Fault Refusal :=
  match s.lve? r with
  | none => .fault .noSuchUnit
  | some u =>
    if !o.valid f then .refused .invalidInstruction
    else if !u.executes o f then s.lveIdle r u
    else match s.lveStruck r o f u with
      | some t => ret t
      | none => s.lveFinish r ((s.lveTemps r o f u.eng u.eng).enterLoop (len u.eng) (count u.eng))

/-- LOOP runs a body a count of times read from a scalar, once at entry. (R199) -/
def execLoop (r : LveRef) (f : LveFields) (s : State) : Host.Outcome State Fault Refusal :=
  lveLoopExec .loop r f s (fun _ => bits f.imm 0 12) (fun l => bits (l.sr f.a.toNat) 0 32)

/-- LOOPI runs a body an immediate count of times. (R199) -/
def execLoopi (r : LveRef) (f : LveFields) (s : State) : Host.Outcome State Fault Refusal :=
  lveLoopExec .loopi r f s (fun _ => bits f.imm32 0 12) (fun _ => bits f.imm32 12 20)

/-- The slot that VKLD of a job reads: its key, or the seed of the key that it makes (R251), which it took last. -/
def Job.busKey (x : Job) : Option Nat := if [0x1001, 0x2001, 0x3001, 0x9001].contains x.sqe.op then x.data.keys.getLast? else x.data.keys.head?

/-- The key bytes on the private key bus for an LVE's job: the payload of its slot; zeros while the bus is gated (R424). -/
def State.keyBus (s : State) (r : LveRef) (l : Lve) : List Byte :=
  let x := s.die r.die
  if x.tmn.gated then []
  else
    match ((l.job.bind (fun j => Assoc.get? x.jobs j)).bind Job.busKey).bind (fun k => Assoc.get? x.kvd.slots k) with
    | some k => k.payload
    | none => []

/-- VKLD reads key bytes from the slot over the private key bus. (R200) -/
def execVkld (r : LveRef) (f : LveFields) (s : State) : Host.Outcome State Fault Refusal :=
  lveExec .vkld r f s (fun l => lveVkld (s.keyBus r l) f l)

/-- SETVL sets the vector length. (R190) -/
def execSetvl (r : LveRef) (f : LveFields) (s : State) : Host.Outcome State Fault Refusal := lveExec .setvl r f s (fun l => lveSetvl f l)

/-- VSETTYPE sets the element width and modulus. (R189) -/
def execVsettype (r : LveRef) (f : LveFields) (s : State) : Host.Outcome State Fault Refusal := lveExec .vsettype r f s (fun l => lveVsettype f l)

/-- VSETMOD loads LMOD. (R199) -/
def execVsetmod (r : LveRef) (f : LveFields) (s : State) : Host.Outcome State Fault Refusal := lveExec .vsetmod r f s (fun l => lveVsetmod f l)

/-- SETOUT sets OUTLEN, or faults. (R199) -/
def execSetout (r : LveRef) (f : LveFields) (s : State) : Host.Outcome State Fault Refusal := lveExec .setout r f s (fun l => lveSetout f l)

/-- VACCEPT clears ACCEPT if any active mask bit is set. (R199) -/
def execVaccept (r : LveRef) (f : LveFields) (s : State) : Host.Outcome State Fault Refusal := lveExec .vaccept r f s (fun l => lveVaccept f l)

/-- SLI loads an immediate into a scalar. (R199) -/
def execSli (r : LveRef) (f : LveFields) (s : State) : Host.Outcome State Fault Refusal := lveExec .sli r f s (fun l => lveSli f l)

/-- SALU performs scalar arithmetic on two scalars. (R199) -/
def execSalu (r : LveRef) (f : LveFields) (s : State) : Host.Outcome State Fault Refusal := lveExec .salu r f s (fun l => lveSalu f l)

/-- SALUI performs scalar arithmetic with an immediate. (R199) -/
def execSalui (r : LveRef) (f : LveFields) (s : State) : Host.Outcome State Fault Refusal := lveExec .salui r f s (fun l => lveSalui f l)

/-- SJR reads a job register into a scalar. (R199) -/
def execSjr (r : LveRef) (f : LveFields) (s : State) : Host.Outcome State Fault Refusal := lveExec .sjr r f s (fun l => lveSjr f l)

/-- VLDU, unit-stride vector load. (R200) -/
def execVldu (r : LveRef) (f : LveFields) (s : State) : Host.Outcome State Fault Refusal := lveExec .vldu r f s (fun l => lveVldu f l)

/-- VSTU, unit-stride vector store. (R200) -/
def execVstu (r : LveRef) (f : LveFields) (s : State) : Host.Outcome State Fault Refusal := lveExec .vstu r f s (fun l => lveVstu f l)

/-- VLDP, pitched vector load. (R200) -/
def execVldp (r : LveRef) (f : LveFields) (s : State) : Host.Outcome State Fault Refusal := lveExec .vldp r f s (fun l => lveVldp f l)

/-- VSTP, pitched vector store. (R200) -/
def execVstp (r : LveRef) (f : LveFields) (s : State) : Host.Outcome State Fault Refusal := lveExec .vstp r f s (fun l => lveVstp f l)

/-- VLDF, fielded vector load. (R200) -/
def execVldf (r : LveRef) (f : LveFields) (s : State) : Host.Outcome State Fault Refusal := lveExec .vldf r f s (fun l => lveVldf f l)

/-- VSTF, fielded vector store. (R200) -/
def execVstf (r : LveRef) (f : LveFields) (s : State) : Host.Outcome State Fault Refusal := lveExec .vstf r f s (fun l => lveVstf f l)

/-- VGATHER, indexed vector load. (R200) -/
def execVgather (r : LveRef) (f : LveFields) (s : State) : Host.Outcome State Fault Refusal := lveExec .vgather r f s (fun l => lveVgather f l)

/-- VSCATTER, indexed vector store. (R200) -/
def execVscatter (r : LveRef) (f : LveFields) (s : State) : Host.Outcome State Fault Refusal := lveExec .vscatter r f s (fun l => lveVscatter f l)

/-- VALU, element-wise integer operation. (R201) -/
def execValu (r : LveRef) (f : LveFields) (s : State) : Host.Outcome State Fault Refusal := lveExec .valu r f s (fun l => lveValu f l)

/-- VCMP, element-wise compare into a mask. (R201) -/
def execVcmp (r : LveRef) (f : LveFields) (s : State) : Host.Outcome State Fault Refusal := lveExec .vcmp r f s (fun l => lveVcmp f l)

/-- MALU, full-width mask logic. (R201) -/
def execMalu (r : LveRef) (f : LveFields) (s : State) : Host.Outcome State Fault Refusal := lveExec .malu r f s (fun l => lveMalu f l)

/-- VMERGE, masked select. (R201) -/
def execVmerge (r : LveRef) (f : LveFields) (s : State) : Host.Outcome State Fault Refusal := lveExec .vmerge r f s (fun l => lveVmerge f l)

/-- VMOD MADD, modular addition. (R202) -/
def execMadd (r : LveRef) (f : LveFields) (s : State) : Host.Outcome State Fault Refusal := lveExec .madd r f s (fun l => lveMadd f l)

/-- VMOD MSUB, modular subtraction. (R202) -/
def execMsub (r : LveRef) (f : LveFields) (s : State) : Host.Outcome State Fault Refusal := lveExec .msub r f s (fun l => lveMsub f l)

/-- VMOD MNEG, modular negation. (R202) -/
def execMneg (r : LveRef) (f : LveFields) (s : State) : Host.Outcome State Fault Refusal := lveExec .mneg r f s (fun l => lveMneg f l)

/-- VMOD MRED, modular reduction. (R202) -/
def execMred (r : LveRef) (f : LveFields) (s : State) : Host.Outcome State Fault Refusal := lveExec .mred r f s (fun l => lveMred f l)

/-- VMOD MMONT, Montgomery product. (R202) -/
def execMmont (r : LveRef) (f : LveFields) (s : State) : Host.Outcome State Fault Refusal := lveExec .mmont r f s (fun l => lveMmont f l)

/-- VMOD MBAR, modular product. (R202) -/
def execMbar (r : LveRef) (f : LveFields) (s : State) : Host.Outcome State Fault Refusal := lveExec .mbar r f s (fun l => lveMbar f l)

/-- VMOD TOMONT, conversion to Montgomery form. (R202) -/
def execTomont (r : LveRef) (f : LveFields) (s : State) : Host.Outcome State Fault Refusal := lveExec .tomont r f s (fun l => lveTomont f l)

/-- VMOD CMPR, FIPS 203 Compress. (R202) -/
def execCmpr (r : LveRef) (f : LveFields) (s : State) : Host.Outcome State Fault Refusal := lveExec .cmpr r f s (fun l => lveCmpr f l)

/-- VMOD DCMPR, FIPS 203 Decompress. (R202) -/
def execDcmpr (r : LveRef) (f : LveFields) (s : State) : Host.Outcome State Fault Refusal := lveExec .dcmpr r f s (fun l => lveDcmpr f l)

/-- VMOD P2R, Power2Round. (R202) -/
def execP2r (r : LveRef) (f : LveFields) (s : State) : Host.Outcome State Fault Refusal := lveExec .p2r r f s (fun l => lveP2r f l)

/-- VMOD DECOMP, Decompose. (R202) -/
def execDecomp (r : LveRef) (f : LveFields) (s : State) : Host.Outcome State Fault Refusal := lveExec .decomp r f s (fun l => lveDecomp f l)

/-- VBFLY, one NTT butterfly layer. (R203) -/
def execVbfly (r : LveRef) (f : LveFields) (s : State) : Host.Outcome State Fault Refusal := lveExec .vbfly r f s (fun l => lveVbfly f l)

/-- VBMUL, ML-KEM NTT-domain multiply. (R203) -/
def execVbmul (r : LveRef) (f : LveFields) (s : State) : Host.Outcome State Fault Refusal := lveExec .vbmul r f s (fun l => lveVbmul r f l)

/-- ZIP interleaves the blocks of two registers. (R204) -/
def execZip (r : LveRef) (f : LveFields) (s : State) : Host.Outcome State Fault Refusal := lveExec .zip r f s (fun l => lveZip f l)

/-- UNZIP reverses ZIP. (R204) -/
def execUnzip (r : LveRef) (f : LveFields) (s : State) : Host.Outcome State Fault Refusal := lveExec .unzip r f s (fun l => lveUnzip f l)

/-- BREV permutes elements in bit-reversed order. (R204) -/
def execBrev (r : LveRef) (f : LveFields) (s : State) : Host.Outcome State Fault Refusal := lveExec .brev r f s (fun l => lveBrev f l)

/-- SLIDEUP shifts elements up. (R204) -/
def execSlideup (r : LveRef) (f : LveFields) (s : State) : Host.Outcome State Fault Refusal := lveExec .slideup r f s (fun l => lveSlideup f l)

/-- SLIDEDN shifts elements down. (R204) -/
def execSlidedn (r : LveRef) (f : LveFields) (s : State) : Host.Outcome State Fault Refusal := lveExec .slidedn r f s (fun l => lveSlidedn f l)

/-- BMT transposes bit matrices. (R204) -/
def execBmt (r : LveRef) (f : LveFields) (s : State) : Host.Outcome State Fault Refusal := lveExec .bmt r f s (fun l => lveBmt f l)

/-- VCOMPRESS compacts the masked elements. (R204) -/
def execVcompress (r : LveRef) (f : LveFields) (s : State) : Host.Outcome State Fault Refusal := lveExec .vcompress r f s (fun l => lveVcompress f l)

/-- VPACK packs d-bit fields into a stream. (R204) -/
def execVpack (r : LveRef) (f : LveFields) (s : State) : Host.Outcome State Fault Refusal := lveExec .vpack r f s (fun l => lveVpack f l)

/-- VUNPACK unpacks d-bit fields from a stream. (R204) -/
def execVunpack (r : LveRef) (f : LveFields) (s : State) : Host.Outcome State Fault Refusal := lveExec .vunpack r f s (fun l => lveVunpack f l)

/-- VCBD, centred binomial sampling, optionally masked. (R205) -/
def execVcbd (r : LveRef) (f : LveFields) (s : State) : Host.Outcome State Fault Refusal := lveExec .vcbd r f s (fun l => lveVcbd r f l)

/-- VREJ, rejection sampling from the Keccak squeeze stream. (R206) -/
def execVrej (r : LveRef) (f : LveFields) (s : State) : Host.Outcome State Fault Refusal := lveExec .vrej r f s (fun l => lveVrej r f l)

/-- VMSK SPLIT, Boolean share split. (R207) -/
def execSplit (r : LveRef) (f : LveFields) (s : State) : Host.Outcome State Fault Refusal := lveExec .split r f s (fun l => lveSplit r f l)

/-- VMSK SPLITA, arithmetic share split. (R207) -/
def execSplita (r : LveRef) (f : LveFields) (s : State) : Host.Outcome State Fault Refusal := lveExec .splita r f s (fun l => lveSplita r f l)

/-- VMSK JOINA, sum of the shares. (R207) -/
def execJoina (r : LveRef) (f : LveFields) (s : State) : Host.Outcome State Fault Refusal := lveExec .joina r f s (fun l => lveJoina f l)

/-- VMSK BXOR, masked XOR. (R207) -/
def execBxor (r : LveRef) (f : LveFields) (s : State) : Host.Outcome State Fault Refusal := lveExec .bxor r f s (fun l => lveBxor f l)

/-- VMSK BAND, masked AND. (R207) -/
def execBand (r : LveRef) (f : LveFields) (s : State) : Host.Outcome State Fault Refusal := lveExec .band r f s (fun l => lveBand r f l)

/-- VMSK BNOT, masked NOT. (R207) -/
def execBnot (r : LveRef) (f : LveFields) (s : State) : Host.Outcome State Fault Refusal := lveExec .bnot r f s (fun l => lveBnot f l)

/-- VMSK AADD, masked add. (R207) -/
def execAadd (r : LveRef) (f : LveFields) (s : State) : Host.Outcome State Fault Refusal := lveExec .aadd r f s (fun l => lveAadd f l)

/-- VMSK ASUB, masked subtract. (R207) -/
def execAsub (r : LveRef) (f : LveFields) (s : State) : Host.Outcome State Fault Refusal := lveExec .asub r f s (fun l => lveAsub f l)

/-- VMSK AMONT, masked Montgomery product by a public value. (R207) -/
def execAmont (r : LveRef) (f : LveFields) (s : State) : Host.Outcome State Fault Refusal := lveExec .amont r f s (fun l => lveAmont r f l)

/-- VMSK A2B, arithmetic to Boolean shares. (R207) -/
def execA2b (r : LveRef) (f : LveFields) (s : State) : Host.Outcome State Fault Refusal := lveExec .a2b r f s (fun l => lveA2b r f l)

/-- VMSK B2A, Boolean to arithmetic shares. (R207) -/
def execB2a (r : LveRef) (f : LveFields) (s : State) : Host.Outcome State Fault Refusal := lveExec .b2a r f s (fun l => lveB2a r f l)

/-- VMSK REFRESH, fresh shares. (R207) -/
def execRefresh (r : LveRef) (f : LveFields) (s : State) : Host.Outcome State Fault Refusal := lveExec .refresh r f s (fun l => lveRefresh r f l)

/-- KINIT initialises the Keccak unit. (R209) -/
def execKinit (r : LveRef) (f : LveFields) (s : State) : Host.Outcome State Fault Refusal := lveExec .kinit r f s (fun l => lveKinit f l)

/-- KABS absorbs bytes from a vector register. (R209) -/
def execKabs (r : LveRef) (f : LveFields) (s : State) : Host.Outcome State Fault Refusal := lveExec .kabs r f s (fun l => lveKabs r f l)

/-- KABSM absorbs bytes from the window. (R209) -/
def execKabsm (r : LveRef) (f : LveFields) (s : State) : Host.Outcome State Fault Refusal := lveExec .kabsm r f s (fun l => lveKabsm r f l)

/-- KFIN pads and switches the Keccak unit to squeezing. (R209) -/
def execKfin (r : LveRef) (f : LveFields) (s : State) : Host.Outcome State Fault Refusal := lveExec .kfin r f s (fun l => lveKfin l)

/-- VXOF squeezes bytes into a vector register. (R209) -/
def execVxof (r : LveRef) (f : LveFields) (s : State) : Host.Outcome State Fault Refusal := lveExec .vxof r f s (fun l => lveVxof r f l)

/-- KSAVE copies the Keccak state to registers. (R209) -/
def execKsave (r : LveRef) (f : LveFields) (s : State) : Host.Outcome State Fault Refusal := lveExec .ksave r f s (fun l => lveKsave r f l)

/-- KLOAD loads the Keccak state from registers. (R209) -/
def execKload (r : LveRef) (f : LveFields) (s : State) : Host.Outcome State Fault Refusal := lveExec .kload r f s (fun l => lveKload f l)

/-- HINIT sets a SHA-2 IV. (R209) -/
def execHinit (r : LveRef) (f : LveFields) (s : State) : Host.Outcome State Fault Refusal := lveExec .hinit r f s (fun l => lveHinit f l)

/-- HBLK compresses blocks taken from registers. (R209) -/
def execHblk (r : LveRef) (f : LveFields) (s : State) : Host.Outcome State Fault Refusal := lveExec .hblk r f s (fun l => lveHblk f l)

/-- HBLKM compresses blocks taken from the window. (R209) -/
def execHblkm (r : LveRef) (f : LveFields) (s : State) : Host.Outcome State Fault Refusal := lveExec .hblkm r f s (fun l => lveHblkm f l)

/-- HOUT copies the chaining value out. (R209) -/
def execHout (r : LveRef) (f : LveFields) (s : State) : Host.Outcome State Fault Refusal := lveExec .hout r f s (fun l => lveHout f l)

/-- HLOAD loads the chaining value. (R209) -/
def execHload (r : LveRef) (f : LveFields) (s : State) : Host.Outcome State Fault Refusal := lveExec .hload r f s (fun l => lveHload f l)

end Sys2Proof.Machine
end

