-- ==== Sys2Proof/Machine/Dispatch.lean ====
section
/-! DEFINITION. The dispatch: one arm per command, one direct call of its meaning. -/

namespace Sys2Proof.Machine

/-- The effect of a command on everything but the queue. -/
def exec (i : Instr) (s : State) : Host.Outcome State Fault Refusal :=
  match i with
  | .pwrgoodRise b => Sys2Proof.Machine.execPwrgoodRise b s
  | .pwrgoodFall => Sys2Proof.Machine.execPwrgoodFall s
  | .perstNAssert => Sys2Proof.Machine.execPerstNAssert s
  | .perstNRelease b => Sys2Proof.Machine.execPerstNRelease b s
  | .railReset die => Sys2Proof.Machine.execRailReset die s
  | .supplyDip die => Sys2Proof.Machine.execSupplyDip die s
  | .dipRecovered die => Sys2Proof.Machine.execDipRecovered die s
  | .pcieLinkUp speed width flit => Sys2Proof.Machine.execPcieLinkUp speed width flit s
  | .functionLevelReset => Sys2Proof.Machine.execFunctionLevelReset s
  | .hotReset => Sys2Proof.Machine.execHotReset s
  | .dlDown => Sys2Proof.Machine.execDlDown s
  | .d3hotEntry => Sys2Proof.Machine.execD3hotEntry s
  | .d3hotToD0 => Sys2Proof.Machine.execD3hotToD0 s
  | .busMasterEnable on => Sys2Proof.Machine.execBusMasterEnable on s
  | .msixControl enable functionMask => Sys2Proof.Machine.execMsixControl enable functionMask s
  | .msixTableWrite off value => Sys2Proof.Machine.execMsixTableWrite off value s
  | .configRequest reg => Sys2Proof.Machine.execConfigRequest reg s
  | .ioRequest => Sys2Proof.Machine.execIoRequest s
  | .l1Entry => Sys2Proof.Machine.execL1Entry s
  | .l0pRequest width => Sys2Proof.Machine.execL0pRequest width s
  | .ideKm session stream m => Sys2Proof.Machine.execIdeKm session stream m s
  | .registerWrite r value => Sys2Proof.Machine.execRegisterWrite r value s
  | .lock p w => Sys2Proof.Machine.execLock p w s
  | .evtForce p w => Sys2Proof.Machine.execEvtForce p w s
  | .devReset w => Sys2Proof.Machine.execDevReset w s
  | .rtcLoRead => Sys2Proof.Machine.execRtcLoRead s
  | .monoLoRead => Sys2Proof.Machine.execMonoLoRead s
  | .recClear value => Sys2Proof.Machine.execRecClear value s
  | .aliveCtrl value => Sys2Proof.Machine.execAliveCtrl value s
  | .aliveTimeout => Sys2Proof.Machine.execAliveTimeout s
  | .sqTailDoorbell q index rid => Sys2Proof.Machine.execSqTailDoorbell q index rid s
  | .cqHeadDoorbell q index => Sys2Proof.Machine.execCqHeadDoorbell q index s
  | .sqInval q value => Sys2Proof.Machine.execSqInval q value s
  | .resume q => Sys2Proof.Machine.execResume q s
  | .skip q => Sys2Proof.Machine.execSkip q s
  | .enable die queue => Sys2Proof.Machine.execEnable die queue s
  | .disable die queue => Sys2Proof.Machine.execDisable die queue s
  | .disableEffective die queue => Sys2Proof.Machine.execDisableEffective die queue s
  | .entryFetched die queue index bytes => Sys2Proof.Machine.execEntryFetched die queue index bytes s
  | .jobDispatch die e => Sys2Proof.Machine.execJobDispatch die e s
  | .dwrrRoundStart die cls => Sys2Proof.Machine.execDwrrRoundStart die cls s
  | .blobTableEntryFetched j bytes => Sys2Proof.Machine.execBlobTableEntryFetched j bytes s
  | .blobFetched j bytes => Sys2Proof.Machine.execBlobFetched j bytes s
  | .kpcFillComplete j bytes => Sys2Proof.Machine.execKpcFillComplete j bytes s
  | .hostReadCompletion die what r => Sys2Proof.Machine.execHostReadCompletion die what r s
  | .completionTimeout die what => Sys2Proof.Machine.execCompletionTimeout die what s
  | .descriptorComplete die ch e => Sys2Proof.Machine.execDescriptorComplete die ch e s
  | .irqDelayExpiry die queue => Sys2Proof.Machine.execIrqDelayExpiry die queue s
  | .irqCountReached die queue => Sys2Proof.Machine.execIrqCountReached die queue s
  | .paceResume die ch => Sys2Proof.Machine.execPaceResume die ch s
  | .chOffline die w => Sys2Proof.Machine.execChOffline die w s
  | .pReset inst value => Sys2Proof.Machine.execPReset inst value s
  | .instCmdReset w => Sys2Proof.Machine.execInstCmdReset w s
  | .instResetAccept inst => Sys2Proof.Machine.execInstResetAccept inst s
  | .instResetComplete inst => Sys2Proof.Machine.execInstResetComplete inst s
  | .mbSend inst value => Sys2Proof.Machine.execMbSend inst value s
  | .mbAck inst => Sys2Proof.Machine.execMbAck inst s
  | .mbBufferCopied inst r => Sys2Proof.Machine.execMbBufferCopied inst r s
  | .mgrMbSend => Sys2Proof.Machine.execMgrMbSend s
  | .mgrMbAck => Sys2Proof.Machine.execMgrMbAck s
  | .kstageLoad inst word => Sys2Proof.Machine.execKstageLoad inst word s
  | .kstageClear inst word => Sys2Proof.Machine.execKstageClear inst word s
  | .kstageClearAll inst word => Sys2Proof.Machine.execKstageClearAll inst word s
  | .kstageOpRefused inst word => Sys2Proof.Machine.execKstageOpRefused inst word s
  | .kstageDone inst => Sys2Proof.Machine.execKstageDone inst s
  | .attCmd inst value => Sys2Proof.Machine.execAttCmd inst value s
  | .attDone inst => Sys2Proof.Machine.execAttDone inst s
  | .kemKeygen j => Sys2Proof.Machine.execKemKeygen j s
  | .kemEncaps j => Sys2Proof.Machine.execKemEncaps j s
  | .kemEncapsExt j => Sys2Proof.Machine.execKemEncapsExt j s
  | .kemDecaps j => Sys2Proof.Machine.execKemDecaps j s
  | .sigKeygen j => Sys2Proof.Machine.execSigKeygen j s
  | .sigSign j => Sys2Proof.Machine.execSigSign j s
  | .sigVerify j => Sys2Proof.Machine.execSigVerify j s
  | .sigVerifyExt j => Sys2Proof.Machine.execSigVerifyExt j s
  | .statefulKeygen j => Sys2Proof.Machine.execStatefulKeygen j s
  | .statefulSign j => Sys2Proof.Machine.execStatefulSign j s
  | .statefulVerify j => Sys2Proof.Machine.execStatefulVerify j s
  | .statefulVerifyExt j => Sys2Proof.Machine.execStatefulVerifyExt j s
  | .remaining j => Sys2Proof.Machine.execRemaining j s
  | .ecKeygen j => Sys2Proof.Machine.execEcKeygen j s
  | .ecdsaSign j => Sys2Proof.Machine.execEcdsaSign j s
  | .ecdsaVerify j => Sys2Proof.Machine.execEcdsaVerify j s
  | .ecdsaVerifyExt j => Sys2Proof.Machine.execEcdsaVerifyExt j s
  | .keyAgree j => Sys2Proof.Machine.execKeyAgree j s
  | .eddsaSign j => Sys2Proof.Machine.execEddsaSign j s
  | .eddsaVerify j => Sys2Proof.Machine.execEddsaVerify j s
  | .eddsaVerifyExt j => Sys2Proof.Machine.execEddsaVerifyExt j s
  | .curveLoad j => Sys2Proof.Machine.execCurveLoad j s
  | .curveUnload j => Sys2Proof.Machine.execCurveUnload j s
  | .rsaKeygen j => Sys2Proof.Machine.execRsaKeygen j s
  | .rsaSign j => Sys2Proof.Machine.execRsaSign j s
  | .rsaVerify j => Sys2Proof.Machine.execRsaVerify j s
  | .rsaVerifyExt j => Sys2Proof.Machine.execRsaVerifyExt j s
  | .rsaEncrypt j => Sys2Proof.Machine.execRsaEncrypt j s
  | .rsaEncryptExt j => Sys2Proof.Machine.execRsaEncryptExt j s
  | .rsaDecrypt j => Sys2Proof.Machine.execRsaDecrypt j s
  | .encrypt j => Sys2Proof.Machine.execEncrypt j s
  | .decrypt j => Sys2Proof.Machine.execDecrypt j s
  | .macGenerate j => Sys2Proof.Machine.execMacGenerate j s
  | .macVerify j => Sys2Proof.Machine.execMacVerify j s
  | .hash j => Sys2Proof.Machine.execHash j s
  | .generate j => Sys2Proof.Machine.execGenerate j s
  | .import j => Sys2Proof.Machine.execImport j s
  | .exportPublic j => Sys2Proof.Machine.execExportPublic j s
  | .exportWrapped j => Sys2Proof.Machine.execExportWrapped j s
  | .derive j => Sys2Proof.Machine.execDerive j s
  | .invalidate j => Sys2Proof.Machine.execInvalidate j s
  | .evict j => Sys2Proof.Machine.execEvict j s
  | .rewrap j => Sys2Proof.Machine.execRewrap j s
  | .statefulSplit j => Sys2Proof.Machine.execStatefulSplit j s
  | .backupExport j => Sys2Proof.Machine.execBackupExport j s
  | .backupImport j => Sys2Proof.Machine.execBackupImport j s
  | .programActivate j => Sys2Proof.Machine.execProgramActivate j s
  | .attestProvision j => Sys2Proof.Machine.execAttestProvision j s
  | .stageCommit j => Sys2Proof.Machine.execStageCommit j s
  | .random j => Sys2Proof.Machine.execRandom j s
  | .reseed j => Sys2Proof.Machine.execReseed j s
  | .runProgram j => Sys2Proof.Machine.execRunProgram j s
  | .hybridKeygen j => Sys2Proof.Machine.execHybridKeygen j s
  | .hybridEncaps j => Sys2Proof.Machine.execHybridEncaps j s
  | .hybridEncapsExt j => Sys2Proof.Machine.execHybridEncapsExt j s
  | .hybridDecaps j => Sys2Proof.Machine.execHybridDecaps j s
  | .hybridSign j => Sys2Proof.Machine.execHybridSign j s
  | .hybridVerify j => Sys2Proof.Machine.execHybridVerify j s
  | .hybridVerifyExt j => Sys2Proof.Machine.execHybridVerifyExt j s
  | .attestShared j => Sys2Proof.Machine.execAttestShared j s
  | .attestSigned j => Sys2Proof.Machine.execAttestSigned j s
  | .getIdentity j => Sys2Proof.Machine.execGetIdentity j s
  | .instCreate j => Sys2Proof.Machine.execInstCreate j s
  | .instDestroy j => Sys2Proof.Machine.execInstDestroy j s
  | .instFreeze j => Sys2Proof.Machine.execInstFreeze j s
  | .freezeDrained inst => Sys2Proof.Machine.execFreezeDrained inst s
  | .instThaw j => Sys2Proof.Machine.execInstThaw j s
  | .instSave j => Sys2Proof.Machine.execInstSave j s
  | .instRestorePrepare j => Sys2Proof.Machine.execInstRestorePrepare j s
  | .instRestore j => Sys2Proof.Machine.execInstRestore j s
  | .queueRehome j => Sys2Proof.Machine.execQueueRehome j s
  | .rehomeDrainComplete die queue => Sys2Proof.Machine.execRehomeDrainComplete die queue s
  | .setShare j => Sys2Proof.Machine.execSetShare j s
  | .balanceInterval => Sys2Proof.Machine.execBalanceInterval s
  | .sealCandidate j e => Sys2Proof.Machine.execSealCandidate j e s
  | .lcTransition j => Sys2Proof.Machine.execLcTransition j s
  | .completeTransition j => Sys2Proof.Machine.execCompleteTransition j s
  | .lcBitBurned retries => Sys2Proof.Machine.execLcBitBurned retries s
  | .burnFail die => Sys2Proof.Machine.execBurnFail die s
  | .lcResetTimer => Sys2Proof.Machine.execLcResetTimer s
  | .zeroise j => Sys2Proof.Machine.execZeroise j s
  | .unlock j => Sys2Proof.Machine.execUnlock j s
  | .logDrain j => Sys2Proof.Machine.execLogDrain j s
  | .passDispatch die engine => Sys2Proof.Machine.execPassDispatch die engine s
  | .feedGrant die => Sys2Proof.Machine.execFeedGrant die s
  | .feedReseed die => Sys2Proof.Machine.execFeedReseed die s
  | .drbgRequest die bytes => Sys2Proof.Machine.execDrbgRequest die bytes s
  | .drbgReseedDue die => Sys2Proof.Machine.execDrbgReseedDue die s
  | .conditioningDone die => Sys2Proof.Machine.execConditioningDone die s
  | .healthTestFail die stream rct => Sys2Proof.Machine.execHealthTestFail die stream rct s
  | .startupTestsPass die => Sys2Proof.Machine.execStartupTestsPass die s
  | .nop r f => Sys2Proof.Machine.execNop r f s
  | .lend r f => Sys2Proof.Machine.execLend r f s
  | .repeatLimit die engine => Sys2Proof.Machine.execRepeatLimit die engine s
  | .loop r f => Sys2Proof.Machine.execLoop r f s
  | .loopi r f => Sys2Proof.Machine.execLoopi r f s
  | .setvl r f => Sys2Proof.Machine.execSetvl r f s
  | .vsettype r f => Sys2Proof.Machine.execVsettype r f s
  | .vsetmod r f => Sys2Proof.Machine.execVsetmod r f s
  | .setout r f => Sys2Proof.Machine.execSetout r f s
  | .vaccept r f => Sys2Proof.Machine.execVaccept r f s
  | .sli r f => Sys2Proof.Machine.execSli r f s
  | .salu r f => Sys2Proof.Machine.execSalu r f s
  | .salui r f => Sys2Proof.Machine.execSalui r f s
  | .sjr r f => Sys2Proof.Machine.execSjr r f s
  | .vldu r f => Sys2Proof.Machine.execVldu r f s
  | .vstu r f => Sys2Proof.Machine.execVstu r f s
  | .vldp r f => Sys2Proof.Machine.execVldp r f s
  | .vstp r f => Sys2Proof.Machine.execVstp r f s
  | .vldf r f => Sys2Proof.Machine.execVldf r f s
  | .vstf r f => Sys2Proof.Machine.execVstf r f s
  | .vgather r f => Sys2Proof.Machine.execVgather r f s
  | .vscatter r f => Sys2Proof.Machine.execVscatter r f s
  | .vkld r f => Sys2Proof.Machine.execVkld r f s
  | .valu r f => Sys2Proof.Machine.execValu r f s
  | .vcmp r f => Sys2Proof.Machine.execVcmp r f s
  | .malu r f => Sys2Proof.Machine.execMalu r f s
  | .vmerge r f => Sys2Proof.Machine.execVmerge r f s
  | .madd r f => Sys2Proof.Machine.execMadd r f s
  | .msub r f => Sys2Proof.Machine.execMsub r f s
  | .mneg r f => Sys2Proof.Machine.execMneg r f s
  | .mred r f => Sys2Proof.Machine.execMred r f s
  | .mmont r f => Sys2Proof.Machine.execMmont r f s
  | .mbar r f => Sys2Proof.Machine.execMbar r f s
  | .tomont r f => Sys2Proof.Machine.execTomont r f s
  | .cmpr r f => Sys2Proof.Machine.execCmpr r f s
  | .dcmpr r f => Sys2Proof.Machine.execDcmpr r f s
  | .p2r r f => Sys2Proof.Machine.execP2r r f s
  | .decomp r f => Sys2Proof.Machine.execDecomp r f s
  | .vbfly r f => Sys2Proof.Machine.execVbfly r f s
  | .vbmul r f => Sys2Proof.Machine.execVbmul r f s
  | .zip r f => Sys2Proof.Machine.execZip r f s
  | .unzip r f => Sys2Proof.Machine.execUnzip r f s
  | .brev r f => Sys2Proof.Machine.execBrev r f s
  | .slideup r f => Sys2Proof.Machine.execSlideup r f s
  | .slidedn r f => Sys2Proof.Machine.execSlidedn r f s
  | .bmt r f => Sys2Proof.Machine.execBmt r f s
  | .vcompress r f => Sys2Proof.Machine.execVcompress r f s
  | .vpack r f => Sys2Proof.Machine.execVpack r f s
  | .vunpack r f => Sys2Proof.Machine.execVunpack r f s
  | .vcbd r f => Sys2Proof.Machine.execVcbd r f s
  | .vrej r f => Sys2Proof.Machine.execVrej r f s
  | .split r f => Sys2Proof.Machine.execSplit r f s
  | .splita r f => Sys2Proof.Machine.execSplita r f s
  | .vjoin x => Sys2Proof.Machine.execVjoin x s
  | .joina r f => Sys2Proof.Machine.execJoina r f s
  | .bxor r f => Sys2Proof.Machine.execBxor r f s
  | .band r f => Sys2Proof.Machine.execBand r f s
  | .bnot r f => Sys2Proof.Machine.execBnot r f s
  | .aadd r f => Sys2Proof.Machine.execAadd r f s
  | .asub r f => Sys2Proof.Machine.execAsub r f s
  | .amont r f => Sys2Proof.Machine.execAmont r f s
  | .a2b r f => Sys2Proof.Machine.execA2b r f s
  | .b2a r f => Sys2Proof.Machine.execB2a r f s
  | .refresh r f => Sys2Proof.Machine.execRefresh r f s
  | .kinit r f => Sys2Proof.Machine.execKinit r f s
  | .kabs r f => Sys2Proof.Machine.execKabs r f s
  | .kabsm r f => Sys2Proof.Machine.execKabsm r f s
  | .kfin r f => Sys2Proof.Machine.execKfin r f s
  | .vxof r f => Sys2Proof.Machine.execVxof r f s
  | .ksave r f => Sys2Proof.Machine.execKsave r f s
  | .kload r f => Sys2Proof.Machine.execKload r f s
  | .hinit r f => Sys2Proof.Machine.execHinit r f s
  | .hblk r f => Sys2Proof.Machine.execHblk r f s
  | .hblkm r f => Sys2Proof.Machine.execHblkm r f s
  | .hout r f => Sys2Proof.Machine.execHout r f s
  | .hload r f => Sys2Proof.Machine.execHload r f s
  | .ckptGap die engine => Sys2Proof.Machine.execCkptGap die engine s
  | .lveAbort die engine => Sys2Proof.Machine.execLveAbort die engine s
  | .patchRefresh die ok => Sys2Proof.Machine.execPatchRefresh die ok s
  | .lveOffline die engine w => Sys2Proof.Machine.execLveOffline die engine w s
  | .lveUnfence die engine w => Sys2Proof.Machine.execLveUnfence die engine w s
  | .bneOffline die engine w => Sys2Proof.Machine.execBneOffline die engine w s
  | .bneUnfence die engine w => Sys2Proof.Machine.execBneUnfence die engine w s
  | .syeOffline die engine w => Sys2Proof.Machine.execSyeOffline die engine w s
  | .syeUnfence die engine w => Sys2Proof.Machine.execSyeUnfence die engine w s
  | .selftestDone die e pass => Sys2Proof.Machine.execSelftestDone die e pass s
  | .bneLegEnd die engine flagsAgree => Sys2Proof.Machine.execBneLegEnd die engine flagsAgree s
  | .keygenLimit j => Sys2Proof.Machine.execKeygenLimit j s
  | .laneWipeDone die engine lane => Sys2Proof.Machine.execLaneWipeDone die engine lane s
  | .syeSegmentEnd die engine => Sys2Proof.Machine.execSyeSegmentEnd die engine s
  | .mhaOpen die => Sys2Proof.Machine.execMhaOpen die s
  | .mhaRange die base len stream => Sys2Proof.Machine.execMhaRange die base len stream s
  | .mhaClose die => Sys2Proof.Machine.execMhaClose die s
  | .mhaAbort die => Sys2Proof.Machine.execMhaAbort die s
  | .heartbeatPeriod => Sys2Proof.Machine.execHeartbeatPeriod s
  | .heartbeat die b => Sys2Proof.Machine.execHeartbeat die b s
  | .heartbeatSilence x => Sys2Proof.Machine.execHeartbeatSilence x s
  | .vote die src pass code share => Sys2Proof.Machine.execVote die src pass code share s
  | .voteTimeout die => Sys2Proof.Machine.execVoteTimeout die s
  | .accept die src m => Sys2Proof.Machine.execAccept die src m s
  | .commit die src => Sys2Proof.Machine.execCommit die src s
  | .splitFrame die => Sys2Proof.Machine.execSplitFrame die s
  | .tamperOrder die src resp cls => Sys2Proof.Machine.execTamperOrder die src resp cls s
  | .joinAck die src share => Sys2Proof.Machine.execJoinAck die src share s
  | .statePush die src tagOk => Sys2Proof.Machine.execStatePush die src tagOk s
  | .logFrame die => Sys2Proof.Machine.execLogFrame die s
  | .eventFrame p => Sys2Proof.Machine.execEventFrame p s
  | .replayExhausted die port => Sys2Proof.Machine.execReplayExhausted die port s
  | .linkTrained die port => Sys2Proof.Machine.execLinkTrained die port s
  | .linkRetrainTimeout die port => Sys2Proof.Machine.execLinkRetrainTimeout die port s
  | .dieResetRequest w => Sys2Proof.Machine.execDieResetRequest w s
  | .dieResetEntry die => Sys2Proof.Machine.execDieResetEntry die s
  | .rejoinTimeout die => Sys2Proof.Machine.execRejoinTimeout die s
  | .cardInserted port => Sys2Proof.Machine.execCardInserted port s
  | .cardRemoved port => Sys2Proof.Machine.execCardRemoved port s
  | .atr port bytes inTime => Sys2Proof.Machine.execAtr port bytes inTime s
  | .atrTimeout port => Sys2Proof.Machine.execAtrTimeout port s
  | .ppsResponse port bytes => Sys2Proof.Machine.execPpsResponse port bytes s
  | .sWtx port mult => Sys2Proof.Machine.execSWtx port mult s
  | .cardWaitTimeout port => Sys2Proof.Machine.execCardWaitTimeout port s
  | .clockStop port => Sys2Proof.Machine.execClockStop port s
  | .cardSelect port r => Sys2Proof.Machine.execCardSelect port r s
  | .getInfo port r => Sys2Proof.Machine.execGetInfo port r s
  | .authenticate port r => Sys2Proof.Machine.execAuthenticate port r s
  | .getShare port r => Sys2Proof.Machine.execGetShare port r s
  | .endSession port r => Sys2Proof.Machine.execEndSession port r s
  | .reauth w => Sys2Proof.Machine.execReauth w s
  | .dissolve w => Sys2Proof.Machine.execDissolve w s
  | .quorumIdleExpiry => Sys2Proof.Machine.execQuorumIdleExpiry s
  | .backupCardInserted c => Sys2Proof.Machine.execBackupCardInserted c s
  | .backupCardRemoved => Sys2Proof.Machine.execBackupCardRemoved s
  | .blockRead r => Sys2Proof.Machine.execBlockRead r s
  | .busyEnd statusOk => Sys2Proof.Machine.execBusyEnd statusOk s
  | .sdTimeout l => Sys2Proof.Machine.execSdTimeout l s
  | .bkClockIdle => Sys2Proof.Machine.execBkClockIdle s
  | .reinsertTimeout => Sys2Proof.Machine.execReinsertTimeout s
  | .clkHigh die => Sys2Proof.Machine.execClkHigh die s
  | .clkLow die => Sys2Proof.Machine.execClkLow die s
  | .clkShort die => Sys2Proof.Machine.execClkShort die s
  | .refFreq die => Sys2Proof.Machine.execRefFreq die s
  | .clkSkip die => Sys2Proof.Machine.execClkSkip die s
  | .supplyGlitch die => Sys2Proof.Machine.execSupplyGlitch die s
  | .supplyHigh die => Sys2Proof.Machine.execSupplyHigh die s
  | .tempHigh die tj => Sys2Proof.Machine.execTempHigh die tj s
  | .tempCrit die tj => Sys2Proof.Machine.execTempCrit die tj s
  | .tempLow die tj => Sys2Proof.Machine.execTempLow die tj s
  | .shield die => Sys2Proof.Machine.execShield die s
  | .light die => Sys2Proof.Machine.execLight die s
  | .tmpIn input => Sys2Proof.Machine.execTmpIn input s
  | .batLow => Sys2Proof.Machine.execBatLow s
  | .batCrit => Sys2Proof.Machine.execBatCrit s
  | .xtalStop => Sys2Proof.Machine.execXtalStop s
  | .tamperConditionClear die cls => Sys2Proof.Machine.execTamperConditionClear die cls s
  | .throttleRelease die => Sys2Proof.Machine.execThrottleRelease die s
  | .severe die src => Sys2Proof.Machine.execSevere die src s
  | .heatSliceBoundary die code => Sys2Proof.Machine.execHeatSliceBoundary die code s
  | .grpCtrlAck die w => Sys2Proof.Machine.execGrpCtrlAck die w s
  | .srcClear die w => Sys2Proof.Machine.execSrcClear die w s
  | .faultPin w => Sys2Proof.Machine.execFaultPin w s
  | .faultPulseEnd => Sys2Proof.Machine.execFaultPulseEnd s
  | .route value => Sys2Proof.Machine.execRoute value s
  | .mqRoute value => Sys2Proof.Machine.execMqRoute value s
  | .iitData word value => Sys2Proof.Machine.execIitData word value s
  | .auditEntryAccept => Sys2Proof.Machine.execAuditEntryAccept s
  | .checkpoint => Sys2Proof.Machine.execCheckpoint s
  | .checkpointSigned => Sys2Proof.Machine.execCheckpointSigned s
  | .probeInterval die => Sys2Proof.Machine.execProbeInterval die s
  | .probeStart die => Sys2Proof.Machine.execProbeStart die s
  | .probeWaitTimeout die => Sys2Proof.Machine.execProbeWaitTimeout die s
  | .avsComplete die => Sys2Proof.Machine.execAvsComplete die s
  | .avsTimeout die => Sys2Proof.Machine.execAvsTimeout die s
  | .vstepRetry die => Sys2Proof.Machine.execVstepRetry die s
  | .avsExhausted die => Sys2Proof.Machine.execAvsExhausted die s
  | .roMeasure die ppm => Sys2Proof.Machine.execRoMeasure die ppm s
  | .slackWindow die slack => Sys2Proof.Machine.execSlackWindow die slack s
  | .stressMinute die tj => Sys2Proof.Machine.execStressMinute die tj s
  | .skipEvaluate die tj => Sys2Proof.Machine.execSkipEvaluate die tj s
  | .marginProject die => Sys2Proof.Machine.execMarginProject die s
  | .ageingRecordCommit die => Sys2Proof.Machine.execAgeingRecordCommit die s
  | .tapBypass die => Sys2Proof.Machine.execTapBypass die s
  | .tapIdcode die => Sys2Proof.Machine.execTapIdcode die s
  | .tapSamplePreload die => Sys2Proof.Machine.execTapSamplePreload die s
  | .tapExtest die => Sys2Proof.Machine.execTapExtest die s
  | .tapClamp die => Sys2Proof.Machine.execTapClamp die s
  | .tapHighz die => Sys2Proof.Machine.execTapHighz die s
  | .tapInternal die opc burn => Sys2Proof.Machine.execTapInternal die opc burn s
  | .testLogicReset => Sys2Proof.Machine.execTestLogicReset s
  | .flashErase w => Sys2Proof.Machine.execFlashErase w s
  | .flashProgram w => Sys2Proof.Machine.execFlashProgram w s
  | .flashActivate w => Sys2Proof.Machine.execFlashActivate w s
  | .flashOpDone e => Sys2Proof.Machine.execFlashOpDone e s
  | .smbVersion => Sys2Proof.Machine.execSmbVersion s
  | .smbState => Sys2Proof.Machine.execSmbState s
  | .smbMaxTemp => Sys2Proof.Machine.execSmbMaxTemp s
  | .smbDieTemps => Sys2Proof.Machine.execSmbDieTemps s
  | .smbFaults => Sys2Proof.Machine.execSmbFaults s
  | .smbDieUid => Sys2Proof.Machine.execSmbDieUid s
  | .smbBoot => Sys2Proof.Machine.execSmbBoot s
  | .smbAlertResponse => Sys2Proof.Machine.execSmbAlertResponse s
  | .smbusWrite pecBad => Sys2Proof.Machine.execSmbusWrite pecBad s
  | .registerRead r => Sys2Proof.Machine.execRegisterRead r s
  | .functionReady => Sys2Proof.Machine.execFunctionReady s
  | .railRestored die b => Sys2Proof.Machine.execRailRestored die b s
  | .vbatApplied mv => Sys2Proof.Machine.execVbatApplied mv s
  | .vbatLost => Sys2Proof.Machine.execVbatLost s
  | .probeComplete die margins => Sys2Proof.Machine.execProbeComplete die margins s
  | .provisionQuorumTimeout => Sys2Proof.Machine.execProvisionQuorumTimeout s
  | .vccOffHoldEnd port => Sys2Proof.Machine.execVccOffHoldEnd port s
  | .smbusTimeout => Sys2Proof.Machine.execSmbusTimeout s
  | .lcDecodeChange die word => Sys2Proof.Machine.execLcDecodeChange die word s

end Sys2Proof.Machine
end

