-- ==== Sys2Proof/WellFormed.lean ====
section
/-! DEFINITION. WellFormed: which commands name units, registers and fields that the family has, whatever the part. A check refuses an
operand that no VQ-8x00 could be given; what a smaller part does with a die it lacks is the meaning's concern. -/

namespace Sys2Proof

/-- Dies of the largest part (R1). -/
abbrev maxDies : Nat := 8
/-- Instances of the package (R1). -/
abbrev maxInst : Nat := 4096
/-- Queue contexts of a die (R146). -/
abbrev maxCtx : Nat := 4096
/-- Sources of a fault collection page (R440). -/
abbrev maxSources : Nat := 1152

/-- The engine exists in the family (R20). -/
def LveRef.ok (r : LveRef) : Bool := decide (r.die < maxDies ∧ r.engine < 16)

/-- The BAR exists (R50), and an IDE stream number has its range (R48). -/
def HostReq.ok (r : HostReq) : Bool :=
  (r.bar == 0 || r.bar == 2 || r.bar == 4) && r.ide.all (fun p => decide (p.1 ≤ 64))

/-- Instances of a block in a die window (R53); 0 for a code without a block. -/
def pagesOf (blk : Nat) : Nat :=
  if blk = 0x10 ∨ blk = 0x11 then 16
  else if blk = 0x12 ∨ blk = 0x17 then 4
  else if blk = 0x13 ∨ blk = 0x0A then 2
  else if 1 ≤ blk ∧ blk ≤ 0x1A then 1 else 0

/-- The page exists (R53). -/
def PageRef.ok (p : PageRef) : Bool := decide (p.die < maxDies ∧ p.inst < pagesOf p.blk)

/-- The queue exists: pair 0 to 7 of an instance, or a context of a die (R61, R146). -/
def QueueRef.ok : QueueRef → Bool
  | .tenant i q => decide (i < maxInst ∧ q < 8)
  | .manager d q => decide (d < maxDies ∧ q < maxCtx)

/-- The engine exists (R20). -/
def EngineId.ok : EngineId → Bool
  | .lve i => decide (i < 16)
  | .bne i => decide (i < 4)
  | .sye i => decide (i < 2)
  | .rng | .kvd | .none => true

/-- A read the device can have outstanding (R41). -/
def ReadOf.ok : ReadOf → Bool
  | .entry q i => decide (q < maxCtx ∧ i < 65536)
  | .job _ part => decide (part < 8)
  | .mailbox i => decide (i < maxInst)

/-- A cause that R41 names, and an IDE stream number in its range (R48). -/
def ReadResult.ok : ReadResult → Bool
  | .good _ | .noDigest _ => true
  | .onStream n _ _ => decide (n ≤ 64)
  | .failed c => decide (2 ≤ c ∧ c ≤ 5)

/-- The BAR that a selective stream is bound to exists (R48, R50). -/
def IdeKm.ok : IdeKm → Bool
  | .keyProg (.bar n) => decide (n = 0 ∨ n = 2 ∨ n = 4)
  | .keyProg (.host _ _) | .setGo | .setStop => true

/-- At most one record for each die, and the engines named exist. -/
def DieBoot.ok (b : DieBoot) : Bool := b.engineFail.all (fun e => decide (e < 22))
/-- The records are for dies of the family. -/
def BootIn.ok (b : BootIn) : Bool :=
  decide (b.dies.length ≤ maxDies) && b.dies.all DieBoot.ok && b.patches.all (fun p => decide (p.1 < maxDies))

/-- The fields have the ranges of R379. -/
def Beat.ok (b : Beat) : Bool := decide (b.src < maxDies ∧ b.holder < maxDies)
/-- The fields have the ranges of R381. -/
def AcceptMsg.ok (m : AcceptMsg) : Bool :=
  m.holder.all (fun h => decide (h < maxDies)) && m.voters.all (fun d => decide (d < maxDies)) && m.nonce.length == 32
/-- The die and the port exist. -/
def Silence.ok : Silence → Bool
  | .port d p => decide (d < maxDies ∧ p < 2)
  | .die d | .holder d => decide (d < maxDies)
/-- A JOIN frame carries a 16-byte share (R387). -/
def JoinMsg.ok (m : JoinMsg) : Bool := decide (m.die < maxDies) && m.share.length == 16
/-- Block 0 of a backup card has 512 bytes (R405). -/
def BkIdent.ok (c : BkIdent) : Bool := !c.accepted || c.header.length == 512
/-- The byte fields have the lengths of R478. -/
def FuseImage.ok (i : FuseImage) : Bool :=
  i.seed.length == 48 && i.helper.length == 512 && i.kpatch.length == 32 && i.kpair.length == 32
/-- The LVE instruction is valid (R198), or the frame has its form. -/
def JoinForm.ok : JoinForm → Bool
  | .vmsk r f => r.ok && LveOp.vjoin.valid f
  | .frame m => m.ok

/-- The operands of a command have the ranges the manual gives them. -/
def Instr.wellFormed : Instr → Bool
  | .pwrgoodRise b => b.ok
  | .pwrgoodFall => true
  | .perstNAssert => true
  | .perstNRelease b => b.ok
  | .railReset die => decide (die < maxDies)
  | .supplyDip die => decide (die < maxDies)
  | .dipRecovered die => decide (die < maxDies)
  | .pcieLinkUp speed width _ => decide (1 ≤ speed ∧ speed ≤ 6) && decide (width ∈ [1, 2, 4, 8, 16])
  | .functionLevelReset => true
  | .hotReset => true
  | .dlDown => true
  | .d3hotEntry => true
  | .d3hotToD0 => true
  | .busMasterEnable _ => true
  | .msixControl _ _ => true
  | .msixTableWrite off _ => decide (off < 0x8000 ∧ off % 4 = 0)
  | .configRequest reg => decide (reg < 1024)
  | .ioRequest => true
  | .l1Entry => true
  | .l0pRequest width => decide (width ∈ [1, 2, 4, 8, 16])
  | .ideKm _ stream m => decide (stream ≤ 64) && m.ok
  | .registerWrite r _ => r.ok
  | .lock p _ => p.ok
  | .evtForce p _ => p.ok
  | .devReset _ => true
  | .rtcLoRead => true
  | .monoLoRead => true
  | .recClear _ => true
  | .aliveCtrl _ => true
  | .aliveTimeout => true
  | .sqTailDoorbell q index _ => q.ok && decide (index < 65536)
  | .cqHeadDoorbell q index => q.ok && decide (index < 65536)
  | .sqInval q _ => q.ok
  | .resume q => q.ok
  | .skip q => q.ok
  | .enable die queue => decide (die < maxDies) && decide (queue < maxCtx)
  | .disable die queue => decide (die < maxDies) && decide (queue < maxCtx)
  | .disableEffective die queue => decide (die < maxDies) && decide (queue < maxCtx)
  | .entryFetched die queue index bytes => decide (die < maxDies) && decide (queue < maxCtx) && decide (index < 65536) && decide (bytes.length = 128)
  | .jobDispatch die e => decide (die < maxDies) && e.ok
  | .dwrrRoundStart die cls => decide (die < maxDies) && decide (cls < 16)
  | .blobTableEntryFetched j _ => decide (j.die < maxDies)
  | .blobFetched j _ => decide (j.die < maxDies)
  | .kpcFillComplete j _ => decide (j.die < maxDies)
  | .hostReadCompletion die what r => decide (die < maxDies) && what.ok && r.ok
  | .completionTimeout die what => decide (die < maxDies) && what.ok
  | .descriptorComplete die ch _ => decide (die < maxDies) && decide (ch < 16)
  | .irqDelayExpiry die queue => decide (die < maxDies) && decide (queue < maxCtx)
  | .irqCountReached die queue => decide (die < maxDies) && decide (queue < maxCtx)
  | .paceResume die ch => decide (die < maxDies) && decide (ch < 16)
  | .chOffline die _ => decide (die < maxDies)
  | .pReset inst _ => decide (inst < maxInst)
  | .instCmdReset _ => true
  | .instResetAccept inst => decide (inst < maxInst)
  | .instResetComplete inst => decide (inst < maxInst)
  | .mbSend inst _ => decide (inst < maxInst)
  | .mbAck inst => decide (inst < maxInst)
  | .mbBufferCopied inst r => decide (inst < maxInst) && r.ok
  | .mgrMbSend => true
  | .mgrMbAck => true
  | .kstageLoad inst _ => decide (inst < maxInst)
  | .kstageClear inst _ => decide (inst < maxInst)
  | .kstageClearAll inst _ => decide (inst < maxInst)
  | .kstageOpRefused inst _ => decide (inst < maxInst)
  | .kstageDone inst => decide (inst < maxInst)
  | .attCmd inst _ => decide (inst < maxInst)
  | .attDone inst => decide (inst < maxInst)
  | .kemKeygen j => decide (j.die < maxDies)
  | .kemEncaps j => decide (j.die < maxDies)
  | .kemEncapsExt j => decide (j.die < maxDies)
  | .kemDecaps j => decide (j.die < maxDies)
  | .sigKeygen j => decide (j.die < maxDies)
  | .sigSign j => decide (j.die < maxDies)
  | .sigVerify j => decide (j.die < maxDies)
  | .sigVerifyExt j => decide (j.die < maxDies)
  | .statefulKeygen j => decide (j.die < maxDies)
  | .statefulSign j => decide (j.die < maxDies)
  | .statefulVerify j => decide (j.die < maxDies)
  | .statefulVerifyExt j => decide (j.die < maxDies)
  | .remaining j => decide (j.die < maxDies)
  | .ecKeygen j => decide (j.die < maxDies)
  | .ecdsaSign j => decide (j.die < maxDies)
  | .ecdsaVerify j => decide (j.die < maxDies)
  | .ecdsaVerifyExt j => decide (j.die < maxDies)
  | .keyAgree j => decide (j.die < maxDies)
  | .eddsaSign j => decide (j.die < maxDies)
  | .eddsaVerify j => decide (j.die < maxDies)
  | .eddsaVerifyExt j => decide (j.die < maxDies)
  | .curveLoad j => decide (j.die < maxDies)
  | .curveUnload j => decide (j.die < maxDies)
  | .rsaKeygen j => decide (j.die < maxDies)
  | .rsaSign j => decide (j.die < maxDies)
  | .rsaVerify j => decide (j.die < maxDies)
  | .rsaVerifyExt j => decide (j.die < maxDies)
  | .rsaEncrypt j => decide (j.die < maxDies)
  | .rsaEncryptExt j => decide (j.die < maxDies)
  | .rsaDecrypt j => decide (j.die < maxDies)
  | .encrypt j => decide (j.die < maxDies)
  | .decrypt j => decide (j.die < maxDies)
  | .macGenerate j => decide (j.die < maxDies)
  | .macVerify j => decide (j.die < maxDies)
  | .hash j => decide (j.die < maxDies)
  | .generate j => decide (j.die < maxDies)
  | .import j => decide (j.die < maxDies)
  | .exportPublic j => decide (j.die < maxDies)
  | .exportWrapped j => decide (j.die < maxDies)
  | .derive j => decide (j.die < maxDies)
  | .invalidate j => decide (j.die < maxDies)
  | .evict j => decide (j.die < maxDies)
  | .rewrap j => decide (j.die < maxDies)
  | .statefulSplit j => decide (j.die < maxDies)
  | .backupExport j => decide (j.die < maxDies)
  | .backupImport j => decide (j.die < maxDies)
  | .programActivate j => decide (j.die < maxDies)
  | .attestProvision j => decide (j.die < maxDies)
  | .stageCommit j => decide (j.die < maxDies)
  | .random j => decide (j.die < maxDies)
  | .reseed j => decide (j.die < maxDies)
  | .runProgram j => decide (j.die < maxDies)
  | .hybridKeygen j => decide (j.die < maxDies)
  | .hybridEncaps j => decide (j.die < maxDies)
  | .hybridEncapsExt j => decide (j.die < maxDies)
  | .hybridDecaps j => decide (j.die < maxDies)
  | .hybridSign j => decide (j.die < maxDies)
  | .hybridVerify j => decide (j.die < maxDies)
  | .hybridVerifyExt j => decide (j.die < maxDies)
  | .attestShared j => decide (j.die < maxDies)
  | .attestSigned j => decide (j.die < maxDies)
  | .getIdentity j => decide (j.die < maxDies)
  | .instCreate j => decide (j.die < maxDies)
  | .instDestroy j => decide (j.die < maxDies)
  | .instFreeze j => decide (j.die < maxDies)
  | .freezeDrained inst => decide (inst < maxInst)
  | .instThaw j => decide (j.die < maxDies)
  | .instSave j => decide (j.die < maxDies)
  | .instRestorePrepare j => decide (j.die < maxDies)
  | .instRestore j => decide (j.die < maxDies)
  | .queueRehome j => decide (j.die < maxDies)
  | .rehomeDrainComplete die queue => decide (die < maxDies) && decide (queue < maxCtx)
  | .setShare j => decide (j.die < maxDies)
  | .balanceInterval => true
  | .sealCandidate j _ => decide (j.die < maxDies)
  | .lcTransition j => decide (j.die < maxDies)
  | .completeTransition j => decide (j.die < maxDies)
  | .lcBitBurned _ => true
  | .burnFail die => decide (die < maxDies)
  | .lcResetTimer => true
  | .zeroise j => decide (j.die < maxDies)
  | .unlock j => decide (j.die < maxDies)
  | .logDrain j => decide (j.die < maxDies)
  | .passDispatch die engine => decide (die < maxDies) && decide (engine < 16)
  | .feedGrant die => decide (die < maxDies)
  | .feedReseed die => decide (die < maxDies)
  | .drbgRequest die bytes => decide (die < maxDies) && decide (1 ≤ bytes ∧ bytes ≤ 65536)
  | .drbgReseedDue die => decide (die < maxDies)
  | .conditioningDone die => decide (die < maxDies)
  | .healthTestFail die stream _ => decide (die < maxDies) && decide (stream < 8)
  | .startupTestsPass die => decide (die < maxDies)
  | .nop r f => r.ok && LveOp.nop.valid f
  | .lend r f => r.ok && LveOp.lend.valid f
  | .repeatLimit die engine => decide (die < maxDies) && decide (engine < 16)
  | .loop r f => r.ok && LveOp.loop.valid f
  | .loopi r f => r.ok && LveOp.loopi.valid f
  | .setvl r f => r.ok && LveOp.setvl.valid f
  | .vsettype r f => r.ok && LveOp.vsettype.valid f
  | .vsetmod r f => r.ok && LveOp.vsetmod.valid f
  | .setout r f => r.ok && LveOp.setout.valid f
  | .vaccept r f => r.ok && LveOp.vaccept.valid f
  | .sli r f => r.ok && LveOp.sli.valid f
  | .salu r f => r.ok && LveOp.salu.valid f
  | .salui r f => r.ok && LveOp.salui.valid f
  | .sjr r f => r.ok && LveOp.sjr.valid f
  | .vldu r f => r.ok && LveOp.vldu.valid f
  | .vstu r f => r.ok && LveOp.vstu.valid f
  | .vldp r f => r.ok && LveOp.vldp.valid f
  | .vstp r f => r.ok && LveOp.vstp.valid f
  | .vldf r f => r.ok && LveOp.vldf.valid f
  | .vstf r f => r.ok && LveOp.vstf.valid f
  | .vgather r f => r.ok && LveOp.vgather.valid f
  | .vscatter r f => r.ok && LveOp.vscatter.valid f
  | .vkld r f => r.ok && LveOp.vkld.valid f
  | .valu r f => r.ok && LveOp.valu.valid f
  | .vcmp r f => r.ok && LveOp.vcmp.valid f
  | .malu r f => r.ok && LveOp.malu.valid f
  | .vmerge r f => r.ok && LveOp.vmerge.valid f
  | .madd r f => r.ok && LveOp.madd.valid f
  | .msub r f => r.ok && LveOp.msub.valid f
  | .mneg r f => r.ok && LveOp.mneg.valid f
  | .mred r f => r.ok && LveOp.mred.valid f
  | .mmont r f => r.ok && LveOp.mmont.valid f
  | .mbar r f => r.ok && LveOp.mbar.valid f
  | .tomont r f => r.ok && LveOp.tomont.valid f
  | .cmpr r f => r.ok && LveOp.cmpr.valid f
  | .dcmpr r f => r.ok && LveOp.dcmpr.valid f
  | .p2r r f => r.ok && LveOp.p2r.valid f
  | .decomp r f => r.ok && LveOp.decomp.valid f
  | .vbfly r f => r.ok && LveOp.vbfly.valid f
  | .vbmul r f => r.ok && LveOp.vbmul.valid f
  | .zip r f => r.ok && LveOp.zip.valid f
  | .unzip r f => r.ok && LveOp.unzip.valid f
  | .brev r f => r.ok && LveOp.brev.valid f
  | .slideup r f => r.ok && LveOp.slideup.valid f
  | .slidedn r f => r.ok && LveOp.slidedn.valid f
  | .bmt r f => r.ok && LveOp.bmt.valid f
  | .vcompress r f => r.ok && LveOp.vcompress.valid f
  | .vpack r f => r.ok && LveOp.vpack.valid f
  | .vunpack r f => r.ok && LveOp.vunpack.valid f
  | .vcbd r f => r.ok && LveOp.vcbd.valid f
  | .vrej r f => r.ok && LveOp.vrej.valid f
  | .split r f => r.ok && LveOp.split.valid f
  | .splita r f => r.ok && LveOp.splita.valid f
  | .vjoin x => x.ok
  | .joina r f => r.ok && LveOp.joina.valid f
  | .bxor r f => r.ok && LveOp.bxor.valid f
  | .band r f => r.ok && LveOp.band.valid f
  | .bnot r f => r.ok && LveOp.bnot.valid f
  | .aadd r f => r.ok && LveOp.aadd.valid f
  | .asub r f => r.ok && LveOp.asub.valid f
  | .amont r f => r.ok && LveOp.amont.valid f
  | .a2b r f => r.ok && LveOp.a2b.valid f
  | .b2a r f => r.ok && LveOp.b2a.valid f
  | .refresh r f => r.ok && LveOp.refresh.valid f
  | .kinit r f => r.ok && LveOp.kinit.valid f
  | .kabs r f => r.ok && LveOp.kabs.valid f
  | .kabsm r f => r.ok && LveOp.kabsm.valid f
  | .kfin r f => r.ok && LveOp.kfin.valid f
  | .vxof r f => r.ok && LveOp.vxof.valid f
  | .ksave r f => r.ok && LveOp.ksave.valid f
  | .kload r f => r.ok && LveOp.kload.valid f
  | .hinit r f => r.ok && LveOp.hinit.valid f
  | .hblk r f => r.ok && LveOp.hblk.valid f
  | .hblkm r f => r.ok && LveOp.hblkm.valid f
  | .hout r f => r.ok && LveOp.hout.valid f
  | .hload r f => r.ok && LveOp.hload.valid f
  | .ckptGap die engine => decide (die < maxDies) && decide (engine < 16)
  | .lveAbort die engine => decide (die < maxDies) && decide (engine < 16)
  | .patchRefresh die _ => decide (die < maxDies)
  | .lveOffline die engine _ => decide (die < maxDies) && decide (engine < 16)
  | .lveUnfence die engine _ => decide (die < maxDies) && decide (engine < 16)
  | .bneOffline die engine _ => decide (die < maxDies) && decide (engine < 4)
  | .bneUnfence die engine _ => decide (die < maxDies) && decide (engine < 4)
  | .syeOffline die engine _ => decide (die < maxDies) && decide (engine < 2)
  | .syeUnfence die engine _ => decide (die < maxDies) && decide (engine < 2)
  | .selftestDone die e _ => decide (die < maxDies) && e.ok
  | .bneLegEnd die engine _ => decide (die < maxDies) && decide (engine < 4)
  | .keygenLimit j => decide (j.die < maxDies)
  | .laneWipeDone die engine _ => decide (die < maxDies) && decide (engine < 4)
  | .syeSegmentEnd die engine => decide (die < maxDies) && decide (engine < 2)
  | .mhaOpen die => decide (die < maxDies)
  | .mhaRange die base len _ => decide (die < maxDies) && decide (base < 2 ^ 32) && decide (len < 2 ^ 32)
  | .mhaClose die => decide (die < maxDies)
  | .mhaAbort die => decide (die < maxDies)
  | .heartbeatPeriod => true
  | .heartbeat die b => decide (die < maxDies) && b.ok
  | .heartbeatSilence x => x.ok
  | .vote die src _ code share => decide (die < maxDies) && decide (src < maxDies) && decide (code < 32) && decide (share.length = 16)
  | .voteTimeout die => decide (die < maxDies)
  | .accept die src m => decide (die < maxDies) && decide (src < maxDies) && m.ok
  | .commit die src => decide (die < maxDies) && decide (src < maxDies)
  | .splitFrame die => decide (die < maxDies)
  | .tamperOrder die src resp cls => decide (die < maxDies) && decide (src < maxDies) && decide (resp < 4) && decide (1 ≤ cls ∧ cls ≤ 24)
  | .joinAck die src share => decide (die < maxDies) && decide (src < maxDies) && decide (share.length = 16)
  | .statePush die src _ => decide (die < maxDies) && decide (src < maxDies)
  | .logFrame die => decide (die < maxDies)
  | .eventFrame p => p.ok
  | .replayExhausted die port => decide (die < maxDies) && decide (port < 2)
  | .linkTrained die port => decide (die < maxDies) && decide (port < 2)
  | .linkRetrainTimeout die port => decide (die < maxDies) && decide (port < 2)
  | .dieResetRequest _ => true
  | .dieResetEntry die => decide (die < maxDies)
  | .rejoinTimeout die => decide (die < maxDies)
  | .cardInserted port => decide (port < 4)
  | .cardRemoved port => decide (port < 4)
  | .atr port _ _ => decide (port < 4)
  | .atrTimeout port => decide (port < 4)
  | .ppsResponse port _ => decide (port < 4)
  | .sWtx port mult => decide (port < 4) && decide (1 ≤ mult ∧ mult ≤ 255)
  | .cardWaitTimeout port => decide (port < 4)
  | .clockStop port => decide (port < 4)
  | .cardSelect port _ => decide (port < 4)
  | .getInfo port _ => decide (port < 4)
  | .authenticate port _ => decide (port < 4)
  | .getShare port _ => decide (port < 4)
  | .endSession port _ => decide (port < 4)
  | .reauth _ => true
  | .dissolve _ => true
  | .quorumIdleExpiry => true
  | .backupCardInserted c => c.ok
  | .backupCardRemoved => true
  | .blockRead _ => true
  | .busyEnd _ => true
  | .sdTimeout _ => true
  | .bkClockIdle => true
  | .reinsertTimeout => true
  | .clkHigh die => decide (die < maxDies)
  | .clkLow die => decide (die < maxDies)
  | .clkShort die => decide (die < maxDies)
  | .refFreq die => decide (die < maxDies)
  | .clkSkip die => decide (die < maxDies)
  | .supplyGlitch die => decide (die < maxDies)
  | .supplyHigh die => decide (die < maxDies)
  | .tempHigh die _ => decide (die < maxDies)
  | .tempCrit die _ => decide (die < maxDies)
  | .tempLow die _ => decide (die < maxDies)
  | .shield die => decide (die < maxDies)
  | .light die => decide (die < maxDies)
  | .tmpIn input => decide (input < 4)
  | .batLow => true
  | .batCrit => true
  | .xtalStop => true
  | .tamperConditionClear die cls => decide (die < maxDies) && decide (1 ≤ cls ∧ cls ≤ 24)
  | .throttleRelease die => decide (die < maxDies)
  | .severe die src => decide (die < maxDies) && decide (src < 1152)
  | .heatSliceBoundary die _ => decide (die < maxDies)
  | .grpCtrlAck die _ => decide (die < maxDies)
  | .srcClear die _ => decide (die < maxDies)
  | .faultPin _ => true
  | .faultPulseEnd => true
  | .route _ => true
  | .mqRoute _ => true
  | .iitData word _ => decide (word < 4)
  | .auditEntryAccept => true
  | .checkpoint => true
  | .checkpointSigned => true
  | .probeInterval die => decide (die < maxDies)
  | .probeStart die => decide (die < maxDies)
  | .probeWaitTimeout die => decide (die < maxDies)
  | .avsComplete die => decide (die < maxDies)
  | .avsTimeout die => decide (die < maxDies)
  | .vstepRetry die => decide (die < maxDies)
  | .avsExhausted die => decide (die < maxDies)
  | .roMeasure die _ => decide (die < maxDies)
  | .slackWindow die _ => decide (die < maxDies)
  | .stressMinute die _ => decide (die < maxDies)
  | .skipEvaluate die _ => decide (die < maxDies)
  | .marginProject die => decide (die < maxDies)
  | .ageingRecordCommit die => decide (die < maxDies)
  | .tapBypass die => decide (die < maxDies)
  | .tapIdcode die => decide (die < maxDies)
  | .tapSamplePreload die => decide (die < maxDies)
  | .tapExtest die => decide (die < maxDies)
  | .tapClamp die => decide (die < maxDies)
  | .tapHighz die => decide (die < maxDies)
  | .tapInternal die _ burn => decide (die < maxDies) && (burn.all fun i => i.ok)
  | .testLogicReset => true
  | .flashErase _ => true
  | .flashProgram _ => true
  | .flashActivate _ => true
  | .flashOpDone _ => true
  | .smbVersion => true
  | .smbState => true
  | .smbMaxTemp => true
  | .smbDieTemps => true
  | .smbFaults => true
  | .smbDieUid => true
  | .smbBoot => true
  | .smbAlertResponse => true
  | .smbusWrite _ => true
  | .registerRead r => r.ok
  | .functionReady => true
  | .railRestored die b => decide (die < maxDies) && b.ok
  | .vbatApplied _ => true
  | .vbatLost => true
  | .probeComplete die _ => decide (die < maxDies)
  | .provisionQuorumTimeout => true
  | .vccOffHoldEnd port => decide (port < 4)
  | .smbusTimeout => true
  | .lcDecodeChange die _ => decide (die < maxDies)

end Sys2Proof
end

