-- ==== Sys2Proof/Safety.lean ====
section
/-! DEFINITION. Safety: what every state between two commands has, whatever was commanded, in the terms the statements use. -/

namespace Sys2Proof

/-- The command of an LVE instruction. -/
def LveOp.instr : LveOp → LveRef → LveFields → Instr
  | .nop => .nop
  | .lend => .lend
  | .loop => .loop
  | .loopi => .loopi
  | .setvl => .setvl
  | .vsettype => .vsettype
  | .vsetmod => .vsetmod
  | .setout => .setout
  | .vaccept => .vaccept
  | .sli => .sli
  | .salu => .salu
  | .salui => .salui
  | .sjr => .sjr
  | .vldu => .vldu
  | .vstu => .vstu
  | .vldp => .vldp
  | .vstp => .vstp
  | .vldf => .vldf
  | .vstf => .vstf
  | .vgather => .vgather
  | .vscatter => .vscatter
  | .vkld => .vkld
  | .valu => .valu
  | .vcmp => .vcmp
  | .malu => .malu
  | .vmerge => .vmerge
  | .madd => .madd
  | .msub => .msub
  | .mneg => .mneg
  | .mred => .mred
  | .mmont => .mmont
  | .mbar => .mbar
  | .tomont => .tomont
  | .cmpr => .cmpr
  | .dcmpr => .dcmpr
  | .p2r => .p2r
  | .decomp => .decomp
  | .vbfly => .vbfly
  | .vbmul => .vbmul
  | .zip => .zip
  | .unzip => .unzip
  | .brev => .brev
  | .slideup => .slideup
  | .slidedn => .slidedn
  | .bmt => .bmt
  | .vcompress => .vcompress
  | .vpack => .vpack
  | .vunpack => .vunpack
  | .vcbd => .vcbd
  | .vrej => .vrej
  | .split => .split
  | .splita => .splita
  | .vjoin => fun r f => .vjoin (.vmsk r f)
  | .joina => .joina
  | .bxor => .bxor
  | .band => .band
  | .bnot => .bnot
  | .aadd => .aadd
  | .asub => .asub
  | .amont => .amont
  | .a2b => .a2b
  | .b2a => .b2a
  | .refresh => .refresh
  | .kinit => .kinit
  | .kabs => .kabs
  | .kabsm => .kabsm
  | .kfin => .kfin
  | .vxof => .vxof
  | .ksave => .ksave
  | .kload => .kload
  | .hinit => .hinit
  | .hblk => .hblk
  | .hblkm => .hblkm
  | .hout => .hout
  | .hload => .hload

end Sys2Proof

namespace Sys2Proof.Machine

/-- In LOCK the key bus of every die is gated (R422). -/
def State.LockGates (s : State) : Prop := s.pkg.lock = true → ∀ d ∈ s.dies, d.tmn.gated = true

/-- ALIVE carries its wave exactly while the conditions of R505 hold. -/
def State.AliveExact (s : State) : Prop := s.pkg.alive = s.aliveOk

/-- An MSI-X message is held in the PBA only while a condition of R70 holds its vector. -/
def State.PbaExact (s : State) : Prop := ∀ p ∈ s.msix.pba, s.vectorOpen p.1 = false

/-- An instance interrupt entry is pending only while a condition of R70 holds it. -/
def State.IitExact (s : State) : Prop := ∀ p ∈ s.evr.iit, p.2.pending = true → s.iitHeld p.2 = true

/-- The link is in L1 only while the device has no work: no die has any, and no memory request of a mailbox buffer is outstanding (R38). -/
def State.LinkExact (s : State) : Prop := s.hif.link = .l1 → (∀ d ∈ s.dies, d.busy = false) ∧ ∀ p ∈ s.insts, p.2.portal.mb.bufBusy = false

/-- What holds between any two commands. -/
structure State.Sound (s : State) : Prop where
  lockGates : s.LockGates
  aliveExact : s.AliveExact
  pbaExact : s.PbaExact
  iitExact : s.IitExact
  linkExact : s.LinkExact

/-- The command ends in a next state. -/
def Completes (c : Instr) (s : State) : Prop := ∃ t, exec c s = .next t

/-- The command completes, and its effect, before what follows at once (`settle`), is as `p` says. -/
def Effect (c : Instr) (s : State) (p : State → Prop) : Prop := ∃ t, exec c s = .next (settle t) ∧ p t

/-! ### What an LVE instruction does, in the terms of its registers -/

/-- The LVE `u` runs instruction `o` with these fields now (R197, R212): it exists, a pass runs on it, its program has that word next, the word is valid,
no upset strikes, no abort is requested (R236), and no patch has redirected its expansion (R225). -/
structure LveRuns (s : State) (o : LveOp) (r : LveRef) (f : LveFields) (u : LveUnit) : Prop where
  unit : s.lve? r = some u
  valid : o.valid f = true
  next : u.executes o f = true
  calm : r.upset = .none
  kept : u.eng.abortReq = false
  plain : (s.die r.die).patch.expansion o f u.eng = none

/-- Whenever the engine runs the instruction and `pre` holds, the command answers the next state in which that engine, and nothing else, has taken an effect
that `eff` describes and passed on to its next instruction. -/
def LveDoes (o : LveOp) (c : LveRef → LveFields → Instr) (pre : LveFields → Lve → Prop) (eff : LveFields → Lve → Lve → Prop) : Prop :=
  ∀ (s : State) (r : LveRef) (f : LveFields) (u : LveUnit), LveRuns s o r f u → pre f u.eng →
    ∃ l, eff f u.eng l ∧ exec (c r f) s = .next (s.setEng r (l.advance (u.eng.classesOf o f)))

/-- No condition. -/
def Lve.always (_ : LveFields) (_ : Lve) : Prop := True

/-- The modulus in force is one that the manual gives (R189, R199): 3,329, 8,380,417, or the odd value that VSETMOD has loaded. Before that, MODSEL 3 has a free
modulus (log 140). -/
def Lve.modKnown (l : Lve) : Prop := l.modOk = true ∧ (l.core.vtype.toNat / 4 = 3 → l.core.lmod.toNat % 2 = 1 ∧ 3 ≤ l.core.lmod.toNat)

/-- The same of the modulus of arithmetic shares (R207). -/
def Lve.shareKnown (l : Lve) : Prop := vtypeOk l.core.vtype l.core.lmod = true ∧ (l.core.vtype.toNat / 4 = 3 → l.core.lmod.toNat % 2 = 1 ∧ 3 ≤ l.core.lmod.toNat)

/-- LMOD as VSETMOD leaves it: not loaded yet, or odd, from 3 to below 2^30 (R199). -/
def Lve.lmodLegal (l : Lve) : Prop := l.core.lmod = 0 ∨ (l.core.lmod.toNat % 2 = 1 ∧ 3 ≤ l.core.lmod.toNat ∧ l.core.lmod.toNat < 2 ^ 30)

/-- Register `x` holds in each active element a value that `p` allows, and in each other element what register `d` held (R191). -/
def Lve.Holds (l : Lve) (f : LveFields) (d : Nat) (x : VReg) (p : Nat → Nat → Prop) : Prop :=
  ∀ i, i < l.vlmax → if l.active f i then p i (elemN l.sew x i) else elemN l.sew x i = elemN l.sew (l.vr d) i

/-- The one effect: register D takes such a value. -/
def Lve.SetsD (l : Lve) (f : LveFields) (l' : Lve) (p : Nat → Nat → Prop) : Prop :=
  ∃ x, l.Holds f f.d.toNat x p ∧ l' = l.setV f.d.toNat x

/-- The one effect: registers D and D + 1 take such values. -/
def Lve.SetsPair (l : Lve) (f : LveFields) (l' : Lve) (p q : Nat → Nat → Prop) : Prop :=
  ∃ x y, l.Holds f f.d.toNat x p ∧ l.Holds f (f.d.toNat + 1) y q ∧ l' = (l.setV f.d.toNat x).setV (f.d.toNat + 1) y

/-- The one effect: register D takes these elements in full width. -/
def Lve.FillsD (l : Lve) (f : LveFields) (l' : Lve) (g : Nat → Nat) : Prop :=
  ∃ x, (∀ i, i < l.vlmax → elemN l.sew x i = g i) ∧ l' = l.setV f.d.toNat x

/-- The one effect: registers D and D + 1 take these elements in full width. -/
def Lve.FillsPair (l : Lve) (f : LveFields) (l' : Lve) (g h : Nat → Nat) : Prop :=
  ∃ x y, (∀ i, i < l.vlmax → elemN l.sew x i = g i) ∧ (∀ i, i < l.vlmax → elemN l.sew y i = h i) ∧
    l' = (l.setV f.d.toNat x).setV (f.d.toNat + 1) y

/-- A result of the VALU operation with this code, on elements of `w` bits (R201). -/
def ValuResult (w op a b y : Nat) : Prop :=
  match op with
  | 0x00 => y = (a + b) % 2 ^ w
  | 0x01 => (y + b) % 2 ^ w = a
  | 0x02 => ∀ k, y.testBit k = (a.testBit k && b.testBit k)
  | 0x03 => ∀ k, y.testBit k = (a.testBit k || b.testBit k)
  | 0x04 => ∀ k, y.testBit k = (a.testBit k != b.testBit k)
  | 0x05 => ∀ k, y.testBit k = (a.testBit k && !b.testBit k)
  | 0x06 => y = a * 2 ^ (b % w) % 2 ^ w
  | 0x07 => y = a / 2 ^ (b % w)
  | 0x08 => toSigned w y = toSigned w a / 2 ^ (b % w)
  | 0x09 => y = a * b % 2 ^ w
  | 0x0A => y = a * b / 2 ^ w
  | 0x0B => y = min a b
  | 0x0C => y = max a b
  | 0x0D => toSigned w y = min (toSigned w a) (toSigned w b)
  | 0x0E => toSigned w y = max (toSigned w a) (toSigned w b)
  | _ => True

/-- The VCMP condition with this code holds (R201). -/
def VcmpHolds (w c a b : Nat) : Prop :=
  match c with
  | 0x0 => a = b
  | 0x1 => a ≠ b
  | 0x2 => a < b
  | 0x3 => toSigned w a < toSigned w b
  | 0x4 => a ≤ b
  | 0x5 => toSigned w a ≤ toSigned w b
  | 0x6 => b ≤ a
  | 0x7 => toSigned w b ≤ toSigned w a
  | _ => True

/-- The value that the o + 1 Boolean shares in registers `base` … recombine to, element `i` (R207). -/
def Lve.xorOf (l : Lve) (base o i : Nat) : Nat := if o = 1 then l.share base 0 i ^^^ l.share base 1 i else l.share base 0 i ^^^ l.share base 1 i ^^^ l.share base 2 i

/-- The value that the o + 1 arithmetic shares recombine to (R207). -/
def Lve.sumOf (l : Lve) (base o i : Nat) : Nat :=
  (l.share base 0 i + l.share base 1 i + (if o = 1 then 0 else l.share base 2 i)) % l.shareMod

/-- The one effect of a masking instruction that draws `n` bytes: registers D to D + o take values in their active elements; inactive elements, the other
registers and everything else stay, but for the bytes counted and the number of draws made. -/
def Lve.SetsGroup (l : Lve) (f : LveFields) (o n : Nat) (l' : Lve) : Prop :=
  l' = { l with core := { l.core with v := l'.core.v }, seq := { l.seq with maskUsed := l.seq.maskUsed + n, draws := l'.seq.draws } } ∧
  (∀ k, k < f.d.toNat ∨ f.d.toNat + o < k → l'.vr k = l.vr k) ∧
  ∀ k i, k ≤ o → i < l.vlmax → l.active f i = false → l'.share f.d.toNat k i = l.share f.d.toNat k i

/-! ### What an operation of a job does -/

/-- The program of operation `op` runs for job `x` and has not come to its result. -/
structure OpRuns (s : State) (j : JobRef) (op : Nat) (x : Job) : Prop where
  here : s.job? j.die j.job = some x
  running : x.stage = .running
  same : x.sqe.op = op
  unended : x.result = none

/-- From `u`, the state with the steps of the program reported, the command gives the job this result, with some engine time and some draws; nothing else
changes. -/
def Answers (c : Instr) (s u : State) (j : JobRef) (status : W16) (detail : W32) (out : List Byte) : Prop :=
  ∃ etime n, exec c s = .next (settle (({ u with freeCtr := u.freeCtr + n } : State).result j.die j.job status detail etime out))

/-- The same of an operation that creates a key with this payload: its output is the new blob, 76 bytes longer than the payload, and the public key; DETAIL gives the
blob's length and the repeat count; the KPC entry that the job holds takes its contents under the blob's tag (R77, R173, R251). -/
def Creates (c : Instr) (s u : State) (j : JobRef) (x : Job) (payload pub entry : List Byte) : Prop :=
  ∃ blob reps, blob.length = 76 + payload.length ∧
    Answers c s (match x.data.kpcEntry with
      | some i => u.modKpc j.die i (fun e => { e with key := .tag (blobTag blob), bytes := entry })
      | none => u) j stOk (BitVec.ofNat 32 (blob.length % 65536 + 65536 * min reps 0xFFFF)) (blob ++ pub)

/-- The operation comes to its result and its job ends at once, with some draws: the completion goes out as `State.jobDone` says, and the queues of the die go on. -/
def Ends (c : Instr) (s u : State) (j : JobRef) (status : W16) (detail : W32) (etime : Nat) (out : List Byte) : Prop :=
  ∃ n, exec c s = .next (settle (((({ u with freeCtr := u.freeCtr + n } : State).result j.die j.job status detail etime out).jobDone j.die j.job).pumpDie j.die))

/-- What a key-management job must still have when it commits (R171, R424). -/
structure CommitOpen (s : State) (x : Job) : Prop where
  unlocked : s.pkg.lock = false
  quorum : custodialClass x.sqe.op = true → s.cards.quorum.present = true
  ticket : ownerClass x.sqe.op = true → s.ticketOk x x.data.ticket = true

/-- From `u`, the operation commits (R171, R449, R456): its conditions are checked again; then the offers made before it are accepted, its own entry is recorded, and
with the acceptance its change is made and the job ends with its output, in a time up to a limit. A stopped or full log ends it without the change. -/
def Commits (c : Instr) (s u : State) (j : JobRef) (x : Job) (limit : Nat) (header : List Byte) (detail : W32) (out : List Byte) (change : State → State) : Prop :=
  ∃ n ps, ps ≤ limit ∧
    let t : State := { u with freeCtr := u.freeCtr + n }
    let refused := fun (st : W16) => exec c s = .next (settle (t.opFail j.die j.job st 0 ps))
    let recorded := t.drain.arbitrate (x.offer j.die stOk header (t.drain.jobPasid x) x.sqe.isChange)
    (u.pkg.lock = true → refused stLocked) ∧
    (u.pkg.lock = false → custodialClass x.sqe.op = true → u.cards.quorum.present = false → refused stQuorumAbsent) ∧
    (u.pkg.lock = false → (custodialClass x.sqe.op = true → u.cards.quorum.present = true) → ownerClass x.sqe.op = true → u.ticketOk x x.data.ticket = false →
      refused stOwnerAuth) ∧
    (CommitOpen u x →
      (u.alg.stopped = true → exec c s = .next (settle (t.miss.endOp j.die j.job stLocked 0 0 []))) ∧
      (u.alg.stopped = false → x.sqe.isChange = true → t.drain.alg.free ≤ 330 →
        exec c s = .next (settle (recorded.endOp j.die j.job stLogFull 0 0 []))) ∧
      (u.alg.stopped = false → x.sqe.isChange = false ∨ 330 < t.drain.alg.free → exec c s = .next (settle ((change recorded).endOp j.die j.job stOk detail ps out))))

/-! ### When a command executes normally -/

/-- The window of a die can be accessed (R44, R51, R52, R449): the function answers, the die exists and is reachable, and no recorded write of it waits. -/
structure WindowOpen (s : State) (d : Nat) : Prop where
  host : s.fnOpen = true
  die : d < s.dies.length ∧ d < 8
  reachable : (s.die d).reachable = true
  settled : s.writesWait d = false

/-- A register of a block of a die takes a write (R14, R51, R56): its window is open, the page is there, not locked, and the log is not stopped. -/
structure RegOpen (s : State) (d blk inst o : Nat) : Prop where
  window : WindowOpen s d
  heard : s.deaf d blk inst o = false
  logging : s.alg.stopped = false

/-- A queue can be commanded (R61, R62, R147): a manager's through the window of its die, a tenant's through the open portal of its instance. -/
def QueueOpen (s : State) (x : QueueRef) (d q : Nat) : Prop :=
  WindowOpen s d ∧ (x = .manager d q ∧ (s.queue d q).ctx.rings.mgr = true ∨ ∃ n k, x = .tenant n k ∧ portalOpen n s = true ∧ (s.inst n).home k = some (d, q))

/-- A portal of an instance takes writes (R62, R357). -/
def PortalOpen (s : State) (n : Nat) : Prop := s.fnOpen = true ∧ portalOpen n s = true

/-- An instruction of the LVE executes (R198, R212): its program has it next, and the engine's public state admits it. -/
def LveNormal (s : State) (o : LveOp) (r : LveRef) (f : LveFields) : Prop := ∃ u, LveRuns s o r f u ∧ u.eng.ready o f = true

/-- The program of an operation runs for its job (R112). -/
def OpNormal (s : State) (j : JobRef) (op : Nat) : Prop := ∃ x, OpRuns s j op x

/-- The same of an operation of the SYE, whose whole input is staged (R308). -/
def SymNormal (s : State) (j : JobRef) (op : Nat) : Prop := ∃ x, OpRuns s j op x ∧ x.data.inData.length = x.sqe.inLen.toNat

/-- The conditions under which the spec gives a command its own effect, on the state and the operands alone. Pins and supply: R421, R428, R502, R510. Host link: R34, R38, R43, R44,
R46 to R48, R59. Registers of windows: R14, R51, R56. Queues: R119, R120, R131 to R147. Portals: R61, R62, R162, R177, R355 to R359. Operations: R72, R112. Engines: R212 to R216,
R235, R236, R246, R247, R289, R299, R300, R309. RNG: R317 to R322. Measurement: R315, R316. Relay: R376 to R391. Cards and backup: R393 to R417. Tamper and faults: R418 to R445.
Event tables: R69, R459. Log: R448 to R455. Pacer: R461 to R473. Instances: R346 to R367. Life cycle: R479 to R490. Test access: R496, R497. Flash: R495, R500. Management port: R509. -/
def RunsNormally (s : State) : Instr → Prop
  -- pins, supply, the host link
  | .pwrgoodRise _ => s.pkg.pwrgood = false
  | .pwrgoodFall => s.pkg.pwrgood = true
  | .perstNAssert => s.pkg.pwrgood = true ∧ s.pkg.perstN = true ∧ s.pkg.railsLow.contains 0 = false
  | .perstNRelease _ => s.pkg.perstN = false
  | .railReset d => d < s.dies.length
  | .railRestored d _ => s.pkg.railsLow.contains d = true
  | .supplyDip d => (s.die d).watching = true
  | .dipRecovered d => (s.die d).tmn.dip = true
  | .pcieLinkUp _ _ _ => s.hif.link = .training
  | .functionLevelReset | .d3hotEntry | .busMasterEnable _ | .msixControl _ _ => s.fnOpen = true
  | .d3hotToD0 => s.fnOpen = true ∧ s.hif.d3hot = true
  | .hotReset | .dlDown | .configRequest _ | .ioRequest => s.linkUp = true
  | .functionReady => s.hif.flrActive = true ∧ (∀ d ∈ s.dies, d.jobs = []) ∧ ∀ p ∈ s.insts, p.2.code ≠ .resetting
  | .msixTableWrite off _ => s.fnOpen = true ∧ off < 0x8000 ∧ off % 4 = 0
  | .l1Entry => s.hif.link = .l0 ∧ s.hasWork = false
  | .l0pRequest w => s.hif.link = .l0 ∧ w ∈ [1, 2, 4, 8, 16] ∧ w ≤ s.hif.trained.toNat
  | .ideKm session k m => s.fnOpen = true ∧ session = true ∧ k ≤ 64 ∧ (m = .setGo → (s.hif.stream k).state = 1)
  | .registerWrite r _ | .registerRead r =>
    s.fnOpen = true ∧ r.off < barSize r.bar ∧ r.ide = none ∧ r.digest = .good ∧ r.size = .dword ∧ r.off % 4 = 0
  -- registers with a row of their own
  | .lock p _ => RegOpen s p.die p.blk p.inst 0x00C
  | .evtForce p _ => WindowOpen s p.die ∧ s.lc = 1 ∧ s.deaf p.die p.blk p.inst 0x020 = false
  | .devReset w => RegOpen s 0 HIF 0 0x108 ∧ w.value = 0xA55A
  | .rtcLoRead | .monoLoRead | .route _ | .mqRoute _ | .mgrMbAck => WindowOpen s 0
  | .iitData k _ => WindowOpen s 0 ∧ k < 4
  | .recClear v => WindowOpen s 0 ∧ v = 0x0000C1EA
  | .aliveCtrl _ => WindowOpen s 0
  | .aliveTimeout => s.pkg.aliveFresh = true
  | .chOffline d _ => RegOpen s d DMX 0 0x104
  | .lveOffline d e _ => RegOpen s d LVE e 0x010
  | .lveUnfence d e _ => RegOpen s d MCS e 0x010
  | .bneOffline d e _ | .bneUnfence d e _ => RegOpen s d BNE e 0x010
  | .syeOffline d e _ | .syeUnfence d e _ => RegOpen s d SYE e 0x010
  | .srcClear d _ => RegOpen s d FCL 0 0x10C
  | .faultPin _ => RegOpen s 0 FCL 0 0x130
  | .grpCtrlAck d w => WindowOpen s d ∧ bit w.value 0 = true
  | .dieResetRequest _ => RegOpen s 0 RLK 0 0x20C
  | .instCmdReset _ => RegOpen s 0 VIM 0 0x110
  | .reauth _ | .dissolve _ => RegOpen s 0 CIU 0 0x204
  | .mgrMbSend => WindowOpen s 0 ∧ (s.inst s.instSel).code.live = true ∧ (s.inst s.instSel).portal.mb.fromFull = false
  | .flashErase w => flashTaken 1 w s = true ∧ s.lc ≠ 6 ∧ s.bfi.inCandidate (s.progAddr / 65536 * 65536) 65536 = true
  | .flashProgram w => flashTaken 2 w s = true ∧ s.lc ≠ 6 ∧ s.bfi.inCandidate s.progAddr s.progLen = true ∧ s.progAddr % 256 + s.progLen ≤ 256
  | .flashActivate w => flashTaken 3 w s = true ∧ s.lc ≠ 6 ∧ (s.bfi.entries.getD (bits w.value 4 4) ⟨0, 0, 0, 0⟩).type = 6
  | .flashOpDone _ => s.bfi.running.isSome = true
  -- queues
  | .sqTailDoorbell x i _ => ∃ d q, QueueOpen s x d q ∧ (s.queue d q).ctx.state ≠ .disabled ∧ (s.queue d q).ctx.tailOk (i % 2 ^ ((s.queue d q).ctx.rings.ks + 1)) = true
  | .cqHeadDoorbell x i => ∃ d q, QueueOpen s x d q ∧ (s.queue d q).ctx.state ≠ .disabled ∧ (s.queue d q).ctx.headOk (i % 2 ^ ((s.queue d q).ctx.rings.kc + 1)) = true
  | .sqInval x v => ∃ d q, QueueOpen s x d q ∧ (s.queue d q).ctx.invWait = [] ∧ bits v 30 2 = 0
  | .resume x | .skip x => ∃ d q, QueueOpen s x d q ∧ (s.queue d q).ctx.invWait = [] ∧ (s.queue d q).ctx.state = .error
  | .enable d q => WindowOpen s d ∧ q < 4096 ∧ s.enableOk d q = true
  | .disable d q => WindowOpen s d ∧ (s.queue d q).ctx.rings.mgr = true ∧ (s.queue d q).ctx.state ≠ .disabled
  | .disableEffective d q => disableReady d q s = true
  | .entryFetched d q i _ => ∃ stale, Assoc.get? (s.queue d q).ctx.win i = some (.reading stale)
  | .irqDelayExpiry d q => (s.queue d q).aux.irqTimer = true
  | .irqCountReached d q => (s.queue d q).aux.irqCount ≠ 0 ∧ (s.queue d q).aux.irqN ≤ (s.queue d q).aux.irqCount
  | .hostReadCompletion d what _ | .completionTimeout d what =>
    (∃ q i stale, what = .entry q i ∧ Assoc.get? (s.queue d q).ctx.win i = some (.reading stale)) ∨ (∃ j part, what = .job j part ∧ s.awaits d j part = true) ∨
      ∃ n, what = .mailbox n ∧ s.kvdSent 0 (.mailbox n) = true
  | .blobTableEntryFetched j _ => s.awaits j.die j.job 0 = true
  | .blobFetched j _ => s.awaits j.die j.job 1 = true
  | .kpcFillComplete j _ => ∃ x, s.job? j.die j.job = some x ∧ x.stage = .fill ∧ x.data.kpcEntry.isSome = true ∧ x.failed = none
  | .descriptorComplete d ch _ => (∃ j, ((s.die d).chan ch).job = some j ∧ ch < 14) ∨ 13 ≤ ch ∧ ch < 16 ∧ d < s.dies.length
  | .paceResume d ch => ((s.die d).chan ch).job.isSome = true ∧ ((s.die d).chan ch).state = .pacing
  -- portals and instances
  | .pReset n v => s.fnOpen = true ∧ (s.inst n).code = .active ∧ v = 1
  | .mbSend n v => PortalOpen s n ∧ bit v 0 = true ∧ (s.inst n).portal.mb.toFull = false ∧ (s.inst n).portal.mb.bufBusy = false
  | .mbAck n => PortalOpen s n
  | .mbBufferCopied n _ => s.kvdSent 0 (.mailbox n) = true
  | .kstageLoad n _ | .kstageClear n _ | .kstageClearAll n _ | .kstageOpRefused n _ => PortalOpen s n ∧ (s.inst n).code = .active ∧ (s.inst n).portal.keys.ksState ≠ 1
  | .kstageDone n => (s.inst n).portal.keys.ksState = 1
  | .attCmd n v => PortalOpen s n ∧ (s.inst n).portal.keys.attState ≠ 1 ∧ bit v 31 = true
  | .attDone n => (s.inst n).portal.keys.attState = 1
  | .instResetAccept n => resetAcceptable n s = true
  | .instResetComplete n => resetDone n s = true
  | .freezeDrained n => (s.inst n).code = .freezing ∧ s.drained n = true
  | .rehomeDrainComplete d q => (s.queue d q).ctx.state = .rehoming ∧ (s.queue d q).ctx.inflight = 0 ∧ (s.queue d q).ctx.held = []
  | .balanceInterval => bit (s.reg 0 VIM 0 0x210) 0 = true
  -- operations
  | .kemKeygen j => OpNormal s j 0x1001 | .kemEncaps j => OpNormal s j 0x1002 | .kemEncapsExt j => OpNormal s j 0x1802 | .kemDecaps j => OpNormal s j 0x1003
  | .sigKeygen j => OpNormal s j 0x2001 | .sigSign j => OpNormal s j 0x2002 | .sigVerify j => OpNormal s j 0x2003 | .sigVerifyExt j => OpNormal s j 0x2803
  | .statefulKeygen j => OpNormal s j 0x3001 | .statefulSign j => OpNormal s j 0x3002 | .statefulVerify j => OpNormal s j 0x3003
  | .statefulVerifyExt j => OpNormal s j 0x3803 | .remaining j => OpNormal s j 0x3004
  | .ecKeygen j => OpNormal s j 0x4001 | .ecdsaSign j => OpNormal s j 0x4002 | .ecdsaVerify j => OpNormal s j 0x4003 | .ecdsaVerifyExt j => OpNormal s j 0x4803
  | .keyAgree j => OpNormal s j 0x4004 | .eddsaSign j => OpNormal s j 0x4005 | .eddsaVerify j => OpNormal s j 0x4006 | .eddsaVerifyExt j => OpNormal s j 0x4806
  | .curveLoad j => OpNormal s j 0x4007 | .curveUnload j => OpNormal s j 0x4008
  | .rsaKeygen j => OpNormal s j 0x4010 | .rsaSign j => OpNormal s j 0x4011 | .rsaVerify j => OpNormal s j 0x4012 | .rsaVerifyExt j => OpNormal s j 0x4812
  | .rsaEncrypt j => OpNormal s j 0x4013 | .rsaEncryptExt j => OpNormal s j 0x4813 | .rsaDecrypt j => OpNormal s j 0x4014
  | .encrypt j => SymNormal s j 0x5001 | .decrypt j => SymNormal s j 0x5002 | .macGenerate j => SymNormal s j 0x5003 | .macVerify j => SymNormal s j 0x5004
  | .hash j => SymNormal s j 0x5005
  | .generate j => OpNormal s j 0x6001 | .import j => OpNormal s j 0x6002 | .exportPublic j => OpNormal s j 0x6003 | .exportWrapped j => OpNormal s j 0x6004
  | .derive j => OpNormal s j 0x6005 | .invalidate j => OpNormal s j 0x6006 | .evict j => OpNormal s j 0x6007 | .rewrap j => OpNormal s j 0x6008
  | .statefulSplit j => OpNormal s j 0x6009 | .backupExport j => OpNormal s j 0x600A | .backupImport j => OpNormal s j 0x600B
  | .programActivate j => OpNormal s j 0x600C | .attestProvision j => OpNormal s j 0x600D | .stageCommit j => OpNormal s j 0x600E
  | .random j => OpNormal s j 0x7001 | .reseed j => OpNormal s j 0x7002 | .runProgram j => OpNormal s j 0x8001
  | .hybridKeygen j => OpNormal s j 0x9001 | .hybridEncaps j => OpNormal s j 0x9002 | .hybridEncapsExt j => OpNormal s j 0x9802 | .hybridDecaps j => OpNormal s j 0x9003
  | .hybridSign j => OpNormal s j 0x9004 | .hybridVerify j => OpNormal s j 0x9005 | .hybridVerifyExt j => OpNormal s j 0x9805
  | .attestShared j => OpNormal s j 0xA001 | .attestSigned j => OpNormal s j 0xA002 | .getIdentity j => OpNormal s j 0xA003
  | .instCreate j => OpNormal s j 0xF001 | .instDestroy j => OpNormal s j 0xF002 | .instSave j => OpNormal s j 0xF004
  | .instFreeze j => ∃ x, OpRuns s j 0xF003 x ∧ bit x.sqe.param 16 = false | .instThaw j => ∃ x, OpRuns s j 0xF003 x ∧ bit x.sqe.param 16 = true
  | .instRestorePrepare j => ∃ x, OpRuns s j 0xF005 x ∧ bit x.sqe.param 16 = true | .instRestore j => ∃ x, OpRuns s j 0xF005 x ∧ bit x.sqe.param 16 = false
  | .queueRehome j => OpNormal s j 0xF006 | .setShare j => OpNormal s j 0xF007 | .sealCandidate j _ => OpNormal s j 0xF010
  | .lcTransition j => OpNormal s j 0xF020 | .completeTransition j => OpNormal s j 0xF021 | .zeroise j => OpNormal s j 0xF030
  | .unlock j => OpNormal s j 0xF031 | .logDrain j => OpNormal s j 0xF040
  | .lcBitBurned _ | .burnFail _ => ∃ t, s.lcc.xfer = some t ∧ t.phase = 2 ∧ t.left ≠ []
  | .lcResetTimer => lcResetDue s = true
  | .lcDecodeChange d w => d < s.dies.length ∧ lcCode w ≠ lcCode (s.die d).fuses.lc
  -- engines
  | .jobDispatch d _ => d < s.dies.length ∧ (s.die d).state = .running
  | .dwrrRoundStart _ c => c ≤ 2
  | .passDispatch d e => ∃ u j x, (s.die d).lves[e]? = some u ∧ u.eng.job = some j ∧ s.job? d j = some x ∧ u.eng.phase = .passWait ∧ u.svc.frozen = false ∧
      u.eng.abortReq = false ∧ s.passNeed d u x ≤ u.svc.maskBuf
  | .repeatLimit d e => ∃ u j x, (s.die d).lves[e]? = some u ∧ u.eng.job = some j ∧ s.job? d j = some x ∧ u.endNext = true ∧ u.eng.abortReq = false ∧ u.atLimit = true
  | .ckptGap d e => ∃ u, (s.die d).lves[e]? = some u ∧ u.eng.phase = .running ∧ u.eng.job.isSome = true ∧ u.svc.frozen = false
  | .lveAbort d e => ∃ u, (s.die d).lves[e]? = some u ∧ u.eng.abortReq = true ∧ u.eng.job.isSome = true ∧ u.svc.frozen = false
  | .patchRefresh d _ => refreshReady d s = true ∧ (s.die d).mha.state ≠ .open_
  | .selftestDone d e _ => match e with
      | .lve i => ∃ u, (s.die d).lves[i]? = some u ∧ u.svc.selfTest = true
      | .bne i => ∃ u, (s.die d).bnes[i]? = some u ∧ u.svc.selfTest = true
      | .sye i => ∃ u, (s.die d).syes[i]? = some u ∧ u.svc.selfTest = true
      | _ => False
  | .bneLegEnd d e _ => ∃ u one j x, (s.die d).bnes[e]? = some u ∧ u.svc.frozen = false ∧ u.running = some one ∧ (u.lane one).job = some j ∧ s.job? d j = some x ∧
      (x.result.isSome = true ∨ x.sqe.multiLeg = true)
  | .keygenLimit j => (∃ x e, s.job? j.die j.job = some x ∧ x.stage = .running ∧ x.engine = .bne e ∧ x.sqe.op = 0x4010 ∧ x.result = none) ∨
      ∃ x e u, s.job? j.die j.job = some x ∧ x.stage = .running ∧ x.engine = .lve e ∧ (s.die j.die).lves[e]? = some u ∧ x.sqe.op = 0x1001 ∧ isMceliece x.sqe.ps = true ∧
        u.eng.phase = .running ∧ u.eng.core.accept = false ∧ 1024 ≤ u.eng.core.pass.toNat
  | .laneWipeDone d e one => ∃ u, (s.die d).bnes[e]? = some u ∧ (u.lane one).wiping = true ∧ (u.lane one).job = none
  | .syeSegmentEnd d e => ∃ u k c x, (s.die d).syes[e]? = some u ∧ u.running = some k ∧ Assoc.get? u.ctxs k = some c ∧ s.job? d c.job = some x ∧ u.svc.frozen = false ∧
      (c.done + 1 < c.total ∨ x.result.isSome = true)
  | .feedGrant d => d < s.dies.length ∧ (s.die d).rng.feedRun = true ∧ (s.die d).rng.feedBytes < feedLimit
  | .feedReseed d => d < s.dies.length ∧ feedLimit ≤ (s.die d).rng.feedBytes ∧ (s.die d).rng.drbgReady = true ∧ (s.die d).rng.disabled = false
  | .drbgRequest d n => d < s.dies.length ∧ 1 ≤ n ∧ n ≤ 65536 ∧ (s.die d).rng.asked false = .serves
  | .drbgReseedDue d => 2 ^ 20 ≤ (s.die d).rng.reqs ∧ 1 ≤ (s.die d).rng.pool ∧ (s.die d).rng.drbgReady = true ∧ (s.die d).rng.disabled = false ∧ (s.die d).rng.recovering = false
  | .conditioningDone d => (s.die d).rng.noiseOk = true ∧ (s.die d).rng.recovering = false ∧ (s.die d).rng.disabled = false ∧ (s.die d).rng.pool < 4
  | .healthTestFail d n _ => n < 8 ∧ d < s.dies.length ∧ (s.die d).rng.disabled = false ∧ (s.die d).rng.noiseOk = true
  | .startupTestsPass d => (s.die d).rng.recovering = true ∧ (s.die d).rng.disabled = false
  | .mhaOpen d => (s.die d).mha.state ≠ .open_
  | .mhaRange d _ _ _ => (s.die d).mha.state = .open_ ∧ (s.die d).mha.rangeDone = true
  | .mhaClose d | .mhaAbort d => (s.die d).mha.state = .open_
  -- instructions of the LVE
  | .nop r f => LveNormal s .nop r f | .lend r f => LveNormal s .lend r f | .loop r f => LveNormal s .loop r f | .loopi r f => LveNormal s .loopi r f
  | .setvl r f => LveNormal s .setvl r f | .vsettype r f => LveNormal s .vsettype r f | .vsetmod r f => LveNormal s .vsetmod r f | .setout r f => LveNormal s .setout r f
  | .vaccept r f => LveNormal s .vaccept r f | .sli r f => LveNormal s .sli r f | .salu r f => LveNormal s .salu r f | .salui r f => LveNormal s .salui r f
  | .sjr r f => LveNormal s .sjr r f | .vldu r f => LveNormal s .vldu r f | .vstu r f => LveNormal s .vstu r f | .vldp r f => LveNormal s .vldp r f
  | .vstp r f => LveNormal s .vstp r f | .vldf r f => LveNormal s .vldf r f | .vstf r f => LveNormal s .vstf r f | .vgather r f => LveNormal s .vgather r f
  | .vscatter r f => LveNormal s .vscatter r f | .vkld r f => LveNormal s .vkld r f | .valu r f => LveNormal s .valu r f | .vcmp r f => LveNormal s .vcmp r f
  | .malu r f => LveNormal s .malu r f | .vmerge r f => LveNormal s .vmerge r f | .madd r f => LveNormal s .madd r f | .msub r f => LveNormal s .msub r f
  | .mneg r f => LveNormal s .mneg r f | .mred r f => LveNormal s .mred r f | .mmont r f => LveNormal s .mmont r f | .mbar r f => LveNormal s .mbar r f
  | .tomont r f => LveNormal s .tomont r f | .cmpr r f => LveNormal s .cmpr r f | .dcmpr r f => LveNormal s .dcmpr r f | .p2r r f => LveNormal s .p2r r f
  | .decomp r f => LveNormal s .decomp r f | .vbfly r f => LveNormal s .vbfly r f | .vbmul r f => LveNormal s .vbmul r f | .zip r f => LveNormal s .zip r f
  | .unzip r f => LveNormal s .unzip r f | .brev r f => LveNormal s .brev r f | .slideup r f => LveNormal s .slideup r f | .slidedn r f => LveNormal s .slidedn r f
  | .bmt r f => LveNormal s .bmt r f | .vcompress r f => LveNormal s .vcompress r f | .vpack r f => LveNormal s .vpack r f | .vunpack r f => LveNormal s .vunpack r f
  | .vcbd r f => LveNormal s .vcbd r f | .vrej r f => LveNormal s .vrej r f | .split r f => LveNormal s .split r f | .splita r f => LveNormal s .splita r f
  | .vjoin x => match x with
      | .vmsk r f => LveNormal s .vjoin r f
      | .frame m => (s.die m.die).state = .dieReset ∧ s.baton.result = .clean ∧ s.pkg.railsLow.contains m.die = false
  | .joina r f => LveNormal s .joina r f | .bxor r f => LveNormal s .bxor r f | .band r f => LveNormal s .band r f | .bnot r f => LveNormal s .bnot r f
  | .aadd r f => LveNormal s .aadd r f | .asub r f => LveNormal s .asub r f | .amont r f => LveNormal s .amont r f | .a2b r f => LveNormal s .a2b r f
  | .b2a r f => LveNormal s .b2a r f | .refresh r f => LveNormal s .refresh r f | .kinit r f => LveNormal s .kinit r f | .kabs r f => LveNormal s .kabs r f
  | .kabsm r f => LveNormal s .kabsm r f | .kfin r f => LveNormal s .kfin r f | .vxof r f => LveNormal s .vxof r f | .ksave r f => LveNormal s .ksave r f
  | .kload r f => LveNormal s .kload r f | .hinit r f => LveNormal s .hinit r f | .hblk r f => LveNormal s .hblk r f | .hblkm r f => LveNormal s .hblkm r f
  | .hout r f => LveNormal s .hout r f | .hload r f => LveNormal s .hload r f
  -- the Relay
  | .heartbeatPeriod => 2 ≤ s.dies.length
  | .heartbeat d b => (s.die d).onRelay = true ∧ framesFrom b.src s = true
  | .heartbeatSilence x => match x with
      | .port d p => ∃ q, (s.die d).ports[p]? = some q ∧ q.state = .up ∧ (s.die d).onRelay = true
      | .die d => s.baton.result = .clean ∧ d < s.dies.length ∧ d ≠ s.baton.holder.getD 0 ∧ (s.die d).state = .running
      | .holder d => s.baton.result = .clean ∧ (s.die d).onRelay = true ∧ s.baton.holder ≠ some d
  | .vote d src _ _ _ => voting d s = true ∧ src < s.dies.length
  | .voteTimeout d => voting d s = true
  | .accept d _ _ => (s.die d).state = .booting ∧ s.baton.result = .electing
  | .commit d _ => (s.die d).onRelay = true
  | .splitFrame d => s.baton.result ≠ .split ∧ (s.die d).onRelay = true
  | .tamperOrder d _ _ _ => s.baton.result = .clean ∧ (s.die d).onRelay = true
  | .joinAck d src _ => (s.die d).state = .joining ∧ s.baton.holder = some src
  | .statePush d src _ => (s.die d).state = .joining ∧ s.baton.holder = some src
  | .logFrame d => (s.die d).logOut ≠ []
  | .eventFrame p => p.die ≠ 0 ∧ (s.die p.die).reachable = true
  | .replayExhausted d p => ∃ q, (s.die d).ports[p]? = some q ∧ q.state = .up
  | .linkTrained d p => ∃ q, (s.die d).ports[p]? = some q ∧ (q.state = .training ∨ q.state = .down) ∧ q.stuck = false
  | .linkRetrainTimeout d p => ∃ q, (s.die d).ports[p]? = some q ∧ (q.state = .training ∨ q.state = .down) ∧ q.stuck = false
  | .dieResetEntry d => ((s.die d).state = .lost ∨ s.inBurn = false) ∧ s.baton.result = .clean ∧ s.baton.holder ≠ some d ∧ d < s.dies.length ∧ ((s.die d).state = .lost ∨ (s.die d).state ≠ .excluded ∧ (s.die d).resetReq = true)
  | .rejoinTimeout d => (s.die d).state = .dieReset ∧ s.baton.result = .clean
  -- cards and backup
  | .cardInserted p => p < 4 ∧ (s.cardPort p).state = .empty
  | .cardRemoved p => p < 4 ∧ (s.cardPort p).present = true
  | .atr p _ _ | .atrTimeout p => s.cardLive p = true ∧ (s.cardPort p).wait = .atr
  | .ppsResponse p _ => s.cardLive p = true ∧ (s.cardPort p).wait = .pps
  | .sWtx p m => s.cardLive p = true ∧ (s.cardPort p).inApdu = true ∧ (s.cardPort p).link.t1 = true ∧ 1 ≤ m ∧ m ≤ 255
  | .cardWaitTimeout p => s.cardLive p = true ∧ ((s.cardPort p).wait = .pps ∨ (s.cardPort p).inApdu = true)
  | .clockStop p => s.cardLive p = true ∧ (s.cardPort p).link.clkStop = true ∧ (s.cardPort p).link.vcc = true ∧ (s.cardPort p).wait = .none
  | .vccOffHoldEnd p => s.cardLive p = true ∧ (s.cardPort p).link.holdNext.isSome = true
  | .cardSelect p _ => s.cardLive p = true ∧ (s.cardPort p).wait = .select
  | .getInfo p _ => s.cardLive p = true ∧ (s.cardPort p).wait = .info
  | .authenticate p _ => s.cardLive p = true ∧ (s.cardPort p).wait = .auth
  | .getShare p _ => s.cardLive p = true ∧ (s.cardPort p).wait = .share
  | .endSession p _ => s.cardLive p = true ∧ (s.cardPort p).wait = .endSession
  | .quorumIdleExpiry => s.cards.quorum.present = true
  | .provisionQuorumTimeout => ∃ x, s.lcc.xfer = some x ∧ x.waitQuorum = true
  | .backupCardInserted _ => s.bmp.state = .empty
  | .backupCardRemoved => s.bmp.present = true
  | .blockRead _ => s.bmp.state = .transfer ∧ s.bmp.op.isSome = true
  | .busyEnd _ => s.bmp.state = .busy ∧ s.bmp.op.isSome = true
  | .sdTimeout _ => (s.bmp.state = .transfer ∨ s.bmp.state = .busy) ∧ s.bmp.op.isSome = true
  | .bkClockIdle => s.bmp.state = .ready
  | .reinsertTimeout => ∃ o, s.bmp.op = some o ∧ o.waiting = true
  -- tamper, battery, faults, log
  | .clkHigh d | .clkLow d | .clkShort d | .refFreq d | .clkSkip d | .supplyGlitch d | .supplyHigh d | .tempHigh d _ | .tempCrit d _ | .tempLow d _ | .shield d | .light d =>
    (s.die d).watching = true
  | .tmpIn n => n < 4 ∧ s.bbd.powered = true ∧ bits s.bbd.tmpCfg (8 * n) 2 ≠ 0 ∧ bit s.bbd.tmpState n = false
  | .batLow | .batCrit | .xtalStop => s.bbd.powered = true
  | .vbatApplied _ => s.bbd.powered = false
  | .vbatLost => s.bbd.powered = true
  | .tamperConditionClear d c => d < s.dies.length ∧ classLasting c = true
  | .throttleRelease d => (s.die d).tmn.throttle = true ∧ ∀ k, k < 24 → bit (s.die d).tmn.active k = true → (s.die d).resp (k + 1) ≠ 1
  | .severe d src => d < s.dies.length ∧ (s.die d).watching = true ∧ sourceExists src = true
  | .heatSliceBoundary d _ => d < s.dies.length
  | .faultPulseEnd => s.pkg.fault.pulse = true
  | .auditEntryAccept => s.alg.offers ≠ [] ∧ s.alg.stopped = false ∧ s.alg.ckptDue = false
  | .checkpoint => s.alg.ckptDue = true ∧ s.alg.stopped = false ∧ 74 ≤ s.alg.free
  | .checkpointSigned => s.alg.signing = true
  -- the Pacer
  | .probeInterval d => (s.die d).state = .running ∧ bit (s.reg d PCR 0 0x100) 16 = true ∧ (s.die d).pcr.probing = none
  | .probeStart d => probeReady d s = true
  | .probeWaitTimeout d => ∃ p, (s.die d).pcr.probing = some p ∧ p.started = false
  | .probeComplete d ms => ∃ p, (s.die d).pcr.probing = some p ∧ p.started = true ∧ (s.die d).marginsOk p.engine ms = true
  | .avsComplete d | .avsTimeout d => (s.die d).pcr.awaiting = true ∧ (s.die d).pcr.ramping.isSome = true
  | .vstepRetry d => (s.die d).pcr.awaiting = false ∧ (s.die d).pcr.ramping.isSome = true
  | .avsExhausted d => 3 ≤ (s.die d).pcr.avsTries ∧ (s.die d).pcr.exhausted = false
  | .roMeasure d _ | .marginProject d | .ageingRecordCommit d => d < s.dies.length
  | .slackWindow d l => d < s.dies.length ∧ l.length = 20
  | .stressMinute d _ | .skipEvaluate d _ => (s.die d).state = .running
  -- test access and the management port
  | .tapBypass d | .tapIdcode d | .tapSamplePreload d | .tapExtest d | .tapClamp d | .tapHighz d | .tapInternal d _ _ => d < s.dies.length ∧ s.pkg.pwrgood = true
  | .testLogicReset => s.pkg.pwrgood = true
  | .smbVersion | .smbState | .smbMaxTemp | .smbDieTemps | .smbFaults | .smbDieUid | .smbBoot | .smbusWrite _ | .smbusTimeout => s.mgiUp = true
  | .smbAlertResponse => s.mgiUp = true ∧ s.pkg.alertLow = true

end Sys2Proof.Machine
end

