-- ==== Sys2Proof/Certificates/Slice0/Obligations.lean ====
section
/-! DEFINITION. The statements for the provers. Each docstring names the rules it states. -/

section

open Sys2Proof Sys2Proof.Machine

/-! ### The instructions of the LVE -/

/-- R201 and R199: VALU, VCMP, MALU, VMERGE and VACCEPT, each with its result; nothing else of the engine changes, and nothing outside it. -/
def Obligations.LveIntegerAndMask : Prop :=
  LveDoes .valu .valu Lve.always (fun f l l' => l.SetsD f l' (fun i y => ValuResult l.sew (f.sub.toNat % 64) (l.elA f i) (l.opB f i) y)) ∧
  LveDoes .vcmp .vcmp Lve.always (fun f l l' => ∃ x, l' = l.setM f.d.toNat x ∧
    ∀ i, i < 256 → if l.active f i then (bit x i = true ↔ VcmpHolds l.sew (f.sub.toNat % 16) (l.elA f i) (l.opB f i))
      else bit x i = bit (l.mr f.d.toNat) i) ∧
  LveDoes .malu .malu Lve.always (fun f l l' =>
    ∃ x, l' = l.setM f.d.toNat x ∧ ∀ i, i < 256 →
      let a := bit (l.mr f.a.toNat) i
      let b := bit (l.mr f.b.toNat) i
      (f.sub = 0 → bit x i = (a && b)) ∧ (f.sub = 1 → bit x i = (a || b)) ∧ (f.sub = 2 → bit x i = (a != b)) ∧
      (f.sub = 3 → bit x i = (a && !b)) ∧ (f.sub = 4 → bit x i = !a) ∧ (f.sub = 5 → bit x i = true) ∧ (f.sub = 6 → bit x i = false)) ∧
  LveDoes .vmerge .vmerge Lve.always (fun f l l' => ∃ x, l' = l.setV f.d.toNat x ∧
    ∀ i, i < l.vlmax → elemN l.sew x i =
      if i < l.core.vl then (if bit (l.mr f.km.toNat) i then l.elB f i else l.elA f i) else elemN l.sew (l.vr f.d.toNat) i) ∧
  LveDoes .vaccept .vaccept Lve.always (fun f l l' =>
    ∃ a, l' = { l with core := { l.core with accept := a } } ∧
      (a = true ↔ l.core.accept = true ∧ ∀ i, i < l.core.vl → bit (l.mr f.a.toNat) i = false))

/-- R199 and R190: the control and scalar instructions. -/
def Obligations.LveScalarAndControl : Prop :=
  LveDoes .nop .nop Lve.always (fun _ l l' => l' = l) ∧
  LveDoes .setvl .setvl Lve.always (fun f l l' =>
    let n := if (l.sr f.a.toNat).toNat ≤ l.vlmax then (l.sr f.a.toNat).toNat else l.vlmax
    l' = { l with core := { l.core with vl := n } }.setS f.d.toNat (BitVec.ofNat 64 n)) ∧
  LveDoes .vsettype .vsettype (fun f l => vtypeOk (f.imm.truncate 4) l.core.lmod = true) (fun f l l' =>
    l' = { l with core := { l.core with vtype := f.imm.truncate 4, vl := min l.core.vl (2048 / (8 * 2 ^ (f.imm.toNat % 4))) } }) ∧
  LveDoes .vsetmod .vsetmod Lve.always (fun f l l' => l' = { l with core := { l.core with lmod := f.sub ++ f.imm } }) ∧
  LveDoes .setout .setout (fun f l => (l.sr f.a.toNat).toNat ≤ l.jr.outCap ∧ (l.sr f.a.toNat).toNat ≤ l.regions.outMax) (fun f l l' =>
    l' = { l with core := { l.core with outlen := (l.sr f.a.toNat).truncate 32 } }) ∧
  LveDoes .sli .sli Lve.always (fun f l l' => l' = l.setS f.d.toNat ((f.sub ++ f.imm).signExtend 64)) ∧
  LveDoes .salu .salu Lve.always (fun f l l' => l' = l.setS f.d.toNat (scalarOp f.sub.toNat (l.sr f.a.toNat) (l.sr f.b.toNat))) ∧
  LveDoes .salui .salui Lve.always (fun f l l' => l' = l.setS f.d.toNat (scalarOp f.sub.toNat (l.sr f.a.toNat) (f.imm.zeroExtend 64))) ∧
  LveDoes .sjr .sjr Lve.always (fun f l l' => ∃ x, l' = l.setS f.d.toNat x ∧
    (f.sub = 0x0 → x = BitVec.ofNat 64 l.jr.inLen) ∧ (f.sub = 0x1 → x = BitVec.ofNat 64 l.jr.auxLen) ∧ (f.sub = 0x2 → x = BitVec.ofNat 64 l.jr.outCap) ∧
    (f.sub = 0x3 → x = l.jr.param) ∧ (f.sub = 0x4 → x = l.jr.pset.zeroExtend 64) ∧ (f.sub = 0x5 → x = l.core.pass.zeroExtend 64) ∧
    (f.sub = 0x6 → x = BitVec.ofNat 64 l.jr.keyLen) ∧ (f.sub = 0x7 → x = BitVec.ofNat 64 l.kpc.length) ∧ (f.sub = 0x8 → x = BitVec.ofNat 64 l.vlmax) ∧
    (f.sub = 0x9 → x = BitVec.ofNat 64 l.regions.inOff) ∧ (f.sub = 0xA → x = BitVec.ofNat 64 l.regions.auxOff) ∧
    (f.sub = 0xB → x = BitVec.ofNat 64 l.regions.outOff) ∧ (f.sub = 0xC → x = BitVec.ofNat 64 l.regions.constOff) ∧
    (f.sub = 0xD → x = BitVec.ofNat 64 l.regions.winSize))

/-- R199: LOOP and LOOPI enter their body, counting it, or with count 0 pass to the instruction after it, where an enclosing body may end. -/
def Obligations.LveLoops : Prop :=
  ∀ (s : State) (r : LveRef) (f : LveFields) (u : LveUnit) (len n : Nat) (c : Instr) (o : LveOp),
    (c = .loop r f ∧ o = .loop ∧ len = f.imm.toNat % 4096 ∧ n = (u.eng.sr f.a.toNat).toNat % 2 ^ 32) ∨
    (c = .loopi r f ∧ o = .loopi ∧ len = (f.sub ++ f.imm).toNat % 4096 ∧ n = (f.sub ++ f.imm).toNat / 4096) →
    LveRuns s o r f u →
    ∃ pc loops, exec c s = .next (s.setEng r { u.eng with seq := { u.eng.seq with pc := pc, loops := loops, counts := u.eng.seq.counts.add loopWords } }) ∧
      (0 < n → pc = u.eng.seq.pc + 1 ∧ loops = ⟨u.eng.seq.pc + 1, u.eng.seq.pc + len, n⟩ :: u.eng.seq.loops) ∧
      (n = 0 → (pc, loops) = nextPc u.eng.seq.loops (u.eng.seq.pc + len))

/-- R202: the modular instructions with one result, for the modulus q in force; each runs with whatever modulus is in force and leaves the inactive elements.
R202: Compress, Decompress, Power2Round and Decompose.
Choices of the model that it rests on: log entry 140. -/
def Obligations.LveModular : Prop :=
  (let q := Lve.modulus
  LveDoes .madd .madd (fun _ l => l.modKnown) (fun f l l' => l.SetsD f l' (fun i y => y = (l.elA f i + l.opB f i) % q l)) ∧
  LveDoes .msub .msub (fun _ l => l.modKnown) (fun f l l' => l.SetsD f l' (fun i y => y < q l ∧ (y + l.opB f i) % q l = l.elA f i % q l)) ∧
  LveDoes .mneg .mneg (fun _ l => l.modKnown) (fun f l l' => l.SetsD f l' (fun i y => y < q l ∧ (y + l.elA f i) % q l = 0)) ∧
  LveDoes .mred .mred (fun _ l => l.modKnown) (fun f l l' => l.SetsD f l' (fun i y => y = l.elA f i % q l)) ∧
  LveDoes .mmont .mmont (fun _ l => l.modKnown) (fun f l l' => l.SetsD f l' (fun i y => y < q l ∧ y * 2 ^ l.sew % q l = l.elA f i * l.opB f i % q l)) ∧
  LveDoes .mbar .mbar (fun _ l => l.modKnown) (fun f l l' => l.SetsD f l' (fun i y => y = l.elA f i * l.opB f i % q l)) ∧
  LveDoes .tomont .tomont (fun _ l => l.modKnown) (fun f l l' => l.SetsD f l' (fun i y => y = l.elA f i * 2 ^ l.sew % q l))) ∧
  (∀ p ∈ [(LveOp.madd, Instr.madd), (.msub, .msub), (.mneg, .mneg), (.mred, .mred), (.mmont, .mmont), (.mbar, .mbar), (.tomont, .tomont)],
    LveDoes p.1 p.2 (fun _ l => l.modOk = true) (fun f l l' => l.SetsD f l' (fun _ _ => True))) ∧
  (LveDoes .cmpr .cmpr (fun _ l => l.modKnown ∧ l.modulus = 3329) (fun f l l' => l.SetsD f l' (fun i y =>
    ∃ n, y = n % 2 ^ (f.imm.toNat % 16) ∧ 2 * 3329 * n < 2 * 2 ^ (f.imm.toNat % 16) * (l.elA f i % 3329) + 3329 ∧
      2 * 2 ^ (f.imm.toNat % 16) * (l.elA f i % 3329) < 2 * 3329 * n + 3329)) ∧
  LveDoes .dcmpr .dcmpr (fun _ l => l.modKnown ∧ l.modulus = 3329) (fun f l l' => l.SetsD f l' (fun i y =>
    2 * 2 ^ (f.imm.toNat % 16) * y ≤ 2 * 3329 * (l.elA f i % 2 ^ (f.imm.toNat % 16)) + 2 ^ (f.imm.toNat % 16) ∧
      2 * 3329 * (l.elA f i % 2 ^ (f.imm.toNat % 16)) < 2 * 2 ^ (f.imm.toNat % 16) * y + 2 ^ (f.imm.toNat % 16))) ∧
  LveDoes .p2r .p2r (fun _ l => l.modKnown ∧ l.modulus = 8380417) (fun f l l' => ∃ g : Nat → Int,
    (∀ i, -4096 < g i ∧ g i ≤ 4096) ∧
    l.SetsPair f l' (fun i y => (y : Int) * 8192 + g i = (l.elA f i % 8380417 : Nat)) (fun i y => (y : Int) = g i % 8380417)) ∧
  LveDoes .decomp .decomp (fun _ l => l.modKnown ∧ l.modulus = 8380417) (fun f l l' =>
    let γ : Int := if bit f.imm 0 then (8380417 - 1) / 32 else (8380417 - 1) / 88
    ∃ g : Nat → Int, (∀ i, -γ < g i ∧ g i ≤ γ) ∧
    l.SetsPair f l'
      (fun i y => if (l.elA f i % 8380417 : Nat) - g i = 8380416 then y = 0 else (y : Int) * (2 * γ) + g i = (l.elA f i % 8380417 : Nat))
      (fun i y => (y : Int) = (if (l.elA f i % 8380417 : Nat) - g i = 8380416 then g i - 1 else g i) % 8380417)))

/-- R203: the butterflies, whose twiddles come from the tables of the rule; the bound says that the last twiddle lies in the table.
Choices of the model that it rests on: log entry 29. -/
def Obligations.LveButterflies : Prop :=
  LveDoes .vbfly .vbfly
    (fun f l => l.modOk ∧ l.modulus = (twiddleMod (f.imm.toNat % 8)).1 ∧ l.sew = (twiddleMod (f.imm.toNat % 8)).2.2 ∧
      f.imm.toNat / 8 % 256 + (l.vlmax - 1) / 2 ^ (f.imm.toNat / 2048 % 16) < (twiddleMod (f.imm.toNat % 8)).2.1)
    (fun f l l' =>
      let q := l.modulus
      let w := fun i => twiddle (f.imm.toNat % 8) (f.imm.toNat / 8 % 256 + i / 2 ^ (f.imm.toNat / 2048 % 16))
      l.SetsPair f l'
        (fun i y => ∃ t, t < q ∧ t * 2 ^ l.sew % q = l.elB f i * w i % q ∧
          y = if bit f.sub 0 then (l.elA f i + l.elB f i) % q else (l.elA f i + t) % q)
        (fun i y => y < q ∧ if bit f.sub 0 then ((y * 2 ^ l.sew + l.elB f i * w i) % q = l.elA f i * w i % q)
          else ∃ t, t < q ∧ t * 2 ^ l.sew % q = l.elB f i * w i % q ∧ (y + t) % q = l.elA f i % q)) ∧
  LveDoes .vbmul .vbmul
    (fun f l => l.modOk ∧ l.modulus = 3329 ∧ l.core.vl % 2 = 0 ∧
      f.imm.toNat / 8 % 256 + (l.vlmax / 2 - 1) / 2 ^ (f.imm.toNat / 2048 % 16) < 128)
    (fun f l l' =>
      let w := fun j => powMod 3329 16 17 (2 * bitRev 7 (f.imm.toNat / 8 % 256 + j / 2 ^ (f.imm.toNat / 2048 % 16)) + 1)
      ∃ x, l' = { l.setV f.d.toNat x with seq := { l.seq with draws := l'.seq.draws } } ∧
        l.Holds f f.d.toNat x (fun i y => y < 3329 ∧ y * 2 ^ 16 % 3329 =
          if i % 2 = 0 then (l.elA f i * l.elB f i + l.elA f (i + 1) * l.elB f (i + 1) * w (i / 2)) % 3329
          else (l.elA f (i - 1) * l.elB f i + l.elA f i * l.elB f (i - 1)) % 3329))

/-- R204: the layout instructions, in full width. -/
def Obligations.LveLayout : Prop :=
  LveDoes .zip .zip (fun f l => 2 ^ f.imm.toNat ≤ l.vlmax / 2) (fun f l l' =>
    let g := 2 ^ f.imm.toNat
    let c := fun i => if i / g % 2 = 0 then l.elA f (i / (2 * g) * g + i % g) else l.elB f (i / (2 * g) * g + i % g)
    l.FillsPair f l' c (fun i => c (l.vlmax + i))) ∧
  LveDoes .unzip .unzip (fun f l => 2 ^ f.imm.toNat ≤ l.vlmax / 2) (fun f l l' =>
    let g := 2 ^ f.imm.toNat
    let c := fun i => if i < l.vlmax then l.elA f i else elemN l.sew (l.vr (f.a.toNat + 1)) (i - l.vlmax)
    l.FillsPair f l' (fun i => c (2 * (i / g) * g + i % g)) (fun i => c ((2 * (i / g) + 1) * g + i % g))) ∧
  LveDoes .brev .brev (fun f l => 2 ^ f.imm.toNat ≤ l.vlmax) (fun f l l' => ∃ x, l' = l.setV f.d.toNat x ∧
    ∀ j m, m < 2 ^ f.imm.toNat → j * 2 ^ f.imm.toNat + m < l.vlmax →
      elemN l.sew x (j * 2 ^ f.imm.toNat + m) = l.elA f (j * 2 ^ f.imm.toNat + bitRev f.imm.toNat m)) ∧
  LveDoes .slideup .slideup Lve.always (fun f l l' => l.FillsD f l' (fun i => if f.imm.toNat ≤ i then l.elA f (i - f.imm.toNat) else 0)) ∧
  LveDoes .slidedn .slidedn Lve.always (fun f l l' => l.FillsD f l' (fun i => if i + f.imm.toNat < l.vlmax then l.elA f (i + f.imm.toNat) else 0)) ∧
  LveDoes .bmt .bmt Lve.always (fun f l l' => ∃ x, l' = l.setV f.d.toNat x ∧
    ∀ g i j, i < l.sew → j < l.sew → g * l.sew + i < l.vlmax → g * l.sew + j < l.vlmax →
      (elemN l.sew x (g * l.sew + i)).testBit j = (l.elA f (g * l.sew + j)).testBit i) ∧
  LveDoes .vcompress .vcompress Lve.always (fun f l l' =>
    let sel := (List.range l.core.vl).filter (fun i => bit (l.mr f.km.toNat) i)
    l.FillsD f l' (fun j => if h : j < sel.length then l.elA f sel[j] else 0)) ∧
  LveDoes .vpack .vpack (fun f l => f.d.toNat + (l.core.vl * f.imm.toNat + 2047) / 2048 ≤ 32) (fun f l l' =>
    let n := (l.core.vl * f.imm.toNat + 2047) / 2048
    l' = { l with core := { l.core with v := l'.core.v } } ∧
    (∀ k, k < f.d.toNat ∨ f.d.toNat + n ≤ k → l'.vr k = l.vr k) ∧
    ∀ k b, k < n → b < 2048 → bit (l'.vr (f.d.toNat + k)) b =
      (decide ((2048 * k + b) / f.imm.toNat < l.core.vl) && (l.elA f ((2048 * k + b) / f.imm.toNat)).testBit ((2048 * k + b) % f.imm.toNat))) ∧
  LveDoes .vunpack .vunpack (fun f l => f.a.toNat + (l.core.vl * f.imm.toNat + 2047) / 2048 ≤ 32) (fun f l l' => ∃ x, l' = l.setV f.d.toNat x ∧
    ∀ i, i < l.vlmax → if i < l.core.vl then
      ∀ b, b < l.sew → (elemN l.sew x i).testBit b =
        (decide (b < f.imm.toNat) && bit (l.vr (f.a.toNat + (i * f.imm.toNat + b) / 2048)) ((i * f.imm.toNat + b) % 2048))
      else elemN l.sew x i = elemN l.sew (l.vr f.d.toNat) i)

/-- R200 and R195: loads whose active elements are all in the window or the aperture and aligned; VKLD.
Choices of the model that it rests on: log entry 64. -/
def Obligations.LveLoads : Prop :=
  let e := fun (l : Lve) => l.sew / 8
  let base := fun (f : LveFields) (l : Lve) => (l.sr f.a.toNat + f.imm.signExtend 64).toNat
  let ok := fun (f : LveFields) (l : Lve) (addr : Nat → Nat) => ∀ i, i < l.vlmax → l.active f i = true → l.loadOk (addr i) (e l) = true
  let unit := fun (f : LveFields) (l : Lve) (i : Nat) => (base f l + i * e l) % 2 ^ 64
  let pitch := fun (f : LveFields) (l : Lve) (i : Nat) => (base f l + i * (l.sr f.b.toNat).toNat) % 2 ^ 64
  let index := fun (f : LveFields) (l : Lve) (i : Nat) => (base f l + l.elB f i) % 2 ^ 64
  let field := fun (f : LveFields) (l : Lve) (k i : Nat) => (base f l + (i * f.sub.toNat + k) * e l) % 2 ^ 64
  LveDoes .vldu .vldu (fun f l => ok f l (unit f l)) (fun f l l' => l.SetsD f l' (fun i y => y = l.loadElem (unit f l i) (e l))) ∧
  LveDoes .vldp .vldp (fun f l => ok f l (pitch f l)) (fun f l l' => l.SetsD f l' (fun i y => y = l.loadElem (pitch f l i) (e l))) ∧
  LveDoes .vgather .vgather (fun f l => ok f l (index f l)) (fun f l l' => l.SetsD f l' (fun i y => y = l.loadElem (index f l i) (e l))) ∧
  LveDoes .vldf .vldf (fun f l => ∀ k, k < f.sub.toNat → ok f l (field f l k)) (fun f l l' =>
    l' = { l with core := { l.core with v := l'.core.v } } ∧
    (∀ k, k < f.d.toNat ∨ f.d.toNat + f.sub.toNat ≤ k → l'.vr k = l.vr k) ∧
    ∀ k, k < f.sub.toNat → l.Holds f (f.d.toNat + k) (l'.vr (f.d.toNat + k)) (fun i y => y = l.loadElem (field f l k i) (e l))) ∧
  ∀ (s : State) (r : LveRef) (f : LveFields) (u : LveUnit), LveRuns s .vkld r f u →
    ∃ x, exec (.vkld r f) s = .next (s.setEng r ((u.eng.setV f.d.toNat x).advance (onlyRnd 3))) ∧
      ∀ k, k < 256 → elemN 8 x k = if 256 * f.imm.toNat + k < u.eng.jr.keyLen then ((s.keyBus r u.eng).getD (256 * f.imm.toNat + k) 0).toNat else 0

/-- R200 and R195: stores whose active elements are all writable and aligned. The bytes of the window at the addresses of the active elements take the elements'
bytes, the highest index prevailing; every other byte of the window, and everything else, stays. -/
def Obligations.LveStores : Prop :=
  let e := fun (l : Lve) => l.sew / 8
  let base := fun (f : LveFields) (l : Lve) => (l.sr f.a.toNat + f.imm.signExtend 64).toNat
  let ok := fun (f : LveFields) (l : Lve) (addr : Nat → Nat) => ∀ i, i < l.vlmax → l.active f i = true → l.storeOk (addr i) (e l) = true
  let covers := fun (f : LveFields) (l : Lve) (addr : Nat → Nat) (a i : Nat) => i < l.vlmax ∧ l.active f i = true ∧ addr i ≤ a ∧ a < addr i + e l
  let stored := fun (f : LveFields) (l l' : Lve) (addr : Nat → Nat) =>
    l' = { l with window := l'.window } ∧
    (∀ a, (∀ i, ¬ covers f l addr a i) → l'.window.read a = l.window.read a) ∧
    ∀ a i, covers f l addr a i → (∀ j, i < j → ¬ covers f l addr a j) →
      (l'.window.read a).toNat = elemN l.sew (l.vr f.d.toNat) i / 256 ^ (a - addr i) % 256
  let unit := fun (f : LveFields) (l : Lve) (i : Nat) => (base f l + i * e l) % 2 ^ 64
  let pitch := fun (f : LveFields) (l : Lve) (i : Nat) => (base f l + i * (l.sr f.b.toNat).toNat) % 2 ^ 64
  let index := fun (f : LveFields) (l : Lve) (i : Nat) => (base f l + l.elB f i) % 2 ^ 64
  let field := fun (f : LveFields) (l : Lve) (k i : Nat) => (base f l + (i * f.sub.toNat + k) * e l) % 2 ^ 64
  LveDoes .vstu .vstu (fun f l => l.window.wf = true ∧ ok f l (unit f l)) (fun f l l' => stored f l l' (unit f l)) ∧
  LveDoes .vstp .vstp (fun f l => l.window.wf = true ∧ ok f l (pitch f l)) (fun f l l' => stored f l l' (pitch f l)) ∧
  LveDoes .vscatter .vscatter (fun f l => l.window.wf = true ∧ ok f l (index f l)) (fun f l l' => stored f l l' (index f l)) ∧
  LveDoes .vstf .vstf (fun f l => l.window.wf = true ∧ ∀ k, k < f.sub.toNat → ok f l (field f l k)) (fun f l l' =>
    l' = { l with window := l'.window } ∧
    (∀ a, (∀ k i, k < f.sub.toNat → ¬ covers f l (field f l k) a i) → l'.window.read a = l.window.read a) ∧
    ∀ a k i, k < f.sub.toNat → covers f l (field f l k) a i →
      (l'.window.read a).toNat = elemN l.sew (l.vr (f.d.toNat + k)) i / 256 ^ (a - field f l k i) % 256)

/-- R210 and R211: a load or a store meets the first active element that breaks R195. Before the job has faulted, VSTART takes that element's index, the
elements below it are loaded or stored and the others are not; SETOUT faults with 0xFFFF_FFFF. Once the job has faulted, a load that breaks R195 gives zero and
raises no second fault. -/
def Obligations.LveOperandFaults : Prop :=
  let first := fun (f : LveFields) (l : Lve) (ok : Nat → Bool) (n : Nat) =>
    n < l.vlmax ∧ l.active f n = true ∧ ok n = false ∧ ∀ i, i < n → l.active f i = true → ok i = true
  let faulted := fun (l : Lve) (i : W32) => { l with core := { l.core with vstart := i }, seq := { l.seq with fault := some (.operand i) } }
  let base := fun (f : LveFields) (l : Lve) => (l.sr f.a.toNat + f.imm.signExtend 64).toNat
  let unit := fun (f : LveFields) (l : Lve) (i : Nat) => (base f l + i * (l.sew / 8)) % 2 ^ 64
  let pitch := fun (f : LveFields) (l : Lve) (i : Nat) => (base f l + i * (l.sr f.b.toNat).toNat) % 2 ^ 64
  let index := fun (f : LveFields) (l : Lve) (i : Nat) => (base f l + l.elB f i) % 2 ^ 64
  let loads := fun (o : LveOp) (c : LveRef → LveFields → Instr) (addr : LveFields → Lve → Nat → Nat) =>
    (∀ n, LveDoes o c (fun f l => l.seq.fault = none ∧ first f l (fun i => l.loadOk (addr f l i) (l.sew / 8)) n) (fun f l l' =>
      ∃ x, l' = faulted (l.setV f.d.toNat x) (BitVec.ofNat 32 n) ∧ ∀ i, i < l.vlmax →
        elemN l.sew x i = if l.active f i = true ∧ i < n then l.loadElem (addr f l i) (l.sew / 8) else elemN l.sew (l.vr f.d.toNat) i)) ∧
    LveDoes o c (fun _ l => l.seq.fault.isSome = true) (fun f l l' =>
      l.SetsD f l' (fun i y => y = if l.loadOk (addr f l i) (l.sew / 8) then l.loadElem (addr f l i) (l.sew / 8) else 0))
  let stores := fun (o : LveOp) (c : LveRef → LveFields → Instr) (addr : LveFields → Lve → Nat → Nat) =>
    ∀ n, LveDoes o c (fun f l => l.window.wf = true ∧ l.seq.fault = none ∧ first f l (fun i => l.storeOk (addr f l i) (l.sew / 8)) n) (fun f l l' =>
      ∃ w : Mem, l' = faulted { l with window := w } (BitVec.ofNat 32 n) ∧
        (∀ a, (∀ i, i < n → l.active f i = true → a < addr f l i ∨ addr f l i + l.sew / 8 ≤ a) → w.read a = l.window.read a) ∧
        ∀ i, i < n → l.active f i = true → (∀ j, i < j → j < n → l.active f j = true → addr f l i + l.sew / 8 ≤ addr f l j ∨ addr f l j + l.sew / 8 ≤ addr f l i) →
          ∀ b, b < l.sew / 8 → (w.read (addr f l i + b)).toNat = elemN l.sew (l.vr f.d.toNat) i / 256 ^ b % 256)
  loads .vldu .vldu unit ∧ loads .vldp .vldp pitch ∧ loads .vgather .vgather index ∧
  stores .vstu .vstu unit ∧ stores .vstp .vstp pitch ∧ stores .vscatter .vscatter index ∧
  LveDoes .setout .setout
    (fun f l => l.seq.fault = none ∧ (l.jr.outCap < (l.sr f.a.toNat).toNat ∨ l.regions.outMax < (l.sr f.a.toNat).toNat))
    (fun _ l l' => l' = faulted l 0xFFFFFFFF)

/-- R207 and R208: the masked instructions draw their bytes and leave shares that recombine to the value of the rule, in every active element.
Choices of the model that it rests on: log entry 5. -/
def Obligations.LveMasked : Prop :=
  let w := fun (l : Lve) => (l.core.vl * l.sew + 7) / 8
  let ta := Lve.shareKnown
  let fits := fun (l : Lve) (n : Nat) => l.seq.maskUsed + n ≤ l.seq.maskBytes
  let bool := fun (f : LveFields) (l l' : Lve) (n : Nat) (x : Nat → Nat) => l.SetsGroup f f.order n l' ∧
    ∀ i, i < l.vlmax → l.active f i = true → l'.xorOf f.d.toNat f.order i = x i
  let arith := fun (f : LveFields) (l l' : Lve) (n : Nat) (x : Nat → Nat) => l.SetsGroup f f.order n l' ∧
    ∀ i, i < l.vlmax → l.active f i = true → l'.sumOf f.d.toNat f.order i = x i % l.shareMod
  let conv := fun (f : LveFields) (l : Lve) => f.order * (l.logSew + 1) * w l
  LveDoes .split .split (fun f l => fits l (f.order * w l)) (fun f l l' => bool f l l' (f.order * w l) (l.elA f)) ∧
  LveDoes .refresh .refresh (fun f l => fits l (f.order * w l)) (fun f l l' => bool f l l' (f.order * w l) (l.xorOf f.a.toNat f.order)) ∧
  LveDoes .band .band (fun f l => fits l ((if f.order = 1 then 1 else 3) * w l)) (fun f l l' =>
    bool f l l' ((if f.order = 1 then 1 else 3) * w l) (fun i => l.xorOf f.a.toNat f.order i &&& l.xorOf f.b.toNat f.order i)) ∧
  LveDoes .a2b .a2b (fun f l => ta l ∧ fits l (conv f l)) (fun f l l' => bool f l l' (conv f l) (l.sumOf f.a.toNat f.order)) ∧
  LveDoes .splita .splita (fun f l => ta l ∧ fits l (f.order * w l)) (fun f l l' => arith f l l' (f.order * w l) (l.elA f)) ∧
  LveDoes .b2a .b2a (fun f l => ta l ∧ fits l (conv f l)) (fun f l l' => arith f l l' (conv f l) (l.xorOf f.a.toNat f.order)) ∧
  LveDoes .amont .amont (fun f l => l.modKnown ∧ fits l (f.order * w l)) (fun f l l' =>
    arith f l l' (f.order * w l) (fun i => mont l.sew l.modulus (l.sumOf f.a.toNat f.order i) (l.elB f i)))

/-- R207: the masked instructions that draw nothing: share by share, BNOT on share 0, and the two joins. -/
def Obligations.LveShareWise : Prop :=
  let ta := Lve.shareKnown
  let group := fun (f : LveFields) (l l' : Lve) (g : Nat → Nat → Nat → Prop) => l.SetsGroup f f.order 0 l' ∧
    ∀ k i, k ≤ f.order → i < l.vlmax → l.active f i = true → g k i (l'.share f.d.toNat k i)
  LveDoes .bxor .bxor Lve.always (fun f l l' => group f l l' (fun k i y => y = l.share f.a.toNat k i ^^^ l.share f.b.toNat k i)) ∧
  LveDoes .bnot .bnot Lve.always (fun f l l' => group f l l' (fun k i y =>
    if k = 0 then ∀ b, b < l.sew → y.testBit b = !(l.share f.a.toNat 0 i).testBit b else y = l.share f.a.toNat k i)) ∧
  LveDoes .aadd .aadd (fun _ l => ta l) (fun f l l' => group f l l' (fun k i y => y = (l.share f.a.toNat k i + l.share f.b.toNat k i) % l.shareMod)) ∧
  LveDoes .asub .asub (fun _ l => ta l) (fun f l l' => group f l l' (fun k i y =>
    y < l.shareMod ∧ (y + l.share f.b.toNat k i) % l.shareMod = l.share f.a.toNat k i % l.shareMod)) ∧
  LveDoes .joina .joina (fun _ l => ta l) (fun f l l' => l.SetsD f l' (fun i y => y = l.sumOf f.a.toNat f.order i)) ∧
  LveDoes .vjoin (fun r f => .vjoin (.vmsk r f)) Lve.always (fun f l l' => l.SetsD f l' (fun i y => y = l.xorOf f.a.toNat f.order i))

/-- R205 and R206: VCBD unmasked and masked, and VREJ from a PUBLIC stream and from one that is not.
Choices of the model that it rests on: log entry 28. -/
def Obligations.LveSampling : Prop :=
  let cbd := fun (f : LveFields) (l : Lve) (s : Nat → Nat) (i y : Nat) =>
    let η := f.imm.toNat
    (y + ((List.range η).map (fun j => s (2 * i * η + η + j))).sum) % l.shareMod = ((List.range η).map (fun j => s (2 * i * η + j))).sum % l.shareMod
  let ta := Lve.shareKnown
  LveDoes .vcbd .vcbd (fun f l => ta l ∧ bit f.sub 0 = false) (fun f l l' =>
    l.SetsD f l' (fun i y => y < l.shareMod ∧ cbd f l (fun b => b2n (bit (l.vr f.a.toNat) b)) i y)) ∧
  LveDoes .vcbd .vcbd (fun f l => ta l ∧ bit f.sub 0 = true ∧ l.seq.maskUsed + (if bit f.sub 1 then 6 else 2) * ((l.core.vl * l.sew + 7) / 8) ≤ l.seq.maskBytes)
    (fun f l l' =>
      let o := if bit f.sub 1 then 2 else 1
      let s := fun b => b2n (if o = 1 then bit (l.vr f.a.toNat) b != bit (l.vr (f.a.toNat + 1)) b
        else (bit (l.vr f.a.toNat) b != bit (l.vr (f.a.toNat + 1)) b) != bit (l.vr (f.a.toNat + 2)) b)
      l.SetsGroup f o ((if o = 2 then 6 else 2) * ((l.core.vl * l.sew + 7) / 8)) l' ∧
      ∀ i, i < l.vlmax → l.active f i = true → cbd f l s i (l'.sumOf f.d.toNat o i)) ∧
  (∀ (s : State) (r : LveRef) (f : LveFields) (u : LveUnit), LveRuns s .vrej r f u → u.eng.hash.ksqueeze = true → u.eng.modKnown →
    let l := u.eng
    let gs := 2 ^ (f.imm.toNat / 256)
    let n := f.imm.toNat / 16 % 16 * l.kRate
    let q := l.squeeze r n
    let p := (l.sr f.a.toNat).toNat
    l.hash.kpublic = true → f.km = 0 →
      let good := (vrejCands (f.imm.toNat % 16) (q.1.map (fun b => b 0))).filter (vrejAccept (f.imm.toNat % 16))
      let xs := good.take (gs * l.vlmax - p)
      ∃ l' : Lve, exec (.vrej r f) s = .next (s.setEng r (l'.advance (l.classesOf .vrej f))) ∧
        l' = { q.2 with core := { q.2.core with v := l'.core.v, sc := l'.core.sc } } ∧
        l'.core.sc = (l.setS f.a.toNat (BitVec.ofNat 64 (p + xs.length))).core.sc ∧
        ∀ k i, k < gs → i < l.vlmax → elemN l.sew (l'.vr (f.d.toNat + k)) i =
          if k * l.vlmax + i < p then elemN l.sew (l.vr (f.d.toNat + k)) i
          else match xs[k * l.vlmax + i - p]? with
            | some c => vrejValue (f.imm.toNat % 16) l.modulus c % 2 ^ l.sew
            | none => elemN l.sew (l.vr (f.d.toNat + k)) i) ∧
  (∀ (s : State) (r : LveRef) (f : LveFields) (u : LveUnit), LveRuns s .vrej r f u → u.eng.hash.ksqueeze = true → u.eng.modKnown →
    let l := u.eng
    let mode := f.imm.toNat % 16
    let gs := 2 ^ (f.imm.toNat / 256)
    let n := f.imm.toNat / 16 % 16 * l.kRate
    let need := l.permMask (l.squeezePerms n)
    let q := { l with seq := { l.seq with maskUsed := l.seq.maskUsed + need } }.squeeze r n
    let cs := vrejCands mode (q.1.map (fun b => (List.range l.hash.kshares.length).foldl (fun x k => x ^^^ b k) 0))
    l.hash.kpublic = false → f.a = 0 → n * (if mode < 2 then 2 else 6) / (if mode = 1 then 6 else 3) ≤ min (gs * l.vlmax) 256 →
    l.seq.maskUsed + need ≤ l.seq.maskBytes →
      ∃ l' : Lve, exec (.vrej r f) s = .next (s.setEng r (l'.advance (l.classesOf .vrej f))) ∧
        l' = { q.2 with core := { q.2.core with v := l'.core.v, m := l'.core.m } } ∧
        (∀ k i, k < gs → i < l.vlmax → elemN l.sew (l'.vr (f.d.toNat + k)) i =
          match cs[k * l.vlmax + i]? with
          | some c => (if vrejAccept mode c then vrejValue mode l.modulus c else c) % 2 ^ l.sew
          | none => elemN l.sew (l.vr (f.d.toNat + k)) i) ∧
        ∀ j, j < 256 → bit (l'.mr f.km.toNat) j = match cs[j]? with | some c => vrejAccept mode c | none => bit (l.mr f.km.toNat) j)

/-- R209 and R188: the hash units on an unmasked state. The sponge absorbs and squeezes through the permutation of FIPS 202, the SHA-2 unit compresses
blocks from registers and from the window.
R188 and R209: a masked sponge is the sponge: what its shares recombine to after absorbing is what the unmasked state absorbs.
Choices of the model that it rests on: log entries 4, 28, 30. -/
def Obligations.LveHashUnits : Prop :=
  (LveDoes .kinit .kinit Lve.always (fun f l l' => l' = { l with hash := { l.hash with
    kshares := List.replicate (if bit f.sub 7 then (if bit f.sub 6 then 3 else 2) else 1) 0
    kpublic := !bit f.sub 7
    kpos := 0
    kfun := f.sub.toNat % 8
    ksqueeze := false } }) ∧
  LveDoes .kfin .kfin (fun _ l => l.hash.ksqueeze = false ∧ l.hash.kshares ≠ []) (fun _ l l' => ∃ s0 rest, l.hash.kshares = s0 :: rest ∧
    l' = { l with hash := { l.hash with
      kshares := (if l.hash.kfun < 5 then kPad l.kRate (if l.hash.kfun ≤ 1 then 0x1F else 0x06) s0 l.hash.kpos else s0) :: rest
      kpos := l.kRate
      ksqueeze := true } }) ∧
  (∀ (s : State) (r : LveRef) (f : LveFields) (u : LveUnit) (n : Nat), u.eng.hash.ksqueeze = false → u.eng.sr f.b.toNat = BitVec.ofNat 64 n →
    let l := u.eng
    let need := l.permMask ((l.hash.kpos + n) / l.kRate)
    let start := fun (p : Bool) => ({ l with hash := { l.hash with kpublic := p }, seq := { l.seq with maskUsed := l.seq.maskUsed + need } } : Lve)
    l.seq.maskUsed + need ≤ l.seq.maskBytes →
    (LveRuns s .kabs r f u → n ≤ 256 → f.a.toNat + (l.hash.kshares.length - 1) < 32 →
      exec (.kabs r f) s = .next (s.setEng r (((start false).absorb r
        ((List.range n).map (fun i k => BitVec.ofNat 8 (elemN 8 (l.vr (f.a.toNat + k)) i)))).advance (l.classesOf .kabs f)))) ∧
    (LveRuns s .kabsm r f u → n ≤ 4096 → (∀ i, i < n → l.loadOk ((l.base f + i) % 2 ^ 64) 1 = true) →
      exec (.kabsm r f) s = .next (s.setEng r (((start (l.hash.kpublic && (List.range n).all (fun i => l.publicSource ((l.base f + i) % 2 ^ 64)))).absorb r
        ((List.range n).map (fun i k => if k = 0 then l.loadByte ((l.base f + i) % 2 ^ 64) else 0))).advance (l.classesOf .kabsm f))))) ∧
  (∀ (s : State) (r : LveRef) (f : LveFields) (u : LveUnit), LveRuns s .vxof r f u → u.eng.hash.ksqueeze = true →
    let l := u.eng
    let need := l.permMask (l.squeezePerms f.imm.toNat)
    let q := { l with seq := { l.seq with maskUsed := l.seq.maskUsed + need } }.squeeze r f.imm.toNat
    l.seq.maskUsed + need ≤ l.seq.maskBytes → f.d.toNat + (l.hash.kshares.length - 1) < 32 →
    ∃ l' : Lve, exec (.vxof r f) s = .next (s.setEng r (l'.advance (l.classesOf .vxof f))) ∧ l' = { q.2 with core := { q.2.core with v := l'.core.v } } ∧
      (∀ k, k < f.d.toNat ∨ f.d.toNat + l.hash.kshares.length ≤ k → l'.vr k = l.vr k) ∧
      ∀ k i, k < l.hash.kshares.length → i < 256 →
        elemN 8 (l'.vr (f.d.toNat + k)) i = match q.1[i]? with | some b => (b k).toNat | none => elemN 8 (l.vr (f.d.toNat + k)) i) ∧
  LveDoes .ksave .ksave Lve.always (fun f l l' =>
    l' = { l with core := { l.core with v := l'.core.v }, seq := { l.seq with draws := l'.seq.draws } } ∧
    (∀ j, j < f.d.toNat ∨ f.d.toNat + 6 < j → l'.vr j = l.vr j) ∧
    ∀ k, l.hash.kshares = [k] → l'.vr f.d.toNat = k.zeroExtend 2048 ∧ ∀ j, f.d.toNat < j → j ≤ f.d.toNat + 6 → l'.vr j = 0) ∧
  LveDoes .kload .kload (fun f l => f.imm.toNat < l.kRate) (fun f l l' => l' = { l with hash := { l.hash with
    kshares := [(l.vr f.a.toNat).truncate 1600], kpos := f.imm.toNat, kpublic := false, ksqueeze := false } }) ∧
  LveDoes .hinit .hinit Lve.always (fun f l l' => l' = { l with hash := { l.hash with hstate := sha2Iv f.sub.toNat, hfun := f.sub.toNat } }) ∧
  LveDoes .hblk .hblk (fun f l => f.a.toNat + ((f.imm.toNat % 4 + 1) * l.hBlk + 255) / 256 ≤ 32) (fun f l l' =>
    l' = l.compress (f.imm.toNat % 4 + 1) (l.regBytes f.a.toNat (((f.imm.toNat % 4 + 1) * l.hBlk + 255) / 256))) ∧
  LveDoes .hblkm .hblkm (fun f l => ∀ i, i < (f.imm.toNat + 1) * l.hBlk → l.loadOk (((l.sr f.a.toNat).toNat + i) % 2 ^ 64) 1 = true) (fun f l l' =>
    l' = l.compress (f.imm.toNat + 1) ((List.range ((f.imm.toNat + 1) * l.hBlk)).map (fun i => l.loadByte (((l.sr f.a.toNat).toNat + i) % 2 ^ 64)))) ∧
  LveDoes .hout .hout Lve.always (fun f l l' => ∃ x, l' = l.setV f.d.toNat x ∧
    ∀ i, i < 256 → elemN 8 x i = (l.hash.hstate.getD i 0).toNat) ∧
  LveDoes .hload .hload Lve.always (fun f l l' => l' = { l with hash := { l.hash with
    hstate := (List.range 64).map (fun i => BitVec.ofNat 8 (elemN 8 (l.vr f.a.toNat) i)) } })) ∧
  (∀ (l : Lve) (r : LveRef) (bs : List (Nat → Byte)), l.hash.kshares ≠ [] →
    let o := l.hash.kshares.length
    let open1 : Lve := { l with hash := { l.hash with kshares := [kVal l.hash.kshares] } }
    (l.absorb r bs).hash.kshares.length = o ∧
    [kVal (l.absorb r bs).hash.kshares] =
      (open1.absorb r (bs.map (fun b _ => (List.range o).foldl (fun x k => x ^^^ b k) 0))).hash.kshares)

/-- R189, R197 and R198: a word that is not valid never runs, nor does a modular instruction with no modulus in force; an engine that the part does not have
runs nothing; and an engine with another word next, or with no pass running, is left as it is.
Choices of the model that it rests on: log entry 19. -/
def Obligations.LveStops : Prop :=
  (∀ (s : State) (o : LveOp) (r : LveRef) (f : LveFields),
    (s.lve? r = none → exec (o.instr r f) s = .fault .noSuchUnit) ∧
    ((s.lve? r).isSome = true → o.valid f = false → exec (o.instr r f) s = .refused .invalidInstruction) ∧
    (∀ u, s.lve? r = some u → o.valid f = true → o ≠ .lend → u.executes o f = false → r.upset = .none → exec (o.instr r f) s = .next s)) ∧
  ∀ (s : State) (o : LveOp) (r : LveRef) (f : LveFields) (u : LveUnit),
    o ∈ [LveOp.madd, .msub, .mneg, .mred, .mmont, .mbar, .tomont, .cmpr, .dcmpr, .p2r, .decomp, .vbfly, .vbmul, .amont] →
    LveRuns s o r f u → u.eng.modOk = false → exec (o.instr r f) s = .refused .invalidInstruction

/-- R197: every valid instruction word decodes to its instruction with all its fields. -/
def Obligations.LveDecodeEncode : Prop :=
  ∀ (o : LveOp) (f : LveFields), o.valid f = true → lveDecode (lveEncode o f) = some (o, f)

/-- The operand window of the engine keeps its canonical form, and LMOD stays a legal value, through every LVE instruction that does not end the job. -/
def Obligations.LveWindowCanonical : Prop :=
  ∀ (s t : State) (o : LveOp) (r : LveRef) (f : LveFields) (u u' : LveUnit), o ≠ .lend → s.lve? r = some u → u.eng.window.wf = true → r.upset = .none →
    u.eng.abortReq = false → (∀ x, (s.die r.die).patch.expansion o f u.eng = some x → ∃ ts, x = .done ts) →
    exec (o.instr r f) s = .next t → t.lve? r = some u' → u'.eng.window.wf = true ∧ (u.eng.lmodLegal → u'.eng.lmodLegal)

/-! ### Life-cycle burning, test access, measurement, management port -/

/-- R482: a bit of a running transition is burned on every reachable die and counted; the last bit completes the transition with RESULT 1, to take effect at
the reset that follows (0x7001 is recorded, and SCRAPPED overwrites the fuses); a bit that does not burn on one die abandons it with RESULT 2 and MACHINE_CHECK;
LC_RESET_TIMER performs the reset of a completed one.
Choices of the model that it rests on: log entry 80. -/
def Obligations.LifeCycleBurning : Prop :=
  ∀ (s : State) (t : Transition) (p : Nat) (rest : List Nat), s.lcc.xfer = some t → t.left = p :: rest → t.phase = 2 →
    let burned := fun (but : Option Nat) => { s with dies := s.dies.mapIdx (fun e (x : Die) =>
      if x.reachable ∧ but ≠ some e then { x with fuses := { x.fuses with lc := x.fuses.lc ||| BitVec.ofNat 64 (2 ^ p) } } else x) }
    let shown := fun (n : Nat) (l : Lcc) =>
      ({ (burned none).count 0 LCC 0 0x11C n with lcc := l } : State).progress 0 LCC 0 (t.done + 1) (1000 * (t.done + 1) / max 1 t.total)
    let next : Transition := { t with left := rest, done := t.done + 1 }
    (s.lcc.deferred = none → s.lcc.stop = none → rest ≠ [] → ∀ n,
      exec (.lcBitBurned n) s = .next (settle (shown n { s.lcc with xfer := some next }))) ∧
    (s.lcc.deferred = none → s.lcc.stop = none → rest = [] → ∀ n, exec (.lcBitBurned n) s =
      let u := shown n { s.lcc with xfer := some next }
      let v := if t.target = 6 then u.allDies (fun x => { x with fuses := x.fuses.scrap }) else u
      .next (settle (((({ v with lcc := { v.lcc with xfer := some { next with phase := 3, left := [], job := none }, result := 1 } } : State).event 0 LCC 0 0).endTransitionJob
        next stOk).offer { Offer.of 1 0 0x7001 t.target with digestOf := [BitVec.ofNat 8 u.lc, BitVec.ofNat 8 t.target] }))) ∧
    (∀ d, exec (.burnFail d) s = .next (settle (({ ((burned (some d)).count d LCC 0 0x11C 3).event d LCC 0 1 with
      lcc := { s.lcc with xfer := none, result := 2, stop := none } } : State).endTransitionJob t stMachineCheck))) ∧
    exec .lcResetTimer { s with lcc := { s.lcc with xfer := some { t with phase := 3 } } } =
      .next (settle (State.warmReset { s with lcc := { s.lcc with xfer := some { t with phase := 3 } } } 6))

/-- R496 and R497: the test instructions. BYPASS, SAMPLE/PRELOAD and IDCODE touch nothing but the TAP, IDCODE shifts the part out; a boundary instruction gates every
key bus and holds the host link down, unless the package is BLANK or TESTED; an internal instruction can burn the fuses of a BLANK die only;
Test-Logic-Reset leaves IDCODE and ends a boundary hold with a WARM reset.
Choices of the model that it rests on: log entry 3. -/
def Obligations.TestAccess : Prop :=
  ∀ (s : State) (d : Nat),
    let load := fun (ir : TapIr) => s.modDie d (fun x => { x with tap := ir })
    let held := fun (ir : TapIr) =>
      { (load ir).allDies (fun x => { x with tmn := { x.tmn with gated := true } }) with
        pkg := { s.pkg with boundary := true }, hif := { s.hif with link := .detect } }
    exec (.tapBypass d) s = .next (settle (load 0xFF)) ∧
    exec (.tapSamplePreload d) s = .next (settle (load 0x02)) ∧
    exec (.tapIdcode d) s = .next (settle ((load 0x01).send (.tap d
      (Config.stepping.toNat % 16 * 2 ^ 28 + s.part.number * 2 ^ 12 + Config.jep106.toNat * 2 + 1)))) ∧
    (s.lc = 0 ∨ s.lc = 1 → exec (.tapExtest d) s = .next (settle (load 0x00)) ∧ exec (.tapClamp d) s = .next (settle (load 0x03)) ∧
      exec (.tapHighz d) s = .next (settle (load 0x04))) ∧
    (s.lc ≠ 0 → s.lc ≠ 1 →
      exec (.tapExtest d) s = .next (settle (held 0x00)) ∧ exec (.tapClamp d) s = .next (settle (held 0x03)) ∧
      exec (.tapHighz d) s = .next (settle (held 0x04))) ∧
    (∀ (op : Byte) (i : FuseImage), 0x80 ≤ op.toNat → op.toNat ≤ 0xFE → d < s.dies.length →
      exec (.tapInternal d op none) s = .next (settle (load op)) ∧
      ((s.die d).fuses.lc = lcWord 0 → exec (.tapInternal d op (some i)) s = .next (settle ((load op).modDie d (fun x => { x with fuses := x.fuses.test i })))) ∧
      ((s.die d).fuses.lc ≠ lcWord 0 → exec (.tapInternal d op (some i)) s = .next (settle (load op)))) ∧
    (s.pkg.boundary = false → exec .testLogicReset s = .next (settle (s.allDies (fun x => { x with tap := 1 })))) ∧
    (s.pkg.boundary = true → exec .testLogicReset s = .next (settle ((s.allDies (fun x => { x with tap := 1 })).warmSource 5)))

/-- R315 and R316: the measurement commands. OPEN starts a fresh measurement; RANGE in an open measurement whose last range is complete hashes the range's bytes
in the order of the stream; CLOSE leaves the SHA-384 digest of all bytes hashed; ABORT clears the digest; a command out of order is refused with its result code and counted.
Choices of the model that it rests on: log entry 4. -/
def Obligations.MeasurementHasher : Prop :=
  ∀ (s : State) (d : Nat), d < s.dies.length →
    let m := (s.die d).mha
    let put := fun (t : State) (m' : Mha) => t.modDie d (fun x => { x with mha := m' })
    (m.state ≠ .open_ → exec (.mhaOpen d) s = .next (settle (put s ⟨.open_, 0, [], 0, 0, 0, []⟩))) ∧
    (m.state = .open_ → exec (.mhaOpen d) s = .next (settle ((put s { m with result := 1 }).count d MHA 0 0x114))) ∧
    (m.state = .open_ → m.nextAddr = m.rangeEnd → ∀ base len (bs : List Byte), bs.length ≤ len →
      exec (.mhaRange d base len (bs.zipIdx.map (fun p => (base + p.2, p.1)))) s =
        .next (settle (put ((s.setReg d MHA 0 0x104 (BitVec.ofNat 32 base)).setReg d MHA 0 0x108 (BitVec.ofNat 32 len))
          { m with result := 0, rangeEnd := base + len, nextAddr := base + bs.length, ranges := min 0xFFFF (m.ranges + 1), msg := m.msg ++ bs }))) ∧
    (m.state = .open_ → exec (.mhaClose d) s = .next (settle ((put s { m with state := .done, result := 0, digest := sha384 m.msg }).event d MHA 0 0))) ∧
    (m.state ≠ .open_ → exec (.mhaClose d) s = .next (settle ((put s { m with result := 2 }).count d MHA 0 0x114))) ∧
    (m.state = .open_ → exec (.mhaAbort d) s = .next (settle ((put s { m with state := .error, result := 4, digest := [] }).event d MHA 0 1)))

/-- R509: while the port is up every read command is answered with its bytes and counted; otherwise it is not acknowledged.
Choices of the model that it rests on: log entry 95. -/
def Obligations.ManagementPort : Prop :=
  ∀ (s : State),
    let answers := fun (c : Instr) (bs : List Byte) =>
      (s.pkg.pwrgood = true → exec c s = .next (settle ((s.send (.smbus bs)).count 0 MGI 0 0x108))) ∧
      (s.pkg.pwrgood = false → exec c s = .next (settle (s.send .nack)))
    answers .smbVersion [0x01, Config.stepping] ∧
    answers .smbState (leBytes 2 s.stateNow.toNat) ∧
    answers .smbMaxTemp (leBytes 2 s.maxTemp.toNat) ∧
    (∃ bs : List Byte, answers .smbDieTemps bs ∧ bs.length = 8 ∧ ∀ d, d < 8 → ∃ b, bs[d]? = some b ∧
      (s.dies.length ≤ d → b = 0x80) ∧
      (∀ x, s.dies[d]? = some x → (x.reachable = false ∨ x.tmn.temp = none → b = 0x80) ∧
        ∀ t, x.reachable = true → x.tmn.temp = some t → t.toInt % 4 = 0 → b = BitVec.ofInt 8 (t.toInt / 4))) ∧
    answers .smbFaults (leBytes 2 (min 255 s.pkg.severes +
      256 * (if s.pkg.lock then (if s.pkg.erased then 3 else 2) else if s.dies.any (fun x => x.tmn.throttle) then 1 else 0))) ∧
    answers .smbDieUid (leBytes 8 (s.die 0).fuses.uid.toNat) ∧
    answers .smbBoot (leBytes 2 ((s.die 0).boot.step % 16 + 16 * ((s.die 0).boot.failed % 16) + 256 * ((s.die 0).boot.reason % 256))) ∧
    (s.pkg.pwrgood = true → s.pkg.alertLow = true → exec .smbAlertResponse s =
      .next (settle ((({ s with pkg := { s.pkg with alertLow := false } } : State).send (.smbus [0x5A])).count 0 MGI 0 0x108))) ∧
    (s.pkg.pwrgood = false ∨ s.pkg.alertLow = false → exec .smbAlertResponse s = .next (settle (s.send .nack))) ∧
    (s.pkg.pwrgood = true → exec (.smbusWrite true) s = .next (settle (s.count 0 MGI 0 0x10C)) ∧ exec .smbusTimeout s = .next (settle (s.count 0 MGI 0 0x110))) ∧
    exec (.smbusWrite false) s = .next (settle s)

/-! ### The operations of the engines -/

/-- R84, R85, R251, R254, R262 and R277: key encapsulation. KEYGEN writes the blob and the public key of the seed drawn for it; an attempt of a Classic McEliece KEYGEN that
fails leaves ACCEPT at 0; ENCAPS writes ciphertext and shared secret of the bytes staged for it; ENCAPS (EXT) refuses an ML-KEM key with an unreduced coefficient; DECAPS ends with
OK for every ciphertext, and leaves a clear release word where no fault has struck. RUN starts the loaded program of its job.
R86 to R89, R167, R168, R263 to R273: signatures. A candidate that FIPS 204 rejects leaves ACCEPT at 0. A verification ends with OK or VERIFY_FAIL as the signature at the end of IN
verifies, under the key named or the one AUX begins with. A stateful key takes the lowest free counter record with NEXT = 0; each signature uses the leaf assigned and reports the
leaves left, the last one with STATEFUL_LAST; REMAINING writes END - NEXT.
Choices of the model that it rests on: log entries 5, 6, 20, 22, 23, 27, 59, 63, 139. -/
def Obligations.LveOperations : Prop :=
  (∀ (s : State) (j : JobRef) (x : Job),
    let p := x.sqe.ps
    let seed := s.seedOf j.die x
    let at2 := fun (k : Nat) => (s.jobStep j.die j.job 1 4).jobRepeat j.die j.job 2 4 k (mceExpected10 p)
    let done := fun (u : State) (w : Nat) => u.passDone j.die x true w
    (∀ parent, OpRuns s j 0x1001 x → isMceliece p = false → s.jobParent j.die x = some parent →
      let pub := fit (x.sqe.pubLen 0) (kemPub p seed)
      Creates (.kemKeygen j) s (done s 0) j x seed pub (entryOfPub 1 p pub)) ∧
    (OpRuns s j 0x1001 x → isMceliece p = true →
      let r := s.passOf j.die x
      ((mceSet p).attempt ((mceSet p).deltaAt seed r) = none → exec (.kemKeygen j) s = .next (settle ((at2 r).passDone j.die x false 0))) ∧
      (∀ parent sk pub, s.jobParent j.die x = some parent → (mceSet p).attempt ((mceSet p).deltaAt seed r) = some (sk, pub) →
        Creates (.kemKeygen j) s (done (((at2 (r - 1)).jobStep j.die j.job 3 4).jobStep j.die j.job 4 4) 0) j x (sk ++ sha3256 pub) pub pub)) ∧
    (∀ z, kemSizes p = some z →
      let seals := fun (c : Instr) (ek : List Byte) => ∃ ct k : List Byte, ct.length = z.2.1 ∧ k.length = z.2.2.1 ∧
        ct = fit z.2.1 (kemEncap p ek (s.stagedRandom j.die x)).1 ∧ k = fit z.2.2.1 (kemEncap p ek (s.stagedRandom j.die x)).2 ∧
        Answers c s (done s (encapRelease p ek (s.stagedRandom j.die x))) j stOk 0 (ct ++ k)
      let ek := x.data.auxData.take z.1
      (OpRuns s j 0x1002 x → seals (.kemEncaps j) (fit z.1 (if isMceliece p then s.entryBytes j.die x else kemPub p (s.jobSecret j.die x)))) ∧
      (OpRuns s j 0x1802 x → 3 < p ∨ kemKeyOk ek = true → seals (.kemEncapsExt j) ek) ∧
      (OpRuns s j 0x1802 x → p ≤ 3 → kemKeyOk ek = false → Answers (.kemEncapsExt j) s (done s 0) j stEncoding 0 []) ∧
      (OpRuns s j 0x1003 x → ∃ (k : List Byte) (w : Nat), k.length = z.2.2.1 ∧
        k = fit z.2.2.1 (kemDecap p (kemSecret p (s.jobSecret j.die x)) (s.entryBytes j.die x) x.data.inData) ∧
        ((p ≤ 3 ∨ isMceliece p = true) → s.hitOf j.die x = none → w = 0) ∧ Answers (.kemDecaps j) s (done s w) j stOk 0 k)) ∧
    (∀ e u, OpRuns s j 0x8001 x → x.engine = .lve e → (s.die j.die).lves[e]? = some u → u.eng.phase = .loading → u.eng.job = some j.job →
      exec (.runProgram j) s = .next (settle (s.modDie j.die (fun y => { y with lves := y.lves.set e { u with eng := { u.eng with phase := .running } } }))))) ∧
  (∀ (s : State) (j : JobRef) (x : Job),
    let p := x.sqe.ps
    let seed := s.seedOf j.die x
    let sk := s.jobSecret j.die x
    let msg := sigMessage x.data.auxData x.sqe.preHash x.data.inData
    let rnd := s.sigRand j.die x sk
    let r := s.passOf j.die x
    let done := fun (u : State) (w : Nat) => u.passDone j.die x true w
    (∀ parent, OpRuns s j 0x2001 x → s.jobParent j.die x = some parent →
      let key := if p ≤ 3 then seed else slhKey p seed
      let pub := fit (x.sqe.pubLen 0) (sigPub p key)
      Creates (.sigKeygen j) s (done (if 0x11 ≤ p then s.jobSteps j.die j.job 2 else s) 0) j x key pub (if p ≤ 3 then entryOfPub 2 p pub else slhEntry p key)) ∧
    (∀ z, sigSizes p = some z →
      (OpRuns s j 0x2002 x → p ≤ 3 →
        let t := mldsaPass p sk msg rnd r
        ∃ w, (t.rejected = true → exec (.sigSign j) s = .next (settle (s.passDone j.die x false w).drawn)) ∧
          (t.rejected = false → ∃ sig : List Byte, sig.length = z.2.1 ∧ sig = fit z.2.1 (t.bytes (dsaSet p)) ∧
            Answers (.sigSign j) s (done s w) j stOk (BitVec.ofNat 32 r) sig)) ∧
      (OpRuns s j 0x2002 x → 3 < p → ∃ (w : Nat) (sig : List Byte), sig.length = z.2.1 ∧ sig = fit z.2.1 (slhRun p sk msg rnd).sig ∧
        Answers (.sigSign j) s (done (s.jobSteps j.die j.job (slhLayers p + 1)) w) j stOk 0 sig) ∧
      (OpRuns s j 0x2003 x → ∀ m sig, x.data.inData = m ++ sig → sig.length = z.2.1 →
        Answers (.sigVerify j) s (done s 0) j
          (if sigVerify p (fit z.1 (sigPub p sk)) x.data.auxData x.sqe.preHash m sig then stOk else stVerifyFail) 0 []) ∧
      (OpRuns s j 0x2803 x → ∀ m sig pk ctx, x.data.inData = m ++ sig → sig.length = z.2.1 → x.data.auxData = pk ++ ctx → pk.length = z.1 →
        Answers (.sigVerifyExt j) s (done s 0) j (if sigVerify p pk ctx x.sqe.preHash m sig then stOk else stVerifyFail) 0 [])) ∧
    (∀ t, stf? p = some t →
      (∀ parent i, OpRuns s j 0x3001 x → s.jobParent j.die x = some parent → s.counterFull x.src.inst = false →
        (∀ k, k < i → Assoc.get? s.bbram.counters k ≠ none) → i < 256 → Assoc.get? s.bbram.counters i = none →
        let levels := x.sqe.par 32 4
        Creates (.statefulKeygen j) s ((done (s.jobSteps j.die j.job (min 1024 (2 ^ t.h))) 0).takeCounter i ⟨keyIdOf p levels seed, x.src.inst, 0, t.leaves levels⟩) j x
          seed (fit (t.pub levels) (stfPub p levels seed)) (stfEntry p levels seed 0)) ∧
      (OpRuns s j 0x3001 x → s.counterFull x.src.inst = true → Answers (.statefulKeygen j) s s j stCounterQuota 0 []) ∧
      (∀ k c leaf, OpRuns s j 0x3002 x → s.jobKey j.die x 0 = some k → x.data.leaf = some leaf →
        Assoc.get? s.bbram.counters k.hdr.counter.toNat = some c → leaf < c.stop → c.stop - leaf ≤ 2 ^ 32 →
        let levels := s.stfLevels t k
        ∃ (w : Nat) (sig : List Byte), sig.length = t.sig levels ∧ sig = fit (t.sig levels) (stfSign p levels k.payload leaf x.data.inData) ∧
          Answers (.statefulSign j) s (done s w) j (if leaf + 1 = c.stop then stStatefulLast else stOk) (BitVec.ofNat 32 (c.stop - leaf - 1)) sig) ∧
      (∀ k m sig, OpRuns s j 0x3003 x → s.jobKey j.die x 0 = some k → x.data.inData = m ++ sig → m.length = x.sqe.par 0 32 →
        let levels := s.stfLevels t k
        Answers (.statefulVerify j) s (done s 0) j
          (if (stfCheck p levels (fit (t.pub levels) (stfPub p levels k.payload)) m sig).1 then stOk else stVerifyFail) 0 []) ∧
      (∀ m sig, OpRuns s j 0x3803 x → x.data.inData = m ++ sig → m.length = x.sqe.par 0 32 →
        Answers (.statefulVerifyExt j) s (done s 0) j
          (if (stfCheck p (t.pubLevels x.data.auxData) x.data.auxData m sig).1 then stOk else stVerifyFail) 0 [])) ∧
    (∀ k c, OpRuns s j 0x3004 x → s.jobKey j.die x 0 = some k → Assoc.get? s.bbram.counters k.hdr.counter.toNat = some c → c.keyId = s.keyId k →
      exec (.remaining j) s = .next (settle (s.endOp j.die j.job stOk 0 0 (leBytes 8 (c.stop - c.next))))))

/-- R90, R104, R290 and R291: elliptic-curve operations. Among several bad inputs the status is the first of ENCODING_INVALID, OPERAND_RANGE, POINT_INVALID, and within
one the lowest operand index: the point of AUX (1), r (2), s (3), the result (4), the private scalar (5). With good inputs a signature is r ‖ s, a verification ends
with OK or VERIFY_FAIL, an agreement writes the shared x-coordinate, or the X25519 or X448 result.
Choices of the model that it rests on: log entries 7, 117. -/
def Obligations.EcOperations : Prop :=
  ∀ (s : State) (j : JobRef) (x : Job),
    let c := x.weier
    let e := x.sqe
    let dk := s.scalar j.die x
    let integers := fun (r t : Nat) (q : EcPoint) (rest : W16 × W32) (m : List Byte) =>
      if r = 0 ∨ c.n ≤ r then ((stOperandRange, 2) : W16 × W32) else if t = 0 ∨ c.n ≤ t then (stOperandRange, 3)
      else if rest.1 ≠ stOk then rest else if c.verify q (digestInt c (e.digest m)) r t then (stOk, 0) else (stVerifyFail, 0)
    let point := fun (b : List Byte) => (beNat (slice b 1 c.len), beNat (slice b (1 + c.len) c.len))
    let on := fun (p : Nat × Nat) => c.on p.1 p.2 = true ∧ (p.1 ≠ 0 ∨ p.2 ≠ 0)
    (∀ parent, OpRuns s j 0x4001 x → s.jobParent j.die x = some parent →
      ∃ key : List Byte, key.length = x.curveBytes ∧
        Creates (.ecKeygen j) s s j x (if isSlotCurve e.ps then sha3256 x.data.entry ++ key else key) (ecPublic e.ps c key) []) ∧
    (OpRuns s j 0x4002 x →
      (dk % c.n = 0 → Answers (.ecdsaSign j) s s j stOperandRange 5 []) ∧
      (dk % c.n ≠ 0 → ∃ k, (bit e.param 5 = true → k = c.nonce e.hashCode dk (e.digest x.data.inData)) ∧ (bit e.param 5 = false → 1 ≤ k ∧ (2 ≤ c.n → k < c.n)) ∧
        Answers (.ecdsaSign j) s s j stOk 0
          (beBytes c.len (c.sign dk k (digestInt c (e.digest x.data.inData))).1 ++ beBytes c.len (c.sign dk k (digestInt c (e.digest x.data.inData))).2))) ∧
    (OpRuns s j 0x4003 x → ∀ m r t, x.data.inData = m ++ r ++ t → r.length = c.len → t.length = c.len →
      let q := c.mul dk c.g
      let v := integers (beNat r) (beNat t) q (if q = none then (stPointInvalid, 1) else (stOk, 0)) m
      Answers (.ecdsaVerify j) s s j v.1 v.2 []) ∧
    (OpRuns s j 0x4803 x → ∀ m r t, x.data.inData = m ++ r ++ t → r.length = c.len → t.length = c.len →
      let b := x.data.auxData
      let p := point b
      (b.getD 0 0 ≠ 0x04#8 → Answers (.ecdsaVerifyExt j) s s j stEncoding 0 []) ∧
      (b.getD 0 0 = 0x04#8 → c.p ≤ p.1 ∨ c.p ≤ p.2 → Answers (.ecdsaVerifyExt j) s s j stOperandRange 1 []) ∧
      (b.getD 0 0 = 0x04#8 → p.1 < c.p → p.2 < c.p →
        (∀ v, v = integers (beNat r) (beNat t) (some p) (stPointInvalid, 1) m → ¬ on p → Answers (.ecdsaVerifyExt j) s s j v.1 v.2 []) ∧
        (∀ v, v = integers (beNat r) (beNat t) (some p) (stOk, 0) m → on p → Answers (.ecdsaVerifyExt j) s s j v.1 v.2 []))) ∧
    (OpRuns s j 0x4004 x →
      (e.ps = 4 ∨ e.ps = 5 →
        let z := (montOf e.ps).apply (s.jobSecret j.die x) x.data.inData
        ((∀ b ∈ z, b = 0) → Answers (.keyAgree j) s s j stPointInvalid 4 []) ∧ ((∃ b ∈ z, b ≠ 0) → Answers (.keyAgree j) s s j stOk 0 z)) ∧
      (e.ps ≠ 4 → e.ps ≠ 5 →
        let b := x.data.inData
        let p := point b
        (b.getD 0 0 ≠ 0x04#8 → Answers (.keyAgree j) s s j stEncoding 0 []) ∧
        (b.getD 0 0 = 0x04#8 → c.p ≤ p.1 ∨ c.p ≤ p.2 → Answers (.keyAgree j) s s j stOperandRange 2 []) ∧
        (b.getD 0 0 = 0x04#8 → p.1 < c.p → p.2 < c.p → dk % c.n = 0 → Answers (.keyAgree j) s s j stOperandRange 5 []) ∧
        (b.getD 0 0 = 0x04#8 → p.1 < c.p → p.2 < c.p → dk % c.n ≠ 0 → ¬ on p → Answers (.keyAgree j) s s j stPointInvalid 2 []) ∧
        (b.getD 0 0 = 0x04#8 → p.1 < c.p → p.2 < c.p → dk % c.n ≠ 0 → on p → c.mul (c.h * dk) (some p) = none → Answers (.keyAgree j) s s j stPointInvalid 4 []) ∧
        (∀ a y, b.getD 0 0 = 0x04#8 → p.1 < c.p → p.2 < c.p → dk % c.n ≠ 0 → on p → c.mul (c.h * dk) (some p) = some (a, y) →
          Answers (.keyAgree j) s s j stOk 0 (beBytes c.len a)))) ∧
    (OpRuns s j 0x4005 x → Answers (.eddsaSign j) s s j stOk 0 ((edOf e.ps).sign e.prehashed (s.jobSecret j.die x) x.data.auxData x.data.inData)) ∧
    (OpRuns s j 0x4006 x → ∀ m sig, x.data.inData = m ++ sig → sig.length = e.sigLen 0 → Answers (.eddsaVerify j) s s j
      (if (edOf e.ps).verify e.prehashed ((edOf e.ps).pub (s.jobSecret j.die x)) x.data.auxData m sig then stOk else stVerifyFail) 0 []) ∧
    (OpRuns s j 0x4806 x → ∀ m sig pk ctx, x.data.inData = m ++ sig → sig.length = e.sigLen 0 → x.data.auxData = pk ++ ctx → pk.length = curveLen e.ps →
      Answers (.eddsaVerifyExt j) s s j (if (edOf e.ps).verify e.prehashed pk ctx m sig then stOk else stVerifyFail) 0 [])

/-- R92 and R297: CURVE_LOAD ends at the first check that fails, with its status and DETAIL; a record that passes every check, and for which every die has room, is in
the slot at once, and no other curve changes; CURVE_UNLOAD empties the slot, CURVE_NOT_LOADED where it is empty.
R91, R104, R290, R291 and R299: RSA. A signature or ciphertext not below n ends with OPERAND_RANGE, the public key of AUX with n even or short or e even or below 3
with ENCODING_INVALID at its offset, a blinding value that shares a factor with n with NOT_INVERTIBLE 6; otherwise the operation ends with its own status. KEYGEN tries up
to 65,536 candidates for each prime.
Choices of the model that it rests on: log entries 8, 45, 46. -/
def Obligations.CurveAndRsaOperations : Prop :=
  (∀ (s : State) (j : JobRef) (x : Job),
    let n := x.src.inst
    let slot := x.sqe.par 16 2
    let failure := curveFail (curveOf x.data.inData ((x.sqe.fieldBits + 7) / 8)) x.sqe.fieldBits s.freeCtr
    let loaded : CurveRec := ⟨x.sqe.fieldBits, x.data.inData⟩
    let u : State := { s with freeCtr := s.freeCtr + 128 }
    let steps := fun (t : State) (k : Nat) => (List.range k).foldl (fun (t : State) i => t.jobStep j.die j.job (i + 1) 7) t
    (OpRuns s j 0x4007 x →
      (∀ f, failure = some f → Answers (.curveLoad j) s (steps u f.1) j f.2.1 (BitVec.ofNat 32 f.2.2) []) ∧
      (∀ t, failure = none → u.curveRoom n slot loaded = some t →
        Answers (.curveLoad j) s (steps (t.modInst n (fun i => { i with curves := Assoc.set i.curves slot loaded })) 7) j stOk 0 []) ∧
      (failure = none → u.curveRoom n slot loaded = none →
        Answers (.curveLoad j) s ((steps u 7).event j.die KPC 0 0) j stKpcQuota (BitVec.ofNat 32 (curveUnits loaded * 4096)) [])) ∧
    (OpRuns s j 0x4008 x →
      (∀ r, Assoc.get? (s.inst n).curves slot = some r →
        Answers (.curveUnload j) s (s.modInst n (fun i => { i with curves := Assoc.erase i.curves slot })) j stOk 0 []) ∧
      (Assoc.get? (s.inst n).curves slot = none → Answers (.curveUnload j) s s j stCurveNotLoaded (BitVec.ofNat 32 slot) []))) ∧
  (∀ (s : State) (j : JobRef) (x : Job),
    let e := x.sqe
    let k := e.rsaK
    let key := s.rsaKey j.die x
    let u := if 3 ≤ rsaCol k then s.jobSteps j.die j.job 3 else s
    let blinded := fun (c : Instr) (st : W16) (out : List Byte) => ∃ r, Answers c s u j (if Nat.gcd r key.n = 1 then st else stNotInvertible)
      (if Nat.gcd r key.n = 1 then 0 else 6) (if Nat.gcd r key.n = 1 then out else [])
    let keyError := fun (c : Instr) (ok : Prop) =>
      (x.rsaPub.1 % 2 = 0 ∨ x.rsaPub.1 < 2 ^ (8 * k - 1) → Answers c s s j stEncoding 0 []) ∧
      (x.rsaPub.1 % 2 = 1 → 2 ^ (8 * k - 1) ≤ x.rsaPub.1 → x.rsaPub.2 % 2 = 0 ∨ x.rsaPub.2 < 3 → Answers c s s j stEncoding (BitVec.ofNat 32 k) []) ∧
      (x.rsaPub.1 % 2 = 1 → 2 ^ (8 * k - 1) ≤ x.rsaPub.1 → x.rsaPub.2 % 2 = 1 → 3 ≤ x.rsaPub.2 → ok)
    let verdict := fun (c : Instr) (n ex : Nat) (m sig : List Byte) =>
      let em := beBytes k (modExp (beNat sig) ex n)
      let h := e.digest m
      let good := if bit e.param 6 then pssOk e.hashCode k (e.par 8 8) h em = true else em = emsaV15 e.hashCode k h
      (n ≤ beNat sig → Answers c s s j stOperandRange 2 []) ∧ (beNat sig < n → good → Answers c s s j stOk 0 []) ∧
        (beNat sig < n → ¬ good → Answers c s s j stVerifyFail 0 [])
    let seals := fun (c : Instr) (n ex : Nat) (label : List Byte) => ∃ seed : List Byte, seed.length = (hashLen? e.hashCode).getD 32 ∧
      Answers c s s j stOk 0 (beBytes k (modExp (beNat (oaepEncode e.hashCode k label seed x.data.inData)) ex n))
    (∀ parent p q, OpRuns s j 0x4010 x → s.jobParent j.die x = some parent →
      findPrime 65536 (s.freeCtr + 1) (k / 2) (if e.par 32 32 = 0 then 65537 else e.par 32 32) none 0 = some p →
      findPrime 65536 p.2.2 (k / 2) (if e.par 32 32 = 0 then 65537 else e.par 32 32) (some p.1) 0 = some q →
      let made := rsaKeyOf p.1 q.1 (if e.par 32 32 = 0 then 65537 else e.par 32 32)
      Creates (.rsaKeygen j) s ((((((s.rsaTried j.die j.job (k / 2) 1 p.2.1).rsaTried j.die j.job (k / 2) 2 q.2.1).jobStep j.die j.job 3 5).jobStep j.die j.job 4 5).jobStep
        j.die j.job 5 5)) j x (made.bytes (k / 2)) (made.pub (k / 2)) []) ∧
    (∀ p, OpRuns s j 0x4010 x →
      findPrime 65536 (s.freeCtr + 1) (k / 2) (if e.par 32 32 = 0 then 65537 else e.par 32 32) none 0 = some p →
      findPrime 65536 p.2.2 (k / 2) (if e.par 32 32 = 0 then 65537 else e.par 32 32) (some p.1) 0 = none →
      Answers (.rsaKeygen j) s ((s.rsaTried j.die j.job (k / 2) 1 p.2.1).rsaTried j.die j.job (k / 2) 2 65536) j stKeygenLimit 0 []) ∧
    (OpRuns s j 0x4010 x → findPrime 65536 (s.freeCtr + 1) (k / 2) (if e.par 32 32 = 0 then 65537 else e.par 32 32) none 0 = none →
      Answers (.rsaKeygen j) s (s.rsaTried j.die j.job (k / 2) 1 65536) j stKeygenLimit 0 []) ∧
    (OpRuns s j 0x4011 x →
      ∃ salt : List Byte, salt.length = e.par 8 8 ∧ blinded (.rsaSign j) stOk (beBytes k (key.priv (beNat
        (if bit e.param 6 then emsaPss e.hashCode k (e.digest x.data.inData) salt else emsaV15 e.hashCode k (e.digest x.data.inData)))))) ∧
    (OpRuns s j 0x4012 x → ∀ m sig, x.data.inData = m ++ sig → sig.length = k → verdict (.rsaVerify j) key.n key.e m sig) ∧
    (OpRuns s j 0x4812 x → ∀ m sig, x.data.inData = m ++ sig → sig.length = k → keyError (.rsaVerifyExt j) (verdict (.rsaVerifyExt j) x.rsaPub.1 x.rsaPub.2 m sig)) ∧
    (OpRuns s j 0x4013 x → seals (.rsaEncrypt j) key.n key.e x.data.auxData) ∧
    (OpRuns s j 0x4813 x → keyError (.rsaEncryptExt j) (seals (.rsaEncryptExt j) x.rsaPub.1 x.rsaPub.2 (x.data.auxData.drop (k + 4)))) ∧
    (OpRuns s j 0x4014 x →
      (key.n ≤ beNat x.data.inData → Answers (.rsaDecrypt j) s u j stOperandRange 2 []) ∧
      (beNat x.data.inData < key.n →
        let r := oaepDecode e.hashCode x.data.auxData (beBytes k (key.priv (beNat x.data.inData)))
        blinded (.rsaDecrypt j) (if r = none then stDecryptError else stOk) (r.getD []))))

/-- R93 to R95, R104 and R315: symmetric operations, once all input is staged. ENCRYPT writes the ciphertext of its mode, with GEN_IV the drawn IV before it; DECRYPT
ends with TAG_MISMATCH where its mode does not authenticate, and then only a GCM plaintext of more than 64 KiB has been written; a MAC is verified against the end of
AUX; HASH writes the digest of its PSET.
Choices of the model that it rests on: log entries 4, 39, 47. -/
def Obligations.SymmetricOperations : Prop :=
  ∀ (s : State) (j : JobRef) (x : Job), x.data.inData.length = x.sqe.inLen.toNat →
    let e := x.sqe
    let key := s.jobSecret j.die x
    let msg := x.data.inData
    let aux := x.data.auxData
    (OpRuns s j 0x5001 x →
      (∃ iv : List Byte, iv.length = 12 ∧ Answers (.encrypt j) s s j stOk 0 (symSeal e key aux msg iv)) ∧
      (e.mode = 1 → Answers (.encrypt j) s s j stOk 0 (cbcEnc key aux msg)) ∧ (e.mode = 2 → Answers (.encrypt j) s s j stOk 0 (ctrMode key aux msg)) ∧
      (e.mode = 4 → Answers (.encrypt j) s s j stOk 0 (xtsMode true key aux msg)) ∧ (e.mode = 5 → Answers (.encrypt j) s s j stOk 0 (kwWrap key msg)) ∧
      (e.mode = 6 → Answers (.encrypt j) s s j stOk 0 (kwpWrap key msg)) ∧
      (e.mode = 3 → bit e.param 0 = true → ∃ iv : List Byte, iv.length = 12 ∧
        Answers (.encrypt j) s s j stOk 0 (iv ++ ((gcmSeal key iv aux msg).1 ++ (gcmSeal key iv aux msg).2.take e.tagLen)))) ∧
    (OpRuns s j 0x5002 x →
      (∀ pt, symOpen e key aux msg = some pt → Answers (.decrypt j) s s j stOk 0 pt) ∧
      (symOpen e key aux msg = none → e.mode ≠ 3 ∨ e.symLenIn ≤ 65536 → Answers (.decrypt j) s s j stTagMismatch 0 []) ∧
      (symOpen e key aux msg = none → e.mode = 3 → 65536 < e.symLenIn →
        Answers (.decrypt j) s s j stTagMismatch 0 (gctr (roundKeys key) (aux.take 12) 2 (msg.take e.symLenIn)))) ∧
    (OpRuns s j 0x5003 x → Answers (.macGenerate j) s s j stOk 0 (macOf e key aux msg)) ∧
    (OpRuns s j 0x5004 x → ∀ md tag, aux = md ++ tag → tag.length = e.tagLen →
      (tag = macOf e key md msg → Answers (.macVerify j) s s j stOk 0 []) ∧ (tag ≠ macOf e key md msg → Answers (.macVerify j) s s j stVerifyFail 0 [])) ∧
    (OpRuns s j 0x5005 x → Answers (.hash j) s s j stOk 0 (hashPset e msg))

/-- R97 and R318 to R322: the generator. A request of at most 65,536 bytes counts; after 2^20 requests a reseed takes a block of the pool and counts; a job that asks for
fresh entropy during a recovery, and any job of a disabled generator, ends with RNG_FAIL; the feed gives 64 bytes to the next buffer below its 4 KiB in round robin and
reseeds after 8 MiB; a failed health test empties the pool and counts by its kind, and passing the start-up tests resumes service.
Choices of the model that it rests on: log entries 5, 43. -/
def Obligations.RandomGenerator : Prop :=
  ∀ (s : State) (d : Nat), d < s.dies.length →
    let r := (s.die d).rng
    let put := fun (t : State) (r' : Rng) => t.modDie d (fun y => { y with rng := r' })
    let fresh := (put s { r with pool := r.pool - 1, reqs := 0 }).count d RNG 0 0x10C
    (∀ j x, j.die = d → OpRuns s j 0x7001 x → let t := x.sqe.drbgTime
      (r.asked (bit x.sqe.param 32) = .fails → Ends (.random j) s s j stRngFail 0 t []) ∧
      (r.asked (bit x.sqe.param 32) = .serves → bit x.sqe.param 32 = false → ∃ out : List Byte, out.length = x.sqe.par 0 32 ∧
        Ends (.random j) s (put s { r with reqs := r.reqs + 1 }) j stOk 0 t out) ∧
      (r.asked true = .serves → bit x.sqe.param 32 = true → 1 ≤ r.pool → ∃ out : List Byte, out.length = x.sqe.par 0 32 ∧
        Ends (.random j) s (fresh.countDraw d) j stOk 0 t out)) ∧
    (∀ j x, j.die = d → OpRuns s j 0x7002 x → let t := x.sqe.drbgTime
      (r.disabled = true ∨ r.drbgReady = false ∨ r.recovering = true → Ends (.reseed j) s s j stRngFail 0 t []) ∧
      (r.disabled = false → r.drbgReady = true → r.recovering = false → 1 ≤ r.pool → Ends (.reseed j) s fresh j stOk 0 t [])) ∧
    (r.noiseOk = true → r.recovering = false → r.disabled = false → r.pool < 4 →
      exec (.conditioningDone d) s = .next (settle (put s { r with pool := r.pool + 1 }))) ∧
    (∀ n, 1 ≤ n → n ≤ 65536 → r.disabled = false → r.drbgReady = true → r.reqs < 2 ^ 20 →
      exec (.drbgRequest d n) s = .next (settle (put s { r with reqs := r.reqs + 1 }).drawn)) ∧
    (r.drbgReady = true → r.disabled = false → r.recovering = false → 2 ^ 20 ≤ r.reqs → 1 ≤ r.pool →
      exec (.drbgReseedDue d) s = .next (settle (fresh.pumpDie d))) ∧
    (∀ i k, r.feedRun = true → r.feedBytes < 8 * 2 ^ 20 → k < 18 → i = (r.feedLast + 1 + k) % 18 → (s.die d).maskBuf i < 4096 →
      (∀ m, m < k → 4096 ≤ (s.die d).maskBuf ((r.feedLast + 1 + m) % 18)) →
      Effect (.feedGrant d) s (fun t => (t.die d).maskBuf i = min 4096 ((s.die d).maskBuf i + 64) ∧ (∀ m, m ≠ i → (t.die d).maskBuf m = (s.die d).maskBuf m) ∧
        (t.die d).rng = { r with feedBytes := r.feedBytes + 64, feedFrac := (r.feedFrac + 64) % 1024, feedLast := i })) ∧
    (r.drbgReady = true → r.disabled = false → r.recovering = false → r.reqs < 2 ^ 20 → 8 * 2 ^ 20 ≤ r.feedBytes ∨ r.feedRun = false →
      exec (.feedReseed d) s = .next (settle ((put s { r with reqs := r.reqs + 1, feedBytes := 0, feedRun := true }).count d RNG 0 0x118).drawn)) ∧
    (∀ stream rct, stream < 8 → r.disabled = false → r.noiseOk = true → r.recovering = false →
      exec (.healthTestFail d stream rct) s = .next (settle (((((put s { r with noiseOk := false, recovering := true, pool := 0 }).event d RNG 0 0).count d RNG 0
        (if rct then 0x104 else 0x108)).faultAct d (if rct then 560 else 561)).pumpDie d))) ∧
    (∀ stream rct, stream < 8 → r.disabled = false → r.recovering = true →
      exec (.healthTestFail d stream rct) s = .next (settle (((((put s { r with noiseOk := false, recovering := true, pool := 0 }).event d RNG 0 0).count d RNG 0
        (if rct then 0x104 else 0x108)).faultAct d 562).pumpDie d))) ∧
    (r.recovering = true → r.disabled = false → exec (.startupTestsPass d) s = .next (settle
      (((((put s { r with noiseOk := true, recovering := false, drbgReady := true, pool := 2, reqs := 1, feedBytes := 0, feedRun := true }).count d RNG 0
        0x118).drawn).event d RNG 0 1).pumpDie d)))

/-- R101 to R103: the composites. A new key holds the seed drawn for it and a private key of its curve; ENCAPS writes the post-quantum ciphertext, the share and the combined secret, where the EXT form
refuses a bad key at its offset; DECAPS ends with POINT_INVALID for a bad share; a signature is good only if both parts verify, and DETAIL says which did not.
Choices of the model that it rests on: log entries 6, 49, 50, 51. -/
def Obligations.HybridOperations : Prop :=
  ∀ (s : State) (j : JobRef) (x : Job) (z : Nat × Nat × Nat), hybSizes x.sqe.ps = some z →
    let ps := x.sqe.ps
    let c := hybWeier ps
    let payload := s.jobSecret j.die x
    let kdf := decide (x.sqe.par 0 2 = 1)
    let done := s.passDone j.die x true 0
    let seals := fun (cmd : Instr) (pk : List Byte) => ∃ own ct k : List Byte, ct.length = hybOut ps ∧ k.length = 32 ∧
      ct = fit (hybOut ps) (kemEncap (hybPq ps) (pk.take (hybPub ps)) (s.stagedRandom j.die x)).1 ∧
      k = fit 32 (kemEncap (hybPq ps) (pk.take (hybPub ps)) (s.stagedRandom j.die x)).2 ∧
      let share := ecPublic (hybCurve ps) c own
      (∀ ec, hybShared ps own (pk.drop (hybPub ps)) = some ec →
        Answers cmd s done j stOk 0 (ct ++ share ++ (if kdf then sha3256 (k ++ ec ++ share ++ pk.drop (hybPub ps) ++ ascii "VQHKEM") else k ++ ec))) ∧
      (hybShared ps own (pk.drop (hybPub ps)) = none → Answers cmd s done j stPointInvalid 4 [])
    let verifies := fun (cmd : Instr) (pk ctx : List Byte) => ∀ m pq r t, x.data.inData = m ++ pq ++ r ++ t → pq.length = hybOut ps → r.length = c.len → t.length = c.len →
      let q := pk.drop (hybPub ps)
      let okPq := sigVerify (hybPq ps) (pk.take (hybPub ps)) ctx x.sqe.preHash m pq = true
      let okEc := c.pointFlags q 0 1 = [] ∧ (1 ≤ beNat r ∧ beNat r < c.n ∧ 1 ≤ beNat t ∧ beNat t < c.n) ∧ c.verify (c.point q) (hybDigest ps m) (beNat r) (beNat t) = true
      (okPq → okEc → Answers cmd s done j stOk 0 []) ∧ (okPq → ¬ okEc → Answers cmd s done j stVerifyFail 2 []) ∧
      (¬ okPq → okEc → Answers cmd s done j stVerifyFail 1 []) ∧ (¬ okPq → ¬ okEc → Answers cmd s done j stVerifyFail 3 [])
    (∀ parent, OpRuns s j 0x9001 x → s.jobParent j.die x = some parent → ∃ key : List Byte, (s.seedOf j.die x ++ key).length = (s.seedOf j.die x).length + (z.2.2 - hybSeed ps) ∧
      (hybPublic ps (s.seedOf j.die x ++ key)).length = z.1 ∧
      Creates (.hybridKeygen j) s done j x (s.seedOf j.die x ++ key) (hybPublic ps (s.seedOf j.die x ++ key))
        (entryOfPub (if hybKem ps then 1 else 2) (hybPq ps) (hybPqPublic ps (s.seedOf j.die x ++ key)))) ∧
    (ps ≤ 2 →
      (OpRuns s j 0x9002 x → hybFlags ps ((hybPublic ps payload).drop (hybPub ps)) (hybPub ps) 1 = [] → seals (.hybridEncaps j) (hybPublic ps payload)) ∧
      (OpRuns s j 0x9802 x → ∀ pk rest, x.data.auxData = pk ++ rest → pk.length = z.1 →
        (kemKeyOk (pk.take (hybPub ps)) = false → Answers (.hybridEncapsExt j) s done j stEncoding 0 []) ∧
        (∀ f, kemKeyOk (pk.take (hybPub ps)) = true → firstFlag (hybFlags ps (pk.drop (hybPub ps)) (hybPub ps) 1) = some f →
          Answers (.hybridEncapsExt j) s done j (flagStatus f.1) (BitVec.ofNat 32 f.2) []) ∧
        (kemKeyOk (pk.take (hybPub ps)) = true → hybFlags ps (pk.drop (hybPub ps)) (hybPub ps) 1 = [] → seals (.hybridEncapsExt j) pk)) ∧
      (OpRuns s j 0x9003 x → ∀ pq share, x.data.inData = pq ++ share → pq.length = hybOut ps →
        ∃ w, (s.hitOf j.die x = none → w = 0) ∧
        (hybFlags ps share 0 2 ≠ [] → Answers (.hybridDecaps j) s (s.passDone j.die x true w) j stPointInvalid 2 []) ∧
        (hybFlags ps share 0 2 = [] → hybShared ps (payload.drop 64) share = none → Answers (.hybridDecaps j) s (s.passDone j.die x true w) j stPointInvalid 4 []) ∧
        (∀ ec, hybFlags ps share 0 2 = [] → hybShared ps (payload.drop 64) share = some ec → ∃ k : List Byte, k.length = 32 ∧
          k = fit 32 (kemDecap (hybPq ps) (payload.take 64) [] pq) ∧
          Answers (.hybridDecaps j) s (s.passDone j.die x true w) j stOk 0
            (if kdf then sha3256 (k ++ ec ++ share ++ ecPublic (hybCurve ps) c (payload.drop 64) ++ ascii "VQHKEM") else k ++ ec)))) ∧
    (3 ≤ ps →
      (OpRuns s j 0x9004 x →
        let t := mldsaPass (hybPq ps) (payload.take 32) (sigMessage x.data.auxData x.sqe.preHash x.data.inData)
          (if bit x.sqe.param 1 then List.replicate 32 0 else s.stagedRandom j.die x) (s.passOf j.die x)
        ∃ w, (t.rejected = true → exec (.hybridSign j) s = .next (settle (s.passDone j.die x false w).drawn)) ∧
        (t.rejected = false → ∃ (pq : List Byte) (k : Nat), pq.length = hybOut ps ∧ pq = fit (hybOut ps) (t.bytes (dsaSet (hybPq ps))) ∧ 1 ≤ k ∧
        Answers (.hybridSign j) s (s.passDone j.die x true w) j stOk (BitVec.ofNat 32 (s.passOf j.die x)) (pq ++ beBytes c.len (c.sign (beNat (payload.drop 32)) k (hybDigest ps x.data.inData)).1
          ++ beBytes c.len (c.sign (beNat (payload.drop 32)) k (hybDigest ps x.data.inData)).2))) ∧
      (OpRuns s j 0x9005 x → verifies (.hybridVerify j) (hybPublic ps payload) x.data.auxData) ∧
      (OpRuns s j 0x9805 x → ∀ pk ctx, x.data.auxData = pk ++ ctx → pk.length = z.1 → verifies (.hybridVerifyExt j) pk ctx))

/-- R77, R96, R163, R164 and R171: operations that create a symmetric key. Its blob under the job's parent is 76 bytes longer than the key; a key with USAGE.WRAP takes a
free entry of the parent table, with which ROOT_VERSION advances and the root record is written; equal halves of an AES-XTS key end with KEY_TYPE. GENERATE draws the key,
IMPORT unwraps it (TAG_MISMATCH where it does not authenticate, KEY_TYPE where its length is wrong), DERIVE derives it, STAGE_COMMIT takes what its
transient slot held at its dispatch (KEY_NOT_FOUND where that is nothing).
Choices of the model that it rests on: log entries 5, 52, 53, 54. -/
def Obligations.KeyCreation : Prop :=
  ∀ (s : State) (j : JobRef) (x : Job) (parent : Slot), s.jobParent j.die x = some parent →
    let hier := hierOf parent.owner parent.scope
    let wraps := needsEntry (BitVec.ofNat 32 (x.sqe.par 0 32)) parent = true
    let creates := fun (c : Instr) (limit : Nat) (key : List Byte) =>
      (equalHalves (s.newAlg x) key = false → ∃ blob, blob.length = 76 + key.length ∧
        (¬ wraps → Commits c s s j x limit (blob.take 48) (createdDetail blob.length 1) blob id) ∧
        (∀ e, wraps → (s.rootRec hier).freeEntry = some e →
          Commits c s s j x limit (blob.take 48) (createdDetail blob.length 1) blob (fun t => ((t.addEntry hier e).bumpRoot hier).writeRoot j.die x hier))) ∧
      (equalHalves (s.newAlg x) key = true → ∃ n ps, ps ≤ limit ∧ exec c s = .next (settle (({ s with freeCtr := s.freeCtr + n } : State).opFail j.die j.job stKeyType 0 ps)))
    let fails := fun (c : Instr) (limit : Nat) (st : W16) (detail : Nat) => ∃ n ps, ps ≤ limit ∧
      exec c s = .next (settle (({ s with freeCtr := s.freeCtr + n } : State).opFail j.die j.job st detail ps))
    (OpRuns s j 0x6001 x → ∃ key, key.length = x.sqe.symLen ∧ creates (.generate j) 2000000 key) ∧
    (OpRuns s j 0x6002 x → let limit := kwpTime x.data.inData.length
      (∀ key, kwpOpen (s.jobSecret j.die x) x.data.inData = some key → key.length = x.sqe.symLen → creates (.import j) limit key) ∧
      (∀ key, kwpOpen (s.jobSecret j.die x) x.data.inData = some key → key.length ≠ x.sqe.symLen → fails (.import j) limit stKeyType 0) ∧
      (kwpOpen (s.jobSecret j.die x) x.data.inData = none → fails (.import j) limit stTagMismatch 0)) ∧
    (OpRuns s j 0x6005 x → creates (.derive j) 8000000 (deriveKey x.sqe.ps (s.jobSecret j.die x) x.data.inData x.sqe.symLen)) ∧
    (OpRuns s j 0x600E x →
      (∀ t, x.data.staged = some t → creates (.stageCommit j) 2000000 t.key) ∧ (x.data.staged = none → fails (.stageCommit j) 0 stKeyNotFound (x.sqe.par 32 3)))

/-- R96, R153, R160, R165, R166, R169, R178, R219 and R221: the other key operations. PROGRAM_ACTIVATE installs the image and its owner's key on every die and in the store and raises PROGRAM_CHANGE on every LVE page, or ends with the first check that fails. INVALIDATE advances the generation of the parent's entry and ROOT_VERSION in one write and writes the
root record; EVICT frees the slot, or marks it for its last holder; STATEFUL_SPLIT takes half of the leaves left, rounded down, for an unbound copy, STATEFUL_EXHAUSTED where
that is none; REWRAP takes its blobs one by one, a step and at most 12 µs each, and loads a parent that is not resident; ATTEST_PROVISION writes the verifier record at entry 2 + verifier.
Choices of the model that it rests on: log entries 52, 53, 55, 56, 58, 128, 135. -/
def Obligations.KeyManagement : Prop :=
  ∀ (s : State) (j : JobRef) (x : Job),
    let fails := fun (c : Instr) (u : State) (limit : Nat) (st : W16) (detail : Nat) => ∃ n ps, ps ≤ limit ∧
      exec c s = .next (settle (({ u with freeCtr := u.freeCtr + n } : State).opFail j.die j.job st detail ps))
    (∀ k pub, OpRuns s j 0x6003 x → s.jobKey j.die x 0 = some k → s.publicOf j.die x k = some pub → s.curveMatches x k = true →
      Commits (.exportPublic j) s s j x 2000000 [] 0 pub id) ∧
    (∀ k w, OpRuns s j 0x6004 x → s.jobKey j.die x 0 = some k → s.jobKey j.die x 1 = some w →
      Commits (.exportWrapped j) s s j x (kwpTime k.payload.length) [] 0 (kwpWrap w.payload k.payload) id) ∧
    (∀ p, OpRuns s j 0x6006 x → s.jobKey j.die x 0 = some p → p.scope ≠ 2 → let hier := hierOf p.owner p.scope
      Commits (.invalidate j) s s j x 4000000 [] 0 [] (fun t => (((t.setRoot hier { t.rootRec hier with
        gens := Assoc.set (t.rootRec hier).gens p.entry (Assoc.getD (t.rootRec hier).gens p.entry 0 + 1) }).bumpRoot hier).dropRevoked hier).writeRoot j.die x hier)) ∧
    (∀ i, OpRuns s j 0x6007 x → let h := x.sqe.handle
      hScope h ≤ 1 → scopeOk x.src.mgr (hScope h) = true → hIndex h ≠ 1 → hIndex h < (s.mkWant x .main h).size →
      (s.die j.die).kvd.find ((s.mkWant x .main h).slotOwner x) (hScope h) (hIndex h) (hGen h) = some i →
      Commits (.evict j) s s j x 1000000 [] 0 [] (fun t => t.freed j.die { (t.die j.die).kvd with
        slots := (Assoc.update (t.die j.die).kvd.slots i (fun y => { y with dying := true })).filter
          (fun p => !(decide (p.1 = i) && p.2.holders.all (t.looseJobs j.die).contains)) })) ∧
    (OpRuns s j 0x6008 x →
      exec (.rewrap j) s = .next (settle (rewrapLoop 1025 j.die j.job s)) ∧
      ∀ np, s.jobKey j.die x 0 = some np →
        let lens := blobLens 1025 x.data.inData
        let rest := x.data.inData.drop x.pass
        (1024 < lens.length → fails (.rewrap j) s 0 stEncoding ((lens.take 1024).foldl (· + ·) 0)) ∧
        (lens.length ≤ 1024 →
          (rest = [] → Commits (.rewrap j) s s j x (12000000 * lens.length) (x.data.auxData.take 48) 0 x.data.auxData id) ∧
          (∀ b more h, rest = b ++ more → b ≠ [] → blobHdr? rest = some h → blobLenOf h.algId rest = b.length →
            let u := s.jobStep j.die j.job ((blobLens 1025 (x.data.inData.take x.pass)).length + 1) lens.length
            (∀ n b', u.rewrapOne j.die x np b = .done b' → rewrapLoop (n + 1) j.die j.job s = rewrapLoop n j.die j.job
              (u.drawn.modJob j.die j.job (fun y => { y with pass := y.pass + b.length, data := { y.data with auxData := y.data.auxData ++ b' } }))) ∧
            (∀ st, u.rewrapOne j.die x np b = .fails st → fails (.rewrap j) (u.authFail j.die st) (12000000 * lens.length) st 0) ∧
            (∀ h', u.rewrapOne j.die x np b = .wants h' → exec (.rewrap j) s =
              .next (settle (((u.pushWants j.die j.job [u.mkWant x .chain h']).stage j.die j.job .table).advanceAny j.die j.job)))))) ∧
    (∀ k p c, OpRuns s j 0x6009 x → s.jobKey j.die x 0 = some k → s.jobParent j.die x = some p → Assoc.get? s.bbram.counters k.hdr.counter.toNat = some c →
      c.keyId = s.keyId k →
      (c.stop - c.next < 2 → fails (.statefulSplit j) s 0 stExhausted 0) ∧
      (2 ≤ c.stop - c.next → let left := c.stop - (c.stop - c.next) / 2
        ∃ blob, blob.length = 76 + k.payload.length ∧ slice blob 32 16 = leBytes 8 left ++ leBytes 8 c.stop ∧
          Commits (.statefulSplit j) s s j x 40000000 (blob.take 48) 0 blob (fun t =>
            { t with bbram := { t.bbram with counters := Assoc.set t.bbram.counters k.hdr.counter.toNat { c with stop := left } } }))) ∧
    (OpRuns s j 0x600C x → let img := x.data.inData
      (∀ f, s.imageFail x (s.jobSecret j.die x) img = some f → fails (.programActivate j) s 2000000000 f.1 f.2) ∧
      (s.imageFail x (s.jobSecret j.die x) img = none → let pub := fit 2592 (sigPub 3 (s.jobSecret j.die x))
        Commits (.programActivate j) s s j x 2000000000 (sha384 img) 0 [] (fun t =>
          let u := { t.allDies (fun y => { y with programs := setProgram y.programs pub img }) with store := { t.store with programs := setProgram t.store.programs pub img } }
          u.dieList.foldl (fun (v : State) d => (List.range 16).foldl (fun (v : State) e => v.event d LVE e 3) v) u))) ∧
    (OpRuns s j 0x600D x →
      (∀ o, verifierFail x.data.inData = some o → fails (.attestProvision j) s 0 stEncoding o) ∧
      (∀ p, verifierFail x.data.inData = none → s.jobKey j.die x 0 = some p →
        (kwpOpen (s.cards.quorum.qtk.take 32) (x.data.inData.drop 4) = none → fails (.attestProvision j) s 20000000 stTagMismatch 0) ∧
        (∀ secret, kwpOpen (s.cards.quorum.qtk.take 32) (x.data.inData.drop 4) = some secret → ∃ blob, blob.length = 76 + 34 ∧
          Commits (.attestProvision j) s s j x 20000000 (blob.take 48) 0 []
            (fun t => t.writeBlob t.ownerTable.1 none (2 + (x.data.inData.getD 0 0).toNat) x.data.entry blob))))

/-- R99, R175, R176, R178 and R179: attestation. The shared-secret response is 16 bytes of the message (the RTC at the acceptance of the command, MONO, the log's sequence number) and KMAC256 of it under the verifier's secret with customisation
"VQATT", for an instance that the record is granted to, KEY_NOT_FOUND otherwise; the signed message goes on with the SHA-384 of the owner key (zeros for a manager queue),
ROOT_VERSION and zeros, and the signature of 4,627 bytes follows; GET_IDENTITY writes both certificates and the length of the first.
Its clauses beyond R176, not the one of R176, rest on choices of the model: log entry 57. -/
def Obligations.Attestation : Prop :=
  ∀ (s : State) (j : JobRef) (x : Job),
    let n := if x.src.mgr then 0xFFFF else x.src.inst
    (∀ k, OpRuns s j 0xA001 x → s.jobKey j.die x 0 = some k → ∃ ps, ps ≤ 2000000 ∧
      (fieldLe k.payload 0 2 = 0xFFFF ∨ fieldLe k.payload 0 2 = n →
        let msg := s.attMessage n (x.sqe.par 0 6) x.data.rtc x.data.inData
        let response := slice msg 140 16 ++ kmac256 (k.payload.drop 2) (ascii "VQATT") msg 48
        response.length = 64 ∧ Ends (.attestShared j) s s j stOk 0 ps response) ∧
      (fieldLe k.payload 0 2 ≠ 0xFFFF → fieldLe k.payload 0 2 ≠ n → Ends (.attestShared j) s s j stKeyNotFound (BitVec.ofNat 32 (2 + x.sqe.par 0 6)) ps [])) ∧
    (OpRuns s j 0xA002 x →
      let msg := s.attMessage n 0xFF x.data.rtc x.data.inData ++ (if x.src.mgr then List.replicate 48 0 else sha384 (s.inst n).cfg.ownerKey) ++ leBytes 4 (s.rootRec n).version.toNat ++ [0, 0, 0, 0]
      msg.length = 216 ∧ ∃ (sig : List Byte) (ps : Nat), sig.length = 4627 ∧ Ends (.attestSigned j) s s j stOk 0 ps (msg ++ sig)) ∧
    (OpRuns s j 0xA003 x → ∃ ps, Ends (.getIdentity j) s s j stOk (BitVec.ofNat 32 (s.store.deviceCert.length % 65536)) ps (s.store.deviceCert ++ s.aliasCert))

/-- R195, R214 to R216, R235 to R238, R255, R277 and R322: what ends or repeats a pass on an LVE. An END with ACCEPT = 0 when PASS has reached REPEAT_MAX ends the job with
FAULT_DETECTED 1 (KEYGEN_LIMIT for a key generation), whatever its REPEAT bit; before that, one with a restart index goes back there for the next pass; any other END ends
the job: with OPERAND_FAULT or FAULT_DETECTED 2 where a fault was latched, for an owner program with OK, the passes and the bytes of its OUT region, for a vendor program
with its result, or FAULT_DETECTED and a release word that is not zero. An abort takes effect at END as at any checkpoint, and ABORT_LAT_MAX keeps the longest latency; a
next pass begins once its masking bytes are there, and a generator that is disabled below them ends the job with RNG_FAIL; a checkpoint gap ends it with MACHINE_CHECK.
Choices of the model that it rests on: log entries 17, 25, 26, 27, 31. -/
def Obligations.LvePasses : Prop :=
  ∀ (s : State) (d e j : Nat) (u : LveUnit) (x : Job), s.lve? ⟨d, e, .none⟩ = some u → u.eng.job = some j → s.job? d j = some x →
    let put := fun (t : State) (v : LveUnit) => t.modDie d (fun y => { y with lves := y.lves.set e v })
    let after : LveUnit := { u with eng := { u.eng with seq := { u.eng.seq with counts := u.eng.seq.counts.add ⟨2, 0, 0, 0, 0, 0, 0, 0⟩ } } }
    let limit := s.lveResult d e j x ⟨if x.sqe.op = 0x1001 then stKeygenLimit else stFaultDetected, if x.sqe.op = 0x1001 then 0 else 1, s.endTime d after x, []⟩
    let aborted := ((s.lveStop d e (x.failed.getD (stMachineCheck, 0)).1 (x.failed.getD (stMachineCheck, 0)).2).count d MCS e 0x120).setReg d MCS e 0x124
      (BitVec.ofNat 32 (max (s.reg d MCS e 0x124).toNat (min 0xFFFFFFFF (Config.abortLatency s.freeCtr))))
    (∀ f, LveOp.lend.valid f = true → u.endNext = true → u.eng.seq.prog ≠ none ∨ u.executes .lend f = true → (s.die d).patch.expansion .lend f u.eng = none →
      let ends := fun (st : W16) (dt : W32) (out : List Byte) =>
        exec (.lend ⟨d, e, .none⟩ f) s = .next (settle (s.lveResult d e j x ⟨st, dt, s.endTime d after x, out⟩))
      (u.eng.abortReq = true → exec (.lend ⟨d, e, .none⟩ f) s = .next (settle aborted)) ∧
      (u.eng.abortReq = false →
        (u.eng.core.accept = false → u.eng.seq.fault = none → u.eng.seq.repeatMax ≤ u.eng.core.pass.toNat → exec (.lend ⟨d, e, .none⟩ f) s = .next (settle limit)) ∧
        (bit f.sub 0 = true → u.eng.core.accept = false → u.eng.seq.fault = none → u.eng.core.pass.toNat < u.eng.seq.repeatMax → exec (.lend ⟨d, e, .none⟩ f) s =
          .next (settle ((put (s.modJob d j (fun y => { y with result := none })) { after with eng := { after.eng with
            phase := .passWait
            core := { u.eng.core with pass := u.eng.core.pass + 1, accept := true }
            seq := { after.eng.seq with pc := bits f.imm 0 16, loops := [], maskUsed := 0 }
            hit := none } }).count d LVE e 0x10C))) ∧
        (u.eng.seq.fault ≠ none ∨ u.eng.core.accept = true ∨ (bit f.sub 0 = false ∧ u.eng.core.pass.toNat < u.eng.seq.repeatMax) →
          (∀ i, u.eng.seq.prog = none ∨ x.result ≠ none → u.eng.seq.fault = some (.operand i) → ends stOperandFault i []) ∧
          (u.eng.seq.prog = none ∨ x.result ≠ none → u.eng.seq.fault = some .maskBudget → ends stFaultDetected 2 []) ∧
          (u.eng.seq.prog = none → u.eng.seq.fault = none → ends stOk (BitVec.ofNat 32 (min 0xFFFF u.eng.core.pass.toNat)) (ownerOut u.eng.seq.head u.eng)) ∧
          (∀ r, u.eng.seq.prog ≠ none → u.eng.seq.fault = none → x.result = some r →
            (releaseWord u.eng = 0 → exec (.lend ⟨d, e, .none⟩ f) s = .next (settle (s.lveResult d e j x r))) ∧
            (releaseWord u.eng ≠ 0 → ends stFaultDetected (BitVec.ofNat 32 (releaseWord u.eng)) []))))) ∧
    (u.endNext = true →
      (u.eng.abortReq = true → exec (.repeatLimit d e) s = .next (settle aborted)) ∧
      (u.eng.abortReq = false → u.eng.core.accept = false → u.eng.seq.fault = none → u.eng.seq.repeatMax ≤ u.eng.core.pass.toNat →
        exec (.repeatLimit d e) s = .next (settle limit))) ∧
    (u.eng.phase = .passWait → u.svc.frozen = false → let need := s.passNeed d u x
      (s.maskLost d need (.lve e) = true → exec (.passDispatch d e) s = .next (settle ((s.lveStop d e stRngFail 0).pumpDie d))) ∧
      (s.maskLost d need (.lve e) = false → u.eng.abortReq = false → need ≤ u.svc.maskBuf → exec (.passDispatch d e) s =
        .next (settle ((put s { u with eng := { u.eng with phase := .running, seq := { u.eng.seq with maskBytes := need } } }).chargeUnit d 0 x)))) ∧
    (u.eng.abortReq = true → u.svc.frozen = false → exec (.lveAbort d e) s = .next (settle (aborted.pumpDie d))) ∧
    (u.eng.phase = .running → u.svc.frozen = false →
      exec (.ckptGap d e) s = .next (settle (((s.lveStop d e stMachineCheck 0).faultAct d (32 * e + 9)).pumpDie d))) ∧
    (x.stage = .running → x.engine = .lve e → x.sqe.op = 0x1001 → isMceliece x.sqe.ps = true → u.eng.phase = .running → u.eng.core.accept = false →
      1024 ≤ u.eng.core.pass.toNat → exec (.keygenLimit ⟨d, j⟩) s = .next (settle (s.lveResult d e j x ⟨stKeygenLimit, 0, s.endTime d u x, []⟩)))

/-- R246, R247, R287, R289, R294, R296, R299, R300, R309, R314 and R324: the BNEs, the SYEs and service. A leg's end ends an operation that has come to its result, or begins
the next leg; result flags that disagree end it with MACHINE_CHECK, also a composite whose classical half it is; a wiped lane is clear; a segment's end goes on to the next
segment selected, or ends its job, or with the last segment of a digest leaves the digest to its BNE job; a self-test brings an engine back or fences it with cause 4; a
patch refresh loads the set of the boot flash again and takes the LVEs back into service, or fences them with cause 5.
Choices of the model that it rests on: log entries 44, 49, 137. -/
def Obligations.EngineSegments : Prop :=
  ∀ (s : State) (d e : Nat),
    (∀ u one j x, (s.die d).bnes[e]? = some u → u.running = some one → (u.lane one).job = some j → s.job? d j = some x → u.svc.frozen = false →
      (x.engine = .bne e → x.suppress = false → s.pkg.lock = false → ∀ r, x.result = some r →
        exec (.bneLegEnd d e true) s = .next (settle (s.bneOver d e)) ∧
        exec (.bneLegEnd d e false) s = .next (settle (((s.modJob d j (fun y => { y with result := some { r with status := stMachineCheck, detail := 0, out := [] } })).bneOver
          d e).faultAct d (512 + 8 * e + 4)))) ∧
      (x.engine = .bne e → x.suppress = false → s.pkg.lock = false → x.result = none → x.sqe.op = 0x4010 ∨ x.sqe.op = 0x4007 → exec (.bneLegEnd d e true) s =
        .next (settle (((s.modDie d (fun y => { y with bnes := y.bnes.set e { u with legs := u.legs + 1 } })).count d BNE e 0x114).chargeUnit d 1 x))) ∧
      (x.engine = .bne e → x.suppress = false → s.pkg.lock = true → x.sqe.op = 0x4010 ∨ x.sqe.op = 0x4007 → x.result = none → ∀ ok, exec (.bneLegEnd d e ok) s =
        .next (settle ((s.modJob d j (fun y => { y with result := some ⟨stOk, 0, 0, []⟩ })).bneOver d e))) ∧
      (x.engine ≠ .bne e → exec (.bneLegEnd d e true) s = .next (settle s) ∧
        exec (.bneLegEnd d e false) s = .next (settle ((s.modJob d j (fun y => y.fail stMachineCheck 0)).faultAct d (512 + 8 * e + 4)))) ∧
      (x.stage = .running → x.engine = .bne e → x.sqe.op = 0x4010 → x.result = none → exec (.keygenLimit ⟨d, j⟩) s =
        .next (settle (((s.jobStep d j 1 5).result d j stKeygenLimit 0 (Config.rsaKeygenTime (x.sqe.rsaK / 2) 65536) []).bneOver d e)))) ∧
    (∀ u lane, (s.die d).bnes[e]? = some u → (u.lane lane).wiping = true → (u.lane lane).job = none → exec (.laneWipeDone d e lane) s =
      .next (settle (((s.modDie d (fun y => { y with bnes := y.bnes.set e (u.setLane lane BneLane.clear) })).count d BNE e 0x110).pumpDie d))) ∧
    (∀ u k c x, (s.die d).syes[e]? = some u → u.running = some k → Assoc.get? u.ctxs k = some c → s.job? d c.job = some x → u.svc.frozen = false → u.svc.fenceReq = 0 →
      let past := (((s.modDie d (fun y => { y with syes := y.syes.set e { u with running := none, ctxs := Assoc.set u.ctxs k { c with done := c.done + 1 } } })).count d SYE e
        0x110).settleSegment d x c.done (s.knownTime d 2 x c.done))
      let goesOn := fun (t0 : State) =>
        let t := t0.syeSelect d e
        let next := ((t.die d).syes[e]?).bind (fun v => v.running.bind (fun i => (Assoc.get? v.ctxs i).map SyeCtx.job))
        exec (.syeSegmentEnd d e) s = .next (settle ((if next ≠ none ∧ next ≠ some c.job then t.count d SYE e 0x114 else t).pumpDie d))
      let stops := x.suppress = true ∨ x.failed ≠ none ∨ s.pkg.lock = true
      (¬ stops → c.done + 1 < c.total → goesOn past) ∧
      (¬ stops → c.total ≤ c.done + 1 → c.digest = false → x.result ≠ none → goesOn (past.syeEnd d e k)) ∧
      (stops → c.digest = false → goesOn ((past.modJob d c.job Job.stopped).syeEnd d e k)) ∧
      (c.digest = true → stops ∨ c.total ≤ c.done + 1 → goesOn (past.digestOver d e k c.job (decide (c.total ≤ c.done + 1)) x.digestPs))) ∧
    (∀ u (pass : Bool), (s.die d).lves[e]? = some u → u.svc.selfTest = true → exec (.selftestDone d (.lve e) pass) s = .next (settle (s.modDie d (fun y => { y with
      lves := y.lves.set e { u with
        svc := { u.svc with selfTest := false, fence := if pass then 0 else 4 }
        eng := { u.eng with phase := if pass ∧ u.eng.phase = .fenced then .idle else u.eng.phase } } })))) ∧
    (∀ u (pass : Bool), (s.die d).bnes[e]? = some u → u.svc.selfTest = true → exec (.selftestDone d (.bne e) pass) s = .next (settle (s.modDie d (fun y =>
      { y with bnes := y.bnes.set e { u with svc := { u.svc with selfTest := false, fence := if pass then 0 else 4 } } })))) ∧
    (∀ u (pass : Bool), (s.die d).syes[e]? = some u → u.svc.selfTest = true → exec (.selftestDone d (.sye e) pass) s = .next (settle (s.modDie d (fun y =>
      { y with syes := y.syes.set e { u with svc := { u.svc with selfTest := false, fence := if pass then 0 else 4 } } })))) ∧
    ((s.die d).patch.refreshPending = true → (s.die d).mha.state ≠ .open_ → (∀ u ∈ (s.die d).lves, u.eng.job = none ∧ u.fill = none) →
      let again := patchSet (s.die d).fuses (bootPatches s.flash d)
      let back := fun (t : State) (p : PatchSet) => (List.range 16).foldl (fun (t : State) i => (t.fwWriteAt d LVE i 0x010 0).event d MCS i 1) (t.modDie d (fun x => { x with patch := p }))
      (again.state ≠ 2 → again.measure = (s.die d).kvd.mmc → exec (.patchRefresh d true) s =
        .next (settle (back (s.measures d (bootPatches s.flash d)) { again with refreshes := min 0xFFFF ((s.die d).patch.refreshes + 1), refreshPending := false }))) ∧
      ∀ intact, (intact = false ∨ again.state = 2 ∨ again.measure ≠ (s.die d).kvd.mmc) → exec (.patchRefresh d intact) s =
        .next (settle ((List.range 16).foldl (fun (t : State) i => t.fenceLve d i 5) (back (s.refreshMeasures d intact) { (s.die d).patch with refreshPending := false }))))

/-- R72, R127, R168, R280, R300, R303, R320, R322, R352, R353 and R424: dispatch. An engine takes the ready head whose turn it is by deficit and PRIO; what fails at dispatch
(LOCK and the checks of its class, the generator, a transient key gone, a key revoked, a program no longer active) ends the head before it runs; otherwise its entry is
consumed, its unit charged and its program starts. A stateful SIGN takes its leaf first, and waits for the block of that leaf; a composite takes a lane of a BNE as well. A
BNE that runs a program stages the next job in its other lane, and a lane that must be wiped is wiped first unless another BNE has one that need not. A round of DWRR takes
up shares and QUANTUM and adds each eligible contender's credit, up to four times it.
Choices of the model that it rests on: log entries 37, 40, 41, 42, 49. -/
def Obligations.Dispatching : Prop :=
  ∀ (s : State) (d : Nat),
    let view := fun (cls : Nat) => ((s.pumpDie d).dropFenced d cls).syncDwrr d cls
    (∀ i q j x, let u := view 0
      u.turn d 0 ((u.readyHeads d 0).filter (fun p =>
        (u.lveFree d i (u.maskNeed d p.2.2 true) && u.seedRoom d p.2.2 && p.2.2.digestDone && u.halfReady d p.2.2)
        || (u.lveFree d i 0 && decide (u.rngFor d p.2.2 (.lve i) = .fails)))) = some (q, j, x) →
      let fails := fun (t : State) (st : W16) (dt : W32) (n : Nat) =>
        exec (.jobDispatch d (.lve i)) s = .next (settle (n.repeat (fun (v : State) => v.pump d q) (t.failPrep d j st dt)))
      let go := fun (y : Die) => { y with lves := y.lves.modify i (startLve x (if x.sqe.op = 0x8001 then u.program d x else none)
          (if x.sqe.seedLen ≠ 0 then x.sqe.seedLen else ((u.jobKey d x 0).map (fun k => k.payload.length)).getD 0)
          (((x.data.kpcEntry.bind (fun k => Assoc.get? (u.die d).kpc k)).map KpcEntry.bytes).getD []) (u.maskNeed d x true) j
          (Assoc.getD (u.die d).patch.vendor (Config.vendorProgram x.sqe.prog) [])
          (if x.sqe.scratch.1 = 0 then [] else u.rand (if x.sqe.scratch.2 then 2 * x.sqe.scratch.1 else x.sqe.scratch.1))) }
      let starts := fun (t : State) => exec (.jobDispatch d (.lve i)) s = .next (settle ((t.startOn d q j 0 x (.lve i) go).pump d q))
      (x.sqe.op = 0x8001 → u.program d x = none → fails u stProgramInactive (BitVec.ofNat 32 x.sqe.ps) 1) ∧
      (x.sqe.cls ≠ 9 → (x.sqe.op = 0x8001 → u.program d x ≠ none) →
        (∀ st dt, u.secCheck d x = some (st, dt) → fails u st dt 2) ∧
        (u.secCheck d x = none → u.rngFor d x (.lve i) = .fails → fails u stRngFail 0 2) ∧
        (u.secCheck d x = none → u.rngFor d x (.lve i) = .serves →
          (∀ t st dt, u.dispatchKeys d x = (t, some (st, dt)) → fails t st dt 2) ∧
          (∀ t, u.dispatchKeys d x = (t, none) →
            (x.sqe.op ≠ 0x3002 → starts t) ∧
            (x.sqe.op = 0x3002 → ∀ k g, t.jobKey d x 0 = some k → stf? x.sqe.ps = some g →
              (∀ a st dt, t.assignLeaf d j x k = (a, some (st, dt)) → fails a st dt 2) ∧
              (∀ a leaf, t.assignLeaf d j x k = (a, none) → ((a.job? d j).bind (fun y => y.data.leaf)) = some leaf →
                (g.blockOf leaf = a.entryBlock d x → starts a) ∧
                (g.blockOf leaf ≠ a.entryBlock d x → exec (.jobDispatch d (.lve i)) s = .next (settle (((a.modDie d (fun y => { y with kpc := match x.data.kpcEntry with
                  | some c => Assoc.update y.kpc c (fun z => { z with use := .working })
                  | none => y.kpc })).stage d j .fill).pump d q)))))))) ∧
      (x.sqe.cls = 9 → ∀ b one,
        (u.halfPick d x = some (b, one, true) → exec (.jobDispatch d (.lve i)) s = .next (settle (u.wipeLane d b one))) ∧
        (∀ t, u.halfPick d x = some (b, one, false) → u.secCheck d x = none → u.rngFor d x (.lve i) = .serves → u.dispatchKeys d x = (t, none) →
          exec (.jobDispatch d (.lve i)) s = .next (settle ((t.startOn d q j 0 x (.lve i) (fun y =>
            (go { y with jobs := Assoc.update y.jobs j (fun z => { z with span := x.sqe.hybBne }) }).startBne b one j x)).pump d q))))) ∧
    (∀ i q j x b, let u := view 1
      u.bneServes d i = true → (u.die d).bnes[i]? = some b → b.stagedJob = none →
      u.turn d 1 ((u.readyHeads d 1).filter (fun p => p.2.2.digestDone && !((u.die d).bnes.filterMap (fun v => v.stagedJob.map Prod.snd)).contains p.2.1)) = some (q, j, x) →
      (∀ one, b.pick u.part x = some (one, true) →
        exec (.jobDispatch d (.bne i)) s = .next (settle (if u.laneElsewhere d i x = true then u else u.wipeLane d i one))) ∧
      (∀ one, b.pick u.part x = some (one, false) → b.running ≠ none →
        exec (.jobDispatch d (.bne i)) s = .next (settle (u.modDie d (fun y => y.stageBne i one j x)))) ∧
      (∀ one t, b.pick u.part x = some (one, false) → b.running = none → u.secCheck d x = none → u.rngFor d x (.bne i) = .serves → u.dispatchKeys d x = (t, none) →
        x.sqe.op ≠ 0x3002 → exec (.jobDispatch d (.bne i)) s = .next (settle ((t.startOn d q j 1 x (.bne i) (fun y => y.startBne i one j x)).pump d q)))) ∧
    (∀ i q j x b one t, let u := view 1
      u.bneServes d i = true → (u.die d).bnes[i]? = some b → b.stagedJob = some (one, j) → b.running = none →
      (u.readyHeads d 1).find? (fun p => decide (p.2.1 = j)) = some (q, j, x) → u.secCheck d x = none → u.rngFor d x (.bne i) = .serves → u.dispatchKeys d x = (t, none) →
      x.sqe.op ≠ 0x3002 → exec (.jobDispatch d (.bne i)) s = .next (settle ((t.startOn d q j 1 x (.bne i) (fun y => y.startBne i one j x)).pump d q))) ∧
    (∀ i, exec (.jobDispatch d (.sye i)) s = .next (settle (((s.pumpDie d).dropFenced d 2).syeSelect d i))) ∧
    exec (.jobDispatch d .rng) s = .next (settle ((s.pumpDie d).serveNext d .rng true)) ∧
    exec (.jobDispatch d .kvd) s = .next (settle ((s.pumpDie d).serveNext d .kvd false)) ∧
    (∀ cls, cls ≤ 2 → let u := (s.pumpDie d).syncDwrr d cls
      let r := u.takeShares d cls ((u.die d).dwrr cls)
      Effect (.dwrrRoundStart d cls) s (fun t => d < u.dies.length → (t.die d).dwrr cls = { r with
        deficits := r.deficits.map (fun p =>
          if (u.eligible d cls).contains p.1 then (p.1, min (p.2 + (u.credit cls r p.1 : Int)) (4 * (u.credit cls r p.1 : Int))) else p) }))

/-! ### Tamper sensing, the battery domain, fault collection -/

/-- R418, R422, R425, R435: a class that a watching die raises, unless it lasts and is already present, sets ACTIVE while it lasts, counts in its fault source and in
ALARM_COUNT, raises ALARM, is offered to the log (to the tamper record where the log cannot take it) and gets its response. A temperature class brings the measurement
that crossed its threshold.
R422: what a LOCK or ERASE response leaves. For every class of a die's own sensors mapped to LOCK or ERASE the package is in LOCK with its persistent flag, and the key bus
of every die is gated; under ERASE the OSK is gone as well.
Choices of the model that it rests on: log entries 12, 75. -/
def Obligations.TamperResponses : Prop :=
  (∀ (s : State) (d : Nat) (c : Nat) (cmd : Instr),
    let raised := fun (u : State) =>
      let resp := (u.die d).resp c
      let on := if classLasting c then u.modDie d (fun x => { x with tmn := { x.tmn with active := x.tmn.active ||| BitVec.ofNat 32 (2 ^ (c - 1)) } }) else u
      let t := ((on.fault d (640 + (c - 1))).event d TMN 0 0).count 0 TMN 0 0x11C
      State.respond (if t.logOpen then t.offer { Offer.of 4 d (0x3000 + c) d with result := resp } else (t.recordTamper c resp d).event 0 BBD 0 0) d c resp
    (s.die d).watching = true → (classLasting c = true → bit (s.die d).tmn.active (c - 1) = false) →
      ((c, cmd) ∈ [(0x01, Instr.clkHigh d), (0x02, .clkLow d), (0x03, .clkShort d), (0x04, .refFreq d), (0x05, .clkSkip d), (0x06, .supplyGlitch d), (0x07, .supplyHigh d),
        (0x0C, .shield d), (0x0D, .light d)] → exec cmd s = .next (settle (raised s))) ∧
      (∀ tj, (c, cmd) ∈ [(0x09, Instr.tempHigh d tj), (0x0A, .tempCrit d tj), (0x0B, .tempLow d tj)] → exec cmd s = .next (settle (raised (s.measure d tj))))) ∧
  (∀ (s : State) (d : Nat) (c : Nat) (cmd : Instr), (s.die d).watching = true → (classLasting c = true → bit (s.die d).tmn.active (c - 1) = false) →
    (c, cmd) ∈ [(0x01, Instr.clkHigh d), (0x02, .clkLow d), (0x03, .clkShort d), (0x04, .refFreq d), (0x05, .clkSkip d), (0x06, .supplyGlitch d), (0x07, .supplyHigh d),
      (0x0C, .shield d), (0x0D, .light d)] →
    (2 ≤ (s.die d).resp c → ∃ t, exec cmd s = .next t ∧ t.pkg.lock = true ∧ t.bbd.lock = true ∧ ∀ x ∈ t.dies, x.tmn.gated = true) ∧
    ((s.die d).resp c = 3 → ∃ t, exec cmd s = .next t ∧ t.bbd.osk = none ∧ t.pkg.erased = true))

/-- R418, R426 to R431, R436: the enclosure inputs, the battery and the crystal. With main power their classes are raised on die 0; without it the battery domain records the
class, sets the LOCK flag and erases the OSK as its response says. VBAT first applied starts RTC and MONO from zero; VBAT lost without main power loses the RAM. A condition
gone clears ACTIVE, and the release timer of THROTTLE runs once no THROTTLE class is present; REC_CLEAR needs its key.
Choices of the model that it rests on: log entries 10, 91. -/
def Obligations.BatteryDomain : Prop :=
  ∀ (s : State),
    let battery := fun (u : State) (c : Nat) =>
      let r := u.recordTamper c (u.bbd.resp c) 0 true
      let l := if 2 ≤ u.bbd.resp c then { r with bbd := { r.bbd with lock := true } } else r
      if u.bbd.resp c = 3 then { l with bbd := { l.bbd with osk := none } } else l
    (∀ n, n < 4 → bits s.bbd.tmpCfg (8 * n) 2 ≠ 0 → bit s.bbd.tmpState n = false → s.bbd.powered = true →
      let u : State := { s with bbd := { s.bbd with tmpState := s.bbd.tmpState ||| BitVec.ofNat 4 (2 ^ n) } }
      (s.pkg.pwrgood = true → exec (.tmpIn n) s = .next (settle ((u.event 0 BBD 0 2).raiseClass 0 (0x11 + n)))) ∧
      (s.pkg.pwrgood = false → exec (.tmpIn n) s = .next (settle (battery u (0x11 + n))))) ∧
    (s.bbd.powered = true →
      let u : State := { s with bbd := { s.bbd with low := true } }
      (s.pkg.pwrgood = true → exec .batLow s = .next (settle ((u.event 0 BBD 0 1).raiseClass 0 0x15))) ∧
      (s.pkg.pwrgood = false → exec .batLow s = .next (settle u) ∧ exec .batCrit s = .next (settle (battery s 0x16))) ∧
      (s.pkg.pwrgood = true → exec .xtalStop s = .next (settle (s.raiseClass 0 0x18))) ∧
      (s.pkg.pwrgood = false → exec .xtalStop s = .next (settle (battery s 0x18)))) ∧
    (∀ d c, classLasting c = true →
      let u := (if 0x11 ≤ c ∧ c ≤ 0x14 then { s with bbd := { s.bbd with tmpState := s.bbd.tmpState &&& ~~~(BitVec.ofNat 4 (2 ^ (c - 0x11))) } }
        else if c = 0x15 then { s with bbd := { s.bbd with low := false } } else s).modDie d (fun x =>
          { x with tmn := { x.tmn with active := x.tmn.active &&& ~~~(BitVec.ofNat 32 (2 ^ (c - 1))) } })
      let left := ∃ k, k < 24 ∧ bit (u.die d).tmn.active k = true ∧ (u.die d).resp (k + 1) = 1
      (left → exec (.tamperConditionClear d c) s = .next (settle (u.modDie d (fun x => { x with tmn := { x.tmn with throttleEnd := false } })))) ∧
      (¬ left → exec (.tamperConditionClear d c) s = .next (settle (u.modDie d (fun x => { x with tmn := { x.tmn with throttleEnd := x.tmn.throttle } }))))) ∧
    (∀ mv, (s.bbd.powered = false → exec (.vbatApplied mv) s =
        .next (settle { s with pkg := { s.pkg with vbatMv := mv }, bbd := { Bbd.off with powered := true, lost := true } })) ∧
      (s.bbd.powered = true → exec (.vbatApplied mv) s = .next (settle { s with pkg := { s.pkg with vbatMv := mv } }))) ∧
    (Bbd.off.rtc = 0 ∧ Bbd.off.mono = 0 ∧ Bbd.off.tmpCfg = 0) ∧
    (s.pkg.pwrgood = false → exec .vbatLost s = .next (settle { s with pkg := { s.pkg with vbatMv := 0 }, bbd := Bbd.off, bbram := Bbram.empty })) ∧
    (s.pkg.pwrgood = true → exec .vbatLost s = .next (settle { s with pkg := { s.pkg with vbatMv := 0 } })) ∧
    exec (.recClear 0x0000C1EA) s = .next (settle { s with bbd := { s.bbd with record := [] } }) ∧
    (∀ v, v ≠ 0x0000C1EA → exec (.recClear v) s = .next (settle s))

/-- R422, R423, R437 to R442, R445, R467 and R505: a supply dip gates the bus of its die, freezes its engines and counts in SUPPLY_WARN; its end resumes them and abandons a
probe it met; THROTTLE ends when no THROTTLE class is present; an event of a source has its effect on the work of its unit, sets its sticky bit and counts in its newest slice,
STORE_PARITY starts the refresh of the patch RAM (R246), and its own chapter's action follows when its heat reaches N; the end of a slice advances the windows of its code, and pending configurations apply; the pulse and the heartbeat.
Choices of the model that it rests on: log entries 65, 120. -/
def Obligations.DipsAndFaults : Prop :=
  ∀ (s : State) (d : Nat),
    ((s.die d).watching = true → exec (.supplyDip d) s = .next (settle ((((s.modDie d (fun x =>
      { x.freeze true with tmn := { x.tmn with gated := true, dip := true } })).event d TMN 0 4).count d TMN 0 0x118).faultAct d 664))) ∧
    ((s.die d).tmn.dip = true → exec (.dipRecovered d) s = .next (settle (s.modDie d (fun x =>
      { (x.freeze false).abandonProbe with tmn := { x.tmn with dip := false, gated := s.pkg.lock || s.pkg.boundary } })))) ∧
    (∀ b, ∀ u ∈ ((s.die d).freeze b).lves, u.svc.frozen = b) ∧
    ((s.die d).tmn.throttle = true → (∀ k, k < 24 → bit (s.die d).tmn.active k = true → (s.die d).resp (k + 1) ≠ 1) →
      exec (.throttleRelease d) s = .next (settle (s.modDie d (fun x => { x with tmn := { x.tmn with throttle := false, throttleEnd := false } })))) ∧
    (∀ src, d < s.dies.length → (s.die d).watching = true →
      (sourceExists src = false → exec (.severe d src) s = .next (settle s)) ∧
      (sourceExists src = true → let u := (s.sourceHits d src).modDie d (fun x => x.sourceCounts src)
        let refresh := fun (t : State) => if src < 512 ∧ src % 32 = 10 then t.startRefresh d else t
        Assoc.get? (u.die d).fcl.sticky src = some () ∧
        ((u.die d).fcl.heatSum src < ((u.die d).fcl.heatCfg src).1 → exec (.severe d src) s = .next (settle (refresh u))) ∧
        (((u.die d).fcl.heatCfg src).1 ≤ (u.die d).fcl.heatSum src → let v := ((u.modDie d (fun x => { x with fcl := { x.fcl with
            severe := Assoc.set x.fcl.severe src (), heat := Assoc.erase x.fcl.heat src } })).event d FCL 0 1).count d FCL 0 0x138
          let w : State := { v with pkg := { v.pkg with severes := v.pkg.severes + 1 } }
          exec (.severe d src) s =
            .next (settle ((refresh (((if w.pkg.pwrgood then w.alert else w).pulse).offer (Offer.of 5 d (0x4000 + src) d))).severeAct d src))))) ∧
    (∀ code, let f := (s.die d).fcl
      let g := f.slice code
      exec (.heatSliceBoundary d code) s = .next (settle (s.modDie d (fun x => { x with fcl := x.fcl.slice code }))) ∧
      (∀ p ∈ f.heat, (f.heatCfg p.1).2 = code → (∃ n ∈ p.2.slices.take 15, n ≠ 0) → (p.1, (⟨0 :: p.2.slices.take 15⟩ : Heat)) ∈ g.heat) ∧
      (∀ p ∈ f.heat, (f.heatCfg p.1).2 ≠ code → (∃ n ∈ p.2.slices, n ≠ 0) → p ∈ g.heat) ∧
      (∀ p ∈ g.cfgNext, (f.heatCfg p.1).2 ≠ code ∧ p ∈ f.cfgNext)) ∧
    exec .faultPulseEnd s = .next (settle { s with pkg := { s.pkg with fault := { s.pkg.fault with pulse := false } } }) ∧
    (∀ v, exec (.aliveCtrl v) s = .next (settle { s with pkg := { s.pkg with aliveFresh := true } })) ∧
    exec .aliveTimeout s = .next (settle { s with pkg := { s.pkg with aliveFresh := false } })

/-! ### The Relay and the Baton -/

/-- R379, R381, R382 and R486: the election. A vote that reaches a voting die joins its set; with votes from every die, or at the timeout, the die accepts: for the lowest
index that passes, with the hash of the shares. Codes that differ or accepts that differ are a split baton, no vote that passes leaves no holder; the holder that has identical
accepts of every voter commits, and the commit of the accepted holder ends the election cleanly. A heartbeat period sends each die's heartbeat on both ports and, of a die that
is not the holder, one more.
Choices of the model that it rests on: log entries 86, 87. -/
def Obligations.RelayElection : Prop :=
  ∀ (s : State) (d src : Nat),
    (∀ pass code share, voting d s = true → src < s.dies.length →
      let u : State := { s with baton := { s.baton with votes := Assoc.set s.baton.votes d (Assoc.set (s.baton.votesAt d) src ⟨pass, code, share⟩) } }
      ((u.baton.votesAt d).length ≠ s.dies.length → exec (.vote d src pass code share) s = .next (settle u)) ∧
      ((u.baton.votesAt d).length = s.dies.length → exec (.vote d src pass code share) s = .next (settle (u.sendAccept d)))) ∧
    (voting d s = true → exec (.voteTimeout d) s = .next (settle (s.sendAccept d))) ∧
    (let vs := s.baton.votesAt d
      let m := acceptOf vs
      let u := (s.takeAccept d d m).control d none frAccept ([m.holder.getD 8, m.code] ++ m.voters ++ [leNat m.nonce])
      (∀ h, m.holder = some h → ∃ v, (h, v) ∈ vs ∧ v.pass = true ∧ ∀ p ∈ vs, p.2.pass = true → vs.idxOf (h, v) ≤ vs.idxOf p) ∧
      (m.holder = none ↔ ∀ p ∈ vs, p.2.pass = false) ∧ m.voters = vs.map Prod.fst ∧ m.nonce = sha3256 (vs.flatMap (fun p => p.2.share)) ∧
      (codesDiffer vs = true → s.sendAccept d = u.splitBaton d) ∧
      (codesDiffer vs = false → (∃ p ∈ u.baton.acceptsAt d, p.2 ≠ m) → s.sendAccept d = u.splitBaton d) ∧
      (codesDiffer vs = false → (∀ p ∈ u.baton.acceptsAt d, p.2 = m) → m.holder = none → s.sendAccept d = u.noHolder m.voters) ∧
      (codesDiffer vs = false → (∀ p ∈ u.baton.acceptsAt d, p.2 = m) → m.holder ≠ none → s.sendAccept d = u.tryCommit d)) ∧
    (∀ m own, (s.die d).state = .booting → s.baton.result = .electing → Assoc.get? ((s.takeAccept d src m).baton.acceptsAt d) d = some own →
      (m = own → exec (.accept d src m) s = .next (settle ((s.takeAccept d src m).tryCommit d))) ∧
      (m ≠ own → exec (.accept d src m) s = .next (settle ((s.takeAccept d src m).splitBaton d)))) ∧
    (∀ own, (s.die d).onRelay = true → s.baton.result = .electing → Assoc.get? (s.baton.acceptsAt d) d = some own → own.holder = some src →
      s.baton.committed = some src → exec (.commit d src) s = .next (settle (s.cleanElection src own.code own.nonce own.voters))) ∧
    (2 ≤ s.dies.length → Effect .heartbeatPeriod s (fun t => ∀ e, e < s.dies.length → (s.die e).onRelay = true →
      let beat := fun (dst : Nat) (q : BitVec 16) => (⟨frBeat, .control, e, some dst, q, s.beat e⟩ : RelayFrame)
      (∃ q, .frame 0 (beat (s.peer e 0).1 q) ∈ t.tx) ∧ (∃ q, .frame 1 (beat (s.peer e 1).1 q) ∈ t.tx) ∧
        ∀ h, s.baton.holder = some h → h ≠ e → ∃ q, .frame 0 (beat h q) ∈ t.tx ∧ .frame 1 (beat h q) ∈ t.tx)) ∧
    (∀ b, (s.die d).onRelay = true → beatDiffers b s = false → exec (.heartbeat d b) s = .next (settle s))

/-- R383 and R384: what is a split baton, and what it leaves. After a clean election: a heartbeat that differs, a commit, an order or a state push of a die that is not the holder,
a die's life-cycle word that changes without a transition; at any time a SPLIT frame. Then the package is in LOCK with the persistent flags, every key bus is gated, there is no
holder, and the log is stopped. -/
def Obligations.SplitBaton : Prop :=
  ∀ (s : State) (d src : Nat) (cmd : Instr), s.baton.result = .clean → (s.die d).onRelay = true →
    ((∃ b : Beat, cmd = .heartbeat d b ∧ framesFrom b.src s = true ∧ beatDiffers b s = true) ∨ (cmd = .commit d src ∧ s.baton.holder ≠ some src) ∨
      (∃ resp cls, cmd = .tamperOrder d src resp cls ∧ s.baton.holder ≠ some src) ∨ (∃ ok, cmd = .statePush d src ok ∧ s.baton.holder ≠ some src) ∨ cmd = .splitFrame d ∨
      (∃ w, cmd = .lcDecodeChange d w ∧ d < s.dies.length ∧ lcCode w ≠ lcCode (s.die d).fuses.lc ∧ s.lcc.xfer = none)) →
    ∃ t, exec cmd s = .next t ∧ t.baton.result = .split ∧ t.baton.holder = none ∧ t.alg.stopped = true ∧ t.pkg.lock = true ∧ t.bbd.lock = true ∧ t.bbd.split = true ∧
      ∀ x ∈ t.dies, x.tmn.gated = true

/-- R376, R380, R386, R389 and R447: links and loss. A link that trains comes up, and with the last one of a booting package the dies vote; one that does not stays down; nine
failures of a frame take both ends down; eight missed heartbeats of a port raise class 0x10 and take it down; a die that no port hears is lost, a die that does not hear the holder gates its
bus; the holder's orders are applied; log frames join the arbiter's queue and event frames are delivered. -/
def Obligations.RelayLinks : Prop :=
  ∀ (s : State) (d p : Nat),
    (∀ q, (s.die d).ports[p]? = some q → q.state = .training ∨ q.state = .down → q.stuck = false →
      exec (.linkTrained d p) s = .next (settle (((s.modDie d (fun x => { x with ports := x.ports.modify p (fun q =>
        { q with state := .up, replays := 0, retraining := false }) })).event d RLK p 1).afterTraining)) ∧
      (let u := s.modDie d (fun x => { x with ports := x.ports.modify p (fun q => { q with state := .down, stuck := true, retraining := false }) });
        (q.state = .down → exec (.linkRetrainTimeout d p) s = .next (settle u.afterTraining)) ∧
        (q.state = .training → exec (.linkRetrainTimeout d p) s = .next (settle ((u.count d RLK p 0x11C).event d RLK p 0).afterTraining)))) ∧
    (∀ q, (s.die d).ports[p]? = some q → q.state = .up →
      exec (.replayExhausted d p) s = .next (settle (((((s.count d RLK p 0x104 9).count d RLK p 0x108 8).faultTimes d (608 + 8 * p) 9).faultAct d (608 + 8 * p + 1)).linkDown d p)) ∧
      ((s.die d).onRelay = true → exec (.heartbeatSilence (.port d p)) s =
        .next (settle ((((s.raiseClass d 0x10).count d RLK p 0x10C 8).faultAct d (608 + 8 * p + 2)).portDown d p)))) ∧
    (s.baton.result = .clean → d < s.dies.length → d ≠ s.baton.holder.getD 0 → (s.die d).state = .running →
      exec (.heartbeatSilence (.die d)) s = .next (settle (s.loseDie d))) ∧
    (s.baton.result = .clean → (s.die d).onRelay = true → s.baton.holder ≠ some d → exec (.heartbeatSilence (.holder d)) s =
      .next (settle (s.modDie d (fun y => { y with orphan := true, tmn := { y.tmn with gated := true } })))) ∧
    (∀ src resp cls, s.baton.result = .clean → (s.die d).onRelay = true → s.baton.holder = some src → exec (.tamperOrder d src resp cls) s = .next (settle (s.applyResp d cls resp))) ∧
    (∀ o rest, (s.die d).logOut = o :: rest → let u := s.modDie d (fun x => { x with logOut := rest })
      exec (.logFrame d) s = .next (settle { u with alg := { s.alg with offers := s.alg.offers ++ [o] } })) ∧
    (∀ pg : PageRef, pg.die ≠ 0 → (s.die pg.die).reachable = true → exec (.eventFrame pg) s = .next (settle (s.pageEvent pg.die pg.blk pg.inst))) ∧
    (∀ w, d < s.dies.length → lcCode w ≠ lcCode (s.die d).fuses.lc → s.baton.result ≠ .clean ∨ s.lcc.xfer ≠ none →
      exec (.lcDecodeChange d w) s = .next (settle (s.modDie d (fun x => { x with fuses := { x.fuses with lc := w } })))) ∧
    (s.baton.result ≠ .split → (s.die d).onRelay = true → exec (.splitFrame d) s =
      .next (settle ((s.modDie d (fun x => { x with tmn := { x.tmn with gated := true } })).splitBaton d)))

/-- R378, R385 to R388, R391 and R483: DIE reset and readmission. The holder resets a lost die, or one the manager names, but for a die in service not while a bit is burned: its work goes, its registers take their COLD values, and
DIE_RESET counts; a die that does not join in time, or whose self-tests fail, or whose patch set is rejected (which the tamper record keeps), is excluded; a JOIN of another life-cycle code is a split baton; a good one is acknowledged; the
holder's state push readmits the die, and one whose tag fails raises class 0x0F.
Choices of the model that it rests on: log entry 121. -/
def Obligations.DieReadmission : Prop :=
  ∀ (s : State) (d : Nat), s.baton.result = .clean →
    (s.baton.holder ≠ some d → d < s.dies.length → (s.die d).state ≠ .excluded →
      let reset := fun (u : State) => ((((u.modDie d Die.dieReset).count 0 RLK 0 0x210).offer (Offer.of 0 0 0x2003 d)).faultAct d 624)
      ((s.die d).state = .lost → exec (.dieResetEntry d) s = .next (settle (reset s))) ∧
      ((s.die d).state ≠ .lost → (s.die d).resetReq = true → s.inBurn = false → exec (.dieResetEntry d) s = .next (settle (reset (s.dieGone d)))) ∧
      ((s.die d).state ≠ .lost → (s.die d).resetReq = true → s.inBurn = true →
        exec (.dieResetEntry d) s = .next (settle { s with lcc := { s.lcc with stop := some stMachineCheck } }))) ∧
    (∀ x : Die, x.dieReset.regs = (Die.inReset x.fuses 7 2).regs ∧ x.dieReset.state = .dieReset ∧ x.dieReset.jobs = [] ∧ x.dieReset.fuses = x.fuses) ∧
    ((s.die d).state = .dieReset →
      exec (.rejoinTimeout d) s = .next (settle (s.exclude d)) ∧
      (s.pkg.railsLow.contains d = false →
        (∀ code share, exec (.vjoin (.frame ⟨d, false, code, share⟩)) s = .next (settle (s.exclude d))) ∧
        (∀ code share, code ≠ s.lc → exec (.vjoin (.frame ⟨d, true, code, share⟩)) s = .next (settle (s.splitBaton (s.baton.holder.getD 0)))) ∧
        (∀ share, d < s.dies.length → (patchSet (s.die d).fuses (bootPatches s.flash d)).state ≠ 2 → Effect (.vjoin (.frame ⟨d, true, s.lc, share⟩)) s (fun t => (t.die d).state = .joining ∧ Assoc.get? t.baton.joins d = some share)))) ∧
    (∀ src share own, (s.die d).state = .joining → s.baton.holder = some src → Assoc.get? s.baton.joins d = some own →
      exec (.joinAck d src share) s = .next (settle (s.statePush src d own share)) ∧
      (d < s.dies.length → Effect (.statePush d src true) s (fun t => (t.die d).state = .running ∧ Assoc.get? t.baton.joins d = none ∧ Assoc.get? t.baton.reachable d = some ())) ∧
      exec (.statePush d src false) s = .next (settle ((s.faultAct d 611).raiseClass d 0x0F)))

/-! ### Resets, boot and the host link -/

/-- R421, R428, R483, R502, R510 to R512: COLD and WARM resets. PWRGOOD falling enters COLD reset, PERST_N falling WARM reset, which waits for a bit that is being burned; a die 0
rail at RESET holds the package in COLD reset and is recorded; a rail of another die resets that die. On entry every die is in reset with nothing running, no job, slot or instance
program left, the link is down, READY is low, the log stopped; fuses, the battery RAM and the real-time clock stay. The boot runs when nothing holds the reset any longer.
Choices of the model that it rests on: log entries 2, 89, 90, 94. -/
def Obligations.ColdAndWarmReset : Prop :=
  ∀ (s : State),
    (∀ kind cause, let t := s.enterReset kind cause
      (∀ x ∈ t.dies, x.state = .inReset ∧ x.jobs = [] ∧ x.kvd.slots = [] ∧ x.kpc = [] ∧ x.tmn.gated = true ∧ ∀ u ∈ x.lves, u.eng.phase = .idle) ∧
      t.dies.map Die.fuses = s.dies.map Die.fuses ∧ t.bbd = s.bbd ∧ t.bbram = s.bbram ∧ t.hif.link = .detect ∧ t.pkg.ready = false ∧ t.alg.stopped = true ∧
      t.baton = Baton.reset ∧ t.cards.quorum = Quorum.absent ∧ (kind = 0 → ∀ x ∈ t.dies, x.fcl.sticky = [] ∧ x.fcl.heat = [] ∧ x.queues = [])) ∧
    (s.pkg.pwrgood = true → exec .pwrgoodFall s = .next (settle (State.mainLost { s.enterReset 0 1 with pkg := { (s.enterReset 0 1).pkg with pwrgood := false } }))) ∧
    (∀ b, s.pkg.pwrgood = false → let u : State := { s with flash := b, pkg := { s.pkg with pwrgood := true } }
      (s.pkg.perstN = true → s.pkg.railsLow.contains 0 = false → exec (.pwrgoodRise b) s = .next (settle u.boot)) ∧
      (s.pkg.perstN = false ∨ s.pkg.railsLow.contains 0 = true → exec (.pwrgoodRise b) s = .next (settle u))) ∧
    (let u : State := { s with pkg := { s.pkg with perstN := false } };
     (s.pkg.pwrgood = true → s.pkg.perstN = true → s.pkg.railsLow.contains 0 = false → (∀ t, s.lcc.xfer = some t → t.phase ≠ 2) →
       exec .perstNAssert s = .next (settle (u.enterReset 1 3))) ∧
     (∀ t, s.pkg.pwrgood = true → s.pkg.perstN = true → s.pkg.railsLow.contains 0 = false → s.lcc.xfer = some t → t.phase = 2 →
       exec .perstNAssert s = .next (settle { u with lcc := { s.lcc with deferred := some 3 } })) ∧
     (s.pkg.pwrgood = false ∨ s.pkg.perstN = false ∨ s.pkg.railsLow.contains 0 = true → exec .perstNAssert s = .next (settle u))) ∧
    (∀ b, s.pkg.perstN = false → let u : State := { s with flash := b, pkg := { s.pkg with perstN := true } }
      (s.pkg.pwrgood = true → s.pkg.railsLow.contains 0 = false → (s.die 0).state = .inReset → exec (.perstNRelease b) s = .next (settle u.boot)) ∧
      (s.pkg.pwrgood = false ∨ s.pkg.railsLow.contains 0 = true ∨ (s.die 0).state ≠ .inReset → exec (.perstNRelease b) s = .next (settle u))) ∧
    (0 < s.dies.length → let u := (s.recordTamper 0x22 0 0).enterReset 0 2
      exec (.railReset 0) s = .next (settle { u with pkg := { u.pkg with railsLow := if s.pkg.railsLow.contains 0 then s.pkg.railsLow else s.pkg.railsLow ++ [0] } })) ∧
    (∀ d, 0 < d → d < s.dies.length → let u := s.modDie d (fun x => { Die.inReset x.fuses 2 2 with queues := x.queues })
      exec (.railReset d) s = .next (settle { u with pkg := { s.pkg with railsLow := if s.pkg.railsLow.contains d then s.pkg.railsLow else s.pkg.railsLow ++ [d] } })) ∧
    (∀ d b, s.pkg.railsLow.contains d = true →
      let u : State := { s with flash := b, pkg := { s.pkg with railsLow := s.pkg.railsLow.filter (fun x => decide (x ≠ d)) } }
      (d = 0 → s.pkg.pwrgood = true → s.pkg.perstN = true → exec (.railRestored d b) s = .next (settle u.boot)) ∧
      (d ≠ 0 ∨ s.pkg.pwrgood = false ∨ s.pkg.perstN = false → exec (.railRestored d b) s = .next (settle u)))

/-- R34, R36, R45, R491, R494, R495 and R506: the link comes up, which ends the boot: READY rises, FLIT mode is always on at 64 GT/s, the reset hold of FAULT_N goes, but in INVALID, and a DRS message goes out. A boot whose
flash has no valid directory stops at step 2 with failed step 3; the copy with the higher SEQ is used, copy 0 where they are equal. A flash command that ends counts and raises its event,
or fails with its reason; an ACTIVATE whose candidate verifies is in the flash from then on.
Choices of the model that it rests on: log entries 88, 92, 93, 94. -/
def Obligations.BootAndFlash : Prop :=
  ∀ (s : State),
    (∀ speed width flit, s.hif.link = .training → s.hif.flrActive = false → s.pkg.ready = false →
      Effect (.pcieLinkUp speed width flit) s (fun t => t.pkg.ready = true ∧ (t.lc ≠ 0xF → t.pkg.fault.resetHold = false) ∧ t.hif.link = .l0 ∧ t.hif.drsSent = true ∧
        t.hif.flit = (flit || decide (speed = 6)) ∧ t.hif.width = BitVec.ofNat 5 width ∧ t.hif.speed = BitVec.ofNat 4 speed ∧ t.tx = s.tx ++ [.drs] ∧
        ∀ (d : Nat) (x y : Die), s.dies[d]? = some x → t.dies[d]? = some y → x.state = .running → y.boot.step = 8)) ∧
    (dirValid s.flash.dir0 = false → dirValid s.flash.dir1 = false → dirPick s.flash = none) ∧
    (dirValid s.flash.dir0 = true → dirValid s.flash.dir1 = true → (dirSeq s.flash.dir0 < dirSeq s.flash.dir1 → dirPick s.flash = some (1, s.flash.dir1)) ∧
      (dirSeq s.flash.dir1 ≤ dirSeq s.flash.dir0 → dirPick s.flash = some (0, s.flash.dir0))) ∧
    (dirPick s.flash = none → lcCode (s.bootStepOne.die 0).fuses.lc ≠ 6 → s.boot = s.bootStepOne.allDies (fun x => { x with boot := { x.boot with step := 2, failed := 3, reason := 0xFF } })) ∧
    (∀ r, s.bfi.running = some r →
      let good := (({ s with bfi := { s.bfi with state := 2, running := none } } : State).count 0 BFI 0 0x120).event 0 BFI 0 0
      exec (.flashOpDone .flashError) s = .next (settle (s.flashErr 3)) ∧
      (r.1 ≠ 3 → exec (.flashOpDone .done) s = .next (settle good)) ∧
      (r.1 = 3 → ∀ dir fw patches, dirValid dir = true → Config.fwValid fw = true →
        (∀ d, d < s.dies.length → (patchSet (s.die d).fuses ((patches.filter (fun p => decide (p.1 = d))).map Prod.snd)).state ≠ 2) →
        exec (.flashOpDone (.candidate dir fw patches)) s =
          .next (settle { good.event 0 BFI 0 2 with flash := BootInActivated s.flash s.bfi.copy r.2 dir fw patches })) ∧
      (r.1 = 3 → ∀ dir fw patches, dirValid dir = false ∨ Config.fwValid fw = false → exec (.flashOpDone (.candidate dir fw patches)) s = .next (settle (s.flashErr 5))))

/-- R36, R38, R43, R44, R46 and R47: the resets of R43. A function-level reset, a hot reset, the fall of the link and the return from D3hot stop every manager job without a
completion, reset the live instances and the host-visible registers, clear bus mastering, MSI-X and the routing tables, and are logged; while one runs a configuration write is
answered with Request Retry Status; FUNCTION_READY ends it when no job and no resetting instance is left. Enabling bus mastering lets every unit go on.
Its clauses beyond R47, not the one of R47, rest on choices of the model: log entries 66, 85. -/
def Obligations.LinkResets : Prop :=
  ∀ (s : State),
    let up := s.hif.link = .l0 ∨ s.hif.link = .l1
    (up → s.hif.flrActive = false → exec .functionLevelReset s = .next (settle s.wake.linkReset) ∧
      exec .d3hotEntry s = .next (settle { s with hif := { s.hif with d3hot := true } }) ∧
      (s.hif.d3hot = true → exec .d3hotToD0 s = .next (settle s.wake.linkReset)) ∧
      (∀ on, let u : State := { s.wake with hif := { s.wake.hif with busMaster := on } }
        exec (.busMasterEnable on) s = .next (settle (if u.hostOpen then u.resumeHost else u)))) ∧
    (up → exec .hotReset s = .next (settle s.wake.linkReset) ∧
      exec .dlDown s = .next (settle { s.linkReset with hif := { s.linkReset.hif with link := .training } })) ∧
    (let t := s.linkReset;
      t.hif.busMaster = false ∧ t.hif.d3hot = false ∧ t.hif.flrActive = true ∧ t.hif.ide = [] ∧ t.msix = Msix.reset ∧ t.evr = Evr.reset ∧ t.hif.flrCount = satInc s.hif.flrCount ∧
      ∀ p ∈ t.insts, p.2.jobs = 0 ∧ p.2.busy = 0) ∧
    (s.hif.flrActive = true → up → ∀ c ∈ [Instr.functionLevelReset, .d3hotEntry, .d3hotToD0, .busMasterEnable true, .busMasterEnable false, .msixControl true true,
      .msixControl true false, .msixControl false true, .msixControl false false], exec c s = .next (settle (s.send .retryStatus))) ∧
    (s.hif.flrActive = true → (∀ d ∈ s.dies, d.jobs = []) → (∀ p ∈ s.insts, p.2.code ≠ .resetting) →
      let u : State := { s with hif := { s.hif with flrActive := false, drsSent := true } }
      (up → exec .functionReady s = .next (settle (u.send .drs))) ∧ (¬ up → exec .functionReady s = .next (settle u)))

/-- R35, R36, R37, R38, R48, R50, R68 and R70: requests of the host's link. MSI-X control and table writes; a configuration read is answered with the identity of the part, or with Request Retry
Status while the reset of R43 runs, which discards memory requests and lets the device issue none; the BARs show their sizes; an I/O request is unsupported, which AER reports; L1 is entered without work and left by an access; L0p takes a legal width up to the one trained; IDE key exchanges
need an authenticated session: a key is drawn inside the device, and a selective stream takes its address association.
Its clauses beyond R44, not the one of R44, rest on choices of the model: log entries 67, 68, 69, 70, 123, 124. -/
def Obligations.LinkRequests : Prop :=
  ∀ (s : State), s.hif.link = .l0 →
    (s.hif.flrActive = false →
      (∀ enable mask, exec (.msixControl enable mask) s = .next (settle { s with msix := { s.msix with enable := enable, functionMask := mask } })) ∧
      (∀ v n, n < 2048 → let e := s.msix.entry n
        let put := fun (e' : MsixEntry) => (.next (settle { s with msix := { s.msix with table := Assoc.set s.msix.table n e' } }) : Host.Outcome State Fault Refusal)
        exec (.msixTableWrite (16 * n) v) s = put { e with addr := e.addr.extractLsb' 32 32 ++ v } ∧
        exec (.msixTableWrite (16 * n + 4) v) s = put { e with addr := v ++ e.addr.extractLsb' 0 32 } ∧
        exec (.msixTableWrite (16 * n + 8) v) s = put { e with data := v } ∧
        exec (.msixTableWrite (16 * n + 12) v) s = put { e with masked := bit v 0 }) ∧
      (∀ k, k ≤ 64 →
        let put := fun (x : IdeStream) => (.next (settle (State.drawn { s with hif := { s.hif with ide := Assoc.set s.hif.ide k x } })) : Host.Outcome State Fault Refusal)
        (∀ area, ∃ key, key.length = 32 ∧ exec (.ideKm true k (.keyProg area)) s =
          put { s.hif.stream k with state := 1, key := key, area := if k = 0 then none else some area }) ∧
        exec (.ideKm true k .setStop) s = put { s.hif.stream k with state := 0, key := [] } ∧
        ((s.hif.stream k).state = 1 → exec (.ideKm true k .setGo) s = put { s.hif.stream k with state := 2 }) ∧
        ∀ m, exec (.ideKm false k m) s = .next (settle s)) ∧
      (∀ reg, exec (.configRequest reg) s = .next (settle (State.send { s with freeCtr := s.freeCtr + 1 } (.cfgReply reg (s.cfgReg reg))))) ∧
      s.cfgReg 0 = BitVec.ofNat 32 (s.part.number * 65536 + Config.vendorId.toNat) ∧ bit (s.cfgReg 4) 2 = s.hif.busMaster ∧ bits (s.cfgReg 8) 8 24 = 0x108000 ∧
      bits (s.cfgReg 0x10) 0 27 = 4 ∧ bits (s.cfgReg 0x18) 0 24 = 4 ∧ bits (s.cfgReg 0x20) 0 16 = 4) ∧
    (s.hif.flrActive = true → (∀ reg, exec (.configRequest reg) s = .next (settle (s.send .retryStatus))) ∧ s.hostOpen = false ∧
      ∀ r v, (r.bar = 0 ∨ r.bar = 2 ∨ r.bar = 4) → exec (.registerWrite r v) s = .next (settle s) ∧ exec (.registerRead r) s = .next (settle s)) ∧
    exec .ioRequest s = .next (settle ((s.aerSet 20).send .unsupported)) ∧
    ((∀ d ∈ s.dies, d.busy = false) → (∀ p ∈ s.insts, p.2.portal.mb.bufBusy = false) → exec .l1Entry s = .next (settle { s with hif := { s.hif with link := .l1 } })) ∧
    (∀ w, w ∈ [1, 2, 4, 8, 16] → w ≤ s.hif.trained.toNat →
      exec (.l0pRequest w) s = .next (settle (State.send { s with hif := { s.hif with width := BitVec.ofNat 5 w } } (.linkWidth (BitVec.ofNat 5 w))))) ∧
    (∀ t : State, t.hif.link = .l1 → t.wake.hif.link = .l0)

/-! ### Host access -/

/-- R56, R221, R247, R303, R324, R332, R357, R391, R404, R445, R448, R449, R451, R458, R510: the recorded register writes. Each is offered to the log with its register, its old
and new value and its Requester ID, and, while the log is stopped, counted in MISSED alone, but for the key of DEV_RESET, which then resets at once. What each write does, once its
entry is accepted: LOCK locks its page; OFFLINE and UNFENCE act on their engine; CH_CTRL on the selected channel; SRC_CLEAR on the selected source's two bits; FAULT_PIN drives the
pin; DIE_RESET marks the die; INST_CMD requests the selected instance's reset; QCMD re-authenticates every card or dissolves the quorum; DEV_RESET is a WARM reset.
Choices of the model that it rests on: log entries 75, 76, 77. -/
def Obligations.RecordedWrites : Prop :=
  ∀ (s : State) (d e : Nat) (w : RegW), s.hif.link = .l0 → s.hif.flrActive = false → e < 16 →
    (d < s.dies.length → d < 8 → (s.die d).reachable = true → s.writesWait d = false →
      let offered := fun (blk o : Nat) =>
        (.next (settle (if s.alg.stopped = true then s.miss else s.offer (s.writeOffer d (woff blk e o) w.value w.rid))) : Host.Outcome State Fault Refusal)
      let offered0 := fun (blk o : Nat) =>
        (.next (settle (if s.alg.stopped = true then s.miss else s.offer (s.writeOffer d (woff blk 0 o) w.value w.rid))) : Host.Outcome State Fault Refusal)
      (∀ blk, s.deaf d blk e 0x00C = false → exec (.lock ⟨d, blk, e⟩ w) s = offered blk 0x00C) ∧
      exec (.lveOffline d e w) s = offered LVE 0x010 ∧ exec (.lveUnfence d e w) s = offered MCS 0x010 ∧
      (e < 4 → exec (.bneOffline d e w) s = offered BNE 0x010 ∧ exec (.bneUnfence d e w) s = offered BNE 0x010) ∧
      (e < 2 → exec (.syeOffline d e w) s = offered SYE 0x010 ∧ exec (.syeUnfence d e w) s = offered SYE 0x010) ∧
      exec (.chOffline d w) s = offered0 DMX 0x104 ∧ exec (.srcClear d w) s = offered0 FCL 0x10C ∧
      (d = 0 → exec (.faultPin w) s = offered0 FCL 0x130 ∧ exec (.dieResetRequest w) s = offered0 RLK 0x20C ∧ exec (.instCmdReset w) s = offered0 VIM 0x110 ∧
        exec (.reauth w) s = offered0 CIU 0x204 ∧ exec (.dissolve w) s = offered0 CIU 0x204 ∧
        exec (.devReset w) s = if s.alg.stopped = true ∧ w.value = 0xA55A then .next (settle (s.warmSource 4)) else offered0 HIF 0x108) ∧
      (∀ blk o, o < 0x1000 → ¬ (blk = HIF ∧ o = 0x108) → let x := s.writeOffer d (woff blk e o) w.value w.rid
        x.kind = 1 ∧ x.die = d ∧ x.event = 0x1000 + blk ∧ x.object = woff blk e o ∧ x.rid = w.rid ∧
        x.digestOf = leBytes 4 (s.oldValue d (woff blk e o)).toNat ++ leBytes 4 w.value.toNat)) ∧
    (∀ v, let src := bits (s.reg d FCL 0 0x100) 0 11
      let ch := bits (s.reg d DMX 0 0x100) 0 4
      (∀ blk, s.applyReg d (woff blk e 0x00C) v = if bit v 0 = true then s.setReg d blk e 0x00C 1 else s) ∧
      s.applyReg d (woff LVE e 0x010) v = s.setReg d LVE e 0x010 (v &&& 1#32) ∧
      (bit v 0 = true → s.applyReg d (woff MCS e 0x010) v = s.modDie d (fun x => { x with lves := x.lves.modify e (fun u => { u with svc := u.svc.unfence [3, 4, 5] }) })) ∧
      (bit v 1 = false → s.applyReg d (woff BNE e 0x010) v = s.setReg d BNE e 0x010 (v &&& 1#32) ∧
        s.applyReg d (woff SYE e 0x010) v = s.setReg d SYE e 0x010 (v &&& 1#32)) ∧
      (bit v 1 = true → s.applyReg d (woff BNE e 0x010) v = (s.setReg d BNE e 0x010 (v &&& 1#32)).modDie d (fun x =>
          { x with bnes := x.bnes.modify e (fun u => { u with svc := u.svc.unfence [3, 4] }) }) ∧
        s.applyReg d (woff SYE e 0x010) v = (s.setReg d SYE e 0x010 (v &&& 1#32)).modDie d (fun x =>
          { x with syes := x.syes.modify e (fun u => { u with svc := u.svc.unfence [4] }) })) ∧
      s.applyReg d (woff DMX 0 0x104) v = (s.setChan d ch { (s.die d).chan ch with offline := bit v 0 }).resumeChans d ∧
      s.applyReg d (woff FCL 0 0x10C) v = s.modFcl d (fun f => { f with
        sticky := if bit v 0 = true then Assoc.erase f.sticky src else f.sticky, severe := if bit v 1 = true then Assoc.erase f.severe src else f.severe }) ∧
      s.applyReg 0 (woff FCL 0 0x130) v = s.setReg 0 FCL 0 0x130 (v &&& 1#32) ∧
      s.applyReg 0 (woff HIF 0 0x108) 0xA55A = s.warmSource 4 ∧
      (bits v 0 2 = 1 → s.applyReg 0 (woff VIM 0 0x110) v = s.requestReset s.instSel true) ∧
      (bits v 0 2 = 2 → s.applyReg 0 (woff CIU 0 0x204) v = State.dissolve (s.offer (Offer.of 6 0 0x5005 0))) ∧
      (∀ k, k < s.dies.length → bits v 0 3 = k → bits v 16 16 = 0xA55A → s.baton.holder ≠ some k → (s.die k).state ≠ .excluded → s.baton.result ≠ .split →
        s.applyReg 0 (woff RLK 0 0x20C) v = s.modDie k (fun x => { x with resetReq := true })) ∧
      (∀ x : EngineSvc, ∀ l, x.unfence l = if x.fence = 0 ∨ l.contains x.fence.toNat = true then x else { x with selfTest := true }))

/-- R61, R62, R355 to R359, R162, R175 to R178 and R424: the registers of a portal. P_RESET of 1 requests the instance's reset and counts where one waits or runs; the mailbox
delivers a message, overflows on a full one, copies a buffer through a read of the tenant's memory, which waits while the function may issue no request; a staging command is taken while STATE is not BUSY, with its error decided then,
and acts on the transient slots at its end; an attestation command latches the challenge, and ends with the verifier's response or an error.
Choices of the model that it rests on: log entries 57, 60, 113, 114. -/
def Obligations.PortalRequests : Prop :=
  ∀ (s : State) (n : Nat), s.hif.link = .l0 → s.hif.flrActive = false →
    let i := s.inst n
    let m := i.portal.mb
    let k := i.portal.keys
    let put := fun (u : State) (f : Mailbox → Mailbox) => u.modMb n f
    ((i.code = .active → i.work.resetWaiting = false → exec (.pReset n 1) s = .next (settle (s.modInst n (fun x => { x with work := { x.work with resetWaiting := true } })))) ∧
      (i.code = .resetting ∨ i.code = .active ∧ i.work.resetWaiting = true → exec (.pReset n 1) s = .next (settle (s.count 0 VIM 0 0x220))) ∧
      (∀ v, v ≠ 1 → exec (.pReset n v) s = .next (settle s))) ∧
    (portalOpen n s = true →
      exec (.mbAck n) s = .next (settle (put s (fun m => { m with fromFull := false }))) ∧
      (∀ v, bit v 0 = true → bit v 1 = false →
        let clean := put s (fun m => { m with overflow := false })
        let len := (m.toMgr.getD 15 0).toNat
        (m.toFull = true ∨ m.bufBusy = true → exec (.mbSend n v) s = .next (settle (put s (fun m => { m with overflow := true })))) ∧
        (m.toFull = false → m.bufBusy = false → bit v 2 = false →
          exec (.mbSend n v) s = .next (settle ((put clean (fun m => { m with toFull := true, bufBusy := false, buf := false })).event 0 VIM 0 0))) ∧
        (m.toFull = false → m.bufBusy = false → bit v 2 = true → 0 < len → len ≤ 4096 → s.mbArea ≠ 0 →
          (s.die 0).kvdReads = [] → 0 < s.dies.length →
          let r : KvdRead := ⟨.mailbox n, m.toMgr.getD 14 0 ++ m.toMgr.getD 13 0, len, some i.cfg.pasid, false, n, false, false⟩
          let t := (put clean (fun m => { m with bufBusy := true })).modDie 0 (fun y => { y with kvdReads := [r] })
          (s.kvdOpen 0 = true → exec (.mbSend n v) s = .next (settle (((t.modDie 0 (fun y => { y with kvdReads := [{ r with sent := true }] })).send
            (.read 0 (.mailbox n) (m.toMgr.getD 14 0 ++ m.toMgr.getD 13 0) len (some i.cfg.pasid) false)).countBytes 0 false len))) ∧
          (s.kvdOpen 0 = false → exec (.mbSend n v) s = .next (settle t)))) ∧
      (s.kvdSent 0 (.mailbox n) = true →
        (∀ data, m.bufData = none →
          (s.hostOpen = true → exec (.mbBufferCopied n (.good data)) s = .next (settle ((State.event
            (put (((put s (fun m => { m with bufData := none })).send (.write (s.mbArea + BitVec.ofNat 64 (n * 0x1000)) data none false)).countBytes 0 true data.length)
              (fun m => { m with toFull := true, bufBusy := false, buf := true, bufErr := false })) 0 VIM 0 0).kvdDone 0))) ∧
          (s.hostOpen = false → exec (.mbBufferCopied n (.good data)) s = .next (settle ((put s (fun m => { m with bufData := some data })).kvdDone 0)))) ∧
        (∀ cause, exec (.mbBufferCopied n (.failed cause)) s = .next (settle ((State.event
          (put ((s.aerCause cause).count 0 HIF 0 0x118) (fun m => { m with toFull := true, bufBusy := false, buf := false, bufErr := true })) 0 VIM 0 0).kvdDone 0))))) ∧
    (0 < s.dies.length → (s.die 0).reachable = true → s.writesWait 0 = false → s.instSel = n →
      exec .mgrMbAck s = .next (settle (put s (fun m => { m with toFull := false }))) ∧
      (i.code.live = true → m.fromFull = false →
        exec .mgrMbSend s = .next (settle ((put s (fun m => { m with fromMgr := m.out, fromFull := true, overflowOut := false })).portalEvent n 8))) ∧
      (i.code.live = true → m.fromFull = true → exec .mgrMbSend s = .next (settle (put s (fun m => { m with overflowOut := true }))))) ∧
    (portalOpen n s = true → i.code = .active → k.ksState ≠ 1 → ∀ w,
      let taken := fun (cmd : W32) => let key := (wordsBytes k.ksData).take (bits cmd 16 7)
        (s.modPk n (fun k => { k with
          ksState := 1, ksSlot := bits cmd 0 3, ksErr := BitVec.ofNat 8 (s.stageErr n cmd key), ksCmd := cmd, ksKey := key, ksData := List.replicate 16 0 })).recordStage n cmd
          (s.stageErr n cmd key)
      exec (.kstageLoad n w) s = .next (settle (taken (stageWord 0 w))) ∧ exec (.kstageClear n w) s = .next (settle (taken (stageWord 1 w))) ∧
      exec (.kstageClearAll n w) s = .next (settle (taken (stageWord 2 w))) ∧
      (∀ t, t = taken (stageWord 3 w) → exec (.kstageOpRefused n w) s = exec (.kstageDone n) t) ∧
      (∀ op, op < 4 → bits (stageWord op w) 3 2 = op) ∧
      (∀ cmd key, s.pkg.lock = true ∨ s.alg.stopped = true → s.stageErr n cmd key = 6) ∧
      (∀ cmd key, s.pkg.lock = false → s.alg.stopped = false → bits cmd 3 2 = 3 → s.stageErr n cmd key = 8)) ∧
    (k.ksState = 1 →
      (k.ksErr ≠ 0 → exec (.kstageDone n) s = .next (settle ((s.modPk n (fun k => { k with ksState := 3, ksKey := [] })).portalEvent n 11))) ∧
      (k.ksErr = 0 →
        let room := fun (u : State) (d : Nat) => u.freed d ((u.transientRoom d n (bits k.ksCmd 0 3) k.ksKey.length).getD (u.die d).kvd)
        let t := if bits k.ksCmd 3 2 = 0 then s.dieList.foldl room s else s
        exec (.kstageDone n) s = .next (settle (((t.modInst n (fun i => { i with transients := stageApply k.ksCmd k.ksKey i.transients })).modPk n
          (fun k => { k with ksState := 2, ksKey := [] })).portalEvent n 11)))) ∧
    (∀ v, portalOpen n s = true → k.attState ≠ 1 → bit v 31 = true →
      let busy := fun (t : State) (code : W16) (job : Option Nat) => t.modPk n (fun k => { k with
        attState := 1, attVerifier := bits v 0 6, attCode := code, attJob := job, attMsg := s.attMessage n (bits v 0 6) s.bbd.rtc.toNat (wordsBytes k.attChal), attResp := List.replicate 64 0 })
      let x := attJob (bits v 0 6)
      (∀ f, s.secCheck 0 x = some f → exec (.attCmd n v) s = .next (settle (busy s f.1 none))) ∧
      (s.secCheck 0 x = none → let x := { x with data := { x.data with wants := [s.mkWant x .verifier (BitVec.ofNat 32 (0x10000002 + bits v 0 6))] } }
        exec (.attCmd n v) s = .next (settle (busy ((s.addJob 0 x).advance 0 (s.die 0).nextJob) 0 (some (s.die 0).nextJob))))) ∧
    (k.attState = 1 → ∀ j x r, k.attJob = some j → s.job? 0 j = some x → x.failed = none → s.jobKey 0 x 0 = some r → s.pkg.lock = false →
      let gone := s.modDie 0 (fun y => y.dropJob j)
      (r.granted n = true → exec (.attDone n) s = .next (settle ((gone.modPk n (fun k' => { k' with
        attState := 2, attCode := stOk, attJob := none, attMsg := [], attResp := attResponse (r.payload.drop 2) k.attMsg })).portalEvent n 10))) ∧
      (r.granted n = false → exec (.attDone n) s = .next (settle ((gone.modPk n (fun k' => { k' with
        attState := 3, attCode := stKeyNotFound, attJob := none, attMsg := [] })).portalEvent n 10))))

/-- R40, R49, R50, R53 to R57, R59, R436, R444, R459, R500: host reads and writes. An aligned doubleword of a reachable die's window is written or read, a quadword as its two
halves; other sizes are refused, a read with Completer Abort; a wrong digest is counted and reported in AER. A reserved offset
reads zero and ignores writes; a page raises its event while a bit of EVT_PEND & EVT_EN is one; EVT_PEND takes ones to clear, EVT_EN is written plain, EVT_FORCE works in TESTED
alone. Reads of RTC_LO and MONO_LO latch their high words. The tables of the Event Router, the group acknowledgement, and the commands of the boot flash. -/
def Obligations.HostRegisters : Prop :=
  (∀ (s : State) (d off : Nat) (w : RegW), off < 0x1000000 → off < 0x10000 ∨ Machine.pagesOf (off / 0x10000) ≤ off / 0x1000 % 16 ∨ 0x1B0000 ≤ off →
    s.windowWord d off = 0 ∧ s.windowWrite d off w = s ∧ s.readEffect d off = s) ∧
  (∀ (x : Die) (blk e : Nat), x.raises blk e = true ↔ x.reg blk e 0x018 &&& x.reg blk e 0x01C ≠ 0) ∧
  ∀ (s : State), s.hif.link = .l0 → s.hif.flrActive = false →
    (∀ (r : HostReq) (v : W64) (d o : Nat), r.ide = none → r.digest = .good → r.bar = 0 → d < s.dies.length → (s.die d).reachable = true → s.writesWait d = false →
      d < 8 → o < 0x1000000 → r.off = d * 0x1000000 + o →
      (r.size = .dword → o % 4 = 0 →
        exec (.registerWrite r v) s = .next (settle (s.windowWrite d o ⟨v.extractLsb' 0 32, r.rid⟩)) ∧
        exec (.registerRead r) s = .next (settle (((s.readEffect d o).drawn).send (.readReply (s.windowWord d o))))) ∧
      (r.size = .other →
        exec (.registerWrite r v) s = .next (settle (s.count 0 HIF 0 0x114)) ∧
        exec (.registerRead r) s = .next (settle (State.send ((s.count 0 HIF 0 0x114).aerSet 15) .completerAbort)))) ∧
    (∀ (r : HostReq) (v : W64), r.ide = none → r.digest = .bad → r.bar = 0 → r.off < 0x8000000 →
      exec (.registerWrite r v) s = .next (settle (((s.aerSet 19).count 0 HIF 0 0x110).faultAct 0 584)) ∧ exec (.registerRead r) s = exec (.registerWrite r v) s) ∧
    (∀ (d blk e : Nat) (w : RegW) (row : RegRow), e < 16 →
      (regRow? blk 0x018 = some row → recordedReg blk 0x018 row = false → s.deaf d blk e 0x018 = false →
        s.windowWrite d (woff blk e 0x018) w = s.setReg d blk e 0x018 (s.reg d blk e 0x018 &&& ~~~w.value)) ∧
      (regRow? blk 0x01C = some row → row.acc = .rw → s.deaf d blk e 0x01C = false →
        s.windowWrite d (woff blk e 0x01C) w = s.setReg d blk e 0x01C (w.value &&& BitVec.ofNat 32 row.mask))) ∧
    (∀ (d blk e : Nat) (w : RegW), d < s.dies.length → d < 8 → (s.die d).reachable = true → s.writesWait d = false → s.deaf d blk e 0x020 = false →
      (s.lc = 1 → exec (.evtForce ⟨d, blk, e⟩ w) s =
        .next (settle (s.setReg d blk e 0x018 (s.reg d blk e 0x018 ||| (w.value &&& BitVec.ofNat 32 (2 ^ evtBits blk - 1)))))) ∧
      (s.lc ≠ 1 → exec (.evtForce ⟨d, blk, e⟩ w) s = .next (settle s))) ∧
    (∀ d w, d < s.dies.length → d < 8 → (s.die d).reachable = true → s.writesWait d = false → bit w.value 0 = true →
      let g := bits (s.reg d FCL 0 0x110) 0 6
      (Assoc.get? (s.die d).fcl.handling g).isSome = true →
      ((s.die d).fcl.group g = 0 → exec (.grpCtrlAck d w) s = .next (settle (s.modFcl d (fun f => { f with handling := Assoc.erase f.handling g })))) ∧
      ((s.die d).fcl.group g ≠ 0 → exec (.grpCtrlAck d w) s = .next (settle (s.event d FCL 0 0)))) ∧
    (0 < s.dies.length → (s.die 0).reachable = true → s.writesWait 0 = false →
      exec .rtcLoRead s = .next (settle (State.send { s with bbd := { s.bbd with rtcHi := s.bbd.rtc.extractLsb' 32 32 } } (.readReply (s.bbd.rtc.extractLsb' 0 32)))) ∧
      exec .monoLoRead s = .next (settle (State.send { s with bbd := { s.bbd with monoHi := s.bbd.mono.extractLsb' 32 32 } } (.readReply (s.bbd.mono.extractLsb' 0 32)))) ∧
      (∀ v : W32, bit v 31 = false →
        (fixedRoute (bits (s.reg 0 EVR 0 0x100) 4 8) = false →
          exec (.route v) s = .next (settle { s with evr := { s.evr with routes := Assoc.set s.evr.routes (s.reg 0 EVR 0 0x100).toNat (v &&& 0x800007FF#32) } })) ∧
        exec (.mqRoute v) s = .next (settle { s with evr := { s.evr with
          mqRoutes := Assoc.set s.evr.mqRoutes (s.reg 0 EVR 0 0x108).toNat
            ((v &&& 0x800007FF#32) ||| (Assoc.getD s.evr.mqRoutes (s.reg 0 EVR 0 0x108).toNat 0 &&& 0x40000000#32)) } })) ∧
      (∀ v : W32, bit v 31 = true → bit (Assoc.getD s.evr.mqRoutes (s.reg 0 EVR 0 0x108).toNat 0) 30 = true →
        exec (.mqRoute v) s = .next (settle (State.signal { s with evr := { s.evr with
          mqRoutes := Assoc.set s.evr.mqRoutes (s.reg 0 EVR 0 0x108).toNat (v &&& 0x800007FF#32) } } (bits (v &&& 0x800007FF#32) 0 11)))) ∧
      (∀ k v, k < 4 → let i := bits (s.reg 0 EVR 0 0x110) 0 15
        exec (.iitData k v) s = .next (settle { s with evr := { s.evr with iit := Assoc.set s.evr.iit i ((s.evr.iitEntry i).setWord k v) } })) ∧
      (∀ w : RegW, s.bfi.state ≠ 1 →
        let a := s.progAddr
        let sect := a / 65536 * 65536
        let e := s.bfi.entries.getD (bits w.value 4 4) ⟨0, 0, 0, 0⟩
        let runs := fun (op k x : Nat) (data : List Byte) => (.next (settle (State.send
          { s with bfi := { s.bfi with state := 1, err := 0, running := some (op, k) } } (.flashOp op x data))) : Host.Outcome State Fault Refusal)
        let fails := fun (err : Nat) => (.next (settle (s.flashErr err)) : Host.Outcome State Fault Refusal)
        (bits w.value 0 2 = 1 → exec (.flashErase w) s =
          if s.lc = 6 then fails 6 else if s.bfi.inCandidate sect 65536 = false then fails 1 else runs 1 0 sect []) ∧
        (bits w.value 0 2 = 2 → exec (.flashProgram w) s =
          if s.lc = 6 then fails 6 else if s.bfi.inCandidate a s.progLen = false then fails 1 else if 256 < a % 256 + s.progLen then fails 2
          else runs 2 0 a (s.bfi.progBytes s.progLen)) ∧
        (bits w.value 0 2 = 3 → exec (.flashActivate w) s = if s.lc = 6 then fails 6 else if e.type ≠ 6 then fails 4 else runs 3 (bits w.value 4 4) e.base [])))

/-! ### Queues -/

/-- R62, R115, R116, R119, R120, R131 to R133, R141 to R147: doorbells and queue commands of a manager queue, and of a tenant's through its portal. SQ_TAIL in range is taken, else
the queue enters ERROR with cause 8; CQ_HEAD in range frees completion slots, else HEAD_ERR; SQ_INVAL discards copies of a range and is done when the reads of it have returned, until when a further one is ignored; RESUME and SKIP leave
ERROR; ENABLE starts a
DISABLED context at zero; DISABLE is taken at once and effective when no job is in flight and none is held. -/
def Obligations.QueueCommands : Prop :=
  (∀ k p c : Nat, c < 2 ^ (k + 1) → p < 2 ^ (k + 1) → ringCount k p c < 2 ^ (k + 1) ∧ (c + ringCount k p c) % 2 ^ (k + 1) = p) ∧
  ∀ (s : State) (x : QueueRef) (d q : Nat), s.hif.link = .l0 → s.hif.flrActive = false → d < 8 → d < s.dies.length → (s.die d).reachable = true → s.writesWait d = false →
    (x = .manager d q ∧ (s.queue d q).ctx.rings.mgr = true ∨ ∃ n k, x = .tenant n k ∧ portalOpen n s = true ∧ (s.inst n).home k = some (d, q)) →
    let c := (s.queue d q).ctx
    let reads := fun (c : QCtx) => (c.win.filter (fun (p : Nat × Prefetch) => match p.2 with | .copy _ => false | .reading _ => true)).map Prod.fst
    (c.state ≠ .disabled →
      (∀ i rid, let t := i % 2 ^ (c.rings.ks + 1)
        (c.tailOk t = true → exec (.sqTailDoorbell x i rid) s = .next (settle
          (((s.modCtx d q (fun c => { c with rings := { c.rings with sqTail := t } })).modAux d q (fun a => { a with rid := rid })).pump d q))) ∧
        (c.tailOk t = false → c.state = .active → exec (.sqTailDoorbell x i rid) s = .next (settle (s.queueError d q 8 c.rings.sqHead))) ∧
        (c.tailOk t = true ↔ ringCount c.rings.ks t c.rings.sqHead ≤ 2 ^ c.rings.ks ∧
          ringCount c.rings.ks c.rings.sqTail c.rings.sqHead ≤ ringCount c.rings.ks t c.rings.sqHead)) ∧
      (∀ i, let h := i % 2 ^ (c.rings.kc + 1)
        (c.headOk h = true → exec (.cqHeadDoorbell x i) s = .next (settle
          (((s.modCtx d q (fun c => { c with headErr := false, rings := { c.rings with cqHead := h } })).release d q).pump d q))) ∧
        (c.headOk h = true ↔ ringCount c.rings.kc c.rings.cqTail h ≤ ringCount c.rings.kc c.rings.cqTail c.rings.cqHead) ∧
        (c.headOk h = false → exec (.cqHeadDoorbell x i) s = .next (settle (s.modCtx d q (fun c => { c with headErr := true })))))) ∧
    (c.state = .disabled → (∀ i rid, exec (.sqTailDoorbell x i rid) s = .next (settle s)) ∧ ∀ i, exec (.cqHeadDoorbell x i) s = .next (settle s)) ∧
    (∀ v, bits v 30 2 = 0 → let first := bits v 0 15
      let last := bits v 15 15
      let hit := fun i => c.window.contains i && inRange c.rings.ks first last (ringSlot c.rings.ks i)
      let n := (c.win.filter (fun (p : Nat × Prefetch) => hit p.1 && (match p.2 with | .copy _ => true | .reading _ => false))).length
      let t := if hit c.rings.sqHead = true then s.cancelPrep d q else s
      (c.invWait = [] → exec (.sqInval x v) s = .next (settle ((t.modCtx d q (fun c' => { c' with
        win := dropWindow c'.win (fun i => !hit i), discarded := n, invWait := (reads c').filter hit, invDone := ((reads c').filter hit).isEmpty })).pump d q))) ∧
      (c.invWait ≠ [] → exec (.sqInval x v) s = .next (settle s))) ∧
    (c.state = .error → c.invWait = [] → let resumed := fun (u : State) => ((u.cancelPrep d q).modCtx d q (fun c => { c with
        state := .active, errCode := 0, invWait := reads c, invDone := (reads c).isEmpty, win := dropWindow c.win (fun _ => false) })).pump d q
      exec (.resume x) s = .next (settle (resumed s)) ∧
      (∀ v, bits v 30 2 = 1 → exec (.sqInval x v) s = exec (.resume x) s) ∧ (∀ v, bits v 30 2 = 2 → exec (.sqInval x v) s = exec (.skip x) s) ∧
      (c.errCode = 7 ∨ c.errCode = 8 → exec (.skip x) s = exec (.resume x) s) ∧
      (c.errCode ≠ 7 → c.errCode ≠ 8 → (s.queue d q).aux.prep = none → exec (.skip x) s = .next (settle (State.resumeQueue
        ((s.modCtx d q (fun c => { c with rings := { c.rings with sqHead := ringNext c.rings.ks c.rings.sqHead } })).modAux d q
          (fun a => { a with chainOpen := false, chainJob := none, chainAborted := false })) d q)))) ∧
    (c.state ≠ .error → exec (.resume x) s = .next (settle s) ∧ exec (.skip x) s = .next (settle s)) ∧
    (q < 4096 → c.state = .disabled → 4 ≤ c.rings.ks → 4 ≤ c.rings.kc → (c.rings.bound = true → (s.inst c.rings.inst).code.live = true) →
      ∃ y : Queue, exec (.enable d q) s = .next (settle (s.setQueue d q y)) ∧ y.ctx.state = .active ∧ y.ctx.rings.sqHead = 0 ∧ y.ctx.rings.sqTail = 0 ∧
        y.ctx.rings.cqHead = 0 ∧ y.ctx.rings.cqTail = 0 ∧ y.ctx.seqNo = 0 ∧ y.ctx.epoch = 0 ∧ y.ctx.held = [] ∧ y.ctx.win = [] ∧ y.aux.irqNow = c.rings.irq) ∧
    (c.state ≠ .disabled → exec (.enable d q) s = .next (settle s)) ∧
    (c.rings.mgr = true → c.state ≠ .disabled → exec (.disable d q) s = .next (settle (s.modAux d q (fun a => { a with disableReq := true })))) ∧
    ((s.queue d q).aux.disableReq = true → c.state ≠ .disabled → c.inflight = 0 → c.held = [] → (s.queue d q).aux.prep = none →
      exec (.disableEffective d q) s = .next (settle
        ((s.modCtx d q (fun c => { c with state := .disabled, stalled := false, win := dropWindow c.win (fun _ => false) })).modAux d q
          (fun a => { a with disableReq := false, chainOpen := false, chainJob := none, chainAborted := false, irqCount := 0, irqTimer := false })))) ∧
    (0 < c.inflight ∨ c.held ≠ [] → exec (.disableEffective d q) s = .next (settle s)) ∧
    ((s.queue d q).aux.irqTimer = true → exec (.irqDelayExpiry d q) s = .next (settle (s.queueEvent d q))) ∧
    ((s.queue d q).aux.irqCount ≠ 0 → max 1 (bits (s.queue d q).aux.irqNow 0 8) ≤ (s.queue d q).aux.irqCount → exec (.irqCountReached d q) s = .next (settle (s.queueEvent d q)))

/-- R41, R45, R131, R155, R157, R174, R331 to R334: what returns. An entry is kept, or read again where its slot was discarded; a table entry, a blob or a fill (which an LVE computes, but where a copy is filled) takes its job on; a read
of a job appends its bytes; a read that fails is counted and puts an entry's queue in ERROR with cause 7, or ends the job; a descriptor that completes moves its bytes and goes on or ends
the transfer; an integrity failure ends it with INTEGRITY_FAIL; a paced channel resumes at LOW.
Choices of the model that it rests on: log entries 62, 72. -/
def Obligations.QueueReads : Prop :=
  ∀ (s : State) (d : Nat),
    (∀ q i bytes,
      (Assoc.get? (s.queue d q).ctx.win i = some (.reading false) →
        exec (.entryFetched d q i bytes) s = .next (settle ((s.modCtx d q (fun c => { c with win := Assoc.set c.win i (.copy (fit 64 bytes)) })).pump d q)) ∧
        exec (.hostReadCompletion d (.entry q i) (.good bytes)) s = exec (.entryFetched d q i bytes) s ∧
        (∀ cause, let t := ((s.aerCause cause).count 0 HIF 0 0x118).modCtx d q (fun c => { c with win := Assoc.erase c.win i })
          (t.queue d q).ctx.state = .active → exec (.hostReadCompletion d (.entry q i) (.failed cause)) s = .next (settle (t.queueError d q 7 i)))) ∧
      (Assoc.get? (s.queue d q).ctx.win i = some (.reading true) →
        exec (.entryFetched d q i bytes) s = .next (settle ((s.modCtx d q (fun c => { c with
          win := Assoc.erase c.win i, invWait := c.invWait.erase i, invDone := c.invDone || (c.invWait.contains i && (c.invWait.erase i).isEmpty) })).pump d q)))) ∧
    (∀ j bytes, let r : JobRef := ⟨d, j⟩
      exec (.blobTableEntryFetched r bytes) s = .next (settle ((s.gotEntry d j bytes).goOn d j)) ∧
      exec (.blobFetched r bytes) s = .next (settle ((s.gotBlob d j bytes).goOn d j)) ∧
      exec (.hostReadCompletion d (.job j 0) (.good bytes)) s = exec (.blobTableEntryFetched r bytes) s ∧
      exec (.hostReadCompletion d (.job j 1) (.good bytes)) s = exec (.blobFetched r bytes) s) ∧
    (∀ what, exec (.completionTimeout d what) s = exec (.hostReadCompletion d what (.failed 1)) s) ∧
    (∀ j part x bytes, s.job? d j = some x → part ∈ x.data.reads → 4 ≤ part → part ≠ partAux →
      let ch := (s.die d).chanOf j part
      let c := (s.die d).chan ch
      let t := (s.modJob d j (fun y => let z := y.gotRead part;
        { z with data := { z.data with inData := z.data.inData ++ fit c.asked bytes } })).setChan d ch { c with got := c.got + c.asked, asked := 0 }
      exec (.hostReadCompletion d (.job j part) (.good bytes)) s = .next (settle
        (((if c.got + c.asked < min descBytes c.remain then t.goOnDesc d ch else t).checkStaged d j).pumpDie d))) ∧
    (∀ j part x cause, s.job? d j = some x → part ∈ x.data.reads → 4 ≤ part → part ≠ partStream →
      exec (.hostReadCompletion d (.job j part) (.failed cause)) s = .next (settle
        ((((((s.aerCause cause).count 0 HIF 0 0x118).modJob d j (fun y => y.gotRead part)).freeChans d j).failPrep d j stHostFault (BitVec.ofNat 32 cause)).pumpDie d))) ∧
    (∀ j x i bytes, s.job? d j = some x → x.data.kpcEntry = some i → x.stage = .fill → x.failed = none → 3 ∉ x.data.reads → s.needsPubEntry d x = false → x.data.leaf = none →
      (s.fillsOnLve d x = false ∨ ∃ u ∈ (s.die d).lves, u.fill = some j) →
      let full := fun (k : Assoc KpcEntry) => Assoc.update k i (fun e => { e with use := .entry, bytes := s.fillBytes d x bytes, block := s.fillBlock d x })
      let t := s.modDie d (fun y => { y with
        lves := y.lves.map (fun u => if u.fill = some j then { u with fill := none } else u)
        kpc := (full y.kpc).filter (fun (p : Nat × KpcEntry) => !decide (x.data.prov = some p.1)) })
      let u := t.modJob d j (fun y => { y with data := { y.data with prov := none, reads := y.data.reads.filter (fun r => decide (r ≠ 3)) } })
      exec (.kpcFillComplete ⟨d, j⟩ bytes) s = .next (settle ((u.startInput d j).pumpDie d))) ∧
    (∀ ch j x, let c := (s.die d).chan ch
      let n := min descBytes c.remain
      let c' : Channel := { c with pos := c.pos + n, remain := c.remain - n, got := 0, descs := satInc c.descs }
      ch < 14 → c.job = some j → s.job? d j = some x → c.state = .active →
      ((c.part = partOut ∨ n ≤ c.got) →
        (c.remain ≤ descBytes → exec (.descriptorComplete d ch .ok) s = .next (settle ((s.setChan d ch c').transferDone d ch j c.part))) ∧
        (descBytes < c.remain → exec (.descriptorComplete d ch .ok) s = .next (settle
          ((((s.setChan d ch c').nextDesc d ch).checkStaged d j).pumpDie d)))) ∧
      (x.stage = .input → ∃ u : State, u = (((s.faultAct d 578).event d DMX 0 2).modJob d j (fun y => { y with data := { y.data with reads := [] } })).freeChans d j ∧
        (∀ y, u.job? d j = some y → y.stage = .input → exec (.descriptorComplete d ch .integrity) s = .next (settle ((u.failPrep d j stIntegrity).pumpDie d))))) ∧
    (∀ ch n, 13 ≤ ch → ch < 16 → d < s.dies.length →
      exec (.descriptorComplete d ch (.short n)) s = .next (settle ((s.count d DMX 0 0x188).event d DMX 0 0)) ∧
      exec (.descriptorComplete d ch (.overrun)) s = .next (settle ((s.count d DMX 0 0x18C).event d DMX 0 1))) ∧
    (∀ ch j, ((s.die d).chan ch).job = some j → ((s.die d).chan ch).state = .pacing → s.syeFill d j ≤ 64 * bits (s.reg d DMX 0 0x140) 16 12 →
      exec (.paceResume d ch) s = .next (settle (s.goOnDesc d ch))) ∧
    (∀ (addr : W64) (rest room : Nat), paceBurst addr rest room ≤ rest ∧ paceBurst addr rest room ≤ room ∧
      (paceBurst addr rest room < rest → paceBurst addr rest room = 0 ∨ (addr.toNat + paceBurst addr rest room) % 4096 = 0) ∧
      (∀ m, m ≤ rest → m ≤ room → (m = rest ∨ (addr.toNat + m) % 4096 = 0) → m ≤ paceBurst addr rest room)) ∧
    (∀ ch j x, let c := (s.die d).chan ch
      let addr : W64 := x.sqe.inAddr + BitVec.ofNat 64 (c.pos + c.got)
      c.job = some j → s.job? d j = some x → c.part = partIn → c.dstKind = 3 → s.hostOpen = true →
      paceBurst addr (min descBytes c.remain - c.got) (64 * bits (s.reg d DMX 0 0x140) 0 12 - s.syeFill d j) = 0 →
      s.goOnDesc d ch = (s.setChan d ch { c with state := .pacing }).count d DMX 0 0x194)

/-! ### Cards -/

/-- R393 to R400: a card's life on its port up to its applet session. An insertion powers class A first; removal takes the port back to empty and dissolves a quorum that the card
served; an answer that is not accepted, or that comes too late, leads to the next class after a hold without VCC, and after class C, or once PPS has been given up, to a refusal; an
accepted ATR without TA2 and with default factors begins the session, with other factors the PPS exchange; a PPS answer that repeats the request sets its factors, one that drops them
keeps the default, any other or none activates the card once more without PPS; a waiting-time extension; a response out of time refuses with reason 3 and counts the source; the clock stops
only where the card allows it.
Choices of the model that it rests on: log entries 96, 97. -/
def Obligations.CardActivation : Prop :=
  ∀ (s : State) (p : Nat), p < 4 →
    let c := s.cardPort p
    ((s.modCard p (fun c => { c with detLow := true })).cardLive p = true → c.state = .empty →
      exec (.cardInserted p) s = .next (settle (State.activate
        ((((s.modCard p (fun c => { c with detLow := true })).modCard p (fun c => { c with present := true })).event 0 CIU p 0).count 0 CIU p 0x114) p 0))) ∧
    (c.present = true → s.cards.quorum.ports.contains p = false → c.state ≠ .disabled →
      exec (.cardRemoved p) s = .next (settle ((s.modCard p (fun _ => CardPort.empty)).event 0 CIU p 1))) ∧
    (c.present = false → s.cards.quorum.ports.contains p = true → c.state ≠ .disabled →
      exec (.cardRemoved p) s = .next (settle (s.modCard p (fun _ => CardPort.empty)).dissolve)) ∧
    (∀ k noPps, (s.activate p k noPps) = (s.modCard p (fun c => { c with
      state := .activating, wait := .atr, session := CardSession.none, link := { CardLink.off with cls := k, noPps := noPps, vcc := true } })).send (.cardPower p k)) ∧
    (s.cardLive p = true → c.wait = .atr →
      let hold := s.modCard p (fun c' => { c'.unpower with state := .deactivating, link := { CardLink.off with cls := c'.link.cls, holdNext := some (c'.link.cls + 1) } })
      let next := if c.link.noPps = true then s.refuseCard p 2 else if c.link.cls < 2 then hold else s.refuseCard p 1
      exec (.atrTimeout p) s = .next (settle next) ∧ (∀ bytes, exec (.atr p bytes false) s = .next (settle next)) ∧
      (∀ bytes, parseAtr bytes = none → exec (.atr p bytes true) s = .next (settle next)) ∧
      (∀ bytes a, parseAtr bytes = some a → a.excludes c.link.cls = true → exec (.atr p bytes true) s = .next (settle next)) ∧
      (∀ bytes a t, parseAtr bytes = some a → a.excludes c.link.cls = false → a.ta2 = none → a.ta1 = some t → ∀ f, factors? t = some f →
        let t1 := a.protos.contains 1
        let stop := (a.ind.map (fun x => x / 64)).getD 0
        let link : CardLink := { c.link with
          t1 := t1, fi := 372, di := 1, ifsc := if t1 then a.ifsc.getD 32 else 0, clkStop := decide (stop ≠ 0), clkHigh := decide (stop = 2) }
        (f ≠ (372, 1) → c.link.noPps = false → exec (.atr p bytes true) s = .next (settle (State.send
          (s.modCard p (fun c => { c with state := .negotiating, wait := .pps, link := { link with ppsByte := BitVec.ofNat 8 t } }))
          (.apdu p 0xFF (ppsRequest t1 (BitVec.ofNat 8 t)))))) ∧
        (f = (372, 1) ∨ c.link.noPps = true → exec (.atr p bytes true) s = .next (settle ((s.modCard p (fun c => { c with link := link })).beginSession p))))) ∧
    (s.cardLive p = true → c.wait = .pps →
      (∀ f, factors? c.link.ppsByte.toNat = some f → exec (.ppsResponse p (ppsRequest c.link.t1 c.link.ppsByte)) s =
        .next (settle ((s.modCard p (fun c => { c with link := { c.link with fi := f.1, di := f.2 } })).beginSession p))) ∧
      (ppsRequest c.link.t1 c.link.ppsByte ≠ ppsDefault c.link.t1 → exec (.ppsResponse p (ppsDefault c.link.t1)) s = .next (settle (s.beginSession p))) ∧
      (∀ bytes, bytes ≠ ppsRequest c.link.t1 c.link.ppsByte → bytes ≠ ppsDefault c.link.t1 →
        exec (.ppsResponse p bytes) s = .next (settle (s.activate p c.link.cls true))) ∧
      exec (.cardWaitTimeout p) s = .next (settle (s.activate p c.link.cls true))) ∧
    (s.cardLive p = true → c.inApdu = true →
      exec (.cardWaitTimeout p) s = .next (settle (((s.faultAct 0 (672 + 4 * p + 2)).refuseCard p 3).modCard p (fun c => { c.unpower with state := .refused }))) ∧
      (∀ m, c.link.t1 = true → 1 ≤ m → m ≤ 255 → exec (.sWtx p m) s =
        .next (settle (State.send (s.modCard p (fun c => { c with link := { c.link with bwtMult := m } })) (.apdu p 0xE3 [BitVec.ofNat 8 m]))))) ∧
    (s.cardLive p = true → bit (s.reg 0 CIU p 0x010) 1 = true → c.link.clkStop = true → c.link.vcc = true → c.wait = .none →
      exec (.clockStop p) s = .next (settle (s.modCard p (fun c => { c with link := { c.link with clkStopped := true } })))) ∧
    (c.link.clkStop = false → exec (.clockStop p) s = .next (settle s)) ∧
    (∀ k, c.link.holdNext = some k → s.cardLive p = true → exec (.vccOffHoldEnd p) s = .next (settle (s.activate p k)))

/-- R400 to R404 and R481: the applet session and the quorum. Each response that the port waits for counts an APDU; a bad status word refuses with its reason; SELECT goes on to
GET_INFO; GET_INFO of a card on the roster goes on to AUTHENTICATE with a fresh challenge and ML-KEM key, of another refuses with reason 6; AUTHENTICATE with a good signature
derives the session key and asks for the share, else refuses with reason 7 and counts; a good share authenticates the card, is logged and may form the quorum; END_SESSION ends it.
Without quorum's use for 300 s it is dissolved; provisioning waits for it only so long.
Choices of the model that it rests on: log entry 98. -/
def Obligations.CardSessions : Prop :=
  ∀ (s : State) (p : Nat) (r : CardResp), s.cardLive p = true →
    let c := s.cardPort p
    let t := (s.count 0 CIU p 0x10C).modCard p (fun c => { c with wait := .none, link := { c.link with bwtMult := 1 } })
    let x := (t.cardPort p).session
    (r.sw ≠ 0x9000 → ∀ k, c.wait = k →
      let refused := (.next (settle (t.refuseCard p (if r.sw = 0x6A82 then 4 else if r.sw = 0x6982 then 5 else 3))) : Host.Outcome State Fault Refusal)
      (k = .select → exec (.cardSelect p r) s = refused) ∧ (k = .info → exec (.getInfo p r) s = refused) ∧ (k = .auth → exec (.authenticate p r) s = refused) ∧
      (k = .share → exec (.getShare p r) s = refused) ∧ (k = .endSession → exec (.endSession p r) s = refused)) ∧
    (r.sw = 0x9000 →
      (c.wait = .select → exec (.cardSelect p r) s = .next (settle (t.sendApdu p .info 0x10 []))) ∧
      (c.wait = .endSession → exec (.endSession p r) s = .next (settle t)) ∧
      (c.wait = .info → r.data.length = 1331 → ∀ ro, s.cards.roster = some ro →
        let id := r.data.take 16
        let idx := (r.data.getD 18 0).toNat
        let key := r.data.drop 19
        let u := t.modCard p (fun c => { c with session := { c.session with cardId := id, index := idx, pubKey := key } })
        (ro.matching id key idx = false → exec (.getInfo p r) s = .next (settle (u.refuseCard p 6))) ∧
        (ro.matching id key idx = true → ∃ ch ek dk : List Byte, ch.length = 32 ∧ ek.length = 1184 ∧ dk.length = 64 ∧
          exec (.getInfo p r) s = .next (settle (State.sendApdu
            (u.drawn.drawn.modCard p (fun c => { c with session := { c.session with challenge := ch, ek := ek, dk := dk } })) p .auth 0x20 (ch ++ ek))))) ∧
      (c.wait = .auth → r.data.length = 3508 →
        let ct := r.data.take 1088
        let good := sigVerify 1 x.pubKey (ascii "VQ-CUST") 0 (x.challenge ++ x.ek ++ ct) (r.data.drop 1088)
        (good = false → exec (.authenticate p r) s = .next (settle ((t.faultAct 0 (672 + 4 * p + 3)).refuseCard p 7))) ∧
        (good = true → ∃ sk nonce : List Byte, nonce.length = 12 ∧ sk = (kdf (fit 32 (kemDecap 2 x.dk [] ct)) "VQ-CUSTSK" x.challenge).take 32 ∧
          exec (.authenticate p r) s = .next (settle (State.sendApdu
            (t.drawn.modCard p (fun c => { c with session := { c.session with sk := sk, nonce := nonce, dk := [] } })) p .share 0x30 nonce)))) ∧
      (c.wait = .share → r.data.length = 49 →
        let opened := gcmOpen x.sk x.nonce x.cardId (r.data.take 33) (r.data.drop 33)
        (opened = none → exec (.getShare p r) s = .next (settle ((t.faultAct 0 (672 + 4 * p + 3)).refuseCard p 8))) ∧
        (∀ pt, opened = some pt → (pt.getD 0 0).toNat = x.index →
          (t.duplicate p x = true → exec (.getShare p r) s = .next (settle (t.refuseCard p 9))) ∧
          (t.duplicate p x = false →
            let u := t.modCard p (fun c => { c with
              state := .authenticated, session := { c.session with share := some (x.index, slice pt 1 32), sk := [], challenge := [], ek := [] } })
            let v := (u.event 0 CIU p 2).offer { Offer.of 6 0 0x5001 (fieldLe x.cardId 0 4) with rid := BitVec.ofNat 16 p }
            exec (.getShare p r) s = .next (settle (v.sendApdu p .endSession 0x40 []).tryQuorum))))) ∧
    (s.cards.quorum.present = true → exec .quorumIdleExpiry s = .next (settle s.dissolve)) ∧
    (∀ x, s.lcc.xfer = some x → x.waitQuorum = true → exec .provisionQuorumTimeout s = .next (settle (s.dropTransition stQuorumAbsent))) ∧
    (∀ ro, s.cards.roster = some ro → s.cards.quorum.present = false → ro.m ≤ s.shares.length → s.lcc.xfer = none →
      let used := s.shares.take ro.m
      let qtk := shamir (used.map Prod.snd)
      ((kdf qtk "VQ-QTKCHK" []).take 16 = ro.check → s.tryQuorum =
        (State.quorumEvents { s with cards := { s.cards with quorum := ⟨true, qtk, used.map Prod.fst, 300⟩ } } 4).offer (Offer.of 6 0 0x5003 0)) ∧
      ((kdf qtk "VQ-QTKCHK" []).take 16 ≠ ro.check → s.tryQuorum = (s.shares.map Prod.fst).foldl (fun t p => t.refuseCard p 0x0A) s))

/-! ### The Pacer -/

/-- R464 to R469 and R420: probes and VCORE steps. A probe interval withdraws the first engine of the order that is not passed over and moves the order past it; an idle engine's probe
begins its search, whose steps shorten one class by eighths of a clock and leave the others at their job lengths; one that stays busy is skipped and comes first next time; a probe's result counts its failing steps and is planned: a class with room is kept, one with 8 more
than required twice over is shortened, one too slow is lengthened within its limit, else VCORE steps up or the engine is exhausted. A step that completes moves the set-point and is
recorded; one that does not is tried again, and after three tries engines in HOLD are fenced.
Choices of the model that it rests on: log entries 10, 107. -/
def Obligations.PacerProbes : Prop :=
  ∀ (s : State) (d : Nat),
    let x := s.die d
    (∀ e, x.state = .running → bit (s.reg d PCR 0 0x100) 16 = true → x.pcr.probing = none → x.pcr.order.find? (fun e => !x.passedOver e) = some e →
      exec (.probeInterval d) s = .next (settle (s.modDie d (fun y => y.withdraw e))) ∧ (x.withdraw e).pcr.probing = some ⟨e, false, 0⟩ ∧
      (x.pcr.order.Nodup → (x.withdraw e).pcr.order.getLast? = some e ∧ ∀ k, k ∈ (x.withdraw e).pcr.order ↔ k ∈ x.pcr.order)) ∧
    (∀ p, x.pcr.probing = some p → p.started = false →
      (x.engineIdle p.engine = true → exec (.probeStart d) s = .next (settle (s.modDie d (fun y =>
        { y.modMap p.engine (fun m => { m with probe := true, probeMap := some (probeStepMap m.cyc (nClasses p.engine) 0 0) }) with pcr := { y.pcr with probing := some ⟨p.engine, true, y.tj⟩ } })))) ∧
      (x.engineIdle p.engine = false → exec (.probeStart d) s = .next (settle s)) ∧
      exec (.probeWaitTimeout d) s = .next (settle (State.count
        (((s.modDie d (fun y => y.endProbe p.engine)).modPcr d (fun q => q.first p.engine)).modPe d p.engine (fun y => { y with skipped := true })) d PCR 0 0x134))) ∧
    (∀ (job : W32) (n c k i : Nat), n ≤ 8 → i < n → k < 8 * mapLen job c →
      mapLen (probeStepMap job n c k) i = if i = c then (8 * mapLen job c - k + 7) / 8 else mapLen job i) ∧
    (∀ p ms mp, x.pcr.probing = some p → p.started = true → x.emap p.engine = some mp → x.marginsOk p.engine ms = true →
      let fails := ((List.range (nClasses p.engine)).filter (fun c => decide (ms.getD c 0 < kmaxOf (mapLen mp.cyc c)))).length
      exec (.probeComplete d ms) s = .next (settle
        (((((s.modDie d (fun y => y.endProbe p.engine)).count d PCR 0 0x130).faultTimes d (probeSource p.engine) fails).planProbe d p.engine ms p.temp).reprobe d))) ∧
    (∀ (e c len : Nat) (m req : Int) (wide : Bool), mapLen (x.floorOf e) c ≤ len →
      (req + 8 ≤ m → wide = true → mapLen (x.floorOf e) c < len → x.plan e c len m req wide = .shorten) ∧
      (req ≤ m → m < req + 8 ∨ wide = false ∨ len = mapLen (x.floorOf e) c → x.plan e c len m req wide = .keep) ∧
      (∀ n : Nat, m < req → req - m ≤ 8 * n → 8 * n < req - m + 8 → len + n ≤ x.limit e c → x.plan e c len m req wide = .lengthen (len + n)) ∧
      (∀ n : Nat, m < req → req - m ≤ 8 * n → 8 * n < req - m + 8 → x.limit e c < len + n →
        x.plan e c len m req wide = if x.atVmax = true then .exhausted else .vstep)) ∧
    (∀ mv, x.pcr.awaiting = true → x.pcr.ramping = some mv → d < s.dies.length →
      (let done := s.modPcr d (fun p => { p with setMv := p.ramping.getD p.setMv, ramping := none, awaiting := false, avsFail := false, avsTries := 0, exhausted := false });
        exec (.avsComplete d) s = .next (settle ((((done.count d PCR 0 0x140).event d PCR 0 1).commitAge d).reprobe d)) ∧ (done.die d).pcr.setMv = mv) ∧
      exec (.avsTimeout d) s = .next (settle (s.modPcr d (fun p => { p with awaiting := false, avsFail := true, avsTries := p.avsTries + 1 })))) ∧
    (∀ mv, x.pcr.awaiting = false → x.pcr.ramping = some mv →
      exec (.vstepRetry d) s = .next (settle (State.send (s.modPcr d (fun p => { p with awaiting := true })) (.avs d mv)))) ∧
    (3 ≤ x.pcr.avsTries → x.pcr.exhausted = false →
      let t := s.modPcr d (fun p => { p with exhausted := true })
      exec (.avsExhausted d) s = .next (settle (((List.range 20).filter (fun e => (((t.die d).pcr.engines[e]?).map PcrEngine.hold).getD false)).foldl
        (fun u e => u.exhaustEngine d e) t)))

/-- R461 to R463, R470 to R473: sensors, stress, skip levels and projection. The median measured is DEG_PPM; a slack window ages every engine and puts engines below SLACK_ALERT at the head
of the order; a minute adds its stress and its temperature to the history; the skip level moves by at most one and sets its pattern; the projection writes MARGIN_YEARS and raises
MARGIN_LOW when it first falls below the warning; the record is committed in one write.
Choices of the model that it rests on: log entries 10, 107. -/
def Obligations.PacerAgeing : Prop :=
  ∀ (s : State) (d : Nat),
    let x := s.die d
    (∀ ppm, exec (.roMeasure d ppm) s = .next (settle (s.modPcr d (fun p => { p with degPpm := ppm })))) ∧
    (∀ slack, slack.length = 20 → let alert := 5 * bits (s.reg d PCR 0 0x100) 8 8
      ∃ f : Pcr → Pcr, exec (.slackWindow d slack) s = .next (settle (s.modPcr d f)) ∧
        ∀ p, (f p).order = (List.range 20).filter (fun e => decide (slack.getD e 0 < alert)) ++ p.order.filter (fun e => !((List.range 20).filter (fun e => decide (slack.getD e 0 < alert))).contains e) ∧
          (f p).engines.length = p.engines.length ∧ (∀ v ∈ slack, (f p).slackMin ≤ v) ∧
          ∀ (e : Nat) (y z : PcrEngine), e < 20 → p.engines[e]? = some y → (f p).engines[e]? = some z →
            z = { y with slack := slack.getD e 0, age := if y.never = true then min 0xFFFF y.age else min 0xFFFF (y.age + 1) }) ∧
    (∀ tj, x.state = .running → exec (.stressMinute d tj) s = .next (settle (s.modPcr d (fun p => p.minute tj.toInt)))) ∧
    (∀ (p : Pcr) (tj : Int), p.stressFrac < 60 * 2 ^ 32 → let q := p.minute tj
      (q.stress = 2 ^ 32 - 1 ∨ q.stress * (60 * 2 ^ 32) + q.stressFrac = p.stress * (60 * 2 ^ 32) + p.stressFrac + accelFix tj) ∧ q.minuteMax = none ∧
      q.minutes = ((tj, max tj (p.minuteMax.getD tj)) :: p.minutes).take 43200) ∧
    (∀ q : Int, -1280 ≤ q - 400 → q ≤ 800 → accelFix q ^ 40 ≤ 2 ^ (q - 400 + 1280).toNat ∧ 2 ^ (q - 400 + 1280).toNat < (accelFix q + 1) ^ 40) ∧
    (∀ tj, x.state = .running → let t := s.measure d tj
      let l := (t.die d).nextLevel tj.toInt
      (bit (t.reg d PCR 0 0x100) 17 = true → l ≠ (t.die d).pcr.skipLevel → exec (.skipEvaluate d tj) s = .next (settle (t.setLevel d l))) ∧
      (bit (t.reg d PCR 0 0x100) 17 = false ∨ l = (t.die d).pcr.skipLevel → exec (.skipEvaluate d tj) s = .next (settle t))) ∧
    (∀ tj, x.nextLevel tj ≤ x.pcr.skipLevel + 1 ∧ x.pcr.skipLevel ≤ x.nextLevel tj + 1 ∧ (x.pcr.skipLevel ≤ 3 → x.nextLevel tj ≤ 3) ∧
      (x.pcr.skipLevel = 0 → x.skipTj ≤ tj → x.nextLevel tj = 1) ∧ (x.pcr.skipLevel = 1 → tj < x.skipTj - 20 → x.nextLevel tj = 0)) ∧
    (skipPattern 0 = 0 ∧ skipPattern 1 = 0x0001 ∧ skipPattern 2 = 0x0101 ∧ skipPattern 3 = 0x0421) ∧
    (let warn := 256 * bits (s.reg d PCR 0 0x100) 24 8;
      let t := s.modDie d (fun x => { x with pcr := { x.pcr with marginYears := (s.die d).project, marginNorm := x.norm } });
      (x.project < warn → warn ≤ x.pcr.marginYears → exec (.marginProject d) s = .next (settle (t.event d PCR 0 3))) ∧
      (warn ≤ x.project ∨ x.pcr.marginYears < warn → exec (.marginProject d) s = .next (settle t))) ∧
    (exec (.ageingRecordCommit d) s = .next (settle { s with bbram := { s.bbram with ages := Assoc.set s.bbram.ages d (s.ageOf d) } })) ∧
    (s.ageOf d).stress = x.pcr.stress ∧ (s.ageOf d).mv = x.pcr.setMv ∧ (s.ageOf d).marginYears = x.pcr.marginYears ∧ (s.ageOf d).degPpm = x.pcr.degPpm

/-! ### Instances -/

/-- R141, R346 to R351, R357 to R361: creating, resetting, destroying, freezing and thawing an instance. INST_CREATE in NEW mode binds the instance, makes its root and writes entry 0 of its
table once that is read; in ATTACH mode it takes the root record it finds; a check that fails ends it. A reset that waits is accepted unless a save runs or a commit window is open, and
completes when no job of the instance is left: slots and queues as new, RESET_DONE, ACTIVE, or, for a destroy, unbound and HELD, or FREE with RETIRE. INST_DESTROY of a HELD instance
retires it, of a SAVED or RESERVED one frees the number; INST_FREEZE stops its queues, ends its re-homings and ends once no job of it is left; a thaw gives each queue the state it had. A state in which the operation is not allowed
ends it with INSTANCE_STATE and that state. Every step is reported on the page (R58, R113).
Choices of the model that it rests on: log entries 24, 101, 102. -/
def Obligations.InstanceLifetime : Prop :=
  ∀ (s : State) (n : Nat),
    (resetAcceptable n s = true → exec (.instResetAccept n) s = .next (settle ((s.acceptReset n).modInst n (fun i =>
      if i.work.destroyJob.isSome then { i with code := .destroying } else i)).pumpAll)) ∧
    (resetAcceptable n s = true ↔ (s.inst n).work.resetWaiting = true ∧ s.saving n = false ∧ s.commitWindow n = false) ∧
    ((s.inst n).code = .resetting → s.noJobs n = true → (s.inst n).work.destroyJob = none → let t := s.count 0 VIM 0 0x218
      exec (.instResetComplete n) s = .next (settle ((((t.allDies (fun d => d.flushInst n)).modInst n (fun i => { i.flush with code := .active })).portalEvent n 9).event 0 VIM 0 1).pumpAll)) ∧
    ((s.inst n).code = .destroying → s.noJobs n = true → ∀ d k, (s.inst n).work.destroyJob = some (d, k) →
      exec (.instResetComplete n) s = .next (settle ((s.count 0 VIM 0 0x218).endDestroy n).pumpAll)) ∧
    (∀ (j : JobRef) (x : Job),
      let step := fun (u : State) (k n : Nat) => u.pageStep j.die j.job VIM 0 k n
      let fails := fun (c : Instr) (u : State) (st : W16) (detail : Nat) =>
        ∃ k ps, ps ≤ anyTime ∧ exec c s = .next (settle (({ u with freeCtr := u.freeCtr + k } : State).opFail j.die j.job st detail ps))
      (OpRuns s j 0xF001 x → let r := x.data.inData
        let m := fieldLe r 0 2
        let c := recordCfg r (slice r 64 2592)
        let s1 := step s 1 3
        (∀ f, s1.instCreateFail r = some f → fails (.instCreate j) s1 f.1 f.2) ∧
        (s1.instCreateFail r = none → fieldLe r 2 1 = 0 → x.data.root = [] → exec (.instCreate j) s = .next (settle (s1.wantMore j.die j.job [recordWant .entry0 m c]))) ∧
        (s1.instCreateFail r = none → fieldLe r 2 1 = 0 → x.data.root ≠ [] → Commits (.instCreate j) s (step s1 2 3) j x anyTime [] 0 [] (fun t =>
          (((t.drawn.bindInst m c .active).newRoot m c.ownerKey [(0, 0)]).writeInstRoot j.die m x.data.root (t.rand 32)).progress 0 VIM 0 3 1000)) ∧
        (∀ root, s1.instCreateFail r = none → fieldLe r 2 1 = 1 → x.data.keys.head?.bind (s1.slot? j.die) = some root →
          Commits (.instCreate j) s (step s1 2 3) j x anyTime [] 0 [] (fun t => let i := t.bbram.instRec m
            let u := t.bindInst m c .active;
            ({ u with bbram := u.bbram.setRec m { i with root := { i.root with gens := payloadGens root.payload } } } : State).progress 0 VIM 0 3 1000))) ∧
      (OpRuns s j 0xF002 x → x.paramInst = n → (s.inst n).work.destroyJob = none → let retire := bit x.sqe.param 16
        let s1 := step s 1 3
        let recorded := s1.drain.arbitrate (x.offer j.die stOk [] (s1.drain.jobPasid x) true)
        let open' := CommitOpen s1 x ∧ s1.alg.stopped = false ∧ 330 < s1.drain.alg.free
        let mark := fun (t : State) => t.modInst n (fun y => { y with
          code := .destroying, work := { y.work with destroyJob := some (j.die, j.job), retire := retire, resetWaiting := false } })
        ((s.inst n).code = .free ∨ (s.inst n).code = .freezing ∨ (s.inst n).code = .destroying ∨ (s.inst n).code = .held ∧ retire = false →
          fails (.instDestroy j) s1 stInstState (s1.inst n).code.code) ∧
        ((s.inst n).code = .active ∨ (s.inst n).code = .frozen → retire = false ∨ s1.retireOk x n = true → open' →
          (recorded.commitWindow n = false → exec (.instDestroy j) s = .next (settle (mark (recorded.acceptReset n)))) ∧
          (recorded.commitWindow n = true → exec (.instDestroy j) s = .next (settle (recorded.modInst n (fun y => { y with
            work := { y.work with destroyJob := some (j.die, j.job), retire := retire, resetWaiting := true } }))))) ∧
        ((s.inst n).code = .resetting → retire = false ∨ s1.retireOk x n = true → open' → exec (.instDestroy j) s = .next (settle (mark recorded))) ∧
        ((s.inst n).code = .held → retire = true → s1.retireOk x n = true → Commits (.instDestroy j) s (step s1 3 3) j x anyTime [] 0 [] (fun t =>
          (State.setInst { t with bbram := t.bbram.retire n } n Inst.free).progress 0 VIM 0 3 1000)) ∧
        ((s.inst n).code = .saved ∨ (s.inst n).code = .reserved → retire = false ∨ s1.retireOk x n = true → Commits (.instDestroy j) s (step s1 2 3) j x anyTime [] 0 [] (fun t =>
          ((t.allDies (fun d => (d.flushInst n).unbind n)).setInst n Inst.free).progress 0 VIM 0 3 1000))) ∧
      (OpRuns s j 0xF003 x → x.paramInst = n → bit x.sqe.param 16 = false → (s.inst n).work.freezeJob ≠ some (j.die, j.job) →
        ((s.inst n).code ≠ .active → fails (.instFreeze j) (step s 1 2) stInstState (s.inst n).code.code) ∧
        ((s.inst n).code = .active → let s1 := step s 1 2
          let s2 := (s1.rehomesOf n).foldl (fun t p => t.opFail p.1 p.2 stInstState 0x403 0) s1
          exec (.instFreeze j) s = .next (settle (step (((s2.queuesOf n).foldl (fun t p => t.freezeQueue p.1 p.2) s2).modInst n (fun i => { i with
            code := .freezing, work := { i.work with freezeJob := some (j.die, j.job), resetWaiting := i.work.destroyJob.isSome } })) 2 2)))) ∧
      ((s.inst n).code = .freezing → s.drained n = true → ∀ d k, (s.inst n).work.freezeJob = some (d, k) → let t :=
          (s.modInst n (fun i => { i with code := .frozen, work := { i.work with freezeJob := none } })).progress 0 VIM 0 2 1000
        ∃ ps, exec (.freezeDrained n) s = .next (settle ((t.closeJob d k stOk 0 ps).drawn.pumpDie d))) ∧
      (OpRuns s j 0xF003 x → x.paramInst = n → bit x.sqe.param 16 = true →
        ((s.inst n).code ≠ .frozen → fails (.instThaw j) (step s 1 1) stInstState (s.inst n).code.code) ∧
        ((s.inst n).code = .frozen → Commits (.instThaw j) s (step s 1 1) j x anyTime [] 0 [] (fun t => State.progress
          ((t.queuesOf n).foldl (fun u p => u.thawQueue p.1 p.2) (t.modInst n (fun i => { i with code := .active }))) 0 VIM 0 1 1000))))

/-- R354 and R362 to R367: saving, restoring and moving. INST_SAVE of a FROZEN instance retires its record, frees what it held and gives out its image; INST_RESTORE with PREPARE reserves the
number and gives out a token with the device's UID; INST_RESTORE checks the image against the token, then the binding record and the quotas, and, with entry 0 of the new table read,
creates the instance FROZEN; QUEUE_REHOME stops the queue and advances its EPOCH; once its old work has drained, the queue goes to a free context of its target; SET_SHARE; the balancing
interval starts at most one move and clears the measured times.
Choices of the model that it rests on: log entries 24, 103, 104. -/
def Obligations.InstanceMovement : Prop :=
  ∀ (s : State) (j : JobRef) (x : Job),
    let n := x.paramInst
    let code := (s.inst n).code
    let step := fun (u : State) (k n : Nat) => u.pageStep j.die j.job VIM 0 k n
    let fails := fun (c : Instr) (u : State) (st : W16) (detail : Nat) =>
      ∃ k ps, ps ≤ anyTime ∧ exec c s = .next (settle (({ u with freeCtr := u.freeCtr + k } : State).opFail j.die j.job st detail ps))
    (OpRuns s j 0xF004 x → let s1 := step s 1 4
      ((s1.inst n).code ≠ .frozen → fails (.instSave j) s1 stInstState (s1.inst n).code.code) ∧
      (∀ m root, (s1.inst n).code = .frozen → s1.jobKey j.die x 0 = some m → s1.jobKey j.die x 1 = some root →
        ∃ image, image.take 8 = [0x56, 0x49, 0x4D, 0x31, 1, 0] ++ leBytes 2 n ∧ Commits (.instSave j) s (step s1 4 4) j x anyTime [] 0 image (fun t => State.progress
          ((State.allDies { t with bbram := t.bbram.retire n } (fun d => d.flushInst n)).modInst n (fun i => { i.flush with
            code := .saved, portal := Portal.reset, work := { i.work with resetWaiting := false } })) 0 VIM 0 4 1000))) ∧
    (OpRuns s j 0xF005 x → bit x.sqe.param 16 = true →
      (code ≠ .free → code ≠ .reserved → fails (.instRestorePrepare j) s stInstState code.code) ∧
      (code = .free ∨ code = .reserved → ∃ token : List Byte, token.length = 32 ∧
        Commits (.instRestorePrepare j) s s j x anyTime [] 0 (token ++ leBytes 8 (s.die 0).fuses.uid.toNat ++ leBytes 2 n ++ List.replicate 6 0) (fun t =>
          t.setInst n { Inst.free with code := .reserved, token := some token }))) ∧
    (OpRuns s j 0xF005 x → bit x.sqe.param 16 = false → let img := x.data.inData
      let aux := x.data.auxData
      let s1 := step s 1 4
      let s2 := step s1 4 4
      ((s1.inst n).code ≠ .reserved → fails (.instRestore j) s1 stInstState (s1.inst n).code.code) ∧
      ((s1.inst n).code = .reserved → s2.openImage n (s2.jobSecret j.die x) img = none → fails (.instRestore j) s2 stKeyAuth 0) ∧
      ((s2.inst n).token ≠ some (slice img 16 32) ∨ slice img 48 8 ≠ leBytes 8 (s2.die 0).fuses.uid.toNat → s2.openImage n (s2.jobSecret j.die x) img = none) ∧
      (∀ pt, (s1.inst n).code = .reserved → s2.openImage n (s2.jobSecret j.die x) img = some pt →
        (∀ f, s2.restoreFail n img pt aux = some f → fails (.instRestore j) s2 f.1 f.2) ∧
        (s2.restoreFail n img pt aux = none → x.data.root = [] → exec (.instRestore j) s = .next (settle (s2.wantMore j.die j.job [recordWant .entry0 n (recordCfg aux [])]))) ∧
        (s2.restoreFail n img pt aux = none → x.data.root ≠ [] → Commits (.instRestore j) s s2 j x anyTime [] 0 [] (fun t => t.restoreInst j.die n img pt aux x.data.root)))) ∧
    (∀ d q, OpRuns s j 0xF006 x → (s.inst n).home (x.sqe.par 12 3) = some (d, q) → (s.queue d q).aux.rehomeJob ≠ some (j.die, j.job) → let target := x.sqe.par 16 3
      let allowed := (s.queue d q).ctx.state = .active ∧ bit (s.inst n).cfg.dies target = true ∧ target < s.dies.length
      (¬ allowed → fails (.queueRehome j) (if (s.queue d q).ctx.state = .rehoming then s else s.pageStep j.die j.job QMG d 1 3) stInstState (code.code + 256 * (s.queue d q).ctx.state.code)) ∧
      (allowed → target = d → Commits (.queueRehome j) s (s.pageStep j.die j.job QMG d 3 3) j x anyTime [] 0 [] (fun t => t.progress d QMG 0 3 1000)) ∧
      (allowed → target ≠ d → (s.die target).freeCtx ≠ none → ((s.pageStep j.die j.job QMG d 1 3).queue d q).aux.prep = none → exec (.queueRehome j) s = .next (settle (State.progress
        (((s.pageStep j.die j.job QMG d 1 3).modAux d q (fun a => { a with rehomeTo := some target, rehomeJob := some (j.die, j.job) })).modCtx d q (fun c => { c with
          state := .rehoming, epoch := c.epoch + 1, win := dropWindow c.win (fun _ => false) })) d QMG 0 1 0)))) ∧
    (∀ d q t q', (s.queue d q).ctx.state = .rehoming → (s.queue d q).ctx.inflight = 0 → (s.queue d q).ctx.held = [] → (s.queue d q).aux.rehomeTo = some t →
      ((s.queue d q).aux.rehomeJob = none → let r := (s.queue d q).ctx.rings
        let u := s.progress d QMG 0 2 333
        (u.die t).freeCtx = some q' → exec (.rehomeDrainComplete d q) s = .next (settle ((u.moveQueue d q t q').offer (Offer.of 1 0 0xF006 (r.inst + 4096 * r.qpair + 65536 * t))))) ∧
      (∀ jd k, (s.queue d q).aux.rehomeJob = some (jd, k) → let u := s.pageStep jd k QMG d 2 3
        (u.die t).freeCtx = some q' → ∃ ps, exec (.rehomeDrainComplete d q) s = .next (settle (((u.moveQueue d q t q').closeJob jd k stOk 0 ps).drawn.pumpDie jd)))) ∧
    (OpRuns s j 0xF007 x →
      (code = .active ∨ code = .freezing ∨ code = .frozen → Commits (.setShare j) s s j x anyTime [] 0 [] (fun t =>
        t.modInst n (fun i => { i with cfg := { i.cfg with share := x.sqe.par 16 11 } }))) ∧
      (code ≠ .active → code ≠ .freezing → code ≠ .frozen → fails (.setShare j) s stInstState code.code)) ∧
    (let b := s.reg 0 VIM 0 0x210
      let loads := (s.dieList.filter (fun d => (s.die d).reachable)).map (fun d => (d, (s.die d).lveTime))
      let clear := fun (t : State) => t.allDies (fun d => { d with
        queues := d.queues.map (fun (p : Nat × Queue) => (p.1, { p.2 with aux := { p.2.aux with lveTime := 0 } })) })
      ∀ d hi t lo, bit b 0 = true → bestDie loads (fun a b => decide (b < a)) = some (d, hi) → bestDie loads (fun a b => decide (a < b)) = some (t, lo) →
        (∀ q, bits b 8 7 * (bits b 16 16 * 1000000000) < (hi - lo) * 100 → s.autoRehoming = false → (s.die t).freeCtx ≠ none → s.balanceQueue d t = some q →
          exec .balanceInterval s = .next (settle (clear ((s.startRehome d q t none).event 0 VIM 0 3)))) ∧
        ((hi - lo) * 100 ≤ bits b 8 7 * (bits b 16 16 * 1000000000) ∨ s.autoRehoming = true → exec .balanceInterval s = .next (settle (clear s))))

/-! ### Life cycle, log and backup -/

/-- R152, R432, R433, R455 and R479 to R490: the manager's life-cycle jobs. A transition needs the next state and what authorises it: a token whose signature, UID, origin, target and expiry hold, a provisioning record and then a quorum, or
quorum and ticket; its bits then burn; a second one ends with LIFECYCLE, one under LOCK with LOCKED; to the current state it renews the OSK. COMPLETE_TRANSITION burns what is missing of the
state after the highest one that every word contains. ZEROISE erases. UNLOCK ends with LOCKED when an alarm has met it (R425), and else needs, in this order, log space, a quorum, a ticket, a clearable split and no class mapped to LOCK or ERASE present. SEAL_CANDIDATE stores the
migration record of a candidate that verifies. LOG_DRAIN gives out the oldest slots.
Choices of the model that it rests on: log entries 24, 78, 79, 80, 81, 82, 83, 84. -/
def Obligations.LifecycleJobs : Prop :=
  ∀ (s : State) (j : JobRef) (x : Job),
    let fails := fun (c : Instr) (u : State) (st : W16) (detail : Nat) =>
      ∃ k ps, ps ≤ anyTime ∧ exec c s = .next (settle (({ u with freeCtr := u.freeCtr + k } : State).opFail j.die j.job st detail ps))
    let commits := fun (c : Instr) (u : State) (change : State → State) => ∃ ps, ps ≤ anyTime ∧
      exec c s = .next (settle ((change (u.drawn.drain.arbitrate (x.offer j.die stOk [] (u.drawn.drain.jobPasid x) x.sqe.isChange))).endOp j.die j.job stOk 0 ps []))
    let input := x.data.inData
    (∀ origin target owner more, s.tokenFail input origin target owner more = none →
      mldsaVerify (if fieldLe input 7 1 = 1 then Config.sirvamosKey else slice input 4691 2592) (ascii "VQ-LCT") (input.take 64) (slice input 64 4627) = true ∧
      fieldLe input 8 8 = (s.die 0).fuses.uid.toNat ∧ fieldLe input 16 8 = origin.toNat ∧ fieldLe input 6 1 = target ∧ s.bbd.rtc.toNat ≤ fieldLe input 24 8 ∧
      (fieldLe input 7 1 = 1 ∨ fieldLe input 7 1 = 2 ∧ owner = true ∧ (s.die 0).fuses.ownerDigest = some (sha3256 (slice input 4691 2592)))) ∧
    (OpRuns s j 0xF020 x → let target := x.sqe.par 0 4
      (∀ t, s.lcc.xfer = some t → t.job ≠ some (j.die, j.job) → fails (.lcTransition j) s stLifecycle s.lc) ∧
      (s.lcc.xfer = none → let u := s.progress 0 LCC 0 0 0
        (u.pkg.lock = true → fails (.lcTransition j) u stLocked 0) ∧
        (u.pkg.lock = false → x.targetOk u.lc u.oskValid = false → fails (.lcTransition j) u stLifecycle u.lc) ∧
        (u.pkg.lock = false → x.targetOk u.lc u.oskValid = true → u.alg.stopped = false → 330 < u.alg.free →
          (target = u.lc → u.cards.quorum.present = true → u.ticketOk x x.data.ticket = true → u.drawn.drain.alg.stopped = false → 330 < u.drawn.drain.alg.free →
            commits (.lcTransition j) u (fun t => t.renew.custodial)) ∧
          (target ≠ u.lc → target = 6 → (∀ f, u.tokenFail input (lcWord 5) 6 true false = some f → fails (.lcTransition j) u f.1 f.2) ∧
            (u.tokenFail input (lcWord 5) 6 true false = none → exec (.lcTransition j) s = .next (settle (u.beginBurn j 6 (lcStepBits 6) input)))) ∧
          (target ≠ u.lc → target = 2 → let cert := input.drop 4691
            let owned := fieldLe input 7 1 = 1 ∧ Config.certSubject cert = ((u.die 0).kvd.derived.map Derived.deviceId).getD []
            (∀ f, u.tokenFail input (lcWord 1) 2 false true = some f → fails (.lcTransition j) u f.1 f.2) ∧
            (u.tokenFail input (lcWord 1) 2 false true = none →
              (¬ owned → fails (.lcTransition j) u stKeyAuth 0) ∧
              (owned → exec (.lcTransition j) s = .next (settle (State.beginBurn { u with store := { u.store with deviceCert := cert } } j 2 (lcStepBits 2) input))))) ∧
          (target ≠ u.lc → target = 3 → (∀ f, u.provisionFail input = some f → fails (.lcTransition j) u f.1 f.2) ∧
            (u.provisionFail input = none → exec (.lcTransition j) s = .next (settle (u.awaitQuorum j input)))) ∧
          (target ≠ u.lc → target = 4 ∨ target = 5 →
            (u.cards.quorum.present = false → fails (.lcTransition j) u stQuorumAbsent 0) ∧
            (u.cards.quorum.present = true → u.ticketOk x x.data.ticket = false → fails (.lcTransition j) u stOwnerAuth 0) ∧
            (u.cards.quorum.present = true → u.ticketOk x x.data.ticket = true →
              exec (.lcTransition j) s = .next (settle (State.beginBurn (if target = 5 then u.zeroiseAll else u.custodial) j target (lcStepBits target) []))))))) ∧
    (∀ bs i k, s.beginBurn j k bs i = State.pageStep { s with lcc := { s.lcc with
        xfer := some ⟨2, k, bs, 0, bs.length, some (j.die, j.job), false, i⟩, result := 0, stop := none } } j.die j.job LCC 0 1 bs.length) ∧
    (OpRuns s j 0xF021 x → s.lcc.xfer = none → let u := s.progress 0 LCC 0 0 0
      (u.lc ≠ 0xF → fails (.completeTransition j) u stLifecycle u.lc) ∧
      (∀ b, u.lc = 0xF → u.alg.stopped = false → 330 < u.alg.free → lcBase u.lcWords = some b → b < 6 → u.tokenFail input (lcWord b) (b + 1) true false = none →
        (∀ w ∈ u.lcWords, w ||| lcWord (b + 1) = lcWord (b + 1)) → exec (.completeTransition j) s = .next (settle
          (u.beginBurn j (b + 1) ((List.range 60).filter (fun p => bit (lcWord (b + 1)) p && u.lcWords.any (fun w => !bit w p))) input)))) ∧
    (OpRuns s j 0xF030 x → s.alg.stopped = false → commits (.zeroise j) (s.pageStep j.die j.job KVD 0 1 4) (fun t => t.zeroiseAll.progress 0 KVD 0 4 1000)) ∧
    (OpRuns s j 0xF031 x →
      (x.failed.isSome = true → fails (.unlock j) s stLocked 0) ∧
      (x.failed = none → s.pkg.lock = false → fails (.unlock j) s stOk 0) ∧
      (x.failed = none → s.pkg.lock = true → s.alg.free ≤ 330 → fails (.unlock j) s stLogFull 0) ∧
      (x.failed = none → s.pkg.lock = true → 330 < s.alg.free →
        (s.cards.quorum.present = false → fails (.unlock j) s stQuorumAbsent 0) ∧
        (s.cards.quorum.present = true → s.ticketOk x x.data.ticket = false → fails (.unlock j) s stOwnerAuth 0) ∧
        (s.cards.quorum.present = true → s.ticketOk x x.data.ticket = true →
          (s.splitClearable = false → fails (.unlock j) s stLocked 0) ∧
          (∀ c, s.splitClearable = true → s.blockingClass = some c → fails (.unlock j) s stLocked c) ∧
          (s.splitClearable = true → s.blockingClass = none → s.alg.stopped = false → 330 < s.drawn.drain.alg.free → commits (.unlock j) s (fun t => t.unlock.custodial))))) ∧
    (s.unlock.pkg.lock = false ∧ s.unlock.bbd.lock = false ∧ s.unlock.bbd.split = false) ∧
    (∀ e der, OpRuns s j 0xF010 x → ((s.pageStep j.die j.job KVD 0 1 3).die 0).mha.state ≠ .open_ → (s.die 0).kvd.derived = some der → let k := (s.die 0).kvd
      let s1 := s.pageStep j.die j.job KVD 0 1 3
      let s2 := s1.pageStep j.die j.job KVD 0 2 3
      let typed := (s1.bfi.entries.getD (x.sqe.par 0 4) ⟨0, 0, 0, 0⟩).type = 6
      (¬ typed → fails (.sealCandidate j e) s1 stKeyAuth 0) ∧ (typed → s2.candidate e = none → fails (.sealCandidate j e) s2 stKeyAuth 0) ∧
      (∀ fw set svn, typed → s2.candidate e = some (fw, set, svn) → ¬ (svn < k.svnFw ∨ set.svn < k.svnMc) →
        Commits (.sealCandidate j e) s ((s2.measures 0 (packagesOf e 0)).pageStep j.die j.job KVD 0 3 3) j x anyTime [] 0 [] (fun t =>
          State.progress { t with store := { t.store with migration := migrationRecord der (sha384 fw) set.measure } } 0 KVD 0 3 1000))) ∧
    (OpRuns s j 0xF040 x → s.drainBusy j.die j.job = false →
      let s1 := s.pageStep j.die j.job ALG s.algDie 1 1024
      let out := (takeSlots s1.alg.slots (x.sqe.outCap.toNat / 64)).flatMap LogSlot.bytes
      s1.alg.stopped = false → ∃ ps, ps ≤ anyTime ∧ exec (.logDrain j) s =
        .next (settle (if out = [] then (s1.drawn.progress s1.algDie ALG 0 1024 1000).endOp j.die j.job stOk (BitVec.ofNat 32 s1.alg.occupancy) ps []
        else State.endOp { s1.drawn with alg := { s1.alg with draining := some (j.die, j.job) } } j.die j.job stOk 0 ps out)))

/-- R448 to R456 and R460: the log. The arbiter takes the next offer while it is not stopped and no checkpoint is due: with 74 free slots or fewer the entry is not placed and counted, with 330 or fewer
a refusable change is refused with LOG_FULL, else the entry takes the next sequence number and its place in the chain and its change takes effect; a due checkpoint takes 74 slots; its
signature completes it and raises CKPT_READY.
Choices of the model that it rests on: log entries 75, 77. -/
def Obligations.AuditLog : Prop :=
  ∀ (s : State),
    (∀ o rest, s.alg.offers = o :: rest →
      (s.alg.stopped = false → s.alg.ckptDue = false →
        exec .auditEntryAccept s = .next (settle (State.arbitrate { s with alg := { s.alg with offers := rest } } o))) ∧
      (s.alg.stopped = true ∨ s.alg.ckptDue = true → exec .auditEntryAccept s = .next (settle s))) ∧
    (∀ o : Offer,
      (s.alg.free ≤ 74 → o.kind ≠ 4 → s.arbitrate o = s.miss) ∧
      (74 < s.alg.free → s.alg.free ≤ 330 → s.alg.missed = 0 → o.refusable = true → s.arbitrate o = (s.place o stLogFull.toNat).count s.algDie ALG 0 0x114) ∧
      (74 < s.alg.free → s.alg.missed = 0 → o.refusable = false ∨ 330 < s.alg.free → o.fromRecord = false → s.arbitrate o = (s.place o o.result).applyChange o.change) ∧
      (75 < s.alg.free → s.alg.missed ≠ 0 → 330 < s.alg.free → o.fromRecord = false →
        let t := s.place (Offer.of 0 s.algDie 0x0003 s.alg.missed) 0
        s.arbitrate o = (State.place { t with alg := { t.alg with missed := 0 } } o o.result).applyChange o.change)) ∧
    (∀ (o : Offer) (r : Nat), let t := s.place o r
      t.alg.seqNo = s.alg.seqNo + 1 ∧ t.alg.sinceCkpt = s.alg.sinceCkpt + 1 ∧ t.alg.chain = sha384 (s.alg.chain ++ entryHead s o r) ∧
      t.alg.slots = s.alg.slots ++ [LogSlot.entry (entryHead s o r ++ t.alg.chain.take 16)] ∧ (entryHead s o r).length = 48 ∧
      slice (entryHead s o r) 8 4 = leBytes 4 (s.alg.seqNo % 2 ^ 32) ∧ (1024 ≤ s.alg.sinceCkpt + 1 ∨ s.alg.ckptDue = true → t.alg.ckptDue = true)) ∧
    (s.miss.alg.missed = s.alg.missed + 1 ∧ s.miss.alg.slots = s.alg.slots) ∧
    (s.alg.ckptDue = true → s.alg.stopped = false →
      (s.alg.free < 74 → exec .checkpoint s = .next (settle s)) ∧
      (74 ≤ s.alg.free → Effect .checkpoint s (fun t => t.alg.ckptDue = false ∧ t.alg.sinceCkpt = 0 ∧ t.alg.signing = true ∧ t.alg.seqNo = s.alg.seqNo + 1 ∧
        t.alg.prevCkpt = some (s.alg.seqNo % 2 ^ 32) ∧ ∃ h, t.alg.slots = s.alg.slots ++ [LogSlot.checkpoint h t.alg.chain none] ∧ h.length = 64))) ∧
    (∀ a b h c, s.alg.slots = a ++ LogSlot.checkpoint b h none :: c → (∀ x ∈ a, x.unsigned = false) →
      ∃ sig : List Byte, sig.length = 4627 ∧ let l := a ++ LogSlot.checkpoint b h (some sig) :: c
        exec .checkpointSigned s = .next (settle (State.event
          { s with alg := { s.alg with slots := l, ckptSeq := fieldLe b 8 4, signing := l.any LogSlot.unsigned } } s.algDie ALG 0 2)))

/-- R405 to R414 and R417: the backup card and its jobs. An insertion identifies the card, in the highest mode that both sides allow and that the switch reaches, or ends in ERROR; a reinsertion with the job's volume lets it go
on, another volume ends it with SHORT and the bytes left, as does a reinsertion that does not come; a removal keeps the job waiting. Data read goes to the job; CRC errors are retried three times,
a limit passed is an ERROR; a busy that ends confirms a record; an idle clock stops. The first call of a job reads its selection, later ones take it on.
Choices of the model that it rests on: log entries 24, 99, 100. -/
def Obligations.BackupVolumes : Prop :=
  ∀ (s : State),
    ((s.die 0).state ≠ .running → ∀ c, exec (.backupCardInserted c) s = .next (settle (s.modBmp (fun b => { b with detLow := true })))) ∧
    (∀ c : BkIdent, (s.die 0).state = .running → s.bmp.state = .empty → let u := (s.event 0 BMP 0 0).send (.cardPower 4 1)
      (c.accepted = false → exec (.backupCardInserted c) s = .next (settle ((u.modBmp (fun b => { b with detLow := true, present := true, state := .error })).event 0 BMP 0 3))) ∧
      (c.accepted = true → let lim := s.reg 0 BMP 0 0x120
        let tries := (List.range (min 4 (bits lim 0 3) + 1)).reverse.filter (fun m => decide (m < 2) || c.s18a)
        let vs := volumeState c.header
        let t := State.event (u.modBmp (fun b => { b with
          state := .ready, detLow := true, present := true, mode := reachMode tries (0 :: c.modes), wide := c.wide && !bit lim 3, s18 := c.s18a, capacity := c.capacity, blocks := c.blocks,
          volState := vs, volId := if vs = 0 then [] else slice c.header 8 16, volRecords := if vs = 0 then 0 else fieldLe c.header 40 4, clkStopped := false, retries := 0 })) 0 BMP 0 2
        (s.bmp.op = none → exec (.backupCardInserted c) s = .next (settle t)) ∧
        (∀ o, s.bmp.op = some o → o.waiting = true → o.sameVolume c.header = false → exec (.backupCardInserted c) s = .next (settle (t.endBackup stShort o.bytesLeft))))) ∧
    (s.bmp.present = true → exec .backupCardRemoved s = .next (settle (State.send
      ((State.event { s with bmp := { Bmp.empty with op := s.bmp.op.map (fun o => { o with waiting := true }) } } 0 BMP 0 1).count 0 BMP 0 0x11C) (.cardPower 4 0)))) ∧
    (s.bmp.state = .ready → exec .bkClockIdle s = .next (settle (s.modBmp (fun b => { b with clkStopped := true })))) ∧
    (∀ o, s.bmp.op = some o →
      (o.waiting = true → exec .reinsertTimeout s = .next (settle (s.endBackup stShort o.bytesLeft))) ∧
      (o.waiting = false → (s.job? o.die o.job).isSome = true →
        (s.bmp.state = .transfer →
          (∀ data, exec (.blockRead (.good data)) s = .next (settle ((s.modBmp (fun b => { b with state := .ready })).modBk (fun o' => { o' with
            record := o'.record ++ fit (512 * o'.block) data, checking := true })))) ∧
          exec (.blockRead .crcError) s = .next (settle ((s.faultAct 0 689).count 0 BMP 0 0x114).bkRetry)) ∧
        (s.bmp.state = .busy → exec (.busyEnd false) s = .next (settle s.bkRetry) ∧ exec (.busyEnd true) s = .next (settle ((s.modBmp (fun b => { b with state := .ready })).exportConfirmed o)) ∧
          (1 ≤ o.step → o.step ≤ o.items.length → (s.modBmp (fun b => { b with state := .ready })).exportConfirmed o = State.jobStep (State.custodial
            (((s.modBmp (fun b => { b with state := .ready })).modBk (fun o' => { o' with
              checking := true, step := o'.step + 1, done := o'.done + 1, chain := sha384 (o'.chain ++ o'.record) })).dropKeys o.die o.job)) o.die o.job (o.step + 1) (o.items.length + 1))))) ∧
    (s.bmp.state = .transfer ∨ s.bmp.state = .busy →
      exec (.sdTimeout .cmdCrc) s = .next (settle ((s.faultAct 0 688).count 0 BMP 0 0x110).bkRetry) ∧ exec (.sdTimeout .response) s = .next (settle ((s.faultAct 0 690).count 0 BMP 0 0x110).bkError) ∧
      exec (.sdTimeout .data) s = .next (settle (s.faultAct 0 690).bkError) ∧ exec (.sdTimeout .busy) s = .next (settle ((s.faultAct 0 690).count 0 BMP 0 0x118).bkError)) ∧
    (3 ≤ s.bmp.retries → s.bkRetry = s.bkError) ∧ (s.bmp.retries < 3 → s.bkRetry = (s.modBmp (fun b => { b with retries := b.retries + 1 })).bkSend) ∧
    (∀ (j : JobRef) (x : Job), let input := x.data.inData
      let fails := fun (c : Instr) (st : W16) (detail : Nat) => exec c s = .next (settle (s.opFail j.die j.job st detail (s.opPs x 4000000000)))
      (OpRuns s j 0x600A x → s.bkOp = none →
        (∀ o, selectionFail input 0 4 = some o → fails (.backupExport j) stEncoding o) ∧
        (selectionFail input 0 4 = none → let hs := (List.range (fieldLe input 0 2)).map (fun i => (i, fieldLe input (4 + 4 * i) 4))
          exec (.backupExport j) s = .next (settle ((s.bkStart j.die j.job true hs 0).wantMore j.die j.job
            ((hs.filter (fun (p : Nat × Nat) => bkScope x.src.mgr (hScope (BitVec.ofNat 32 p.2)))).map (fun (p : Nat × Nat) => s.mkWant x .size (BitVec.ofNat 32 p.2))))))) ∧
      (OpRuns s j 0x600B x → s.bkOp = none →
        (∀ o, selectionFail input 4 8 = some o → fails (.backupImport j) stEncoding o) ∧
        (selectionFail input 4 8 = none → bkScope x.src.mgr (hScope (BitVec.ofNat 32 (fieldLe input 0 4))) = false → fails (.backupImport j) stKeyScope 0)) ∧
      (∀ o, s.bkOp = some o → o.die = j.die → o.job = j.job → o.waiting = false → o.checking = true → CommitOpen s x →
        (OpRuns s j 0x600A x → o.step = 0 → s.bmp.state = .ready → 1 + o.blocks ≤ s.bmp.blocks → ∃ vid : List Byte, vid.length = 16 ∧
          exec (.backupExport j) s = .next (settle (State.bkWrite ((s.drawn.modBmp (fun b => { b with volState := 1, volId := vid, volRecords := 0 })).modBk (fun o => { o with
            volumeId := vid, created := s.bbd.rtc.toNat, chain := chainStart vid (leBytes 8 (s.die 0).fuses.uid.toNat) s.bbd.rtc.toNat })) 0
            (volumeHeader s.cards.quorum.qtk 1 vid (leBytes 8 (s.die 0).fuses.uid.toNat) s.bbd.rtc.toNat 0 o.blocks [] s.bbram.roster)))) ∧
        (OpRuns s j 0x600A x → o.items.length < o.step → exec (.backupExport j) s = .next (settle (s.exportClose o))) ∧
        (OpRuns s j 0x600B x → o.record ≠ [] → 0 < o.step → let n := recordLen o.record
          (o.record.take 4 = [0x56, 0x51, 0x52, 0x43] → fieldLe o.record 4 4 = o.done → o.lba + sdBlocks n ≤ o.blocks + 1 → sdBlocks n ≤ o.record.length / 512 →
            openRecord (volumeKey s.cards.quorum.qtk o.volumeId) o.volumeId (o.record.take n) = none → exec (.backupImport j) s = .next (settle (s.endBackup stKeyAuth 0))) ∧
          (∀ plain, o.record.take 4 = [0x56, 0x51, 0x52, 0x43] → fieldLe o.record 4 4 = o.done → o.lba + sdBlocks n ≤ o.blocks + 1 → sdBlocks n ≤ o.record.length / 512 →
            openRecord (volumeKey s.cards.quorum.qtk o.volumeId) o.volumeId (o.record.take n) = some plain → (∀ p ∈ o.items, p.1 ≠ o.done) →
            let chain := sha384 (o.chain ++ o.record.take n)
            (o.done + 1 < o.records → exec (.backupImport j) s =
              .next (settle (State.bkRead (s.modBk (fun o => { o with done := o.done + 1, chain := chain })) (o.lba + sdBlocks n) 1 []))) ∧
            (o.records ≤ o.done + 1 → chain = slice o.header 48 48 → exec (.backupImport j) s = .next (settle (s.custodial.endBackup stOk 0))) ∧
            (o.records ≤ o.done + 1 → chain ≠ slice o.header 48 48 → exec (.backupImport j) s = .next (settle (s.endBackup stKeyAuth 0)))))))

/-! ### The machine as a whole -/

/-- The block's own step: the command at the front of the queue runs on the state with the queue's rest, and an empty queue is a period of the real-time clock's 32,768 Hz crystal, two
counts of 2^-16 s (the model's choice, log 1). And every command of the operation table completes: under the conditions on the state and its operands alone that `RunsNormally` gives it, with
the rules that name them, its execution, and the step with it in front, answer a next state. -/
def Obligations.StepRunsFront : Prop :=
  (∀ (s : State) (c : Instr), RunsNormally s c → Completes c s ∧ ∀ t : State, { t with pending := t.pending.tail } = s → t.pending.head? = some c → ∃ u, step t = .next u) ∧
  ∀ (s : State) (c : Instr) (rest : List Instr),
    step { s with pending := c :: rest } = exec c { s with pending := rest } ∧
    (let t : State := { s with pending := [], dies := s.dies.map (fun d => { d with lves := d.lves.map (fun u => { u with svc := { u.svc with wiping := false } }) }) };
      (s.bbd.powered = true → step { s with pending := [] } = .next { t with bbd := { s.bbd with rtc := s.bbd.rtc + 2 } }) ∧
      (s.bbd.powered = false → step { s with pending := [] } = .next t))

/-- R426, R459, R460, R502 and the reset columns of the register tables: right after reset, for each part. COLD reset is held, nothing runs, the link is down, no instance exists, the log is
stopped and empty, the real-time clock and MONO are zero; EVT_PEND, EVT_EN, LOCK and PROGRESS of every page are zero. State.reset is the part with one die. It is sound.
Choices of the model that it rests on: log entries 2, 118. -/
def Obligations.ResetState : Prop :=
  ∀ p : Part, let s := State.resetOf p
    State.Sound s ∧ State.reset = State.resetOf .vq8100 ∧ s.pending = [] ∧ s.tx = [] ∧ s.dies.length = p.dies ∧ s.insts = [] ∧ s.hif.link = .detect ∧ s.hif.busMaster = false ∧
    s.pkg.pwrgood = false ∧ s.pkg.ready = false ∧ s.pkg.lock = false ∧ s.pkg.alive = false ∧ s.alg.stopped = true ∧ s.alg.slots = [] ∧ s.alg.seqNo = 0 ∧ s.alg.missed = 0 ∧
    s.bbd.rtc = 0 ∧ s.bbd.mono = 0 ∧ s.bbd.record = [] ∧ s.bbram = Bbram.empty ∧ s.cards.quorum.present = false ∧ s.lcc.xfer = none ∧ s.evr = Evr.reset ∧ s.msix.enable = false ∧
    ∀ x ∈ s.dies, x.state = .inReset ∧ x.jobs = [] ∧ x.queues = [] ∧ x.kvd.slots = [] ∧ x.kpc = [] ∧ x.lves.length = 16 ∧ x.bnes.length = 4 ∧ x.syes.length = 2 ∧ x.chans.length = 16 ∧
      ∀ blk e o, e < 16 → o ∈ [0x00C, 0x018, 0x01C, 0x028] → x.reg blk e o = 0

/-- R38, R44, R70, R422, R505: what holds between any two commands, whatever they are: in LOCK every key bus is gated; ALIVE carries its wave exactly while its conditions hold; no
message is held in the PBA or in the interrupt table without a condition that holds it; the link is in L1 only while no die has work. Every step keeps it. And what follows every command
at once touches outputs alone: registers of events and counters, the router, the PBA, the gates, ALIVE, the alert and the link's exit from L1.
Choices of the model that it rests on: log entry 12. -/
def Obligations.SoundKept : Prop :=
  (∀ s t : State, s.Sound → step s = .next t → t.Sound) ∧
  ∀ s : State, let t := settle s
    t.Sound ∧ t.part = s.part ∧ t.insts = s.insts ∧ t.bbd = s.bbd ∧ t.bbram = s.bbram ∧ t.baton = s.baton ∧ t.alg = s.alg ∧ t.cards = s.cards ∧ t.bmp = s.bmp ∧ t.lcc = s.lcc ∧
    t.bfi = s.bfi ∧ t.store = s.store ∧ t.flash = s.flash ∧ t.freeCtr = s.freeCtr ∧ t.pending = s.pending ∧ t.dies.length = s.dies.length ∧
    { t.hif with link := s.hif.link } = s.hif ∧ (t.hif.link ≠ s.hif.link → s.hif.link = .l1 ∧ t.hif.link = .l0) ∧ t.msix.table = s.msix.table ∧ t.evr.routes = s.evr.routes ∧
    t.evr.mqRoutes = s.evr.mqRoutes ∧ s.tx <+: t.tx ∧
    (∀ d, { t.die d with regs := (s.die d).regs, tmn := (s.die d).tmn } = s.die d ∧ { (t.die d).tmn with gated := (s.die d).tmn.gated } = (s.die d).tmn) ∧
    (t.pkg.lock = s.pkg.lock ∧ t.pkg.ready = s.pkg.ready ∧ t.pkg.fault = s.pkg.fault ∧ t.pkg.pwrgood = s.pkg.pwrgood ∧ t.pkg.perstN = s.pkg.perstN ∧ t.pkg.severes = s.pkg.severes)

end
end

