-- ==== Sys2Proof/Laws/Mem.lean ====
section
/-! SUPPORT. Laws of byte memories and tables: read after write, and that every operation keeps the canonical form. -/

namespace Sys2Proof.Machine

/-- A read after a write of one byte. -/
theorem Mem.read_write (m : Mem) (a k : Nat) (v : Byte) (lo : Option Nat) (h : Mem.wfFrom lo m = true) :
    (Mem.write m a v).read k = if k = a then v else m.read k := by
  induction m generalizing lo with
  | nil =>
    by_cases hv : v = 0#8 <;> by_cases hk : k = a <;> simp [Mem.write, Mem.read, hv, hk]
    intro h'; exact absurd h'.symm hk
  | cons c m ih =>
    obtain ⟨b, x⟩ := c
    simp only [Mem.wfFrom, Bool.and_eq_true] at h
    obtain ⟨⟨_, _⟩, hm⟩ := h
    have low : ∀ (m : Mem) (b k : Nat), Mem.wfFrom (some b) m = true → k ≤ b → m.read k = 0 := by
      intro m
      induction m with
      | nil => intro b k _ _; rfl
      | cons c m ih =>
        intro b k h hk
        obtain ⟨b', x'⟩ := c
        simp only [Mem.wfFrom, Bool.and_eq_true, decide_eq_true_eq] at h
        obtain ⟨⟨h1, _⟩, h2⟩ := h
        have : b' ≠ k := by omega
        simp [Mem.read, this, ih b' k h2 (by omega)]
    unfold Mem.write
    by_cases hba : b = a
    · subst hba
      by_cases hv : v = 0#8
      · by_cases hk : k = b
        · simp [hv, hk, low m b b hm (le_refl _)]
        · simp [hv, hk, Mem.read, Ne.symm hk]
      · by_cases hk : k = b
        · simp [hv, hk, Mem.read]
        · simp [hv, hk, Mem.read, Ne.symm hk]
    · by_cases hlt : a < b
      · by_cases hv : v = 0#8
        · by_cases hk : k = a
          · subst hk
            simp [hba, hlt, hv, Mem.read, low m b k hm (by omega)]
          · simp [hba, hlt, hv, hk]
        · by_cases hk : k = a
          · subst hk; simp [hba, hlt, hv, Mem.read]
          · simp [hba, hlt, hv, hk, Mem.read, Ne.symm hk]
      · by_cases hk : b = k
        · subst hk; simp [hba, hlt, Mem.read]
        · have := ih (some b) hm
          simp [hba, hlt, Mem.read, hk, this]

/-- Writing a byte keeps the canonical form. -/
theorem Mem.wfFrom_write (m : Mem) (a : Nat) (v : Byte) (lo : Option Nat) (h : Mem.wfFrom lo m = true)
    (ha : ∀ l, lo = some l → l < a) : Mem.wfFrom lo (Mem.write m a v) = true := by
  induction m generalizing lo with
  | nil =>
    by_cases hv : v = 0#8
    · simp [Mem.write, hv, Mem.wfFrom]
    · cases lo with
      | none => simp [Mem.write, hv, Mem.wfFrom]
      | some l => simp [Mem.write, hv, Mem.wfFrom, ha l rfl]
  | cons c m ih =>
    obtain ⟨b, x⟩ := c
    simp only [Mem.wfFrom, Bool.and_eq_true] at h
    obtain ⟨⟨h1, h2⟩, hm⟩ := h
    have raise : ∀ (m : Mem) (a b : Nat), a ≤ b → Mem.wfFrom (some b) m = true → Mem.wfFrom (some a) m = true := by
      intro m a b hab h
      cases m with
      | nil => rfl
      | cons c m =>
        obtain ⟨b', x'⟩ := c
        simp only [Mem.wfFrom, Bool.and_eq_true, decide_eq_true_eq] at h ⊢
        exact ⟨⟨by omega, h.1.2⟩, h.2⟩
    have lift : ∀ (b' : Nat), a ≤ b' → Mem.wfFrom (some b') m = true → Mem.wfFrom lo m = true := by
      intro b' hb hm'
      cases lo with
      | some l => exact raise m l b' (Nat.le_trans (Nat.le_of_lt (ha l rfl)) hb) hm'
      | none =>
        cases m with
        | nil => rfl
        | cons c m =>
          simp only [Mem.wfFrom, Bool.and_eq_true] at hm' ⊢
          exact ⟨⟨trivial, hm'.1.2⟩, hm'.2⟩
    have above : ∀ m' : Mem, ∀ x' : Byte, (x' ≠ 0) → Mem.wfFrom (some a) m' = true → Mem.wfFrom lo ((a, x') :: m') = true := by
      intro m' x' hx hm'
      cases lo with
      | none => simp only [Mem.wfFrom, Bool.and_eq_true, decide_eq_true_eq]; exact ⟨⟨trivial, hx⟩, hm'⟩
      | some l => simp only [Mem.wfFrom, Bool.and_eq_true, decide_eq_true_eq]; exact ⟨⟨ha l rfl, hx⟩, hm'⟩
    unfold Mem.write
    split
    · next hba =>
      subst hba
      split
      · exact lift b (le_refl _) hm
      · next hv => exact above m v hv hm
    · split
      · next hlt =>
        split
        · simp only [Mem.wfFrom, Bool.and_eq_true]; exact ⟨⟨h1, h2⟩, hm⟩
        · next hv =>
          refine above _ v hv ?_
          simp only [Mem.wfFrom, Bool.and_eq_true, decide_eq_true_eq]
          exact ⟨⟨hlt, of_decide_eq_true h2⟩, hm⟩
      · next hba hlt =>
        simp only [Mem.wfFrom, Bool.and_eq_true]
        refine ⟨⟨h1, h2⟩, ih (some b) hm ?_⟩
        intro l hl
        cases hl
        omega

/-- Writing a byte keeps the canonical form. -/
theorem Mem.wf_write {m : Mem} (a : Nat) (v : Byte) (h : m.wf = true) : (Mem.write m a v).wf = true :=
  Mem.wfFrom_write m a v none h (by simp)

/-- Writing consecutive bytes keeps the canonical form. -/
theorem Mem.wf_writes {m : Mem} (a : Nat) (bs : List Byte) (h : m.wf = true) : (Mem.writes m a bs).wf = true := by
  induction bs generalizing m a with
  | nil => exact h
  | cons b bs ih => exact ih (a + 1) (Mem.wf_write a b h)

/-- A read after a write of consecutive bytes. -/
theorem Mem.read_writes {m : Mem} (a k : Nat) (bs : List Byte) (h : m.wf = true) :
    (Mem.writes m a bs).read k = if h : a ≤ k ∧ k < a + bs.length then bs[k - a]'(by omega) else m.read k := by
  induction bs generalizing m a with
  | nil =>
    have : ¬ (a ≤ k ∧ k < a + ([] : List Byte).length) := by simp
    rw [dif_neg this, Mem.writes]
  | cons b bs ih =>
    rw [Mem.writes, ih (a + 1) (Mem.wf_write a b h), Mem.read_write m a k b none h]
    by_cases hk : k = a
    · subst hk
      simp
    · by_cases h1 : a + 1 ≤ k ∧ k < a + 1 + bs.length
      · have h2 : a ≤ k ∧ k < a + (b :: bs).length := by simp; omega
        rw [dif_pos h1, dif_pos h2]
        have : k - a = (k - (a + 1)) + 1 := by omega
        simp [this]
      · have h2 : ¬ (a ≤ k ∧ k < a + (b :: bs).length) := by simp; omega
        rw [dif_neg h1, dif_neg h2, if_neg hk]

@[simp] theorem leBytes_length (n x : Nat) : (leBytes n x).length = n := by
  induction n generalizing x with
  | zero => rfl
  | succ n ih => simp [leBytes, ih]

/-- A byte of a little-endian string. -/
theorem leBytes_get (n x k : Nat) (h : k < (leBytes n x).length) : (leBytes n x)[k].toNat = x / 256 ^ k % 256 := by
  induction n generalizing x k with
  | zero => simp at h
  | succ n ih =>
    cases k with
    | zero => simp [leBytes]
    | succ k =>
      have h' : k < (leBytes n (x / 256)).length := by simpa [leBytes] using h
      simp only [leBytes, List.getElem_cons_succ]
      rw [ih (x / 256) k h', Nat.div_div_eq_div_mul, pow_succ']

/-- A little-endian number is below its power of 256. -/
theorem leNat_lt (bs : List Byte) : leNat bs < 256 ^ bs.length := by
  induction bs with
  | nil => simp [leNat]
  | cons b bs ih =>
    have := b.isLt
    simp only [leNat, List.length_cons, pow_succ']
    omega

/-- The entry of a key after a table write. -/
theorem Assoc.get?_set {α : Type} (m : Assoc α) (a k : Nat) (x : α) : Assoc.get? (Assoc.set m a x) k = if k = a then some x else Assoc.get? m k := by
  induction m with
  | nil =>
    by_cases hk : k = a
    · simp [Assoc.set, Assoc.get?, hk]
    · simp [Assoc.set, Assoc.get?, hk, Ne.symm hk]
  | cons c m ih =>
    obtain ⟨b, y⟩ := c
    unfold Assoc.set
    split
    · next hb =>
      subst hb
      by_cases hk : k = b
      · simp [Assoc.get?, hk]
      · simp [Assoc.get?, hk, Ne.symm hk]
    · next hb =>
      split
      · by_cases hk : k = a
        · simp [Assoc.get?, hk]
        · simp [Assoc.get?, hk, Ne.symm hk]
      · by_cases hk : b = k
        · subst hk; simp [Assoc.get?, hb]
        · simp [Assoc.get?, hk, ih]

/-- What a map holds after one key is set. -/
theorem Assoc.mem_set {α : Type} {m : Assoc α} {a : Nat} {x : α} {p : Nat × α} (h : p ∈ Assoc.set m a x) : p = (a, x) ∨ p ∈ m := by
  induction m with
  | nil =>
    simp only [Assoc.set, List.mem_singleton] at h
    exact .inl h
  | cons q r ih =>
    obtain ⟨k, y⟩ := q
    simp only [Assoc.set] at h
    split at h
    · rcases List.mem_cons.mp h with e | e
      · exact .inl e
      · exact .inr (List.mem_cons_of_mem _ e)
    · split at h
      · rcases List.mem_cons.mp h with e | e
        · exact .inl e
        · exact .inr e
      · rcases List.mem_cons.mp h with e | e
        · exact .inr (e ▸ List.mem_cons_self ..)
        · rcases ih e with e | e
          · exact .inl e
          · exact .inr (List.mem_cons_of_mem _ e)

/-- A table write keeps the canonical form. -/
theorem Assoc.wfFrom_set {α : Type} (m : Assoc α) (a : Nat) (x : α) (lo : Option Nat) (h : Assoc.wfFrom lo m = true) (ha : ∀ l, lo = some l → l < a) :
    Assoc.wfFrom lo (Assoc.set m a x) = true := by
  have above : ∀ m' : Assoc α, Assoc.wfFrom (some a) m' = true → Assoc.wfFrom lo ((a, x) :: m') = true := by
    intro m' hm'
    cases lo with
    | none => simp only [Assoc.wfFrom, Bool.and_eq_true]; exact ⟨trivial, hm'⟩
    | some l => simp only [Assoc.wfFrom, Bool.and_eq_true, decide_eq_true_eq]; exact ⟨ha l rfl, hm'⟩
  induction m generalizing lo with
  | nil => exact above [] rfl
  | cons c m ih =>
    obtain ⟨b, y⟩ := c
    simp only [Assoc.wfFrom, Bool.and_eq_true] at h
    unfold Assoc.set
    split
    · next hb => subst hb; exact above m h.2
    · next hb =>
      split
      · next hlt =>
        refine above _ ?_
        simp only [Assoc.wfFrom, Bool.and_eq_true, decide_eq_true_eq]
        exact ⟨hlt, h.2⟩
      · next hlt =>
        simp only [Assoc.wfFrom, Bool.and_eq_true]
        refine ⟨h.1, ih (some b) h.2 ?_ ?_⟩
        · intro l hl; cases hl; omega
        · intro m' hm'
          simp only [Assoc.wfFrom, Bool.and_eq_true, decide_eq_true_eq]
          exact ⟨by omega, hm'⟩

/-- A table write keeps the canonical form. -/
theorem Assoc.wf_set {α : Type} {m : Assoc α} (a : Nat) (x : α) (h : m.wf = true) : (Assoc.set m a x).wf = true :=
  Assoc.wfFrom_set m a x none h (by simp)

end Sys2Proof.Machine
end

