-- ==== Sys2Proof/Laws/Lve.lean ====
section
/-! SUPPORT. Laws of the LVE: register access, packed elements, running an instruction. -/

namespace Sys2Proof.Machine

/-! ### Packed elements (R186) -/

/-- A packed list of digits is below the power of its length. -/
theorem packFold_lt (w : Nat) (g : Nat → Nat) (L : List Nat) :
    L.foldr (fun i acc => g i % 2 ^ w + 2 ^ w * acc) 0 < 2 ^ (w * L.length) := by
  induction L with
  | nil => simp
  | cons a L ih =>
    have h1 : g a % 2 ^ w < 2 ^ w := Nat.mod_lt _ (by positivity)
    simp only [List.foldr_cons, List.length_cons]
    rw [Nat.mul_succ, Nat.add_comm (w * L.length) w, pow_add]
    calc _ < 2 ^ w + 2 ^ w * L.foldr (fun i acc => g i % 2 ^ w + 2 ^ w * acc) 0 := by omega
      _ = 2 ^ w * (L.foldr (fun i acc => g i % 2 ^ w + 2 ^ w * acc) 0 + 1) := by ring
      _ ≤ _ := Nat.mul_le_mul_left _ ih

/-- A digit of a packed list. -/
theorem packFold_digit (w : Nat) (g : Nat → Nat) (L : List Nat) (k : Nat) (h : k < L.length) :
    (L.foldr (fun i acc => g i % 2 ^ w + 2 ^ w * acc) 0) / 2 ^ (w * k) % 2 ^ w = g L[k] % 2 ^ w := by
  induction L generalizing k with
  | nil => simp at h
  | cons a L ih =>
    have h1 : g a % 2 ^ w < 2 ^ w := Nat.mod_lt _ (by positivity)
    have hp : 0 < 2 ^ w := by positivity
    cases k with
    | zero => simp [Nat.add_mul_mod_self_left]
    | succ k =>
      simp only [List.foldr_cons, List.getElem_cons_succ]
      rw [Nat.mul_succ, Nat.add_comm (w * k) w, pow_add, ← Nat.div_div_eq_div_mul,
        Nat.add_mul_div_left _ _ hp, Nat.div_eq_of_lt h1, Nat.zero_add]
      exact ih k (by simpa using h)

/-- An element of a packed register. -/
theorem elemN_packElems (w n : Nat) (g : Nat → Nat) (i : Nat) (hi : i < n) (hw : w * n ≤ 2048) :
    elemN w (packElems w n g) i = g i % 2 ^ w := by
  have hlt := packFold_lt w g (List.range n)
  simp only [List.length_range] at hlt
  have : (List.range n).foldr (fun i acc => g i % 2 ^ w + 2 ^ w * acc) 0 < 2 ^ 2048 :=
    Nat.lt_of_lt_of_le hlt (Nat.pow_le_pow_right (by norm_num) hw)
  simp only [elemN, packElems, BitVec.toNat_ofNat, Nat.mod_eq_of_lt this, Nat.shiftRight_eq_div_pow]
  have := packFold_digit w g (List.range n) i (by simpa using hi)
  simpa using this

/-- An element is below the power of its width. -/
theorem elemN_lt (w : Nat) (x : VReg) (i : Nat) : elemN w x i < 2 ^ w := Nat.mod_lt _ (by positivity)

@[simp] theorem elemN_mod (w : Nat) (x : VReg) (i : Nat) : elemN w x i % 2 ^ w = elemN w x i :=
  Nat.mod_eq_of_lt (elemN_lt w x i)

/-- A bit of a packed mask. -/
theorem bit_packMask (g : Nat → Bool) (i : Nat) (hi : i < 256) : bit (packMask g) i = g i := by
  have e : ∀ L : List Nat, L.foldr (fun i acc => b2n (g i) + 2 * acc) 0 =
      L.foldr (fun i acc => b2n (g i) % 2 ^ 1 + 2 ^ 1 * acc) 0 := by
    intro L
    induction L with
    | nil => rfl
    | cons a L ih =>
      have : b2n (g a) % 2 = b2n (g a) := by cases g a <;> rfl
      simp only [List.foldr_cons, ih, pow_one, this]
  have hd := packFold_digit 1 (fun i => b2n (g i)) (List.range 256) i (by simpa using hi)
  simp only [List.getElem_range, Nat.one_mul, pow_one] at hd
  have hb : b2n (g i) % 2 = b2n (g i) := by cases g i <;> rfl
  have : bit (packMask g) i = decide (b2n (g i) = 1) := by
    simp only [bit, packMask, BitVec.getLsbD_ofNat, hi, decide_true, Bool.true_and, Nat.testBit_eq_decide_div_mod_eq]
    rw [e]
    simp only [pow_one]
    rw [hd, hb]
  rw [this]
  cases g i <;> rfl

/-- Elements fill the register. -/
theorem Lve.sew_vlmax (l : Lve) : l.sew * l.vlmax = 2048 := by
  have h : l.core.vtype.toNat % 4 = 0 ∨ l.core.vtype.toNat % 4 = 1 ∨ l.core.vtype.toNat % 4 = 2 ∨ l.core.vtype.toNat % 4 = 3 := by omega
  rcases h with h | h | h | h <;> simp [Lve.vlmax, Lve.sew, sewOf, h]

/-- The element widths. -/
theorem Lve.sew_cases (l : Lve) : l.sew = 8 ∨ l.sew = 16 ∨ l.sew = 32 ∨ l.sew = 64 := by
  have h : l.core.vtype.toNat % 4 = 0 ∨ l.core.vtype.toNat % 4 = 1 ∨ l.core.vtype.toNat % 4 = 2 ∨ l.core.vtype.toNat % 4 = 3 := by omega
  rcases h with h | h | h | h <;> simp [Lve.sew, sewOf, h]

/-- VLMAX is at most 256. -/
theorem Lve.vlmax_le (l : Lve) : l.vlmax ≤ 256 := by
  have := l.sew_vlmax
  rcases l.sew_cases with h | h | h | h <;> rw [h] at this <;> omega

/-- An element of a register written in full width. -/
theorem Lve.elem_pack (l : Lve) (g : Nat → Nat) (i : Nat) (h : i < l.vlmax) :
    elemN l.sew (packElems l.sew l.vlmax g) i = g i % 2 ^ l.sew :=
  elemN_packElems _ _ _ _ h (Nat.le_of_eq l.sew_vlmax)

/-- What `mapActive` leaves in each element (R191). -/
theorem Lve.holds_mapActive (l : Lve) (f : LveFields) (d : Nat) (g : Nat → Nat) (p : Nat → Nat → Prop)
    (h : ∀ i, i < l.vlmax → l.active f i = true → p i (g i % 2 ^ l.sew)) : l.Holds f d (l.mapActive f d g) p := by
  intro i hi
  simp only [Lve.mapActive, l.elem_pack _ i hi]
  split
  · next ha => simpa [ha] using h i hi ha
  · next ha => simp

/-! ### Registers -/

@[simp] theorem Lve.setV_vr (l : Lve) (k j : Nat) (x : VReg) (hk : k < 32) : (l.setV k x).vr j = if j = k then x else l.vr j := by
  simp only [Lve.vr, Lve.setV]
  by_cases h : j = k
  · subst h; simp [hk]
  · by_cases hj : j < 32
    · simp [h, hj, Ne.symm h]
    · simp [h, hj]

/-- Consecutive registers after they are written together. -/
theorem Lve.setVs_vr (l : Lve) (d : Nat) (xs : List VReg) (j : Nat) (h : d + xs.length ≤ 32) :
    (l.setVs d xs).vr j = if hj : d ≤ j ∧ j < d + xs.length then xs[j - d]'(by omega) else l.vr j := by
  induction xs generalizing l d with
  | nil => rw [Lve.setVs, dif_neg (by simp)]
  | cons x xs ih =>
    simp only [List.length_cons] at h
    rw [Lve.setVs, ih _ (d + 1) (by omega), Lve.setV_vr _ _ _ _ (by omega)]
    by_cases h0 : j = d
    · subst h0; simp
    · by_cases h1 : d + 1 ≤ j ∧ j < d + 1 + xs.length
      · have h2 : d ≤ j ∧ j < d + (x :: xs).length := by simp; omega
        rw [dif_pos h1, dif_pos h2]
        have : j - d = (j - (d + 1)) + 1 := by omega
        simp [this]
      · have h2 : ¬ (d ≤ j ∧ j < d + (x :: xs).length) := by simp; omega
        rw [dif_neg h1, dif_neg h2, if_neg h0]

/-- Writing registers changes nothing but the registers. -/
theorem Lve.setVs_eq (l : Lve) (d : Nat) (xs : List VReg) :
    l.setVs d xs = { l with core := { l.core with v := (l.setVs d xs).core.v } } := by
  induction xs generalizing l d with
  | nil => rfl
  | cons x xs ih => rw [Lve.setVs, ih]; rfl

/-! ### Microwords and clocks -/

/-- The microwords of an instruction take the clocks of R212 at the lengths of the shipped map (R229, R230). -/
theorem Lve.clocks_classesOf (l : Lve) (o : LveOp) (f : LveFields) : (l.classesOf o f).clocks shippedLen = l.clocksOf o f := by
  cases o <;> simp only [Lve.classesOf, Lve.clocksOf] <;> (repeat' split) <;>
    simp [Classes.clocks, shippedLen, onlySeq, onlyVec, onlyMem, onlyRnd, oneMul, Classes.zero, *] <;> omega

/-! ### Running an instruction -/

/-- Everything that running an instruction can do: it stops on an engine that does not exist and on an invalid word, is idle where another word is next, is struck by an
abort, an upset or a gap, or has its effect and passes on. -/
theorem lveExec_next {o : LveOp} {r : LveRef} {f : LveFields} {s t : State} {eff : Lve → Option Lve} (h : lveExec o r f s eff = .next t) :
    ∃ u, s.lve? r = some u ∧ o.valid f = true ∧
      ((u.executes o f = false ∧ s.lveIdle r u = .next t) ∨
       (u.executes o f = true ∧ ∃ v, s.lveStruck r o f u = some v ∧ t = settle v) ∨
       (u.executes o f = true ∧ s.lveStruck r o f u = none ∧
        ∃ l, eff u.eng = some l ∧ s.lveFinish r ((s.lveTemps r o f u.eng l).advance (u.eng.classesOf o f)) = .next t)) := by
  unfold lveExec at h
  cases hu : s.lve? r with
  | none => simp [hu] at h
  | some u =>
    refine ⟨u, rfl, ?_⟩
    simp only [hu] at h
    cases hv : o.valid f with
    | false => simp [hv] at h
    | true =>
      refine ⟨rfl, ?_⟩
      cases he : u.executes o f with
      | false => exact .inl ⟨rfl, by simpa [hv, he] using h⟩
      | true =>
        simp only [hv, he, Bool.not_true, Bool.false_eq_true, if_false] at h
        cases hs : s.lveStruck r o f u with
        | some v => exact .inr (.inl ⟨rfl, v, rfl, by simpa [hs, ret] using h.symm⟩)
        | none =>
          simp only [hs] at h
          cases hl : eff u.eng with
          | none => simp [hl] at h
          | some l => exact .inr (.inr ⟨rfl, rfl, l, rfl, by simpa [hl] using h⟩)

/-- Nothing takes the place of an instruction that runs. -/
theorem LveRuns.unstruck {s : State} {o : LveOp} {r : LveRef} {f : LveFields} {u : LveUnit} (h : LveRuns s o r f u) : s.lveStruck r o f u = none := by
  simp [State.lveStruck, h.kept, h.calm, h.plain, upsetStops]

/-- The temporary registers stay where no patch has redirected the expansion. -/
theorem LveRuns.temps {s : State} {o : LveOp} {r : LveRef} {f : LveFields} {u : LveUnit} (h : LveRuns s o r f u) (l : Lve) :
    s.lveTemps r o f u.eng l = l := by
  simp [State.lveTemps, h.plain]

/-- An instruction that runs has its effect. -/
theorem LveRuns.exec {s : State} {o : LveOp} {r : LveRef} {f : LveFields} {u : LveUnit} (h : LveRuns s o r f u) {eff : Lve → Option Lve} {l : Lve}
    (hl : eff u.eng = some l) : lveExec o r f s eff = .next (s.setEng r (l.advance (u.eng.classesOf o f))) := by
  unfold lveExec
  simp [h.unit, h.valid, h.next, h.unstruck, h.temps, hl, State.lveFinish, h.calm]

/-- An instruction whose effect the engine's state does not allow is refused. -/
theorem LveRuns.invalid {s : State} {o : LveOp} {r : LveRef} {f : LveFields} {u : LveUnit} (h : LveRuns s o r f u) {eff : Lve → Option Lve}
    (hl : eff u.eng = none) : lveExec o r f s eff = .refused .invalidInstruction := by
  unfold lveExec
  simp [h.unit, h.valid, h.next, h.unstruck, hl]

end Sys2Proof.Machine

namespace Sys2Proof

open Machine

/-- The effect of every instruction but END and the loops. -/
def LveOp.effect (s : State) (r : LveRef) (f : LveFields) (l : Lve) : LveOp → Option Lve
  | .nop => some l
  | .lend => none
  | .loop => none
  | .loopi => none
  | .setvl => lveSetvl f l
  | .vsettype => lveVsettype f l
  | .vsetmod => lveVsetmod f l
  | .setout => lveSetout f l
  | .vaccept => lveVaccept f l
  | .sli => lveSli f l
  | .salu => lveSalu f l
  | .salui => lveSalui f l
  | .sjr => lveSjr f l
  | .vldu => lveVldu f l
  | .vstu => lveVstu f l
  | .vldp => lveVldp f l
  | .vstp => lveVstp f l
  | .vldf => lveVldf f l
  | .vstf => lveVstf f l
  | .vgather => lveVgather f l
  | .vscatter => lveVscatter f l
  | .vkld => lveVkld (s.keyBus r l) f l
  | .valu => lveValu f l
  | .vcmp => lveVcmp f l
  | .malu => lveMalu f l
  | .vmerge => lveVmerge f l
  | .madd => lveMadd f l
  | .msub => lveMsub f l
  | .mneg => lveMneg f l
  | .mred => lveMred f l
  | .mmont => lveMmont f l
  | .mbar => lveMbar f l
  | .tomont => lveTomont f l
  | .cmpr => lveCmpr f l
  | .dcmpr => lveDcmpr f l
  | .p2r => lveP2r f l
  | .decomp => lveDecomp f l
  | .vbfly => lveVbfly f l
  | .vbmul => lveVbmul r f l
  | .zip => lveZip f l
  | .unzip => lveUnzip f l
  | .brev => lveBrev f l
  | .slideup => lveSlideup f l
  | .slidedn => lveSlidedn f l
  | .bmt => lveBmt f l
  | .vcompress => lveVcompress f l
  | .vpack => lveVpack f l
  | .vunpack => lveVunpack f l
  | .vcbd => lveVcbd r f l
  | .vrej => lveVrej r f l
  | .split => lveSplit r f l
  | .splita => lveSplita r f l
  | .vjoin => lveVjoin f l
  | .joina => lveJoina f l
  | .bxor => lveBxor f l
  | .band => lveBand r f l
  | .bnot => lveBnot f l
  | .aadd => lveAadd f l
  | .asub => lveAsub f l
  | .amont => lveAmont r f l
  | .a2b => lveA2b r f l
  | .b2a => lveB2a r f l
  | .refresh => lveRefresh r f l
  | .kinit => lveKinit f l
  | .kabs => lveKabs r f l
  | .kabsm => lveKabsm r f l
  | .kfin => lveKfin l
  | .vxof => lveVxof r f l
  | .ksave => lveKsave r f l
  | .kload => lveKload f l
  | .hinit => lveHinit f l
  | .hblk => lveHblk f l
  | .hblkm => lveHblkm f l
  | .hout => lveHout f l
  | .hload => lveHload f l

end Sys2Proof

namespace Sys2Proof.Machine

/-- Every instruction but END and the loops runs its effect. -/
theorem exec_instr (s : State) (o : LveOp) (r : LveRef) (f : LveFields) (h1 : o ≠ .lend) (h2 : o ≠ .loop) (h3 : o ≠ .loopi) :
    exec (o.instr r f) s = lveExec o r f s (fun l => o.effect s r f l) := by
  cases o <;> first | rfl | exact absurd rfl h1 | exact absurd rfl h2 | exact absurd rfl h3

end Sys2Proof.Machine
end

