-- ==== Sys2Proof/Laws/State.lean ====
section
/-! SUPPORT. Laws of the state: what each elementary update leaves alone, and what it leaves in the one place it changes. -/

namespace Sys2Proof.Machine

/-! ### What an update of the state leaves alone -/

@[simp] theorem State.modDie_part (s : State) (d : Nat) (f : Die → Die) : (s.modDie d f).part = s.part := rfl
@[simp] theorem State.modDie_hif (s : State) (d : Nat) (f : Die → Die) : (s.modDie d f).hif = s.hif := rfl
@[simp] theorem State.modDie_msix (s : State) (d : Nat) (f : Die → Die) : (s.modDie d f).msix = s.msix := rfl
@[simp] theorem State.modDie_evr (s : State) (d : Nat) (f : Die → Die) : (s.modDie d f).evr = s.evr := rfl
@[simp] theorem State.modDie_insts (s : State) (d : Nat) (f : Die → Die) : (s.modDie d f).insts = s.insts := rfl
@[simp] theorem State.modDie_bbd (s : State) (d : Nat) (f : Die → Die) : (s.modDie d f).bbd = s.bbd := rfl
@[simp] theorem State.modDie_bbram (s : State) (d : Nat) (f : Die → Die) : (s.modDie d f).bbram = s.bbram := rfl
@[simp] theorem State.modDie_baton (s : State) (d : Nat) (f : Die → Die) : (s.modDie d f).baton = s.baton := rfl
@[simp] theorem State.modDie_alg (s : State) (d : Nat) (f : Die → Die) : (s.modDie d f).alg = s.alg := rfl
@[simp] theorem State.modDie_cards (s : State) (d : Nat) (f : Die → Die) : (s.modDie d f).cards = s.cards := rfl
@[simp] theorem State.modDie_bmp (s : State) (d : Nat) (f : Die → Die) : (s.modDie d f).bmp = s.bmp := rfl
@[simp] theorem State.modDie_lcc (s : State) (d : Nat) (f : Die → Die) : (s.modDie d f).lcc = s.lcc := rfl
@[simp] theorem State.modDie_bfi (s : State) (d : Nat) (f : Die → Die) : (s.modDie d f).bfi = s.bfi := rfl
@[simp] theorem State.modDie_store (s : State) (d : Nat) (f : Die → Die) : (s.modDie d f).store = s.store := rfl
@[simp] theorem State.modDie_flash (s : State) (d : Nat) (f : Die → Die) : (s.modDie d f).flash = s.flash := rfl
@[simp] theorem State.modDie_pkg (s : State) (d : Nat) (f : Die → Die) : (s.modDie d f).pkg = s.pkg := rfl
@[simp] theorem State.modDie_tx (s : State) (d : Nat) (f : Die → Die) : (s.modDie d f).tx = s.tx := rfl
@[simp] theorem State.modDie_freeCtr (s : State) (d : Nat) (f : Die → Die) : (s.modDie d f).freeCtr = s.freeCtr := rfl
@[simp] theorem State.modDie_pending (s : State) (d : Nat) (f : Die → Die) : (s.modDie d f).pending = s.pending := rfl

@[simp] theorem State.allDies_part (s : State) (f : Die → Die) : (s.allDies f).part = s.part := rfl
@[simp] theorem State.allDies_hif (s : State) (f : Die → Die) : (s.allDies f).hif = s.hif := rfl
@[simp] theorem State.allDies_msix (s : State) (f : Die → Die) : (s.allDies f).msix = s.msix := rfl
@[simp] theorem State.allDies_evr (s : State) (f : Die → Die) : (s.allDies f).evr = s.evr := rfl
@[simp] theorem State.allDies_insts (s : State) (f : Die → Die) : (s.allDies f).insts = s.insts := rfl
@[simp] theorem State.allDies_bbd (s : State) (f : Die → Die) : (s.allDies f).bbd = s.bbd := rfl
@[simp] theorem State.allDies_bbram (s : State) (f : Die → Die) : (s.allDies f).bbram = s.bbram := rfl
@[simp] theorem State.allDies_baton (s : State) (f : Die → Die) : (s.allDies f).baton = s.baton := rfl
@[simp] theorem State.allDies_alg (s : State) (f : Die → Die) : (s.allDies f).alg = s.alg := rfl
@[simp] theorem State.allDies_cards (s : State) (f : Die → Die) : (s.allDies f).cards = s.cards := rfl
@[simp] theorem State.allDies_bmp (s : State) (f : Die → Die) : (s.allDies f).bmp = s.bmp := rfl
@[simp] theorem State.allDies_lcc (s : State) (f : Die → Die) : (s.allDies f).lcc = s.lcc := rfl
@[simp] theorem State.allDies_bfi (s : State) (f : Die → Die) : (s.allDies f).bfi = s.bfi := rfl
@[simp] theorem State.allDies_store (s : State) (f : Die → Die) : (s.allDies f).store = s.store := rfl
@[simp] theorem State.allDies_flash (s : State) (f : Die → Die) : (s.allDies f).flash = s.flash := rfl
@[simp] theorem State.allDies_pkg (s : State) (f : Die → Die) : (s.allDies f).pkg = s.pkg := rfl
@[simp] theorem State.allDies_tx (s : State) (f : Die → Die) : (s.allDies f).tx = s.tx := rfl
@[simp] theorem State.allDies_freeCtr (s : State) (f : Die → Die) : (s.allDies f).freeCtr = s.freeCtr := rfl
@[simp] theorem State.allDies_pending (s : State) (f : Die → Die) : (s.allDies f).pending = s.pending := rfl

@[simp] theorem State.setReg_part (s : State) (d b i o : Nat) (v : W32) : (s.setReg d b i o v).part = s.part := rfl
@[simp] theorem State.setReg_hif (s : State) (d b i o : Nat) (v : W32) : (s.setReg d b i o v).hif = s.hif := rfl
@[simp] theorem State.setReg_msix (s : State) (d b i o : Nat) (v : W32) : (s.setReg d b i o v).msix = s.msix := rfl
@[simp] theorem State.setReg_evr (s : State) (d b i o : Nat) (v : W32) : (s.setReg d b i o v).evr = s.evr := rfl
@[simp] theorem State.setReg_insts (s : State) (d b i o : Nat) (v : W32) : (s.setReg d b i o v).insts = s.insts := rfl
@[simp] theorem State.setReg_bbd (s : State) (d b i o : Nat) (v : W32) : (s.setReg d b i o v).bbd = s.bbd := rfl
@[simp] theorem State.setReg_bbram (s : State) (d b i o : Nat) (v : W32) : (s.setReg d b i o v).bbram = s.bbram := rfl
@[simp] theorem State.setReg_baton (s : State) (d b i o : Nat) (v : W32) : (s.setReg d b i o v).baton = s.baton := rfl
@[simp] theorem State.setReg_alg (s : State) (d b i o : Nat) (v : W32) : (s.setReg d b i o v).alg = s.alg := rfl
@[simp] theorem State.setReg_cards (s : State) (d b i o : Nat) (v : W32) : (s.setReg d b i o v).cards = s.cards := rfl
@[simp] theorem State.setReg_bmp (s : State) (d b i o : Nat) (v : W32) : (s.setReg d b i o v).bmp = s.bmp := rfl
@[simp] theorem State.setReg_lcc (s : State) (d b i o : Nat) (v : W32) : (s.setReg d b i o v).lcc = s.lcc := rfl
@[simp] theorem State.setReg_bfi (s : State) (d b i o : Nat) (v : W32) : (s.setReg d b i o v).bfi = s.bfi := rfl
@[simp] theorem State.setReg_store (s : State) (d b i o : Nat) (v : W32) : (s.setReg d b i o v).store = s.store := rfl
@[simp] theorem State.setReg_flash (s : State) (d b i o : Nat) (v : W32) : (s.setReg d b i o v).flash = s.flash := rfl
@[simp] theorem State.setReg_pkg (s : State) (d b i o : Nat) (v : W32) : (s.setReg d b i o v).pkg = s.pkg := rfl
@[simp] theorem State.setReg_tx (s : State) (d b i o : Nat) (v : W32) : (s.setReg d b i o v).tx = s.tx := rfl
@[simp] theorem State.setReg_freeCtr (s : State) (d b i o : Nat) (v : W32) : (s.setReg d b i o v).freeCtr = s.freeCtr := rfl
@[simp] theorem State.setReg_pending (s : State) (d b i o : Nat) (v : W32) : (s.setReg d b i o v).pending = s.pending := rfl

@[simp] theorem State.count_part (s : State) (d b i o n : Nat) : (s.count d b i o n).part = s.part := rfl
@[simp] theorem State.count_hif (s : State) (d b i o n : Nat) : (s.count d b i o n).hif = s.hif := rfl
@[simp] theorem State.count_msix (s : State) (d b i o n : Nat) : (s.count d b i o n).msix = s.msix := rfl
@[simp] theorem State.count_evr (s : State) (d b i o n : Nat) : (s.count d b i o n).evr = s.evr := rfl
@[simp] theorem State.count_insts (s : State) (d b i o n : Nat) : (s.count d b i o n).insts = s.insts := rfl
@[simp] theorem State.count_bbd (s : State) (d b i o n : Nat) : (s.count d b i o n).bbd = s.bbd := rfl
@[simp] theorem State.count_bbram (s : State) (d b i o n : Nat) : (s.count d b i o n).bbram = s.bbram := rfl
@[simp] theorem State.count_baton (s : State) (d b i o n : Nat) : (s.count d b i o n).baton = s.baton := rfl
@[simp] theorem State.count_alg (s : State) (d b i o n : Nat) : (s.count d b i o n).alg = s.alg := rfl
@[simp] theorem State.count_cards (s : State) (d b i o n : Nat) : (s.count d b i o n).cards = s.cards := rfl
@[simp] theorem State.count_bmp (s : State) (d b i o n : Nat) : (s.count d b i o n).bmp = s.bmp := rfl
@[simp] theorem State.count_lcc (s : State) (d b i o n : Nat) : (s.count d b i o n).lcc = s.lcc := rfl
@[simp] theorem State.count_bfi (s : State) (d b i o n : Nat) : (s.count d b i o n).bfi = s.bfi := rfl
@[simp] theorem State.count_store (s : State) (d b i o n : Nat) : (s.count d b i o n).store = s.store := rfl
@[simp] theorem State.count_flash (s : State) (d b i o n : Nat) : (s.count d b i o n).flash = s.flash := rfl
@[simp] theorem State.count_pkg (s : State) (d b i o n : Nat) : (s.count d b i o n).pkg = s.pkg := rfl
@[simp] theorem State.count_tx (s : State) (d b i o n : Nat) : (s.count d b i o n).tx = s.tx := rfl
@[simp] theorem State.count_freeCtr (s : State) (d b i o n : Nat) : (s.count d b i o n).freeCtr = s.freeCtr := rfl
@[simp] theorem State.count_pending (s : State) (d b i o n : Nat) : (s.count d b i o n).pending = s.pending := rfl

@[simp] theorem State.event_part (s : State) (d b i k : Nat) : (s.event d b i k).part = s.part := rfl
@[simp] theorem State.event_hif (s : State) (d b i k : Nat) : (s.event d b i k).hif = s.hif := rfl
@[simp] theorem State.event_msix (s : State) (d b i k : Nat) : (s.event d b i k).msix = s.msix := rfl
@[simp] theorem State.event_evr (s : State) (d b i k : Nat) : (s.event d b i k).evr = s.evr := rfl
@[simp] theorem State.event_insts (s : State) (d b i k : Nat) : (s.event d b i k).insts = s.insts := rfl
@[simp] theorem State.event_bbd (s : State) (d b i k : Nat) : (s.event d b i k).bbd = s.bbd := rfl
@[simp] theorem State.event_bbram (s : State) (d b i k : Nat) : (s.event d b i k).bbram = s.bbram := rfl
@[simp] theorem State.event_baton (s : State) (d b i k : Nat) : (s.event d b i k).baton = s.baton := rfl
@[simp] theorem State.event_alg (s : State) (d b i k : Nat) : (s.event d b i k).alg = s.alg := rfl
@[simp] theorem State.event_cards (s : State) (d b i k : Nat) : (s.event d b i k).cards = s.cards := rfl
@[simp] theorem State.event_bmp (s : State) (d b i k : Nat) : (s.event d b i k).bmp = s.bmp := rfl
@[simp] theorem State.event_lcc (s : State) (d b i k : Nat) : (s.event d b i k).lcc = s.lcc := rfl
@[simp] theorem State.event_bfi (s : State) (d b i k : Nat) : (s.event d b i k).bfi = s.bfi := rfl
@[simp] theorem State.event_store (s : State) (d b i k : Nat) : (s.event d b i k).store = s.store := rfl
@[simp] theorem State.event_flash (s : State) (d b i k : Nat) : (s.event d b i k).flash = s.flash := rfl
@[simp] theorem State.event_pkg (s : State) (d b i k : Nat) : (s.event d b i k).pkg = s.pkg := rfl
@[simp] theorem State.event_tx (s : State) (d b i k : Nat) : (s.event d b i k).tx = s.tx := rfl
@[simp] theorem State.event_freeCtr (s : State) (d b i k : Nat) : (s.event d b i k).freeCtr = s.freeCtr := rfl
@[simp] theorem State.event_pending (s : State) (d b i k : Nat) : (s.event d b i k).pending = s.pending := rfl

@[simp] theorem State.progress_part (s : State) (d b i p q : Nat) : (s.progress d b i p q).part = s.part := rfl
@[simp] theorem State.progress_hif (s : State) (d b i p q : Nat) : (s.progress d b i p q).hif = s.hif := rfl
@[simp] theorem State.progress_msix (s : State) (d b i p q : Nat) : (s.progress d b i p q).msix = s.msix := rfl
@[simp] theorem State.progress_evr (s : State) (d b i p q : Nat) : (s.progress d b i p q).evr = s.evr := rfl
@[simp] theorem State.progress_insts (s : State) (d b i p q : Nat) : (s.progress d b i p q).insts = s.insts := rfl
@[simp] theorem State.progress_bbd (s : State) (d b i p q : Nat) : (s.progress d b i p q).bbd = s.bbd := rfl
@[simp] theorem State.progress_bbram (s : State) (d b i p q : Nat) : (s.progress d b i p q).bbram = s.bbram := rfl
@[simp] theorem State.progress_baton (s : State) (d b i p q : Nat) : (s.progress d b i p q).baton = s.baton := rfl
@[simp] theorem State.progress_alg (s : State) (d b i p q : Nat) : (s.progress d b i p q).alg = s.alg := rfl
@[simp] theorem State.progress_cards (s : State) (d b i p q : Nat) : (s.progress d b i p q).cards = s.cards := rfl
@[simp] theorem State.progress_bmp (s : State) (d b i p q : Nat) : (s.progress d b i p q).bmp = s.bmp := rfl
@[simp] theorem State.progress_lcc (s : State) (d b i p q : Nat) : (s.progress d b i p q).lcc = s.lcc := rfl
@[simp] theorem State.progress_bfi (s : State) (d b i p q : Nat) : (s.progress d b i p q).bfi = s.bfi := rfl
@[simp] theorem State.progress_store (s : State) (d b i p q : Nat) : (s.progress d b i p q).store = s.store := rfl
@[simp] theorem State.progress_flash (s : State) (d b i p q : Nat) : (s.progress d b i p q).flash = s.flash := rfl
@[simp] theorem State.progress_pkg (s : State) (d b i p q : Nat) : (s.progress d b i p q).pkg = s.pkg := rfl
@[simp] theorem State.progress_tx (s : State) (d b i p q : Nat) : (s.progress d b i p q).tx = s.tx := rfl
@[simp] theorem State.progress_freeCtr (s : State) (d b i p q : Nat) : (s.progress d b i p q).freeCtr = s.freeCtr := rfl
@[simp] theorem State.progress_pending (s : State) (d b i p q : Nat) : (s.progress d b i p q).pending = s.pending := rfl

@[simp] theorem State.send_part (s : State) (x : Tx) : (s.send x).part = s.part := rfl
@[simp] theorem State.send_dies (s : State) (x : Tx) : (s.send x).dies = s.dies := rfl
@[simp] theorem State.send_hif (s : State) (x : Tx) : (s.send x).hif = s.hif := rfl
@[simp] theorem State.send_msix (s : State) (x : Tx) : (s.send x).msix = s.msix := rfl
@[simp] theorem State.send_evr (s : State) (x : Tx) : (s.send x).evr = s.evr := rfl
@[simp] theorem State.send_insts (s : State) (x : Tx) : (s.send x).insts = s.insts := rfl
@[simp] theorem State.send_bbd (s : State) (x : Tx) : (s.send x).bbd = s.bbd := rfl
@[simp] theorem State.send_bbram (s : State) (x : Tx) : (s.send x).bbram = s.bbram := rfl
@[simp] theorem State.send_baton (s : State) (x : Tx) : (s.send x).baton = s.baton := rfl
@[simp] theorem State.send_alg (s : State) (x : Tx) : (s.send x).alg = s.alg := rfl
@[simp] theorem State.send_cards (s : State) (x : Tx) : (s.send x).cards = s.cards := rfl
@[simp] theorem State.send_bmp (s : State) (x : Tx) : (s.send x).bmp = s.bmp := rfl
@[simp] theorem State.send_lcc (s : State) (x : Tx) : (s.send x).lcc = s.lcc := rfl
@[simp] theorem State.send_bfi (s : State) (x : Tx) : (s.send x).bfi = s.bfi := rfl
@[simp] theorem State.send_store (s : State) (x : Tx) : (s.send x).store = s.store := rfl
@[simp] theorem State.send_flash (s : State) (x : Tx) : (s.send x).flash = s.flash := rfl
@[simp] theorem State.send_pkg (s : State) (x : Tx) : (s.send x).pkg = s.pkg := rfl
@[simp] theorem State.send_freeCtr (s : State) (x : Tx) : (s.send x).freeCtr = s.freeCtr := rfl
@[simp] theorem State.send_pending (s : State) (x : Tx) : (s.send x).pending = s.pending := rfl

@[simp] theorem State.sends_part (s : State) (xs : List Tx) : (s.sends xs).part = s.part := rfl
@[simp] theorem State.sends_dies (s : State) (xs : List Tx) : (s.sends xs).dies = s.dies := rfl
@[simp] theorem State.sends_hif (s : State) (xs : List Tx) : (s.sends xs).hif = s.hif := rfl
@[simp] theorem State.sends_msix (s : State) (xs : List Tx) : (s.sends xs).msix = s.msix := rfl
@[simp] theorem State.sends_evr (s : State) (xs : List Tx) : (s.sends xs).evr = s.evr := rfl
@[simp] theorem State.sends_insts (s : State) (xs : List Tx) : (s.sends xs).insts = s.insts := rfl
@[simp] theorem State.sends_bbd (s : State) (xs : List Tx) : (s.sends xs).bbd = s.bbd := rfl
@[simp] theorem State.sends_bbram (s : State) (xs : List Tx) : (s.sends xs).bbram = s.bbram := rfl
@[simp] theorem State.sends_baton (s : State) (xs : List Tx) : (s.sends xs).baton = s.baton := rfl
@[simp] theorem State.sends_alg (s : State) (xs : List Tx) : (s.sends xs).alg = s.alg := rfl
@[simp] theorem State.sends_cards (s : State) (xs : List Tx) : (s.sends xs).cards = s.cards := rfl
@[simp] theorem State.sends_bmp (s : State) (xs : List Tx) : (s.sends xs).bmp = s.bmp := rfl
@[simp] theorem State.sends_lcc (s : State) (xs : List Tx) : (s.sends xs).lcc = s.lcc := rfl
@[simp] theorem State.sends_bfi (s : State) (xs : List Tx) : (s.sends xs).bfi = s.bfi := rfl
@[simp] theorem State.sends_store (s : State) (xs : List Tx) : (s.sends xs).store = s.store := rfl
@[simp] theorem State.sends_flash (s : State) (xs : List Tx) : (s.sends xs).flash = s.flash := rfl
@[simp] theorem State.sends_pkg (s : State) (xs : List Tx) : (s.sends xs).pkg = s.pkg := rfl
@[simp] theorem State.sends_freeCtr (s : State) (xs : List Tx) : (s.sends xs).freeCtr = s.freeCtr := rfl
@[simp] theorem State.sends_pending (s : State) (xs : List Tx) : (s.sends xs).pending = s.pending := rfl

/-! ### What it leaves in its place -/

@[simp] theorem State.modDie_length (s : State) (d : Nat) (f : Die → Die) : (s.modDie d f).dies.length = s.dies.length := List.length_modify ..
@[simp] theorem State.allDies_length (s : State) (f : Die → Die) : (s.allDies f).dies.length = s.dies.length := List.length_map ..
@[simp] theorem State.setReg_length (s : State) (d b i o : Nat) (v : W32) : (s.setReg d b i o v).dies.length = s.dies.length := List.length_modify ..
@[simp] theorem State.count_length (s : State) (d b i o n : Nat) : (s.count d b i o n).dies.length = s.dies.length := List.length_modify ..
@[simp] theorem State.event_length (s : State) (d b i k : Nat) : (s.event d b i k).dies.length = s.dies.length := List.length_modify ..
@[simp] theorem State.send_tx (s : State) (x : Tx) : (s.send x).tx = s.tx ++ [x] := rfl
@[simp] theorem State.sends_tx (s : State) (xs : List Tx) : (s.sends xs).tx = s.tx ++ xs := rfl
@[simp] theorem State.send_die (s : State) (x : Tx) (d : Nat) : (s.send x).die d = s.die d := rfl
@[simp] theorem State.sends_die (s : State) (xs : List Tx) (d : Nat) : (s.sends xs).die d = s.die d := rfl

/-- A die after an update of one die. -/
theorem State.modDie_die (s : State) (d e : Nat) (f : Die → Die) :
    (s.modDie d f).die e = if e = d ∧ d < s.dies.length then f (s.die d) else s.die e := by
  simp only [State.die, State.modDie, List.getD_eq_getElem?_getD, List.getElem?_modify]
  by_cases h : d = e
  · subst h
    by_cases hd : d < s.dies.length
    · simp [hd]
    · simp [hd]
  · simp [h, Ne.symm h]

/-- A die after an update of every die. -/
theorem State.allDies_die (s : State) (f : Die → Die) (d : Nat) (h : d < s.dies.length) : (s.allDies f).die d = f (s.die d) := by
  simp [State.die, State.allDies, List.getD_eq_getElem?_getD, h]

/-- A stored register after another is written. -/
theorem Die.setReg_reg (x : Die) (b i o b' i' o' : Nat) (v : W32) :
    (x.setReg b i o v).reg b' i' o' = if woff b' i' o' = woff b i o then v else x.reg b' i' o' := by
  simp only [Die.reg, Die.setReg, Assoc.getD, Assoc.get?_set]
  split <;> rfl

/-- Writing a stored register changes nothing of the die but its registers. -/
theorem State.setReg_die (s : State) (d e b i o : Nat) (v : W32) :
    (s.setReg d b i o v).die e = if e = d ∧ d < s.dies.length then (s.die d).setReg b i o v else s.die e := State.modDie_die ..

/-- So do counting and raising an event. -/
theorem State.count_die (s : State) (d e b i o n : Nat) : ∃ r, (s.count d b i o n).die e = { s.die e with regs := r } := by
  unfold State.count
  rw [State.setReg_die]
  split
  · next h => rw [h.1]; exact ⟨_, rfl⟩
  · exact ⟨_, rfl⟩

/-- So do counting and raising an event. -/
theorem State.event_die (s : State) (d e b i k : Nat) : ∃ r, (s.event d b i k).die e = { s.die e with regs := r } := by
  unfold State.event
  rw [State.setReg_die]
  split
  · next h => rw [h.1]; exact ⟨_, rfl⟩
  · exact ⟨_, rfl⟩

end Sys2Proof.Machine
end

