-- ==== Sys2Proof/Laws/Settle.lean ====
section
/-! SUPPORT. Laws of what follows every command at once (`settle`): what it can change, and that it leaves the state sound. -/

namespace Sys2Proof.Machine

/-- Two states that differ in outputs alone: registers of events and counters, the interrupt tables' held and raised bits, messages sent, ALIVE, the alert and
its state word. -/
structure OutputsOnly (s t : State) : Prop where
  part : t.part = s.part
  hif : t.hif = s.hif
  insts : t.insts = s.insts
  bbd : t.bbd = s.bbd
  bbram : t.bbram = s.bbram
  baton : t.baton = s.baton
  alg : t.alg = s.alg
  cards : t.cards = s.cards
  bmp : t.bmp = s.bmp
  lcc : t.lcc = s.lcc
  bfi : t.bfi = s.bfi
  store : t.store = s.store
  flash : t.flash = s.flash
  freeCtr : t.freeCtr = s.freeCtr
  pending : t.pending = s.pending
  enable : t.msix.enable = s.msix.enable
  functionMask : t.msix.functionMask = s.msix.functionMask
  table : t.msix.table = s.msix.table
  routes : t.evr.routes = s.evr.routes
  mqRoutes : t.evr.mqRoutes = s.evr.mqRoutes
  tx : s.tx <+: t.tx
  count : t.dies.length = s.dies.length
  die : ∀ d, ∃ r, t.die d = { s.die d with regs := r }
  pkg : { t.pkg with alive := s.pkg.alive, alertLow := s.pkg.alertLow, stateWord := s.pkg.stateWord } = s.pkg

/-- Nothing changed. -/
theorem OutputsOnly.refl (s : State) : OutputsOnly s s := by
  constructor <;> first | rfl | exact List.prefix_rfl | exact fun d => ⟨(s.die d).regs, rfl⟩

/-- One after the other. -/
theorem OutputsOnly.trans {s t u : State} (h : OutputsOnly s t) (k : OutputsOnly t u) : OutputsOnly s u := by
  constructor
  case tx => exact h.tx.trans k.tx
  case die =>
    intro d
    obtain ⟨r, e⟩ := h.die d
    obtain ⟨q, f⟩ := k.die d
    exact ⟨q, by rw [f, e]⟩
  case pkg =>
    have a := k.pkg
    have b := h.pkg
    rw [← b, ← a]
  all_goals first
    | exact k.part.trans h.part
    | exact k.hif.trans h.hif
    | exact k.insts.trans h.insts
    | exact k.bbd.trans h.bbd
    | exact k.bbram.trans h.bbram
    | exact k.baton.trans h.baton
    | exact k.alg.trans h.alg
    | exact k.cards.trans h.cards
    | exact k.bmp.trans h.bmp
    | exact k.lcc.trans h.lcc
    | exact k.bfi.trans h.bfi
    | exact k.store.trans h.store
    | exact k.flash.trans h.flash
    | exact k.freeCtr.trans h.freeCtr
    | exact k.pending.trans h.pending
    | exact k.enable.trans h.enable
    | exact k.functionMask.trans h.functionMask
    | exact k.table.trans h.table
    | exact k.routes.trans h.routes
    | exact k.mqRoutes.trans h.mqRoutes
    | exact k.count.trans h.count

/-- Writing a stored register. -/
theorem OutputsOnly.setReg (s : State) (d b i o : Nat) (v : W32) : OutputsOnly s (s.setReg d b i o v) := by
  constructor <;> first
    | rfl
    | exact List.prefix_rfl
    | exact State.setReg_length s d b i o v
    | (intro e; rw [State.setReg_die]; split
       · next h => rw [h.1]; exact ⟨_, rfl⟩
       · exact ⟨_, rfl⟩)

/-- Counting. -/
theorem OutputsOnly.counts (s : State) (d b i o n : Nat) : OutputsOnly s (s.count d b i o n) := OutputsOnly.setReg ..

/-- Raising an event. -/
theorem OutputsOnly.event (s : State) (d b i k : Nat) : OutputsOnly s (s.event d b i k) := OutputsOnly.setReg ..

/-- A message. -/
theorem OutputsOnly.send (s : State) (x : Tx) : OutputsOnly s (s.send x) := by
  constructor <;> first | rfl | exact List.prefix_append _ _ | exact fun d => ⟨(s.die d).regs, rfl⟩

/-- A vector signalled. -/
theorem OutputsOnly.signal (s : State) (v : Nat) : OutputsOnly s (s.signal v) := by
  unfold State.signal
  split
  · exact (OutputsOnly.send _ _).trans (OutputsOnly.counts ..)
  · refine (OutputsOnly.counts s 0 EVR 0 0x134 1).trans ?_
    constructor <;> first | rfl | exact List.prefix_rfl | exact fun d => ⟨_, rfl⟩

/-- Delivery through an interrupt table entry. -/
theorem OutputsOnly.iitSend (s : State) (e : IitEntry) : OutputsOnly s (s.iitSend e) := by
  unfold State.iitSend
  split
  · exact (OutputsOnly.send _ _).trans (OutputsOnly.counts ..)
  · exact OutputsOnly.signal ..

/-- Delivery of a page's event. -/
theorem OutputsOnly.pageEvent (s : State) (d b i : Nat) : OutputsOnly s (s.pageEvent d b i) := by
  unfold State.pageEvent
  have up : ∀ x, OutputsOnly s { s with evr := { s.evr with raised := x } } := by
    intro x
    constructor <;> first | rfl | exact List.prefix_rfl | exact fun d => ⟨_, rfl⟩
  simp only []
  split
  · exact OutputsOnly.refl s
  · split
    · exact (up _).trans (OutputsOnly.signal ..)
    · exact up _

/-- Pulling the alert low. -/
theorem OutputsOnly.alert (s : State) : OutputsOnly s s.alert := by
  unfold State.alert
  split
  · exact OutputsOnly.refl s
  · refine OutputsOnly.trans (t := { s with pkg := { s.pkg with alertLow := true } }) ?_ ((OutputsOnly.send _ _).trans (OutputsOnly.event ..))
    constructor <;> first | rfl | exact List.prefix_rfl | exact fun d => ⟨_, rfl⟩

/-- A fold of such changes. -/
theorem OutputsOnly.foldl {α : Type} (f : State → α → State) (h : ∀ t x, OutputsOnly t (f t x)) (l : List α) (s : State) : OutputsOnly s (l.foldl f s) := by
  induction l generalizing s with
  | nil => exact OutputsOnly.refl s
  | cons x r ih => exact (h s x).trans (ih _)

/-- ALIVE follows its conditions. -/
theorem OutputsOnly.settleAlive (s : State) : OutputsOnly s (settleAlive s) := by
  unfold Machine.settleAlive
  split
  · refine (OutputsOnly.event s 0 CRU 0 1).trans ?_
    constructor <;> first | rfl | exact List.prefix_rfl | exact fun d => ⟨_, rfl⟩
  · constructor <;> first | rfl | exact List.prefix_rfl | exact fun d => ⟨_, rfl⟩

/-- The alert follows the state word. -/
theorem OutputsOnly.settleAlert (s : State) : OutputsOnly s (settleAlert s) := by
  have up : OutputsOnly s { s with pkg := { s.pkg with stateWord := s.stateNow } } := by
    constructor <;> first | rfl | exact List.prefix_rfl | exact fun d => ⟨_, rfl⟩
  unfold Machine.settleAlert
  simp only []
  split
  · exact OutputsOnly.refl s
  · split
    · exact up.trans (OutputsOnly.alert _)
    · exact up

/-- Events that rise are delivered. -/
theorem OutputsOnly.settleEvents (s : State) : OutputsOnly s (settleEvents s) := by
  have up : ∀ x, OutputsOnly s { s with evr := { s.evr with raised := x } } := by
    intro x
    constructor <;> first | rfl | exact List.prefix_rfl | exact fun d => ⟨_, rfl⟩
  unfold Machine.settleEvents
  exact (up _).trans (OutputsOnly.foldl (fun (t : State) (p : Nat × Nat) => t.pageEvent 0 p.1 p.2) (fun t p => OutputsOnly.pageEvent t 0 p.1 p.2) _ _)

/-- The messages of the PBA that nothing holds are sent. -/
def settlePba (s : State) : State :=
  let due := s.msix.pba.filter (fun (p : Nat × Unit) => s.vectorOpen p.1)
  if due.isEmpty then s
  else ({ s with msix := { s.msix with pba := s.msix.pba.filter (fun (p : Nat × Unit) => !s.vectorOpen p.1) },
                 tx := s.tx ++ due.map (fun (p : Nat × Unit) => Tx.msg (s.msix.entry p.1).addr (s.msix.entry p.1).data) } : State).count 0 EVR 0 0x130 due.length

/-- The interrupt table with the pending bits that nothing holds cleared. -/
def settleIit (s : State) : State :=
  { s with evr := { s.evr with
      iit := s.evr.iit.map (fun (p : Nat × IitEntry) => if p.2.pending && !s.iitHeld p.2 then (p.1, p.2.setPending false) else p) } }

/-- Held messages, in these two parts. -/
theorem settleHeld_eq (s : State) : settleHeld s =
    ((settlePba s).evr.iit.filter (fun (p : Nat × IitEntry) => p.2.pending && !(settlePba s).iitHeld p.2)).foldl
      (fun (t : State) (p : Nat × IitEntry) => t.iitSend p.2) (settleIit (settlePba s)) := rfl

theorem OutputsOnly.settlePba (s : State) : OutputsOnly s (settlePba s) := by
  unfold Machine.settlePba
  simp only []
  split
  · exact OutputsOnly.refl s
  · refine OutputsOnly.trans (t := { s with msix := { s.msix with pba := _ }, tx := _ }) ?_ (OutputsOnly.counts ..)
    constructor <;> first | rfl | exact List.prefix_append _ _ | exact fun d => ⟨_, rfl⟩

/-- Messages that nothing holds are sent. -/
theorem OutputsOnly.settleHeld (s : State) : OutputsOnly s (settleHeld s) := by
  rw [settleHeld_eq]
  refine (OutputsOnly.settlePba s).trans (OutputsOnly.trans (t := settleIit (Machine.settlePba s)) ?_
    (OutputsOnly.foldl (fun (t : State) (p : Nat × IitEntry) => t.iitSend p.2) (fun t p => OutputsOnly.iitSend t p.2) _ _))
  constructor <;> first | rfl | exact List.prefix_rfl | exact fun d => ⟨_, rfl⟩

/-- What settles after the link and the gates. -/
theorem OutputsOnly.settled (s : State) : OutputsOnly (settleGates (settleLink s)) (settle s) :=
  (((OutputsOnly.settleAlive _).trans (OutputsOnly.settleAlert _)).trans (OutputsOnly.settleEvents _)).trans (OutputsOnly.settleHeld _)

/-! ### What the outputs do not touch -/

theorem OutputsOnly.vectorOpen {s t : State} (h : OutputsOnly s t) (v : Nat) : t.vectorOpen v = s.vectorOpen v := by
  unfold State.vectorOpen State.msgOpen Msix.entry
  rw [h.hif, h.enable, h.functionMask, h.table]

theorem OutputsOnly.iitHeld {s t : State} (h : OutputsOnly s t) (e : IitEntry) : t.iitHeld e = s.iitHeld e := by
  unfold State.iitHeld State.msgOpen
  rw [h.hif, h.enable, h.functionMask]

theorem OutputsOnly.pkgField {s t : State} (h : OutputsOnly s t) {α : Type} (f : Pkg → α)
    (hf : ∀ p : Pkg, ∀ a b c, f { p with alive := a, alertLow := b, stateWord := c } = f p) : f t.pkg = f s.pkg := by
  rw [← h.pkg]
  exact (hf ..).symm

theorem OutputsOnly.lock {s t : State} (h : OutputsOnly s t) : t.pkg.lock = s.pkg.lock := h.pkgField Pkg.lock (fun _ _ _ _ => rfl)

theorem OutputsOnly.aliveOk {s t : State} (h : OutputsOnly s t) : t.aliveOk = s.aliveOk := by
  have lc : t.lc = s.lc := by
    unfold State.lc
    obtain ⟨r, e⟩ := h.die 0
    rw [h.baton, e]
  unfold State.aliveOk State.serving
  rw [lc, h.baton, h.lock, h.pkgField Pkg.ready (fun _ _ _ _ => rfl), h.pkgField Pkg.aliveFresh (fun _ _ _ _ => rfl)]

/-- A property of dies that does not read their registers passes over. -/
theorem OutputsOnly.forDies {s t : State} (h : OutputsOnly s t) (p : Die → Prop) (hp : ∀ (x : Die) r, p x → p { x with regs := r })
    (k : ∀ x ∈ s.dies, p x) : ∀ x ∈ t.dies, p x := by
  intro x hx
  obtain ⟨i, hi, rfl⟩ := List.getElem_of_mem hx
  obtain ⟨r, e⟩ := h.die i
  have a : t.die i = t.dies[i] := by simp [State.die, List.getD_eq_getElem?_getD, hi]
  have hi' : i < s.dies.length := by rw [← h.count]; exact hi
  have b : s.die i = s.dies[i] := by simp [State.die, List.getD_eq_getElem?_getD, hi']
  rw [← a, e, b]
  exact hp _ r (k _ (List.getElem_mem hi'))

theorem OutputsOnly.lockGates {s t : State} (h : OutputsOnly s t) (k : s.LockGates) : t.LockGates := by
  intro hl
  rw [h.lock] at hl
  exact h.forDies _ (fun _ _ q => q) (k hl)

theorem OutputsOnly.linkExact {s t : State} (h : OutputsOnly s t) (k : s.LinkExact) : t.LinkExact := by
  intro hl
  rw [h.hif] at hl
  exact ⟨h.forDies _ (fun _ _ q => q) (k hl).1, h.insts ▸ (k hl).2⟩

/-! ### A settled state is sound -/

/-- Gating leaves the work of the dies. -/
theorem settleGates_sound (s : State) : (settleGates s).LockGates ∧ (s.LinkExact → (settleGates s).LinkExact) := by
  unfold settleGates
  split
  · next h =>
    refine ⟨fun _ d hd => ?_, fun k hl => ⟨fun d hd => ?_, (k hl).2⟩⟩
    · obtain ⟨x, _, rfl⟩ := List.mem_map.mp hd
      rfl
    · obtain ⟨x, hx, rfl⟩ := List.mem_map.mp hd
      exact (k hl).1 x hx
  · next h => exact ⟨fun k => absurd k h, id⟩

/-- The link leaves L1 where there is work. -/
theorem settleLink_sound (s : State) : (settleLink s).LinkExact := by
  unfold settleLink
  split
  · intro h
    cases h
  · next h =>
    intro hl
    have hw : s.hasWork = false := by simpa [hl] using h
    simpa [State.hasWork] using hw

/-- ALIVE is as its conditions say. -/
theorem settleAlive_sound (s : State) : (settleAlive s).AliveExact := by
  have ok := (OutputsOnly.settleAlive s).aliveOk
  unfold State.AliveExact
  rw [ok]
  unfold settleAlive
  split
  · next h =>
    simp only [Bool.and_eq_true, Bool.not_eq_true'] at h
    exact h.2.symm
  · rfl

/-- The alert leaves ALIVE alone. -/
theorem alert_alive (s : State) : s.alert.pkg.alive = s.pkg.alive := by
  unfold State.alert
  split <;> rfl

theorem settleAlert_alive (s : State) : (settleAlert s).pkg.alive = s.pkg.alive := by
  unfold settleAlert
  simp only []
  split
  · rfl
  · split
    · rw [alert_alive]
    · rfl

theorem signal_pkg (s : State) (v : Nat) : (s.signal v).pkg = s.pkg := by
  unfold State.signal
  split <;> rfl

theorem iitSend_pkg (s : State) (e : IitEntry) : (s.iitSend e).pkg = s.pkg := by
  unfold State.iitSend
  split
  · rfl
  · exact signal_pkg s _

theorem pageEvent_pkg (s : State) (d b i : Nat) : (s.pageEvent d b i).pkg = s.pkg := by
  unfold State.pageEvent
  simp only []
  split
  · rfl
  · split
    · rw [signal_pkg]
    · rfl

/-- A fold that keeps what `f` reads. -/
theorem foldl_keeps {α β : Type} (f : State → β) (g : State → α → State) (h : ∀ t x, f (g t x) = f t) (l : List α) (s : State) : f (l.foldl g s) = f s := by
  induction l generalizing s with
  | nil => rfl
  | cons x r ih => rw [List.foldl_cons, ih, h]

theorem settleEvents_pkg (s : State) : (settleEvents s).pkg = s.pkg := by
  unfold settleEvents
  exact foldl_keeps State.pkg (fun (t : State) (p : Nat × Nat) => t.pageEvent 0 p.1 p.2) (fun t p => pageEvent_pkg t 0 p.1 p.2) _ _

theorem settlePba_pkg (s : State) : (settlePba s).pkg = s.pkg := by
  unfold settlePba
  simp only []
  split <;> rfl

theorem settleHeld_pkg (s : State) : (settleHeld s).pkg = s.pkg := by
  rw [settleHeld_eq, foldl_keeps State.pkg (fun (t : State) (p : Nat × IitEntry) => t.iitSend p.2) (fun t p => iitSend_pkg t p.2)]
  exact settlePba_pkg s

/-- A signal adds to the PBA only a vector that is held. -/
theorem signal_pba (s : State) (v : Nat) (h : s.PbaExact) : (s.signal v).PbaExact := by
  have o := OutputsOnly.signal s v
  intro p hp
  rw [o.vectorOpen]
  unfold State.signal at hp
  split at hp
  · exact h p hp
  · next hv =>
    rcases Assoc.mem_set hp with e | e
    · rw [congrArg Prod.fst e]
      simpa using hv
    · exact h p e

theorem iitSend_pba (s : State) (e : IitEntry) (h : s.PbaExact) : (s.iitSend e).PbaExact := by
  unfold State.iitSend
  split
  · intro p hp
    rw [((OutputsOnly.send s _).trans (OutputsOnly.counts ..)).vectorOpen]
    exact h p hp
  · exact signal_pba s _ h

theorem signal_evr (s : State) (v : Nat) : (s.signal v).evr = s.evr := by
  unfold State.signal
  split <;> rfl

theorem iitSend_evr (s : State) (e : IitEntry) : (s.iitSend e).evr = s.evr := by
  unfold State.iitSend
  split
  · rfl
  · exact signal_evr s _

/-- The held messages left are held by a condition. -/
theorem settleHeld_sound (s : State) : (settleHeld s).PbaExact ∧ (settleHeld s).IitExact := by
  have pba1 : (settlePba s).PbaExact := by
    intro p hp
    rw [(OutputsOnly.settlePba s).vectorOpen]
    unfold settlePba at hp
    simp only [] at hp
    split at hp
    · next he =>
      by_contra hv
      have : p ∈ s.msix.pba.filter (fun (p : Nat × Unit) => s.vectorOpen p.1) := List.mem_filter.mpr ⟨hp, by simpa using hv⟩
      rw [List.isEmpty_iff] at he
      rw [he] at this
      cases this
    · have := (List.mem_filter.mp hp).2
      simpa using this
  have pba2 : (settleIit (settlePba s)).PbaExact := pba1
  rw [settleHeld_eq]
  constructor
  · generalize (settlePba s).evr.iit.filter _ = l
    generalize settleIit (settlePba s) = u at pba2
    induction l generalizing u with
    | nil => exact pba2
    | cons x r ih => exact ih _ (iitSend_pba u _ pba2)
  · have o : OutputsOnly (settlePba s) (settleHeld s) := by
      rw [settleHeld_eq]
      refine OutputsOnly.trans (t := settleIit (settlePba s)) ?_
        (OutputsOnly.foldl (fun (t : State) (p : Nat × IitEntry) => t.iitSend p.2) (fun t p => OutputsOnly.iitSend t p.2) _ _)
      constructor <;> first | rfl | exact List.prefix_rfl | exact fun d => ⟨_, rfl⟩
    have e := foldl_keeps State.evr (fun (t : State) (p : Nat × IitEntry) => t.iitSend p.2) (fun t p => iitSend_evr t p.2)
      ((settlePba s).evr.iit.filter (fun (p : Nat × IitEntry) => p.2.pending && !(settlePba s).iitHeld p.2)) (settleIit (settlePba s))
    intro p hp hpend
    rw [← settleHeld_eq, o.iitHeld]
    rw [e] at hp
    obtain ⟨q, hq, rfl⟩ := List.mem_map.mp hp
    by_cases hc : (q.2.pending && !(settlePba s).iitHeld q.2) = true
    · rw [if_pos hc] at hpend
      exact absurd hpend (by simp [IitEntry.setPending, IitEntry.pending, bit])
    · rw [if_neg hc] at hpend ⊢
      simp only [hpend, Bool.true_and, Bool.not_eq_true', Bool.not_eq_false] at hc
      exact hc

/-- What follows the gates leaves ALIVE as its conditions say. -/
theorem settled_alive (s : State) : (settleHeld (settleEvents (settleAlert (settleAlive s)))).AliveExact := by
  have a : (settleAlive s).AliveExact := settleAlive_sound s
  have b := (((OutputsOnly.settleAlert (settleAlive s)).trans (OutputsOnly.settleEvents _)).trans (OutputsOnly.settleHeld _)).aliveOk
  unfold State.AliveExact at a ⊢
  rw [settleHeld_pkg, settleEvents_pkg, settleAlert_alive, a, b]

/-- What every command leaves is sound. -/
theorem settle_sound (s : State) : (settle s).Sound where
  lockGates := (OutputsOnly.settled s).lockGates (settleGates_sound (settleLink s)).1
  aliveExact := settled_alive _
  pbaExact := (settleHeld_sound _).1
  iitExact := (settleHeld_sound _).2
  linkExact := (OutputsOnly.settled s).linkExact ((settleGates_sound (settleLink s)).2 (settleLink_sound s))

end Sys2Proof.Machine
end

