-- ==== Sys2Proof/Tests/Slice0.lean ====
section
/-! SUPPORT. Tests: the WellFormed smoke test, single steps whose results the manual's own examples and tables give, and for every statement with hypotheses
a named witness that states and operands meet them. -/

namespace Sys2Proof.Tests

open Machine

-- One theorem after the other: a thread for each would take more memory than the check allows.
set_option Elab.async false

/-! ### States to test with -/

/-- An instruction's fields with the given SUB and IMM. -/
def fld (sub : BitVec 8) (imm : BitVec 24) : LveFields := ⟨0, 0, 0, 0, false, sub, imm⟩

/-- A running engine. -/
def lve0 : Lve := { Lve.clear with phase := .running }

/-- One with a window of 512 bytes, half of it input, and bytes to mask with. -/
def lveW : Lve := { lve0 with
  regions := ⟨512, 0, 256, 256, 64, 320, 128, 448, 64⟩
  jr := ⟨256, 64, 128, 0, 0, 32⟩
  seq := { lve0.seq with maskBytes := 100000 } }

/-- SEW 16 and the modulus of ML-KEM, 128 elements. -/
def lveK : Lve := { lveW with core := { lveW.core with vtype := 5, vl := 128 } }

/-- SEW 32 and the modulus of ML-DSA, 64 elements. -/
def lveD : Lve := { lveW with core := { lveW.core with vtype := 10, vl := 64 } }

/-- SEW 64, no modulus, 4 elements. -/
def lveB : Lve := { lveW with core := { lveW.core with vtype := 3, vl := 4 } }

/-- Squeezing an unmasked sponge. -/
def lveS : Lve := { lveK with hash := { lveK.hash with ksqueeze := true } }

/-- Die 0 with this engine as its LVE 0. -/
def onLve (l : Lve) : State := State.reset.modDie 0 (fun x => { x with lves := x.lves.modify 0 (fun u => { u with eng := l }) })

/-- The LVE it is. -/
def unitOf (l : Lve) : LveUnit := { LveUnit.reset 0x00042000 with eng := l }

/-- The engine with an owner's program that is this one instruction. -/
def holding (l : Lve) (o : LveOp) (f : LveFields) : Lve := { l with seq := { l.seq with text := [lveEncode o f], prog := none, pc := 0 } }

/-- That LVE runs the instruction. -/
theorem runs (o : LveOp) (f : LveFields) (l : Lve) (hv : o.valid f = true) (hr : l.phase = .running := by rfl) (ha : l.abortReq = false := by rfl) :
    LveRuns (onLve (holding l o f)) o ⟨0, 0, .none⟩ f (unitOf (holding l o f)) :=
  ⟨rfl, hv, by simp [LveUnit.executes, unitOf, holding, LveUnit.reset, EngineSvc.fresh, hr], rfl, ha, rfl⟩

/-- The hypotheses of a statement about an LVE instruction are met. -/
def LveMet (o : LveOp) (pre : LveFields → Lve → Prop) : Prop := ∃ s r f u, LveRuns s o r f u ∧ pre f u.eng

/-- By an instruction and an engine. -/
theorem met {o : LveOp} {pre : LveFields → Lve → Prop} (f : LveFields) (l : Lve) (hp : pre f (holding l o f)) (hv : o.valid f = true := by decide +kernel)
    (hr : l.phase = .running := by rfl) (ha : l.abortReq = false := by rfl) : LveMet o pre := ⟨_, _, f, _, runs o f l hv hr ha, hp⟩

/-! ### A package that runs -/

/-- A die that runs, in OPERATIONAL. -/
def liveDie : Die := { Die.inReset { Fuses.blank with lc := lcWord 3 } 1 0 with
  state := .running
  tmn := ⟨false, false, 0, false, false, none, none, 800⟩
  rng := ⟨true, true, true, false, false, 2, 0, 0, 0, 0⟩
  ports := [⟨.up, 0, false, false⟩, ⟨.up, 0, false, false⟩]
  kvd := ⟨some ⟨[], [], [], [], List.replicate 32 1, []⟩, none, [], [], 0, 0, [], 0⟩ }

/-- A package of `n` such dies after a clean election, with its link up. -/
def liveOf (p : Part) (n : Nat) : State := { State.resetOf p with
  dies := List.replicate n liveDie
  hif := { Hif.reset with link := .l0, busMaster := true, trained := 16, width := 16 }
  baton := { Baton.reset with result := .clean, holder := some 0, code := 3 }
  alg := { Alg.reset with stopped := false }
  pkg := { State.reset.pkg with pwrgood := true, ready := true, fault := ⟨false, false, false⟩ } }

/-- The part with one die. -/
def live : State := liveOf .vq8100 1

/-- The part with two dies. -/
def live2 : State := liveOf .vq8200 2

/-- A submission entry of an operation and a parameter set. -/
def sqe (op ps : Nat) : Sqe := ⟨BitVec.ofNat 16 op, BitVec.ofNat 8 ps, 0, 0, 0, 0, 0, 0, 0, 0, 0, 0, 0, 0⟩

/-- A job of a manager queue whose program runs. -/
def jobOf (e : Sqe) : Job := ⟨⟨0, true, 0, 0, 0, 0, 0⟩, e, .running, .lve 0, JobData.empty, none, none, 0, 0, 0, 0, false, 0⟩

/-- The same with an operation and a parameter set. -/
def job (op ps : Nat) : Job := jobOf (sqe op ps)

/-- With input. -/
def jobIn (op ps : Nat) (b : List Byte) : Job := { job op ps with data := { JobData.empty with inData := b } }

/-- With a key. -/
def keyed (x : Job) : Job := { x with data := { x.data with keys := [0, 1] } }

/-- A symmetric key with USAGE.WRAP of owner-shared scope, bound to counter record 3. -/
def aKey : Slot := ⟨ownerShared, 1, 2, ⟨0x6003, 0x40, 1, false, 0x10000001, 0, 3, 0, 1024, 0, 0, 0⟩, List.replicate 32 7, [], [1], 0, false⟩

/-- A package in which job 1 of die 0 is `x`; its slots 0 and 1 hold the key, counter record 3 has 1,024 leaves. -/
def withJob (x : Job) : State :=
  { live.modDie 0 (fun d => { d with jobs := [(1, x)], kvd := { d.kvd with slots := [(0, aKey), (1, aKey)] } }) with
    bbram := { Bbram.empty with counters := [(3, ⟨[], ownerShared, 0, 1024⟩)] } }

/-- The operation runs and what a statement asks holds. -/
def OpMet (op : Nat) (pre : State → JobRef → Job → Prop) : Prop := ∃ s j x, OpRuns s j op x ∧ pre s j x

/-- By a job. -/
theorem opMet {op : Nat} {pre : State → JobRef → Job → Prop} (x : Job) (hp : pre (withJob x) ⟨0, 1⟩ x) (ho : x.sqe.op = op := by rfl)
    (hs : x.stage = .running := by rfl) (hr : x.result = none := by rfl) : OpMet op pre := ⟨_, _, x, ⟨rfl, hs, ho, hr⟩, hp⟩

/-- Nothing more. -/
def just (_ : State) (_ : JobRef) (_ : Job) : Prop := True

/-! ### WellFormed: every check refuses a term -/

/-- An access at BAR0. -/
def aReq : HostReq := ⟨0, 0, .dword, .good, none, 0⟩

theorem test_wellFormed_dies : Instr.wellFormed (.supplyDip 8) = false ∧ Instr.wellFormed (.supplyDip 7) = true ∧ Instr.wellFormed (.kemDecaps ⟨8, 0⟩) = false ∧
    Instr.wellFormed (.nop ⟨8, 0, .none⟩ (fld 0 0)) = false ∧ Instr.wellFormed (.nop ⟨0, 16, .none⟩ (fld 0 0)) = false ∧ Instr.wellFormed (.nop ⟨0, 0, .none⟩ (fld 1 0)) = false := by
  decide +kernel

theorem test_wellFormed_host : Instr.wellFormed (.registerRead aReq) = true ∧ Instr.wellFormed (.registerRead { aReq with bar := 1 }) = false ∧
    Instr.wellFormed (.registerRead { aReq with ide := some (65, true) }) = false ∧ Instr.wellFormed (.lock ⟨0, 0x10, 16⟩ ⟨1, 0⟩) = false ∧
    Instr.wellFormed (.lock ⟨0, 0x1B, 0⟩ ⟨1, 0⟩) = false ∧ Instr.wellFormed (.lock ⟨8, 1, 0⟩ ⟨1, 0⟩) = false ∧ Instr.wellFormed (.pcieLinkUp 7 16 false) = false ∧
    Instr.wellFormed (.pcieLinkUp 5 3 false) = false ∧ Instr.wellFormed (.msixTableWrite 2 0) = false ∧ Instr.wellFormed (.msixTableWrite 0x8000 0) = false ∧
    Instr.wellFormed (.configRequest 1024) = false ∧ Instr.wellFormed (.l0pRequest 3) = false ∧ Instr.wellFormed (.ideKm true 65 .setGo) = false ∧
    Instr.wellFormed (.iitData 4 0) = false := by
  decide +kernel

theorem test_wellFormed_queues : Instr.wellFormed (.sqTailDoorbell (.tenant 4096 0) 0 0) = false ∧ Instr.wellFormed (.sqTailDoorbell (.tenant 0 8) 0 0) = false ∧
    Instr.wellFormed (.sqTailDoorbell (.manager 0 4096) 0 0) = false ∧ Instr.wellFormed (.sqTailDoorbell (.manager 0 0) 65536 0) = false ∧ Instr.wellFormed (.enable 0 4096) = false ∧
    Instr.wellFormed (.entryFetched 0 0 0 []) = false ∧ Instr.wellFormed (.jobDispatch 0 (.lve 16)) = false ∧ Instr.wellFormed (.jobDispatch 0 (.bne 4)) = false ∧
    Instr.wellFormed (.jobDispatch 0 (.sye 2)) = false ∧ Instr.wellFormed (.dwrrRoundStart 0 16) = false ∧ Instr.wellFormed (.hostReadCompletion 0 (.entry 4096 0) (.failed 2)) = false ∧
    Instr.wellFormed (.hostReadCompletion 0 (.job 0 8) (.failed 2)) = false ∧ Instr.wellFormed (.hostReadCompletion 0 (.mailbox 4096) (.failed 2)) = false ∧
    Instr.wellFormed (.hostReadCompletion 0 (.job 0 4) (.failed 1)) = false ∧ Instr.wellFormed (.descriptorComplete 0 16 .ok) = false ∧ Instr.wellFormed (.pReset 4096 1) = false := by
  decide +kernel

theorem test_wellFormed_units : Instr.wellFormed (.repeatLimit 0 16) = false ∧ Instr.wellFormed (.bneLegEnd 0 4 true) = false ∧ Instr.wellFormed (.syeSegmentEnd 0 2) = false ∧
    Instr.wellFormed (.drbgRequest 0 0) = false ∧ Instr.wellFormed (.drbgRequest 0 65537) = false ∧ Instr.wellFormed (.healthTestFail 0 8 true) = false ∧
    Instr.wellFormed (.mhaRange 0 (2 ^ 32) 0 []) = false ∧ Instr.wellFormed (.mhaRange 0 0 (2 ^ 32) []) = false ∧ Instr.wellFormed (.tmpIn 4) = false ∧
    Instr.wellFormed (.tamperConditionClear 0 25) = false ∧ Instr.wellFormed (.tamperConditionClear 0 0) = false ∧ Instr.wellFormed (.tamperConditionClear 0 24) = true ∧
    Instr.wellFormed (.severe 0 1152) = false ∧ Instr.wellFormed (.tapInternal 0 0x80 (some ⟨0, [], [], [], [], 0, 0, 0⟩)) = false ∧
    Instr.wellFormed (.cardInserted 4) = false ∧ Instr.wellFormed (.sWtx 0 0) = false ∧ Instr.wellFormed (.sWtx 0 256) = false ∧
    Instr.wellFormed (.backupCardInserted ⟨true, 0, 0, false, false, [], []⟩) = false := by
  decide +kernel

theorem test_wellFormed_relay : Instr.wellFormed (.heartbeat 0 ⟨8, 0, 0, 0, false⟩) = false ∧ Instr.wellFormed (.heartbeat 0 ⟨0, 8, 0, 0, false⟩) = false ∧
    Instr.wellFormed (.heartbeatSilence (.port 0 2)) = false ∧ Instr.wellFormed (.heartbeatSilence (.die 8)) = false ∧ Instr.wellFormed (.vote 0 8 true 0 (List.replicate 16 0)) = false ∧
    Instr.wellFormed (.vote 0 1 true 0 []) = false ∧ Instr.wellFormed (.accept 0 1 ⟨some 8, 0, [], List.replicate 32 0⟩) = false ∧
    Instr.wellFormed (.accept 0 1 ⟨none, 0, [8], List.replicate 32 0⟩) = false ∧ Instr.wellFormed (.accept 0 1 ⟨none, 0, [], []⟩) = false ∧
    Instr.wellFormed (.tamperOrder 0 1 4 1) = false ∧ Instr.wellFormed (.tamperOrder 0 1 0 0) = false ∧ Instr.wellFormed (.joinAck 0 1 []) = false ∧
    Instr.wellFormed (.vjoin (.frame ⟨8, true, 0, List.replicate 16 0⟩)) = false ∧ Instr.wellFormed (.vjoin (.frame ⟨0, true, 0, []⟩)) = false ∧
    Instr.wellFormed (.vjoin (.vmsk ⟨0, 0, .none⟩ (fld 0 0))) = false ∧ Instr.wellFormed (.linkTrained 0 2) = false := by
  decide +kernel

/-! ### Witnesses: the instructions of the LVE -/

theorem witness_LveIntegerAndMask : LveMet .valu Lve.always ∧ LveMet .vcmp Lve.always ∧ LveMet .malu Lve.always ∧ LveMet .vmerge Lve.always ∧
    LveMet .vaccept Lve.always :=
  ⟨met (fld 0 0) lveK trivial, met (fld 0 0) lveK trivial, met (fld 0 0) lveK trivial, met { fld 0 0 with men := true } lveK trivial, met (fld 0 0) lveK trivial⟩

theorem witness_LveScalarAndControl : LveMet .nop Lve.always ∧ LveMet .setvl Lve.always ∧
    LveMet .vsettype (fun f l => vtypeOk (f.imm.truncate 4) l.core.lmod = true) ∧ LveMet .vsetmod Lve.always ∧
    LveMet .setout (fun f l => (l.sr f.a.toNat).toNat ≤ l.jr.outCap ∧ (l.sr f.a.toNat).toNat ≤ l.regions.outMax) ∧
    LveMet .sli Lve.always ∧ LveMet .salu Lve.always ∧ LveMet .salui Lve.always ∧ LveMet .sjr Lve.always :=
  ⟨met (fld 0 0) lve0 trivial, met (fld 0 0) lve0 trivial, met (fld 0 5) lve0 (by decide +kernel), met (fld 0 0x101) lve0 trivial, met (fld 0 0) lveW (by decide +kernel),
    met (fld 0 0) lve0 trivial, met (fld 0 0) lve0 trivial, met (fld 0 0) lve0 trivial, met (fld 0 0) lve0 trivial⟩

theorem witness_LveLoops : (∃ s r f u, LveRuns s .loop r f u) ∧ (∃ s r f u, LveRuns s .loopi r f u ∧ 0 < (f.sub ++ f.imm).toNat / 4096) ∧
    (∃ s r f u, LveRuns s .loopi r f u ∧ (f.sub ++ f.imm).toNat / 4096 = 0) :=
  ⟨⟨_, _, fld 0 1, _, runs _ _ lve0 (by decide +kernel)⟩, ⟨_, _, fld 0 0x1001, _, runs _ _ lve0 (by decide +kernel), by decide +kernel⟩,
    ⟨_, _, fld 0 1, _, runs _ _ lve0 (by decide +kernel), by decide +kernel⟩⟩

/-- The modular instructions with their SUB codes, and the engines that run them. -/
def modRows : List (LveOp × Lve × BitVec 8) := [(.madd, lveK, 0), (.msub, lveK, 1), (.mneg, lveK, 2), (.mred, lveK, 3), (.mmont, lveD, 4), (.mbar, lveD, 5), (.tomont, lveD, 6)]

theorem witness_LveModular : (∀ p ∈ modRows, LveMet p.1 (fun _ l => l.modKnown)) ∧
    LveMet .cmpr (fun _ l => l.modKnown ∧ l.modulus = 3329) ∧ LveMet .dcmpr (fun _ l => l.modKnown ∧ l.modulus = 3329) ∧
    LveMet .p2r (fun _ l => l.modKnown ∧ l.modulus = 8380417) ∧ LveMet .decomp (fun _ l => l.modKnown ∧ l.modulus = 8380417) :=
  ⟨fun p hp => by
      have h : ∀ p ∈ modRows, p.1.valid (fld p.2.2 0) = true ∧ p.2.1.phase = .running ∧ p.2.1.abortReq = false ∧ (holding p.2.1 p.1 (fld p.2.2 0)).modOk = true ∧
          ((holding p.2.1 p.1 (fld p.2.2 0)).core.vtype.toNat / 4 = 3 → (holding p.2.1 p.1 (fld p.2.2 0)).core.lmod.toNat % 2 = 1 ∧
            3 ≤ (holding p.2.1 p.1 (fld p.2.2 0)).core.lmod.toNat) := by decide +kernel
      exact met _ _ ⟨(h p hp).2.2.2.1, (h p hp).2.2.2.2⟩ (h p hp).1 (h p hp).2.1 (h p hp).2.2.1,
    met (fld 7 1) lveK ⟨⟨by decide +kernel, by decide +kernel⟩, by decide +kernel⟩, met (fld 8 1) lveK ⟨⟨by decide +kernel, by decide +kernel⟩, by decide +kernel⟩,
    met (fld 9 0) lveD ⟨⟨by decide +kernel, by decide +kernel⟩, by decide +kernel⟩, met (fld 10 0) lveD ⟨⟨by decide +kernel, by decide +kernel⟩, by decide +kernel⟩⟩

theorem witness_LveButterflies :
    LveMet .vbfly (fun f l => l.modOk ∧ l.modulus = (twiddleMod (f.imm.toNat % 8)).1 ∧ l.sew = (twiddleMod (f.imm.toNat % 8)).2.2 ∧
      f.imm.toNat / 8 % 256 + (l.vlmax - 1) / 2 ^ (f.imm.toNat / 2048 % 16) < (twiddleMod (f.imm.toNat % 8)).2.1) ∧
    LveMet .vbmul (fun f l => l.modOk ∧ l.modulus = 3329 ∧ l.core.vl % 2 = 0 ∧
      f.imm.toNat / 8 % 256 + (l.vlmax / 2 - 1) / 2 ^ (f.imm.toNat / 2048 % 16) < 128) :=
  ⟨met (fld 0 0) lveK (by decide +kernel), met (fld 0 0) lveK (by decide +kernel)⟩

theorem witness_LveLayout : LveMet .zip (fun f l => 2 ^ f.imm.toNat ≤ l.vlmax / 2) ∧ LveMet .unzip (fun f l => 2 ^ f.imm.toNat ≤ l.vlmax / 2) ∧
    LveMet .brev (fun f l => 2 ^ f.imm.toNat ≤ l.vlmax) ∧ LveMet .slideup Lve.always ∧ LveMet .slidedn Lve.always ∧ LveMet .bmt Lve.always ∧
    LveMet .vcompress Lve.always ∧ LveMet .vpack (fun f l => f.d.toNat + (l.core.vl * f.imm.toNat + 2047) / 2048 ≤ 32) ∧
    LveMet .vunpack (fun f l => f.a.toNat + (l.core.vl * f.imm.toNat + 2047) / 2048 ≤ 32) :=
  ⟨met (fld 0 0) lveK (by decide +kernel), met (fld 1 0) lveK (by decide +kernel), met (fld 2 0) lveK (by decide +kernel), met (fld 3 0) lveK trivial, met (fld 4 0) lveK trivial,
    met (fld 5 0) lveK trivial, met { fld 0 0 with men := true } lveK trivial, met (fld 0 1) lveK (by decide +kernel), met (fld 1 1) lveK (by decide +kernel)⟩

theorem witness_LveLoads :
    let ok := fun (f : LveFields) (l : Lve) (addr : Nat → Nat) => ∀ i, i < l.vlmax → l.active f i = true → l.loadOk (addr i) (l.sew / 8) = true
    let base := fun (f : LveFields) (l : Lve) => (l.sr f.a.toNat + f.imm.signExtend 64).toNat
    LveMet .vldu (fun f l => ok f l (fun i => (base f l + i * (l.sew / 8)) % 2 ^ 64)) ∧
    LveMet .vldp (fun f l => ok f l (fun i => (base f l + i * (l.sr f.b.toNat).toNat) % 2 ^ 64)) ∧
    LveMet .vgather (fun f l => ok f l (fun i => (base f l + l.elB f i) % 2 ^ 64)) ∧
    LveMet .vldf (fun f l => ∀ k, k < f.sub.toNat → ok f l (fun i => (base f l + (i * f.sub.toNat + k) * (l.sew / 8)) % 2 ^ 64)) ∧
    (∃ s r f u, LveRuns s .vkld r f u) :=
  ⟨met (fld 0 0) lveB (by decide +kernel), met (fld 0 0) lveB (by decide +kernel), met (fld 0 0) lveB (by decide +kernel), met (fld 2 0) lveB (by decide +kernel),
    ⟨_, _, fld 0 0, _, runs _ _ lve0 (by decide +kernel)⟩⟩

theorem witness_LveStores :
    let ok := fun (f : LveFields) (l : Lve) (addr : Nat → Nat) => ∀ i, i < l.vlmax → l.active f i = true → l.storeOk (addr i) (l.sew / 8) = true
    let base := fun (f : LveFields) (l : Lve) => (l.sr f.a.toNat + f.imm.signExtend 64).toNat
    LveMet .vstu (fun f l => l.window.wf = true ∧ ok f l (fun i => (base f l + i * (l.sew / 8)) % 2 ^ 64)) ∧
    LveMet .vstp (fun f l => l.window.wf = true ∧ ok f l (fun i => (base f l + i * (l.sr f.b.toNat).toNat) % 2 ^ 64)) ∧
    LveMet .vscatter (fun f l => l.window.wf = true ∧ ok f l (fun i => (base f l + l.elB f i) % 2 ^ 64)) ∧
    LveMet .vstf (fun f l => l.window.wf = true ∧ ∀ k, k < f.sub.toNat → ok f l (fun i => (base f l + (i * f.sub.toNat + k) * (l.sew / 8)) % 2 ^ 64)) :=
  ⟨met (fld 0 320) lveB (by decide +kernel), met (fld 0 320) lveB (by decide +kernel), met (fld 0 320) lveB (by decide +kernel), met (fld 2 320) lveB (by decide +kernel)⟩

/-- A fault met before. -/
def lveF : Lve := { lveB with seq := { lveB.seq with fault := some (.operand 1) } }

theorem witness_LveOperandFaults :
    let first := fun (f : LveFields) (l : Lve) (ok : Nat → Bool) (n : Nat) =>
      n < l.vlmax ∧ l.active f n = true ∧ ok n = false ∧ ∀ i, i < n → l.active f i = true → ok i = true
    let base := fun (f : LveFields) (l : Lve) => (l.sr f.a.toNat + f.imm.signExtend 64).toNat
    let unit := fun (f : LveFields) (l : Lve) (i : Nat) => (base f l + i * (l.sew / 8)) % 2 ^ 64
    let pitch := fun (f : LveFields) (l : Lve) (i : Nat) => (base f l + i * (l.sr f.b.toNat).toNat) % 2 ^ 64
    let index := fun (f : LveFields) (l : Lve) (i : Nat) => (base f l + l.elB f i) % 2 ^ 64
    let fresh := fun (l : Lve) => l.window.wf = true ∧ l.seq.fault = none
    let past := fun (_ : LveFields) (l : Lve) => l.seq.fault.isSome = true
    (LveMet .vldu (fun f l => fresh l ∧ first f l (fun i => l.loadOk (unit f l i) (l.sew / 8)) 1) ∧ LveMet .vldu past) ∧
    (LveMet .vldp (fun f l => fresh l ∧ first f l (fun i => l.loadOk (pitch f l i) (l.sew / 8)) 0) ∧ LveMet .vldp past) ∧
    (LveMet .vgather (fun f l => fresh l ∧ first f l (fun i => l.loadOk (index f l i) (l.sew / 8)) 0) ∧ LveMet .vgather past) ∧
    LveMet .vstu (fun f l => fresh l ∧ first f l (fun i => l.storeOk (unit f l i) (l.sew / 8)) 1) ∧
    LveMet .vstp (fun f l => fresh l ∧ first f l (fun i => l.storeOk (pitch f l i) (l.sew / 8)) 0) ∧
    LveMet .vscatter (fun f l => fresh l ∧ first f l (fun i => l.storeOk (index f l i) (l.sew / 8)) 0) ∧
    LveMet .setout (fun f l => l.seq.fault = none ∧ (l.jr.outCap < (l.sr f.a.toNat).toNat ∨ l.regions.outMax < (l.sr f.a.toNat).toNat)) :=
  ⟨⟨met (fld 0 504) lveB (by decide +kernel), met (fld 0 0) lveF (by decide +kernel)⟩, ⟨met (fld 0 512) lveB (by decide +kernel), met (fld 0 0) lveF (by decide +kernel)⟩,
    ⟨met (fld 0 512) lveB (by decide +kernel), met (fld 0 0) lveF (by decide +kernel)⟩, met (fld 0 440) lveB (by decide +kernel), met (fld 0 512) lveB (by decide +kernel),
    met (fld 0 512) lveB (by decide +kernel), met (fld 0 0) (lveB.setS 0 1000) (by decide +kernel)⟩

theorem witness_LveMasked :
    let w := fun (l : Lve) => (l.core.vl * l.sew + 7) / 8
    let ta := Lve.shareKnown
    let fits := fun (l : Lve) (n : Nat) => l.seq.maskUsed + n ≤ l.seq.maskBytes
    let conv := fun (f : LveFields) (l : Lve) => f.order * (l.logSew + 1) * w l
    LveMet .split (fun f l => fits l (f.order * w l)) ∧ LveMet .refresh (fun f l => fits l (f.order * w l)) ∧
    LveMet .band (fun f l => fits l ((if f.order = 1 then 1 else 3) * w l)) ∧ LveMet .a2b (fun f l => ta l ∧ fits l (conv f l)) ∧
    LveMet .splita (fun f l => ta l ∧ fits l (f.order * w l)) ∧ LveMet .b2a (fun f l => ta l ∧ fits l (conv f l)) ∧
    LveMet .amont (fun f l => l.modKnown ∧ fits l (f.order * w l)) :=
  ⟨met (fld 0 0) lveK (by decide +kernel), met (fld 12 0) lveK (by decide +kernel), met (fld 5 0) lveK (by decide +kernel), met (fld 10 0) lveK (by refine ⟨⟨?_, ?_⟩, ?_⟩ <;> decide +kernel), met (fld 1 0) lveK (by refine ⟨⟨?_, ?_⟩, ?_⟩ <;> decide +kernel),
    met (fld 11 0) lveK (by refine ⟨⟨?_, ?_⟩, ?_⟩ <;> decide +kernel), met (fld 9 0) lveK (by refine ⟨⟨?_, ?_⟩, ?_⟩ <;> decide +kernel)⟩

theorem witness_LveShareWise : LveMet .bxor Lve.always ∧ LveMet .bnot Lve.always ∧ LveMet .aadd (fun _ l => l.shareKnown) ∧
    LveMet .asub (fun _ l => l.shareKnown) ∧ LveMet .joina (fun _ l => l.shareKnown) ∧ LveMet .vjoin Lve.always :=
  ⟨met (fld 4 0) lveK trivial, met (fld 6 0) lveK trivial, met (fld 7 0) lveK (by refine ⟨?_, ?_⟩ <;> decide +kernel), met (fld 8 0) lveK (by refine ⟨?_, ?_⟩ <;> decide +kernel), met (fld 3 0) lveK (by refine ⟨?_, ?_⟩ <;> decide +kernel),
    met (fld 2 0) lveK trivial⟩

theorem witness_LveSampling :
    LveMet .vcbd (fun f l => l.shareKnown ∧ bit f.sub 0 = false) ∧
    LveMet .vcbd (fun f l => l.shareKnown ∧ bit f.sub 0 = true ∧
      l.seq.maskUsed + (if bit f.sub 1 then 6 else 2) * ((l.core.vl * l.sew + 7) / 8) ≤ l.seq.maskBytes) ∧
    LveMet .vrej (fun f l => l.hash.ksqueeze = true ∧ l.modKnown ∧ l.hash.kpublic = true ∧ f.km = 0) ∧
    LveMet .vrej (fun f l => l.hash.ksqueeze = true ∧ l.modKnown ∧ l.hash.kpublic = false ∧ f.a = 0 ∧
      f.imm.toNat / 16 % 16 * l.kRate * (if f.imm.toNat % 16 < 2 then 2 else 6) / (if f.imm.toNat % 16 = 1 then 6 else 3) ≤ min (2 ^ (f.imm.toNat / 256) * l.vlmax) 256 ∧
      l.seq.maskUsed + l.permMask (l.squeezePerms (f.imm.toNat / 16 % 16 * l.kRate)) ≤ l.seq.maskBytes) :=
  ⟨met (fld 0 2) lveK (by refine ⟨⟨?_, ?_⟩, ?_⟩ <;> decide +kernel), met (fld 1 2) lveK (by refine ⟨⟨?_, ?_⟩, ?_⟩ <;> decide +kernel), met (fld 0 0x10) lveS (by refine ⟨?_, ⟨?_, ?_⟩, ?_⟩ <;> decide +kernel),
    met (fld 0 0x110) { lveS with hash := { lveS.hash with kpublic := false } } (by refine ⟨?_, ⟨?_, ?_⟩, ?_⟩ <;> decide +kernel)⟩

theorem witness_LveHashUnits :
    (LveMet .kinit Lve.always ∧ LveMet .kfin (fun _ l => l.hash.ksqueeze = false ∧ l.hash.kshares ≠ []) ∧
      LveMet .kabs (fun f l => l.hash.ksqueeze = false ∧ l.sr f.b.toNat = 0#64 ∧ l.seq.maskUsed + l.permMask ((l.hash.kpos + 0) / l.kRate) ≤ l.seq.maskBytes ∧
        f.a.toNat + (l.hash.kshares.length - 1) < 32) ∧
      LveMet .kabsm (fun f l => l.hash.ksqueeze = false ∧ l.sr f.b.toNat = 8#64 ∧ l.seq.maskUsed + l.permMask ((l.hash.kpos + 8) / l.kRate) ≤ l.seq.maskBytes ∧
        ∀ i, i < 8 → l.loadOk ((l.base f + i) % 2 ^ 64) 1 = true) ∧
      LveMet .vxof (fun f l => l.hash.ksqueeze = true ∧ l.seq.maskUsed + l.permMask (l.squeezePerms f.imm.toNat) ≤ l.seq.maskBytes ∧
        f.d.toNat + (l.hash.kshares.length - 1) < 32) ∧
      LveMet .ksave Lve.always ∧ LveMet .kload (fun f l => f.imm.toNat < l.kRate) ∧ LveMet .hinit Lve.always ∧
      LveMet .hblk (fun f l => f.a.toNat + ((f.imm.toNat % 4 + 1) * l.hBlk + 255) / 256 ≤ 32) ∧
      LveMet .hblkm (fun f l => ∀ i, i < (f.imm.toNat + 1) * l.hBlk → l.loadOk (((l.sr f.a.toNat).toNat + i) % 2 ^ 64) 1 = true) ∧
      LveMet .hout Lve.always ∧ LveMet .hload Lve.always) ∧ ∃ l : Lve, l.hash.kshares ≠ [] :=
  ⟨⟨met (fld 0 0) lve0 trivial, met (fld 0 0) lve0 (by decide +kernel), met (fld 0 0) lveW (by decide +kernel), met { fld 0 0 with b := 1 } (lveW.setS 1 8) (by decide +kernel), met (fld 0 1) lveS (by decide +kernel),
    met (fld 0 0) lve0 trivial, met (fld 0 0) lve0 (by decide +kernel), met (fld 0 0) lve0 trivial, met (fld 0 0) lve0 (by decide +kernel), met (fld 0 0) lveW (by decide +kernel),
    met (fld 0 0) lve0 trivial, met (fld 0 0) lve0 trivial⟩, lve0, by decide +kernel⟩

theorem witness_LveStops : State.reset.lve? ⟨0, 99, .none⟩ = none ∧ ((onLve lve0).lve? ⟨0, 0, .none⟩).isSome = true ∧ LveOp.nop.valid (fld 1 0) = false ∧
    LveOp.nop.valid (fld 0 0) = true ∧ (unitOf Lve.clear).executes .nop (fld 0 0) = false ∧ LveMet .madd (fun _ l => l.modOk = false) :=
  ⟨by decide +kernel, by decide +kernel, by decide +kernel, by decide +kernel, by decide +kernel, met (fld 0 0) lve0 (by decide +kernel)⟩

theorem witness_LveDecodeEncode : LveOp.valu.valid (fld 9 0) = true := by decide +kernel

theorem witness_LveWindowCanonical : LveOp.vstu ≠ .lend ∧ (onLve (holding lveB .vstu (fld 0 320))).lve? ⟨0, 0, .none⟩ = some (unitOf (holding lveB .vstu (fld 0 320))) ∧
    (unitOf (holding lveB .vstu (fld 0 320))).eng.window.wf = true ∧
    (unitOf (holding lveB .vstu (fld 0 320))).eng.abortReq = false ∧ (State.reset.die 0).patch.expansion .vstu (fld 0 320) lveB = none ∧
    ∃ t, exec (.vstu ⟨0, 0, .none⟩ (fld 0 320)) (onLve (holding lveB .vstu (fld 0 320))) = .next t ∧ (t.lve? ⟨0, 0, .none⟩).isSome = true :=
  ⟨by decide +kernel, rfl, rfl, rfl, rfl, _, rfl, rfl⟩

/-! ### Witnesses: burning, test access, measurement -/

/-- A transition with these bits left. -/
def burning (left : List Nat) (phase : Nat) : State :=
  { live with lcc := { Lcc.reset with xfer := some ⟨phase, 4, left, 0, 2, none, false, []⟩ } }

theorem witness_LifeCycleBurning : ∃ t, (burning [3, 9] 2).lcc.xfer = some t ∧ t.left = 3 :: [9] ∧ t.phase = 2 ∧ (burning [3, 9] 2).lcc.deferred = none ∧
    (burning [3, 9] 2).lcc.stop = none ∧ [9] ≠ ([] : List Nat) ∧ ∃ t', (burning [3] 2).lcc.xfer = some t' ∧ t'.left = 3 :: [] ∧ t'.phase = 2 :=
  ⟨_, rfl, rfl, rfl, rfl, rfl, by decide +kernel, _, rfl, rfl, rfl⟩

theorem witness_TestAccess : State.reset.lc = 0 ∧ live.lc ≠ 0 ∧ live.lc ≠ 1 ∧ (0 : Nat) < State.reset.dies.length ∧ (State.reset.die 0).fuses.lc = lcWord 0 ∧
    (live.die 0).fuses.lc ≠ lcWord 0 ∧ live.pkg.boundary = false ∧ { live with pkg := { live.pkg with boundary := true } }.pkg.boundary = true := by decide +kernel

theorem witness_MeasurementHasher :
    let s := live.modDie 0 (fun x => { x with mha := { x.mha with state := .open_ } })
    (live.die 0).mha.state ≠ .open_ ∧ (s.die 0).mha.state = .open_ ∧ (s.die 0).mha.nextAddr = (s.die 0).mha.rangeEnd ∧ ([1, 2] : List Byte).length ≤ 8 := by decide +kernel

theorem witness_ManagementPort : live.pkg.pwrgood = true ∧ State.reset.pkg.pwrgood = false ∧ { live with pkg := { live.pkg with alertLow := true } }.pkg.alertLow = true ∧
    live.pkg.alertLow = false ∧ (∃ x, live.dies[0]? = some x ∧ x.reachable = true) := ⟨rfl, rfl, rfl, rfl, _, rfl, rfl⟩

/-! ### Witnesses: the operations

A hypothesis that only a free function can meet (a signature that verifies, a record that passes a primality test) is met by every machine whose function gives
that answer, and is left out here. -/

theorem witness_LveOperations :
    (OpMet 0x1001 (fun s j x => (s.jobParent j.die x).isSome) ∧ OpMet 0x1002 (fun _ _ x => (kemSizes x.sqe.ps).isSome) ∧
      OpMet 0x1802 (fun _ _ x => (kemSizes x.sqe.ps).isSome ∧ 3 < x.sqe.ps) ∧
      OpMet 0x1802 (fun _ _ x => x.sqe.ps ≤ 3 ∧ kemKeyOk (x.data.auxData.take 800) = false) ∧ OpMet 0x1003 (fun _ _ x => (kemSizes x.sqe.ps).isSome) ∧
      ∃ s j x e u, OpRuns s j 0x8001 x ∧ x.engine = .lve e ∧ (s.die j.die).lves[e]? = some u ∧ u.eng.phase = .loading ∧ u.eng.job = some j.job) ∧
    (OpMet 0x2001 (fun s j x => (s.jobParent j.die x).isSome) ∧ OpMet 0x2002 (fun _ _ x => (sigSizes x.sqe.ps).isSome) ∧
      OpMet 0x2003 (fun _ _ x => x.data.inData.length = 5 + 2420) ∧ OpMet 0x2803 (fun _ _ x => x.data.inData.length = 5 + 2420 ∧ x.data.auxData.length = 1312) ∧
      OpMet 0x3001 (fun s j x => (stf? x.sqe.ps).isSome ∧ (s.jobParent j.die x).isSome ∧ Assoc.get? s.bbram.counters 0 = none) ∧
      OpMet 0x3002 (fun s j x => (stf? x.sqe.ps).isSome ∧ (s.jobKey j.die x 0).isSome ∧ x.data.leaf = some 1023 ∧
        ∃ c, Assoc.get? s.bbram.counters 3 = some c ∧ 1023 < c.stop ∧ c.stop - 1023 ≤ 2 ^ 32) ∧
      OpMet 0x3003 (fun s j x => (stf? x.sqe.ps).isSome ∧ (s.jobKey j.die x 0).isSome ∧ x.sqe.par 0 32 = 2 ∧ x.data.inData = [1, 2] ++ [3]) ∧
      OpMet 0x3803 (fun _ _ x => (stf? x.sqe.ps).isSome ∧ x.sqe.par 0 32 = 2 ∧ 2 ≤ x.data.inData.length) ∧
      OpMet 0x3004 (fun s j x => (s.jobKey j.die x 0).isSome ∧ (Assoc.get? s.bbram.counters 3).isSome)) :=
  ⟨⟨opMet (keyed (job 0x1001 1)) (by decide +kernel), opMet (job 0x1002 2) (by decide +kernel), opMet (job 0x1802 0x21) (by decide +kernel),
      opMet { job 0x1802 1 with data := { JobData.empty with auxData := List.replicate 800 0xFF } } (by decide +kernel), opMet (job 0x1003 3) (by decide +kernel),
      (withJob (job 0x8001 0)).modDie 0 (fun d => { d with lves := d.lves.set 0 (unitOf { lve0 with phase := .loading, job := some 1 }) }), ⟨0, 1⟩, job 0x8001 0, 0, _,
      ⟨rfl, rfl, rfl, rfl⟩, rfl, rfl, rfl, rfl⟩,
    opMet (keyed (job 0x2001 1)) (by decide +kernel), opMet (job 0x2002 0x26) (by decide +kernel), opMet (jobIn 0x2003 1 (List.replicate 2425 0)) (by decide +kernel),
    opMet { job 0x2803 1 with data := { JobData.empty with inData := List.replicate 2425 0, auxData := List.replicate 1312 0 } } (by decide +kernel),
    opMet (keyed (job 0x3001 0x80)) (by decide +kernel),
    opMet (let x := keyed (job 0x3002 0x80); { x with data := { x.data with leaf := some 1023 } }) ⟨by decide +kernel, by decide +kernel, rfl, _, rfl, by decide +kernel⟩,
    opMet (keyed { jobIn 0x3003 0x80 [1, 2, 3] with sqe := { sqe 0x3003 0x80 with param := 2 } }) (by decide +kernel),
    opMet { jobIn 0x3803 0x80 [1, 2, 3] with sqe := { sqe 0x3803 0x80 with param := 2 } } (by decide +kernel), opMet (keyed (job 0x3004 0x80)) (by decide +kernel)⟩

/-- The generator of P-256, uncompressed. -/
def aPoint : List Byte := 0x04#8 :: (match (namedCurve? 1).bind (fun c => c.g) with | some p => beBytes 32 p.1 ++ beBytes 32 p.2 | none => [])

theorem witness_EcOperations :
    OpMet 0x4001 (fun s j x => (s.jobParent j.die x).isSome) ∧ OpMet 0x4002 (fun s j x => s.scalar j.die x % x.weier.n = 0) ∧
    OpMet 0x4002 (fun s j x => s.scalar j.die x % x.weier.n ≠ 0) ∧ OpMet 0x4003 (fun _ _ x => x.data.inData.length = 1 + x.weier.len + x.weier.len) ∧
    OpMet 0x4803 (fun _ _ x => x.data.inData.length = 1 + x.weier.len + x.weier.len ∧ x.data.auxData.getD 0 0 ≠ 0x04#8) ∧
    OpMet 0x4803 (fun _ _ x => x.data.inData.length = 1 + x.weier.len + x.weier.len ∧ x.data.auxData.getD 0 0 = 0x04#8 ∧ x.weier.p ≤ beNat (slice x.data.auxData 1 x.weier.len)) ∧
    OpMet 0x4803 (fun _ _ x => x.data.inData.length = 1 + x.weier.len + x.weier.len ∧ x.data.auxData.getD 0 0 = 0x04#8 ∧
      x.weier.on (beNat (slice x.data.auxData 1 x.weier.len)) (beNat (slice x.data.auxData (1 + x.weier.len) x.weier.len)) = true) ∧
    OpMet 0x4004 (fun _ _ x => x.sqe.ps = 4) ∧
    OpMet 0x4004 (fun s j x => x.sqe.ps ≠ 4 ∧ x.sqe.ps ≠ 5 ∧ x.data.inData.getD 0 0 = 0x04#8 ∧ beNat (slice x.data.inData 1 x.weier.len) < x.weier.p ∧
      s.scalar j.die x % x.weier.n ≠ 0 ∧ x.weier.on (beNat (slice x.data.inData 1 x.weier.len)) (beNat (slice x.data.inData (1 + x.weier.len) x.weier.len)) = true) ∧
    OpMet 0x4005 just ∧ OpMet 0x4006 (fun _ _ x => x.data.inData.length = 1 + x.sqe.sigLen 0) ∧
    OpMet 0x4806 (fun _ _ x => x.data.inData.length = 1 + x.sqe.sigLen 0 ∧ x.data.auxData.length = curveLen x.sqe.ps) :=
  ⟨opMet (keyed (job 0x4001 1)) (by decide +kernel), opMet (job 0x4002 1) (by decide +kernel), opMet (keyed (job 0x4002 1)) (by decide +kernel),
    opMet (jobIn 0x4003 1 (List.replicate 65 1)) (by decide +kernel), opMet (jobIn 0x4803 1 (List.replicate 65 1)) (by decide +kernel),
    opMet { job 0x4803 1 with data := { JobData.empty with inData := List.replicate 65 1, auxData := 0x04#8 :: List.replicate 64 0xFF } } (by decide +kernel),
    opMet { job 0x4803 1 with data := { JobData.empty with inData := List.replicate 65 1, auxData := aPoint } } (by decide +kernel),
    opMet (job 0x4004 4) (by decide +kernel), opMet (keyed (jobIn 0x4004 1 aPoint)) (by decide +kernel), opMet (job 0x4005 6) trivial,
    opMet (jobIn 0x4006 6 (List.replicate 65 1)) (by decide +kernel),
    opMet { job 0x4806 6 with data := { JobData.empty with inData := List.replicate 65 1, auxData := List.replicate 32 0 } } (by decide +kernel)⟩

/-- An RSA-2048 job whose AUX has an odd modulus of 2,048 bits and exponent 65537. -/
def rsaExt (op : Nat) (b : List Byte) : Job :=
  { job op 32 with data := { JobData.empty with inData := b, auxData := List.replicate 256 0xFF ++ [0, 1, 0, 1] } }

theorem witness_CurveAndRsaOperations :
    (OpMet 0x4007 (fun s _ x => (curveFail (curveOf x.data.inData ((x.sqe.fieldBits + 7) / 8)) x.sqe.fieldBits s.freeCtr).isSome) ∧
      OpMet 0x4008 (fun s _ x => Assoc.get? (s.inst x.src.inst).curves (x.sqe.par 16 2) = none) ∧
      ∃ s j x, OpRuns s j 0x4008 x ∧ (Assoc.get? (s.inst x.src.inst).curves (x.sqe.par 16 2)).isSome) ∧
    OpMet 0x4010 (fun s j x => (s.jobParent j.die x).isSome) ∧ OpMet 0x4011 just ∧ OpMet 0x4012 (fun _ _ x => x.data.inData.length = 1 + x.sqe.rsaK) ∧
    OpMet 0x4812 (fun _ _ x => x.data.inData.length = 1 + x.sqe.rsaK ∧ x.rsaPub.1 % 2 = 0) ∧
    OpMet 0x4812 (fun _ _ x => x.rsaPub.1 % 2 = 1 ∧ 2 ^ (8 * x.sqe.rsaK - 1) ≤ x.rsaPub.1 ∧ x.rsaPub.2 % 2 = 1 ∧ 3 ≤ x.rsaPub.2) ∧
    OpMet 0x4013 just ∧ OpMet 0x4813 (fun _ _ x => x.rsaPub.1 % 2 = 1 ∧ 2 ^ (8 * x.sqe.rsaK - 1) ≤ x.rsaPub.1) ∧ OpMet 0x4014 just :=
  ⟨⟨opMet (job 0x4007 0x40) (by decide +kernel), opMet (job 0x4008 0x40) (by decide +kernel),
      { withJob (job 0x4008 0x40) with insts := [(0, { Inst.free with curves := [(0, ⟨256, []⟩)] })] }, ⟨0, 1⟩, job 0x4008 0x40, ⟨rfl, rfl, rfl, rfl⟩, by decide +kernel⟩,
    opMet (keyed (job 0x4010 32)) (by decide +kernel), opMet (job 0x4011 32) trivial, opMet (jobIn 0x4012 32 (List.replicate 257 0)) (by decide +kernel),
    opMet (jobIn 0x4812 32 (List.replicate 257 0)) (by decide +kernel), opMet (rsaExt 0x4812 []) (by decide +kernel), opMet (job 0x4013 32) trivial,
    opMet (rsaExt 0x4813 []) (by decide +kernel), opMet (job 0x4014 32) trivial⟩

/-- A symmetric operation in a mode, of no input. -/
def symJob (op ps : Nat) (param : W64) (aux : List Byte) : Job :=
  { job op ps with sqe := { sqe op ps with param := param }, data := { JobData.empty with auxData := aux, keys := [0] } }

theorem witness_SymmetricOperations :
    OpMet 0x5001 (fun _ _ x => x.data.inData.length = x.sqe.inLen.toNat ∧ x.sqe.mode = 2) ∧
    OpMet 0x5001 (fun _ _ x => x.data.inData.length = x.sqe.inLen.toNat ∧ x.sqe.mode = 3 ∧ bit x.sqe.param 0 = true) ∧
    OpMet 0x5002 (fun s j x => x.data.inData.length = x.sqe.inLen.toNat ∧ (symOpen x.sqe (s.jobSecret j.die x) x.data.auxData x.data.inData).isSome) ∧
    OpMet 0x5002 (fun s j x => x.data.inData.length = x.sqe.inLen.toNat ∧ symOpen x.sqe (s.jobSecret j.die x) x.data.auxData x.data.inData = none ∧ x.sqe.mode ≠ 3) ∧
    OpMet 0x5003 just ∧ OpMet 0x5004 (fun _ _ x => x.data.inData.length = x.sqe.inLen.toNat ∧ x.data.auxData.length = x.sqe.tagLen) ∧ OpMet 0x5005 just :=
  ⟨opMet (symJob 0x5001 0x23 0 (List.replicate 16 0)) (by decide +kernel),
    opMet (symJob 0x5001 0x33 1 []) (by decide +kernel),
    opMet (symJob 0x5002 0x23 0 (List.replicate 16 0)) (by decide +kernel),
    opMet (symJob 0x5002 0x53 0 []) (by decide +kernel),
    opMet (symJob 0x5003 3 0 []) trivial, opMet (symJob 0x5004 3 (16 <<< 8) (List.replicate 16 0)) (by decide +kernel), opMet (job 0x5005 1) trivial⟩

/-- A die whose generator is so. -/
def rngState (f : Rng → Rng) : State := live.modDie 0 (fun x => { x with rng := f x.rng })

theorem witness_RandomGenerator :
    0 < live.dies.length ∧ OpMet 0x7001 (fun s j x => (s.die j.die).rng.asked (bit x.sqe.param 32) = .serves ∧ bit x.sqe.param 32 = false) ∧
    OpMet 0x7001 (fun s j x => (s.die j.die).rng.asked true = .serves ∧ bit x.sqe.param 32 = true ∧ 1 ≤ (s.die j.die).rng.pool) ∧
    OpMet 0x7002 (fun s j _ => (s.die j.die).rng.disabled = false ∧ (s.die j.die).rng.drbgReady = true ∧ (s.die j.die).rng.recovering = false ∧ 1 ≤ (s.die j.die).rng.pool) ∧
    (∃ s j x, OpRuns s j 0x7001 x ∧ (s.die j.die).rng.asked (bit x.sqe.param 32) = .fails) ∧
    ((live.die 0).rng.noiseOk = true ∧ (live.die 0).rng.recovering = false ∧ (live.die 0).rng.disabled = false ∧ (live.die 0).rng.pool < 4) ∧
    ((live.die 0).rng.drbgReady = true ∧ (live.die 0).rng.reqs < 2 ^ 20) ∧ ((rngState (fun r => { r with reqs := 2 ^ 20 })).die 0).rng.reqs = 2 ^ 20 ∧
    ((live.die 0).rng.feedRun = true ∧ (live.die 0).rng.feedBytes < 8 * 2 ^ 20 ∧ (live.die 0).maskBuf 1 < 4096 ∧ 1 = ((live.die 0).rng.feedLast + 1 + 0) % 18) ∧
    ((rngState (fun r => { r with feedRun := false })).die 0).rng.feedRun = false ∧ ((rngState (fun r => { r with recovering := true })).die 0).rng.recovering = true :=
  ⟨by decide +kernel, opMet (job 0x7001 0) (by decide +kernel), opMet { job 0x7001 0 with sqe := { sqe 0x7001 0 with param := 0x100000000 } } (by decide +kernel),
    opMet (job 0x7002 0) (by decide +kernel),
    ⟨(withJob (job 0x7001 0)).modDie 0 (fun d => { d with rng := { d.rng with disabled := true } }), ⟨0, 1⟩, job 0x7001 0, ⟨rfl, rfl, rfl, rfl⟩, by decide +kernel⟩,
    by decide +kernel, by decide +kernel, by decide +kernel, by decide +kernel, by decide +kernel, by decide +kernel⟩

theorem witness_HybridOperations :
    OpMet 0x9001 (fun s j x => (hybSizes x.sqe.ps).isSome ∧ (s.jobParent j.die x).isSome) ∧
    OpMet 0x9002 (fun s j x => x.sqe.ps ≤ 2 ∧ hybFlags x.sqe.ps ((hybPublic x.sqe.ps (s.jobSecret j.die x)).drop (hybPub x.sqe.ps)) (hybPub x.sqe.ps) 1 = []) ∧
    OpMet 0x9802 (fun _ _ x => x.sqe.ps ≤ 2 ∧ x.data.auxData.length = 1216 ∧ kemKeyOk (x.data.auxData.take (hybPub x.sqe.ps)) = false) ∧
    OpMet 0x9802 (fun _ _ x => x.sqe.ps ≤ 2 ∧ x.data.auxData.length = 1216 ∧ kemKeyOk (x.data.auxData.take (hybPub x.sqe.ps)) = true ∧
      hybFlags x.sqe.ps (x.data.auxData.drop (hybPub x.sqe.ps)) (hybPub x.sqe.ps) 1 = []) ∧
    OpMet 0x9003 (fun _ _ x => x.sqe.ps = 2 ∧ x.data.inData.length = hybOut 2 + 97 ∧ hybFlags x.sqe.ps (x.data.inData.drop (hybOut 2)) 0 2 ≠ []) ∧
    OpMet 0x9003 (fun _ _ x => x.sqe.ps = 1 ∧ hybFlags x.sqe.ps (x.data.inData.drop (hybOut 1)) 0 2 = []) ∧
    OpMet 0x9004 (fun _ _ x => (hybSizes x.sqe.ps).isSome ∧ 3 ≤ x.sqe.ps) ∧
    OpMet 0x9005 (fun _ _ x => 3 ≤ x.sqe.ps ∧ x.data.inData.length = 1 + hybOut x.sqe.ps + 2 * (hybWeier x.sqe.ps).len) ∧
    OpMet 0x9805 (fun _ _ x => 3 ≤ x.sqe.ps ∧ x.data.auxData.length = 1377) :=
  ⟨opMet (keyed (job 0x9001 1)) (by decide +kernel), opMet (job 0x9002 1) (by decide +kernel),
    opMet { job 0x9802 1 with data := { JobData.empty with auxData := List.replicate 1216 0xFF } } (by decide +kernel),
    opMet { job 0x9802 1 with data := { JobData.empty with auxData := List.replicate 1216 0 } } (by decide +kernel),
    opMet (jobIn 0x9003 2 (List.replicate (hybOut 2 + 97) 0)) (by decide +kernel), opMet (jobIn 0x9003 1 (List.replicate 1120 0)) (by decide +kernel),
    opMet (job 0x9004 0x11) (by decide +kernel), opMet (jobIn 0x9005 0x11 (List.replicate (1 + hybOut 0x11 + 2 * (hybWeier 0x11).len) 0)) (by decide +kernel),
    opMet { job 0x9805 0x11 with data := { JobData.empty with auxData := List.replicate 1377 0 } } (by decide +kernel)⟩

/-- A job with PARAM and a key under which its new key is wrapped. -/
def newKey (op ps : Nat) (param : W64) (b : List Byte) : Job :=
  { job op ps with sqe := { sqe op ps with param := param }, data := { JobData.empty with inData := b, keys := [0, 1] } }

/-- Its job's package, with a transient slot filled. -/
def stagedState (x : Job) : State := { withJob x with insts := [(0, { Inst.free with code := .active, transients := [(0, ⟨3, 1, List.replicate 32 5⟩)] })] }

/-- A key wrapped under the slot's, for IMPORT as a type of its own length and of another, and input that is no wrapping. -/
def imported (ps : Nat) : Job := newKey 0x6002 ps 0x800000001 (kwpWrap (List.replicate 32 7) (List.replicate 8 9))

theorem imported_runs (ps : Nat) : OpRuns (withJob (imported ps)) ⟨0, 1⟩ 0x6002 (imported ps) := ⟨rfl, rfl, rfl, rfl⟩

theorem imported_opens : (kwpOpen ((withJob (imported 0x20)).jobSecret 0 (imported 0x20)) (imported 0x20).data.inData).map List.length = some 8 := by decide +kernel

theorem witness_KeyCreation :
    (OpMet 0x6001 (fun s j x => ∃ p, s.jobParent j.die x = some p ∧ needsEntry (BitVec.ofNat 32 (x.sqe.par 0 32)) p = false ∧
      equalHalves (s.newAlg x) (List.replicate 32 1) = false) ∧
    OpMet 0x6001 (fun s j x => ∃ p, s.jobParent j.die x = some p ∧ needsEntry (BitVec.ofNat 32 (x.sqe.par 0 32)) p = true ∧
      (s.rootRec (hierOf p.owner p.scope)).freeEntry = some 1) ∧
    OpMet 0x6001 (fun s j x => (s.jobParent j.die x).isSome ∧ equalHalves (s.newAlg x) (List.replicate 32 1) = true)) ∧
    ((withJob (imported 0x20)).jobParent 0 (imported 0x20)).isSome ∧ (imported 0x20).sqe.symLen = 8 ∧ (imported 3).sqe.symLen ≠ 8 ∧
    OpMet 0x6002 (fun s j x => (s.jobParent j.die x).isSome ∧ kwpOpen (s.jobSecret j.die x) x.data.inData = none) ∧
    OpMet 0x6005 (fun s j x => (s.jobParent j.die x).isSome) ∧ OpMet 0x600E (fun s j x => (s.jobParent j.die x).isSome ∧ s.staged x = none) ∧
    ∃ s j x, OpRuns s j 0x600E x ∧ (s.jobParent j.die x).isSome ∧ (s.staged x).isSome :=
  ⟨⟨opMet (newKey 0x6001 3 1 []) ⟨_, rfl, by decide +kernel, by decide +kernel⟩, opMet (newKey 0x6001 3 0x40 []) ⟨_, rfl, by decide +kernel, by decide +kernel⟩,
    opMet (newKey 0x6001 4 1 []) (by decide +kernel)⟩,
    by decide +kernel, by decide +kernel, by decide +kernel, opMet (newKey 0x6002 1 1 []) (by decide +kernel), opMet (newKey 0x6005 1 1 []) (by decide +kernel), opMet (newKey 0x600E 0 1 []) (by decide +kernel),
    stagedState (newKey 0x600E 0 1 []), ⟨0, 1⟩, _, ⟨rfl, rfl, rfl, rfl⟩, by decide +kernel, by decide +kernel⟩

theorem witness_KeyManagement :
    OpMet 0x6003 (fun s j x => ∃ k, s.jobKey j.die x 0 = some k ∧ s.curveMatches x k = true) ∧ OpMet 0x6004 (fun s j x => (s.jobKey j.die x 0).isSome ∧ (s.jobKey j.die x 1).isSome) ∧
    OpMet 0x6006 (fun s j x => ∃ p, s.jobKey j.die x 0 = some p ∧ p.scope ≠ 2) ∧
    OpMet 0x6007 (fun s j x => hScope x.sqe.handle ≤ 1 ∧ scopeOk x.src.mgr (hScope x.sqe.handle) = true ∧ hIndex x.sqe.handle ≠ 1 ∧
      (s.die j.die).kvd.find ((s.mkWant x .main x.sqe.handle).slotOwner x) (hScope x.sqe.handle) (hIndex x.sqe.handle) (hGen x.sqe.handle) = some 0) ∧
    OpMet 0x6008 (fun s j x => (s.jobKey j.die x 0).isSome ∧ x.data.inData.drop x.pass = []) ∧
    OpMet 0x6009 (fun s j x => ∃ k c, s.jobKey j.die x 0 = some k ∧ (s.jobParent j.die x).isSome ∧ Assoc.get? s.bbram.counters k.hdr.counter.toNat = some c ∧ 2 ≤ c.stop - c.next) ∧
    OpMet 0x600C just ∧ OpMet 0x600D (fun _ _ x => verifierFail x.data.inData = some 0) ∧
    OpMet 0x600D (fun s j x => verifierFail x.data.inData = none ∧ (s.jobKey j.die x 0).isSome ∧ kwpOpen (s.cards.quorum.qtk.take 32) (x.data.inData.drop 4) = none) :=
  ⟨opMet (keyed (job 0x6003 1)) ⟨_, rfl, by decide +kernel⟩, opMet (keyed (job 0x6004 0)) (by decide +kernel), opMet (keyed (job 0x6006 0)) ⟨_, rfl, by decide +kernel⟩,
    opMet { job 0x6007 0 with sqe := { sqe 0x6007 0 with handle := 0x10000002 } } (by decide +kernel), opMet (keyed (job 0x6008 0)) (by decide +kernel),
    opMet (keyed (job 0x6009 0)) ⟨_, _, rfl, by decide +kernel, rfl, by decide +kernel⟩, opMet (job 0x600C 0) trivial, opMet (jobIn 0x600D 0 [64]) (by decide +kernel),
    opMet (keyed (jobIn 0x600D 0 (List.replicate 44 0))) (by decide +kernel)⟩

theorem witness_Attestation :
    OpMet 0xA001 (fun s j x => ∃ k, s.jobKey j.die x 0 = some k ∧ fieldLe k.payload 0 2 ≠ 0xFFFF ∧ fieldLe k.payload 0 2 ≠ 0) ∧
    (∃ s j x, OpRuns s j 0xA001 x ∧ ∃ k, s.jobKey j.die x 0 = some k ∧ fieldLe k.payload 0 2 = 0xFFFF) ∧ OpMet 0xA002 just ∧ OpMet 0xA003 just :=
  ⟨opMet (keyed (job 0xA001 0)) ⟨_, rfl, by decide +kernel, by decide +kernel⟩,
    ⟨(withJob (keyed (job 0xA001 0))).modKvd 0 (fun k => { k with slots := [(0, { aKey with payload := List.replicate 34 0xFF })] }), ⟨0, 1⟩, _, ⟨rfl, rfl, rfl, rfl⟩, _, rfl, by decide +kernel⟩,
    opMet (job 0xA002 0) trivial, opMet (job 0xA003 0) trivial⟩

/-- Job 1 of die 0 on LVE 0, in a phase, with a result or none. -/
def passState (l : Lve) (x : Job) : State :=
  (withJob x).modDie 0 (fun d => { d with lves := d.lves.set 0 (unitOf l) })

/-- A job with a result. -/
def ended (x : Job) : Job := { x with result := some ⟨stOk, 0, 0, []⟩ }

/-- The engine of that job with an owner's program that is END, not accepting, in its only pass. -/
def lveJ (k : BitVec 8) : Lve := holding { lve0 with job := some 1, core := { lve0.core with accept := false }, seq := { lve0.seq with repeatMax := 1 } } .lend (fld k 0)

/-- One with a vendor's program. -/
def lveV (l : Lve) : Lve := { l with seq := { l.seq with text := [], prog := some 0x200201 }, regions := { l.regions with winSize := 64 } }

/-- An engine runs END next. -/
def ends (l : Lve) (k : BitVec 8) : Prop :=
  l.job = some 1 ∧ (unitOf l).endNext = true ∧ (l.seq.prog ≠ none ∨ (unitOf l).executes .lend (fld k 0) = true) ∧ (State.reset.die 0).patch.expansion .lend (fld k 0) l = none

theorem witness_LvePasses :
    ((passState (lveJ 0) (job 0x8001 0)).lve? ⟨0, 0, .none⟩ = some (unitOf (lveJ 0)) ∧ (passState (lveJ 0) (job 0x8001 0)).job? 0 1 = some (job 0x8001 0)) ∧
    (LveOp.lend.valid (fld 0 0) = true ∧ LveOp.lend.valid (fld 1 0) = true ∧ bit (fld 1 0).sub 0 = true ∧ bit (fld 0 0).sub 0 = false) ∧
    (ends (lveJ 0) 0 ∧ (lveJ 0).abortReq = false ∧ (lveJ 0).core.accept = false ∧ (lveJ 0).seq.fault = none ∧ (lveJ 0).seq.repeatMax ≤ (lveJ 0).core.pass.toNat) ∧
    (ends { lveJ 0 with abortReq := true } 0 → { lveJ 0 with abortReq := true }.abortReq = true) ∧
    (let l : Lve := { lveJ 1 with seq := { (lveJ 1).seq with repeatMax := 2 } };
      ends l 1 ∧ l.core.accept = false ∧ l.seq.fault = none ∧ l.core.pass.toNat < l.seq.repeatMax) ∧
    (∀ x ∈ [LveFault.operand 3, .maskBudget], ends { lveJ 0 with seq := { (lveJ 0).seq with fault := some x } } 0) ∧
    (ends { lveJ 0 with core := { (lveJ 0).core with accept := true } } 0 ∧ (lveJ 0).seq.prog = none) ∧
    (ends (lveV (lveJ 0)) 0 ∧ (lveV (lveJ 0)).seq.prog ≠ none ∧ releaseWord (lveV (lveJ 0)) = 0 ∧
      releaseWord { lveV (lveJ 0) with window := (lveV (lveJ 0)).window.writes 60 [0x20] } = 0x20 ∧ (ended (job 0x2002 1)).result = some ⟨stOk, 0, 0, []⟩) ∧
    (let l : Lve := { lveJ 0 with phase := .passWait };
      l.phase = .passWait ∧ (unitOf l).svc.frozen = false ∧ (passState l (job 0x8001 0)).passNeed 0 (unitOf l) (job 0x8001 0) ≤ (unitOf l).svc.maskBuf ∧
        (passState l (job 0x8001 0)).maskLost 0 0 (.lve 0) = false ∧
        ((passState l (job 0x8001 0)).modDie 0 (fun d => { d with rng := { d.rng with disabled := true } })).maskLost 0 4000 (.lve 0) = true) ∧
    ((job 0x1001 0x11).stage = .running ∧ (job 0x1001 0x11).engine = .lve 0 ∧ isMceliece (job 0x1001 0x11).sqe.ps = true ∧ (lveJ 0).phase = .running ∧
      1024 ≤ ({ lveJ 0 with core := { (lveJ 0).core with pass := 1024 } }.core.pass : W16).toNat) := by
  refine ⟨⟨rfl, rfl⟩, ?_, ⟨⟨rfl, ?_, ?_, rfl⟩, ?_⟩, fun _ => rfl, ⟨⟨rfl, ?_, ?_, rfl⟩, ?_⟩, ?_, ⟨⟨rfl, ?_, ?_, rfl⟩, rfl⟩, ⟨⟨rfl, ?_, ?_, rfl⟩, ?_⟩, ?_, ?_⟩ <;>
    first
    | decide +kernel
    | exact fun x hx => ⟨rfl, by revert x; decide +kernel, .inr (by revert x; decide +kernel), rfl⟩


/-! ### Witnesses: engines and dispatch -/

/-- BNE 0 of die 0 so, with job 1 there. -/
def bneState (x : Job) (f : BneUnit → BneUnit) : State := (withJob x).modDie 0 (fun d => { d with bnes := d.bnes.modify 0 f })

/-- SYE 0 of die 0 so, with job 1 there. -/
def syeState (x : Job) (f : SyeUnit → SyeUnit) : State := (withJob x).modDie 0 (fun d => { d with syes := d.syes.modify 0 f })

/-- Job 1 runs in lane 0. -/
def legRuns (u : BneUnit) : BneUnit := { u with running := some false, lane0 := { u.lane0 with job := some 1 } }

/-- Job 1 runs a segment of two or of its last. -/
def segRuns (total : Nat) (u : SyeUnit) : SyeUnit := { u with running := some 0, ctxs := [(0, ⟨1, 0, total, false⟩)] }

theorem witness_EngineSegments :
    (∀ x ∈ [{ job 0x4010 32 with engine := .bne 0 }, { ended (job 0x4002 1) with engine := .bne 0 }, job 0x9005 0x11],
      ((bneState x legRuns).die 0).bnes[0]?.map (fun u => (u.running, (u.lane false).job, u.svc.frozen)) = some (some false, some 1, false) ∧
      (bneState x legRuns).job? 0 1 = some x ∧ x.suppress = false ∧ (bneState x legRuns).pkg.lock = false) ∧
    ({ bneState (job 0x4010 32) legRuns with pkg := { live.pkg with lock := true } }.pkg.lock = true ∧ (job 0x4010 32).result = none ∧
      { job 0x4010 32 with engine := .bne 0 }.engine = .bne 0 ∧ (job 0x9005 0x11).engine ≠ .bne 0 ∧ (ended (job 0x4002 1)).result = some ⟨stOk, 0, 0, []⟩) ∧
    (((bneState (job 0 0) (fun u => { u with lane0 := { u.lane0 with wiping := true } })).die 0).bnes[0]?.map (fun u => ((u.lane false).wiping, (u.lane false).job)) = some (true, none)) ∧
    (∀ n ∈ [1, 2], ((syeState (ended (job 0x5001 0x23)) (segRuns n)).die 0).syes[0]?.map (fun u => (u.running, Assoc.get? u.ctxs 0, u.svc.frozen, u.svc.fenceReq)) =
      some (some 0, some ⟨1, 0, n, false⟩, false, 0)) ∧
    (0 + 1 < 2 ∧ 1 ≤ 0 + 1 ∧ (ended (job 0x5001 0x23)).suppress = false ∧ (ended (job 0x5001 0x23)).failed = none ∧ live.pkg.lock = false ∧
      ({ job 0x5001 0x23 with failed := some (stMachineCheck, 0) }.failed ≠ none) ∧ { SyeUnit.reset with ctxs := [(0, ⟨1, 0, 1, true⟩)] }.ctxs = [(0, (⟨1, 0, 1, true⟩ : SyeCtx))]) ∧
    (((live.modDie 0 (fun d => { d with lves := d.lves.modify 0 (fun u => { u with svc := { u.svc with selfTest := true } }) })).die 0).lves[0]?.map (fun u => u.svc.selfTest) = some true) ∧
    (((bneState (job 0 0) (fun u => { u with svc := { u.svc with selfTest := true } })).die 0).bnes[0]?.map (fun u => u.svc.selfTest) = some true) ∧
    (((syeState (job 0 0) (fun u => { u with svc := { u.svc with selfTest := true } })).die 0).syes[0]?.map (fun u => u.svc.selfTest) = some true) ∧
    (((live.modDie 0 (fun d => { d with patch := { d.patch with refreshPending := true } })).die 0).patch.refreshPending = true ∧ (∀ u ∈ (live.die 0).lves, u.eng.job = none ∧ u.fill = none) ∧
      (patchSet (live.die 0).fuses (bootPatches live.flash 0)).state ≠ 2) := by
  refine ⟨?_, ?_, ?_, ?_, ?_, ?_, ?_, ?_, ?_⟩ <;> decide +kernel

/-- A manager queue with one entry fetched, its head prepared as job 1. -/
def headQueue : Queue := { Queue.reset with
  ctx := { Queue.reset.ctx with rings := { Queue.reset.ctx.rings with ctrl := 0x4402, sqTail := 1 }, state := .active, win := [(0, .copy [])] }
  aux := { Queue.reset.aux with prep := some 1 } }

/-- A package whose queue 0 of die 0 has this job ready at its head. -/
def headState (x : Job) : State := (withJob { x with stage := .ready, engine := .none }).modDie 0 (fun d => { d with queues := [(0, headQueue)] })

/-- What dispatch sees of it. -/
def headView (s : State) (cls : Nat) : State := ((s.pumpDie 0).dropFenced 0 cls).syncDwrr 0 cls

/-- The queue, the job and its opcode whose turn it is on LVE 0. -/
def headTurn (s : State) : Option (Nat × Nat × Nat) :=
  let u := headView s 0
  (u.turn 0 0 ((u.readyHeads 0 0).filter (fun p =>
    (u.lveFree 0 0 (u.maskNeed 0 p.2.2 true) && u.seedRoom 0 p.2.2 && p.2.2.digestDone && u.halfReady 0 p.2.2)
    || (u.lveFree 0 0 0 && decide (u.rngFor 0 p.2.2 (.lve 0) = .fails))))).map (fun p => (p.1, p.2.1, p.2.2.sqe.op))

/-- The queue and the job whose turn it is on BNE 0. -/
def bneTurn (s : State) : Option (Nat × Nat) :=
  let u := headView s 1
  (u.turn 0 1 ((u.readyHeads 0 1).filter (fun p => p.2.2.digestDone && !(((u.die 0).bnes.filterMap (fun v => v.stagedJob.map Prod.snd)).contains p.2.1)))).map
    (fun p => (p.1, p.2.1))

/-- The head with a key that no slot holds. -/
def keyless : Job := { job 0x1002 0x11 with data := { JobData.empty with keys := [5] } }

/-- A composite verification, its digest made. -/
def composite : Job := { job 0x9005 0x11 with data := { JobData.empty with digested := true } }

/-- BNE 0 of that state so. -/
def withBne (s : State) (f : BneUnit → BneUnit) : State := s.modDie 0 (fun d => { d with bnes := d.bnes.modify 0 f })

/-- A signature job, its digest made, ready at the head; with a program running in lane 1; and staged in lane 0. -/
def sigHead : Job := { job 0x4002 1 with data := { JobData.empty with digested := true } }
def sigStates : List State := [headState sigHead, withBne (headState sigHead) (fun u => { u with running := some true, lane1 := { u.lane1 with job := some 9 } }),
  withBne (headState sigHead) (fun u => { u with lane0 := ⟨some 1, true, 0, true, true, false⟩ })]

/-- What BNE 0 would do there: a job staged, a program running, and the lane it would take. -/
def bneSays (s : State) : Option (Option (Bool × Nat) × Option Bool × Option (Bool × Bool)) :=
  ((headView s 1).die 0).bnes[0]?.map (fun b => (b.stagedJob, b.running, b.pick .vq8100 sigHead))

/-- BNE 0 may take the job, which the dispatch checks let run. -/
def sigRuns (s : State) : Bool :=
  let u := headView s 1
  u.bneServes 0 0 && (u.secCheck 0 sigHead).isNone && decide (u.rngFor 0 sigHead (.bne 0) = .serves) && (u.dispatchKeys 0 sigHead).2.isNone &&
    decide (((u.readyHeads 0 1).find? (fun p => decide (p.2.1 = 1))).map (fun p => (p.1, p.2.1)) = some (0, 1))

theorem witness_Dispatching :
    (headTurn (headState (job 0x1002 0x11)) = some (0, 1, 0x1002) ∧ headTurn (headState keyless) = some (0, 1, 0x1002) ∧
      headTurn (headState (job 0x8001 0)) = some (0, 1, 0x8001) ∧ (headView (headState (job 0x8001 0)) 0).program 0 (job 0x8001 0) = none) ∧
    headTurn { headState (job 0x1002 0x11) with pkg := { live.pkg with lock := true } } = some (0, 1, 0x1002) ∧
    ((headView { headState (job 0x1002 0x11) with pkg := { live.pkg with lock := true } } 0).secCheck 0 (job 0x1002 0x11)).isSome ∧
    ((headView (headState (job 0x1002 0x11)) 0).secCheck 0 (job 0x1002 0x11) = none ∧ (headView (headState (job 0x1002 0x11)) 0).rngFor 0 (job 0x1002 0x11) (.lve 0) = .serves) ∧
    (((headView (headState (job 0x1002 0x11)) 0).dispatchKeys 0 (job 0x1002 0x11)).2 = none ∧ ((headView (headState keyless) 0).dispatchKeys 0 keyless).2.isSome) ∧
    (headView ((headState (job 0x1002 0x11)).modDie 0 (fun d => { d with rng := { d.rng with disabled := true } })) 0).rngFor 0 (job 0x1002 0x11) (.lve 0) = .fails ∧
    (headTurn (headState composite) = some (0, 1, 0x9005) ∧ (headView (headState composite) 0).halfPick 0 composite = some (0, false, false) ∧
      (headView (headState composite) 0).secCheck 0 composite = none ∧ ((headView (headState composite) 0).dispatchKeys 0 composite).2 = none ∧
      (let s := (headState composite).modDie 0 (fun d => { d with bnes := d.bnes.map (fun u => { u with lane0 := { u.lane0 with held := true }, lane1 := { u.lane1 with held := true } }) });
        (headView s 0).halfPick 0 composite = some (0, false, true))) ∧
    (sigStates.map (fun s => (bneSays s).map Prod.fst) = [some none, some none, some (some (false, 1))] ∧
      sigStates.map (fun s => (bneSays s).map (fun b => b.2.1)) = [some none, some (some true), some none] ∧
      (sigStates.take 2).map (fun s => (bneSays s).map (fun b => b.2.2)) = [some (some (false, false)), some (some (false, false))] ∧
      (sigStates.take 2).map bneTurn = [some (0, 1), some (0, 1)] ∧
      sigStates.map sigRuns = [true, true, true]) ∧
    BneUnit.pick { BneUnit.reset 0 with lane0 := { BneLane.clear with held := true }, lane1 := { BneLane.clear with held := true } } .vq8100 (job 0x4002 1) = some (false, true) ∧
    (1 : Nat) ≤ 2 ∧ 0 < live.dies.length := by
  refine ⟨?_, ?_, ?_, ?_, ?_, ?_, ?_, ?_, ?_, ?_, ?_⟩ <;> decide +kernel

/-! ### Witnesses: tamper, faults, the Relay -/

/-- Die 0 with a response map word. -/
def mapped (c resp : Nat) : State := live.setReg 0 TMN 0 (if c ≤ 16 then 0x100 else 0x104) (BitVec.ofNat 32 (resp * 4 ^ ((c - 1) % 16)))

theorem witness_TamperResponses :
    ((live.die 0).watching = true ∧ bit (live.die 0).tmn.active 0 = false ∧ classLasting 1 = true ∧ classLasting 3 = false) ∧
    (((mapped 1 2).die 0).watching = true ∧ 2 ≤ ((mapped 1 2).die 0).resp 1 ∧ bit ((mapped 1 2).die 0).tmn.active 0 = false) ∧ ((mapped 1 3).die 0).resp 1 = 3 ∧
    ((mapped 0x0D 3).die 0).resp 0x0D = 3 := by
  refine ⟨?_, ?_, ?_, ?_⟩ <;> decide +kernel

/-- The enclosure inputs in use. -/
def wired (s : State) : State := { s with bbd := { s.bbd with tmpCfg := 0x01010101 } }

theorem witness_BatteryDomain :
    (bits (wired live).bbd.tmpCfg 0 2 ≠ 0 ∧ bits (wired live).bbd.tmpCfg 24 2 ≠ 0 ∧ bit live.bbd.tmpState 3 = false ∧ live.bbd.powered = true ∧ live.pkg.pwrgood = true ∧
      State.reset.pkg.pwrgood = false ∧ State.reset.bbd.powered = true ∧ bits (wired State.reset).bbd.tmpCfg 0 2 ≠ 0) ∧
    (classLasting 0x11 = true ∧ classLasting 0x15 = true ∧ { live with bbd := Bbd.off }.bbd.powered = false) ∧
    (∃ k, k < 24 ∧ bit ((live.modDie 0 (fun d => { d with tmn := { d.tmn with active := 0x100 } })).die 0).tmn.active k = true ∧ ((mapped 9 1).die 0).resp (k + 1) = 1) ∧
    (∀ k, k < 24 → bit (live.die 0).tmn.active k = false) ∧ (0 : W32) ≠ 0x0000C1EA :=
  ⟨by decide +kernel, by decide +kernel, ⟨8, by decide +kernel⟩, by decide +kernel, by decide +kernel⟩

/-- A source counted once. -/
def counted (src : Nat) : State := live.modDie 0 (fun x => x.sourceCounts src)

theorem witness_DipsAndFaults :
    ((live.die 0).watching = true ∧ ((live.modDie 0 (fun d => { d with tmn := { d.tmn with dip := true } })).die 0).tmn.dip = true ∧ 0 < live.dies.length) ∧
    (((live.modDie 0 (fun d => { d with tmn := { d.tmn with throttle := true } })).die 0).tmn.throttle = true ∧ ∀ k, k < 24 → bit (live.die 0).tmn.active k = false) ∧
    (sourceExists 15 = false ∧ sourceExists 592 = true ∧ sourceExists 10 = true ∧ 10 % 32 = 10 ∧ 10 < 512) ∧
    ((∃ src ∈ [0, 592, 640], ((counted src).die 0).fcl.heatSum src < (((counted src).die 0).fcl.heatCfg src).1) ∧
      ∃ src ∈ [640, 663], (((counted src).die 0).fcl.heatCfg src).1 ≤ ((counted src).die 0).fcl.heatSum src) ∧
    (∃ p ∈ ((counted 0).die 0).fcl.heat, ∃ n ∈ p.2.slices.take 15, n ≠ 0) := by
  refine ⟨?_, ?_, ?_, ?_, ?_⟩ <;> decide +kernel

/-- Two dies that boot and vote. -/
def votingState : State :=
  { live2 with
    dies := List.replicate 2 { liveDie with state := .booting }
    baton := { Baton.reset with votes := [(0, [(0, ⟨true, 3, []⟩)]), (1, [(1, ⟨true, 3, []⟩)])] } }

/-- Die 0 after both votes, with its own ACCEPT. -/
def acceptedState : State := (votingState.takeVote 0 1 ⟨true, 3, []⟩).sendAccept 0

theorem witness_RelayElection :
    (voting 0 votingState = true ∧ 1 < votingState.dies.length ∧ ((Assoc.set (votingState.baton.votesAt 0) 1 ⟨true, 3, []⟩ : Assoc Vote)).length = votingState.dies.length ∧
      ((Assoc.set (votingState.baton.votesAt 0) 0 ⟨true, 3, []⟩ : Assoc Vote)).length ≠ votingState.dies.length) ∧
    ((acceptOf (votingState.baton.votesAt 0)).holder = some 0 ∧ codesDiffer (votingState.baton.votesAt 0) = false ∧ codesDiffer [(0, ⟨true, 3, []⟩), (1, ⟨true, 2, []⟩)] = true ∧
      (acceptOf [(0, ⟨false, 3, []⟩)]).holder = none) ∧
    ((acceptedState.die 0).state = .booting ∧ acceptedState.baton.result = .electing ∧ (Assoc.get? ((acceptedState.takeAccept 0 1 (acceptOf [])).baton.acceptsAt 0) 0).isSome) ∧
    ((acceptedState.die 0).onRelay = true ∧ ((Assoc.get? (acceptedState.baton.acceptsAt 0) 0).map AcceptMsg.holder) = some (some 0) ∧
      { acceptedState.baton with committed := some 0 }.committed = some 0) ∧
    (2 ≤ live2.dies.length ∧ (live2.die 1).onRelay = true ∧ beatDiffers ⟨0, 0, 3, live2.electId, false⟩ live2 = false) := by
  refine ⟨?_, ?_, ?_, ?_, ?_⟩ <;> decide +kernel

theorem witness_SplitBaton :
    (live2.baton.result = .clean ∧ (live2.die 1).onRelay = true) ∧ (framesFrom 1 live2 = true ∧ beatDiffers ⟨1, 0, 2, live2.electId, false⟩ live2 = true) ∧
    live2.baton.holder ≠ some 1 ∧ (1 < live2.dies.length ∧ lcCode (lcWord 4) ≠ lcCode (live2.die 1).fuses.lc ∧ live2.lcc.xfer = none) := by
  refine ⟨?_, ?_, ?_, ?_⟩ <;> decide +kernel

/-- Die 0 of the pair with port 0 in a state. -/
def portState (p : PortState) : State := live2.modDie 0 (fun x => { x with ports := x.ports.set 0 ⟨p, 0, false, false⟩ })

theorem witness_RelayLinks :
    (∀ p ∈ [PortState.training, .down, .up], ((portState p).die 0).ports[0]? = some ⟨p, 0, false, false⟩) ∧
    (live2.baton.result = .clean ∧ 1 < live2.dies.length ∧ 1 ≠ live2.baton.holder.getD 0 ∧ (live2.die 1).state = .running ∧ (live2.die 1).onRelay = true ∧ live2.baton.holder ≠ some 1 ∧
      live2.baton.holder = some 0 ∧ live2.baton.result ≠ .split) ∧
    ((live2.modDie 1 (fun x => { x with logOut := [Offer.of 0 1 1 0] })).die 1).logOut = [Offer.of 0 1 1 0] ∧ (live2.die (⟨1, TMN, 0⟩ : PageRef).die).reachable = true ∧
    lcCode (lcWord 4) ≠ lcCode (live2.die 1).fuses.lc ∧ { live2 with baton := Baton.reset }.baton.result ≠ .clean := by
  refine ⟨?_, ?_, ?_, ?_, ?_, ?_⟩ <;> decide +kernel

/-- Die 1 of the pair in a state, with its JOIN outstanding. -/
def joinState (d : DieState) : State :=
  { live2.modDie 1 (fun x => { x with state := d, resetReq := true }) with baton := { live2.baton with joins := [(1, [1])] } }

theorem witness_DieReadmission :
    (live2.baton.result = .clean ∧ live2.baton.holder ≠ some 1 ∧ 1 < live2.dies.length ∧ (live2.die 1).state ≠ .excluded) ∧
    ((joinState .lost).die 1).state = .lost ∧ (((joinState .running).die 1).state ≠ .lost ∧ ((joinState .running).die 1).resetReq = true) ∧
    (((joinState .dieReset).die 1).state = .dieReset ∧ (joinState .dieReset).pkg.railsLow.contains 1 = false ∧ 5 ≠ (joinState .dieReset).lc ∧
      (patchSet ((joinState .dieReset).die 1).fuses (bootPatches (joinState .dieReset).flash 1)).state ≠ 2) ∧
    (((joinState .joining).die 1).state = .joining ∧ (joinState .joining).baton.holder = some 0 ∧ Assoc.get? (joinState .joining).baton.joins 1 = some [1]) := by
  refine ⟨?_, ?_, ?_, ?_, ?_⟩ <;> decide +kernel

/-! ### Witnesses: resets, the host's link and its accesses -/

theorem witness_ColdAndWarmReset :
    (live.pkg.pwrgood = true ∧ live.pkg.perstN = true ∧ live.pkg.railsLow = [] ∧ live.pkg.railsLow.contains 0 = false ∧ live.lcc.xfer = none ∧ 0 < live.dies.length) ∧
    (State.reset.pkg.pwrgood = false ∧ State.reset.pkg.perstN = true ∧ State.reset.pkg.railsLow.contains 0 = false ∧ (State.reset.die 0).state = .inReset) ∧
    ({ State.reset.pkg with perstN := false }.perstN = false ∧ { State.reset.pkg with perstN := false, pwrgood := true }.pwrgood = true) ∧
    ((burning [3] 2).lcc.xfer.map Transition.phase = some 2 ∧ (burning [3] 1).lcc.xfer.map Transition.phase = some 1 ∧ (burning [3] 2).pkg.pwrgood = true) ∧
    (0 < 1 ∧ 1 < live2.dies.length ∧ live2.pkg.railsLow.contains 1 = false ∧ { live2.pkg with railsLow := [0, 1] }.railsLow.contains 1 = true) := by
  refine ⟨?_, ?_, ?_, ?_, ?_⟩ <;> decide +kernel

/-- A directory of one SEQ without its CRC. -/
def dirHead (n : Byte) : List Byte := [0x56, 0x51, 0x44, 0x31, 0, 0, 0, 0, n, 0, 0, 0] ++ List.replicate 260 0

/-- With it. -/
def dirOf (n : Byte) : List Byte := dirHead n ++ leBytes 4 (crc32 (dirHead n))

theorem crcStep_lt (l : List Nat) (c : Nat) (h : c < 2 ^ 32) :
    l.foldl (fun (c : Nat) (_ : Nat) => if c % 2 = 1 then c / 2 ^^^ 0xEDB88320 else c / 2) c < 2 ^ 32 := by
  induction l generalizing c with
  | nil => exact h
  | cons x l ih =>
    refine ih _ ?_
    show (if c % 2 = 1 then c / 2 ^^^ 0xEDB88320 else c / 2) < 2 ^ 32
    split
    · exact Nat.xor_lt_two_pow (by omega) (by norm_num)
    · omega

theorem crc32_lt (bs : List Byte) : crc32 bs < 2 ^ 32 := by
  have h : ∀ (bs : List Byte) (c : Nat), c < 2 ^ 32 → bs.foldl (fun c b => (List.range 8).foldl
      (fun (c : Nat) (_ : Nat) => if c % 2 = 1 then c / 2 ^^^ 0xEDB88320 else c / 2) (c ^^^ b.toNat)) c < 2 ^ 32 := by
    intro bs
    induction bs with
    | nil => exact fun c h => h
    | cons b bs ih => exact fun c h => ih _ (crcStep_lt _ _ (Nat.xor_lt_two_pow h (by have := b.isLt; omega)))
  exact Nat.xor_lt_two_pow (h bs _ (by norm_num)) (by norm_num)

theorem leNat_leBytes4 (x : Nat) (h : x < 2 ^ 32) : leNat (leBytes 4 x) = x := by
  simp [leBytes, leNat]; omega

theorem slice_right (a b : List Byte) : slice (a ++ b) a.length b.length = b := by
  apply List.ext_getElem
  · simp [slice]
  · intro i h1 h2
    simp [slice, List.getD_eq_getElem?_getD, h2]

theorem dirOf_valid (n : Byte) : dirValid (dirOf n) = true := by
  have hl : (dirHead n).length = 272 := by rw [dirHead, List.length_append, List.length_replicate]; rfl
  have h1 : (dirOf n).take 272 = dirHead n := by unfold dirOf; rw [← hl, List.take_left]
  have h3 : fieldLe (dirOf n) 272 4 = crc32 (dirHead n) := by
    have := slice_right (dirHead n) (leBytes 4 (crc32 (dirHead n)))
    rw [hl, leBytes_length] at this
    exact (congrArg leNat this).trans (leNat_leBytes4 _ (crc32_lt _))
  have h4 : (dirOf n).length = 276 := by rw [dirOf, List.length_append, hl, leBytes_length]
  have h5 : (dirOf n).take 4 = [0x56, 0x51, 0x44, 0x31] := rfl
  simp only [dirValid, h1, h3, h4, h5, decide_true, Bool.and_true]
  norm_num

theorem witness_BootAndFlash :
    ({ live with hif := { live.hif with link := .training }, pkg := { live.pkg with ready := false } }.hif.link = .training ∧ live.hif.flrActive = false) ∧
    (dirValid [] = false ∧ dirPick State.reset.flash = none ∧ lcCode (State.reset.bootStepOne.die 0).fuses.lc ≠ 6) ∧
    (dirValid (dirOf 1) = true ∧ dirValid (dirOf 2) = true ∧ dirSeq (dirOf 1) < dirSeq (dirOf 2)) ∧
    ({ live.bfi with running := some (3, 0) }.running = some (3, 0) ∧ { live.bfi with running := some (1, 0) }.running = some (1, 0)) := by
  refine ⟨?_, ?_, ⟨dirOf_valid 1, dirOf_valid 2, ?_⟩, ?_⟩ <;> decide +kernel

theorem witness_LinkResets :
    (live.hif.link = .l0 ∧ live.hif.flrActive = false ∧ { live.hif with d3hot := true }.d3hot = true) ∧
    (live.linkReset.hif.flrActive = true ∧ live.linkReset.hif.link = .l0 ∧ (∀ d ∈ live.linkReset.dies, d.jobs = []) ∧ ∀ p ∈ live.linkReset.insts, p.2.code ≠ .resetting) := by
  refine ⟨?_, ?_⟩ <;> decide +kernel

theorem witness_LinkRequests :
    (live.hif.link = .l0 ∧ live.hif.flrActive = false ∧ (2047 : Nat) < 2048 ∧ (64 : Nat) ≤ 64) ∧
    ({ live.hif with ide := [(64, ⟨1, 0, [], none⟩)] }.stream 64).state = 1 ∧ (live.linkReset.hif.link = .l0 ∧ live.linkReset.hif.flrActive = true) ∧
    ((∀ d ∈ live.dies, d.busy = false) ∧ (∀ p ∈ live.insts, p.2.portal.mb.bufBusy = false) ∧ 16 ∈ [1, 2, 4, 8, 16] ∧ 16 ≤ live.hif.trained.toNat ∧ { live with hif := { live.hif with link := .l1 } }.hif.link = .l1) := by
  refine ⟨?_, ?_, ?_, ?_⟩ <;> decide +kernel

theorem witness_RecordedWrites :
    (live.hif.link = .l0 ∧ live.hif.flrActive = false ∧ (15 : Nat) < 16 ∧ 0 < live.dies.length ∧ (live.die 0).reachable = true ∧ live.writesWait 0 = false) ∧
    (live.deaf 0 MCS 15 0x00C = false ∧ live.alg.stopped = false ∧ State.reset.alg.stopped = true) ∧
    (bits (1 : W32) 0 2 = 1 ∧ bits (2 : W32) 0 2 = 2 ∧ bits (0xA55A0001 : W32) 0 3 = 1 ∧ bits (0xA55A0001 : W32) 16 16 = 0xA55A) ∧
    (1 < live2.dies.length ∧ live2.baton.holder ≠ some 1 ∧ (live2.die 1).state ≠ .excluded ∧ live2.baton.result ≠ .split) := by
  refine ⟨?_, ?_, ?_, ?_⟩ <;> decide +kernel

/-- Instance 5, ACTIVE, changed. -/
def instState (f : Inst → Inst) : State := { live with insts := [(5, f { Inst.free with code := .active })] }

/-- Its portal's staging and attestation registers so. -/
def stagingState (f : PortalKeys → PortalKeys) : State := instState (fun i => { i with portal := { i.portal with keys := f i.portal.keys } })

/-- Its mailbox so. -/
def mailState (f : Mailbox → Mailbox) : State := instState (fun i => { i with portal := { i.portal with mb := f i.portal.mb } })

theorem witness_PortalRequests :
    (live.hif.link = .l0 ∧ live.hif.flrActive = false ∧ ((instState id).inst 5).code = .active ∧ ((instState id).inst 5).work.resetWaiting = false ∧ portalOpen 5 (instState id) = true ∧
      ((instState (fun i => { i with code := .resetting })).inst 5).code = .resetting) ∧
    (bit (1 : W32) 0 = true ∧ bit (1 : W32) 1 = false ∧ bit (1 : W32) 2 = false ∧ bit (5 : W32) 2 = true ∧ ((instState id).inst 5).portal.mb.toFull = false ∧
      ((mailState (fun m => { m with toFull := true })).inst 5).portal.mb.toFull = true ∧ ((mailState (fun m => { m with bufBusy := true })).inst 5).portal.mb.bufBusy = true ∧
      (((mailState (fun m => { m with toMgr := List.replicate 16 64 })).setReg 0 VIM 0 0x200 0x1000).mbArea ≠ 0)) ∧
    ((live.die 0).reachable = true ∧ live.writesWait 0 = false ∧ live.instSel = 0 ∧ InstCode.active.live = true ∧ ((mailState (fun m => { m with fromFull := true })).inst 5).portal.mb.fromFull = true) ∧
    (((stagingState id).inst 5).portal.keys.ksState ≠ 1 ∧ ((stagingState (fun k => { k with ksState := 1, ksErr := 2 })).inst 5).portal.keys.ksErr ≠ 0 ∧
      bits (stageWord 1 0) 3 2 ≠ 0) ∧
    (bit (0x80000000 : W32) 31 = true ∧ ((stagingState id).inst 5).portal.keys.attState ≠ 1 ∧ (live.secCheck 0 (attJob 0)) = none ∧
      ({ live with pkg := { live.pkg with lock := true } }.secCheck 0 (attJob 0)).isSome) ∧
    (∃ (s : State) (j : Nat) (x : Job) (r : Slot), s.job? 0 j = some x ∧ x.failed = none ∧ s.jobKey 0 x 0 = some r ∧ s.pkg.lock = false ∧ r.granted 5 = false) :=
  ⟨by decide +kernel, by decide +kernel, by decide +kernel, by decide +kernel, by decide +kernel, withJob (keyed (job 0xA001 0)), 1, _, _, rfl, rfl, rfl, rfl, by decide +kernel⟩

theorem witness_HostRegisters :
    ((0x10000 : Nat) < 0x1000000 ∧ Machine.pagesOf 0x1B ≤ 0 ∧ Machine.pagesOf LVE = 16) ∧ (live.hif.link = .l0 ∧ live.hif.flrActive = false) ∧
    (0 < live.dies.length ∧ (live.die 0).reachable = true ∧ live.writesWait 0 = false ∧ 0x110018 % 4 = 0) ∧
    ((regRow? LVE 0x018).map (recordedReg LVE 0x018) = some false ∧ live.deaf 0 LVE 15 0x018 = false ∧ live.deaf 0 LVE 0 0x020 = false ∧
      (regRow? LVE 0x01C).map RegRow.acc = some .rw) ∧
    ({ live with baton := { live.baton with code := 1 } }.lc = 1 ∧ live.lc ≠ 1) ∧
    (bit (1 : W32) 0 = true ∧ (Assoc.get? ((live.modFcl 0 (fun f => { f with handling := [(0, ())] })).die 0).fcl.handling (bits (live.reg 0 FCL 0 0x110) 0 6)).isSome = true) ∧
    (fixedRoute 1 = false ∨ fixedRoute 0x10 = false) ∧ (live.bfi.state ≠ 1 ∧ bits (3 : W32) 0 2 = 3 ∧ live.lc ≠ 6) := by
  refine ⟨?_, ?_, ?_, ?_, ?_, ?_, ?_, ?_⟩ <;> decide +kernel

/-! ### Witnesses: queues and reads -/

/-- A manager queue of die 0 with 16 entries, in a state, with indices. -/
def ringQueue (st : QState) (head tail cqh cqt : Nat) : Queue := { Queue.reset with
  ctx := { Queue.reset.ctx with rings := { Queue.reset.ctx.rings with ctrl := 0x4402, sqHead := head, sqTail := tail, cqHead := cqh, cqTail := cqt }, state := st } }

/-- A package with this queue 0. -/
def queueState (q : Queue) : State := live.modDie 0 (fun d => { d with queues := [(0, q)] })

theorem witness_QueueCommands :
    (31 < 2 ^ (4 + 1) ∧ live.hif.link = .l0 ∧ live.hif.flrActive = false ∧ 0 < live.dies.length ∧ (live.die 0).reachable = true ∧ live.writesWait 0 = false) ∧
    (((queueState (ringQueue .active 30 2 30 2)).queue 0 0).ctx.rings.mgr = true ∧ (ringQueue .active 30 2 30 2).ctx.tailOk 14 = true ∧ (ringQueue .active 30 2 30 2).ctx.tailOk 15 = false ∧
      (ringQueue .active 30 2 30 2).ctx.tailOk 1 = false ∧ (ringQueue .active 30 2 30 2).ctx.headOk 2 = true ∧ (ringQueue .active 30 2 30 2).ctx.headOk 3 = false ∧
      (ringQueue .active 30 2 30 2).ctx.headOk 29 = false) ∧
    (portalOpen 5 (instState (fun i => { i with cfg := { i.cfg with homes := [(0, 0)] } })) = true ∧
      ((instState (fun i => { i with cfg := { i.cfg with homes := [(0, 0)] } })).inst 5).home 0 = some (0, 0)) ∧
    ((ringQueue .disabled 0 0 0 0).ctx.state = .disabled ∧ 4 ≤ (ringQueue .disabled 0 0 0 0).ctx.rings.ks ∧ 4 ≤ (ringQueue .disabled 0 0 0 0).ctx.rings.kc ∧
      (ringQueue .disabled 0 0 0 0).ctx.rings.bound = false) ∧
    (bits (0 : W32) 30 2 = 0 ∧ bits (0x40000000 : W32) 30 2 = 1 ∧ bits (0x80000000 : W32) 30 2 = 2 ∧ (ringQueue .error 0 1 0 0).ctx.state = .error ∧
      (ringQueue .error 0 1 0 0).ctx.errCode ≠ 7 ∧ (ringQueue .error 0 1 0 0).ctx.errCode ≠ 8 ∧ (ringQueue .error 0 1 0 0).aux.prep = none ∧
      { (ringQueue .error 0 1 0 0).ctx with errCode := 8 }.errCode = 8) ∧
    ({ (ringQueue .active 0 0 0 0).aux with disableReq := true }.disableReq = true ∧ (ringQueue .active 0 0 0 0).ctx.inflight = 0 ∧ (ringQueue .active 0 0 0 0).ctx.held = [] ∧
      { (ringQueue .active 0 0 0 0).ctx with inflight := 1 }.inflight > 0) ∧
    ({ (ringQueue .active 0 0 0 0).aux with irqTimer := true, irqCount := 1 }.irqCount ≠ 0 ∧ max 1 (bits (ringQueue .active 0 0 0 0).ctx.rings.irq 0 8) ≤ 1) := by
  refine ⟨?_, ?_, ?_, ?_, ?_, ?_, ?_⟩ <;> decide +kernel

/-- A job that waits for its input on channel 0, one read out. -/
def readJob (st : JobStage) : Job := { job 0x5001 0x23 with
  stage := st
  data := { JobData.empty with reads := [partIn], kpcEntry := some 0 } }

/-- Its channel. -/
def chanState (st : ChState) (part remain : Nat) : State :=
  (withJob (readJob .input)).modDie 0 (fun d => { d with chans := d.chans.set 0 { Channel.idle with state := st, job := some 1, part := part, remain := remain } })

/-- A job's channel that has asked for all of its descriptor; its ring is full. -/
def askedState : State := (chanState .active partIn 100).modDie 0 (fun d => { d with chans := d.chans.set 0 { d.chan 0 with dstKind := 3, asked := 100 } })

/-- Channel 12 reads for a job, or for a mailbox. -/
def kvdState (s : State) (what : ReadOf) : State := s.modDie 0 (fun d => { d with kvdReads := [⟨what, 0, 32, none, false, 0, true, true⟩] })

/-- A queue whose slot 0 is being read, for use or to be dropped. -/
def fetching (stale : Bool) : State := queueState { ringQueue .active 0 1 0 0 with ctx := { (ringQueue .active 0 1 0 0).ctx with win := [(0, .reading stale)] } }

theorem witness_QueueReads :
    (∀ b ∈ [false, true], Assoc.get? ((fetching b).queue 0 0).ctx.win 0 = some (.reading b)) ∧
    ((((fetching false).count 0 HIF 0 0x118).modCtx 0 0 (fun c => { c with win := Assoc.erase c.win 0 })).queue 0 0).ctx.state = .active ∧
    ((withJob (readJob .input)).job? 0 1 = some (readJob .input) ∧ partIn ∈ (readJob .input).data.reads ∧ 4 ≤ partIn ∧ partIn ≠ partAux ∧ partIn ≠ partStream) ∧
    ((readJob .fill).data.kpcEntry = some 0 ∧ (readJob .fill).stage = .fill ∧ (readJob .fill).failed = none ∧ (withJob (readJob .fill)).needsPubEntry 0 (readJob .fill) = false ∧
      (readJob .fill).data.leaf = none) ∧
    (((chanState .active partOut 100).die 0).chan 0).job = some 1 ∧ (((chanState .active partOut 100).die 0).chan 0).state = .active ∧
    ((askedState.die 0).chanOf 1 partIn = 0 ∧ ((askedState.die 0).chan 0).got + ((askedState.die 0).chan 0).asked = 100 ∧ (askedState.job? 0 1).isSome = true ∧
      paceBurst 0x1000 8192 0 = 0 ∧ paceBurst 0x1F00 0x2000 0x1000 = 0x100 ∧ paceBurst 0x1000 100 4096 = 100) ∧
    ((100 : Nat) ≤ descBytes ∧ descBytes < 2 ^ 30 ∧ (((chanState .active partOut (2 ^ 30)).die 0).chan 0).remain = 2 ^ 30) ∧
    ((((chanState .pacing partIn 100).die 0).chan 0).state = .pacing ∧ (chanState .pacing partIn 100).syeFill 0 1 ≤ 64 * bits ((chanState .pacing partIn 100).reg 0 DMX 0 0x140) 16 12) := by
  refine ⟨?_, ?_, ?_, ?_, ?_, ?_, ?_, ?_, ?_⟩ <;> decide +kernel

/-! ### Witnesses: cards and the Pacer -/

/-- Card port 1 so, all ports enabled. -/
def cardState (f : CardPort → CardPort) : State := (live.setReg 0 CIU 1 0x010 3).modCard 1 f

/-- Waiting for something. -/
def waiting (w : CardWait) : State := cardState (fun c => { c with present := true, state := .authenticating, wait := w, link := { c.link with vcc := true } })

theorem witness_CardActivation :
    (1 < 4 ∧ ((cardState id).modCard 1 (fun c => { c with detLow := true })).cardLive 1 = true ∧ ((cardState id).cardPort 1).state = .empty) ∧
    (((waiting .none).cardPort 1).present = true ∧ (waiting .none).cards.quorum.ports.contains 1 = false ∧ ((waiting .none).cardPort 1).state ≠ .disabled ∧
      { (waiting .none).cards.quorum with ports := [1] }.ports.contains 1 = true) ∧
    ((waiting .atr).cardLive 1 = true ∧ ((waiting .atr).cardPort 1).wait = .atr ∧ parseAtr [] = none) ∧
    ((parseAtr [0x3B, 0x10, 0x11]).map (fun a => (a.excludes 0, a.ta2, a.ta1)) = some (false, none, some 0x11) ∧ factors? 0x11 = some (372, 1) ∧
      (parseAtr [0x3B, 0x10, 0x13]).map (fun a => (a.excludes 0, a.ta2, a.ta1)) = some (false, none, some 0x13) ∧ factors? 0x13 = some (372, 4)) ∧
    ((waiting .pps).cardLive 1 = true ∧ ((waiting .pps).cardPort 1).wait = .pps ∧ ppsRequest false 0x13 ≠ ppsDefault false ∧ factors? (0x13 : Byte).toNat = some (372, 4)) ∧
    ((waiting .select).cardLive 1 = true ∧ ((waiting .select).cardPort 1).inApdu = true ∧ { ((waiting .select).cardPort 1).link with t1 := true }.t1 = true) ∧
    (bit ((waiting .none).reg 0 CIU 1 0x010) 1 = true ∧ ((waiting .none).cardPort 1).link.vcc = true ∧ ((waiting .none).cardPort 1).wait = .none ∧
      ((waiting .none).cardPort 1).link.clkStop = false ∧ { ((waiting .none).cardPort 1).link with holdNext := some 1 }.holdNext = some 1) := by
  refine ⟨?_, ?_, ?_, ?_, ?_, ?_, ?_⟩ <;> decide +kernel

/-- A roster of one card. -/
def aRoster : Roster := ⟨1, 1, List.replicate 16 0, [⟨List.replicate 16 0, List.replicate 32 0, 1⟩]⟩

theorem witness_CardSessions :
    ((waiting .select).cardLive 1 = true ∧ ((waiting .select).cardPort 1).wait = .select ∧ (⟨0x6A82, []⟩ : CardResp).sw ≠ 0x9000 ∧ (⟨0x9000, []⟩ : CardResp).sw = 0x9000) ∧
    (∀ w ∈ [CardWait.info, .auth, .share, .endSession], ((waiting w).cardPort 1).wait = w) ∧
    ({ live.cards with roster := some aRoster }.roster = some aRoster ∧ (List.replicate 1331 (0 : Byte)).length = 1331 ∧
      aRoster.matching (List.replicate 16 1) (List.replicate 1312 0) 0 = false ∧ (List.replicate 3508 (0 : Byte)).length = 3508 ∧ (List.replicate 49 (0 : Byte)).length = 49) ∧
    ({ live.cards.quorum with present := true }.present = true ∧ (⟨1, 3, [], 0, 0, none, true, []⟩ : Transition).waitQuorum = true) ∧
    (live.cards.quorum.present = false ∧ live.lcc.xfer = none ∧
      aRoster.m ≤ (cardState (fun c => { c with state := .authenticated, session := { c.session with share := some (1, List.replicate 32 0) } })).shares.length) := by
  refine ⟨?_, ?_, ?_, ?_, ?_⟩ <;> decide +kernel

/-- The Pacer of die 0 so, probing enabled. -/
def pacer (f : Pcr → Pcr) : State := (live.setReg 0 PCR 0 0x100 0x30000).modPcr 0 f

theorem witness_PacerProbes :
    (((pacer id).die 0).state = .running ∧ bit ((pacer id).reg 0 PCR 0 0x100) 16 = true ∧ ((pacer id).die 0).pcr.probing = none ∧
      ((pacer id).die 0).pcr.order.find? (fun e => !((pacer id).die 0).passedOver e) = some 0 ∧ ((pacer id).die 0).pcr.order.Nodup) ∧
    (∀ b ∈ [false, true], ((pacer (fun p => { p with probing := some ⟨0, b, 0⟩ })).die 0).pcr.probing = some ⟨0, b, 0⟩) ∧
    (((pacer id).die 0).engineIdle 0 = true ∧ (((withJob (job 0 0)).modDie 0 (fun d => { d with lves := d.lves.set 0 (unitOf { lve0 with job := some 1 }) })).die 0).engineIdle 0 = false) ∧
    ((((pacer id).die 0).emap 0).isSome ∧ ((pacer id).die 0).marginsOk 0 (List.replicate (nClasses 0) 0) = true) ∧
    (mapLen (((pacer id).die 0).floorOf 0) 0 ≤ mapLen (((pacer id).die 0).floorOf 0) 0 ∧ (0 : Int) + 8 ≤ 8 ∧ (8 : Int) - 0 ≤ 8 * (1 : Nat) ∧ (8 : Int) * (1 : Nat) < 8 - 0 + 8) ∧
    (((pacer (fun p => { p with awaiting := true, ramping := some 825 })).die 0).pcr.ramping = some 825 ∧ ((pacer (fun p => { p with ramping := some 825 })).die 0).pcr.awaiting = false ∧
      3 ≤ ((pacer (fun p => { p with avsTries := 3 })).die 0).pcr.avsTries ∧ ((pacer id).die 0).pcr.exhausted = false) := by
  refine ⟨?_, ?_, ?_, ?_, ?_, ?_⟩ <;> decide +kernel

theorem witness_PacerAgeing :
    ((List.replicate 20 (0 : Nat)).length = 20 ∧ ((pacer id).die 0).state = .running ∧ (Pcr.reset 800).stressFrac < 60 * 2 ^ 32) ∧
    (-1280 ≤ (400 : Int) - 400 ∧ (400 : Int) ≤ 800 ∧ -1280 ≤ (-880 : Int) - 400) ∧
    (bit (((pacer id).measure 0 400#11).reg 0 PCR 0 0x100) 17 = true ∧ bit ((live.measure 0 0#11).reg 0 PCR 0 0x100) 17 = bit (live.reg 0 PCR 0 0x100) 17 ∧
      (live.die 0).pcr.skipLevel = 0 ∧ (live.die 0).pcr.skipLevel ≤ 3 ∧ (live.die 0).skipTj ≤ (live.die 0).skipTj) ∧
    (256 * bits (live.reg 0 PCR 0 0x100) 24 8 ≤ (live.die 0).pcr.marginYears) := by
  refine ⟨?_, ?_, ?_, ?_⟩ <;> decide +kernel

/-! ### Witnesses: instances, life cycle, log and backup -/

/-- Job 1 of die 0 and instance 0 in a state. -/
def instJob (x : Job) (c : InstCode) : State := { withJob x with insts := [(0, { Inst.free with code := c })] }

/-- A job whose PARAM has RETIRE, THAW or PREPARE. -/
def flagged (op : Nat) : Job := { job op 0 with sqe := { sqe op 0 with param := 0x10000 } }

/-- The operation runs with its instance in a state. -/
theorem instMet (x : Job) (c : InstCode) (hs : x.stage = .running) (hr : x.result = none) : OpRuns (instJob x c) ⟨0, 1⟩ x.sqe.op x ∧ ((instJob x c).inst 0).code = c :=
  ⟨⟨rfl, hs, rfl, hr⟩, rfl⟩

theorem witness_InstanceLifetime :
    (resetAcceptable 5 (instState (fun i => { i with work := { i.work with resetWaiting := true } })) = true ∧ resetAcceptable 5 (instState id) = false) ∧
    (((instState (fun i => { i with code := .resetting })).inst 5).code = .resetting ∧ (instState id).noJobs 5 = true ∧ ((instState id).inst 5).work.destroyJob = none ∧
      ((instState (fun i => { i with work := { i.work with destroyJob := some (0, 1), freezeJob := some (0, 2) } })).inst 5).work.destroyJob = some (0, 1)) ∧
    (OpMet 0xF001 (fun s _ x => (s.instCreateFail x.data.inData).isSome)) ∧
    (∀ c ∈ [InstCode.free, .freezing, .destroying, .held, .active, .frozen, .resetting], OpRuns (instJob (job 0xF002 0) c) ⟨0, 1⟩ 0xF002 (job 0xF002 0) ∧
      OpRuns (instJob (flagged 0xF002) c) ⟨0, 1⟩ 0xF002 (flagged 0xF002) ∧ OpRuns (instJob (job 0xF003 0) c) ⟨0, 1⟩ 0xF003 (job 0xF003 0) ∧
      OpRuns (instJob (flagged 0xF003) c) ⟨0, 1⟩ 0xF003 (flagged 0xF003) ∧ ((instJob (job 0xF003 0) c).inst 0).code = c) ∧
    (bit (flagged 0xF003).sqe.param 16 = true ∧ bit (job 0xF003 0).sqe.param 16 = false ∧ (flagged 0xF002).paramInst = 0 ∧ (instJob (job 0xF003 0) .active).rehomesOf 0 = []) ∧
    (∃ s : State, s.alg.stopped = false ∧ 330 < s.drain.alg.free ∧ s.pkg.lock = false) ∧
    ({ instJob (flagged 0xF002) .held with cards := { live.cards with quorum := { live.cards.quorum with present := true } } }.retireOk (flagged 0xF002) 0 = true) :=
  ⟨by decide +kernel, by decide +kernel, opMet (job 0xF001 0) (by decide +kernel),
    fun c _ => ⟨(instMet (job 0xF002 0) c rfl rfl).1, (instMet (flagged 0xF002) c rfl rfl).1, (instMet (job 0xF003 0) c rfl rfl).1, (instMet (flagged 0xF003) c rfl rfl).1, rfl⟩,
    by decide +kernel, ⟨live, by decide +kernel⟩, by decide +kernel⟩

/-- Die 0 and die 1 with a bound queue of instance 0 on die 0. -/
def rehomeState (st : QState) (job : Option (Nat × Nat)) (time : Nat) : State :=
  { live2.modDie 0 (fun d => { d with queues := [(0, { ringQueue st 0 0 0 0 with
      ctx := { (ringQueue st 0 0 0 0).ctx with rings := { (ringQueue st 0 0 0 0).ctx.rings with ctrl := 0x80004400 } }
      aux := { Queue.reset.aux with rehomeTo := some 1, rehomeJob := job, lveTime := time } })] }) with
    insts := [(0, { Inst.free with code := .active, cfg := { InstCfg.none with dies := 3, homes := [(0, 0)] } })] }

theorem witness_InstanceMovement :
    (∀ c ∈ [InstCode.free, .reserved, .active, .freezing, .frozen, .saved], OpRuns (instJob (job 0xF004 0) c) ⟨0, 1⟩ 0xF004 (job 0xF004 0) ∧
      OpRuns (instJob (job 0xF005 0) c) ⟨0, 1⟩ 0xF005 (job 0xF005 0) ∧ OpRuns (instJob (flagged 0xF005) c) ⟨0, 1⟩ 0xF005 (flagged 0xF005) ∧
      OpRuns (instJob (job 0xF007 0) c) ⟨0, 1⟩ 0xF007 (job 0xF007 0) ∧ OpRuns (instJob (keyed (job 0xF004 0)) c) ⟨0, 1⟩ 0xF004 (keyed (job 0xF004 0))) ∧
    ((instJob (keyed (job 0xF004 0)) .frozen).jobKey 0 (keyed (job 0xF004 0)) 1).isSome ∧ (instJob (job 0xF005 0) .reserved).openImage 0 [] [] = none ∧
    (((rehomeState .active none 0).inst 0).home 0 = some (0, 0) ∧ ((rehomeState .active none 0).queue 0 0).ctx.state = .active ∧ bit ((rehomeState .active none 0).inst 0).cfg.dies 1 = true ∧
      1 < (rehomeState .active none 0).dies.length ∧ ((rehomeState .active none 0).die 1).freeCtx ≠ none ∧ ((rehomeState .active none 0).queue 0 0).aux.rehomeJob ≠ some (0, 1)) ∧
    (((rehomeState .rehoming (some (0, 1)) 0).queue 0 0).ctx.state = .rehoming ∧ ((rehomeState .rehoming none 0).queue 0 0).ctx.inflight = 0 ∧
      ((rehomeState .rehoming none 0).queue 0 0).ctx.held = [] ∧ ((rehomeState .rehoming none 0).queue 0 0).aux.rehomeTo = some 1 ∧ ((rehomeState .rehoming none 0).die 1).freeCtx = some 0) ∧
    (bit (((rehomeState .active none 9).setReg 0 VIM 0 0x210 1).reg 0 VIM 0 0x210) 0 = true ∧ bestDie [(0, 9), (1, 0)] (fun a b => decide (b < a)) = some (0, 9) ∧
      bestDie [(0, 9), (1, 0)] (fun a b => decide (a < b)) = some (1, 0) ∧ (rehomeState .active none 9).autoRehoming = false ∧ (rehomeState .active none 9).balanceQueue 0 1 = some 0) :=
  ⟨fun c _ => ⟨(instMet (job 0xF004 0) c rfl rfl).1, (instMet (job 0xF005 0) c rfl rfl).1, (instMet (flagged 0xF005) c rfl rfl).1, (instMet (job 0xF007 0) c rfl rfl).1,
      (instMet (keyed (job 0xF004 0)) c rfl rfl).1⟩,
    by decide +kernel, by decide +kernel, by decide +kernel, by decide +kernel, by decide +kernel⟩

/-- A job with a target state in PARAM. -/
def toState (op target : Nat) : Job := { job op 0 with sqe := { sqe op 0 with param := BitVec.ofNat 64 target } }

theorem witness_LifecycleJobs :
    OpMet 0xF020 (fun s _ x => s.lcc.xfer = none ∧ s.pkg.lock = false ∧ x.targetOk s.lc s.oskValid = true ∧ x.sqe.par 0 4 ≠ s.lc ∧ x.sqe.par 0 4 = 4 ∧ s.cards.quorum.present = false) ∧
    OpMet 0xF020 (fun s _ x => x.targetOk s.lc s.oskValid = false) ∧ OpMet 0xF020 (fun s _ x => x.targetOk 3 false = true ∧ x.sqe.par 0 4 = s.lc ∧ s.oskValid = false) ∧
    (∀ p ∈ [(1, 2), (2, 3), (4, 5), (5, 6)], (toState 0xF020 p.2).targetOk p.1 true = true) ∧
    OpMet 0xF020 (fun s _ x => (s.tokenFail x.data.inData (lcWord 5) 6 true false).isSome ∧ (s.provisionFail x.data.inData).isSome) ∧
    OpMet 0xF021 (fun s _ _ => s.lc ≠ 0xF) ∧ (lcBase [lcWord 3 ||| 1] = some 3 ∧ (lcWord 3 ||| lcWord 4 = lcWord 4)) ∧
    OpMet 0xF030 (fun s _ _ => s.alg.stopped = false) ∧ OpMet 0xF031 (fun s _ _ => s.pkg.lock = false ∧ 330 < s.alg.free ∧ s.splitClearable = true ∧ s.blockingClass = none) ∧
    OpMet 0xF010 (fun s _ x => (s.die 0).mha.state ≠ .open_ ∧ (s.die 0).kvd.derived.isSome ∧ (s.bfi.entries.getD (x.sqe.par 0 4) ⟨0, 0, 0, 0⟩).type ≠ 6) ∧
    OpMet 0xF040 (fun s j _ => s.alg.stopped = false ∧ s.drainBusy j.die j.job = false) :=
  ⟨opMet (toState 0xF020 4) (by decide +kernel), opMet (toState 0xF020 6) (by decide +kernel), opMet (toState 0xF020 3) (by decide +kernel), by decide +kernel,
    opMet (toState 0xF020 6) (by decide +kernel), opMet (job 0xF021 0) (by decide +kernel), by decide +kernel, opMet (job 0xF030 0) (by decide +kernel),
    opMet (job 0xF031 0) (by decide +kernel), opMet (job 0xF010 0) (by decide +kernel), opMet (job 0xF040 0) (by decide +kernel)⟩

/-- A log that holds `n` checkpoints. -/
def logged (n : Nat) : State := { live with alg := { live.alg with slots := List.replicate n (LogSlot.checkpoint [] [] (some [])) } }

theorem witness_AuditLog :
    ({ live.alg with offers := [Offer.of 1 0 1 0] }.offers = Offer.of 1 0 1 0 :: [] ∧ live.alg.stopped = false ∧ live.alg.ckptDue = false ∧ State.reset.alg.stopped = true) ∧
    ((logged 221).alg.free ≤ 74 ∧ (Offer.of 1 0 1 0).kind ≠ 4 ∧ 74 < (logged 218).alg.free ∧ (logged 218).alg.free ≤ 330 ∧ (logged 218).alg.missed = 0 ∧
      330 < live.alg.free ∧ { live.alg with missed := 1 }.missed ≠ 0) ∧
    ((Offer.of 1 0 1 0).fromRecord = false ∧ (Offer.of 4 0 1 0).refusable = false ∧ { Offer.of 1 0 1 0 with refusable := true }.refusable = true) ∧
    ({ live.alg with ckptDue := true }.ckptDue = true ∧ 74 ≤ live.alg.free) ∧
    (∃ l : List LogSlot, l = [LogSlot.entry []] ++ LogSlot.checkpoint [] [] none :: [] ∧ ∀ x ∈ [LogSlot.entry []], x.unsigned = false) := by
  exact ⟨by decide +kernel, by decide +kernel, by decide +kernel, by decide +kernel, _, rfl, by decide +kernel⟩

/-- A backup operation of job 1. -/
def bkOf (x : Job) (o : BkJob) (st : BkState) : State := { withJob x with bmp := { Bmp.empty with state := st, present := true, op := some o, blocks := 100 } }

/-- Its state at its first record. -/
def aBk (step : Nat) (wait : Bool) : BkJob := ⟨0, 1, true, step, [], 0, 0, 2, [], List.replicate 512 0, [], 0, [(0, 1)], 0, 1, 0, true, wait⟩

theorem witness_BackupVolumes :
    ((State.reset.die 0).state ≠ .running ∧ (live.die 0).state = .running ∧ live.bmp.state = .empty ∧ (⟨true, 0, 0, true, true, [], []⟩ : BkIdent).accepted = true ∧ live.bmp.op = none) ∧
    ((aBk 0 true).waiting = true ∧ (aBk 0 true).sameVolume [] = false ∧ ((bkOf (job 0x600A 0) (aBk 0 true) .ready).job? 0 1).isSome = true) ∧
    (∀ st ∈ [BkState.ready, .transfer, .busy], (bkOf (job 0x600A 0) (aBk 0 false) st).bmp.state = st) ∧ ((3 : Nat) ≤ 3 ∧ (2 : Nat) < 3) ∧
    OpMet 0x600A (fun s _ x => s.bkOp = none ∧ (selectionFail x.data.inData 0 4).isSome) ∧ OpMet 0x600A (fun s _ x => s.bkOp = none ∧ selectionFail x.data.inData 0 4 = none) ∧
    OpMet 0x600B (fun s _ x => s.bkOp = none ∧ selectionFail x.data.inData 4 8 = none ∧ bkScope x.src.mgr (hScope (BitVec.ofNat 32 (fieldLe x.data.inData 0 4))) = false) ∧
    (OpRuns (bkOf (job 0x600A 0) (aBk 0 false) .ready) ⟨0, 1⟩ 0x600A (job 0x600A 0) ∧ (bkOf (job 0x600A 0) (aBk 0 false) .ready).bkOp = some (aBk 0 false) ∧
      1 + (aBk 0 false).blocks ≤ (bkOf (job 0x600A 0) (aBk 0 false) .ready).bmp.blocks ∧ (aBk 2 false).items.length < (aBk 2 false).step ∧ 1 ≤ (aBk 1 false).step) :=
  ⟨by decide +kernel, by decide +kernel, by decide +kernel, by decide +kernel, opMet (job 0x600A 0) (by decide +kernel),
    opMet (jobIn 0x600A 0 [1, 0, 0, 0, 2, 0, 0, 0x10]) (by decide +kernel), opMet (jobIn 0x600B 0 [0, 0, 0, 0, 1, 0, 0, 0, 0, 0, 0, 0, 0, 0, 0, 0]) (by decide +kernel),
    ⟨rfl, rfl, rfl, rfl⟩, by decide +kernel, by decide +kernel⟩

theorem witness_SoundKept : State.reset.Sound ∧ ∃ t, step State.reset = .next t := by
  exact ⟨⟨fun h => (by cases h), rfl, fun p hp => (by cases hp), fun p hp => (by cases hp), fun h => (by cases h)⟩, _, rfl⟩
theorem witness_StepRunsFront : State.reset.bbd.powered = true ∧ { State.reset.bbd with powered := false }.powered = false := ⟨rfl, rfl⟩

/-! ### Witnesses of further clauses -/

/-- A key of an XMSS set, and its job's package in which record 3 is that key's. -/
def xKey : Slot := { aKey with hdr := { aKey.hdr with algId := 0x3080 } }

theorem keyId_xmss (s : State) (k : Slot) (t : Stf) (h : stf? (bits k.hdr.algId 0 8) = some t) (hx : t.xmss = true) :
    s.keyId k = keyIdOf (bits k.hdr.algId 0 8) 1 k.payload := by
  simp [State.keyId, State.stfLevels, h, hx]

/-- That package. -/
def xState (x : Job) (left : Nat) : State :=
  { (withJob x).modKvd 0 (fun k => { k with slots := [(0, xKey), (1, aKey)] }) with
    bbram := { Bbram.empty with counters := [(3, ⟨keyIdOf 0x80 1 (List.replicate 32 7), ownerShared, 1024 - left, 1024⟩)] } }

theorem xState_keyId (x : Job) (left : Nat) : (xState x left).keyId xKey = keyIdOf 0x80 1 (List.replicate 32 7) := by
  have h : ∃ t, stf? (bits xKey.hdr.algId 0 8) = some t ∧ t.xmss = true := ⟨_, rfl, rfl⟩
  obtain ⟨t, ht, hx⟩ := h
  rw [keyId_xmss _ _ t ht hx]
  rfl

/-- Instance 0 may have this many counter records. -/
def quotaState (x : Job) (n : Nat) : State := { withJob x with insts := [(0, { Inst.free with cfg := { InstCfg.none with counterQ := n } })] }

theorem witness_LveOperations_more :
    ((quotaState (keyed (job 0x3001 0x80)) 0).counterFull 0 = true ∧ (quotaState (keyed (job 0x3001 0x80)) 9).counterFull 0 = false ∧
      (∀ k, k < 0 → Assoc.get? (quotaState (keyed (job 0x3001 0x80)) 9).bbram.counters k ≠ none) ∧
      Assoc.get? (quotaState (keyed (job 0x3001 0x80)) 9).bbram.counters 0 = none ∧ OpRuns (quotaState (keyed (job 0x3001 0x80)) 9) ⟨0, 1⟩ 0x3001 (keyed (job 0x3001 0x80))) ∧
    (∃ s j x k c, OpRuns s j 0x3004 x ∧ s.jobKey j.die x 0 = some k ∧ Assoc.get? s.bbram.counters k.hdr.counter.toNat = some c ∧ c.keyId = s.keyId k) ∧
    (∀ n ∈ [1, 2], ∃ s j x k p c, OpRuns s j 0x6009 x ∧ s.jobKey j.die x 0 = some k ∧ s.jobParent j.die x = some p ∧ Assoc.get? s.bbram.counters k.hdr.counter.toNat = some c ∧
      c.keyId = s.keyId k ∧ c.stop - c.next = n) ∧
    OpMet 0x1001 (fun _ _ x => isMceliece x.sqe.ps = true) ∧ OpMet 0x2002 (fun _ _ x => (sigSizes x.sqe.ps).isSome ∧ x.sqe.ps ≤ 3) ∧
    OpMet 0x2002 (fun _ _ x => (sigSizes x.sqe.ps).isSome ∧ 3 < x.sqe.ps) ∧ OpMet 0x1802 (fun _ _ x => x.sqe.ps ≤ 3 ∧ kemKeyOk (x.data.auxData.take 800) = true) ∧
    OpMet 0x600E (fun s j x => (s.jobParent j.die x).isSome ∧ x.data.staged.isSome = true) ∧ OpMet 0x600E (fun s j x => (s.jobParent j.die x).isSome ∧ x.data.staged = none) ∧
    (OpMet 0x600C (fun s j x => (s.imageFail x (s.jobSecret j.die x) x.data.inData).isSome)) := by
  refine ⟨⟨by decide +kernel, by decide +kernel, fun k hk => absurd hk (Nat.not_lt_zero k), by decide +kernel, rfl, rfl, rfl, rfl⟩,
    ⟨xState (keyed (job 0x3004 0x80)) 9, ⟨0, 1⟩, _, xKey, _, ⟨rfl, rfl, rfl, rfl⟩, rfl, rfl, (xState_keyId _ 9).symm⟩, ?_,
    opMet (keyed (job 0x1001 0x11)) rfl, opMet (job 0x2002 1) (by decide +kernel), opMet (job 0x2002 0x26) (by decide +kernel),
    opMet { job 0x1802 1 with data := { JobData.empty with auxData := List.replicate 800 0 } } (by decide +kernel),
    opMet { newKey 0x600E 0 1 [] with data := { (newKey 0x600E 0 1 []).data with staged := some ⟨3, 1, List.replicate 32 5⟩ } } (by decide +kernel),
    opMet (newKey 0x600E 0 1 []) (by decide +kernel), opMet (keyed (job 0x600C 0)) (by decide +kernel)⟩
  intro n hn
  have h : n = 1 ∨ n = 2 := by simpa using hn
  rcases h with rfl | rfl
  · exact ⟨xState (keyed (job 0x6009 0)) 1, ⟨0, 1⟩, _, xKey, aKey, _, ⟨rfl, rfl, rfl, rfl⟩, rfl, rfl, rfl, (xState_keyId _ 1).symm, rfl⟩
  · exact ⟨xState (keyed (job 0x6009 0)) 2, ⟨0, 1⟩, _, xKey, aKey, _, ⟨rfl, rfl, rfl, rfl⟩, rfl, rfl, rfl, (xState_keyId _ 2).symm, rfl⟩

/-- An agreement on P-256 with this point. -/
def agree (b : List Byte) : Job := keyed (jobIn 0x4004 1 b)

theorem witness_EcOperations_more :
    OpMet 0x4004 (fun _ _ x => x.data.inData.getD 0 0 ≠ 0x04#8) ∧
    OpMet 0x4004 (fun _ _ x => x.data.inData.getD 0 0 = 0x04#8 ∧ x.weier.p ≤ beNat (slice x.data.inData 1 x.weier.len)) ∧
    OpMet 0x4004 (fun s j x => x.data.inData.getD 0 0 = 0x04#8 ∧ beNat (slice x.data.inData 1 x.weier.len) < x.weier.p ∧ beNat (slice x.data.inData (1 + x.weier.len) x.weier.len) < x.weier.p ∧
      s.scalar j.die x % x.weier.n = 0) ∧
    OpMet 0x4004 (fun s j x => x.data.inData.getD 0 0 = 0x04#8 ∧ beNat (slice x.data.inData 1 x.weier.len) < x.weier.p ∧ beNat (slice x.data.inData (1 + x.weier.len) x.weier.len) < x.weier.p ∧
      s.scalar j.die x % x.weier.n ≠ 0 ∧ x.weier.on (beNat (slice x.data.inData 1 x.weier.len)) (beNat (slice x.data.inData (1 + x.weier.len) x.weier.len)) = false) ∧
    (∀ n ∈ [4, 5], (jobIn 0x4004 n (List.replicate 56 0)).sqe.ps = n) ∧ (∀ b ∈ (montOf 4).apply (List.replicate 32 0) (List.replicate 32 0), b = 0) ∧
    ∃ b ∈ (montOf 4).apply (List.replicate 32 7) (List.replicate 32 9), b ≠ 0 := by
  exact ⟨opMet (agree [0]) (by decide +kernel), opMet (agree (0x04#8 :: List.replicate 64 0xFF)) (by decide +kernel),
    opMet (jobIn 0x4004 1 (0x04#8 :: List.replicate 64 1)) (by decide +kernel), opMet (agree (0x04#8 :: List.replicate 64 1)) (by decide +kernel), by decide +kernel, by decide +kernel,
    by decide +kernel⟩

theorem witness_CurveAndRsaOperations_more :
    (OpMet 0x4812 (fun _ _ x => x.data.inData.length = 1 + x.sqe.rsaK ∧ x.rsaPub.1 % 2 = 1 ∧ 2 ^ (8 * x.sqe.rsaK - 1) ≤ x.rsaPub.1 ∧ (x.rsaPub.2 % 2 = 0 ∨ x.rsaPub.2 < 3)) ∧
      (∀ n ∈ [0, 0xFF], OpMet 0x4812 (fun _ _ x => x.data.inData.length = x.sqe.rsaK ∧ (x.rsaPub.1 ≤ beNat x.data.inData ↔ n = 0xFF))) ∧
      OpMet 0x4012 (fun s j x => x.data.inData.length = 1 + x.sqe.rsaK ∧ (s.rsaKey j.die x).n ≤ beNat (x.data.inData.drop 1)) ∧
      OpMet 0x4014 (fun s j x => (s.rsaKey j.die x).n ≤ beNat x.data.inData)
      ∧ ∃ s j x, OpRuns s j 0x4014 x ∧ beNat x.data.inData < (s.rsaKey j.die x).n) ∧
    (State.reset.curveRoom 0 0 ⟨256, []⟩ = none ∧
      (({ live with insts := [(0, { Inst.free with code := .active, cfg := { InstCfg.none with kpcQ := 64 } })] } : State).curveRoom 0 0 ⟨256, []⟩).isSome = true) := by
  refine ⟨⟨opMet { job 0x4812 32 with data := { JobData.empty with inData := List.replicate 257 0, auxData := List.replicate 256 0xFF ++ [0, 0, 0, 1] } } (by decide +kernel), ?_,
    opMet (keyed (jobIn 0x4012 32 (List.replicate 257 0xFF))) (by decide +kernel), opMet (keyed (jobIn 0x4014 32 (List.replicate 256 0xFF))) (by decide +kernel),
    (withJob (keyed (jobIn 0x4014 32 (List.replicate 256 0)))).modKvd 0 (fun k => { k with slots := [(0, { aKey with payload := List.replicate 640 7 })] }), ⟨0, 1⟩, _,
      ⟨rfl, rfl, rfl, rfl⟩, by decide +kernel⟩, ?_⟩
  · intro n hn
    have h : n = 0 ∨ n = 0xFF := by simpa using hn
    rcases h with rfl | rfl
    · exact opMet (rsaExt 0x4812 (List.replicate 256 0)) (by decide +kernel)
    · exact opMet (rsaExt 0x4812 (List.replicate 256 0xFF)) (by decide +kernel)
  · constructor <;> decide +kernel

theorem witness_HybridOperations_more :
    OpMet 0x9802 (fun _ _ x => x.sqe.ps = 2 ∧ kemKeyOk (x.data.auxData.take (hybPub 2)) = true ∧
      (firstFlag (hybFlags 2 (x.data.auxData.drop (hybPub 2)) (hybPub 2) 1)).isSome = true) ∧
    hybShared 1 (List.replicate 32 0) (List.replicate 32 0) = none ∧ (hybShared 1 (List.replicate 32 7) (List.replicate 32 9)).isSome = true :=
  ⟨opMet { job 0x9802 2 with data := { JobData.empty with auxData := List.replicate (hybPub 2 + 97) 0 } } (by decide +kernel), by decide +kernel, by decide +kernel⟩

theorem witness_RandomGenerator_more :
    ((rngState (fun r => { r with recovering := true })).die 0).rng.asked true = .fails ∧ ((rngState (fun r => { r with disabled := true })).die 0).rng.disabled = true ∧
    (2 ^ 20 ≤ ((rngState (fun r => { r with reqs := 2 ^ 20 })).die 0).rng.reqs ∧ 1 ≤ ((rngState (fun r => { r with reqs := 2 ^ 20 })).die 0).rng.pool) ∧
    8 * 2 ^ 20 ≤ ((rngState (fun r => { r with feedBytes := 8 * 2 ^ 20 })).die 0).rng.feedBytes ∧ ((live.die 0).rng.asked false = .serves) := by decide +kernel

/-! Queues: an entry that is being discarded, and the mailbox's buffer. -/

/-- The queue waits for the reads of an earlier request. -/
def invalidating : State := queueState { ringQueue .active 0 1 0 0 with ctx := { (ringQueue .active 0 1 0 0).ctx with win := [(0, .reading true)], invWait := [0], invDone := false } }

theorem witness_QueueCommands_more :
    (invalidating.queue 0 0).ctx.invWait ≠ [] ∧ ((queueState (ringQueue .error 0 1 0 0)).queue 0 0).ctx.invWait = [] ∧
    ((queueState (ringQueue .error 0 1 0 0)).queue 0 0).ctx.state = .error ∧ (invalidating.queue 0 0).ctx.state ≠ .error ∧
    Assoc.get? (invalidating.queue 0 0).ctx.win 0 = some (.reading true) ∧ { (ringQueue .active 0 1 0 0).aux with irqTimer := true }.irqTimer = true := by decide +kernel

/-- A key encapsulation whose public key an LVE expands again. -/
def filling : Job := { readJob .fill with sqe := sqe 0x1003 1 }

theorem witness_QueueReads_more :
    (filling.data.kpcEntry = some 0 ∧ filling.stage = .fill ∧ filling.failed = none ∧ filling.data.leaf = none ∧ (withJob filling).needsPubEntry 0 filling = false ∧
      (withJob filling).fillsOnLve 0 filling = true ∧
      ∃ u ∈ (((withJob filling).modDie 0 (fun d => { d with lves := d.lves.modify 0 (fun u => { u with fill := some 1 }) })).die 0).lves, u.fill = some 1) ∧
    ((chanState .active partOut 100).job? 0 1).isSome = true ∧ (13 ≤ 13 ∧ 13 < 16 ∧ 0 < live.dies.length) := by
  refine ⟨⟨rfl, rfl, rfl, rfl, by decide +kernel, by decide +kernel, _, List.mem_of_getElem? (i := 0) rfl, rfl⟩, by decide +kernel, by decide +kernel⟩

theorem witness_PortalRequests_more :
    ((kvdState (mailState (fun m => { m with bufBusy := true })) (.mailbox 5)).kvdSent 0 (.mailbox 5) = true ∧ live.kvdOpen 0 = true ∧ (live.die 0).kvdReads = [] ∧ ((mailState (fun m => { m with bufBusy := true })).inst 5).portal.mb.bufData = none ∧
      live.hostOpen = true ∧ { live with hif := { live.hif with busMaster := false } }.hostOpen = false) ∧
    (((stagingState (fun k => { k with ksState := 1, ksErr := 0 })).inst 5).portal.keys.ksErr = 0 ∧ bits ((stagingState id).inst 5).portal.keys.ksCmd 3 2 = 0) ∧
    ((instState (fun i => { i with work := { i.work with resetWaiting := true } })).inst 5).work.resetWaiting = true ∧
    (aKey.granted 5 = false ∧ { aKey with payload := List.replicate 34 0xFF }.granted 5 = true) := by decide +kernel

theorem witness_PacerProbes_more :
    ((0 : Nat) ≤ 8 ∧ (0 : Nat) < 8 ∧ 7 < 8 * mapLen (((pacer id).die 0).floorOf 0) 0) ∧ (((pacer (fun p => { p with probing := some ⟨0, true, 400⟩ })).die 0).pcr.probing = some ⟨0, true, 400⟩) ∧
    (∃ n : Nat, (0 : Int) < 8 ∧ (8 : Int) - 0 ≤ 8 * n ∧ (8 : Int) * n < 8 - 0 + 8) := ⟨by decide +kernel, by decide +kernel, 1, by decide⟩

theorem witness_InstanceLifetime_more :
    (∀ c ∈ [InstCode.saved, .reserved], OpRuns (instJob (job 0xF002 0) c) ⟨0, 1⟩ 0xF002 (job 0xF002 0) ∧ ((instJob (job 0xF002 0) c).inst 0).code = c ∧
      ((instJob (job 0xF002 0) c).inst 0).work.destroyJob = none) ∧
    (OpMet 0xF001 (fun s j x => ((s.pageStep j.die j.job VIM 0 1 3).instCreateFail x.data.inData).isSome)) ∧
    (CommitOpen ((instJob (job 0xF002 0) .active).pageStep 0 1 VIM 0 1 3) (job 0xF002 0) ∧ ((instJob (job 0xF002 0) .active).pageStep 0 1 VIM 0 1 3).alg.stopped = false ∧
      330 < ((instJob (job 0xF002 0) .active).pageStep 0 1 VIM 0 1 3).drain.alg.free) := by
  refine ⟨fun c _ => ⟨⟨rfl, rfl, rfl, rfl⟩, rfl, rfl⟩, opMet (job 0xF001 0) (by decide +kernel), ⟨?_, ?_, ?_⟩, ?_, ?_⟩ <;> decide +kernel

/-- A package whose quorum is present and which is in LOCK. -/
def quorate (s : State) : State := { s with pkg := { s.pkg with lock := true }, cards := { s.cards with quorum := { s.cards.quorum with present := true } } }

theorem witness_LifecycleJobs_more :
    OpMet 0xF020 (fun s _ x => let u := s.progress 0 LCC 0 0 0
      s.lcc.xfer = none ∧ u.pkg.lock = false ∧ x.targetOk u.lc u.oskValid = true ∧ u.alg.stopped = false ∧ 330 < u.alg.free ∧ x.sqe.par 0 4 ≠ u.lc ∧ x.sqe.par 0 4 = 4 ∧
        u.cards.quorum.present = false) ∧
    (burning [3] 2).lcc.xfer.map Transition.job ≠ some (some (0, 1)) ∧ ((quorate (withJob (job 0xF031 0))).pkg.lock = true ∧
      (quorate (withJob (job 0xF031 0))).cards.quorum.present = true ∧ 330 < (quorate (withJob (job 0xF031 0))).alg.free ∧
      (quorate (withJob (job 0xF031 0))).ticketOk (job 0xF031 0) [] = false) ∧
    ({ quorate (withJob (job 0xF031 0)) with cards := { (quorate (withJob (job 0xF031 0))).cards with quorum := Quorum.absent } }.cards.quorum.present = false) ∧
    OpMet 0xF040 (fun s j x => s.drainBusy j.die j.job = false ∧ (s.pageStep j.die j.job ALG s.algDie 1 1024).alg.stopped = false ∧
      (takeSlots (s.pageStep j.die j.job ALG s.algDie 1 1024).alg.slots (x.sqe.outCap.toNat / 64)).flatMap LogSlot.bytes = []) :=
  ⟨opMet (toState 0xF020 4) (by decide +kernel), by decide +kernel, by decide +kernel, by decide +kernel, opMet (job 0xF040 0) (by decide +kernel)⟩
/-! ### Witnesses of the normal conditions of every shape of command -/

theorem open0 : WindowOpen live 0 := ⟨by decide +kernel, by decide +kernel, by decide +kernel, by decide +kernel⟩

theorem reg0 (blk e o : Nat) (h : live.deaf 0 blk e o = false) : RegOpen live 0 blk e o := ⟨open0, h, by decide +kernel⟩

/-- A write by the host. -/
def aWrite (v : W32) : RegW := ⟨v, 0⟩

/-- A doubleword access at BAR0. -/
def dword : HostReq := ⟨0, 0, .dword, .good, none, 0⟩

theorem witness_Normal_board : RunsNormally State.reset (.pwrgoodRise live.flash) ∧ RunsNormally live .pwrgoodFall ∧ RunsNormally live .perstNAssert ∧ RunsNormally live (.railReset 0) ∧ RunsNormally live (.supplyDip 0) ∧
    RunsNormally { live with pkg := { live.pkg with perstN := false } } (.perstNRelease live.flash) ∧ RunsNormally { live with pkg := { live.pkg with railsLow := [0] } } (.railRestored 0 live.flash) ∧
    RunsNormally (live.modDie 0 (fun d => { d with tmn := { d.tmn with dip := true } })) (.dipRecovered 0) ∧
    RunsNormally { live with hif := { live.hif with link := .training } } (.pcieLinkUp 5 16 true) ∧ RunsNormally live .functionLevelReset ∧ RunsNormally live .d3hotEntry ∧ RunsNormally live (.busMasterEnable true) ∧
    RunsNormally live (.msixControl true false) ∧ RunsNormally { live with hif := { live.hif with d3hot := true } } .d3hotToD0 ∧ RunsNormally live .hotReset ∧ RunsNormally live .dlDown ∧ RunsNormally live (.configRequest 0) ∧
    RunsNormally live .ioRequest ∧ RunsNormally live.linkReset .functionReady ∧ RunsNormally live (.msixTableWrite 0 0) ∧ RunsNormally live .l1Entry ∧ RunsNormally live (.l0pRequest 8) ∧
    RunsNormally live (.ideKm true 0 .setStop) ∧ RunsNormally live (.registerRead dword) ∧ RunsNormally live (.registerWrite dword 0) := by
  and_intros <;> first
    | decide +kernel
    | (simp only [RunsNormally]; done)
    | (simp only [RunsNormally]; decide +kernel)

theorem witness_Normal_window : RunsNormally live (.lock ⟨0, LVE, 0⟩ (aWrite 1)) ∧ RunsNormally { live with baton := { live.baton with code := 1 } } (.evtForce ⟨0, LVE, 0⟩ (aWrite 1)) ∧
    RunsNormally live (.devReset (aWrite 0xA55A)) ∧ RunsNormally live .rtcLoRead ∧ RunsNormally live .monoLoRead ∧ RunsNormally live (.route 0) ∧ RunsNormally live (.mqRoute 0) ∧ RunsNormally live .mgrMbAck ∧
    RunsNormally live (.iitData 0 0) ∧ RunsNormally live (.recClear 0xC1EA) ∧ RunsNormally live (.aliveCtrl 0) ∧ RunsNormally live (.chOffline 0 (aWrite 1)) ∧ RunsNormally live (.lveOffline 0 0 (aWrite 1)) ∧
    RunsNormally live (.lveUnfence 0 0 (aWrite 1)) ∧ RunsNormally live (.bneOffline 0 0 (aWrite 1)) ∧ RunsNormally live (.bneUnfence 0 0 (aWrite 2)) ∧ RunsNormally live (.syeOffline 0 0 (aWrite 1)) ∧
    RunsNormally live (.syeUnfence 0 0 (aWrite 2)) ∧ RunsNormally live (.srcClear 0 (aWrite 1)) ∧ RunsNormally live (.faultPin (aWrite 1)) ∧ RunsNormally live (.grpCtrlAck 0 (aWrite 1)) ∧
    RunsNormally live (.dieResetRequest (aWrite 0xA55A0001)) ∧ RunsNormally live (.instCmdReset (aWrite 1)) ∧ RunsNormally live (.reauth (aWrite 1)) ∧ RunsNormally live (.dissolve (aWrite 2)) :=
  ⟨reg0 _ _ _ (by decide +kernel), ⟨⟨by decide +kernel, by decide +kernel, by decide +kernel, by decide +kernel⟩, by decide +kernel, by decide +kernel⟩, ⟨reg0 _ _ _ (by decide +kernel), rfl⟩,
    open0, open0, open0, open0, open0, ⟨open0, by decide⟩, ⟨open0, rfl⟩, open0, reg0 _ _ _ (by decide +kernel), reg0 _ _ _ (by decide +kernel), reg0 _ _ _ (by decide +kernel),
    reg0 _ _ _ (by decide +kernel), reg0 _ _ _ (by decide +kernel), reg0 _ _ _ (by decide +kernel), reg0 _ _ _ (by decide +kernel), reg0 _ _ _ (by decide +kernel),
    reg0 _ _ _ (by decide +kernel), ⟨open0, by decide +kernel⟩, reg0 _ _ _ (by decide +kernel), reg0 _ _ _ (by decide +kernel), reg0 _ _ _ (by decide +kernel), reg0 _ _ _ (by decide +kernel)⟩

/-- A flash whose directory holds a candidate at 0x10000 of 64 KiB. -/
def flashState : State := { live with bfi := { live.bfi with entries := [⟨6, 0x10000, 0x10000, 0⟩], running := some (1, 0) } }

theorem witness_Normal_rows : RunsNormally { live with pkg := { live.pkg with aliveFresh := true } } .aliveTimeout ∧ RunsNormally flashState (.flashOpDone .done) ∧
    RunsNormally { live with pkg := { live.pkg with fault := { live.pkg.fault with pulse := true } } } .faultPulseEnd ∧ RunsNormally live (.mhaOpen 0) ∧
    RunsNormally (live.modDie 0 (fun x => { x with mha := { x.mha with state := .open_ } })) (.mhaClose 0) ∧ RunsNormally (live.modDie 0 (fun x => { x with mha := { x.mha with state := .open_ } })) (.mhaAbort 0) ∧
    RunsNormally (live.modDie 0 (fun x => { x with mha := { x.mha with state := .open_ } })) (.mhaRange 0 0 0 []) ∧ RunsNormally live (.jobDispatch 0 .rng) ∧ RunsNormally live (.dwrrRoundStart 0 0) ∧
    RunsNormally live (.feedGrant 0) ∧ RunsNormally (rngState (fun r => { r with feedBytes := feedLimit })) (.feedReseed 0) ∧ RunsNormally live (.drbgRequest 0 32) ∧
    RunsNormally (rngState (fun r => { r with reqs := 2 ^ 20 })) (.drbgReseedDue 0) ∧ RunsNormally live (.conditioningDone 0) ∧ RunsNormally live (.healthTestFail 0 0 true) ∧
    RunsNormally (rngState (fun r => { r with recovering := true })) (.startupTestsPass 0) ∧
    RunsNormally (live.modDie 0 (fun d => { d with patch := { d.patch with refreshPending := true } })) (.patchRefresh 0 true) ∧ RunsNormally live (.clkHigh 0) ∧ RunsNormally live (.tempHigh 0 0) ∧
    RunsNormally (wired live) (.tmpIn 0) ∧ RunsNormally live .batLow ∧ RunsNormally { live with bbd := Bbd.off } (.vbatApplied 0) ∧ RunsNormally live .vbatLost ∧ RunsNormally live (.tamperConditionClear 0 0x11) ∧
    RunsNormally (live.modDie 0 (fun d => { d with tmn := { d.tmn with throttle := true } })) (.throttleRelease 0) ∧ RunsNormally live (.severe 0 592) ∧ RunsNormally live (.heatSliceBoundary 0 0) ∧
    RunsNormally { live with alg := { live.alg with offers := [Offer.of 1 0 1 0] } } .auditEntryAccept ∧ RunsNormally { live with alg := { live.alg with ckptDue := true } } .checkpoint ∧
    RunsNormally { live with alg := { live.alg with signing := true } } .checkpointSigned ∧ RunsNormally (pacer id) (.probeInterval 0) ∧
    RunsNormally (pacer (fun p => { p with probing := some ⟨0, false, 0⟩ })) (.probeStart 0) ∧ RunsNormally (pacer (fun p => { p with awaiting := true, ramping := some 825 })) (.avsComplete 0) ∧
    RunsNormally (pacer (fun p => { p with awaiting := true, ramping := some 825 })) (.avsTimeout 0) ∧ RunsNormally (pacer (fun p => { p with ramping := some 825 })) (.vstepRetry 0) ∧
    RunsNormally (pacer (fun p => { p with avsTries := 3 })) (.avsExhausted 0) ∧ RunsNormally live (.roMeasure 0 0) ∧ RunsNormally live (.marginProject 0) ∧ RunsNormally live (.ageingRecordCommit 0) ∧
    RunsNormally live (.slackWindow 0 (List.replicate 20 0)) ∧ RunsNormally live (.stressMinute 0 0) ∧ RunsNormally live (.skipEvaluate 0 0) ∧ RunsNormally live (.tapBypass 0) ∧ RunsNormally live .testLogicReset ∧
    RunsNormally live .smbVersion ∧ RunsNormally { live with pkg := { live.pkg with alertLow := true } } .smbAlertResponse := by
  and_intros <;> first
    | decide +kernel
    | (simp only [RunsNormally]; done)
    | (simp only [RunsNormally]; decide +kernel)

/-- Queue 0 of die 0 so. -/
theorem queueOpen (s : State) (h : WindowOpen s 0) (hm : (s.queue 0 0).ctx.rings.mgr = true) : QueueOpen s (.manager 0 0) 0 0 := ⟨h, .inl ⟨rfl, hm⟩⟩

theorem openQ (q : Queue) : WindowOpen (queueState q) 0 :=
  ⟨rfl, by constructor <;> exact Nat.succ_pos _, rfl, rfl⟩

/-- Rings of 16 entries of a manager queue that has been disabled by request. -/
def stopping : Queue := { ringQueue .active 0 0 0 0 with aux := { (ringQueue .active 0 0 0 0).aux with disableReq := true, irqTimer := true, irqCount := 3 } }

theorem witness_Normal_queues :
    RunsNormally (queueState (ringQueue .active 30 2 30 2)) (.sqTailDoorbell (.manager 0 0) 14 0) ∧ RunsNormally (queueState (ringQueue .active 30 2 30 2)) (.cqHeadDoorbell (.manager 0 0) 2) ∧
    RunsNormally (queueState (ringQueue .active 30 2 30 2)) (.sqInval (.manager 0 0) 0) ∧ RunsNormally (queueState (ringQueue .error 0 1 0 0)) (.resume (.manager 0 0)) ∧
    RunsNormally (queueState (ringQueue .error 0 1 0 0)) (.skip (.manager 0 0)) ∧ RunsNormally (queueState (ringQueue .disabled 0 0 0 0)) (.enable 0 0) ∧
    RunsNormally (queueState (ringQueue .active 0 0 0 0)) (.disable 0 0) ∧ RunsNormally (queueState stopping) (.disableEffective 0 0) ∧
    RunsNormally (fetching false) (.entryFetched 0 0 0 []) ∧ RunsNormally (queueState stopping) (.irqDelayExpiry 0 0) ∧ RunsNormally (queueState stopping) (.irqCountReached 0 0) ∧
    RunsNormally (fetching true) (.hostReadCompletion 0 (.entry 0 0) (.failed 2)) ∧ RunsNormally (fetching false) (.completionTimeout 0 (.entry 0 0)) ∧
    RunsNormally (withJob (readJob .input)) (.hostReadCompletion 0 (.job 1 partIn) (.good [])) ∧
    RunsNormally (withJob (readJob .fill)) (.kpcFillComplete ⟨0, 1⟩ []) ∧ RunsNormally (chanState .active partOut 100) (.descriptorComplete 0 0 .ok) ∧
    RunsNormally live (.descriptorComplete 0 13 (.short 1)) ∧ RunsNormally (chanState .pacing partIn 100) (.paceResume 0 0) ∧
    RunsNormally (kvdState (withJob { readJob .input with data := { (readJob .input).data with reads := [0] } }) (.job 1 0)) (.blobTableEntryFetched ⟨0, 1⟩ []) ∧
    RunsNormally (kvdState (withJob { readJob .input with data := { (readJob .input).data with reads := [1] } }) (.job 1 1)) (.blobFetched ⟨0, 1⟩ []) :=
  ⟨⟨0, 0, queueOpen _ (openQ _) rfl, by decide, by decide⟩, ⟨0, 0, queueOpen _ (openQ _) rfl, by decide, by decide⟩, ⟨0, 0, queueOpen _ (openQ _) rfl, rfl, rfl⟩,
    ⟨0, 0, queueOpen _ (openQ _) rfl, rfl, rfl⟩, ⟨0, 0, queueOpen _ (openQ _) rfl, rfl, rfl⟩, ⟨openQ _, by decide, by decide +kernel⟩, ⟨openQ _, rfl, by decide⟩, by show _ = true; decide +kernel,
    ⟨false, rfl⟩, rfl, ⟨by decide, by decide +kernel⟩, .inl ⟨0, 0, true, rfl, rfl⟩, .inl ⟨0, 0, false, rfl, rfl⟩, .inr (.inl ⟨1, partIn, rfl, by decide +kernel⟩),
    ⟨_, rfl, rfl, rfl, rfl⟩, .inl ⟨1, rfl, by decide⟩, .inr (by decide), by and_intros <;> decide +kernel, by show _ = true; decide +kernel, by show _ = true; decide +kernel⟩

theorem witness_Normal_portals :
    RunsNormally (instState id) (.pReset 5 1) ∧ RunsNormally (instState id) (.mbSend 5 1) ∧ RunsNormally (instState id) (.mbAck 5) ∧
    RunsNormally (kvdState (mailState (fun m => { m with bufBusy := true })) (.mailbox 5)) (.mbBufferCopied 5 (.failed 1)) ∧ RunsNormally (instState id) (.kstageLoad 5 0) ∧ RunsNormally (instState id) (.kstageClear 5 0) ∧
    RunsNormally (instState id) (.kstageClearAll 5 0) ∧ RunsNormally (instState id) (.kstageOpRefused 5 0) ∧ RunsNormally (stagingState (fun k => { k with ksState := 1 })) (.kstageDone 5) ∧
    RunsNormally (instState id) (.attCmd 5 0x80000000) ∧ RunsNormally (stagingState (fun k => { k with attState := 1 })) (.attDone 5) ∧
    RunsNormally (instState (fun i => { i with work := { i.work with resetWaiting := true } })) (.instResetAccept 5) ∧ RunsNormally (instState (fun i => { i with code := .resetting })) (.instResetComplete 5) ∧
    RunsNormally (instState (fun i => { i with code := .freezing })) (.freezeDrained 5) ∧ RunsNormally (rehomeState .rehoming none 0) (.rehomeDrainComplete 0 0) ∧
    RunsNormally ((rehomeState .active none 9).setReg 0 VIM 0 0x210 1) .balanceInterval := by
  and_intros <;> first
    | decide +kernel
    | (simp only [RunsNormally]; done)
    | (simp only [RunsNormally]; decide +kernel)

theorem witness_Normal_operations : RunsNormally (withJob (job 0x1003 1)) (.kemDecaps ⟨0, 1⟩) ∧ RunsNormally (withJob (symJob 0x5003 3 0 [])) (.macGenerate ⟨0, 1⟩) ∧
    RunsNormally (withJob (job 0xF003 0)) (.instFreeze ⟨0, 1⟩) ∧ RunsNormally (withJob (flagged 0xF003)) (.instThaw ⟨0, 1⟩) ∧ RunsNormally (burning [3] 2) (.lcBitBurned 3) ∧
    RunsNormally (burning [3] 2) (.burnFail 3) ∧ RunsNormally live2 (.lcDecodeChange 1 (lcWord 4)) :=
  ⟨⟨_, rfl, rfl, rfl, rfl⟩, ⟨_, ⟨rfl, rfl, rfl, rfl⟩, rfl⟩, ⟨_, ⟨rfl, rfl, rfl, rfl⟩, by decide⟩, ⟨_, ⟨rfl, rfl, rfl, rfl⟩, by decide⟩, ⟨_, rfl, rfl, by decide⟩, ⟨_, rfl, rfl, by decide⟩,
    by decide +kernel, by decide +kernel⟩

theorem witness_Normal_engines :
    RunsNormally (passState { lveJ 0 with phase := .passWait } (job 0x8001 0)) (.passDispatch 0 0) ∧ RunsNormally (passState (lveJ 0) (job 0x8001 0)) (.repeatLimit 0 0) ∧
    RunsNormally (passState (lveJ 0) (job 0x8001 0)) (.ckptGap 0 0) ∧ RunsNormally (passState { lveJ 0 with abortReq := true } (job 0x8001 0)) (.lveAbort 0 0) ∧
    RunsNormally (live.modDie 0 (fun d => { d with lves := d.lves.modify 0 (fun u => { u with svc := { u.svc with selfTest := true } }) })) (.selftestDone 0 (.lve 0) true) ∧
    RunsNormally (bneState (ended (job 0x4002 1)) legRuns) (.bneLegEnd 0 0 true) ∧
    RunsNormally (withJob { job 0x4010 32 with engine := .bne 0 }) (.keygenLimit ⟨0, 1⟩) ∧
    RunsNormally (bneState (job 0 0) (fun u => { u with lane0 := { u.lane0 with wiping := true } })) (.laneWipeDone 0 0 false) ∧
    RunsNormally (syeState (job 0x5001 0x23) (segRuns 2)) (.syeSegmentEnd 0 0) ∧
    (∃ s r f, RunsNormally s (.valu r f)) ∧ (∃ s r f, RunsNormally s (.nop r f)) ∧ (∃ s r f, RunsNormally s (.vldu r f)) ∧ (∃ s r f, RunsNormally s (.madd r f)) ∧
    ∃ s r f, RunsNormally s (.lend r f) :=
  ⟨⟨_, 1, _, rfl, rfl, rfl, rfl, rfl, rfl, by decide +kernel⟩, ⟨_, 1, _, rfl, rfl, rfl, by decide +kernel, rfl, rfl⟩, ⟨_, rfl, rfl, rfl, rfl⟩, ⟨_, rfl, rfl, rfl, rfl⟩, ⟨_, rfl, rfl⟩,
    ⟨_, false, 1, _, rfl, rfl, rfl, rfl, rfl, .inl rfl⟩, .inl ⟨_, 0, rfl, rfl, rfl, rfl, rfl⟩, ⟨_, rfl, rfl, rfl⟩, ⟨_, 0, _, _, rfl, rfl, rfl, rfl, rfl, .inl (by decide)⟩,
    ⟨_, _, fld 0 0, _, runs _ _ lveK (by decide +kernel), by decide +kernel⟩, ⟨_, _, fld 0 0, _, runs _ _ lve0 (by decide +kernel), by decide +kernel⟩,
    ⟨_, _, fld 0 0, _, runs _ _ lveB (by decide +kernel), by decide +kernel⟩, ⟨_, _, fld 0 0, _, runs _ _ lveK (by decide +kernel), by decide +kernel⟩,
    ⟨_, _, fld 0 0, _, runs _ _ lve0 (by decide +kernel), by decide +kernel⟩⟩

theorem witness_Normal_relay : RunsNormally live2 .heartbeatPeriod ∧ RunsNormally live2 (.heartbeat 0 ⟨1, 0, 3, 0, false⟩) ∧ RunsNormally votingState (.vote 0 1 true 3 []) ∧
    RunsNormally votingState (.voteTimeout 0) ∧ RunsNormally votingState (.accept 0 1 (acceptOf [])) ∧ RunsNormally live2 (.commit 0 0) ∧ RunsNormally live2 (.splitFrame 0) ∧
    RunsNormally live2 (.tamperOrder 0 1 1 1) ∧ RunsNormally (joinState .joining) (.joinAck 1 0 []) ∧ RunsNormally (joinState .joining) (.statePush 1 0 true) ∧
    RunsNormally (live2.modDie 1 (fun x => { x with logOut := [Offer.of 0 1 1 0] })) (.logFrame 1) ∧ RunsNormally live2 (.eventFrame ⟨1, TMN, 0⟩) ∧
    RunsNormally (joinState .lost) (.dieResetEntry 1) ∧ RunsNormally (joinState .dieReset) (.rejoinTimeout 1) ∧
    RunsNormally (joinState .dieReset) (.vjoin (.frame ⟨1, true, 3, []⟩)) ∧ RunsNormally live2 (.heartbeatSilence (.die 1)) ∧ RunsNormally live2 (.heartbeatSilence (.holder 1)) := by
  and_intros <;> first
    | decide +kernel
    | (simp only [RunsNormally]; done)
    | (simp only [RunsNormally]; decide +kernel)

theorem witness_Normal_links : RunsNormally live2 (.heartbeatSilence (.port 0 0)) ∧ RunsNormally live2 (.replayExhausted 0 0) ∧ RunsNormally (portState .training) (.linkTrained 0 0) ∧
    RunsNormally (portState .down) (.linkRetrainTimeout 0 0) :=
  ⟨⟨_, rfl, rfl, rfl⟩, ⟨_, rfl, rfl⟩, ⟨_, rfl, .inl rfl, rfl⟩, ⟨_, rfl, .inr rfl, rfl⟩⟩

theorem witness_Normal_cards : RunsNormally (cardState id) (.cardInserted 1) ∧ RunsNormally (waiting .none) (.cardRemoved 1) ∧ RunsNormally (waiting .atr) (.atr 1 [] true) ∧
    RunsNormally (waiting .atr) (.atrTimeout 1) ∧ RunsNormally (waiting .pps) (.ppsResponse 1 []) ∧ RunsNormally (waiting .select) (.cardSelect 1 ⟨0x9000, []⟩) ∧
    RunsNormally (waiting .select) (.cardWaitTimeout 1) ∧ RunsNormally (waiting .info) (.getInfo 1 ⟨0x9000, []⟩) ∧ RunsNormally (waiting .auth) (.authenticate 1 ⟨0x9000, []⟩) ∧
    RunsNormally (waiting .share) (.getShare 1 ⟨0x9000, []⟩) ∧ RunsNormally (waiting .endSession) (.endSession 1 ⟨0x9000, []⟩) ∧
    RunsNormally { live with cards := { live.cards with quorum := { live.cards.quorum with present := true } } } .quorumIdleExpiry ∧
    RunsNormally live (.backupCardInserted ⟨true, 0, 0, true, true, [], []⟩) ∧ RunsNormally (bkOf (job 0x600A 0) (aBk 0 false) .ready) .backupCardRemoved ∧
    RunsNormally (bkOf (job 0x600A 0) (aBk 0 false) .transfer) (.blockRead .crcError) ∧ RunsNormally (bkOf (job 0x600A 0) (aBk 0 false) .busy) (.busyEnd true) ∧
    RunsNormally (bkOf (job 0x600A 0) (aBk 0 false) .busy) (.sdTimeout .busy) ∧ RunsNormally (bkOf (job 0x600A 0) (aBk 0 false) .ready) .bkClockIdle := by
  and_intros <;> first
    | decide +kernel
    | (simp only [RunsNormally]; done)
    | (simp only [RunsNormally]; decide +kernel)

theorem witness_Normal_waits : RunsNormally (bkOf (job 0x600A 0) (aBk 0 true) .ready) .reinsertTimeout ∧
    RunsNormally { live with lcc := { Lcc.reset with xfer := some ⟨1, 3, [], 0, 0, none, true, []⟩ } } .provisionQuorumTimeout ∧
    RunsNormally { live with lcc := { Lcc.reset with xfer := some ⟨3, 3, [], 0, 0, none, false, []⟩ } } .lcResetTimer := ⟨⟨_, rfl, rfl⟩, ⟨_, rfl, rfl⟩, by show _ = true; decide +kernel⟩

theorem witness_StepRunsFront_completes : RunsNormally live .ioRequest ∧ { live with pending := [Instr.ioRequest] }.pending.head? = some .ioRequest ∧
    ({ { live with pending := [Instr.ioRequest] } with pending := { live with pending := [Instr.ioRequest] }.pending.tail } : State) = live := ⟨by show _ = true; decide +kernel, rfl, rfl⟩

/-! ### Results that the manual's own examples and tables give -/

/-- The engine a step of an LVE instruction leaves. -/
def lveAfter (o : LveOp) (f : LveFields) (l : Lve) : Option Lve :=
  match exec (o.instr ⟨0, 0, .none⟩ f) (onLve (holding l o f)) with
  | .next t => ((t.dies[0]?).bind (fun d => d.lves[0]?)).map LveUnit.eng
  | _ => none

/-- What the host gets for an access. -/
def replyOf (o : Host.Outcome State Fault Refusal) : Option Tx :=
  match o with
  | .next t => t.tx.head?
  | _ => none

/-- The result a program leaves to job 1 of die 0. -/
def resultOf (o : Host.Outcome State Fault Refusal) : Option (W16 × W32 × Nat) :=
  match o with
  | .next t => ((t.job? 0 1).bind Job.result).map (fun r => (r.status, r.detail, r.etime))
  | _ => none

/-- The example of R210: SEW 32, VL 16, S3 = 0x8000, V7 with the offsets. -/
def lveG : Lve :=
  (({ lve0 with regions := { lve0.regions with winSize := 0x10000 }, core := { lve0.core with vtype := 2, vl := 16 } }).setS 3 0x8000).setV 7
    (packElems 32 6 (fun i => [0x10, 0x20, 0x30, 0x40, 0x8000, 0x50].getD i 0))

theorem test_vgather_faults_at_element_4 :
    (lveAfter .vgather ⟨2, 3, 7, 0, false, 0, 0⟩ { lveG with window := lveG.window.writes 0x8040 [0xEF, 0xBE, 0xAD, 0xDE] }).map
        (fun l => (l.core.vstart, l.seq.fault, elemN 32 (l.vr 2) 3, elemN 32 (l.vr 2) 5)) =
      some (4, some (.operand 4), 0xDEADBEEF, 0) := by decide +kernel

theorem test_setvl_takes_the_least :
    (lveAfter .setvl ⟨6, 4, 0, 0, false, 0, 0⟩ (({ lve0 with core := { lve0.core with vtype := 5, vl := 128 } }).setS 4 44)).map
      (fun l => (l.core.vl, l.sr 6)) = some (44, 44) := by decide +kernel

theorem test_madd_reduces :
    (lveAfter .madd ⟨2, 0, 1, 0, false, 0, 0⟩ ((lveK.setV 0 3328).setV 1 3328)).map (fun l => elemN 16 (l.vr 2) 0) = some 3327 := by decide +kernel

/-- Four clocks at SEW 16 at the shipped map (R229). -/
theorem test_vbfly_clocks : lveK.clocksOf .vbfly (fld 0 0) = 4 := by decide +kernel

/-- The ID register of BNE 2 on die 5 (R53). -/
theorem test_register_read_id :
    replyOf (exec (.registerRead ⟨0, 0x05122000, .dword, .good, none, 0⟩) (liveOf .vq8800 8)) = some (.readReply 0x00120205) := by decide +kernel

/-- A request of another size gets a completer abort (R51). -/
theorem test_register_read_size :
    replyOf (exec (.registerRead ⟨0, 0x05122000, .other, .good, none, 0⟩) (liveOf .vq8800 8)) = some .completerAbort := by decide +kernel

/-- The check value of the entry CRC (R73): CRC-16/CCITT-FALSE of the digits 1 to 9. -/
theorem test_crc16_check_value : crc16 (ascii "123456789") = 0x29B1#16 := by decide +kernel

/-- The identifiers of R81: mceliece6960119, ML-KEM-768, RSA-3072 and loaded curve slot 0. -/
theorem test_algorithm_identifiers :
    algId 1 0x17 = 0x1117#16 ∧ algId 1 2 = 0x1002#16 ∧ algId 4 48 true = 0x4830#16 ∧ algId 4 0x40 = 0x4040#16 := by decide +kernel

/-- LMS with SHA-256, H = 20 and W = 8 is PSET 0x0F (R82). -/
theorem test_stateful_set : stf? 0x0F = some ⟨false, 32, 20, 8, 34, 1, false⟩ := by decide +kernel

/-- ML-DSA-65 on 1,000 bytes with four attempts takes 12.2675 µs (R111's example). -/
theorem test_mldsa_time : (sigTime 2 4).2.1 + msgTime (sigHash 2) 1000 = 12267500 := by decide +kernel

/-- AES-256-GCM over 1 MiB: 16 segments, 84.086 µs (R313's example). -/
theorem test_gcm_time :
    ({ sqe 0x5001 0x33 with inLen := 0x100000, auxLen := 12 } : Sqe).symTime 32 = 84086080 ∧ ({ sqe 0x5001 0x33 with inLen := 0x100000, auxLen := 12 } : Sqe).segments = 16 := by
  decide +kernel

/-- The microword of R224's example. -/
theorem test_microword : Microword.parOk 0xB85100040#36 = true ∧ Microword.parOk 0x385100040#36 = false ∧ Microword.cyc 0xB85100040#36 = 3 ∧ Microword.uop 0xB85100040#36 = .data 0x21 ∧
    Microword.fa 0xB85100040#36 = 8 ∧ Microword.fb 0xB85100040#36 = 16 ∧ Microword.fd 0xB85100040#36 = 0 ∧ Microword.ckpt 0xB85100040#36 = true := by decide +kernel

/-- ML-KEM-768 DECAPS takes 3.60 µs at the shipped map and 6,380 clocks, 3.9875 µs, with MM16 at four clocks (R231's example). -/
theorem test_decaps_maps :
    let floor := State.reset.dies.head?.elim 0 (fun d => d.fuses.cycLve)
    let longer := mapWord ((List.range 8).map (fun c => if c = 3 then 4 else mapLen floor c))
    lveMapTime ⟨floor, none, 0, none, false⟩ floor 0x100302 3600000 = 3600000 ∧ lveMapTime ⟨longer, none, 0, none, false⟩ floor 0x100302 3600000 = 3987500 := by decide +kernel

/-- An LMS key of H = 20 fills 32 units of a KPC (R270's example). -/
theorem test_lms_units : kpcUnits 3 0x0F 1 = 32 := by decide +kernel

/-- CMAC of 1 KiB: 0.52768 µs (R313's example). -/
theorem test_cmac_time : ({ sqe 0x5003 1 with inLen := 1024 } : Sqe).symTime 32 = 527680 := by decide +kernel

/-- A signature on P-256 with r = 0 and s = n over 100 bytes. -/
def badSig : Job :=
  let c := (namedCurve? 1).map (fun c => c.n)
  keyed { job 0x4003 1 with
    sqe := { sqe 0x4003 1 with param := 1, inLen := 164 }
    data := { JobData.empty with inData := List.replicate 132 0 ++ beBytes 32 (c.getD 0) } }

/-- ECDSA_VERIFY (EXT) with such a signature and a point off the curve: OPERAND_RANGE, DETAIL 0x02, 18.2256 µs, since OPERAND_RANGE comes before
POINT_INVALID (R291, the example of R302). -/
theorem test_ecdsa_verify_ext_range :
    resultOf (exec (.ecdsaVerifyExt ⟨0, 1⟩)
      (withJob { badSig with engine := .bne 0, sqe := { badSig.sqe with opcode := 0x4803 }, data := { badSig.data with auxData := 0x04#8 :: List.replicate 64 1 } })) =
      some (stOperandRange, 2, 18225600) := by decide +kernel

/-- SHA-256 of no bytes (FIPS 180-4). -/
theorem test_sha256_empty : (hashOf 1 []).take 4 = [0xE3, 0xB0, 0xC4, 0x42] := by decide +kernel

/-- The empty queue lets the clock run by two units when the battery domain has power, and nothing else happens (log 1). -/
theorem test_idle_tick : ∃ t, step { live with pending := [] } = .next t ∧ t.pending = [] :=
  ⟨_, rfl, by decide +kernel⟩

/-- No word spells a command: the table gives no bits. -/
theorem test_no_words : decodeTableWord 32 0 = none ∧ (State.reset.withFetchWord 32 0).pending = [] := by decide +kernel
end Sys2Proof.Tests
end

/-! SUPPORT. What holds between any two commands is kept by every step: a command ends in `settle`, or touches an LVE's engine alone. -/

namespace Sys2Proof.Machine

/-! ### What soundness reads -/

/-- A die with its LVEs taken out. -/
def Die.sansLves (x : Die) : Die := { x with lves := [] }

/-- The state with the LVEs of every die taken out. -/
def State.sansLves (s : State) : State := s.allDies Die.sansLves

theorem State.sansLves_die_fuses (s : State) (d : Nat) : (s.sansLves.die d).fuses = (s.die d).fuses := by
  by_cases h : d < s.dies.length <;> simp [State.sansLves, State.allDies, State.die, List.getD_eq_getElem?_getD, h, Die.sansLves]

theorem State.sansLves_aliveOk (s : State) : s.sansLves.aliveOk = s.aliveOk := by
  have lc : s.sansLves.lc = s.lc := by
    unfold State.lc
    rw [State.sansLves_die_fuses]
    rfl
  unfold State.aliveOk
  rw [lc]
  rfl

/-- Soundness reads nothing of an LVE. -/
theorem State.sound_sansLves (s : State) : s.sansLves.Sound ↔ s.Sound := by
  have gates : s.sansLves.LockGates ↔ s.LockGates := by
    simp [State.LockGates, State.sansLves, State.allDies, Die.sansLves]
  have alive : s.sansLves.AliveExact ↔ s.AliveExact := by
    unfold State.AliveExact
    rw [State.sansLves_aliveOk]
    rfl
  have link : s.sansLves.LinkExact ↔ s.LinkExact := by
    simp [State.LinkExact, State.sansLves, State.allDies, Die.sansLves, Die.busy]
  exact ⟨fun h => ⟨gates.mp h.lockGates, alive.mp h.aliveExact, h.pbaExact, h.iitExact, link.mp h.linkExact⟩,
    fun h => ⟨gates.mpr h.lockGates, alive.mpr h.aliveExact, h.pbaExact, h.iitExact, link.mpr h.linkExact⟩⟩

/-- A state that differs from a sound one in its LVEs alone is sound. -/
theorem State.Sound.of_sansLves {s t : State} (h : s.Sound) (e : t.sansLves = s.sansLves) : t.Sound := by
  rw [← State.sound_sansLves] at h ⊢
  rwa [e]

/-- A function of the dies that one update does not show in. -/
theorem State.allDies_modDie (s : State) (d : Nat) (f g : Die → Die) (h : ∀ x, g (f x) = g x) : (s.modDie d f).allDies g = s.allDies g := by
  have e : (s.dies.modify d f).map g = s.dies.map g := by
    apply List.ext_getElem?
    intro i
    rw [List.getElem?_map, List.getElem?_map, List.getElem?_modify]
    cases s.dies[i]? with
    | none => rfl
    | some x => by_cases hi : d = i <;> simp [hi, h]
  simp only [State.allDies, State.modDie, e]

/-- Putting an engine back changes the LVEs alone. -/
theorem State.setEng_sansLves (s : State) (r : LveRef) (l : Lve) : (s.setEng r l).sansLves = s.sansLves :=
  s.allDies_modDie _ _ _ (fun _ => rfl)

/-! ### How a command ends -/

/-- How a command can end: in `settle`, in a state that differs in its LVEs alone, in a fault or in a refusal. -/
inductive Lands (s : State) : Host.Outcome State Fault Refusal → Prop where
  | settled (u : State) : Lands s (ret u)
  | engines {t : State} (h : t.sansLves = s.sansLves) : Lands s (.next t)
  | fault (x : Fault) : Lands s (.fault x)
  | refused (x : Refusal) : Lands s (.refused x)

/-- What it ends in is sound where it began sound. -/
theorem Lands.sound {s t : State} {o : Host.Outcome State Fault Refusal} (l : Lands s o) (h : s.Sound) (e : o = .next t) : t.Sound := by
  cases l with
  | settled u => exact Host.Outcome.next.inj e ▸ settle_sound u
  | engines k => exact Host.Outcome.next.inj e ▸ h.of_sansLves k
  | fault x => exact nomatch e
  | refused x => exact nomatch e

theorem lands_lveFinish (s : State) (r : LveRef) (l : Lve) : Lands s (s.lveFinish r l) := by
  unfold State.lveFinish
  split
  · exact .settled _
  · exact .engines (State.setEng_sansLves ..)
  · exact .engines (State.setEng_sansLves ..)

theorem lands_lveIdle (s : State) (r : LveRef) (u : LveUnit) : Lands s (s.lveIdle r u) := by
  unfold State.lveIdle
  split
  · split
    · exact .settled _
    · exact .engines rfl
  · exact .engines rfl

theorem lands_lveExec (o : LveOp) (r : LveRef) (f : LveFields) (s : State) (eff : Lve → Option Lve) : Lands s (lveExec o r f s eff) := by
  unfold lveExec
  split
  · exact .fault _
  · split
    · exact .refused _
    · split
      · exact lands_lveIdle ..
      · split
        · exact .settled _
        · split
          · exact .refused _
          · exact lands_lveFinish ..

theorem lands_lveLoopExec (o : LveOp) (r : LveRef) (f : LveFields) (s : State) (len count : Lve → Nat) :
    Lands s (lveLoopExec o r f s len count) := by
  unfold lveLoopExec
  split
  · exact .fault _
  · split
    · exact .refused _
    · split
      · exact lands_lveIdle ..
      · split
        · exact .settled _
        · exact lands_lveFinish ..

theorem lands_execLend (r : LveRef) (f : LveFields) (s : State) : Lands s (execLend r f s) := by
  unfold execLend
  split
  · exact .fault _
  · split
    · exact .refused _
    · split
      · exact lands_lveIdle ..
      · split
        · exact .settled _
        · exact .settled _

theorem lands_execVjoin (x : JoinForm) (s : State) : Lands s (execVjoin x s) := by
  cases x with
  | vmsk r f => exact lands_lveExec .vjoin r f s (fun l => lveVjoin f l)
  | frame m => exact .settled _

theorem lands_execLoop (r : LveRef) (f : LveFields) (s : State) : Lands s (execLoop r f s) := by
  unfold execLoop
  exact lands_lveLoopExec ..

theorem lands_execLoopi (r : LveRef) (f : LveFields) (s : State) : Lands s (execLoopi r f s) := by
  unfold execLoopi
  exact lands_lveLoopExec ..

/-- Every command ends so: the instructions of the LVE through `lveExec`, every other command through `ret`. -/
theorem lands_exec (c : Instr) (s : State) : Lands s (exec c s) := by
  unfold exec
  cases c
  case lend r f => exact lands_execLend r f s
  case loop r f => exact lands_execLoop r f s
  case loopi r f => exact lands_execLoopi r f s
  case vjoin x => exact lands_execVjoin x s
  all_goals first | exact .settled _ | exact lands_lveExec ..

/-! ### The step -/

/-- An idle period keeps it: the clock runs, and wipes end. -/
theorem State.Sound.idle {s : State} (h : s.Sound) : s.idle.Sound := by
  have wiped : (s.allDies (fun d => { d with lves := d.lves.map LveUnit.wiped })).Sound := by
    refine h.of_sansLves ?_
    simp [State.sansLves, State.allDies, Die.sansLves]
  have ticks (t : State) (b : Bbd) (k : t.Sound) : ({ t with bbd := b } : State).Sound :=
    ⟨k.lockGates, k.aliveExact, k.pbaExact, k.iitExact, k.linkExact⟩
  have expires (t : State) (k : t.Sound) : t.expireTicket.Sound := by
    unfold State.expireTicket
    split
    · split
      · exact settle_sound _
      · exact k
    · exact k
  unfold State.idle
  simp only []
  split
  · exact expires _ (ticks _ _ wiped)
  · exact wiped

/-- Soundness does not read the queue of commands. -/
theorem State.Sound.queue {s : State} (h : s.Sound) (q : List Instr) : ({ s with pending := q } : State).Sound :=
  ⟨h.lockGates, h.aliveExact, h.pbaExact, h.iitExact, h.linkExact⟩

/-- Every step keeps soundness. -/
theorem State.Sound.step {s t : State} (h : s.Sound) (e : step s = .next t) : t.Sound := by
  unfold Machine.step at e
  split at e
  · rw [← Host.Outcome.next.inj e]
    exact h.idle
  · next c rest _ => exact (lands_exec c _).sound (h.queue rest) e

/-! ### What `settle` leaves alone -/

/-- Gating touches the key buses alone. -/
theorem settleGates_die (s : State) (d : Nat) : ∃ g, (settleGates s).die d = { s.die d with tmn := { (s.die d).tmn with gated := g } } := by
  unfold settleGates
  split
  · by_cases h : d < s.dies.length
    · exact ⟨true, s.allDies_die _ d h⟩
    · exact ⟨(s.die d).tmn.gated, by simp [State.die, List.getD_eq_getElem?_getD, h]⟩
  · exact ⟨_, rfl⟩

/-- The link and the gates leave everything but the link and the dies, and the number of dies. -/
theorem settleGates_settleLink_keeps (s : State) : { settleGates (settleLink s) with dies := s.dies, hif := s.hif } = s ∧
    (settleGates (settleLink s)).dies.length = s.dies.length := by
  unfold settleGates settleLink
  split <;> split <;> simp

/-- So every other part of the state stays. -/
theorem settleGates_settleLink_field (s : State) {α : Type} (f : State → α) (hf : ∀ (u : State) (x : List Die) (y : Hif), f { u with dies := x, hif := y } = f u) :
    f (settleGates (settleLink s)) = f s :=
  (hf ..).symm.trans (congrArg f (settleGates_settleLink_keeps s).1)

/-- The gates leave the function. -/
theorem settleGates_hif (s : State) : (settleGates s).hif = s.hif := by
  unfold settleGates
  split <;> rfl

/-- The link leaves L1 for L0 at most. -/
theorem settleLink_hif (s : State) : { (settleLink s).hif with link := s.hif.link } = s.hif ∧
    ((settleLink s).hif.link ≠ s.hif.link → s.hif.link = .l1 ∧ (settleLink s).hif.link = .l0) := by
  unfold settleLink
  split
  · next h => exact ⟨rfl, fun _ => ⟨h.1, rfl⟩⟩
  · exact ⟨rfl, fun h => absurd rfl h⟩

theorem settleLink_die (s : State) (d : Nat) : (settleLink s).die d = s.die d := by
  unfold settleLink
  split <;> rfl

/-- What follows a command leaves of the function everything but an L1. -/
theorem settle_hif (s : State) : { (settle s).hif with link := s.hif.link } = s.hif ∧
    ((settle s).hif.link ≠ s.hif.link → s.hif.link = .l1 ∧ (settle s).hif.link = .l0) := by
  rw [(OutputsOnly.settled s).hif, settleGates_hif]
  exact settleLink_hif s

/-- What follows a command leaves of a die everything but its registers and the gate of its key bus. -/
theorem settle_die (s : State) (d : Nat) : { (settle s).die d with regs := (s.die d).regs, tmn := (s.die d).tmn } = s.die d ∧
    { ((settle s).die d).tmn with gated := (s.die d).tmn.gated } = (s.die d).tmn := by
  obtain ⟨r, hr⟩ := (OutputsOnly.settled s).die d
  obtain ⟨g, hg⟩ := settleGates_die (settleLink s) d
  rw [hr, hg, settleLink_die]
  exact ⟨rfl, rfl⟩

/-- Settles O60: a command ends in `settle`, which leaves a sound state, or touches LVEs alone, which soundness does not read. -/
theorem soundKept : Obligations.SoundKept := by
  unfold Obligations.SoundKept
  refine ⟨fun s t h e => h.step e, fun s => ?_⟩
  have o := OutputsOnly.settled s
  have inner {α : Type} := settleGates_settleLink_field s (α := α)
  have tx : s.tx <+: (settle s).tx := by
    have h := o.tx
    rwa [inner State.tx fun _ _ _ => rfl] at h
  have field {α : Type} (f : Pkg → α) (hf : ∀ p : Pkg, ∀ a b c, f { p with alive := a, alertLow := b, stateWord := c } = f p) :
      f (settle s).pkg = f s.pkg := (o.pkgField f hf).trans (inner (fun u => f u.pkg) (fun _ _ _ => rfl))
  exact ⟨settle_sound s, o.part.trans (inner State.part fun _ _ _ => rfl), o.insts.trans (inner State.insts fun _ _ _ => rfl), o.bbd.trans (inner State.bbd fun _ _ _ => rfl),
    o.bbram.trans (inner State.bbram fun _ _ _ => rfl), o.baton.trans (inner State.baton fun _ _ _ => rfl), o.alg.trans (inner State.alg fun _ _ _ => rfl),
    o.cards.trans (inner State.cards fun _ _ _ => rfl), o.bmp.trans (inner State.bmp fun _ _ _ => rfl), o.lcc.trans (inner State.lcc fun _ _ _ => rfl),
    o.bfi.trans (inner State.bfi fun _ _ _ => rfl), o.store.trans (inner State.store fun _ _ _ => rfl), o.flash.trans (inner State.flash fun _ _ _ => rfl),
    o.freeCtr.trans (inner State.freeCtr fun _ _ _ => rfl), o.pending.trans (inner State.pending fun _ _ _ => rfl), o.count.trans (settleGates_settleLink_keeps s).2,
    (settle_hif s).1, (settle_hif s).2, o.table.trans (inner (fun u => u.msix.table) fun _ _ _ => rfl), o.routes.trans (inner (fun u => u.evr.routes) fun _ _ _ => rfl),
    o.mqRoutes.trans (inner (fun u => u.evr.mqRoutes) fun _ _ _ => rfl), tx, settle_die s,
    field Pkg.lock (fun _ _ _ _ => rfl), field Pkg.ready (fun _ _ _ _ => rfl), field Pkg.fault (fun _ _ _ _ => rfl),
    field Pkg.pwrgood (fun _ _ _ _ => rfl), field Pkg.perstN (fun _ _ _ _ => rfl), field Pkg.severes (fun _ _ _ _ => rfl)⟩

end Sys2Proof.Machine

/-! SUPPORT. The end of the boot, the choice of the directory and the end of a flash command. -/

namespace Sys2Proof.Machine

/-! ### The link comes up (R36, R506) -/

/-- The end of step 8 of the boot: READY rises, and the reset hold of FAULT_N goes but in INVALID (R485, R491, R506). -/
def State.bootEnds (s : State) : State :=
  let t := s.allDies (fun x => if x.state = .running then { x with boot := { x.boot with step := 8, time := Config.bootTime s.freeCtr } } else x)
  { t with freeCtr := t.freeCtr + 1, pkg := { t.pkg with ready := true, fault := { t.pkg.fault with resetHold := decide (t.lc = 0xF) } } }

theorem State.bootEnds_resetHold {s : State} (h : s.bootEnds.lc ≠ 0xF) : s.bootEnds.pkg.fault.resetHold = false := decide_eq_false h

/-- A running die has finished step 8. -/
theorem State.bootEnds_step {s : State} {d : Nat} {x y : Die} (hx : s.dies[d]? = some x) (hy : s.bootEnds.dies[d]? = some y) (hs : x.state = .running) :
    y.boot.step = 8 := by
  simp only [State.bootEnds, State.allDies, List.getElem?_map, hx, Option.map_some, hs, if_true, Option.some.injEq] at hy
  rw [← hy]

/-- The function on a link that has trained outside a reset of R43. -/
def Hif.linkedUp (h : Hif) (speed width : Nat) (flit : Bool) : Hif :=
  { h with link := .l0, speed := BitVec.ofNat 4 speed, trained := BitVec.ofNat 5 width, width := BitVec.ofNat 5 width, flit := flit || decide (speed = 6), drsSent := true }

/-- The first rise of the link after a reset ends the boot. -/
theorem opPcieLinkUp_eq {s : State} (speed width : Nat) (flit : Bool) (hl : s.hif.link = .training) (hf : s.hif.flrActive = false) (hr : s.pkg.ready = false) :
    opPcieLinkUp speed width flit s = (({ s with hif := s.hif.linkedUp speed width flit } : State).bootEnds).send .drs := by
  unfold opPcieLinkUp
  simp only [hl, ne_eq, not_true_eq_false, if_false, hf, hr, Bool.not_false, Bool.false_eq_true]
  simp [State.bootEnds, Hif.linkedUp, hf]

/-! ### The directory (R494) -/

theorem State.pacerStart_flash (s : State) (d : Nat) : (s.pacerStart d).flash = s.flash := rfl

/-- Step 1 of the boot leaves what the flash holds. -/
theorem State.bootStepOne_flash (s : State) : s.bootStepOne.flash = s.flash := by
  unfold State.bootStepOne
  simp only []
  rw [foldl_keeps State.flash (fun t d => t.pacerStart d) State.pacerStart_flash]
  simp only [State.allDies_flash]
  split
  · unfold State.recordTamper
    simp only []
    split <;> rfl
  · rfl

/-- A boot without a valid directory stops after step 2 (R491, R494). -/
theorem State.boot_of_noDir {s : State} (hd : dirPick s.flash = none) (hl : lcCode (s.bootStepOne.die 0).fuses.lc ≠ 6) :
    s.boot = s.bootStepOne.bootStops 2 3 0xFF := by
  unfold State.boot
  simp only [hl, if_false, State.bootStepOne_flash, hd]

/-! ### The end of a flash command (R495, R500) -/

/-- A flash command ends well: DONE, counted, PROG_DONE raised. -/
def State.flashGood (s : State) : State := (({ s with bfi := { s.bfi with state := 2, running := none } } : State).count 0 BFI 0 0x120).event 0 BFI 0 0

section
variable {s : State} {r : Nat × Nat} (h : s.bfi.running = some r)
include h

theorem opFlashOpDone_error : opFlashOpDone .flashError s = s.flashErr 3 := by simp [opFlashOpDone, h]

theorem opFlashOpDone_done (hr : r.1 ≠ 3) : opFlashOpDone .done s = s.flashGood := by simp [opFlashOpDone, h, hr, State.flashGood]

theorem opFlashOpDone_activated (hr : r.1 = 3) {dir fw : List Byte} {patches : List (Nat × List Byte)} (hd : dirValid dir = true) (hf : Config.fwValid fw = true)
    (hp : ∀ d, d < s.dies.length → (patchSet (s.die d).fuses ((patches.filter (fun p => decide (p.1 = d))).map Prod.snd)).state ≠ 2) :
    opFlashOpDone (.candidate dir fw patches) s = { s.flashGood.event 0 BFI 0 2 with flash := BootInActivated s.flash s.bfi.copy r.2 dir fw patches } := by
  have all : s.dieList.all (fun d => decide ((patchSet (s.die d).fuses ((patches.filter (fun p => decide (p.1 = d))).map Prod.snd)).state ≠ 2)) = true := by
    simpa [State.dieList] using hp
  simp only [opFlashOpDone, h, hr, all, hd, hf, State.flashGood]
  rfl

theorem opFlashOpDone_rejected (hr : r.1 = 3) {dir fw : List Byte} (patches : List (Nat × List Byte)) (hd : dirValid dir = false ∨ Config.fwValid fw = false) :
    opFlashOpDone (.candidate dir fw patches) s = s.flashErr 5 := by
  rcases hd with hd | hd <;> simp [opFlashOpDone, h, hr, hd]

end

/-- Settles O41: the link's rise, the directory and a flash command's end, each by its own lemma. -/
theorem bootAndFlash : Obligations.BootAndFlash := by
  unfold Obligations.BootAndFlash
  intro s
  refine ⟨fun speed width flit hl hf hr => ?linkUp, fun h0 h1 => ?noDir, fun h0 h1 => ?bothDirs, fun hd hc => State.boot_of_noDir hd hc, fun r h => ?flash⟩
  case linkUp =>
    exact ⟨_, congrArg ret (opPcieLinkUp_eq speed width flit hl hf hr), rfl, fun hi => State.bootEnds_resetHold hi, rfl, rfl, rfl, rfl, rfl, rfl,
      fun _ _ _ hx hy hs => State.bootEnds_step hx hy hs⟩
  case noDir => simp [dirPick, h0, h1]
  case bothDirs => exact ⟨fun hlt => by simp [dirPick, h0, h1, hlt], fun hle => by simp [dirPick, h0, h1, Nat.not_lt.mpr hle]⟩
  case flash =>
    exact ⟨congrArg ret (opFlashOpDone_error h), fun hr => congrArg ret (opFlashOpDone_done h hr),
      fun hr dir fw patches hd hf hp => congrArg ret (opFlashOpDone_activated h hr hd hf hp),
      fun hr dir fw patches hd => congrArg ret (opFlashOpDone_rejected h hr patches hd)⟩

end Sys2Proof.Machine

/-! SUPPORT. What the operations of queues, channels, jobs and portals leave of the function of the host link: all of it. -/

namespace Sys2Proof.Machine

/-! ### Elementary changes -/

@[simp] theorem State.setQueue_hif (s : State) (d q : Nat) (x : Queue) : (s.setQueue d q x).hif = s.hif := rfl
@[simp] theorem State.modCtx_hif (s : State) (d q : Nat) (f : QCtx → QCtx) : (s.modCtx d q f).hif = s.hif := rfl
@[simp] theorem State.modAux_hif (s : State) (d q : Nat) (f : QAux → QAux) : (s.modAux d q f).hif = s.hif := rfl
@[simp] theorem State.modInst_hif (s : State) (n : Nat) (f : Inst → Inst) : (s.modInst n f).hif = s.hif := rfl
@[simp] theorem State.setChan_hif (s : State) (d ch : Nat) (c : Channel) : (s.setChan d ch c).hif = s.hif := rfl
@[simp] theorem State.modJob_hif (s : State) (d j : Nat) (f : Job → Job) : (s.modJob d j f).hif = s.hif := rfl

@[simp] theorem State.offer_hif (s : State) (o : Offer) : (s.offer o).hif = s.hif := by
  unfold State.offer
  split <;> rfl

@[simp] theorem State.countBytes_hif (s : State) (d : Nat) (w : Bool) (n : Nat) : (s.countBytes d w n).hif = s.hif := by
  simp only [State.countBytes]
  rw [apply_ite State.hif]
  simp

/-! ### Events -/

@[simp] theorem State.iitEvent_hif (s : State) (i : Nat) : (s.iitEvent i).hif = s.hif := by
  unfold State.iitEvent
  simp only []
  split
  · rfl
  · exact (OutputsOnly.iitSend _ _).hif

@[simp] theorem State.signal_hif (s : State) (v : Nat) : (s.signal v).hif = s.hif := (OutputsOnly.signal s v).hif

@[simp] theorem State.portalEvent_hif (s : State) (n b : Nat) : (s.portalEvent n b).hif = s.hif := by
  unfold State.portalEvent
  simp only []
  split <;> simp

@[simp] theorem State.mqEvent_hif (s : State) (d q : Nat) : (s.mqEvent d q).hif = s.hif := by
  unfold State.mqEvent
  simp only []
  split <;> simp

@[simp] theorem State.queueEvent_hif (s : State) (d q : Nat) : (s.queueEvent d q).hif = s.hif := by
  unfold State.queueEvent
  simp only []
  split <;> simp

/-! ### Completions -/

@[simp] theorem State.countIrq_hif (s : State) (d q : Nat) : (s.countIrq d q).hif = s.hif := by
  unfold State.countIrq
  simp only []
  split <;> simp

@[simp] theorem State.writeShadow_hif (s : State) (d q : Nat) : (s.writeShadow d q).hif = s.hif := by
  unfold State.writeShadow
  simp only []
  split <;> simp

@[simp] theorem State.writeEntry_hif (s : State) (d q : Nat) (h : Held) (n : Nat) : (s.writeEntry d q h n).hif = s.hif := by
  unfold State.writeEntry
  simp only []
  split <;> simp

@[simp] theorem State.afterEntries_hif (s : State) (d q : Nat) (hs : List Held) : (s.afterEntries d q hs).hif = s.hif := by
  unfold State.afterEntries
  rw [foldl_keeps State.hif, State.writeShadow_hif]
  intro t h
  split <;> simp

@[simp] theorem State.writeCqe_hif (s : State) (d q : Nat) (h : Held) (n : Nat) : (s.writeCqe d q h n).hif = s.hif := by
  simp [State.writeCqe]

@[simp] theorem State.complete_hif (s : State) (d q : Nat) (h : Held) : (s.complete d q h).hif = s.hif := by
  unfold State.complete
  simp only []
  split
  · simp
  · split
    · split <;> simp
    · split <;> simp

theorem releaseHeld_hif (n d q : Nat) (s : State) : (releaseHeld n d q s).1.hif = s.hif := by
  induction n generalizing s with
  | zero => rfl
  | succ n ih =>
    unfold releaseHeld
    simp only []
    split
    · simp
    · simp [ih]

@[simp] theorem State.release_hif (s : State) (d q : Nat) : (s.release d q).hif = s.hif := by
  unfold State.release
  simp only [State.modCtx_hif]
  split
  · split <;> simp [releaseHeld_hif]
  · rfl

@[simp] theorem State.finish_hif (s : State) (d j : Nat) (status : W16) (detail : W32) (etime out : Nat) : (s.finish d j status detail etime out).hif = s.hif := by
  unfold State.finish
  split
  · rfl
  · next x _ =>
    have kept : (if statusGood status ∧ !x.suppress then s.modDie d (fun y => { y with kpc := keepKpc y.kpc j }) else s).hif = s.hif := by
      split <;> rfl
    simp only []
    split
    · exact kept
    · rw [State.release_hif, State.complete_hif]
      split
      · rw [State.queueEvent_hif]
        split <;> exact kept
      · split <;> exact kept

/-! ### Channels -/

@[simp] theorem State.issue_hif (s : State) (d ch : Nat) : (s.issue d ch).hif = s.hif := by
  unfold State.issue
  simp only []
  split
  · rfl
  · split
    · simp
    · rw [apply_ite State.hif]
      simp

@[simp] theorem State.goOnDesc_hif (s : State) (d ch : Nat) : (s.goOnDesc d ch).hif = s.hif := by
  unfold State.goOnDesc
  split <;> simp

@[simp] theorem State.nextDesc_hif (s : State) (d ch : Nat) : (s.nextDesc d ch).hif = s.hif := by
  unfold State.nextDesc
  simp only []
  split <;> simp

@[simp] theorem State.startXfer_hif (s : State) (d j part : Nat) : (s.startXfer d j part).hif = s.hif := by
  unfold State.startXfer
  split
  · rfl
  · split <;> simp

@[simp] theorem State.grantXfer_hif (s : State) (d : Nat) (p : Nat × Nat) : (s.grantXfer d p).hif = s.hif := by
  unfold State.grantXfer
  split
  · rfl
  · split <;> simp

@[simp] theorem State.grantChans_hif (s : State) (d : Nat) : (s.grantChans d).hif = s.hif :=
  foldl_keeps State.hif (fun (t : State) p => t.grantXfer d p) (fun t p => t.grantXfer_hif d p) _ _

@[simp] theorem State.kvdGo_hif (s : State) (d : Nat) : (s.kvdGo d).hif = s.hif := by
  unfold State.kvdGo
  split
  · rfl
  · split <;> simp

@[simp] theorem State.goChans_hif (s : State) (d : Nat) : (s.goChans d).hif = s.hif := by simp [State.goChans]

/-! ### Instances and transitions -/

@[simp] theorem State.offerJob_hif (s : State) (d j : Nat) (status : W16) : (s.offerJob d j status).hif = s.hif := by
  unfold State.offerJob
  split <;> simp

@[simp] theorem State.acceptReset_hif (s : State) (n : Nat) : (s.acceptReset n).hif = s.hif := by
  unfold State.acceptReset
  simp only [State.offer_hif]
  rw [foldl_keeps State.hif (fun (t : State) d => t.goChans d) State.goChans_hif, State.allDies_hif, State.modInst_hif,
    foldl_keeps State.hif _ (fun _ _ => State.modDie_hif ..), foldl_keeps State.hif _ (fun _ _ => by simp)]

@[simp] theorem State.dropTransition_hif (s : State) (status : W16) : (s.dropTransition status).hif = s.hif := by
  unfold State.dropTransition State.endTransitionJob
  split
  · rfl
  · simp only []
    split
    · split <;> simp <;> split <;> rfl
    · rfl

@[simp] theorem State.orphanTransition_hif (s : State) : s.orphanTransition.hif = s.hif := by
  unfold State.orphanTransition
  split
  · rfl
  · simp only []
    split <;> simp


@[simp] theorem State.offer_insts (s : State) (o : Offer) : (s.offer o).insts = s.insts := by
  unfold State.offer
  split <;> rfl

end Sys2Proof.Machine

/-! SUPPORT. The resets of R43: when each command meets one, and what it leaves. -/

namespace Sys2Proof.Machine

/-! ### When the function answers (R43, R44) -/

theorem State.linkUp_iff (s : State) : s.linkUp = true ↔ s.hif.link = .l0 ∨ s.hif.link = .l1 := by simp [State.linkUp]

theorem State.fnOpen_of_up {s : State} (hu : s.hif.link = .l0 ∨ s.hif.link = .l1) (hf : s.hif.flrActive = false) : s.fnOpen = true := by
  simp [State.fnOpen, s.linkUp_iff.mpr hu, hf]

theorem State.fnOpen_of_flr {s : State} (hf : s.hif.flrActive = true) : s.fnOpen = false := by simp [State.fnOpen, hf]

/-- A configuration write is taken by an open function. -/
theorem State.cfgWrite_open {s : State} (h : s.fnOpen = true) (f : State → State) : s.cfgWrite f = f s := if_pos h

/-- While the reset of R43 runs it is answered with Request Retry Status. -/
theorem State.cfgWrite_retry {s : State} (hu : s.linkUp = true) (hf : s.hif.flrActive = true) (f : State → State) : s.cfgWrite f = s.send .retryStatus := by
  simp [State.cfgWrite, State.fnOpen_of_flr hf, hu]

theorem opHotReset_up {s : State} (hu : s.linkUp = true) : opHotReset s = s.wake.linkReset := if_pos hu

theorem opDlDown_up {s : State} (hu : s.linkUp = true) : opDlDown s = { s.linkReset with hif := { s.linkReset.hif with link := .training } } := if_pos hu

/-! ### What the reset of R43 leaves -/

/-- An offer to the log touches the log, or a die's entries for it. -/
theorem State.offer_keeps (s : State) (o : Offer) : { s.offer o with alg := s.alg, dies := s.dies } = s := by
  unfold State.offer
  split <;> rfl

/-- The function after the reset of R43: bus mastering and D3hot clear, ACTIVE set and counted, the IDE streams gone. -/
theorem State.linkReset_hif (s : State) : s.linkReset.hif =
    { s.hif with busMaster := false, d3hot := false, flrActive := true, flrCount := satInc s.hif.flrCount, drsSent := false, ide := [] } := by
  unfold State.linkReset
  simp only [State.offer_hif]
  rw [foldl_keeps State.hif (fun (t : State) n => t.acceptReset n) State.acceptReset_hif, State.allDies_hif, State.orphanTransition_hif]

theorem State.linkReset_msix (s : State) : s.linkReset.msix = Msix.reset := congrArg State.msix (State.offer_keeps ..)

theorem State.linkReset_evr (s : State) : s.linkReset.evr = Evr.reset := congrArg State.evr (State.offer_keeps ..)

/-- No job is counted after it. -/
theorem State.linkReset_insts (s : State) : ∀ p ∈ s.linkReset.insts, p.2.jobs = 0 ∧ p.2.busy = 0 := by
  intro p hp
  unfold State.linkReset at hp
  simp only [] at hp
  rw [State.offer_insts] at hp
  obtain ⟨q, _, rfl⟩ := List.mem_map.mp hp
  exact ⟨rfl, rfl⟩

/-! ### Its end (R44) -/

theorem fnReadyDue_of {s : State} (hf : s.hif.flrActive = true) (hj : ∀ d ∈ s.dies, d.jobs = []) (hi : ∀ p ∈ s.insts, p.2.code ≠ .resetting) :
    fnReadyDue s = true := by
  simp only [fnReadyDue, hf, Bool.true_and, Bool.and_eq_true, List.all_eq_true, List.isEmpty_iff, decide_eq_true_eq]
  exact ⟨hj, hi⟩

/-- Settles O42: each command through `cfgWrite` or the state of the link, and the reset itself through what it leaves of each part. -/
theorem linkResets : Obligations.LinkResets := by
  unfold Obligations.LinkResets
  intro s
  refine ⟨fun hu hf => ?taken, fun hu => ?link, ?reset, fun hf hu => ?retry, fun hf hj hi => ?ready⟩
  case taken =>
    have ho := State.fnOpen_of_up hu hf
    refine ⟨congrArg ret (State.cfgWrite_open ho _), congrArg ret (State.cfgWrite_open ho _), fun hd => ?_, fun on => congrArg ret (State.cfgWrite_open ho _)⟩
    exact congrArg ret ((State.cfgWrite_open ho _).trans (if_pos hd))
  case link =>
    have hl := s.linkUp_iff.mpr hu
    exact ⟨congrArg ret (opHotReset_up hl), congrArg ret (opDlDown_up hl)⟩
  case reset =>
    intro t
    simp only [t]
    rw [State.linkReset_hif]
    exact ⟨rfl, rfl, rfl, rfl, s.linkReset_msix, s.linkReset_evr, rfl, s.linkReset_insts⟩
  case retry =>
    have k (f : State → State) : ret (s.cfgWrite f) = .next (settle (s.send .retryStatus)) := congrArg ret (s.cfgWrite_retry (s.linkUp_iff.mpr hu) hf f)
    simp only [List.forall_mem_cons, List.not_mem_nil, false_implies, implies_true, and_true]
    exact ⟨k _, k _, k _, k _, k _, k _, k _, k _, k _⟩
  case ready =>
    have due := fnReadyDue_of hf hj hi
    refine ⟨fun hu => congrArg ret ?_, fun hu => congrArg ret ?_⟩
    · exact (if_pos due).trans (if_pos (State.linkUp_iff _ |>.mpr hu))
    · exact (if_pos due).trans (if_neg (mt (State.linkUp_iff _).mp hu))

end Sys2Proof.Machine

/-! SUPPORT. How a command reaches a window, a portal or a register: the rules that the statements about host access share. -/

namespace Sys2Proof.Machine

/-! ### Admission (R38, R44, R51, R449) -/

/-- In L0 there is nothing to wake. -/
theorem State.wake_l0 {s : State} (h : s.hif.link = .l0) : s.wake = s := by simp [State.wake, h]

/-- The link is in L0 and no reset of R43 runs: a command reaches the device. -/
structure State.Answers (s : State) : Prop where
  link : s.hif.link = .l0
  idle : s.hif.flrActive = false

theorem State.Answers.fnOpen {s : State} (h : s.Answers) : s.fnOpen = true := State.fnOpen_of_up (.inl h.link) h.idle

theorem State.Answers.linkUp {s : State} (h : s.Answers) : s.linkUp = true := s.linkUp_iff.mpr (.inl h.link)

theorem State.Answers.wake {s : State} (h : s.Answers) : s.wake = s := State.wake_l0 h.link

/-- A command through a portal. -/
theorem State.Answers.atPortal {s : State} (h : s.Answers) (f : State → State) : s.atPortal f = f s := by
  simp [State.atPortal, h.fnOpen, h.wake]

/-- A die's window takes commands: the die is there and reachable, and no recorded write of it waits. -/
structure State.Takes (s : State) (d : Nat) : Prop where
  there : d < s.dies.length
  window : d < 8
  reachable : (s.die d).reachable = true
  settled : s.writesWait d = false

theorem State.Takes.settleWrites {s : State} {d : Nat} (h : s.Takes d) : s.settleWrites d = s := by simp [State.settleWrites, h.settled]

/-- A command through a die's window. -/
theorem State.Answers.atWindow {s : State} (h : s.Answers) {d : Nat} (k : s.Takes d) (f : State → State) : s.atWindow d f = f s := by
  have h8 : ¬ 8 ≤ d := Nat.not_le.mpr k.window
  have hn : ¬ s.nDies ≤ d := Nat.not_le.mpr k.there
  simp [State.atWindow, h.fnOpen, h8, hn, k.reachable, h.wake, k.settleWrites]

/-! ### The place of a register (R53) -/

/-- A register's window offset gives its block, page and offset back. -/
theorem woffParts_woff {blk e o : Nat} (he : e < 16) (ho : o < 0x1000) : woffParts (woff blk e o) = (blk, e, o) := by
  simp only [woffParts, woff, Prod.mk.injEq]
  omega

/-- No other register has DEV_RESET's place. -/
theorem woff_ne_devReset {blk e o : Nat} (he : e < 16) (ho : o < 0x1000) (h : ¬ (blk = HIF ∧ o = 0x108)) : woff blk e o ≠ woff HIF 0 0x108 := by
  intro k
  have := congrArg woffParts k
  rw [woffParts_woff he ho, woffParts_woff (by decide) (by decide)] at this
  simp only [Prod.mk.injEq] at this
  exact h ⟨this.1, this.2.2⟩

end Sys2Proof.Machine

/-! SUPPORT. Recorded register writes: what is offered, and what each does once accepted. -/

namespace Sys2Proof.Machine

/-! ### What is offered (R448, R449, R451) -/

/-- A recorded write is offered, or counted in MISSED while the log is stopped. -/
def State.offered (s : State) (d off : Nat) (w : RegW) : State :=
  if s.alg.stopped = true then s.miss else s.offer (s.writeOffer d off w.value w.rid)

/-- So is every recorded write but that of DEV_RESET. -/
theorem State.recordedWrite_eq (s : State) (d : Nat) {off : Nat} (h : off ≠ woff HIF 0 0x108) (w : RegW) :
    s.recordedWrite d off w.value w.rid = s.offered d off w := by
  simp [State.recordedWrite, State.offered, h]

/-- DEV_RESET's, but for its key while the log is stopped. -/
theorem State.recordedWrite_devReset (s : State) (d : Nat) (w : RegW) : s.recordedWrite d (woff HIF 0 0x108) w.value w.rid =
    if s.alg.stopped = true ∧ w.value = 0xA55A then s.warmSource 4 else s.offered d (woff HIF 0 0x108) w := by
  by_cases hs : s.alg.stopped = true <;> by_cases hv : w.value = 0xA55A <;> simp [State.recordedWrite, State.offered, hs, hv]

theorem opRecorded_eq {s : State} {d blk inst o : Nat} (k : s.Takes d) (hi : inst < pagesOf blk) (w : RegW) :
    opRecorded d blk inst o w s = s.recordedWrite d (woff blk inst o) w.value w.rid := by
  simp [opRecorded, k.reachable, hi, State.nDies, k.there]

/-- A command that writes a recorded register but DEV_RESET. -/
theorem State.Answers.recorded {s : State} (h : s.Answers) {d blk inst o : Nat} (k : s.Takes d) (hi : inst < pagesOf blk) (he : inst < 16) (ho : o < 0x1000)
    (hr : ¬ (blk = HIF ∧ o = 0x108)) (w : RegW) : s.atWindow d (opRecorded d blk inst o w) = s.offered d (woff blk inst o) w := by
  rw [h.atWindow k, opRecorded_eq k hi, s.recordedWrite_eq d (woff_ne_devReset he ho hr)]

theorem State.Answers.devReset {s : State} (h : s.Answers) (k : s.Takes 0) (w : RegW) : s.atWindow 0 (opRecorded 0 HIF 0 0x108 w) =
    if s.alg.stopped = true ∧ w.value = 0xA55A then s.warmSource 4 else s.offered 0 (woff HIF 0 0x108) w := by
  rw [h.atWindow k, opRecorded_eq k (by decide), s.recordedWrite_devReset]

theorem State.Answers.lock {s : State} (h : s.Answers) {d blk e : Nat} (k : s.Takes d) (he : e < 16) (hd : s.deaf d blk e 0x00C = false) (w : RegW) :
    opLock ⟨d, blk, e⟩ w s = s.offered d (woff blk e 0x00C) w := by
  simp only [opLock, h.atWindow k, hd, Bool.false_eq_true, if_false]
  exact s.recordedWrite_eq d (woff_ne_devReset he (by decide) (by simp)) w

/-- The entry of a write names the register, its old and new value and the Requester ID. -/
theorem State.writeOffer_eq (s : State) (d : Nat) {blk e o : Nat} (v : W32) (rid : W16) (he : e < 16) (ho : o < 0x1000) (hr : ¬ (blk = HIF ∧ o = 0x108)) :
    let x := s.writeOffer d (woff blk e o) v rid
    x.kind = 1 ∧ x.die = d ∧ x.event = 0x1000 + blk ∧ x.object = woff blk e o ∧ x.rid = rid ∧
      x.digestOf = leBytes 4 (s.oldValue d (woff blk e o)).toNat ++ leBytes 4 v.toNat := by
  have blkOf : woff blk e o / 0x10000 = blk := congrArg Prod.fst (woffParts_woff (blk := blk) he ho)
  simp [State.writeOffer, woff_ne_devReset he ho hr, Offer.of, blkOf]

/-! ### What an accepted write does -/

section
variable (s : State) (d : Nat) {e : Nat} (v : W32)

theorem State.applyReg_lock (blk : Nat) (he : e < 16) : s.applyReg d (woff blk e 0x00C) v = if bit v 0 = true then s.setReg d blk e 0x00C 1 else s := by
  simp [State.applyReg, woffParts_woff he]

theorem State.applyReg_lve (he : e < 16) : s.applyReg d (woff LVE e 0x010) v = s.lveCtrl d e v := by
  simp [State.applyReg, woffParts_woff he]

theorem State.applyReg_mcs (he : e < 16) : s.applyReg d (woff MCS e 0x010) v = s.mcsCtrl d e v := by
  simp [State.applyReg, woffParts_woff he]

theorem State.applyReg_bne (he : e < 16) : s.applyReg d (woff BNE e 0x010) v = s.bneCtrl d e v := by
  simp [State.applyReg, woffParts_woff he]

theorem State.applyReg_sye (he : e < 16) : s.applyReg d (woff SYE e 0x010) v = s.syeCtrl d e v := by
  simp [State.applyReg, woffParts_woff he]

theorem State.applyReg_channel : s.applyReg d (woff DMX 0 0x104) v = s.chCtrl d v := rfl
theorem State.applyReg_source : s.applyReg d (woff FCL 0 0x10C) v = s.srcClear d v := rfl
theorem State.applyReg_faultPin : s.applyReg d (woff FCL 0 0x130) v = s.faultPin v := rfl
theorem State.applyReg_instCmd : s.applyReg d (woff VIM 0 0x110) v = s.instCmd v := rfl
theorem State.applyReg_qcmd : s.applyReg d (woff CIU 0 0x204) v = s.qcmd 0 v := rfl
theorem State.applyReg_dieReset : s.applyReg d (woff RLK 0 0x20C) v = s.dieResetReq v := rfl
theorem State.applyReg_devReset : s.applyReg d (woff HIF 0 0x108) 0xA55A = s.warmSource 4 := rfl

/-- The order 2 of QCMD dissolves the quorum. -/
theorem State.qcmd_dissolve (hv : bits v 0 2 = 2) : s.qcmd 0 v = State.dissolve (s.offer (Offer.of 6 0 0x5005 0)) := by
  simp [State.qcmd, hv, Offer.of]

/-- The key of DIE_RESET marks a die that is neither the holder nor excluded, outside a split baton. -/
theorem State.dieResetReq_marks {k : Nat} (hk : k < s.dies.length) (hd : bits v 0 3 = k) (hv : bits v 16 16 = 0xA55A) (hh : s.baton.holder ≠ some k)
    (hx : (s.die k).state ≠ .excluded) (hs : s.baton.result ≠ .split) : s.dieResetReq v = s.modDie k (fun x => { x with resetReq := true }) := by
  simp [State.dieResetReq, hd, hv, State.nDies, hk, hh, hx, hs]

end

/-- Settles O44: an offer through the window of its die, and each accepted write through the arm of `applyReg` that its place selects. -/
theorem recordedWrites : Obligations.RecordedWrites := by
  unfold Obligations.RecordedWrites
  intro s d e w hl hf he
  have h : s.Answers := ⟨hl, hf⟩
  refine ⟨fun hd h8 hr hw => ?offers, fun v => ?effects⟩
  case offers =>
    have k : s.Takes d := ⟨hd, h8, hr, hw⟩
    have sends {blk inst o : Nat} (hi : inst < pagesOf blk) (hn : inst < 16) (ho : o < 0x1000) (hr : ¬ (blk = HIF ∧ o = 0x108)) :
        ret (s.atWindow d (opRecorded d blk inst o w)) = ret (s.offered d (woff blk inst o) w) := congrArg ret (h.recorded k hi hn ho hr w)
    refine ⟨fun blk hd => congrArg ret (h.lock k he hd w), sends he he (by decide) (by decide), sends he he (by decide) (by decide),
      fun h4 => ⟨sends h4 he (by decide) (by decide), sends h4 he (by decide) (by decide)⟩,
      fun h2 => ⟨sends h2 he (by decide) (by decide), sends h2 he (by decide) (by decide)⟩,
      sends (by decide) (by decide) (by decide) (by decide), sends (by decide) (by decide) (by decide) (by decide), ?onDieZero,
      fun blk o ho hn => s.writeOffer_eq d w.value w.rid he ho hn⟩
    rintro rfl
    refine ⟨sends (by decide) (by decide) (by decide) (by decide), sends (by decide) (by decide) (by decide) (by decide),
      sends (by decide) (by decide) (by decide) (by decide), sends (by decide) (by decide) (by decide) (by decide),
      sends (by decide) (by decide) (by decide) (by decide), ?_⟩
    exact (congrArg ret (h.devReset k w)).trans (apply_ite ret ..)
  case effects =>
    refine ⟨fun blk => s.applyReg_lock d v blk he, s.applyReg_lve d v he, fun hv => ?mcs, fun hv => ?offline, fun hv => ?unfence, s.applyReg_channel d v, s.applyReg_source d v,
      s.applyReg_faultPin 0 v, s.applyReg_devReset 0, fun hv => ?inst, fun hv => s.qcmd_dissolve v hv,
      fun k hk hd hv hh hx hs => s.dieResetReq_marks v hk hd hv hh hx hs, fun x l => rfl⟩
    case mcs => exact (s.applyReg_mcs d v he).trans (if_pos hv)
    case offline =>
      have hv' : ¬ bit v 1 = true := by simp [hv]
      exact ⟨(s.applyReg_bne d v he).trans (if_neg hv'), (s.applyReg_sye d v he).trans (if_neg hv')⟩
    case unfence => exact ⟨(s.applyReg_bne d v he).trans (if_pos hv), (s.applyReg_sye d v he).trans (if_pos hv)⟩
    case inst => exact (s.applyReg_instCmd 0 v).trans (if_pos hv)

end Sys2Proof.Machine

/-! SUPPORT. The portal's registers: the mailbox, staged keys and attestation. -/

namespace Sys2Proof.Machine

/-! ### Tables, dies and portals -/

/-- Of two writes of one key the second stays. -/
theorem Assoc.set_set {α : Type} (m : Assoc α) (a : Nat) (x y : α) : Assoc.set (Assoc.set m a x) a y = Assoc.set m a y := by
  induction m with
  | nil => simp [Assoc.set]
  | cons c m ih =>
    obtain ⟨b, z⟩ := c
    by_cases hb : b = a
    · simp [Assoc.set, hb]
    · by_cases hlt : a < b
      · simp [Assoc.set, hb, hlt]
      · simp [Assoc.set, hb, hlt, ih]

/-- An update of a die is what it makes of that die. -/
theorem State.modDie_congr {s : State} {d : Nat} {f g : Die → Die} (h : f (s.die d) = g (s.die d)) : s.modDie d f = s.modDie d g := by
  have e : s.dies.modify d f = s.dies.modify d g := by
    apply List.ext_getElem?
    intro i
    rw [List.getElem?_modify, List.getElem?_modify]
    by_cases hi : d = i
    · subst hi
      cases hx : s.dies[d]? with
      | none => rfl
      | some x =>
        have : s.die d = x := by simp [State.die, List.getD_eq_getElem?_getD, hx]
        rw [this] at h
        simp [h]
    · simp [hi]
  simp only [State.modDie, e]

@[simp] theorem State.modInst_inst (s : State) (n : Nat) (f : Inst → Inst) : (s.modInst n f).inst n = f (s.inst n) := by
  simp [State.modInst, State.setInst, State.inst, Assoc.getD, Assoc.get?_set]

theorem State.modInst_modInst (s : State) (n : Nat) (f g : Inst → Inst) : (s.modInst n f).modInst n g = s.modInst n (fun x => g (f x)) := by
  have e := s.modInst_inst n f
  unfold State.modInst at e ⊢
  rw [e]
  simp only [State.setInst, Assoc.set_set]

/-! ### The mailbox (R355, R356) -/

/-- A change of the mailbox raises no event of the portal. -/
theorem State.modMb_eq (s : State) (n : Nat) (f : Mailbox → Mailbox) :
    s.modMb n f = s.modInst n (fun x => { x with portal := { x.portal with mb := f x.portal.mb } }) := by
  have quiet : (fun (t : State) (i : Nat) =>
      if Portal.raises { (s.inst n).portal with mb := f (s.inst n).portal.mb } i && !(s.inst n).portal.raises i then t.iitEvent (8 * n + i) else t) =
      fun t _ => t := by
    funext t i
    simp [Portal.raises]
  unfold State.modMb State.modPortal
  simp only [quiet, List.foldl_fixed]
  rfl

theorem State.modMb_modMb (s : State) (n : Nat) (f g : Mailbox → Mailbox) : (s.modMb n f).modMb n g = s.modMb n (fun m => g (f m)) := by
  simp only [State.modMb_eq, State.modInst_modInst]

@[simp] theorem State.modMb_mb (s : State) (n : Nat) (f : Mailbox → Mailbox) : ((s.modMb n f).inst n).portal.mb = f (s.inst n).portal.mb := by
  simp [State.modMb_eq]

@[simp] theorem State.modMb_cfg (s : State) (n : Nat) (f : Mailbox → Mailbox) : ((s.modMb n f).inst n).cfg = (s.inst n).cfg := by simp [State.modMb_eq]

@[simp] theorem State.modMb_dies (s : State) (n : Nat) (f : Mailbox → Mailbox) : (s.modMb n f).dies = s.dies := by rw [State.modMb_eq]; rfl

@[simp] theorem State.modMb_hif (s : State) (n : Nat) (f : Mailbox → Mailbox) : (s.modMb n f).hif = s.hif := by rw [State.modMb_eq]; rfl

@[simp] theorem State.modMb_die (s : State) (n d : Nat) (f : Mailbox → Mailbox) : (s.modMb n f).die d = s.die d := by simp [State.die]

@[simp] theorem State.modMb_hostOpen (s : State) (n : Nat) (f : Mailbox → Mailbox) : (s.modMb n f).hostOpen = s.hostOpen := by simp [State.hostOpen]

@[simp] theorem State.modMb_mbArea (s : State) (n : Nat) (f : Mailbox → Mailbox) : (s.modMb n f).mbArea = s.mbArea := by simp [State.mbArea, State.reg]

@[simp] theorem State.modMb_kvdOpen (s : State) (n d : Nat) (f : Mailbox → Mailbox) : (s.modMb n f).kvdOpen d = s.kvdOpen d := by simp [State.kvdOpen]

/-- A read given to an idle channel 12 goes out at once where the channel is open, and waits where it is not. -/
theorem State.kvdRead_idle {s : State} {d : Nat} (hd : d < s.dies.length) (hi : (s.die d).kvdReads = []) {r : KvdRead} (hr : r.sent = false) :
    s.kvdRead d r = (fun (t : State) => if s.kvdOpen d = true then
        ((t.modDie d (fun y => { y with kvdReads := [{ r with sent := true }] })).send (.read d r.what r.addr r.len r.pasid r.noSnoop)).countBytes d false r.len
      else t) (s.modDie d (fun y => { y with kvdReads := [r] })) := by
  have e : s.modDie d (fun y => { y with kvdReads := y.kvdReads ++ [r] }) = s.modDie d (fun y => { y with kvdReads := [r] }) :=
    State.modDie_congr (by rw [hi]; rfl)
  have hk : ((s.modDie d (fun y => { y with kvdReads := [r] })).die d).kvdReads = [r] := by simp [State.modDie_die, hd]
  have ho : (s.modDie d (fun y => { y with kvdReads := [r] })).kvdOpen d = s.kvdOpen d := by
    simp [State.kvdOpen, State.hostOpen, State.modDie_die, hd, Die.chan]
  unfold State.kvdRead
  rw [e]
  unfold State.kvdGo
  rw [hk]
  simp only [hr, ho]
  by_cases hs : s.kvdOpen d = true <;> simp [hs]

section
variable {s : State} {n : Nat} {v : W32} (ho : portalOpen n s = true) (hv : bit v 0 = true) (ha : bit v 1 = false)

include ho in
theorem opMbAck_open : opMbAck n s = s.modMb n (fun m => { m with fromFull := false }) := if_pos ho

include ho hv ha in
/-- A SEND without an ACK. -/
theorem opMbSend_send : opMbSend n v s = mbSendOnly n (bit v 2) s := by simp [opMbSend, ho, hv, ha]

end

theorem mbSendOnly_full {s : State} {n : Nat} {b : Bool} (hf : (s.inst n).portal.mb.toFull = true ∨ (s.inst n).portal.mb.bufBusy = true) :
    mbSendOnly n b s = s.modMb n (fun m => { m with overflow := true }) := by
  rcases hf with hf | hf <;> simp [mbSendOnly, hf]

section
variable {s : State} {n : Nat} (hf : (s.inst n).portal.mb.toFull = false) (hb : (s.inst n).portal.mb.bufBusy = false)
include hf hb

theorem mbSendOnly_plain : mbSendOnly n false s = ((s.modMb n (fun m => { m with overflow := false })).modMb n (fun m =>
    { m with toFull := true, bufBusy := false, buf := false })).event 0 VIM 0 0 := by
  simp [mbSendOnly, hf, hb, State.mbDeliver]

theorem mbSendOnly_buffer (hl : 0 < ((s.inst n).portal.mb.toMgr.getD 15 0).toNat) (hc : ((s.inst n).portal.mb.toMgr.getD 15 0).toNat ≤ 4096)
    (hz : s.mbArea ≠ 0) : mbSendOnly n true s =
      ((s.modMb n (fun m => { m with overflow := false })).modMb n (fun m => { m with bufBusy := true })).mbFetch n := by
  have hl' : ((s.inst n).portal.mb.toMgr.getD 15 0).toNat ≠ 0 := by omega
  have hc' : ¬ 4096 < ((s.inst n).portal.mb.toMgr.getD 15 0).toNat := by omega
  simp only [mbSendOnly, hf, hb, Bool.or_false, Bool.not_true, if_false, Bool.false_eq_true, hl', hc', State.modMb_mbArea, hz, or_self]

end

end Sys2Proof.Machine

/-! SUPPORT. The rules of staged keys and attestation (R162, R177, R178), and the end of a mailbox buffer (R356). -/

namespace Sys2Proof.Machine

/-- The buffer's data has come: it is stored once the function may issue requests, and the message is delivered. -/
theorem State.mbGood_open {s : State} {n : Nat} (hs : s.kvdSent 0 (.mailbox n) = true) (ho : s.hostOpen = true) (data : List Byte) :
    s.mbGood n data = ((((((s.modMb n (fun m => { m with bufData := none })).send (.write (s.mbArea + BitVec.ofNat 64 (n * 0x1000)) data none false)).countBytes 0 true
      data.length).modMb n (fun m => { m with toFull := true, bufBusy := false, buf := true, bufErr := false })).event 0 VIM 0 0).kvdDone 0) := by
  simp [State.mbGood, hs, State.mbStore, ho, State.modMb_modMb, State.mbDeliver]

theorem State.mbGood_closed {s : State} {n : Nat} (hs : s.kvdSent 0 (.mailbox n) = true) (ho : s.hostOpen = false) (data : List Byte) :
    s.mbGood n data = (s.modMb n (fun m => { m with bufData := some data })).kvdDone 0 := by
  simp [State.mbGood, hs, State.mbStore, ho]

@[simp] theorem State.aerCause_dies (s : State) (cause : Nat) : (s.aerCause cause).dies = s.dies := by
  unfold State.aerCause
  split
  · rfl
  · split
    · rfl
    · split <;> rfl

theorem State.aerCause_kvdSent (s : State) (cause d : Nat) (what : ReadOf) : (s.aerCause cause).kvdSent d what = s.kvdSent d what := by
  simp [State.kvdSent, State.die]

/-- The buffer's read has failed. -/
theorem State.mbFailed_sent {s : State} {n : Nat} (hs : s.kvdSent 0 (.mailbox n) = true) :
    s.mbFailed n = (((s.count 0 HIF 0 0x118).modMb n (fun m => { m with toFull := true, bufBusy := false, buf := false, bufErr := true })).event 0 VIM 0 0).kvdDone 0 := by
  simp [State.mbFailed, hs, State.mbDeliver]

/-! ### Staged keys (R162) -/

/-- OP of a command word. -/
theorem stageWord_op {op : Nat} (w : W32) (h : op < 4) : bits (stageWord op w) 3 2 = op := by
  have e : (stageWord op w).extractLsb' 3 2 = BitVec.ofNat 2 op := by
    apply BitVec.eq_of_getLsbD_eq
    intro i hi
    interval_cases op <;> interval_cases i <;> simp [stageWord]
  have := congrArg BitVec.toNat e
  rw [BitVec.extractLsb'_toNat, BitVec.toNat_ofNat, Nat.mod_eq_of_lt h] at this
  exact this

theorem State.stageErr_locked {s : State} (h : s.pkg.lock = true ∨ s.alg.stopped = true) (n : Nat) (cmd : W32) (key : List Byte) : s.stageErr n cmd key = 6 := if_pos h

theorem State.stageErr_reserved {s : State} (hl : s.pkg.lock = false) (hs : s.alg.stopped = false) {cmd : W32} (hc : bits cmd 3 2 = 3) (n : Nat) (key : List Byte) :
    s.stageErr n cmd key = 8 := by
  simp [State.stageErr, hl, hs, hc]

/-- The state with an accepted staging command. -/
def State.stageTaken (s : State) (n : Nat) (cmd : W32) : State :=
  let k := (s.inst n).portal.keys
  let key := (wordsBytes k.ksData).take (bits cmd 16 7)
  (s.modPk n (fun k => { k with
    ksState := 1, ksSlot := bits cmd 0 3, ksErr := BitVec.ofNat 8 (s.stageErr n cmd key), ksCmd := cmd, ksKey := key, ksData := List.replicate 16 0 })).recordStage n cmd
      (s.stageErr n cmd key)

section
variable {s : State} {n : Nat} (ho : portalOpen n s = true) (ha : (s.inst n).code = .active) (hk : (s.inst n).portal.keys.ksState ≠ 1)
include ho ha hk

/-- The portal takes staging commands. -/
theorem stage_admitted : (!portalOpen n s || decide ((s.inst n).code ≠ .active) || decide ((s.inst n).portal.keys.ksState = 1)) = false := by
  simp only [ho, ha, hk, ne_eq, not_true_eq_false, decide_false, Bool.not_true, Bool.or_self]

theorem State.stageCmd_taken (cmd : W32) : s.stageCmd n cmd = s.stageTaken n cmd := by
  simp only [State.stageCmd, stage_admitted ho ha hk, Bool.false_eq_true, if_false]
  rfl

theorem opKstageOpRefused_taken (w : W32) : opKstageOpRefused n w s = opKstageDone n (s.stageTaken n (stageWord 3 w)) := by
  simp only [opKstageOpRefused, stage_admitted ho ha hk, Bool.false_eq_true, if_false, State.stageCmd_taken ho ha hk]

end

/-- A staging command that met an error ends without effect. -/
theorem opKstageDone_error {s : State} {n : Nat} (hk : (s.inst n).portal.keys.ksState = 1) (he : (s.inst n).portal.keys.ksErr ≠ 0) :
    opKstageDone n s = (s.modPk n (fun k => { k with ksState := 3, ksKey := [] })).portalEvent n 11 := by
  simp only [opKstageDone, hk, he, ne_eq, not_true_eq_false, if_false, decide_false, Bool.false_eq_true]

/-- A die makes room for a staged key. -/
def State.stageRoom (k : PortalKeys) (n : Nat) (u : State) (d : Nat) : State :=
  u.freed d ((u.transientRoom d n (bits k.ksCmd 0 3) k.ksKey.length).getD (u.die d).kvd)

theorem opKstageDone_good {s : State} {n : Nat} (hk : (s.inst n).portal.keys.ksState = 1) (he : (s.inst n).portal.keys.ksErr = 0) :
    opKstageDone n s =
      let k := (s.inst n).portal.keys
      let t := if bits k.ksCmd 3 2 = 0 then s.dieList.foldl (State.stageRoom k n) s else s
      ((t.modInst n (fun i => { i with transients := stageApply k.ksCmd k.ksKey i.transients })).modPk n (fun k => { k with ksState := 2, ksKey := [] })).portalEvent n 11 := by
  simp only [opKstageDone, hk, he, ne_eq, not_true_eq_false, if_false, decide_true, if_true]
  rfl

/-! ### Attestation (R177, R178) -/

section
variable {s : State} {n : Nat} {v : W32} (ho : portalOpen n s = true) (hk : (s.inst n).portal.keys.attState ≠ 1) (hv : bit v 31 = true)

/-- An attestation command is under way. -/
def State.attBusy (s : State) (n : Nat) (v : W32) (t : State) (code : W16) (job : Option Nat) : State :=
  t.modPk n (fun k => { k with
    attState := 1, attVerifier := bits v 0 6, attCode := code, attJob := job, attMsg := s.attMessage n (bits v 0 6) s.bbd.rtc.toNat (wordsBytes k.attChal), attResp := List.replicate 64 0 })

include ho hk hv

theorem att_admitted : (!portalOpen n s || decide ((s.inst n).portal.keys.attState = 1) || !bit v 31) = false := by
  simp only [ho, hk, hv, decide_false, Bool.not_true, Bool.or_self]

theorem opAttCmd_refused {f : W16 × W32} (hc : s.secCheck 0 (attJob (bits v 0 6)) = some f) : opAttCmd n v s = s.attBusy n v s f.1 none := by
  simp only [opAttCmd, att_admitted ho hk hv, hc, Bool.false_eq_true, if_false]
  rfl

theorem opAttCmd_taken (hc : s.secCheck 0 (attJob (bits v 0 6)) = none) : opAttCmd n v s =
    let x := attJob (bits v 0 6)
    let x := { x with data := { x.data with wants := [s.mkWant x .verifier (BitVec.ofNat 32 (0x10000002 + bits v 0 6))] } }
    s.attBusy n v ((s.addJob 0 x).advance 0 (s.die 0).nextJob) 0 (some (s.die 0).nextJob) := by
  simp only [opAttCmd, att_admitted ho hk hv, hc, Bool.false_eq_true, if_false]
  rfl

end

section
variable {s : State} {n j : Nat} {x : Job} {r : Slot} (hk : (s.inst n).portal.keys.attState = 1) (hj : (s.inst n).portal.keys.attJob = some j)
  (hx : s.job? 0 j = some x) (hf : x.failed = none) (hr : s.jobKey 0 x 0 = some r) (hl : s.pkg.lock = false)

include hj hx hf hr hl in

theorem attOutcome_loaded : s.attOutcome n = some (if r.granted n = true then (stOk, attResponse (r.payload.drop 2) (s.inst n).portal.keys.attMsg) else (stKeyNotFound, [])) := by
  unfold State.attOutcome
  simp only [hj, Option.bind_some, hx, hf, hr, hl, Bool.false_eq_true, if_false]
  split <;> rfl

include hk hj hx hf hr hl

theorem opAttDone_granted (hg : r.granted n = true) : opAttDone n s = ((s.modDie 0 (fun y => y.dropJob j)).modPk n (fun k' => { k' with
    attState := 2, attCode := stOk, attJob := none, attMsg := [], attResp := attResponse (r.payload.drop 2) (s.inst n).portal.keys.attMsg })).portalEvent n 10 := by
  simp only [opAttDone, hk, ne_eq, not_true_eq_false, if_false, attOutcome_loaded hj hx hf hr hl, hg, hj, if_true]

theorem opAttDone_withheld (hg : r.granted n = false) : opAttDone n s = ((s.modDie 0 (fun y => y.dropJob j)).modPk n (fun k' => { k' with
    attState := 3, attCode := stKeyNotFound, attJob := none, attMsg := [] })).portalEvent n 10 := by
  simp only [opAttDone, hk, ne_eq, not_true_eq_false, if_false, attOutcome_loaded hj hx hf hr hl, hg, Bool.false_eq_true, hj]
  rfl

end

end Sys2Proof.Machine

/-! PROOF. The registers of a portal. -/

namespace Sys2Proof.Machine

/-- The read of a SEND's buffer. -/
def State.mbRead (s : State) (n : Nat) : KvdRead :=
  let m := (s.inst n).portal.mb
  ⟨.mailbox n, m.toMgr.getD 14 0 ++ m.toMgr.getD 13 0, (m.toMgr.getD 15 0).toNat, some (s.inst n).cfg.pasid, false, n, false, false⟩

/-- A SEND with a buffer reads it over channel 12 of die 0 (R356). -/
theorem mbSendOnly_fetches {s : State} {n : Nat} (hf : (s.inst n).portal.mb.toFull = false) (hb : (s.inst n).portal.mb.bufBusy = false)
    (hl : 0 < ((s.inst n).portal.mb.toMgr.getD 15 0).toNat) (hc : ((s.inst n).portal.mb.toMgr.getD 15 0).toNat ≤ 4096) (hz : s.mbArea ≠ 0)
    (hi : (s.die 0).kvdReads = []) (hd : 0 < s.dies.length) : mbSendOnly n true s =
      (fun (t : State) => if s.kvdOpen 0 = true then
        ((t.modDie 0 (fun y => { y with kvdReads := [{ s.mbRead n with sent := true }] })).send
          (.read 0 (.mailbox n) (s.mbRead n).addr (s.mbRead n).len (s.mbRead n).pasid false)).countBytes 0 false (s.mbRead n).len
      else t) (((s.modMb n (fun m => { m with overflow := false })).modMb n (fun m => { m with bufBusy := true })).modDie 0 (fun y => { y with kvdReads := [s.mbRead n] })) := by
  rw [mbSendOnly_buffer hf hb hl hc hz]
  have read (u : State) (hu : u.mbRead n = s.mbRead n) : u.mbFetch n = u.kvdRead 0 (s.mbRead n) := hu ▸ rfl
  rw [read _ (by simp only [State.mbRead, State.modMb_mb, State.modMb_cfg]), State.kvdRead_idle (by simpa using hd) (by simpa using hi) rfl]
  simp only [State.modMb_kvdOpen]
  rfl

/-- P_RESET (R61, R357). -/
theorem portalReset {s : State} (h : s.Answers) (n : Nat) :
    ((s.inst n).code = .active → (s.inst n).work.resetWaiting = false →
      exec (.pReset n 1) s = .next (settle (s.modInst n (fun x => { x with work := { x.work with resetWaiting := true } })))) ∧
    ((s.inst n).code = .resetting ∨ (s.inst n).code = .active ∧ (s.inst n).work.resetWaiting = true → exec (.pReset n 1) s = .next (settle (s.count 0 VIM 0 0x220))) ∧
    (∀ v, v ≠ 1 → exec (.pReset n v) s = .next (settle s)) := by
  have one : s.atPortal (opPReset n 1) = s.requestReset n false := (h.atPortal _).trans (if_pos rfl)
  refine ⟨fun ha hw => congrArg ret (one.trans ?_), fun hc => congrArg ret (one.trans ?_), fun v hv => congrArg ret ((h.atPortal _).trans (if_neg hv))⟩
  · simp [State.requestReset, ha, hw]
  · rcases hc with hc | ⟨ha, hw⟩
    · simp [State.requestReset, hc]
    · simp [State.requestReset, ha, hw]

/-- Settles O45: the mailbox, the staging registers and the attestation registers, each by the rules of its operation. -/
theorem portalRequests : Obligations.PortalRequests := by
  unfold Obligations.PortalRequests
  intro s n hl hf
  have h : s.Answers := ⟨hl, hf⟩
  refine ⟨portalReset h n, fun ho => ⟨?ack, fun v hv ha => ⟨?full, ?plain, ?buffer⟩, fun hs => ⟨?good, ?failed⟩⟩, fun hd hr hw hn => ⟨?mgrAck, ?mgrSend, ?mgrFull⟩, fun ho ha hk w => ?stage,
    fun hk => ?staged, fun v ho hk hv => ?att, fun hk j x r hj hx hf hr hl => ?attDone⟩
  case ack => exact congrArg ret ((h.atPortal _).trans (opMbAck_open ho))
  case full => exact fun hb => congrArg ret ((h.atPortal _).trans ((opMbSend_send ho hv ha).trans (mbSendOnly_full hb)))
  case plain =>
    intro hb hz h2
    refine congrArg ret ((h.atPortal _).trans ((opMbSend_send ho hv ha).trans ?_))
    rw [h2]
    exact mbSendOnly_plain hb hz
  case buffer =>
    intro hb hz h2 h0 hc hm hq hd r t
    have sent := (opMbSend_send ho hv ha).trans ((congrArg (mbSendOnly n · s) h2).trans (mbSendOnly_fetches hb hz h0 hc hm hq hd))
    exact ⟨fun hk => congrArg ret ((h.atPortal _).trans (sent.trans (if_pos hk))),
      fun hk => congrArg ret ((h.atPortal _).trans (sent.trans (if_neg (Bool.not_eq_true _ ▸ hk))))⟩
  case good =>
    exact fun data _ => ⟨fun hg => congrArg ret (State.mbGood_open hs hg data), fun hg => congrArg ret (State.mbGood_closed hs hg data)⟩
  case failed =>
    exact fun cause => congrArg ret (State.mbFailed_sent ((s.aerCause_kvdSent cause 0 _).trans hs))
  case mgrAck =>
    subst hn
    exact congrArg ret (h.atWindow ⟨hd, by decide, hr, hw⟩ _)
  case mgrSend =>
    subst hn
    exact fun hc hm => congrArg ret ((h.atWindow ⟨hd, by decide, hr, hw⟩ _).trans (by simp [opMgrMbSend, hc, hm]))
  case mgrFull =>
    subst hn
    exact fun hc hm => congrArg ret ((h.atWindow ⟨hd, by decide, hr, hw⟩ _).trans (by simp [opMgrMbSend, hc, hm]))
  case stage =>
    have staged (cmd : W32) : s.atPortal (State.stageCmd · n cmd) = s.stageTaken n cmd := (h.atPortal _).trans (State.stageCmd_taken ho ha hk cmd)
    exact ⟨congrArg ret (staged _), congrArg ret (staged _), congrArg ret (staged _),
      fun t ht => congrArg ret ((h.atPortal _).trans ((opKstageOpRefused_taken ho ha hk w).trans (congrArg (opKstageDone n) ht.symm))),
      fun op hop => stageWord_op w hop, fun cmd key hl => State.stageErr_locked hl n cmd key,
      fun cmd key hl hs hc => State.stageErr_reserved hl hs hc n key⟩
  case staged =>
    exact ⟨fun he => congrArg ret (opKstageDone_error hk he), fun he => congrArg ret (opKstageDone_good hk he)⟩
  case att =>
    exact ⟨fun f hc => congrArg ret ((h.atPortal _).trans (opAttCmd_refused ho hk hv hc)), fun hc => congrArg ret ((h.atPortal _).trans (opAttCmd_taken ho hk hv hc))⟩
  case attDone =>
    exact ⟨fun hg => congrArg ret (opAttDone_granted hk hj hx hf hr hl hg), fun hg => congrArg ret (opAttDone_withheld hk hj hx hf hr hl hg)⟩

end Sys2Proof.Machine

/-! SUPPORT. Host reads and writes, event registers, and the commands that are one register's write or read. -/

namespace Sys2Proof.Machine

/-! ### Reserved offsets (R53, R54) -/

/-- A window offset has no page: below the first block, beyond a block's pages, or beyond the last block. -/
theorem pagesOf_le {off : Nat} (h : off < 0x10000 ∨ pagesOf (off / 0x10000) ≤ off / 0x1000 % 16 ∨ 0x1B0000 ≤ off) :
    pagesOf (off / 0x10000) ≤ off / 0x1000 % 16 := by
  have none {blk : Nat} (hb : blk = 0 ∨ 0x1B ≤ blk) : pagesOf blk = 0 := by
    simp only [pagesOf, LVE, MCS, BNE, CIU, SYE, RLK]
    split_ifs <;> omega
  rcases h with h | h | h
  · rw [none (.inl (by omega))]
    exact Nat.zero_le _
  · exact h
  · rw [none (.inr (by omega))]
    exact Nat.zero_le _

section
variable {off : Nat} (h : pagesOf (off / 0x10000) ≤ off / 0x1000 % 16)
include h

theorem State.deaf_reserved (s : State) (d o : Nat) : s.deaf d (off / 0x10000) (off / 0x1000 % 16) o = true := by simp [State.deaf, h]

theorem State.windowWord_reserved (s : State) (d : Nat) : s.windowWord d off = 0 := if_pos h

theorem State.windowWrite_reserved (s : State) (d : Nat) (w : RegW) : s.windowWrite d off w = s := by
  simp only [State.windowWrite, woffParts]
  split
  · rfl
  · exact if_pos (State.deaf_reserved h s d _)

theorem State.readEffect_reserved (s : State) (d : Nat) : s.readEffect d off = s := by
  simp only [State.readEffect, woffParts]
  split
  · rfl
  · exact if_pos (State.deaf_reserved h s d _)

end

/-! ### Requests (R40, R50, R59) -/

/-- A request with a good digest and no stream is admitted. -/
theorem State.Answers.admitReq_good {s : State} (h : s.Answers) {r : HostReq} (hi : r.ide = none) (hg : r.digest = .good) : s.admitReq r = (s, true) := by
  simp [State.admitReq, h.fnOpen, h.wake, hi, hg]

theorem State.Answers.admitReq_bad {s : State} (h : s.Answers) {r : HostReq} (hi : r.ide = none) (hg : r.digest = .bad) : s.admitReq r = (s.ecrcFail, false) := by
  simp [State.admitReq, h.fnOpen, h.wake, hi, hg]

/-- An aligned doubleword is one access. -/
theorem reqDwords_dword {r : HostReq} (hs : r.size = .dword) (ha : r.off % 4 = 0) (write : Bool) : reqDwords r write = some [r.off] := by
  simp [reqDwords, hs, ha]

/-- BAR0 has eight windows (R50). -/
theorem bar0_admits {d o : Nat} (hd : d < 8) (ho : o < 0x1000000) : ¬ barSize 0 ≤ d * 0x1000000 + o := by
  have : barSize 0 = 0x8000000 := rfl
  omega

/-- A die's window at an offset of BAR0. -/
theorem bar0_parts {d o : Nat} (ho : o < 0x1000000) : (d * 0x1000000 + o) / 0x1000000 = d ∧ (d * 0x1000000 + o) % 0x1000000 = o := by omega

section
variable {s : State} (h : s.Answers) {r : HostReq} (hi : r.ide = none) (hb : r.bar = 0)
include h hi hb

/-- A request without a good digest is refused whole. -/
theorem opRegisterWrite_bad (hg : r.digest = .bad) (hr : r.off < 0x8000000) (v : W64) : opRegisterWrite r v s = s.ecrcFail := by
  have hz : ¬ barSize r.bar ≤ r.off := by simpa [hb, barSize] using hr
  simp [opRegisterWrite, hz, h.admitReq_bad hi hg]

theorem opRegisterRead_bad (hg : r.digest = .bad) (hr : r.off < 0x8000000) : opRegisterRead r s = s.ecrcFail := by
  have hz : ¬ barSize r.bar ≤ r.off := by simpa [hb, barSize] using hr
  simp [opRegisterRead, hz, h.admitReq_bad hi hg]

variable (hg : r.digest = .good) {d o : Nat} (k : s.Takes d) (ho : o < 0x1000000) (hr : r.off = d * 0x1000000 + o)
include hg k ho hr

theorem opRegisterWrite_other (hs : r.size = .other) (v : W64) : opRegisterWrite r v s = s.refuseAccess := by
  simp [opRegisterWrite, hb, hr, bar0_admits k.window ho, h.admitReq_good hi hg, reqDwords, hs]

theorem opRegisterRead_other (hs : r.size = .other) : opRegisterRead r s = (s.refuseAccess.aerSet 15).send .completerAbort := by
  simp [opRegisterRead, hb, hr, bar0_admits k.window ho, h.admitReq_good hi hg, reqDwords, hs]

variable (hs : r.size = .dword) (ha : o % 4 = 0)
include hs ha

theorem opRegisterWrite_dword (v : W64) : opRegisterWrite r v s = s.windowWrite d o ⟨v.extractLsb' 0 32, r.rid⟩ := by
  obtain ⟨hd, hm⟩ := bar0_parts (d := d) ho
  simp only [opRegisterWrite, bar0_admits k.window ho, h.admitReq_good hi hg, reqDwords_dword hs (show r.off % 4 = 0 by omega), if_false, Bool.not_true, Bool.false_eq_true,
    List.zipIdx_cons, List.zipIdx_nil, List.foldl_cons, List.foldl_nil, State.barWrite, hb, if_true, hr, hd, hm, h.atWindow k, Nat.mul_zero]

theorem opRegisterRead_dword : opRegisterRead r s = ((s.readEffect d o).drawn).send (.readReply (s.windowWord d o)) := by
  obtain ⟨hd, hm⟩ := bar0_parts (d := d) ho
  have hn : ¬ s.nDies ≤ d := Nat.not_le.mpr k.there
  simp only [opRegisterRead, bar0_admits k.window ho, h.admitReq_good hi hg, reqDwords_dword hs (show r.off % 4 = 0 by omega), if_false, Bool.not_true, Bool.false_eq_true,
    List.foldl_cons, List.foldl_nil, State.readOne, State.barRead, hb, if_true, hr, hd, hm, hn, k.reachable, k.settleWrites]

end

/-! ### Event registers (R57) -/

theorem Die.raises_iff (x : Die) (blk e : Nat) : x.raises blk e = true ↔ x.reg blk e 0x018 &&& x.reg blk e 0x01C ≠ 0 := decide_eq_true_iff

/-- A readable and writable EVT_EN is not recorded. -/
theorem recordedReg_evtEn {blk : Nat} {row : RegRow} (hacc : row.acc = .rw) : recordedReg blk 0x01C row = false := by
  simp [recordedReg, hacc, namedRecord]

section
variable {s : State} {d blk e : Nat} (he : e < 16)
include he

/-- EVT_PEND takes ones to clear. -/
theorem State.windowWrite_evtPend {row : RegRow} (hrow : regRow? blk 0x018 = some row) (hrec : recordedReg blk 0x018 row = false)
    (hdeaf : s.deaf d blk e 0x018 = false) (w : RegW) :
    s.windowWrite d (woff blk e 0x018) w = s.setReg d blk e 0x018 (s.reg d blk e 0x018 &&& ~~~w.value) := by
  simp [State.windowWrite, woffParts_woff he (show 0x018 < 0x1000 by decide), hrow, hrec, hdeaf, State.plainWrite]

theorem State.windowWrite_evtEn {row : RegRow} (hrow : regRow? blk 0x01C = some row) (hacc : row.acc = .rw) (hdeaf : s.deaf d blk e 0x01C = false) (w : RegW) :
    s.windowWrite d (woff blk e 0x01C) w = s.setReg d blk e 0x01C (w.value &&& BitVec.ofNat 32 row.mask) := by
  simp [State.windowWrite, woffParts_woff he (show 0x01C < 0x1000 by decide), hrow, recordedReg_evtEn hacc, hdeaf, State.plainWrite, hacc]

end

/-- EVT_FORCE through a die's window. -/
theorem State.Answers.evtForce {s : State} (h : s.Answers) {d blk e : Nat} (k : s.Takes d) (hdeaf : s.deaf d blk e 0x020 = false) (w : RegW) :
    opEvtForce ⟨d, blk, e⟩ w s = s.forceEvents d blk e w.value :=
  (h.atWindow k _).trans (if_neg (by simp [hdeaf]))

/-! ### The Fault Controller's groups and the Event Router's tables (R444, R459) -/

/-- An acknowledgement of a group that is being handled. -/
theorem opGrpCtrl_handled {s : State} {d : Nat} {v : W32} (hv : bit v 0 = true) (hh : (Assoc.get? (s.die d).fcl.handling (bits (s.reg d FCL 0 0x110) 0 6)).isSome = true) :
    opGrpCtrl d v s = if (s.die d).fcl.group (bits (s.reg d FCL 0 0x110) 0 6) = 0 then
      s.modFcl d (fun f => { f with handling := Assoc.erase f.handling (bits (s.reg d FCL 0 0x110) 0 6) }) else s.event d FCL 0 0 := by
  have hn : ¬ ((!bit v 0) = true ∨ (Assoc.get? (s.die d).fcl.handling (bits (s.reg d FCL 0 0x110) 0 6)).isNone = true) := by
    rw [Option.isSome_iff_ne_none] at hh
    simpa [hv] using hh
  exact if_neg hn

/-- ENABLE of a route word is the bit written. -/
theorem bit_routeMask (v : W32) : bit (v &&& 0x800007FF#32) 31 = bit v 31 := by simp [bit]

/-- A route written without ENABLE. -/
theorem opRoute_disabled {s : State} {v : W32} (hv : bit v 31 = false) (hf : fixedRoute (bits (s.reg 0 EVR 0 0x100) 4 8) = false) :
    opRoute v s = { s with evr := { s.evr with routes := Assoc.set s.evr.routes (s.reg 0 EVR 0 0x100).toNat (v &&& 0x800007FF#32) } } := by
  simp only [opRoute, hf, bit_routeMask, hv, Bool.false_eq_true, false_and, if_false]

theorem opMqRoute_disabled {s : State} {v : W32} (hv : bit v 31 = false) :
    opMqRoute v s = { s with evr := { s.evr with mqRoutes := Assoc.set s.evr.mqRoutes (s.reg 0 EVR 0 0x108).toNat (
      (v &&& 0x800007FF#32) ||| (Assoc.getD s.evr.mqRoutes (s.reg 0 EVR 0 0x108).toNat 0 &&& 0x40000000#32)) } } := by
  simp only [opMqRoute, bit_routeMask, hv, Bool.false_eq_true, false_and, if_false]

/-- Enabling a queue's route with PENDING sends one message. -/
theorem opMqRoute_pending {s : State} {v : W32} (hv : bit v 31 = true) (hp : bit (Assoc.getD s.evr.mqRoutes (s.reg 0 EVR 0 0x108).toNat 0) 30 = true) :
    opMqRoute v s = State.signal { s with evr := { s.evr with mqRoutes := Assoc.set s.evr.mqRoutes (s.reg 0 EVR 0 0x108).toNat (v &&& 0x800007FF#32) } }
      (bits (v &&& 0x800007FF#32) 0 11) := by
  simp only [opMqRoute, bit_routeMask, hv, hp, and_self, if_true]

/-! ### The boot flash (R500) -/

/-- A flash command is taken while the link is up and none runs. -/
theorem State.Answers.flashTaken {s : State} (h : s.Answers) {w : RegW} {op : Nat} (hw : bits w.value 0 2 = op) (hb : s.bfi.state ≠ 1) : flashTaken op w s = true := by
  simp [Machine.flashTaken, h.linkUp, hw, hb]

end Sys2Proof.Machine

/-! PROOF. Host reads and writes of registers. -/

namespace Sys2Proof.Machine

/-- An outcome of a choice is the choice of outcomes. -/
theorem ret_ite (p : Prop) [Decidable p] (a b : State) : ret (if p then a else b) = if p then ret a else ret b := apply_ite ret p a b

section
variable {s : State} (h : s.Answers) (k : s.Takes 0) {w : RegW} (hb : s.bfi.state ≠ 1)
include h k hb

theorem exec_flashErase (hw : bits w.value 0 2 = 1) : exec (.flashErase w) s =
    if s.lc = 6 then ret (s.flashErr 6) else if s.bfi.inCandidate (s.progAddr / 65536 * 65536) 65536 = false then ret (s.flashErr 1)
    else ret (s.flashRun 1 0 (s.progAddr / 65536 * 65536) []) := by
  refine (congrArg ret (h.atWindow k _)).trans ?_
  simp only [opFlashErase, h.flashTaken hw hb, Bool.not_true, Bool.false_eq_true, if_false, Bool.not_eq_true', ret_ite]

theorem exec_flashProgram (hw : bits w.value 0 2 = 2) : exec (.flashProgram w) s =
    if s.lc = 6 then ret (s.flashErr 6) else if s.bfi.inCandidate s.progAddr s.progLen = false then ret (s.flashErr 1)
    else if 256 < s.progAddr % 256 + s.progLen then ret (s.flashErr 2) else ret (s.flashRun 2 0 s.progAddr (s.bfi.progBytes s.progLen)) := by
  refine (congrArg ret (h.atWindow k _)).trans ?_
  simp only [opFlashProgram, h.flashTaken hw hb, Bool.not_true, Bool.false_eq_true, if_false, Bool.not_eq_true', ret_ite]

theorem exec_flashActivate (hw : bits w.value 0 2 = 3) : exec (.flashActivate w) s =
    if s.lc = 6 then ret (s.flashErr 6) else if (s.bfi.entries.getD (bits w.value 4 4) ⟨0, 0, 0, 0⟩).type ≠ 6 then ret (s.flashErr 4)
    else ret (s.flashRun 3 (bits w.value 4 4) (s.bfi.entries.getD (bits w.value 4 4) ⟨0, 0, 0, 0⟩).base []) := by
  refine (congrArg ret (h.atWindow k _)).trans ?_
  simp only [opFlashActivate, h.flashTaken hw hb, Bool.not_true, Bool.false_eq_true, if_false, ret_ite]

end

/-- Settles O46: each access by the rule of its register, once it is admitted to its window. -/
theorem hostRegisters : Obligations.HostRegisters := by
  unfold Obligations.HostRegisters
  refine ⟨fun s d off w _ ho => ?reserved, Die.raises_iff, fun s hl hf => ?_⟩
  case reserved =>
    have hp := pagesOf_le ho
    exact ⟨State.windowWord_reserved hp s d, State.windowWrite_reserved hp s d w, State.readEffect_reserved hp s d⟩
  have h : s.Answers := ⟨hl, hf⟩
  refine ⟨fun r v d o hi hg hb hd hr hw h8 ho hoff => ⟨fun hs ha => ?dword, fun hs => ?other⟩, fun r v hi hg hb hr => ?digest, fun d blk e w row he => ⟨?pend, ?en⟩,
    fun d blk e w hd h8 hr hw hdeaf => ?force, fun d w hd h8 hr hw hv => ?ack, fun hd hr hw => ?die0⟩
  case dword =>
    exact ⟨congrArg ret (opRegisterWrite_dword h hi hb hg ⟨hd, h8, hr, hw⟩ ho hoff hs ha v), congrArg ret (opRegisterRead_dword h hi hb hg ⟨hd, h8, hr, hw⟩ ho hoff hs ha)⟩
  case other =>
    exact ⟨congrArg ret (opRegisterWrite_other h hi hb hg ⟨hd, h8, hr, hw⟩ ho hoff hs v), congrArg ret (opRegisterRead_other h hi hb hg ⟨hd, h8, hr, hw⟩ ho hoff hs)⟩
  case digest =>
    have write := opRegisterWrite_bad h hi hb hg hr v
    exact ⟨congrArg ret write, congrArg ret ((opRegisterRead_bad h hi hb hg hr).trans write.symm)⟩
  case pend => exact fun hrow hrec hdeaf => State.windowWrite_evtPend he hrow hrec hdeaf w
  case en => exact fun hrow hacc hdeaf => State.windowWrite_evtEn he hrow hacc hdeaf w
  case force =>
    have forced := h.evtForce ⟨hd, h8, hr, hw⟩ hdeaf w
    exact ⟨fun hc => congrArg ret (forced.trans (if_pos hc)), fun hc => congrArg ret (forced.trans (if_neg hc))⟩
  case ack =>
    intro g hh
    have acked := (h.atWindow ⟨hd, h8, hr, hw⟩ _).trans (opGrpCtrl_handled hv hh)
    exact ⟨fun hz => congrArg ret (acked.trans (if_pos hz)), fun hz => congrArg ret (acked.trans (if_neg hz))⟩
  case die0 =>
    have k : s.Takes 0 := ⟨hd, by decide, hr, hw⟩
    refine ⟨congrArg ret (h.atWindow k _), congrArg ret (h.atWindow k _), fun v hv => ⟨fun hx => ?route, ?mqRoute⟩, fun v hv hp => ?pending, fun j v hj => ?iit, fun w hb => ?flash⟩
    case route => exact congrArg ret ((h.atWindow k _).trans (opRoute_disabled hv hx))
    case mqRoute => exact congrArg ret ((h.atWindow k _).trans (opMqRoute_disabled hv))
    case pending => exact congrArg ret ((h.atWindow k _).trans (opMqRoute_pending hv hp))
    case iit => exact congrArg ret ((h.atWindow k _).trans (if_pos hj))
    case flash => exact ⟨exec_flashErase h k hb, exec_flashProgram h k hb, exec_flashActivate h k hb⟩

end Sys2Proof.Machine

/-! SUPPORT. What host reads, descriptors and fills bring back: each completion by the state it finds. -/

namespace Sys2Proof.Machine

/-! ### Entries (R41, R131) -/

section
variable {s : State} {d q i : Nat}

theorem opEntryFetched_kept (h : Assoc.get? (s.queue d q).ctx.win i = some (.reading false)) (bytes : List Byte) :
    opEntryFetched d q i bytes s = (s.modCtx d q (fun c => { c with win := Assoc.set c.win i (.copy (fit 64 bytes)) })).pump d q := by
  simp only [opEntryFetched, h]

theorem opEntryFetched_stale (h : Assoc.get? (s.queue d q).ctx.win i = some (.reading true)) (bytes : List Byte) :
    opEntryFetched d q i bytes s = (s.modCtx d q (fun c => c.readDropped i)).pump d q := by
  simp only [opEntryFetched, h]

/-- The read of an entry that an ACTIVE queue waits for fails. -/
theorem State.readFails_entry (h : Assoc.get? (s.queue d q).ctx.win i = some (.reading false)) (cause : Nat)
    (ha : ((((s.count 0 HIF 0 0x118).modCtx d q (fun c => { c with win := Assoc.erase c.win i })).queue d q).ctx.state = .active)) :
    s.readFails d (.entry q i) cause = ((s.count 0 HIF 0 0x118).modCtx d q (fun c => { c with win := Assoc.erase c.win i })).queueError d q 7 i := by
  simp only [State.readFails, h, Bool.false_eq_true, if_false, ha, if_true]

end

@[simp] theorem State.aerCause_queue (s : State) (cause d q : Nat) : (s.aerCause cause).queue d q = s.queue d q := by simp [State.queue, State.die]

@[simp] theorem State.aerCause_job? (s : State) (cause d j : Nat) : (s.aerCause cause).job? d j = s.job? d j := by simp [State.job?, State.die]

@[simp] theorem State.count_job? (s : State) (e b i o n d j : Nat) : (s.count e b i o n).job? d j = s.job? d j := by
  unfold State.job? State.count
  rw [State.setReg_die]
  split_ifs with h
  · rw [h.1]
    rfl
  · rfl

/-! ### Reads of a job (R41, R334) -/

section
variable {s : State} {d j part : Nat} {x : Job} (hx : s.job? d j = some x) (hp : part ∈ x.data.reads) (h4 : partIn ≤ part)
include hx hp h4

/-- A read of IN, AUX or streamed input is awaited while it is out. -/
theorem State.awaits_of_reads : s.awaits d j part = true := by simp [State.awaits, hx, hp, h4]

theorem State.jobData_in (hn : part ≠ partAux) (bytes : List Byte) : s.jobData d j part bytes =
    (fun (ch : Nat) (c : Channel) => (fun (t : State) => ((if c.got + c.asked < min descBytes c.remain then t.goOnDesc d ch else t).checkStaged d j).pumpDie d)
      ((s.modJob d j (fun y => { y.gotRead part with data := { (y.gotRead part).data with inData := (y.gotRead part).data.inData ++ fit c.asked bytes } })).setChan d ch
        { c with got := c.got + c.asked, asked := 0 }))
    ((s.die d).chanOf j part) ((s.die d).chan ((s.die d).chanOf j part)) := by
  have below (k : Nat) (hk : k < 4) : part ≠ k := (hk.trans_le h4).ne'
  have h0 := below 0 (by decide)
  have h1 := below 1 (by decide)
  have h2 := below 2 (by decide)
  have h3 := below 3 (by decide)
  simp only [State.jobData, h0, h1, h2, h3, if_false, State.awaits_of_reads hx hp h4, Bool.not_true, Bool.false_eq_true, State.dataCame, hn, Channel.descLen]

theorem State.readFails_job (hn : part ≠ partStream) (cause : Nat) : s.readFails d (.job j part) cause =
    (((((s.count 0 HIF 0 0x118).modJob d j (fun y => y.gotRead part)).freeChans d j).failPrep d j stHostFault (BitVec.ofNat 32 cause)).pumpDie d) := by
  have hc : (s.count 0 HIF 0 0x118).job? d j = some x := (State.count_job? ..).trans hx
  have hl : ¬ part < partIn := Nat.not_lt.mpr h4
  simp only [State.readFails, State.awaits_of_reads hx hp h4, if_true, State.jobReadFails, State.awaits_of_reads hc hp h4, Bool.not_true, Bool.false_eq_true, if_false, hl, hn]

end

/-! ### Fills (R174) -/

/-- A fill of an entry completes that needs no check of a public key: the entry holds its bytes, and the job begins its input. -/
theorem State.fillDone_input {s : State} {d j i : Nat} {x : Job} (hx : s.job? d j = some x) (hi : x.data.kpcEntry = some i) (hs : x.stage = .fill) (hf : x.failed = none)
    (h3 : 3 ∉ x.data.reads) (hn : s.needsPubEntry d x = false) (hl : x.data.leaf = none) (hv : s.fillsOnLve d x = false ∨ ∃ u ∈ (s.die d).lves, u.fill = some j)
    (bytes : List Byte) :
    s.fillDone d j bytes = State.startInput ((s.modDie d (fun y => { y with
        lves := y.lves.map (fun u => if u.fill = some j then { u with fill := none } else u)
        kpc := (Assoc.update y.kpc i (fun e => { e with use := .entry, bytes := bytes, block := s.fillBlock d x })).filter
          (fun (p : Nat × KpcEntry) => !decide (x.data.prov = some p.1)) })).modJob d j (fun y =>
      { y with data := { y.data with prov := none, reads := y.data.reads.filter (fun r => decide (r ≠ 3)) } })) d j := by
  have open_ : ¬ (s.fillsOnLve d x = true ∧ (!(s.die d).lves.any (fun u => decide (u.fill = some j))) = true) := by
    rcases hv with hv | ⟨u, hu, hj⟩
    · simp [hv]
    · have : (s.die d).lves.any (fun u => decide (u.fill = some j)) = true := List.any_eq_true.mpr ⟨u, hu, decide_eq_true hj⟩
      simp [this]
  have out : x.data.reads.contains 3 = false := by simpa using h3
  simp only [State.fillDone, hx, hi, hs, hf, out, hn, hl, open_, ne_eq, not_true_eq_false, Option.isSome_none, Bool.false_eq_true, false_and, or_self, if_false]

/-! ### Descriptors (R331 to R333) -/

section
variable {s : State} {d ch j : Nat} {x : Job} (hj : ((s.die d).chan ch).job = some j) (hx : s.job? d j = some x)
include hj

/-- The channel with its current descriptor moved. -/
def Channel.moved (c : Channel) : Channel :=
  { c with pos := c.pos + c.descLen, remain := c.remain - c.descLen, got := 0, descs := satInc c.descs }

include hx in
/-- A descriptor has moved: its transfer ends with it, or goes on with the next. -/
theorem State.descOk_moved (ha : ((s.die d).chan ch).state = .active) (hm : ((s.die d).chan ch).part = partOut ∨ ((s.die d).chan ch).descLen ≤ ((s.die d).chan ch).got) :
    s.descOk d ch = if ((s.die d).chan ch).remain ≤ descBytes then (s.setChan d ch ((s.die d).chan ch).moved).transferDone d ch j ((s.die d).chan ch).part
      else (((s.setChan d ch ((s.die d).chan ch).moved).nextDesc d ch).checkStaged d j).pumpDie d := by
  have hd : (((s.die d).chan ch).remain - ((s.die d).chan ch).descLen = 0) = (((s.die d).chan ch).remain ≤ descBytes) := by
    simp only [Channel.descLen, eq_iff_iff]
    omega
  have hw : ¬ (((s.die d).chan ch).part ≠ partOut ∧ ((s.die d).chan ch).got < ((s.die d).chan ch).descLen) := by omega
  simp only [State.descOk, hj, hx, ha, hw, hd, Option.isNone_some, Bool.false_eq_true, ne_eq, not_true_eq_false, or_self, if_false, Channel.moved]

/-- An integrity failure of a transfer that feeds a job ends the job. -/
theorem State.descIntegrity_input {y : Job} (u : State)
    (hu : u = (((s.faultAct d 578).event d DMX 0 2).modJob d j (fun y => { y with data := { y.data with reads := [] } })).freeChans d j)
    (hy : u.job? d j = some y) (hs : y.stage = .input) : s.descIntegrity d ch = (u.failPrep d j stIntegrity).pumpDie d := by
  subst hu
  simp only [State.descIntegrity, hj, hy, hs]

end

/-! ### Pacing (R330, R334) -/

/-- A paced burst takes no more than the descriptor has left. -/
theorem paceBurst_le_rest (addr : W64) (rest room : Nat) : paceBurst addr rest room ≤ rest := by
  simp only [paceBurst]
  split_ifs <;> omega

theorem paceBurst_le_room (addr : W64) (rest room : Nat) : paceBurst addr rest room ≤ room := by
  simp only [paceBurst]
  split_ifs <;> omega

/-- A burst that leaves bytes of the descriptor ends at a boundary of 4 KiB. -/
theorem paceBurst_aligned {addr : W64} {rest room : Nat} (h : paceBurst addr rest room < rest) :
    paceBurst addr rest room = 0 ∨ (addr.toNat + paceBurst addr rest room) % 4096 = 0 := by
  simp only [paceBurst] at h ⊢
  split_ifs at h ⊢ <;> omega

/-- No longer burst fits. -/
theorem le_paceBurst {addr : W64} {rest room m : Nat} (hm : m ≤ rest) (hr : m ≤ room) (ha : m = rest ∨ (addr.toNat + m) % 4096 = 0) : m ≤ paceBurst addr rest room := by
  simp only [paceBurst]
  split_ifs <;> omega

/-- A transfer into a ring without room for a burst is paced. -/
theorem State.goOnDesc_paced {s : State} {d ch j : Nat} {x : Job} (hj : ((s.die d).chan ch).job = some j) (hx : s.job? d j = some x)
    (hp : ((s.die d).chan ch).part = partIn) (hk : ((s.die d).chan ch).dstKind = 3) (ho : s.hostOpen = true)
    (hz : paceBurst (x.sqe.inAddr + BitVec.ofNat 64 (((s.die d).chan ch).pos + ((s.die d).chan ch).got)) (((s.die d).chan ch).descLen - ((s.die d).chan ch).got)
      ((s.syeMarks d).1 - s.syeFill d j) = 0) :
    s.goOnDesc d ch = (s.setChan d ch { (s.die d).chan ch with state := .pacing }).count d DMX 0 0x194 := by
  have hout : ¬ partIn = partOut := by decide
  have haux : ¬ partIn = partAux := by decide
  simp only [State.goOnDesc, ho, if_true, State.issue, hj, Option.bind_some, hx, hp, hk, hout, haux, if_false, and_self, Option.getD_some, hz]

end Sys2Proof.Machine

/-! PROOF. What host reads, descriptors and fills bring back to queues and jobs. -/

namespace Sys2Proof.Machine

/-- Settles O48: each completion by the rule of what it completes. -/
theorem queueReads : Obligations.QueueReads := by
  unfold Obligations.QueueReads
  intro s d
  refine ⟨fun q i bytes => ⟨fun hw => ?entry, fun hw => ?stale⟩, fun j bytes => ⟨rfl, rfl, rfl, rfl⟩, fun what => rfl, fun j part x bytes hx hp h4 hn => ?data,
    fun j part x cause hx hp h4 hn => ?failed, fun j x i bytes hx hi hs hf h3 hpub hl hv => ?fill, fun ch j x => ?descriptor,
    fun ch n hlo hhi hd => ?streamed, fun ch j hj hp hm => ?resume, fun addr rest room => ?burst, fun ch j x => ?paced⟩
  case entry =>
    exact ⟨congrArg ret (opEntryFetched_kept hw bytes), rfl, fun cause ha => congrArg ret (State.readFails_entry (by simpa using hw) cause ha)⟩
  case stale => exact congrArg ret (opEntryFetched_stale hw bytes)
  case data => exact congrArg ret (State.jobData_in hx hp h4 hn bytes)
  case failed => exact congrArg ret (State.readFails_job ((State.aerCause_job? ..).trans hx) hp h4 hn cause)
  case fill =>
    have bytesOf : ((s.job? d j).map (fun x => s.fillBytes d x bytes)).getD bytes = s.fillBytes d x bytes := by rw [hx]; rfl
    exact congrArg ret ((congrArg (fun b => (s.fillDone d j b).pumpDie d) bytesOf).trans
      (congrArg (State.pumpDie · d) (State.fillDone_input hx hi hs hf h3 hpub hl hv (s.fillBytes d x bytes))))
  case descriptor =>
    intro c n c' hch hj hx ha
    refine ⟨fun hm => ?moved, fun hs => ?integrity⟩
    case moved =>
      have ended := (if_pos hch : opDescriptorComplete d ch .ok s = _).trans (State.descOk_moved hj hx ha hm)
      exact ⟨fun hr => congrArg ret (ended.trans (if_pos hr)), fun hr => congrArg ret (ended.trans (if_neg (Nat.not_le.mpr hr)))⟩
    case integrity =>
      exact ⟨_, rfl, fun y hy hstage => congrArg ret ((if_pos hch).trans (State.descIntegrity_input hj _ rfl hy hstage))⟩
  case streamed =>
    exact ⟨congrArg ret (if_pos ⟨hlo, hhi, hd⟩), congrArg ret (if_pos ⟨hlo, hhi, hd⟩)⟩
  case resume =>
    have resumes : opPaceResume d ch s = if ((s.die d).chan ch).state = .pacing ∧ s.syeFill d j ≤ (s.syeMarks d).2 then s.goOnDesc d ch else s := by
      simp only [opPaceResume, hj]
    exact congrArg ret (resumes.trans (if_pos ⟨hp, hm⟩))
  case burst =>
    exact ⟨paceBurst_le_rest addr rest room, paceBurst_le_room addr rest room, paceBurst_aligned, fun m hm hr ha => le_paceBurst hm hr ha⟩
  case paced => exact fun hj hx hp hk ho hz => State.goOnDesc_paced hj hx hp hk ho hz

end Sys2Proof.Machine

/-! SUPPORT. Requests of the host's link, by what the function answers. -/

namespace Sys2Proof.Machine

/-! ### Configuration space (R35, R36) -/

/-- Bits that the manual gives stay as given. -/
theorem bits_fixBits {free : W32} {k v : Nat} (hk : k ≤ 32) (hv : v < 2 ^ k) : bits (fixBits free (2 ^ k - 1) v) 0 k = v := by
  apply Nat.eq_of_testBit_eq
  intro i
  rw [bits, Nat.shiftRight_zero, Nat.testBit_mod_two_pow, BitVec.testBit_toNat]
  by_cases hi : i < k
  · have hi32 : i < 32 := by omega
    have mask : (BitVec.ofNat 32 (2 ^ k - 1)).getLsbD i = true := by
      rw [BitVec.getLsbD_ofNat, Nat.testBit_two_pow_sub_one]
      simp [hi, hi32]
    have value : (BitVec.ofNat 32 v).getLsbD i = v.testBit i := by
      rw [BitVec.getLsbD_ofNat]
      simp [hi32]
    rw [fixBits, BitVec.getLsbD_or, BitVec.getLsbD_and, BitVec.getLsbD_not, mask, value]
    simp [hi]
  · simp [hi, Nat.testBit_lt_two_pow (hv.trans_le (Nat.pow_le_pow_right (by decide) (Nat.le_of_not_lt hi)))]

/-- The BARs show their sizes and that they are 64-bit (R50). -/
theorem State.cfgReg_bar0 (s : State) : bits (s.cfgReg 0x10) 0 27 = 4 := bits_fixBits (free := Config.cfgReg 0x10 s.freeCtr) (k := 27) (v := 4) (by decide) (by decide)

theorem State.cfgReg_bar2 (s : State) : bits (s.cfgReg 0x18) 0 24 = 4 := bits_fixBits (free := Config.cfgReg 0x18 s.freeCtr) (k := 24) (v := 4) (by decide) (by decide)

theorem State.cfgReg_bar4 (s : State) : bits (s.cfgReg 0x20) 0 16 = 4 := bits_fixBits (free := Config.cfgReg 0x20 s.freeCtr) (k := 16) (v := 4) (by decide) (by decide)

theorem State.cfgReg_busMaster (s : State) : bit (s.cfgReg 4) 2 = s.hif.busMaster := by
  cases h : s.hif.busMaster <;> simp [State.cfgReg, bit, h]

theorem State.cfgReg_class (s : State) : bits (s.cfgReg 8) 8 24 = 0x108000 := by
  have : Config.stepping.toNat < 256 := Config.stepping.isLt
  simp only [State.cfgReg, bits, BitVec.toNat_ofNat]
  omega

/-! ### MSI-X (R68) -/

theorem opMsixTableWrite_word {s : State} (h : s.Answers) {n w : Nat} (hn : n < 2048) (hw : w < 4) (v : W32) :
    opMsixTableWrite (16 * n + 4 * w) v s = { s with msix := { s.msix with table := Assoc.set s.msix.table n ((s.msix.entry n).write w v) } } := by
  have hc : s.fnOpen = true ∧ 16 * n + 4 * w < 0x8000 ∧ (16 * n + 4 * w) % 4 = 0 := ⟨h.fnOpen, by omega, by omega⟩
  have he : (16 * n + 4 * w) / 16 = n := by omega
  have hk : (16 * n + 4 * w) / 4 % 4 = w := by omega
  simp only [opMsixTableWrite, hc, and_self, if_true, he, hk, h.wake]

/-! ### IDE key management (R48) -/

theorem opIdeKm_session {s : State} (h : s.Answers) {k : Nat} (hk : k ≤ 64) (m : IdeKm) : opIdeKm true k m s =
    State.drawn { s with hif := { s.hif with ide := Assoc.set s.hif.ide k ((s.hif.stream k).exchange k (Config.drbg s.freeCtr 32) m) } } := by
  simp only [opIdeKm, h.fnOpen, hk, and_self, if_true, h.wake]
  rfl

theorem opIdeKm_none (s : State) (k : Nat) (m : IdeKm) : opIdeKm false k m s = s := by simp [opIdeKm]

/-! ### While the reset of R43 runs (R44) -/

section
variable {s : State} (h : s.hif.flrActive = true)
include h

theorem State.admitReq_flr (r : HostReq) : s.admitReq r = (s, false) := by simp [State.admitReq, State.fnOpen_of_flr h]

theorem opRegisterWrite_flr (r : HostReq) (v : W64) : opRegisterWrite r v s = s := by simp [opRegisterWrite, State.admitReq_flr h]

theorem opRegisterRead_flr (r : HostReq) : opRegisterRead r s = s := by simp [opRegisterRead, State.admitReq_flr h]

end

theorem State.hasWork_idle {s : State} (hd : ∀ d ∈ s.dies, d.busy = false) (hi : ∀ p ∈ s.insts, p.2.portal.mb.bufBusy = false) : s.hasWork = false := by
  simp only [State.hasWork, Bool.or_eq_false_iff, List.any_eq_false, Bool.not_eq_true]
  exact ⟨hd, hi⟩

/-- A state with the link up, whose next draw is the one of a number. -/
def State.upWithDraw (n : Nat) : State := { State.reset with hif := { State.reset.hif with link := .l0, flrActive := false }, freeCtr := n }

theorem settle_ide (s : State) : (settle s).hif.ide = s.hif.ide := by
  have kept := (settle_hif s).1
  generalize (settle s).hif = u at kept ⊢
  rw [← kept]

/-- What the statement of key exchanges says of the length of a key, it says of the DRBG. -/
theorem drbg_length_of_keyProg {n : Nat} {area : IdeArea} {key : List Byte} (hk : key.length = 32)
    (e : exec (.ideKm true 0 (.keyProg area)) (State.upWithDraw n) = .next (settle (State.drawn { State.upWithDraw n with hif := { (State.upWithDraw n).hif with
      ide := Assoc.set (State.upWithDraw n).hif.ide 0 { (State.upWithDraw n).hif.stream 0 with state := 1, key := key, area := none } } }))) :
    (Config.drbg n 32).length = 32 := by
  have drawn : exec (.ideKm true 0 (.keyProg area)) (State.upWithDraw n) = ret _ := congrArg ret (opIdeKm_session ⟨rfl, rfl⟩ (Nat.zero_le _) _)
  have same := congrArg (fun s => Assoc.get? s.hif.ide 0) (Host.Outcome.next.inj (drawn.symm.trans e))
  simp only [settle_ide, State.drawn, Assoc.get?_set, if_true, Option.some.injEq] at same
  exact (congrArg (fun x => x.key.length) same).trans hk

/-- The statement of the link's requests (O43, left open) holds exactly where every draw of 32 bytes has 32 bytes: the model's DRBG is a free function, of which nothing says so. -/
theorem linkRequests_iff : Obligations.LinkRequests ↔ ∀ n, (Config.drbg n 32).length = 32 := by
  unfold Obligations.LinkRequests
  constructor
  · intro h n
    obtain ⟨_, _, ide, _⟩ := (h (State.upWithDraw n) rfl).1 rfl
    obtain ⟨key, hk, e⟩ := (ide 0 (by decide)).1 (.bar 0)
    exact drbg_length_of_keyProg hk e
  intro hlen s hl
  have hw : s.wake = s := State.wake_l0 hl
  have up : s.linkUp = true := s.linkUp_iff.mpr (.inl hl)
  refine ⟨fun hf => ?answers, fun hf => ?resetting, ?io, fun hd hi => ?l1, fun w h1 h2 => ?l0p, fun t ht => ?wakes⟩
  case answers =>
    have h : s.Answers := ⟨hl, hf⟩
    refine ⟨fun e m => ?control, fun v n hn => ?table, fun k hk => ?ide, fun reg => ?config, rfl, s.cfgReg_busMaster, s.cfgReg_class, s.cfgReg_bar0, s.cfgReg_bar2,
      s.cfgReg_bar4⟩
    case control =>
      refine congrArg ret ((State.cfgWrite_open h.fnOpen _).trans ?_)
      rw [hw]
    case table =>
      intro e put
      have word (w : Nat) (hw4 : w < 4) := congrArg ret (opMsixTableWrite_word h hn hw4 v)
      exact ⟨word 0 (by decide), word 1 (by decide), word 2 (by decide), word 3 (by decide)⟩
    case ide =>
      intro put
      have exchange (m : IdeKm) := congrArg ret (opIdeKm_session h hk m)
      refine ⟨fun area => ⟨_, hlen s.freeCtr, exchange _⟩, exchange _, fun h1 => (exchange _).trans ?_, fun m => congrArg ret (opIdeKm_none s k m)⟩
      simp only [IdeStream.exchange, h1, if_true]
      rfl
    case config =>
      refine congrArg ret ?_
      simp only [opConfigRequest, up, hf, hw, Bool.not_true, Bool.false_eq_true, if_false]
  case resetting =>
    refine ⟨fun reg => congrArg ret ?_, by simp [State.hostOpen, hf], fun r v _ => ⟨congrArg ret (opRegisterWrite_flr hf r v), congrArg ret (opRegisterRead_flr hf r)⟩⟩
    simp only [opConfigRequest, up, hf, hw, Bool.not_true, Bool.false_eq_true, if_false, if_true]
  case io =>
    refine congrArg ret ((if_pos up).trans ?_)
    rw [hw]
  case l1 => exact congrArg ret (if_pos ⟨hl, by simp [State.hasWork_idle hd hi]⟩)
  case l0p =>
    refine congrArg ret ((if_pos ⟨up, h1, h2⟩).trans ?_)
    rw [hw]
  case wakes => simp [State.wake, ht]

end Sys2Proof.Machine

/-! SUPPORT. Operations of jobs: how a command reaches its operation, the byte strings that an operation cuts, and the forms in which an operation ends. -/

namespace Sys2Proof.Machine

/-! ### Byte strings -/

@[simp] theorem slice_length (b : List Byte) (lo n : Nat) : (slice b lo n).length = n := by simp [slice]

@[simp] theorem fit_length (n : Nat) (b : List Byte) : (fit n b).length = n := slice_length b 0 n

@[simp] theorem State.rand_length (s : State) (n : Nat) : (s.rand n).length = n := fit_length n _

@[simp] theorem beBytes_length (n x : Nat) : (beBytes n x).length = n := by simp [beBytes]

/-- A part of a byte string is cut out where it stands. -/
theorem slice_middle {a b c : List Byte} {lo n : Nat} (ha : a.length = lo) (hb : b.length = n) : slice (a ++ (b ++ c)) lo n = b := by
  subst ha hb
  apply List.ext_getElem (slice_length ..)
  intro i _ hi
  simp only [slice, List.getElem_map, List.getElem_range, List.getD_eq_getElem?_getD, List.getElem?_append_right (Nat.le_add_right ..), Nat.add_sub_cancel_left,
    List.getElem?_append_left hi, List.getElem?_eq_getElem hi, Option.getD_some]

theorem slice_last {a b : List Byte} {lo n : Nat} (ha : a.length = lo) (hb : b.length = n) : slice (a ++ b) lo n = b := by
  simpa using slice_middle (c := []) ha hb

/-- A message and the value of a known length that follows it in IN or AUX. -/
theorem take_before {b m t : List Byte} {n : Nat} (hb : b = m ++ t) (ht : t.length = n) : b.take (b.length - n) = m := by
  subst hb ht
  simp

theorem drop_before {b m t : List Byte} {n : Nat} (hb : b = m ++ t) (ht : t.length = n) : b.drop (b.length - n) = t := by
  subst hb ht
  simp

/-- A value of a known length and what follows it. -/
theorem take_front {b m t : List Byte} {n : Nat} (hb : b = m ++ t) (hm : m.length = n) : b.take n = m := by
  subst hb hm
  exact List.take_left

theorem drop_front {b m t : List Byte} {n : Nat} (hb : b = m ++ t) (hm : m.length = n) : b.drop n = t := by
  subst hb hm
  exact List.drop_left

/-! ### Draws -/

/-- The state after a number of draws more. -/
def State.draws (s : State) (n : Nat) : State := { s with freeCtr := s.freeCtr + n }

theorem State.draws_zero (s : State) : s.draws 0 = s := rfl

/-! ### An operation and its job (R112) -/

section
variable {s : State} {j : JobRef} {op : Nat} {x : Job} (h : OpRuns s j op x)
include h

theorem OpRuns.onOp (f : Job → State) : s.onOp j op f = f x := by
  obtain ⟨here, running, same, unended⟩ := h
  have hop : s.opJob j op = some x := by simp [State.opJob, here, running, same, unended]
  simp only [State.onOp, hop]

theorem OpRuns.cls : x.sqe.cls = op / 4096 % 16 := by
  rw [Sqe.cls, bits, Nat.shiftRight_eq_div_pow, ← h.same]
  rfl

/-- An operation that ends with `result` answers so, whatever its time and its draws. -/
theorem OpRuns.answers {u : State} {c : Instr} {f : Job → State} (hc : exec c s = ret (s.onOp j op f)) {n etime : Nat} {status : W16} {detail : W32} {out : List Byte}
    (hf : f x = (u.draws n).result j.die j.job status detail etime out) : Answers c s u j status detail out :=
  ⟨etime, n, hc.trans (congrArg ret ((h.onOp f).trans hf))⟩

end

end Sys2Proof.Machine

/-! PROOF. Symmetric operations. -/

namespace Sys2Proof.Machine

/-- An operation of the SYE runs once its input is staged. -/
theorem OpRuns.onSym {s : State} {j : JobRef} {op : Nat} {x : Job} (h : OpRuns s j op x) (hin : x.data.inData.length = x.sqe.inLen.toNat) (f : Job → State) :
    s.onSym j op f = f x := by
  rw [State.onSym, h.onOp, if_neg (fun k => k.2 hin)]

/-- It answers as its result says. -/
theorem OpRuns.symAnswers {s : State} {j : JobRef} {op : Nat} {x : Job} (h : OpRuns s j op x) (hin : x.data.inData.length = x.sqe.inLen.toNat) {c : Instr}
    {f : Job → State} (hc : exec c s = ret (s.onSym j op f)) {n etime : Nat} {status : W16} {detail : W32} {out : List Byte}
    (hf : f x = (s.draws n).result j.die j.job status detail etime out) : Answers c s s j status detail out :=
  ⟨etime, n, hc.trans (congrArg ret ((h.onSym hin f).trans hf))⟩

/-- Settles O24: each operation is its function of the input staged. -/
theorem symmetricOperations : Obligations.SymmetricOperations := by
  unfold Obligations.SymmetricOperations
  intro s j x hin
  dsimp only
  refine ⟨fun h => ?encrypt, fun h => ?decrypt, fun h => h.symAnswers hin (n := 0) rfl rfl, fun h md tag haux htag => ?verify,
    fun h => h.symAnswers hin (n := 0) rfl rfl⟩
  case encrypt =>
    have sealed {out : List Byte} (ho : symSeal x.sqe (s.jobSecret j.die x) x.data.auxData x.data.inData (s.rand 12) = out) : Answers (.encrypt j) s s j stOk 0 out := by
      rw [← ho]
      exact h.symAnswers hin (n := 1) rfl rfl
    refine ⟨⟨s.rand 12, s.rand_length 12, sealed rfl⟩, fun hm => sealed ?cbc, fun hm => sealed ?ctr, fun hm => sealed ?xts, fun hm => sealed ?kw, fun hm => sealed ?kwp,
      fun hm hg => ⟨s.rand 12, s.rand_length 12, sealed ?gcm⟩⟩
    case gcm => simp only [symSeal, hm, hg, if_true, List.append_assoc]
    all_goals simp only [symSeal, hm]
  case decrypt =>
    refine ⟨fun pt hp => h.symAnswers hin (n := 0) (etime := x.span) rfl ?opens, fun hn hs => h.symAnswers hin (n := 0) (etime := x.span) rfl ?mismatch,
      fun hn hm hl => h.symAnswers hin (n := 0) (etime := x.span) rfl ?long⟩
    case opens => simp only [hp]; rfl
    case mismatch =>
      have short : ¬ (x.sqe.mode = 3 ∧ 65536 < x.sqe.symLenIn) := by omega
      simp only [hn, short, if_false]
      rfl
    case long =>
      simp only [hn, hm, hl, and_self, if_true]
      rfl
  case verify =>
    have good : x.data.auxData.take (x.data.auxData.length - x.sqe.tagLen) = md := take_before haux htag
    have last : x.data.auxData.drop (x.data.auxData.length - x.sqe.tagLen) = tag := drop_before haux htag
    refine ⟨fun ht => h.symAnswers hin (n := 0) (etime := x.span) rfl ?same, fun ht => h.symAnswers hin (n := 0) (etime := x.span) rfl ?differs⟩
    case same =>
      simp only [good, last, ht, decide_true, if_true]
      rfl
    case differs =>
      simp only [good, last, Ne.symm ht, decide_false, Bool.false_eq_true, if_false]
      rfl

end Sys2Proof.Machine

/-! SUPPORT. New keys: what steps of progress, a pass's end and a counter leave of the key vault, and the blob of a new key. -/

namespace Sys2Proof.Machine

/-! ### New keys (R77, R156) -/

theorem BlobHdr.bytes_length (h : BlobHdr) : h.bytes.length = 48 := by simp [BlobHdr.bytes]

/-- A new blob is 76 bytes longer than its payload. -/
theorem State.newBlob_length (s : State) (d : Nat) (p : Slot) (alg : W16) (usage : W32) (counter : W16) (first stop : Nat) (unbound : Bool) (created : Nat)
    (payload : List Byte) : (s.newBlob d p alg usage counter first stop unbound created payload).1.length = 76 + payload.length := by
  simp only [State.newBlob, sealBlob, List.length_append, BlobHdr.bytes_length, State.rand_length, fit_length]
  omega

/-- The parent under which a job wraps depends on the key vault alone. -/
theorem State.jobParent_of_kvd {s t : State} {d : Nat} (h : (t.die d).kvd = (s.die d).kvd) (x : Job) : t.jobParent d x = s.jobParent d x := by
  simp only [State.jobParent, State.jobKey, State.jobKeys, State.slot?, h]

/-- The blob of a new asymmetric key under a parent. -/
def State.keyBlob (s : State) (d : Nat) (x : Job) (p : Slot) (counter : W16) (stop : Nat) (payload : List Byte) : List Byte :=
  (s.newBlob d p (s.newAlg x) (BitVec.ofNat 32 (x.sqe.par 0 32)) counter 0 stop false s.bbd.rtc.toNat payload).1

/-- What `newKey` leaves, under a parent. -/
theorem State.newKey_eq {u : State} {d : Nat} {x : Job} {p : Slot} (hp : u.jobParent d x = some p) (j n : Nat) (counter : W16) (stop : Nat)
    (payload pub entry : List Byte) (reps etime : Nat) :
    let b := (u.draws n).keyBlob d x p counter stop payload
    (u.draws n).newKey d j x counter stop payload pub entry reps etime =
      ((match x.data.kpcEntry with
        | some i => u.modKpc d i (fun e => { e with key := .tag (blobTag b), bytes := entry })
        | none => u).draws (n + 1)).result d j stOk (createdDetail b.length reps) etime (b ++ pub) := by
  have parent : (u.draws n).jobParent d x = some p := hp
  simp only [State.newKey, parent]
  cases x.data.kpcEntry <;> rfl

/-- An operation that ends with `newKey` creates its key. -/
theorem OpRuns.creates {s u : State} {j : JobRef} {op : Nat} {x : Job} (h : OpRuns s j op x) {p : Slot} (hp : s.jobParent j.die x = some p)
    (hk : (u.die j.die).kvd = (s.die j.die).kvd) {c : Instr} {f : Job → State} (hc : exec c s = ret (s.onOp j op f)) {n reps etime stop : Nat} {counter : W16}
    {payload pub entry : List Byte} (hf : f x = (u.draws n).newKey j.die j.job x counter stop payload pub entry reps etime) :
    Creates c s u j x payload pub entry :=
  ⟨(u.draws n).keyBlob j.die x p counter stop payload, reps, State.newBlob_length ..,
    h.answers hc (hf.trans (State.newKey_eq ((State.jobParent_of_kvd hk x).trans hp) ..))⟩

end Sys2Proof.Machine

/-! SUPPORT. The flags of the BNE: of several the first rank decides, and within it the lowest operand index (R290, R291). -/

namespace Sys2Proof.Machine

/-- A flag comes before another, or is it. -/
def BneFlag.first (f g : BneFlag) : Prop := f.1 < g.1 ∨ (f.1 = g.1 ∧ f.2 ≤ g.2)

/-- A flag comes first of a list. -/
def BneFlag.leads (f : BneFlag) (fs : List BneFlag) : Prop := ∀ g ∈ fs, f.first g

@[simp] theorem BneFlag.leads_append {f : BneFlag} {fs gs : List BneFlag} : f.leads (fs ++ gs) ↔ f.leads fs ∧ f.leads gs := List.forall_mem_append

@[simp] theorem BneFlag.leads_flagIf {f : BneFlag} {c : Bool} {rank detail : Nat} :
    f.leads (flagIf c rank detail) ↔ (c = true → f.1 < rank ∨ (f.1 = rank ∧ f.2 ≤ detail)) := by
  cases c <;> simp [flagIf, BneFlag.leads, BneFlag.first]

@[simp] theorem mem_flagIf {g : BneFlag} {c : Bool} {rank detail : Nat} : g ∈ flagIf c rank detail ↔ g = (rank, detail) ∧ c = true := by
  cases c <;> simp [flagIf]

@[simp] theorem flagIf_eq_nil {c : Bool} {rank detail : Nat} : flagIf c rank detail = [] ↔ c = false := by cases c <;> simp [flagIf]

/-- The flag that `firstFlag` keeps of the one so far and the next. -/
def BneFlag.pick (a : Option BneFlag) (f : BneFlag) : Option BneFlag :=
  match a with
  | none => some f
  | some b => if f.1 < b.1 ∨ (f.1 = b.1 ∧ f.2 < b.2) then some f else a

theorem firstFlag_eq (fs : List BneFlag) : firstFlag fs = fs.foldl BneFlag.pick none := rfl

/-- What is picked is one of the two. -/
theorem BneFlag.pick_cases (a : Option BneFlag) (f : BneFlag) : BneFlag.pick a f = some f ∨ BneFlag.pick a f = a := by
  cases a with
  | none => exact .inl rfl
  | some b => exact (ite_eq_or_eq ..)

/-- A flag that the one so far comes after is picked. -/
theorem BneFlag.pick_first {a : Option BneFlag} {f : BneFlag} (h : ∀ b, a = some b → f.first b) : BneFlag.pick a f = some f := by
  cases a with
  | none => rfl
  | some b =>
    have hb : f.first b := h b rfl
    by_cases hlt : f.1 < b.1 ∨ (f.1 = b.1 ∧ f.2 < b.2)
    · exact if_pos hlt
    · have same : b = f := Prod.ext (by unfold BneFlag.first at hb; omega) (by unfold BneFlag.first at hb; omega)
      exact (if_neg hlt).trans (congrArg some same)

/-- A flag so far stays before one that comes after it. -/
theorem BneFlag.pick_after {f g : BneFlag} (h : f.first g) : BneFlag.pick (some f) g = some f :=
  if_neg (by unfold BneFlag.first at h; omega)

/-- A flag that comes first of all is what remains. -/
theorem foldl_pick_first {f : BneFlag} (fs : List BneFlag) (hl : f.leads fs) (a : Option BneFlag) (ha : ∀ b, a = some b → f.first b)
    (hm : f ∈ fs ∨ a = some f) : fs.foldl BneFlag.pick a = some f := by
  induction fs generalizing a with
  | nil => simpa using hm
  | cons g gs ih =>
    obtain ⟨hg, hgs⟩ := List.forall_mem_cons.mp hl
    refine ih hgs (BneFlag.pick a g) (fun b hb => ?stays) ?kept
    case stays =>
      rcases BneFlag.pick_cases a g with e | e
      · obtain rfl := Option.some.inj (e.symm.trans hb)
        exact hg
      · exact ha b (e.symm.trans hb)
    case kept =>
      rcases hm with hm | rfl
      · rcases List.mem_cons.mp hm with rfl | hm
        · exact .inr (BneFlag.pick_first ha)
        · exact .inl hm
      · exact .inr (BneFlag.pick_after hg)

/-- A flag that is raised, and that comes before every other flag raised, decides. -/
theorem firstFlag_of_first {f : BneFlag} {fs : List BneFlag} (hm : f ∈ fs) (hl : f.leads fs) : firstFlag fs = some f :=
  (firstFlag_eq fs).trans (foldl_pick_first fs hl none (by simp) (.inl hm))

/-- The result of a BNE job by the flag that decides. -/
theorem State.bneResult_flag (s : State) (d j : Nat) {f : BneFlag} {fs : List BneFlag} (hm : f ∈ fs) (hl : f.leads fs) (time : Nat) (status : W16)
    (out : List Byte) : s.bneResult d j fs time status out = s.result d j (flagStatus f.1) (BitVec.ofNat 32 f.2) time [] := by
  rw [State.bneResult, firstFlag_of_first hm hl]

/-- Without a flag it is the program's own. -/
theorem State.bneResult_good (s : State) (d j : Nat) {fs : List BneFlag} (hn : fs = []) (time : Nat) (status : W16) (out : List Byte) :
    s.bneResult d j fs time status out = s.result d j status 0 time out := by
  rw [hn]
  rfl

section
variable {s u : State} {j : JobRef} {op : Nat} {x : Job} (h : OpRuns s j op x) {c : Instr} {f : Job → State} (hc : exec c s = ret (s.onOp j op f))
  {n etime : Nat} {status : W16} {out : List Byte} {fs : List BneFlag} (hf : f x = (u.bneResult j.die j.job fs etime status out).draws n)
include h hc hf

/-- A BNE operation answers with the flag that decides. -/
theorem OpRuns.flagged (g : BneFlag) (hm : g ∈ fs) (hl : g.leads fs) : Answers c s u j (flagStatus g.1) (BitVec.ofNat 32 g.2) [] :=
  h.answers hc (hf.trans (congrArg (fun t => State.draws t n) (State.bneResult_flag _ _ _ hm hl ..)))

/-- Without a flag it answers with its program's result. -/
theorem OpRuns.unflagged (hn : fs = []) : Answers c s u j status 0 out :=
  h.answers hc (hf.trans (congrArg (fun t => State.draws t n) (State.bneResult_good _ _ _ hn ..)))

end

end Sys2Proof.Machine

/-! PROOF. Elliptic-curve operations. -/

namespace Sys2Proof.Machine

/-! ### Scalars and points -/

/-- A random scalar is one of 1 to n - 1. -/
theorem State.randScalar_pos (s : State) (n : Nat) : 1 ≤ s.randScalar n := Nat.le_add_left ..

theorem State.randScalar_lt (s : State) {n : Nat} (h : 2 ≤ n) : s.randScalar n < n := by
  have := Nat.mod_lt (beNat (s.rand ((n.log2 + 65 + 7) / 8)) % 2 ^ (n.log2 + 65)) (show 0 < n - 1 by omega)
  simp only [State.randScalar]
  omega

/-- The coordinates of an encoded point. -/
def Curve.coords (c : Curve) (b : List Byte) : Nat × Nat := (beNat (slice b 1 c.len), beNat (slice b (1 + c.len) c.len))

/-- A point does not begin with the byte of an uncompressed one. -/
def misencoded (b : List Byte) : Bool := decide (b.getD 0 0 ≠ 0x04#8)

/-- A coordinate of an encoded point is none of the field. -/
def Curve.outOfRange (c : Curve) (b : List Byte) : Bool := decide (c.p ≤ (c.coords b).1 ∨ c.p ≤ (c.coords b).2)

/-- An encoded point is none of the curve, or (0, 0). -/
def Curve.offCurve (c : Curve) (b : List Byte) : Bool := decide ((c.coords b).1 = 0 ∧ (c.coords b).2 = 0) || !c.on (c.coords b).1 (c.coords b).2

theorem Curve.pointFlags_eq (c : Curve) (b : List Byte) (off index : Nat) :
    c.pointFlags b off index = flagIf (misencoded b) 0 off ++ flagIf (c.outOfRange b) 1 index ++ flagIf (c.offCurve b) 2 index := rfl

theorem misencoded_true {b : List Byte} (h : b.getD 0 0 ≠ 0x04#8) : misencoded b = true := decide_eq_true h

theorem misencoded_false {b : List Byte} (h : b.getD 0 0 = 0x04#8) : misencoded b = false := decide_eq_false (not_not_intro h)

theorem Curve.outOfRange_true {c : Curve} {b : List Byte} (h : c.p ≤ (c.coords b).1 ∨ c.p ≤ (c.coords b).2) : c.outOfRange b = true := decide_eq_true h

theorem Curve.outOfRange_false {c : Curve} {b : List Byte} (hx : (c.coords b).1 < c.p) (hy : (c.coords b).2 < c.p) : c.outOfRange b = false :=
  decide_eq_false (by omega)

theorem Curve.offCurve_iff (c : Curve) (b : List Byte) :
    c.offCurve b = false ↔ c.on (c.coords b).1 (c.coords b).2 = true ∧ ((c.coords b).1 ≠ 0 ∨ (c.coords b).2 ≠ 0) := by
  simp only [Curve.offCurve, Bool.or_eq_false_iff, decide_eq_false_iff_not, Bool.not_eq_false', not_and_or]
  exact And.comm

/-- The flags of a point whose encoding and range are good. -/
theorem Curve.pointFlags_inRange {c : Curve} {b : List Byte} (he : b.getD 0 0 = 0x04#8) (hx : (c.coords b).1 < c.p) (hy : (c.coords b).2 < c.p) (off index : Nat) :
    c.pointFlags b off index = flagIf (c.offCurve b) 2 index := by
  rw [Curve.pointFlags_eq, misencoded_false he, Curve.outOfRange_false hx hy]
  rfl

/-! ### ECDSA -/

/-- The status and DETAIL of r and t as a signature of a message under a point, whose own check says `point` (R90, R291). -/
def Job.ecdsaSays (x : Job) (r t : Nat) (q : EcPoint) (point : W16 × W32) (m : List Byte) : W16 × W32 :=
  if r = 0 ∨ x.weier.n ≤ r then (stOperandRange, 2) else if t = 0 ∨ x.weier.n ≤ t then (stOperandRange, 3)
  else if point.1 ≠ stOk then point else if x.weier.verify q (digestInt x.weier (x.sqe.digest m)) r t then (stOk, 0) else (stVerifyFail, 0)

/-- The check of a signature r ‖ t at the end of IN, under a point of which one flag says that it is bad. -/
theorem State.ecdsaCheck_eq (s : State) (d j : Nat) {x : Job} {m r t : List Byte} (hin : x.data.inData = m ++ r ++ t) (hr : r.length = x.weier.len)
    (ht : t.length = x.weier.len) (bad : Bool) (q : EcPoint) :
    let v := x.ecdsaSays (beNat r) (beNat t) q (if bad then (stPointInvalid, 1) else (stOk, 0)) m
    s.ecdsaCheck d j x (flagIf bad 2 1) q = s.result d j v.1 v.2 (s.bneTime d x) [] := by
  have hm : x.data.inData.length - 2 * x.weier.len = m.length := by simp [hin, hr, ht]; omega
  have inR : slice x.data.inData m.length x.weier.len = r := by rw [hin, List.append_assoc]; exact slice_middle rfl hr
  have inT : slice x.data.inData (m.length + x.weier.len) x.weier.len = t := by rw [hin]; exact slice_last (by simp [hr]) ht
  have inM : x.data.inData.take m.length = m := by rw [hin, List.append_assoc, List.take_left]
  simp only [State.ecdsaCheck, hm, inR, inT, inM, Job.ecdsaSays]
  by_cases h2 : beNat r = 0 ∨ x.weier.n ≤ beNat r
  · rw [if_pos h2]
    exact State.bneResult_flag s d j (f := (1, 2)) (by simp [h2]) (by simp) ..
  by_cases h3 : beNat t = 0 ∨ x.weier.n ≤ beNat t
  · rw [if_neg h2, if_pos h3]
    exact State.bneResult_flag s d j (f := (1, 3)) (by simp [h3]) (by simp [h2]) ..
  rw [if_neg h2, if_neg h3]
  cases bad with
  | true => exact State.bneResult_flag s d j (f := (2, 1)) (by simp) (by simp [h2, h3]) ..
  | false =>
    refine (State.bneResult_good s d j (by simp [h2, h3]) ..).trans ?_
    cases x.weier.verify q (digestInt x.weier (x.sqe.digest m)) (beNat r) (beNat t) <;> rfl

/-- Settles O22: the checks of points and integers by the flag that comes first, and each operation by its own function. -/
theorem ecOperations : Obligations.EcOperations := by
  unfold Obligations.EcOperations
  intro s j x
  dsimp only
  refine ⟨fun parent h hp => ?keygen, fun h => ?sign, fun h m r t hin hr ht => ?verify, fun h m r t hin hr ht => ?verifyExt, fun h => ?agree,
    fun h => h.answers (n := 1) rfl rfl, fun h m sig hin hs => ?edVerify, fun h m sig pk ctx hin hs haux hpk => ?edVerifyExt⟩
  case keygen =>
    refine ⟨if 4 ≤ x.sqe.ps ∧ x.sqe.ps ≤ 7 then s.rand x.curveBytes else beBytes x.curveBytes (s.randScalar x.weier.n), ?_, h.creates (n := 1) hp rfl rfl rfl⟩
    split <;> simp
  case sign =>
    refine ⟨fun h0 => h.flagged (n := 1) rfl rfl (1, 5) (by simp [h0]) (by simp), fun h0 => ⟨_, ?_, ?_, h.unflagged (n := 1) rfl rfl (by simp [h0])⟩⟩
    · intro hb
      exact if_pos hb
    · intro hb
      rw [hb]
      exact ⟨s.randScalar_pos _, fun hn => s.randScalar_lt hn⟩
  case verify =>
    have verdict := s.ecdsaCheck_eq j.die j.job hin hr ht (x.weier.mul (s.scalar j.die x) x.weier.g).isNone (x.weier.mul (s.scalar j.die x) x.weier.g)
    simp only [Option.isNone_iff_eq_none] at verdict
    exact h.answers (n := 0) rfl verdict
  case verifyExt =>
    refine ⟨fun he => h.flagged (n := 0) rfl rfl (0, 0) (by simp [Curve.pointFlags_eq, misencoded_true he]) (by simp [Curve.pointFlags_eq]),
      fun he hp => h.flagged (n := 0) rfl rfl (1, 1) (by simp [Curve.pointFlags_eq, Curve.outOfRange_true hp]) (by simp [Curve.pointFlags_eq, misencoded_false he]),
      fun he hx hy => ?inRange⟩
    have judged (bad : Bool) (ho : x.weier.offCurve x.data.auxData = bad) :
        let v := x.ecdsaSays (beNat r) (beNat t) (x.weier.point x.data.auxData) (if bad then (stPointInvalid, 1) else (stOk, 0)) m
        Answers (.ecdsaVerifyExt j) s s j v.1 v.2 [] := by
      have verdict := s.ecdsaCheck_eq j.die j.job hin hr ht bad (x.weier.point x.data.auxData)
      rw [← ho, ← Curve.pointFlags_inRange he hx hy 0 1] at verdict
      rw [← ho]
      exact h.answers (n := 0) rfl verdict
    have off := x.weier.offCurve_iff x.data.auxData
    constructor
    · intro v hv hp
      rw [hv]
      exact judged true (Bool.eq_true_of_not_eq_false (fun k => hp (off.mp k)))
    · intro v hv hp
      rw [hv]
      exact judged false (off.mpr hp)
  case agree =>
    constructor
    · intro hps
      constructor
      · intro hz
        refine h.flagged (n := 1) rfl (if_pos hps) (2, 4) ?_ (by simp)
        simpa using hz
      · intro hz
        refine h.unflagged (n := 1) rfl (if_pos hps) ?_
        simpa using hz
    · intro h4 h5
      have flagged (g : BneFlag) := h.flagged (c := .keyAgree j) (n := 1) rfl (if_neg (not_or.mpr ⟨h4, h5⟩)) g
      have off := x.weier.offCurve_iff x.data.inData
      refine ⟨fun he => flagged (0, 0) (by simp [Curve.pointFlags_eq, misencoded_true he]) (by simp [Curve.pointFlags_eq]),
        fun he hp => flagged (1, 2) (by simp [Curve.pointFlags_eq, Curve.outOfRange_true hp]) (by simp [Curve.pointFlags_eq, misencoded_false he]),
        fun he hx hy => ?_, fun he hx hy => ?_, fun he hx hy => ?_, fun a y he hx hy hd hp hz => ?agrees⟩
      case agrees =>
        have agreed := h.unflagged (c := .keyAgree j) (n := 1) rfl (if_neg (not_or.mpr ⟨h4, h5⟩))
        have value : x.weier.mul (x.weier.h * s.scalar j.die x) (x.weier.point x.data.inData) = some (a, y) := hz
        rw [Curve.pointFlags_inRange he hx hy, value] at agreed
        exact agreed (by simp [off.mpr hp, hd])
      all_goals rw [Curve.pointFlags_inRange he hx hy] at flagged
      · exact fun hd => flagged (1, 5) (by simp [hd]) (by simp)
      · exact fun hd hp => flagged (2, 2) (by simp [Bool.eq_true_of_not_eq_false (fun k => hp (off.mp k))]) (by simp [hd])
      · exact fun hd hp hz => flagged (2, 4) (by simp [Curve.point, hz]) (by simp [hd, off.mpr hp])
  case edVerify =>
    refine h.answers (n := 0) (etime := s.bneTime j.die x) rfl ?_
    simp only [State.eddsaCheck, take_before hin hs, drop_before hin hs]
    rfl
  case edVerifyExt =>
    refine h.answers (n := 0) (etime := s.bneTime j.die x) rfl ?_
    simp only [State.eddsaCheck, take_before hin hs, drop_before hin hs, take_front haux hpk, drop_front haux hpk]
    rfl

end Sys2Proof.Machine

/-! SUPPORT. What the steps of a job's progress leave alone: the key vaults, and the number of draws, with which they do not change. -/

namespace Sys2Proof.Machine

/-! ### The key vaults -/

/-- The key vault of every die is as it was. -/
structure State.SameKeys (s t : State) : Prop where
  kvd : ∀ d, (t.die d).kvd = (s.die d).kvd

theorem State.SameKeys.refl (s : State) : s.SameKeys s := ⟨fun _ => rfl⟩

theorem State.SameKeys.trans {s t u : State} (h : s.SameKeys t) (k : t.SameKeys u) : s.SameKeys u := ⟨fun d => (k.kvd d).trans (h.kvd d)⟩

theorem State.SameKeys.ite {s t u : State} {c : Prop} [Decidable c] (h : s.SameKeys t) (k : s.SameKeys u) : s.SameKeys (if c then t else u) := by
  split
  · exact h
  · exact k

theorem State.sameKeys_modDie (s : State) (d : Nat) {f : Die → Die} (hf : ∀ y, (f y).kvd = y.kvd) : s.SameKeys (s.modDie d f) := by
  refine ⟨fun e => ?_⟩
  rw [State.modDie_die]
  split
  · next h => rw [hf, h.1]
  · rfl

theorem OutputsOnly.sameKeys {s t : State} (h : OutputsOnly s t) : s.SameKeys t := by
  refine ⟨fun d => ?_⟩
  obtain ⟨r, e⟩ := h.die d
  rw [e]

section
variable (s : State)

theorem State.sameKeys_iitEvent (i : Nat) : s.SameKeys (s.iitEvent i) :=
  .ite ⟨(OutputsOnly.counts s 0 EVR 0 0x134 1).sameKeys.kvd⟩ (OutputsOnly.iitSend ..).sameKeys

theorem State.sameKeys_portalEvent (n b : Nat) : s.SameKeys (s.portalEvent n b) := .ite ⟨(State.sameKeys_iitEvent ..).kvd⟩ ⟨fun _ => rfl⟩

theorem State.sameKeys_mqEvent (d q : Nat) : s.SameKeys (s.mqEvent d q) := by
  have raised : s.SameKeys (s.event d QMG 0 0) := (OutputsOnly.event ..).sameKeys
  exact .ite (raised.trans (OutputsOnly.signal ..).sameKeys) ⟨raised.kvd⟩

theorem State.sameKeys_queueEvent (d q : Nat) : s.SameKeys (s.queueEvent d q) := by
  have timer (f : QAux → QAux) : s.SameKeys (s.modAux d q f) := s.sameKeys_modDie d (fun _ => rfl)
  exact .ite ((timer _).trans (State.sameKeys_portalEvent ..)) ((timer _).trans (State.sameKeys_mqEvent ..))

theorem State.sameKeys_jobAt (d j n permille : Nat) : s.SameKeys (s.jobAt d j n permille) := by
  have counted (f : Job → Job) : s.SameKeys (s.modJob d j f) := s.sameKeys_modDie d (fun _ => rfl)
  unfold State.jobAt
  cases s.job? d j with
  | none => exact .refl s
  | some x => exact .ite ((counted _).trans (State.sameKeys_queueEvent ..)) (counted _)

theorem State.sameKeys_jobStep (d j n m : Nat) : s.SameKeys (s.jobStep d j n m) := s.sameKeys_jobAt ..

theorem State.sameKeys_jobRepeat (d j n m k e10 : Nat) : s.SameKeys (s.jobRepeat d j n m k e10) := s.sameKeys_jobAt ..

theorem State.sameKeys_jobSteps (d j m : Nat) : s.SameKeys (s.jobSteps d j m) :=
  List.foldlRecOn _ _ (.refl s) (fun _ h _ _ => h.trans (State.sameKeys_jobStep ..))

theorem State.sameKeys_rsaTried (d j h step n : Nat) : s.SameKeys (s.rsaTried d j h step n) :=
  (s.sameKeys_jobStep ..).trans (State.sameKeys_jobRepeat ..)

theorem State.sameKeys_passDone (d : Nat) (x : Job) (accept : Bool) (word : Nat) : s.SameKeys (s.passDone d x accept word) := by
  unfold State.passDone
  split
  · exact .refl s
  · exact s.sameKeys_modDie d (fun _ => rfl)

theorem State.sameKeys_takeCounter (i : Nat) (c : CounterRec) : s.SameKeys (s.takeCounter i c) := .ite ⟨(OutputsOnly.event ..).sameKeys.kvd⟩ ⟨fun _ => rfl⟩

end

/-! ### The number of draws -/

/-- The state with the draws made up to a number. -/
def State.drawnTo (s : State) (k : Nat) : State := { s with freeCtr := k }

theorem State.drawnTo_eq_draws {s : State} {k : Nat} (h : s.freeCtr ≤ k) : s.drawnTo k = s.draws (k - s.freeCtr) := by
  rw [State.draws, Nat.add_sub_cancel' h]
  rfl

theorem State.ite_drawnTo {k : Nat} {c : Prop} [Decidable c] {t u t' u' : State} (ht : t.drawnTo k = t') (hu : u.drawnTo k = u') :
    (if c then t else u).drawnTo k = if c then t' else u' := by
  split
  · exact ht
  · exact hu

section
variable (s : State) (k : Nat)

theorem State.signal_drawnTo (v : Nat) : (s.signal v).drawnTo k = (s.drawnTo k).signal v := State.ite_drawnTo rfl rfl

theorem State.iitSend_drawnTo (e : IitEntry) : (s.iitSend e).drawnTo k = (s.drawnTo k).iitSend e := State.ite_drawnTo rfl (s.signal_drawnTo k _)

theorem State.iitEvent_drawnTo (i : Nat) : (s.iitEvent i).drawnTo k = (s.drawnTo k).iitEvent i := State.ite_drawnTo rfl (s.iitSend_drawnTo k _)

theorem State.portalEvent_drawnTo (n b : Nat) : (s.portalEvent n b).drawnTo k = (s.drawnTo k).portalEvent n b :=
  State.ite_drawnTo (State.iitEvent_drawnTo _ k _) rfl

theorem State.mqEvent_drawnTo (d q : Nat) : (s.mqEvent d q).drawnTo k = (s.drawnTo k).mqEvent d q := State.ite_drawnTo (State.signal_drawnTo _ k _) rfl

theorem State.queueEvent_drawnTo (d q : Nat) : (s.queueEvent d q).drawnTo k = (s.drawnTo k).queueEvent d q :=
  State.ite_drawnTo (State.portalEvent_drawnTo _ k ..) (State.mqEvent_drawnTo _ k ..)

theorem State.jobAt_drawnTo (d j n permille : Nat) : (s.jobAt d j n permille).drawnTo k = (s.drawnTo k).jobAt d j n permille := by
  have same : (s.drawnTo k).job? d j = s.job? d j := rfl
  unfold State.jobAt
  rw [same]
  cases s.job? d j with
  | none => rfl
  | some x => exact State.ite_drawnTo (State.queueEvent_drawnTo _ k ..) rfl

theorem State.jobStep_drawnTo (d j n m : Nat) : (s.jobStep d j n m).drawnTo k = (s.drawnTo k).jobStep d j n m := s.jobAt_drawnTo k ..

theorem State.rsaTried_drawnTo (d j h step n : Nat) : (s.rsaTried d j h step n).drawnTo k = (s.drawnTo k).rsaTried d j h step n := by
  unfold State.rsaTried State.jobRepeat
  rw [State.jobAt_drawnTo, State.jobStep_drawnTo]

end

/-- Progress makes no draw. -/
@[simp] theorem State.jobAt_freeCtr (s : State) (d j n permille : Nat) : (s.jobAt d j n permille).freeCtr = s.freeCtr :=
  (congrArg State.freeCtr (s.jobAt_drawnTo s.freeCtr d j n permille)).symm

@[simp] theorem State.jobStep_freeCtr (s : State) (d j n m : Nat) : (s.jobStep d j n m).freeCtr = s.freeCtr := State.jobAt_freeCtr ..

@[simp] theorem State.rsaTried_freeCtr (s : State) (d j h step n : Nat) : (s.rsaTried d j h step n).freeCtr = s.freeCtr :=
  (State.jobAt_freeCtr ..).trans (State.jobAt_freeCtr ..)

end Sys2Proof.Machine

/-! PROOF. Curve slots and RSA operations. -/

namespace Sys2Proof.Machine

/-! ### Prime generation (R299) -/

/-- A search for a prime makes a draw or more. -/
theorem findPrime_draws {fuel ctr h e : Nat} {other : Option Nat} {tried : Nat} {r : Nat × Nat × Nat} (hr : findPrime fuel ctr h e other tried = some r) :
    ctr < r.2.2 := by
  induction fuel generalizing ctr tried with
  | zero => exact absurd hr (by simp [findPrime])
  | succ fuel ih =>
    simp only [findPrime] at hr
    split at hr
    · rw [← Option.some.inj hr]
      dsimp only
      omega
    · have := ih hr
      omega

/-- The public exponent of a new key (R83). -/
def Sqe.rsaExponent (e : Sqe) : Nat := if e.par 32 32 = 0 then 65537 else e.par 32 32

/-- The progress of a key generation that has tried so many candidates for each prime. -/
def State.rsaSearched (s : State) (d j h n1 n2 : Nat) : State := (s.rsaTried d j h 1 n1).rsaTried d j h 2 n2

/-- The progress of one that has found both. -/
def State.rsaFound (s : State) (d j h n1 n2 : Nat) : State := (((s.rsaSearched d j h n1 n2).jobStep d j 3 5).jobStep d j 4 5).jobStep d j 5 5

theorem State.sameKeys_rsaFound (s : State) (d j h n1 n2 : Nat) : s.SameKeys (s.rsaFound d j h n1 n2) :=
  ((((s.sameKeys_rsaTried ..).trans (State.sameKeys_rsaTried ..)).trans (State.sameKeys_jobStep ..)).trans (State.sameKeys_jobStep ..)).trans (State.sameKeys_jobStep ..)

/-- Draws made before the candidates are tried may as well be made after. -/
theorem State.drawnTo_rsaSearched (s : State) (d j h n1 n2 : Nat) {k : Nat} (hk : s.freeCtr ≤ k) :
    (s.drawnTo k).rsaSearched d j h n1 n2 = (s.rsaSearched d j h n1 n2).draws (k - s.freeCtr) := by
  have after : (s.rsaSearched d j h n1 n2).freeCtr = s.freeCtr := by simp [State.rsaSearched]
  rw [← after, ← State.drawnTo_eq_draws (by omega), State.rsaSearched, State.rsaSearched, State.rsaTried_drawnTo, State.rsaTried_drawnTo]

/-- So for those made between the two primes. -/
theorem State.rsaSearched_draws (s : State) (d j h n1 n2 : Nat) {k l : Nat} (hl : s.freeCtr ≤ l) :
    (((s.drawnTo k).rsaTried d j h 1 n1).drawnTo l).rsaTried d j h 2 n2 = (s.rsaSearched d j h n1 n2).draws (l - s.freeCtr) := by
  rw [State.rsaTried_drawnTo]
  exact s.drawnTo_rsaSearched d j h n1 n2 hl

/-- So for the steps after. -/
theorem State.rsaFound_draws (s : State) (d j h n1 n2 : Nat) {k l : Nat} (hl : s.freeCtr ≤ l) :
    ((((((s.drawnTo k).rsaTried d j h 1 n1).drawnTo l).rsaTried d j h 2 n2).jobStep d j 3 5).jobStep d j 4 5).jobStep d j 5 5 =
      (s.rsaFound d j h n1 n2).draws (l - s.freeCtr) := by
  have before : (s.rsaSearched d j h n1 n2).freeCtr = s.freeCtr := by simp [State.rsaSearched]
  have after : (s.rsaFound d j h n1 n2).freeCtr = s.freeCtr := by simp [State.rsaFound, State.rsaSearched]
  rw [s.rsaSearched_draws d j h n1 n2 hl, ← before, ← State.drawnTo_eq_draws (by omega), before, ← after, ← State.drawnTo_eq_draws (by omega), State.rsaFound,
    State.jobStep_drawnTo, State.jobStep_drawnTo, State.jobStep_drawnTo]

section
variable {s : State} {j : JobRef} {x : Job} (h : OpRuns s j 0x4010 x) {p q : Nat × Nat × Nat}
include h

/-- Both primes found: their key is made. -/
theorem OpRuns.rsaKeygen_found {parent : Slot} (hp : s.jobParent j.die x = some parent)
    (h1 : findPrime 65536 (s.freeCtr + 1) (x.sqe.rsaK / 2) x.sqe.rsaExponent none 0 = some p)
    (h2 : findPrime 65536 p.2.2 (x.sqe.rsaK / 2) x.sqe.rsaExponent (some p.1) 0 = some q) :
    let made := rsaKeyOf p.1 q.1 x.sqe.rsaExponent
    Creates (.rsaKeygen j) s (s.rsaFound j.die j.job (x.sqe.rsaK / 2) p.2.1 q.2.1) j x (made.bytes (x.sqe.rsaK / 2)) (made.pub (x.sqe.rsaK / 2)) [] := by
  have l1 := findPrime_draws h1
  have l2 := findPrime_draws h2
  refine h.creates (counter := 0xFFFF) (stop := 0) (reps := p.2.1 + q.2.1) (etime := Config.rsaKeygenTime (x.sqe.rsaK / 2) (p.2.1 + q.2.1)) hp ((s.sameKeys_rsaFound ..).kvd _)
    (n := q.2.2 - s.freeCtr) rfl ?_
  simp only [← Sqe.rsaExponent.eq_def, h1, h2]
  rw [← s.rsaFound_draws j.die j.job (x.sqe.rsaK / 2) p.2.1 q.2.1 (k := p.2.2) (l := q.2.2) (by omega)]
  rfl

/-- No first prime. -/
theorem OpRuns.rsaKeygen_first (h1 : findPrime 65536 (s.freeCtr + 1) (x.sqe.rsaK / 2) x.sqe.rsaExponent none 0 = none) :
    Answers (.rsaKeygen j) s (s.rsaTried j.die j.job (x.sqe.rsaK / 2) 1 65536) j stKeygenLimit 0 [] := by
  have drawn := (s.rsaTried_drawnTo (s.freeCtr + 1) j.die j.job (x.sqe.rsaK / 2) 1 65536).symm.trans (State.drawnTo_eq_draws (by simp))
  refine h.answers (n := s.freeCtr + 1 - (s.rsaTried j.die j.job (x.sqe.rsaK / 2) 1 65536).freeCtr) (etime := Config.rsaKeygenTime (x.sqe.rsaK / 2) 65536) rfl ?_
  simp only [← Sqe.rsaExponent.eq_def, h1]
  rw [← drawn]
  rfl

/-- No second prime. -/
theorem OpRuns.rsaKeygen_second (h1 : findPrime 65536 (s.freeCtr + 1) (x.sqe.rsaK / 2) x.sqe.rsaExponent none 0 = some p)
    (h2 : findPrime 65536 p.2.2 (x.sqe.rsaK / 2) x.sqe.rsaExponent (some p.1) 0 = none) :
    Answers (.rsaKeygen j) s (s.rsaSearched j.die j.job (x.sqe.rsaK / 2) p.2.1 65536) j stKeygenLimit 0 [] := by
  have l1 := findPrime_draws h1
  refine h.answers (n := p.2.2 - s.freeCtr) (etime := Config.rsaKeygenTime (x.sqe.rsaK / 2) (p.2.1 + 65536)) rfl ?_
  simp only [← Sqe.rsaExponent.eq_def, h1, h2]
  rw [← s.drawnTo_rsaSearched j.die j.job (x.sqe.rsaK / 2) p.2.1 65536 (k := p.2.2) (by omega)]
  rfl

end

/-! ### The public key of AUX (R290) -/

/-- A modulus that is even or short. -/
theorem rsaPubFlags_modulus {k n e : Nat} (hn : n % 2 = 0 ∨ n < 2 ^ (8 * k - 1)) : (0, 0) ∈ rsaPubFlags k n e ∧ BneFlag.leads (0, 0) (rsaPubFlags k n e) := by
  simp [rsaPubFlags, hn]

/-- An exponent that is even or below 3. -/
theorem rsaPubFlags_exponent {k n e : Nat} (ho : n % 2 = 1) (hn : 2 ^ (8 * k - 1) ≤ n) (he : e % 2 = 0 ∨ e < 3) :
    (0, k) ∈ rsaPubFlags k n e ∧ BneFlag.leads (0, k) (rsaPubFlags k n e) := by
  simp [rsaPubFlags, ho, Nat.not_lt.mpr hn, he]

theorem rsaPubFlags_good {k n e : Nat} (ho : n % 2 = 1) (hn : 2 ^ (8 * k - 1) ≤ n) (heo : e % 2 = 1) (he : 3 ≤ e) : rsaPubFlags k n e = [] := by
  simp [rsaPubFlags, ho, Nat.not_lt.mpr hn, heo, Nat.not_lt.mpr he]

/-! ### Blinding (R290, R291) -/

/-- The result of a blinded operation whose operand is good. -/
theorem State.bneResult_blinded (s t : State) (d j n k time : Nat) (status : W16) (out : List Byte) :
    let r := beNat (s.drawn.rand k) % n
    t.bneResult d j (s.blindFlag n k) time status out = t.result d j (if Nat.gcd r n = 1 then status else stNotInvertible)
      (if Nat.gcd r n = 1 then 0 else 6) time (if Nat.gcd r n = 1 then out else []) := by
  intro r
  by_cases h : Nat.gcd r n = 1
  · simp only [h, if_true]
    exact State.bneResult_good _ _ _ (by rw [State.blindFlag, decide_eq_false (not_not_intro h)]; rfl) ..
  · simp only [h, if_false]
    exact State.bneResult_flag _ _ _ (f := (3, 6)) (by rw [State.blindFlag, decide_eq_true h]; simp) (by simp [State.blindFlag]) ..

/-! ### Verification and encryption -/

/-- The check of a signature at the end of IN is one of the message before it. -/
theorem State.rsaCheck_eq (s : State) (d j : Nat) {x : Job} {m sig : List Byte} (hin : x.data.inData = m ++ sig) (hs : sig.length = x.sqe.rsaK)
    (fs : List BneFlag) (n ex : Nat) :
    let em := beBytes x.sqe.rsaK (modExp (beNat sig) ex n)
    s.rsaCheck d j x fs n ex = s.bneResult d j (fs ++ flagIf (decide (n ≤ beNat sig)) 1 2) (s.bneTime d x)
      (if (if bit x.sqe.param 6 then pssOk x.sqe.hashCode x.sqe.rsaK (x.sqe.par 8 8) (x.sqe.digest m) em = true
        else em = emsaV15 x.sqe.hashCode x.sqe.rsaK (x.sqe.digest m)) then stOk else stVerifyFail) [] := by
  simp only [State.rsaCheck, take_before hin hs, drop_before hin hs]
  cases bit x.sqe.param 6 <;> simp

section
variable {s : State} {j : JobRef} {op : Nat} {x : Job} (h : OpRuns s j op x) {c : Instr} {f : Job → State} (hc : exec c s = ret (s.onOp j op f)) {n ex : Nat}
include h hc

/-- A verification under a good public key. -/
theorem OpRuns.rsaVerifies {m sig : List Byte} (hin : x.data.inData = m ++ sig) (hs : sig.length = x.sqe.rsaK)
    (hf : f x = s.rsaCheck j.die j.job x [] n ex) :
    let em := beBytes x.sqe.rsaK (modExp (beNat sig) ex n)
    let good := if bit x.sqe.param 6 then pssOk x.sqe.hashCode x.sqe.rsaK (x.sqe.par 8 8) (x.sqe.digest m) em = true
      else em = emsaV15 x.sqe.hashCode x.sqe.rsaK (x.sqe.digest m)
    (n ≤ beNat sig → Answers c s s j stOperandRange 2 []) ∧ (beNat sig < n → good → Answers c s s j stOk 0 []) ∧
      (beNat sig < n → ¬ good → Answers c s s j stVerifyFail 0 []) := by
  intro em good
  have checked := hf.trans (s.rsaCheck_eq j.die j.job hin hs [] n ex)
  refine ⟨fun hr => h.flagged (n := 0) hc checked (1, 2) (by simp [hr]) (by simp), fun hr hg => ?_, fun hr hg => ?_⟩
  · rw [if_pos hg] at checked
    exact h.unflagged (n := 0) hc checked (by simp [hr])
  · rw [if_neg hg] at checked
    exact h.unflagged (n := 0) hc checked (by simp [hr])

/-- An encryption under a good public key. -/
theorem OpRuns.rsaSeals {label : List Byte} (hf : f x = s.rsaSeal j.die j.job x [] n ex label) :
    ∃ seed : List Byte, seed.length = (hashLen? x.sqe.hashCode).getD 32 ∧
      Answers c s s j stOk 0 (beBytes x.sqe.rsaK (modExp (beNat (oaepEncode x.sqe.hashCode x.sqe.rsaK label seed x.data.inData)) ex n)) :=
  ⟨s.rand _, s.rand_length _, h.unflagged (n := 1) hc hf rfl⟩

/-- The checks of the public key of AUX come first; then the operation. -/
theorem OpRuns.rsaPublic {n : Nat} {ok : Prop} {fs : List BneFlag} {etime : Nat} {status : W16} {out : List Byte}
    (hf : f x = (s.bneResult j.die j.job fs etime status out).draws n)
    (hm : ∀ g : BneFlag, g.1 = 0 → g ∈ rsaPubFlags x.sqe.rsaK x.rsaPub.1 x.rsaPub.2 → g.leads (rsaPubFlags x.sqe.rsaK x.rsaPub.1 x.rsaPub.2) → g ∈ fs ∧ g.leads fs)
    (hok : rsaPubFlags x.sqe.rsaK x.rsaPub.1 x.rsaPub.2 = [] → ok) :
    (x.rsaPub.1 % 2 = 0 ∨ x.rsaPub.1 < 2 ^ (8 * x.sqe.rsaK - 1) → Answers c s s j stEncoding 0 []) ∧
    (x.rsaPub.1 % 2 = 1 → 2 ^ (8 * x.sqe.rsaK - 1) ≤ x.rsaPub.1 → x.rsaPub.2 % 2 = 0 ∨ x.rsaPub.2 < 3 →
      Answers c s s j stEncoding (BitVec.ofNat 32 x.sqe.rsaK) []) ∧
    (x.rsaPub.1 % 2 = 1 → 2 ^ (8 * x.sqe.rsaK - 1) ≤ x.rsaPub.1 → x.rsaPub.2 % 2 = 1 → 3 ≤ x.rsaPub.2 → ok) := by
  refine ⟨fun hn => ?_, fun ho hn he => ?_, fun ho hn heo he => hok (rsaPubFlags_good ho hn heo he)⟩
  · obtain ⟨m, l⟩ := rsaPubFlags_modulus (e := x.rsaPub.2) hn
    obtain ⟨m, l⟩ := hm (0, 0) rfl m l
    exact h.flagged hc hf (0, 0) m l
  · obtain ⟨m, l⟩ := rsaPubFlags_exponent ho hn he
    obtain ⟨m, l⟩ := hm (0, x.sqe.rsaK) rfl m l
    exact h.flagged hc hf (0, x.sqe.rsaK) m l

end

/-- Settles O23: the checks of a curve record in their order, and the checks of RSA values by the flag that comes first. -/
theorem curveAndRsaOperations : Obligations.CurveAndRsaOperations := by
  unfold Obligations.CurveAndRsaOperations
  refine ⟨fun s j x => ?curves, fun s j x => ?rsa⟩
  case curves =>
    dsimp only
    refine ⟨fun h => ⟨fun f hf => ?fails, fun t hf ht => ?loads, fun hf ht => ?full⟩, fun h => ⟨fun r hr => ?unloads, fun hr => ?empty⟩⟩
    case fails =>
      refine h.answers (n := 0) (etime := min (curveLoadMax x.sqe.fieldBits) (Config.curveTime x.sqe.fieldBits f.1 s.freeCtr)) rfl ?_
      simp only [hf, State.draws_zero]
      rfl
    case loads =>
      refine h.answers (n := 0) (etime := min (curveLoadMax x.sqe.fieldBits) (Config.curveTime x.sqe.fieldBits 8 s.freeCtr)) rfl ?_
      simp only [hf, ht, State.draws_zero]
      rfl
    case full =>
      refine h.answers (n := 0) (etime := min (curveLoadMax x.sqe.fieldBits) (Config.curveTime x.sqe.fieldBits 8 s.freeCtr)) rfl ?_
      simp only [hf, ht, State.draws_zero]
      rfl
    case unloads =>
      refine h.answers (n := 1) (etime := Config.opTime x.sqe.prog s.freeCtr) rfl (if_neg ?_)
      change ¬ (Assoc.get? (s.inst x.src.inst).curves (x.sqe.par 16 2)).isNone = true
      simp [hr]
    case empty =>
      refine h.answers (n := 1) (etime := Config.opTime x.sqe.prog s.freeCtr) rfl (if_pos ?_)
      change (Assoc.get? (s.inst x.src.inst).curves (x.sqe.par 16 2)).isNone = true
      simp [hr]
  case rsa =>
    dsimp only
    refine ⟨fun parent p q h hp h1 h2 => h.rsaKeygen_found hp h1 h2, fun p h h1 h2 => h.rsaKeygen_second h1 h2, fun h h1 => h.rsaKeygen_first h1, fun h => ?sign,
      fun h m sig hin hs => h.rsaVerifies rfl hin hs rfl, fun h m sig hin hs => ?verifyExt, fun h => h.rsaSeals rfl rfl, fun h => ?encryptExt,
      fun h => ⟨fun hc => ?range, fun hc => ?decrypt⟩⟩
    case sign =>
      exact ⟨s.rand (x.sqe.par 8 8), s.rand_length _, beNat (s.drawn.rand x.sqe.rsaK) % (s.rsaKey j.die x).n,
        h.answers (n := 2) rfl (congrArg (fun t => State.draws t 2) (State.bneResult_blinded ..))⟩
    case verifyExt =>
      have checked := s.rsaCheck_eq j.die j.job hin hs (rsaPubFlags x.sqe.rsaK x.rsaPub.1 x.rsaPub.2) x.rsaPub.1 x.rsaPub.2
      refine h.rsaPublic (n := 0) rfl checked (fun g g0 gm gl => ⟨List.mem_append_left _ gm, BneFlag.leads_append.mpr ⟨gl, by simp [g0]⟩⟩) (fun hn => ?_)
      exact h.rsaVerifies rfl hin hs (by rw [hn])
    case encryptExt => 
      refine h.rsaPublic (n := 1) rfl rfl (fun g _ gm gl => ⟨gm, gl⟩) (fun hn => ?_)
      exact h.rsaSeals rfl (by rw [hn])
    case range => exact h.flagged (n := 2) rfl rfl (1, 2) (by simp [hc]) (by simp [State.blindFlag])
    case decrypt =>
      refine ⟨beNat (s.drawn.rand x.sqe.rsaK) % (s.rsaKey j.die x).n, h.answers (n := 2) (etime := s.bneTime j.die x) rfl ?_⟩
      have inRange : flagIf (decide ((s.rsaKey j.die x).n ≤ beNat x.data.inData)) 1 2 = [] := by simp [hc]
      dsimp only
      rw [inRange, List.nil_append, State.bneResult_blinded]
      cases oaepDecode x.sqe.hashCode x.data.auxData (beBytes x.sqe.rsaK ((s.rsaKey j.die x).priv (beNat x.data.inData))) <;> rfl

end Sys2Proof.Machine

/-! PROOF. The random generator. -/

namespace Sys2Proof.Machine

/-! ### Answers of the DRBG (R320, R322) -/

/-- A generator in service and not recovering asks for a reseed exactly after 2^20 requests. -/
theorem Rng.asked_of_ready {r : Rng} (hd : r.disabled = false) (hr : r.drbgReady = true) (hv : r.recovering = false) (entropy : Bool) :
    r.asked entropy = if 2 ^ 20 ≤ r.reqs then .waits else .serves := by
  simp [Rng.asked, hd, hr, hv]

/-- It serves no request after 2^20 of them; during a recovery a request below that needs no entropy. -/
theorem Rng.reqs_of_serves {r : Rng} {entropy : Bool} (h : r.asked entropy = .serves) : r.reqs < 2 ^ 20 := by
  by_contra hn
  have full : 2 ^ 20 ≤ r.reqs := by omega
  simp only [Rng.asked, full, or_true, if_true] at h
  split_ifs at h

/-- Below 2^20 requests a generator in service serves what needs no entropy. -/
theorem Rng.asked_below {r : Rng} (hd : r.disabled = false) (hr : r.drbgReady = true) (hn : r.reqs < 2 ^ 20) : r.asked false = .serves := by
  have few : ¬ 2 ^ 20 ≤ r.reqs := by omega
  simp only [Rng.asked, hd, hr, few, Bool.not_true, Bool.false_eq_true, or_self, if_false]
  simp

/-! ### The generator of a die -/

theorem State.modRng_eq (s : State) (d : Nat) (f : Rng → Rng) : s.modRng d f = s.modDie d (fun y => { y with rng := f (s.die d).rng }) := State.modDie_congr rfl

theorem State.countDraw_eq (s : State) (d : Nat) :
    s.countDraw d = s.modDie d (fun y => { y with rng := { (s.die d).rng with reqs := (s.die d).rng.reqs + 1 } }) := State.modDie_congr rfl

theorem State.drbgReseed_eq (s : State) (d : Nat) :
    s.drbgReseed d = (s.modDie d (fun y => { y with rng := { (s.die d).rng with pool := (s.die d).rng.pool - 1, reqs := 0 } })).count d RNG 0 0x10C :=
  congrArg (fun t => State.count t ..) (s.modRng_eq d _)

theorem State.feedSeed_eq (s : State) (d : Nat) :
    s.feedSeed d = ((s.modDie d (fun y => { y with rng := { (s.die d).rng with reqs := (s.die d).rng.reqs + 1, feedBytes := 0, feedRun := true } })).count
      d RNG 0 0x118).drawn := congrArg (fun t => (State.count t ..).drawn) (s.modRng_eq d _)

/-- Of two updates of a generator, one. -/
theorem State.modRng_modRng (s : State) (d : Nat) (f g : Rng → Rng) : (s.modRng d f).modRng d g = s.modRng d (fun r => g (f r)) :=
  congrArg (fun l => { s with dies := l }) (List.modify_modify_eq ..)

/-! ### Masking buffers (R321) -/

/-- A grant adds to its buffer, which holds 4 KiB. -/
theorem Die.maskBuf_addMask_same {x : Die} {i : Nat} (h : x.maskBuf i < 4096) (n : Nat) : (x.addMask i n).maskBuf i = min 4096 (x.maskBuf i + n) := by
  simp only [Die.maskBuf, Die.addMask] at h ⊢
  by_cases hi : i < 16
  · simp only [hi, if_true, List.getElem?_modify] at h ⊢
    cases e : x.lves[i]? with
    | none => simp [e] at h
    | some u => simp
  · simp only [hi, if_false, List.getElem?_modify] at h ⊢
    cases e : x.syes[i - 16]? with
    | none => simp [e] at h
    | some u => simp

/-- And to no other. -/
theorem Die.maskBuf_addMask_other (x : Die) {i m : Nat} (h : m ≠ i) (n : Nat) : (x.addMask i n).maskBuf m = x.maskBuf m := by
  by_cases hi : i < 16
  · have other : (x.addMask i n).lves[m]? = x.lves[m]? := by
      rw [Die.addMask, if_pos hi]
      exact List.getElem?_modify_ne _ _ (Ne.symm h)
    have syes : (x.addMask i n).syes = x.syes := by rw [Die.addMask, if_pos hi]
    simp only [Die.maskBuf, other, syes]
  · have lves : (x.addMask i n).lves = x.lves := by rw [Die.addMask, if_neg hi]
    by_cases hm : m < 16
    · simp only [Die.maskBuf, hm, if_true, lves]
    · have other : (x.addMask i n).syes[m - 16]? = x.syes[m - 16]? := by
        rw [Die.addMask, if_neg hi]
        exact List.getElem?_modify_ne _ _ (by omega)
      simp only [Die.maskBuf, hm, if_false, other]

/-- The first of the 18 buffers, in the order of the round robin, that is below its level. -/
theorem find_feed {p : Nat → Bool} {f : Nat → Nat} {k : Nat} (hk : k < 18) (hp : p (f k) = true) (hn : ∀ m, m < k → p (f m) = false) :
    ((List.range 18).map f).find? p = some (f k) := by
  have first : (List.range 18).find? (p ∘ f) = some k := List.find?_range_eq_some.mpr ⟨hp, List.mem_range.mpr hk, fun m hm => by simp [hn m hm]⟩
  rw [List.find?_map, first]
  rfl

/-- The generator after a grant of the feed to a buffer. -/
def Rng.granted (r : Rng) (i : Nat) : Rng := { r with feedBytes := r.feedBytes + 64, feedFrac := (r.feedFrac + 64) % 1024, feedLast := i }

/-- And the die. -/
def Die.granted (x : Die) (i : Nat) : Die := { x.addMask i 64 with rng := x.rng.granted i }

theorem opFeedGrant_eq {s : State} {d i k : Nat} (hd : d < s.dies.length) (hr : (s.die d).rng.feedRun = true) (hb : (s.die d).rng.feedBytes < 8 * 2 ^ 20)
    (hk : k < 18) (hi : i = ((s.die d).rng.feedLast + 1 + k) % 18) (hm : (s.die d).maskBuf i < 4096)
    (hn : ∀ m, m < k → 4096 ≤ (s.die d).maskBuf (((s.die d).rng.feedLast + 1 + m) % 18)) :
    opFeedGrant d s = if 1024 ≤ (s.die d).rng.feedFrac + 64 then (s.modDie d (fun _ => (s.die d).granted i)).count d RNG 0 0x114
      else s.modDie d (fun _ => (s.die d).granted i) := by
  have grants : ¬ (!(s.die d).rng.feedRun ∨ feedLimit ≤ (s.die d).rng.feedBytes ∨ s.nDies ≤ d) := by
    simp only [hr, feedLimit, State.nDies]
    simp
    omega
  have found := find_feed (p := fun i => decide ((s.die d).maskBuf i < 4096)) (f := fun k => ((s.die d).rng.feedLast + 1 + k) % 18) hk
    (decide_eq_true (hi ▸ hm)) (fun m hmk => decide_eq_false (Nat.not_lt.mpr (hn m hmk)))
  have same : s.modDie d (fun y => { y.addMask i 64 with rng := (s.die d).rng.granted i }) = s.modDie d (fun _ => (s.die d).granted i) := State.modDie_congr rfl
  rw [← same]
  simp only [opFeedGrant, grants, if_false, found, ← hi]
  rfl

/-- The die after an update that may be counted is the update's, but for its registers. -/
theorem State.updated_die {s : State} {d : Nat} (hd : d < s.dies.length) (y : Die) (c : Prop) [Decidable c] (o : Nat) :
    ∃ r, (if c then (s.modDie d (fun _ => y)).count d RNG 0 o else s.modDie d (fun _ => y)).die d = { y with regs := r } := by
  have updated : (s.modDie d (fun _ => y)).die d = y := (State.modDie_die ..).trans (if_pos ⟨rfl, hd⟩)
  split
  · obtain ⟨r, e⟩ := State.count_die (s.modDie d (fun _ => y)) d d RNG 0 o 1
    exact ⟨r, by rw [e, updated]⟩
  · exact ⟨y.regs, updated⟩

/-! ### Jobs of the generator (R97) -/

/-- An operation that ends its job at once. -/
theorem OpRuns.ends {s u : State} {j : JobRef} {op : Nat} {x : Job} (h : OpRuns s j op x) {c : Instr} {f : Job → State} (hc : exec c s = ret (s.onOp j op f))
    {n etime : Nat} {status : W16} {detail : W32} {out : List Byte} (hf : f x = (u.draws n).endOp j.die j.job status detail etime out) :
    Ends c s u j status detail etime out :=
  ⟨n, hc.trans (congrArg ret ((h.onOp f).trans hf))⟩

/-- Settles O25: each command by the guard that its case meets, and what it writes of the generator. -/
theorem randomGenerator : Obligations.RandomGenerator := by
  unfold Obligations.RandomGenerator
  intro s d hd
  dsimp only
  refine ⟨fun j x hj h => ⟨fun ha => ?refused, fun ha hb => ?served, fun ha hb hp => ?resistant⟩, fun j x hj h => ⟨fun hr => ?down, fun h1 h2 h3 hp => ?reseed⟩,
    fun h1 h2 h3 h4 => ?conditioned, fun n h1 h2 h3 h4 h5 => ?request, fun h1 h2 h3 h4 h5 => ?due, fun i k hr hb hk hi hm hn => ?grant, fun h1 h2 h3 h4 h5 => ?feed,
    fun stream rct h1 h2 h3 h4 => ?fails, fun stream rct h1 h2 h3 => ?failsAgain, fun h1 h2 => ?passes⟩
  case refused =>
    subst hj
    refine h.ends (n := 0) rfl ?_
    simp only [ha, State.draws_zero]
  case served =>
    subst hj
    have few := Rng.reqs_of_serves ha
    refine ⟨s.rand (x.sqe.par 0 32), s.rand_length _, h.ends (n := 1) rfl ?_⟩
    rw [← State.countDraw_eq]
    simp only [ha]
    simp only [hb, decide_eq_false (Nat.not_le.mpr few), Bool.or_false, Bool.false_eq_true, false_and, if_false]
    rfl
  case resistant =>
    subst hj
    refine ⟨s.rand (x.sqe.par 0 32), s.rand_length _, h.ends (n := 1) rfl ?_⟩
    rw [← State.drbgReseed_eq]
    have held : ¬ (s.die j.die).rng.pool = 0 := by omega
    simp only [hb, ha, Bool.true_or, held, and_false, if_true, if_false]
    rfl
  case down =>
    subst hj
    refine h.ends (n := 0) rfl (if_pos ?_)
    rcases hr with hr | hr | hr
    · simp [Rng.asked, hr]
    · simp [Rng.asked, hr]
    · exact .inr hr
  case reseed =>
    subst hj
    refine h.ends (n := 0) rfl ?_
    have held : ¬ (s.die j.die).rng.pool = 0 := by omega
    have asked : ¬ ((s.die j.die).rng.asked true = .fails ∨ (s.die j.die).rng.recovering = true) := by
      rw [Rng.asked_of_ready h1 h2 h3, h3]
      split <;> simp
    rw [← State.drbgReseed_eq]
    simp only [asked, held, if_false, State.draws_zero]
  case conditioned => exact congrArg ret ((if_pos (by simp [h1, h2, h3, h4])).trans (s.modRng_eq d _))
  case request =>
    refine congrArg ret ((if_pos ⟨h1, h2, hd, Rng.asked_below h3 h4 h5⟩).trans ?_)
    rw [s.countDraw_eq]
  case due =>
    refine congrArg ret ((if_pos ⟨h1, by simp [h2], by simp [h3], h4, h5⟩).trans ?_)
    rw [s.drbgReseed_eq]
  case grant =>
    refine ⟨_, congrArg ret (opFeedGrant_eq hd hr hb hk hi hm hn), ?_⟩
    obtain ⟨regs, e⟩ := State.updated_die hd ((s.die d).granted i) (1024 ≤ (s.die d).rng.feedFrac + 64) 0x114
    rw [e]
    exact ⟨Die.maskBuf_addMask_same hm 64, fun m hmi => Die.maskBuf_addMask_other (s.die d) hmi 64, rfl⟩
  case feed =>
    refine congrArg ret ((if_pos ⟨hd, h5.imp_right (by simp [·]), h1, by simp [h2]⟩).trans ?_)
    exact (if_neg (by simp [h3])).trans ((if_pos (Rng.asked_below h2 h1 h4)).trans (s.feedSeed_eq d))
  case fails =>
    refine congrArg ret ((if_neg (by simp [State.nDies, hd, h1, h2, h3])).trans ?_)
    rw [h4, s.modRng_eq]
    rfl
  case failsAgain =>
    refine congrArg ret ((if_neg (by simp [State.nDies, hd, h1, h2, h3])).trans ?_)
    rw [h3, s.modRng_eq]
    rfl
  case passes =>
    refine congrArg ret ((if_pos (by simp [h1, h2])).trans ?_)
    rw [State.feedSeed, State.modRng_modRng, s.modRng_eq]

end Sys2Proof.Machine

/-! PROOF. Composite KEMs and signatures. -/

namespace Sys2Proof.Machine

/-! ### A pass that ends, and its release word -/

/-- Draws before a pass ends may as well be made after. -/
theorem State.passDone_draws (s : State) (n d : Nat) (x : Job) (accept : Bool) (word : Nat) :
    (s.draws n).passDone d x accept word = (s.passDone d x accept word).draws n := by
  have same : (s.draws n).jobLve d x = s.jobLve d x := rfl
  simp only [State.passDone, same]
  split <;> rfl

/-- Where no fault has struck, a decapsulation that recomputes its ciphertext leaves a clear release word. -/
theorem kemRelease_clear {p : Nat} (hp : p ≤ 3 ∨ isMceliece p = true) (payload c : List Byte) (draw : Nat) : kemRelease p payload c none draw = 0 := by
  by_cases h3 : p ≤ 3
  · simp [kemRelease, h3, disturbed]
  · have hm : isMceliece p = true := hp.resolve_left h3
    simp [kemRelease, h3, hm]

/-! ### The sizes of a composite (R101, R104) -/

theorem hybSizes_cases {p : Nat} {z : Nat × Nat × Nat} (h : hybSizes p = some z) :
    p = 1 ∧ z = (1216, 1120, 96) ∨ p = 2 ∧ z = (1665, 1665, 112) ∨ p = 0x11 ∧ z = (1377, 2484, 64) ∨ p = 0x12 ∧ z = (2049, 3405, 80) ∨
      p = 0x13 ∧ z = (2725, 4759, 98) := by
  unfold hybSizes at h
  split_ifs at h with h1 h2 h3 h4 h5 <;> cases h <;> simp_all

/-- Length of the classical secret of a composite. -/
def hybKeyLen (ps : Nat) : Nat := if hybCurve ps = 4 then 32 else (hybWeier ps).len

/-- Length of its classical public key. -/
def hybShareLen (ps : Nat) : Nat := if hybCurve ps = 4 then 32 else 1 + 2 * (hybWeier ps).len

section
variable {ps : Nat} {z : Nat × Nat × Nat} (h : hybSizes ps = some z)
include h

theorem hybSizes_public : z.1 = hybPub ps + hybShareLen ps := by
  rcases hybSizes_cases h with ⟨rfl, rfl⟩ | ⟨rfl, rfl⟩ | ⟨rfl, rfl⟩ | ⟨rfl, rfl⟩ | ⟨rfl, rfl⟩ <;> rfl

theorem hybSizes_secret : z.2.2 = hybSeed ps + hybKeyLen ps := by
  rcases hybSizes_cases h with ⟨rfl, rfl⟩ | ⟨rfl, rfl⟩ | ⟨rfl, rfl⟩ | ⟨rfl, rfl⟩ | ⟨rfl, rfl⟩ <;> rfl

theorem hybSizes_signature (hs : 3 ≤ ps) : z.2.1 = hybOut ps + 2 * (hybWeier ps).len := by
  rcases hybSizes_cases h with ⟨rfl, rfl⟩ | ⟨rfl, rfl⟩ | ⟨rfl, rfl⟩ | ⟨rfl, rfl⟩ | ⟨rfl, rfl⟩
  · omega
  · omega
  all_goals rfl

theorem hybCurve_le : hybCurve ps ≤ 4 := by
  rcases hybSizes_cases h with ⟨rfl, rfl⟩ | ⟨rfl, rfl⟩ | ⟨rfl, rfl⟩ | ⟨rfl, rfl⟩ | ⟨rfl, rfl⟩ <;> decide

end

theorem MontCurve.apply_length (c : MontCurve) (k u : List Byte) : (c.apply k u).length = (c.size + 7) / 8 := leBytes_length ..

theorem Curve.encode_length (c : Curve) (q : EcPoint) : (c.encode q).length = 1 + 2 * c.len := by
  cases q <;> simp [Curve.encode] <;> omega

theorem State.hybKey_length (s : State) (ps : Nat) : (s.hybKey ps).length = hybKeyLen ps := by
  unfold State.hybKey hybKeyLen
  split <;> simp

theorem hybPublic_length {ps : Nat} {z : Nat × Nat × Nat} (h : hybSizes ps = some z) (payload : List Byte) : (hybPublic ps payload).length = z.1 := by
  have range := hybCurve_le h
  have share (key : List Byte) : (ecPublic (hybCurve ps) (hybWeier ps) key).length = hybShareLen ps := by
    unfold ecPublic hybShareLen
    by_cases h4 : hybCurve ps = 4
    · rw [if_pos (.inl h4), if_pos h4, h4]
      exact MontCurve.apply_length ..
    · rw [if_neg (by omega), if_neg (by omega), if_neg h4]
      exact Curve.encode_length ..
  rw [hybSizes_public h, hybPublic, List.length_append, share, hybPqPublic, fit_length]

/-- The classical part verifies: the point is good, r and t are in range and the signature holds. -/
theorem hybEc_iff (fs : List BneFlag) (p : Prop) [Decidable p] (v : Bool) : (fs = [] ∧ p ∧ v = true) ↔ (fs.isEmpty && decide p && v) = true := by
  rw [Bool.and_eq_true, Bool.and_eq_true, List.isEmpty_iff, decide_eq_true_iff, and_assoc]

/-- The flag of the first byte of AUX comes before every flag of a peer's value. -/
theorem hybFlags_after (ps : Nat) (peer : List Byte) (off index : Nat) : BneFlag.leads (0, 0) (hybFlags ps peer off index) := by
  unfold hybFlags
  split
  · exact fun g hg => absurd hg (by simp)
  · simp [Curve.pointFlags_eq]

/-! ### The operations -/

section
variable {s : State} {j : JobRef} {op : Nat} {x : Job} (h : OpRuns s j op x) {c : Instr} {f : Job → State} (hc : exec c s = ret (s.onOp j op f))
include h hc

section
variable {pk : List Byte} {ext : Bool} (hf : f x = s.hybEncaps j.die j.job x pk ext)
include hf

/-- An encapsulation to a key with a bad part ends with the flag that comes first. -/
theorem OpRuns.hybEncaps_flagged {g : BneFlag}
    (hg : firstFlag (flagIf (ext && !kemKeyOk (pk.take (hybPub x.sqe.ps))) 0 0 ++ hybFlags x.sqe.ps (pk.drop (hybPub x.sqe.ps)) (hybPub x.sqe.ps) 1) = some g) :
    Answers c s (s.passDone j.die x true 0) j (flagStatus g.1) (BitVec.ofNat 32 g.2) [] := by
  have bad : flagIf (ext && !kemKeyOk (pk.take (hybPub x.sqe.ps))) 0 0 ++ hybFlags x.sqe.ps (pk.drop (hybPub x.sqe.ps)) (hybPub x.sqe.ps) 1 ≠ [] := by
    intro k
    rw [k] at hg
    cases hg
  refine h.answers (n := 1) (etime := s.hybTime j.die x 1) hc (hf.trans ?_)
  simp only [State.hybEncaps, bad, if_false, hg]
  rfl

/-- To a good key: its ciphertext, a share and the combined secret, unless the shared point is none. -/
theorem OpRuns.hybEncaps_seals (hg : (ext && !kemKeyOk (pk.take (hybPub x.sqe.ps))) = false)
    (hn : hybFlags x.sqe.ps (pk.drop (hybPub x.sqe.ps)) (hybPub x.sqe.ps) 1 = []) :
    let ps := x.sqe.ps
    let sealed := kemEncap (hybPq ps) (pk.take (hybPub ps)) (s.stagedRandom j.die x)
    let k := fit 32 sealed.2
    let own := (s.passDone j.die x true 0).hybKey ps
    let share := ecPublic (hybCurve ps) (hybWeier ps) own
    (∀ ec, hybShared ps own (pk.drop (hybPub ps)) = some ec → Answers c s (s.passDone j.die x true 0) j stOk 0 (fit (hybOut ps) sealed.1 ++ share ++
      (if decide (x.sqe.par 0 2 = 1) then sha3256 (k ++ ec ++ share ++ pk.drop (hybPub ps) ++ ascii "VQHKEM") else k ++ ec))) ∧
    (hybShared ps own (pk.drop (hybPub ps)) = none → Answers c s (s.passDone j.die x true 0) j stPointInvalid 4 []) := by
  dsimp only
  constructor
  · intro ec he
    refine h.answers (n := 1) (etime := s.hybTime j.die x 1) hc (hf.trans ?_)
    simp only [State.hybEncaps, hg, hn, he]
    rfl
  · intro he
    refine h.answers (n := 1) (etime := s.hybTime j.die x 1) hc (hf.trans ?_)
    simp only [State.hybEncaps, hg, hn, he]
    rfl

end

/-- A verification of two parts is good only if both verify; DETAIL says which did not. -/
theorem OpRuns.bothVerify {u : State} {etime : Nat} {a b : Bool} {p q : Prop} (hf : f x = u.result j.die j.job (if a && b then stOk else stVerifyFail)
    (BitVec.ofNat 32 (b2n (!a) + 2 * b2n (!b))) etime []) (hp : p ↔ a = true) (hq : q ↔ b = true) :
    (p → q → Answers c s u j stOk 0 []) ∧ (p → ¬ q → Answers c s u j stVerifyFail 2 []) ∧ (¬ p → q → Answers c s u j stVerifyFail 1 []) ∧
      (¬ p → ¬ q → Answers c s u j stVerifyFail 3 []) := by
  have answer := h.answers (n := 0) hc hf
  rw [hp, hq]
  cases a <;> cases b <;> simpa [b2n] using answer

/-- The verification of a composite signature at the end of IN. -/
theorem OpRuns.hybVerifies {pk ctx m pq r t : List Byte} (hf : f x = s.hybVerify j.die j.job x pk ctx)
    (hl : x.sqe.sigLen 0 = hybOut x.sqe.ps + 2 * (hybWeier x.sqe.ps).len) (hin : x.data.inData = m ++ pq ++ r ++ t) (hpq : pq.length = hybOut x.sqe.ps)
    (hr : r.length = (hybWeier x.sqe.ps).len) (ht : t.length = (hybWeier x.sqe.ps).len) :
    let ps := x.sqe.ps
    let w := hybWeier ps
    let q := pk.drop (hybPub ps)
    let okPq := sigVerify (hybPq ps) (pk.take (hybPub ps)) ctx x.sqe.preHash m pq = true
    let okEc := w.pointFlags q 0 1 = [] ∧ (1 ≤ beNat r ∧ beNat r < w.n ∧ 1 ≤ beNat t ∧ beNat t < w.n) ∧ w.verify (w.point q) (hybDigest ps m) (beNat r) (beNat t) = true
    let done := s.passDone j.die x true 0
    (okPq → okEc → Answers c s done j stOk 0 []) ∧ (okPq → ¬ okEc → Answers c s done j stVerifyFail 2 []) ∧
      (¬ okPq → okEc → Answers c s done j stVerifyFail 1 []) ∧ (¬ okPq → ¬ okEc → Answers c s done j stVerifyFail 3 []) := by
  have whole : x.data.inData = m ++ (pq ++ (r ++ t)) := by rw [hin]; simp
  have long : (pq ++ (r ++ t)).length = x.sqe.sigLen 0 := by rw [hl]; simp [hpq, hr, ht]; omega
  have inR : slice (pq ++ (r ++ t)) (hybOut x.sqe.ps) (hybWeier x.sqe.ps).len = r := slice_middle hpq hr
  have inT : slice (pq ++ (r ++ t)) (hybOut x.sqe.ps + (hybWeier x.sqe.ps).len) (hybWeier x.sqe.ps).len = t := by
    rw [← List.append_assoc]
    exact slice_last (by simp [hpq, hr]) ht
  have inPq : (pq ++ (r ++ t)).take (hybOut x.sqe.ps) = pq := take_front rfl hpq
  dsimp only
  refine h.bothVerify hc (u := s.passDone j.die x true 0) (etime := s.hybTime j.die x 1)
    (a := sigVerify (hybPq x.sqe.ps) (pk.take (hybPub x.sqe.ps)) ctx x.sqe.preHash m pq) ?_ Iff.rfl (hybEc_iff ..)
  rw [hf]
  simp only [State.hybVerify, take_before whole long, drop_before whole long, inR, inT, inPq]

end

/-- The signature's length, of both verifications. -/
theorem OpRuns.hybSigLen {s : State} {j : JobRef} {op : Nat} {x : Job} (h : OpRuns s j op x) (ho : op % 0x800 + op / 4096 * 4096 = 0x9005) {z : Nat × Nat × Nat}
    (hz : hybSizes x.sqe.ps = some z) (hs : 3 ≤ x.sqe.ps) : x.sqe.sigLen 0 = hybOut x.sqe.ps + 2 * (hybWeier x.sqe.ps).len := by
  rw [← hybSizes_signature hz hs, Sqe.sigLen, h.same, ho, hz]
  rfl

/-- The public key's length, of both operations with one in AUX. -/
theorem OpRuns.hybPubLen {s : State} {j : JobRef} {op : Nat} {x : Job} (h : OpRuns s j op x) (ho : op / 4096 % 16 = 9) {z : Nat × Nat × Nat}
    (hz : hybSizes x.sqe.ps = some z) : x.sqe.pubLen 0 = z.1 := by
  rw [Sqe.pubLen, h.cls, ho, hz]
  rfl

/-- Settles O26: the sizes of the parts, the checks of a public key in their order, and each operation by its parts. -/
theorem hybridOperations : Obligations.HybridOperations := by
  unfold Obligations.HybridOperations
  intro s j x z hz
  dsimp only
  refine ⟨fun parent h hp => ?keygen, fun hps => ⟨fun h hn => ?encaps, fun h pk rest haux hpk => ⟨fun hk => ?unreduced, fun f hk hf => ?badPoint, fun hk hn => ?encapsExt⟩,
    fun h pq share hin hpq => ?decaps⟩, fun hps => ⟨fun h => ?sign, fun h m pq r t hin hpq hr ht => ?verify, fun h pk ctx haux hpk m pq r t hin hpq hr ht => ?verifyExt⟩⟩
  case keygen =>
    refine ⟨s.hybKey x.sqe.ps, ?secret, hybPublic_length hz _, h.creates (counter := 0xFFFF) (stop := 0) (reps := 1) (etime := s.hybTime j.die x 1)
      hp ((s.sameKeys_passDone ..).kvd _) (n := 1) rfl ?made⟩
    case secret => rw [List.length_append, State.hybKey_length, hybSizes_secret hz, Nat.add_sub_cancel_left]
    case made =>
      dsimp only
      rw [show s.drawn = s.draws 1 from rfl, State.passDone_draws]
  case encaps => exact ⟨_, _, _, fit_length .., fit_length .., rfl, rfl, h.hybEncaps_seals rfl rfl rfl hn⟩
  case unreduced =>
    have front := take_front haux (hpk.trans (h.hybPubLen rfl hz).symm)
    refine h.hybEncaps_flagged rfl rfl (g := (0, 0)) (firstFlag_of_first ?_ ?_)
    · rw [front, hk]
      exact List.mem_append_left _ (by simp)
    · exact BneFlag.leads_append.mpr ⟨by simp, hybFlags_after _ _ _ _⟩
  case badPoint =>
    have front := take_front haux (hpk.trans (h.hybPubLen rfl hz).symm)
    refine h.hybEncaps_flagged rfl rfl ?_
    rw [front, hk]
    exact hf
  case encapsExt =>
    have front := take_front haux (hpk.trans (h.hybPubLen rfl hz).symm)
    exact ⟨_, _, _, fit_length .., fit_length .., rfl, rfl, h.hybEncaps_seals (ext := true) rfl (by rw [front]) (by rw [hk]; rfl) hn⟩
  case decaps =>
    have seed : hybSeed x.sqe.ps = 64 := by simp [hybSeed, hybKem, hps]
    have small : hybPq x.sqe.ps ≤ 3 := by
      unfold hybPq
      split_ifs <;> omega
    have front : x.data.inData.take (hybOut x.sqe.ps) = pq := take_front hin hpq
    have back : x.data.inData.drop (hybOut x.sqe.ps) = share := drop_front hin hpq
    refine ⟨kemRelease (hybPq x.sqe.ps) ((s.jobSecret j.die x).take 64) pq (s.hitOf j.die x) s.freeCtr, fun hh => ?clear, fun hf => ?flagged,
      fun hf hn => ?nothing, fun ec hf hn => ⟨_, fit_length .., rfl, ?opened⟩⟩
    case clear =>
      rw [hh]
      exact kemRelease_clear (.inl small) ..
    all_goals
      refine h.answers (n := 1) (etime := s.hybTime j.die x 1) rfl ?_
      simp only [seed, front, back]
    case flagged => exact if_pos hf
    all_goals
      simp only [hf, hn]
      rfl
  case sign =>
    obtain ⟨w, hw⟩ : ∃ w, w = dsaRelease (hybPq x.sqe.ps) ((s.jobSecret j.die x).take 32) (sigMessage x.data.auxData x.sqe.preHash x.data.inData)
      (if bit x.sqe.param 1 then List.replicate 32 0 else s.stagedRandom j.die x) (s.passOf j.die x) (s.hitOf j.die x) s.freeCtr := ⟨_, rfl⟩
    refine ⟨w, fun hr => ?rejected, fun hr => ⟨_, (s.passDone j.die x true w).drawn.randScalar (hybWeier x.sqe.ps).n, fit_length .., rfl, State.randScalar_pos ..,
      h.answers (n := 2) (etime := s.hybTime j.die x (s.passOf j.die x)) rfl ?signed⟩⟩
    case rejected =>
      refine congrArg ret ((h.onOp _).trans ?_)
      simp only [hr, ← hw]
      rfl
    case signed =>
      simp only [hr, ← hw]
      rfl
  case verify => exact h.hybVerifies rfl rfl (h.hybSigLen rfl hz hps) hin hpq hr ht
  case verifyExt =>
    have front : x.data.auxData.take (x.sqe.pubLen 0) = pk := take_front haux (hpk.trans (h.hybPubLen rfl hz).symm)
    have back : x.data.auxData.drop (x.sqe.pubLen 0) = ctx := drop_front haux (hpk.trans (h.hybPubLen rfl hz).symm)
    exact h.hybVerifies rfl (by rw [front, back]) (h.hybSigLen rfl hz hps) hin hpq hr ht

end Sys2Proof.Machine

/-! PROOF. Key encapsulation, signature and stateful operations. -/

namespace Sys2Proof.Machine

/-! ### Lengths of keys and signatures (R104) -/

section
variable {s : State} {j : JobRef} {op : Nat} {x : Job} (h : OpRuns s j op x)
include h

theorem OpRuns.kemPubLen (ho : op / 4096 % 16 = 1) {z : Nat × Nat × Nat × Nat} (hz : kemSizes x.sqe.ps = some z) : x.sqe.pubLen 0 = z.1 := by
  rw [Sqe.pubLen, h.cls, ho, hz]
  rfl

theorem OpRuns.sigPubLen (ho : op / 4096 % 16 = 2) {z : Nat × Nat × Nat} (hz : sigSizes x.sqe.ps = some z) : x.sqe.pubLen 0 = z.1 := by
  rw [Sqe.pubLen, h.cls, ho, hz]
  rfl

theorem OpRuns.sigSigLen (ho : op % 0x800 + op / 4096 * 4096 = 0x2003) {z : Nat × Nat × Nat} (hz : sigSizes x.sqe.ps = some z) : x.sqe.sigLen 0 = z.2.1 := by
  rw [Sqe.sigLen, h.same, ho, hz]
  rfl

end

/-! ### Shared forms of the operations -/

section
variable {s : State} {j : JobRef} {op : Nat} {x : Job} (h : OpRuns s j op x) {c : Instr} {f : Job → State} (hc : exec c s = ret (s.onOp j op f))
include h hc

/-- An encapsulation answers with the ciphertext and the secret of the bytes staged for it. -/
theorem OpRuns.encapsulates {z : Nat × Nat × Nat × Nat} (hz : kemSizes x.sqe.ps = some z) {ek : List Byte} (hf : f x = s.encaps j.die j.job x ek) :
    let r := kemEncap x.sqe.ps ek (s.stagedRandom j.die x)
    ∃ ct k : List Byte, ct.length = z.2.1 ∧ k.length = z.2.2.1 ∧ ct = fit z.2.1 r.1 ∧ k = fit z.2.2.1 r.2 ∧
      Answers c s (s.passDone j.die x true (encapRelease x.sqe.ps ek (s.stagedRandom j.die x))) j stOk 0 (ct ++ k) := by
  refine ⟨_, _, fit_length .., fit_length .., rfl, rfl, h.answers (n := 0) (etime := s.vendorTime j.die x (x.sqe.pqTime 1)) hc (hf.trans ?_)⟩
  simp only [State.encaps, hz, State.draws_zero]
  rfl

/-- A verification of a signature at the end of IN. -/
theorem OpRuns.sigVerifies {m sig pk ctx : List Byte} (hin : x.data.inData = m ++ sig) (hs : sig.length = x.sqe.sigLen 0)
    (hf : f x = s.sigCheck j.die j.job x pk ctx) :
    Answers c s (s.passDone j.die x true 0) j (if sigVerify x.sqe.ps pk ctx x.sqe.preHash m sig then stOk else stVerifyFail) 0 [] := by
  refine h.answers (n := 0) (etime := s.vendorTime j.die x (x.sqe.pqTime 1)) hc (hf.trans ?_)
  simp only [State.sigCheck, take_before hin hs, drop_before hin hs, State.draws_zero]

/-- A verification of a stateful signature after its message in IN. -/
theorem OpRuns.stfVerifies {t : Stf} {levels : Nat} {m sig pk : List Byte} (hin : x.data.inData = m ++ sig) (hm : m.length = x.sqe.par 0 32)
    (hf : f x = s.stfVerify j.die j.job x t levels pk) :
    Answers c s (s.passDone j.die x true 0) j (if (stfCheck x.sqe.ps levels pk m sig).1 then stOk else stVerifyFail) 0 [] := by
  refine h.answers (n := 0) (etime := s.vendorTime j.die x (t.verifyTime levels (stfCheck x.sqe.ps levels pk m sig).2 + msgTime t.hash (x.sqe.par 0 32)))
    hc (hf.trans ?_)
  simp only [State.stfVerify, take_front hin hm, drop_front hin hm, State.draws_zero]

end

/-- The lowest free counter record (R167). -/
theorem Bbram.freeCounter_eq {b : Bbram} {i : Nat} (hi : i < 256) (hk : ∀ k, k < i → Assoc.get? b.counters k ≠ none) (hn : Assoc.get? b.counters i = none) :
    b.freeCounter = some i :=
  List.find?_range_eq_some.mpr ⟨by simp [hn], List.mem_range.mpr hi, fun k hki => by simpa using Option.isSome_iff_ne_none.mpr (hk k hki)⟩

/-- Settles O21: each operation by its own function of the seed, the staged bytes or the leaf assigned. -/
theorem lveOperations : Obligations.LveOperations := by
  unfold Obligations.LveOperations
  refine ⟨fun s j x => ?kem, fun s j x => ?sig⟩
  case kem =>
    dsimp only
    refine ⟨fun parent h hm hp => ?keygen, fun h hm => ⟨fun hn => ?attemptFails, fun parent sk pub hp hn => ?attempt⟩,
      fun z hz => ⟨fun h => ?encaps, fun h hk => ?encapsExt, fun h hp hk => ?unreduced, fun h => ?decaps⟩, fun e u h he hu hl hj => ?run⟩
    case keygen =>
      refine h.creates (counter := 0xFFFF) (stop := 0) (reps := 1) (etime := s.vendorTime j.die x (x.sqe.pqTime 1)) hp ((s.sameKeys_passDone ..).kvd _) (n := 0) rfl ?_
      simp only [hm, State.draws_zero]
      rfl
    case attemptFails =>
      refine congrArg ret ((h.onOp _).trans ?_)
      simp only [hm, State.mceKeygen, hn]
      rfl
    case attempt =>
      have progress (k : Nat) : s.SameKeys ((s.jobStep j.die j.job 1 4).jobRepeat j.die j.job 2 4 k (mceExpected10 x.sqe.ps)) :=
        (s.sameKeys_jobStep ..).trans (State.sameKeys_jobRepeat ..)
      refine h.creates (counter := 0xFFFF) (stop := 0) (reps := s.passOf j.die x) (etime := s.vendorTime j.die x (x.sqe.pqTime (s.passOf j.die x))) hp
        (((((progress _).trans (State.sameKeys_jobStep ..)).trans (State.sameKeys_jobStep ..)).trans (State.sameKeys_passDone ..)).kvd _) (n := 0) rfl ?_
      simp only [hm, State.mceKeygen, hn, State.draws_zero]
      rfl
    case encaps => exact h.encapsulates rfl hz (by dsimp only; rw [h.kemPubLen rfl hz])
    case encapsExt =>
      refine h.encapsulates rfl hz ((if_neg ?_).trans (by rw [h.kemPubLen rfl hz]))
      rw [h.kemPubLen rfl hz]
      rcases hk with hk | hk
      · omega
      · simp [hk]
    case unreduced =>
      refine h.answers (n := 0) rfl (if_pos ⟨hp, ?_⟩)
      rw [h.kemPubLen rfl hz, hk]
      rfl
    case decaps =>
      refine ⟨_, kemRelease x.sqe.ps (kemSecret x.sqe.ps (s.jobSecret j.die x)) x.data.inData (s.hitOf j.die x) s.freeCtr, fit_length .., rfl, fun hp hh => ?clear,
        h.answers (n := 1) (etime := s.vendorTime j.die x (x.sqe.pqTime 1)) rfl ?opened⟩
      case opened =>
        simp only [hz]
        rfl
      case clear =>
        rw [hh]
        exact kemRelease_clear hp ..
    case run =>
      refine congrArg ret ((h.onOp _).trans ?_)
      simp only [he]
      refine State.modDie_congr ?_
      rw [List.modify_eq_set_getElem?, hu, Option.map_eq_map, Option.map_some, Option.getD_some, if_pos ⟨hl, hj⟩]
  case sig =>
    dsimp only
    refine ⟨fun parent h hp => ?keygen,
      fun z hz => ⟨fun h hp => ?dsaSign, fun h hp => ?slhSign, fun h m sig hin hs => ?verify, fun h m sig pk ctx hin hs haux hpk => ?verifyExt⟩,
      fun t ht => ⟨fun parent i h hp hf hk hi hn => ?stfKeygen, fun h hf => ?stfFull, fun k c leaf h hk hl hc hlt hle => ?stfSign, fun k m sig h hk hin hm => ?stfVerify,
        fun m sig h hin hm => ?stfVerifyExt⟩, fun k c h hk hc he => ?remaining⟩
    case keygen =>
      have steps : s.SameKeys (if 0x11 ≤ x.sqe.ps then s.jobSteps j.die j.job 2 else s) := .ite (s.sameKeys_jobSteps ..) (.refl s)
      exact h.creates (counter := 0xFFFF) (stop := 0) (reps := 1) (etime := s.vendorTime j.die x (x.sqe.pqTime 1)) hp
        ((steps.trans (State.sameKeys_passDone ..)).kvd _) (n := 0) rfl rfl
    case dsaSign =>
      obtain ⟨w, hw⟩ : ∃ w, w = dsaRelease x.sqe.ps (s.jobSecret j.die x) (sigMessage x.data.auxData x.sqe.preHash x.data.inData)
        (s.sigRand j.die x (s.jobSecret j.die x)) (s.passOf j.die x) (s.hitOf j.die x) s.freeCtr := ⟨_, rfl⟩
      refine ⟨w, fun hr => ?rejected, fun hr => ⟨_, fit_length .., rfl,
        h.answers (n := 1) (etime := s.vendorTime j.die x (x.sqe.pqTime (s.passOf j.die x))) rfl ((if_pos hp).trans ?signed)⟩⟩
      case rejected =>
        refine congrArg ret ((h.onOp _).trans ((if_pos hp).trans ?_))
        simp only [hr, ← hw]
        rfl
      case signed =>
        simp only [hr, hz, ← hw]
        rfl
    case slhSign =>
      refine ⟨slhRelease x.sqe.ps (s.jobSecret j.die x) (sigMessage x.data.auxData x.sqe.preHash x.data.inData) (s.sigRand j.die x (s.jobSecret j.die x))
        (s.hitOf j.die x) s.freeCtr, _, fit_length .., rfl,
        h.answers (n := 1) (etime := s.vendorTime j.die x (x.sqe.pqTime (s.passOf j.die x))) rfl ((if_neg (by omega)).trans ?_)⟩
      simp only [hz]
      rfl
    case verify => exact h.sigVerifies rfl hin (hs.trans (h.sigSigLen rfl hz).symm) (by rw [h.sigPubLen rfl hz])
    case verifyExt =>
      have pkLen := hpk.trans (h.sigPubLen rfl hz).symm
      exact h.sigVerifies rfl hin (hs.trans (h.sigSigLen rfl hz).symm) (by rw [take_front haux pkLen, drop_front haux pkLen])
    case stfKeygen =>
      refine h.creates (counter := BitVec.ofNat 16 i) (stop := t.leaves (x.sqe.par 32 4)) (reps := 1)
        (etime := s.vendorTime j.die x (t.keygenTime (x.sqe.par 32 4))) hp
        ((((s.sameKeys_jobSteps ..).trans (State.sameKeys_passDone ..)).trans (State.sameKeys_takeCounter ..)).kvd _) (n := 0) rfl ?_
      simp only [ht, hf, Bbram.freeCounter_eq hi hk hn, State.draws_zero]
      rfl
    case stfFull =>
      refine h.answers (n := 0) (etime := 0) rfl ?_
      simp only [ht, hf]
      rfl
    case stfSign =>
      have last : (c.stop - leaf - 1 = 0) = (leaf + 1 = c.stop) := propext (by omega)
      have few : min (c.stop - leaf - 1) 0xFFFFFFFF = c.stop - leaf - 1 := by omega
      refine ⟨stfRelease x.sqe.ps (s.stfLevels t k) k.payload leaf (s.hitOf j.die x) s.freeCtr, _, fit_length .., rfl, h.answers (n := 1)
        (etime := s.vendorTime j.die x (t.signTime (stfSteps x.sqe.ps (s.stfLevels t k) k.payload leaf x.data.inData) + msgTime t.hash x.data.inData.length)) rfl ?_⟩
      simp only [ht, hk, hl, hc, Option.map_some, Option.getD_some, last, few]
      rfl
    case stfVerify => exact h.stfVerifies (t := t) rfl hin hm (by simp only [ht, hk])
    case stfVerifyExt => exact h.stfVerifies (t := t) rfl hin hm (by simp only [ht])
    case remaining =>
      refine congrArg ret ((h.onOp _).trans ?_)
      simp only [hk, hc, he, if_true]

end Sys2Proof.Machine

/-! SUPPORT. The commit of a key operation (R171, R449, R456): its checks, its entry and its change. -/

namespace Sys2Proof.Machine

/-! ### The conditions checked again -/

/-- A condition that holds where it is asked for is not missing. -/
theorem not_missing {asked holds : Bool} (h : asked = true → holds = true) : (asked && !holds) = false := by
  cases asked with
  | false => rfl
  | true => rw [h rfl]; rfl

section
variable {s : State} {x : Job}

theorem State.commitFail_locked (hl : s.pkg.lock = true) : s.commitFail x = some stLocked := by simp [State.commitFail, hl]

theorem State.commitFail_quorum (hl : s.pkg.lock = false) (hc : custodialClass x.sqe.op = true) (hq : s.cards.quorum.present = false) :
    s.commitFail x = some stQuorumAbsent := by simp [State.commitFail, hl, hc, hq]

theorem State.commitFail_owner (hl : s.pkg.lock = false) (hq : custodialClass x.sqe.op = true → s.cards.quorum.present = true) (ho : ownerClass x.sqe.op = true)
    (ht : s.ticketOk x x.data.ticket = false) : s.commitFail x = some stOwnerAuth := by
  simp [State.commitFail, hl, not_missing hq, ho, ht]

theorem CommitOpen.commitFail (h : CommitOpen s x) : s.commitFail x = none := by
  obtain ⟨hl, hq, ht⟩ := h
  simp [State.commitFail, hl, not_missing hq, not_missing ht]

end

/-! ### The entry -/

/-- The state after a job's entry is accepted, behind the offers made before it. -/
def State.recorded (s : State) (d : Nat) (x : Job) (status : W16) (header : List Byte) (change : Bool) : State :=
  s.drain.arbitrate (x.offer d status header (s.drain.jobPasid x) change)

section
variable {s : State} {d j : Nat} {x : Job} (hx : s.job? d j = some x) (hr : x.sqe.recorded = true)
include hx hr

/-- A stopped log misses the entry. -/
theorem State.recordJob_stopped (hs : s.alg.stopped = true) (status : W16) (header : List Byte) (change : Bool) :
    s.recordJob d j status header change = (s.miss, false) := by
  simp only [State.recordJob, hx, hr, hs]
  rfl

/-- Otherwise it is accepted; a change needs room behind it. -/
theorem State.recordJob_running (hs : s.alg.stopped = false) (status : W16) (header : List Byte) (change : Bool) :
    s.recordJob d j status header change = (s.recorded d x status header change, !change || decide (330 < s.drain.alg.free)) := by
  simp only [State.recordJob, hx, hr, hs]
  rfl

end

/-! ### The commit -/

/-- The time of an operation is up to its limit. -/
theorem State.opPs_le (s : State) (x : Job) (limit : Nat) : s.opPs x limit ≤ limit := Nat.min_le_left ..

section
variable {s : State} {j : JobRef} {op : Nat} {x : Job} (h : OpRuns s j op x)
include h

/-- The log records every key operation. -/
theorem OpRuns.isRecorded (ho : op / 4096 % 16 = 6) : x.sqe.recorded = true := by simp [Sqe.recorded, h.cls, ho]

/-- An operation that ends with `commitJob` commits. -/
theorem OpRuns.commits (ho : op / 4096 % 16 = 6) {c : Instr} {f : Job → State} (hc : exec c s = ret (s.onOp j op f)) {m limit : Nat} {header out : List Byte}
    {detail : W32} {change : State → State} (hf : f x = (s.draws m).commitJob j.die j.job x header limit detail out change) :
    Commits c s s j x limit header detail out change := by
  have run : exec c s = ret ((s.draws m).commitJob j.die j.job x header limit detail out change) := hc.trans (congrArg ret ((h.onOp f).trans hf))
  have here : (s.draws (m + 1)).job? j.die j.job = some x := h.here
  have logged := h.isRecorded ho
  have refused {st : W16} (hs : s.commitFail x = some st) : exec c s = ret ((s.draws (m + 1)).opFail j.die j.job st 0 ((s.draws m).opPs x limit)) := by
    have same : (s.draws m).commitFail x = some st := hs
    rw [run, State.commitJob, same]
    rfl
  refine ⟨m + 1, (s.draws m).opPs x limit, State.opPs_le .., fun hl => refused (State.commitFail_locked hl),
    fun hl hc hq => refused (State.commitFail_quorum hl hc hq), fun hl hq ho ht => refused (State.commitFail_owner hl hq ho ht),
    fun hopen => ⟨fun hs => ?stopped, fun hs hch hfree => ?full, fun hs hfree => ?commits⟩⟩
  all_goals
    have open_ : (s.draws m).commitFail x = none := hopen.commitFail
    have stopped : (s.draws m).alg.stopped = s.alg.stopped := rfl
    have drawn : (s.draws m).drawn = s.draws (m + 1) := rfl
    rw [run, State.commitJob, open_]
    dsimp only
    rw [drawn, stopped]
  case stopped =>
    rw [State.recordJob_stopped here logged hs, hs]
    rfl
  case full =>
    rw [State.recordJob_running here logged hs, hs, hch]
    have no : (!true || decide (330 < (s.draws (m + 1)).drain.alg.free)) = false := decide_eq_false (Nat.not_lt.mpr hfree)
    rw [no]
    rfl
  case commits =>
    rw [State.recordJob_running here logged hs]
    have yes : (!x.sqe.isChange || decide (330 < (s.draws (m + 1)).drain.alg.free)) = true := by
      rw [Bool.or_eq_true, decide_eq_true_iff, Bool.not_eq_true']
      exact hfree
    rw [yes]
    rfl

end

end Sys2Proof.Machine

/-! PROOF. The operations that create a symmetric key. -/

namespace Sys2Proof.Machine

section
variable {s : State} {j : JobRef} {op : Nat} {x : Job} (h : OpRuns s j op x) {c : Instr} {f : Job → State} (hc : exec c s = ret (s.onOp j op f))
include h hc

/-- An operation that ends with `opFail` fails, whatever its time and its draws. -/
theorem OpRuns.fails {u : State} {n ps limit detail : Nat} {status : W16} (hps : ps ≤ limit) (hf : f x = (u.draws n).opFail j.die j.job status detail ps) :
    ∃ n ps, ps ≤ limit ∧ exec c s = .next (settle (({ u with freeCtr := u.freeCtr + n } : State).opFail j.die j.job status detail ps)) :=
  ⟨n, ps, hps, hc.trans (congrArg ret ((h.onOp f).trans hf))⟩

/-- A key that goes into a blob under the job's parent, with an entry of its own where it wraps. -/
theorem OpRuns.createsSym (ho : op / 4096 % 16 = 6) {p : Slot} (hp : s.jobParent j.die x = some p) {m limit : Nat} {key : List Byte}
    (hf : f x = (s.draws m).createSym j.die j.job x limit key) :
    let hier := hierOf p.owner p.scope
    let wraps := needsEntry (BitVec.ofNat 32 (x.sqe.par 0 32)) p = true
    (equalHalves (s.newAlg x) key = false → ∃ blob, blob.length = 76 + key.length ∧
      (¬ wraps → Commits c s s j x limit (blob.take 48) (createdDetail blob.length 1) blob id) ∧
      (∀ e, wraps → (s.rootRec hier).freeEntry = some e →
        Commits c s s j x limit (blob.take 48) (createdDetail blob.length 1) blob (fun t => ((t.addEntry hier e).bumpRoot hier).writeRoot j.die x hier))) ∧
    (equalHalves (s.newAlg x) key = true → ∃ n ps, ps ≤ limit ∧
      exec c s = .next (settle (({ s with freeCtr := s.freeCtr + n } : State).opFail j.die j.job stKeyType 0 ps))) := by
  intro hier wraps
  have parent : (s.draws m).jobParent j.die x = some p := hp
  have alg : (s.draws m).newAlg x = s.newAlg x := rfl
  have root : (s.draws m).rootRec hier = s.rootRec hier := rfl
  rw [State.createSym, parent] at hf
  simp only [alg] at hf
  refine ⟨fun hk => ⟨((s.draws m).newBlob j.die p (s.newAlg x) (BitVec.ofNat 32 (x.sqe.par 0 32)) 0xFFFF
    (if wraps then (s.rootRec hier).freeEntry.getD 0 else 0) 0 false s.bbd.rtc.toNat key).1, State.newBlob_length .., fun hw => ?plain, fun e hw he => ?wrapping⟩, fun hk => ?weak⟩
  case plain =>
    rw [if_neg hw]
    rw [hk, if_neg Bool.false_ne_true, if_neg hw] at hf
    exact h.commits ho (m := m + 1) hc hf
  case wrapping =>
    rw [if_pos hw, he]
    rw [hk, if_neg Bool.false_ne_true, if_pos hw, root, he] at hf
    exact h.commits ho (m := m + 1) hc hf
  case weak =>
    rw [hk, if_pos rfl] at hf
    exact h.fails hc (State.opPs_le ..) hf

end

/-- Settles O27: each operation gives its key to the one that wraps it. -/
theorem keyCreation : Obligations.KeyCreation := by
  unfold Obligations.KeyCreation
  intro s j x parent hp
  dsimp only
  refine ⟨fun h => ⟨s.rand x.sqe.symLen, s.rand_length _, h.createsSym (m := 1) rfl rfl hp rfl⟩,
    fun h => ⟨fun key hk hl => ?imports, fun key hk hl => ?length, fun hk => ?mismatch⟩, fun h => h.createsSym (m := 0) rfl rfl hp rfl,
    fun h => ⟨fun t ht => ?stages, fun ht => ?empty⟩⟩
  case imports =>
    refine h.createsSym (m := 0) rfl rfl hp ?_
    simp only [hk, hl, ne_eq, not_true_eq_false, if_false, State.draws_zero]
  case length =>
    refine h.fails (n := 1) rfl (s.opPs_le x _) ?_
    simp only [hk, hl, ne_eq, not_false_eq_true, if_true]
    rfl
  case mismatch =>
    refine h.fails (n := 1) rfl (s.opPs_le x _) ?_
    simp only [hk]
    rfl
  case stages =>
    refine h.createsSym (m := 0) rfl rfl hp ?_
    simp only [ht, State.draws_zero]
  case empty =>
    refine h.fails (n := 0) rfl (Nat.le_refl 0) ?_
    simp only [ht, State.draws_zero]

end Sys2Proof.Machine

/-! PROOF. The other key operations. -/

namespace Sys2Proof.Machine

/-! ### The leaves that a blob's header names (R156, R169) -/

/-- A number written in so many bytes is cut to them. -/
theorem leBytes_mod (n x : Nat) : leBytes n (x % 256 ^ n) = leBytes n x := by
  induction n generalizing x with
  | zero => rfl
  | succ n ih =>
    have low : x % 256 ^ (n + 1) % 256 = x % 256 := Nat.mod_mod_of_dvd x (Dvd.intro_left (256 ^ n) rfl)
    have high : x % 256 ^ (n + 1) / 256 = x / 256 % 256 ^ n := by rw [Nat.pow_succ', Nat.mod_mul_right_div_self]
    simp only [leBytes, low, high, ih]

/-- The header of a blob ends with its range. -/
theorem sealBlob_range (key nonce : List Byte) (h : BlobHdr) (payload : List Byte) :
    slice (sealBlob key nonce h payload) 32 16 = leBytes 8 h.rangeFirst.toNat ++ leBytes 8 h.rangeEnd.toNat := by
  rw [sealBlob, BlobHdr.bytes, List.append_assoc (_ ++ _), List.append_assoc, List.append_assoc, ← List.append_assoc (leBytes 8 _)]
  exact slice_middle (by simp) (by simp)

/-- So does the header of a new blob. -/
theorem State.newBlob_range (s : State) (d : Nat) (p : Slot) (alg : W16) (usage : W32) (counter : W16) (first stop : Nat) (unbound : Bool) (created : Nat)
    (payload : List Byte) : slice (s.newBlob d p alg usage counter first stop unbound created payload).1 32 16 = leBytes 8 first ++ leBytes 8 stop := by
  rw [← leBytes_mod 8 first, ← leBytes_mod 8 stop]
  exact sealBlob_range ..

/-! ### REWRAP (R96, R153, R166) -/

/-- The state in which a job works on its next blob. -/
def State.rewrapAt (s : State) (d j : Nat) (x : Job) : State :=
  s.jobStep d j ((blobLens 1025 (x.data.inData.take x.pass)).length + 1) (blobLens 1025 x.data.inData).length

/-- What a job does next, by what became of a blob of so many bytes. -/
def State.rewrapNext (s : State) (n d j : Nat) (x : Job) (len : Nat) (r : Rewrapped) : State :=
  match r with
  | .fails st => (s.authFail d st).opFail d j st 0 (s.opPs x (12000000 * (blobLens 1025 x.data.inData).length))
  | .wants h => ((s.pushWants d j [s.mkWant x .chain h]).stage d j .table).advanceAny d j
  | .done b => rewrapLoop n d j (s.drawn.modJob d j (fun y => { y with pass := y.pass + len, data := { y.data with auxData := y.data.auxData ++ b } }))

section
variable {s : State} {d j n : Nat} {x : Job} {np : Slot} (hx : s.job? d j = some x) (hk : s.jobKey d x 0 = some np)
include hx hk

/-- Too many blobs. -/
theorem rewrapLoop_tooMany (hl : 1024 < (blobLens 1025 x.data.inData).length) :
    rewrapLoop (n + 1) d j s = s.opFail d j stEncoding (((blobLens 1025 x.data.inData).take 1024).foldl (· + ·) 0) 0 := by
  simp only [rewrapLoop, hx, hk, hl, if_true]

section
variable (hl : (blobLens 1025 x.data.inData).length ≤ 1024)
include hl

/-- After the last blob the job commits. -/
theorem rewrapLoop_end (hr : x.data.inData.drop x.pass = []) : rewrapLoop (n + 1) d j s =
    s.commitJob d j x (x.data.auxData.take 48) (12000000 * (blobLens 1025 x.data.inData).length) 0 x.data.auxData id := by
  simp only [rewrapLoop, hx, hk, Nat.not_lt.mpr hl, hr, if_true, if_false]

/-- A whole blob in front: what becomes of it decides. -/
theorem rewrapLoop_blob {b more : List Byte} {h : BlobHdr} (hr : x.data.inData.drop x.pass = b ++ more) (hb : b ≠ [])
    (hh : blobHdr? (x.data.inData.drop x.pass) = some h) (hlen : blobLenOf h.algId (x.data.inData.drop x.pass) = b.length) :
    rewrapLoop (n + 1) d j s = (s.rewrapAt d j x).rewrapNext n d j x b.length ((s.rewrapAt d j x).rewrapOne d x np b) := by
  have more_ : ¬ b ++ more = [] := by simp [hb]
  have whole : ¬ (b ++ more).length < b.length := by simp
  rw [hr] at hh hlen
  simp only [rewrapLoop, hx, hk, Nat.not_lt.mpr hl, hr, more_, hh, Option.map_some, Option.getD_some, hlen, whole, List.take_left, if_false]
  rw [← State.rewrapAt]
  cases (s.rewrapAt d j x).rewrapOne d x np b <;> rfl

end
end

/-- Settles O28: each operation commits its change, or ends with the first check that fails; a REWRAP goes on blob by blob. -/
theorem keyManagement : Obligations.KeyManagement := by
  unfold Obligations.KeyManagement
  intro s j x
  dsimp only
  refine ⟨fun k pub h hk hp hm => ?exportPublic, fun k w h hk hw => ?exportWrapped, fun p h hp hs => ?invalidate, fun i h h1 h2 h3 h4 h5 => ?evict,
    fun h => ⟨congrArg ret (h.onOp _), fun np hk => ⟨fun hl => ?tooMany, fun hl => ⟨fun hr => ?rewrapped, fun b more hd hr hb hh hlen => ?blob⟩⟩⟩,
    fun k p c h hk hp hc he => ⟨fun hn => ?exhausted, fun hn => ?split⟩, fun h => ⟨fun f hf => ?badImage, fun hf => ?activate⟩,
    fun h => ⟨fun o hv => ?badRecord, fun p hv hk => ⟨fun hn => ?mismatch, fun secret hn => ?provision⟩⟩⟩
  case exportPublic =>
    refine h.commits rfl (m := 0) rfl ?_
    simp only [hk, hp, hm, if_true, State.draws_zero]
  case exportWrapped =>
    refine h.commits rfl (m := 0) rfl ?_
    simp only [hk, hw, State.draws_zero]
  case invalidate =>
    refine h.commits rfl (m := 0) rfl ?_
    simp only [hp, hs, if_false, State.draws_zero]
  case evict =>
    refine h.commits rfl (m := 0) rfl ?_
    have resident : ¬ hScope x.sqe.handle = 3 := by omega
    have small : ¬ (s.mkWant x .main x.sqe.handle).size ≤ hIndex x.sqe.handle := by omega
    simp only [resident, h2, h3, small, h5, or_self, and_false, decide_false, Bool.false_and, Bool.or_self, Bool.not_true, Bool.false_eq_true, if_false, State.draws_zero]
  case tooMany => exact h.fails (n := 0) rfl (Nat.le_refl 0) (rewrapLoop_tooMany (n := 1024) h.here hk hl)
  case rewrapped => exact h.commits rfl (m := 0) rfl (rewrapLoop_end (n := 1024) h.here hk hl hr)
  case blob =>
    have next (n : Nat) : rewrapLoop (n + 1) j.die j.job s = _ := rewrapLoop_blob h.here hk hl hr hb hh hlen
    refine ⟨fun n b' hw => ?_, fun st hw => ?_, fun h' hw => ?_⟩
    · exact (next n).trans (congrArg (State.rewrapNext _ n j.die j.job x b.length) hw)
    · exact h.fails (n := 0) rfl (State.opPs_le ..) ((next 1024).trans (congrArg (State.rewrapNext _ 1024 j.die j.job x b.length) hw))
    · exact congrArg ret ((h.onOp _).trans ((next 1024).trans (congrArg (State.rewrapNext _ 1024 j.die j.job x b.length) hw)))
  case exhausted =>
    refine h.fails (n := 0) rfl (Nat.le_refl 0) ?_
    have none_ : (c.stop - c.next) / 2 = 0 := by omega
    simp only [hk, hp, hc, he, none_, ne_eq, not_true_eq_false, if_false, if_true, State.draws_zero]
  case split =>
    have some_ : ¬ (c.stop - c.next) / 2 = 0 := by omega
    refine ⟨(s.newBlob j.die p k.hdr.algId k.hdr.usage 0xFFFF (c.stop - (c.stop - c.next) / 2) c.stop true s.bbd.rtc.toNat k.payload).1, State.newBlob_length ..,
      State.newBlob_range .., h.commits rfl (m := 1) rfl ?_⟩
    simp only [hk, hp, hc, he, some_, ne_eq, not_true_eq_false, if_false]
    rfl
  case badImage =>
    refine h.fails (n := 0) rfl (s.opPs_le x _) ?_
    simp only [hf, State.draws_zero]
  case activate =>
    refine h.commits rfl (m := 0) rfl ?_
    simp only [hf, State.draws_zero]
  case badRecord =>
    refine h.fails (n := 0) rfl (Nat.le_refl 0) ?_
    simp only [hv, State.draws_zero]
  case mismatch =>
    refine h.fails (n := 0) rfl (s.opPs_le x _) ?_
    simp only [hv, hk, hn, State.draws_zero]
  case provision =>
    refine ⟨(s.newBlob j.die p (symAlg 0x11) 0x2000 0xFFFF 0 0 false s.bbd.rtc.toNat (slice x.data.inData 2 2 ++ fit 32 secret)).1, ?_, h.commits rfl (m := 1) rfl ?_⟩
    · rw [State.newBlob_length]
      simp
    · simp only [hv, hk, hn]
      rfl

end Sys2Proof.Machine

/-! SUPPORT. Dispatch: what becomes of a head by the first check that stops it, and which head an engine takes. -/

namespace Sys2Proof.Machine

/-! ### The checks of dispatch (R166, R168, R320, R424) -/

/-- The KPC entry of a job is worked on again. -/
def Die.refilling (y : Die) (entry : Option Nat) : Die :=
  { y with kpc := match entry with
      | some c => Assoc.update y.kpc c (fun z => { z with use := .working })
      | none => y.kpc }

section
variable {s : State} {d q j cls : Nat} {x : Job} {e : EngineId} {go : Die → Die}

theorem State.dispatch_secFails {st : W16} {dt : W32} (hs : s.secCheck d x = some (st, dt)) :
    s.dispatch d q j cls x e go = (s.failPrep d j st dt).pump d q := by
  simp only [State.dispatch, hs]

variable (hs : s.secCheck d x = none)
include hs

theorem State.dispatch_rngFails (hr : s.rngFor d x e = .fails) : s.dispatch d q j cls x e go = (s.failPrep d j stRngFail 0).pump d q := by
  simp only [State.dispatch, hs, hr]

variable (hr : s.rngFor d x e = .serves)
include hr

theorem State.dispatch_keyFails {t : State} {st : W16} {dt : W32} (hk : s.dispatchKeys d x = (t, some (st, dt))) :
    s.dispatch d q j cls x e go = (t.failPrep d j st dt).pump d q := by
  simp only [State.dispatch, hs, hr, hk]

variable {t : State} (hk : s.dispatchKeys d x = (t, none))
include hk

theorem State.dispatch_starts (ho : x.sqe.op ≠ 0x3002) : s.dispatch d q j cls x e go = t.startOn d q j cls x e go := by
  simp only [State.dispatch, hs, hr, hk, ho, if_false]

/-! A stateful SIGN and its leaf. -/

variable (ho : x.sqe.op = 0x3002) {k : Slot} (hkey : t.jobKey d x 0 = some k) {g : Stf} (hg : stf? x.sqe.ps = some g) {a : State}
include ho hkey hg

theorem State.dispatch_leafFails {st : W16} {dt : W32} (ha : t.assignLeaf d j x k = (a, some (st, dt))) :
    s.dispatch d q j cls x e go = (a.failPrep d j st dt).pump d q := by
  simp only [State.dispatch, hs, hr, hk, ho, hkey, hg, ha, if_true]

variable (ha : t.assignLeaf d j x k = (a, none)) {leaf : Nat} (hl : ((a.job? d j).bind (fun y => y.data.leaf)) = some leaf)
include ha hl

theorem State.dispatch_leafStarts (hb : g.blockOf leaf = a.entryBlock d x) : s.dispatch d q j cls x e go = a.startOn d q j cls x e go := by
  simp only [State.dispatch, hs, hr, hk, ho, hkey, hg, ha, hl, Option.getD_some, hb, if_true]

/-- The entry that the job holds is filled again for the block of its leaf. -/
theorem State.dispatch_leafWaits (hb : g.blockOf leaf ≠ a.entryBlock d x) :
    s.dispatch d q j cls x e go = (a.modDie d (fun y => y.refilling x.data.kpcEntry)).stage d j .fill := by
  simp only [State.dispatch, hs, hr, hk, ho, hkey, hg, ha, hl, Option.getD_some, hb, if_true, if_false]
  rfl

end

/-! ### What an engine takes -/

/-- The state in which a class of engine looks for a head: the queues taken as far as they go, heads without an engine ended, the contenders brought up to date. -/
def State.dispatchView (s : State) (d cls : Nat) : State := ((s.pumpDie d).dropFenced d cls).syncDwrr d cls

/-- The heads that an LVE may take: those it can run, and those that can only end for want of random bytes. -/
def State.lveHeads (u : State) (d i : Nat) : List (Nat × Nat × Job) :=
  (u.readyHeads d 0).filter (fun p =>
    (u.lveFree d i (u.maskNeed d p.2.2 true) && u.seedRoom d p.2.2 && p.2.2.digestDone && u.halfReady d p.2.2)
    || (u.lveFree d i 0 && decide (u.rngFor d p.2.2 (.lve i) = .fails)))

/-- The heads that a BNE may take: those whose digests are computed and which no BNE has staged. -/
def State.bneHeads (u : State) (d : Nat) : List (Nat × Nat × Job) :=
  (u.readyHeads d 1).filter (fun p => p.2.2.digestDone && !((u.die d).bnes.filterMap (fun v => v.stagedJob.map Prod.snd)).contains p.2.1)

/-- The start of a job's program on an LVE, with what the state holds for it. -/
def State.lveStart (u : State) (d i j : Nat) (x : Job) (y : Die) : Die :=
  { y with lves := y.lves.modify i (startLve x (if x.sqe.op = 0x8001 then u.program d x else none)
      (if x.sqe.seedLen ≠ 0 then x.sqe.seedLen else ((u.jobKey d x 0).map (fun k => k.payload.length)).getD 0)
      (((x.data.kpcEntry.bind (fun k => Assoc.get? (u.die d).kpc k)).map KpcEntry.bytes).getD []) (u.maskNeed d x true) j
      (Assoc.getD (u.die d).patch.vendor (Config.vendorProgram x.sqe.prog) [])
      (if x.sqe.scratch.1 = 0 then [] else u.rand (if x.sqe.scratch.2 then 2 * x.sqe.scratch.1 else x.sqe.scratch.1))) }

/-- The class is the top digit of the opcode. -/
theorem Sqe.cls_eq (e : Sqe) : e.cls = e.op / 4096 % 16 := by
  rw [Sqe.cls, bits, Nat.shiftRight_eq_div_pow]
  rfl

/-- An opcode outside class 9 is no composite's. -/
theorem Sqe.cls_ne_of_op {e : Sqe} {op : Nat} (h : e.op = op) {c : Nat} (hc : op / 4096 % 16 ≠ c) : e.cls ≠ c := by
  rwa [e.cls_eq, h]

/-- What an LVE does with a head, by the lane that the head's classical half takes, where it has one. -/
def State.lveTakes (u : State) (d i q j : Nat) (x : Job) : Option (Nat × Bool × Bool) → State
  | some (b, one, true) => u.wipeLane d b one
  | some (b, one, false) => (u.dispatch d q j 0 x (.lve i) (fun y => (u.lveStart d i j x
      { y with jobs := Assoc.update y.jobs j (fun z => { z with span := x.sqe.hybBne }) }).startBne b one j x)).pump d q
  | none =>
    if x.sqe.op = 0x8001 ∧ u.program d x = none then (u.failPrep d j stProgramInactive (BitVec.ofNat 32 x.sqe.ps)).pump d q
    else (u.dispatch d q j 0 x (.lve i) (u.lveStart d i j x)).pump d q

section
variable {s u : State} {d i q j : Nat} {x : Job}

/-- An LVE takes the head whose turn it is. -/
theorem opJobDispatch_lve (hu : s.dispatchView d 0 = u) (ht : u.turn d 0 (u.lveHeads d i) = some (q, j, x)) :
    opJobDispatch d (.lve i) s = u.lveTakes d i q j x (if x.sqe.cls = 9 then u.halfPick d x else none) := by
  rw [State.dispatchView] at hu
  rw [State.lveHeads] at ht
  unfold opJobDispatch State.lveTakes State.lveStart
  dsimp only
  rw [hu]
  simp only [ht]
  by_cases hc : x.sqe.cls = 9
  · have vendor : x.sqe.op ≠ 0x8001 := fun ho => Sqe.cls_ne_of_op ho (by decide) hc
    simp only [hc, vendor, if_true, if_false, false_and]
    rcases u.halfPick d x with _ | ⟨b, one, wipe⟩
    · simp only [Option.any_none, Bool.false_eq_true, if_false]
    · cases wipe <;> simp only [Option.any_some, Bool.false_eq_true, if_true, if_false]
  · by_cases ho : x.sqe.op = 0x8001 <;>
      simp only [hc, ho, if_true, if_false, Option.any_none, Bool.false_eq_true, Option.isNone_iff_eq_none, true_and, false_and]

/-! A BNE in service. -/

variable {b : BneUnit} (hv : u.bneServes d i = true) (hb : (u.die d).bnes[i]? = some b)
include hv hb

section
variable (hn : b.stagedJob = none) (ht : u.turn d 1 (u.bneHeads d) = some (q, j, x)) {one : Bool}
include hn ht

theorem State.bneTake_wipes (hp : b.pick u.part x = some (one, true)) : u.bneTake d i = if u.laneElsewhere d i x then u else u.wipeLane d i one := by
  rw [State.bneHeads] at ht
  simp only [State.bneTake, hb, hv, hn, ht, hp, Bool.not_true, Bool.false_eq_true, if_false]

theorem State.bneTake_stages (hp : b.pick u.part x = some (one, false)) (hr : b.running ≠ none) : u.bneTake d i = u.modDie d (fun y => y.stageBne i one j x) := by
  rw [State.bneHeads] at ht
  have busy : b.running.isSome = true := Option.isSome_iff_ne_none.mpr hr
  simp only [State.bneTake, hb, hv, hn, ht, hp, busy, Bool.not_true, Bool.false_eq_true, if_false, if_true]

theorem State.bneTake_head (hp : b.pick u.part x = some (one, false)) (hr : b.running = none) :
    u.bneTake d i = (u.dispatch d q j 1 x (.bne i) (fun y => y.startBne i one j x)).pump d q := by
  rw [State.bneHeads] at ht
  simp only [State.bneTake, hb, hv, hn, ht, hp, hr, Bool.not_true, Bool.false_eq_true, if_false, Option.isSome_none]

end

/-- The job staged in it starts. -/
theorem State.bneTake_staged {one : Bool} (hn : b.stagedJob = some (one, j)) (hr : b.running = none)
    (hf : (u.readyHeads d 1).find? (fun p => decide (p.2.1 = j)) = some (q, j, x)) :
    u.bneTake d i = (u.dispatch d q j 1 x (.bne i) (fun y => y.startBne i one j x)).pump d q := by
  simp only [State.bneTake, hb, hv, hn, hr, hf, Bool.not_true, Bool.false_eq_true, if_false, Option.isSome_none]

end

/-! ### The round (R352) -/

/-- The round robin of a class, once set, of a die that the part has. -/
theorem State.setDwrr_dwrr {s : State} {d : Nat} (hd : d < s.dies.length) (cls : Nat) (r : Dwrr) : ((s.setDwrr d cls r).die d).dwrr cls = r := by
  simp only [State.setDwrr, State.modDie_die, hd, and_self, if_true, Die.dwrr, Assoc.getD, Assoc.get?_set, Option.getD_some]

end Sys2Proof.Machine

/-! PROOF. Dispatch and the round of DWRR. -/

namespace Sys2Proof.Machine

/-- Settles O32: each engine by the head it takes, and each head by the first check of dispatch that stops it. -/
theorem dispatching : Obligations.Dispatching := by
  unfold Obligations.Dispatching
  intro s d
  dsimp only
  refine ⟨fun i q j x ht => ?lve, fun i q j x b hv hb hn ht => ?bne, fun i q j x b one t hv hb hn hr hf hs hg hk ho => ?staged, fun i => rfl, rfl, rfl,
    fun cls hc => ?round⟩
  case lve =>
    have takes := opJobDispatch_lve rfl ht
    refine ⟨fun ho hp => congrArg ret ?inactive, fun hc hp => ?plain, fun hc b one => ?composite⟩
    case inactive =>
      rw [takes, if_neg (Sqe.cls_ne_of_op ho (by decide))]
      exact if_pos ⟨ho, hp⟩
    case plain =>
      have starts {v : State} (h : (s.dispatchView d 0).dispatch d q j 0 x (.lve i) ((s.dispatchView d 0).lveStart d i j x) = v) :
          exec (.jobDispatch d (.lve i)) s = ret (v.pump d q) := by
        rw [if_neg hc] at takes
        rw [← h]
        exact congrArg ret (takes.trans (if_neg fun ⟨ho, hn⟩ => hp ho hn))
      have fails {v : State} (h : (s.dispatchView d 0).dispatch d q j 0 x (.lve i) ((s.dispatchView d 0).lveStart d i j x) = v.pump d q) :
          exec (.jobDispatch d (.lve i)) s = ret (Nat.repeat (fun v => v.pump d q) 2 v) := starts h
      refine ⟨fun st dt hs => fails (State.dispatch_secFails hs), fun hs hr => fails (State.dispatch_rngFails hs hr), fun hs hr =>
        ⟨fun t st dt hk => fails (State.dispatch_keyFails hs hr hk), fun t hk => ⟨fun ho => starts (State.dispatch_starts hs hr hk ho), fun ho k g hkey hg =>
          ⟨fun a st dt ha => fails (State.dispatch_leafFails hs hr hk ho hkey hg ha), fun a leaf ha hl =>
            ⟨fun hb => starts (State.dispatch_leafStarts hs hr hk ho hkey hg ha hl hb), fun hb => starts (State.dispatch_leafWaits hs hr hk ho hkey hg ha hl hb)⟩⟩⟩⟩⟩
    case composite =>
      rw [if_pos hc] at takes
      have stateless : x.sqe.op ≠ 0x3002 := fun ho => Sqe.cls_ne_of_op ho (by decide) hc
      have onLane {lane : Option (Nat × Bool × Bool)} (hh : (s.dispatchView d 0).halfPick d x = lane) := takes.trans (congrArg _ hh)
      exact ⟨fun hh => congrArg ret (onLane hh),
        fun t hh hs hr hk => congrArg ret ((onLane hh).trans (congrArg (State.pump · d q) (State.dispatch_starts hs hr hk stateless)))⟩
  case bne =>
    refine ⟨fun one hp => congrArg ret (State.bneTake_wipes hv hb hn ht hp), fun one hp hr => congrArg ret (State.bneTake_stages hv hb hn ht hp hr),
      fun one t hp hr hs hg hk ho => congrArg ret ?_⟩
    exact (State.bneTake_head hv hb hn ht hp hr).trans (congrArg (State.pump · d q) (State.dispatch_starts hs hg hk ho))
  case staged =>
    exact congrArg ret ((State.bneTake_staged hv hb hn hr hf).trans (congrArg (State.pump · d q) (State.dispatch_starts hs hg hk ho)))
  case round => exact ⟨_, congrArg ret (if_neg (Nat.not_lt.mpr hc)), fun hd => State.setDwrr_dwrr hd ..⟩

end Sys2Proof.Machine

/-! SUPPORT. Commands of queues: ring arithmetic, the queue that a command names, and what each command does with it. -/

namespace Sys2Proof.Machine

/-! ### Rings (R116) -/

theorem ringCount_lt (k p c : Nat) : ringCount k p c < 2 ^ (k + 1) := Nat.mod_lt _ (by positivity)

/-- The count leads from the consumer to the producer. -/
theorem add_ringCount {k p c : Nat} (hc : c < 2 ^ (k + 1)) (hp : p < 2 ^ (k + 1)) : (c + ringCount k p c) % 2 ^ (k + 1) = p := by
  have turn : c + (p + 2 ^ (k + 1) - c) = p + 2 ^ (k + 1) := by omega
  rw [ringCount, Nat.mod_eq_of_lt hc, Nat.add_mod_mod, turn, Nat.add_mod_right, Nat.mod_eq_of_lt hp]

theorem QCtx.tailOk_iff (c : QCtx) (t : Nat) : c.tailOk t = true ↔ ringCount c.rings.ks t c.rings.sqHead ≤ 2 ^ c.rings.ks ∧
    ringCount c.rings.ks c.rings.sqTail c.rings.sqHead ≤ ringCount c.rings.ks t c.rings.sqHead := by
  simp only [QCtx.tailOk, Bool.and_eq_true, decide_eq_true_iff]
  rfl

theorem QCtx.headOk_iff (c : QCtx) (h : Nat) : c.headOk h = true ↔ ringCount c.rings.kc c.rings.cqTail h ≤ ringCount c.rings.kc c.rings.cqTail c.rings.cqHead := by
  simp only [QCtx.headOk, decide_eq_true_iff]

/-- Out of range, a tail value puts an ACTIVE queue into ERROR. -/
theorem State.tailRange_active {s : State} {d q : Nat} (ha : (s.queue d q).ctx.state = .active) : s.tailRange d q = s.queueError d q 8 (s.queue d q).ctx.rings.sqHead := by
  simp only [State.tailRange, ha]

/-! ### Copies and reads that are discarded (R132) -/

/-- The entries whose reads are outstanding. -/
def QCtx.reads (c : QCtx) : List Nat :=
  (c.win.filter (fun (p : Nat × Prefetch) => match p.2 with | .copy _ => false | .reading _ => true)).map Prod.fst

/-- A discard waits for the reads among the entries that it hits. -/
theorem QCtx.discard_eq (c : QCtx) (hit : Nat → Bool) : c.discard hit =
    { c with win := dropWindow c.win (fun i => !hit i), invWait := c.reads.filter hit, invDone := (c.reads.filter hit).isEmpty } := by
  simp only [QCtx.reads, List.filter_map, List.filter_filter, Function.comp_def]
  rfl

/-- A discard of everything waits for every read. -/
theorem QCtx.discard_all (c : QCtx) : c.discard (fun _ => true) =
    { c with win := dropWindow c.win (fun _ => false), invWait := c.reads, invDone := c.reads.isEmpty } := by
  rw [QCtx.discard_eq, List.filter_true]
  rfl

/-! ### The queue of a command (R61, R62, R121) -/

/-- A command names queue `q` of die `d`: a manager queue, or a queue of a tenant whose portal is open. -/
def State.Names (s : State) (x : QueueRef) (d q : Nat) : Prop :=
  x = .manager d q ∧ (s.queue d q).ctx.rings.mgr = true ∨ ∃ n k, x = .tenant n k ∧ portalOpen n s = true ∧ (s.inst n).home k = some (d, q)

section
variable {s : State} {x : QueueRef} {d q : Nat} (hx : s.Names x d q)
include hx

theorem State.Names.doorbell : s.doorbell x = some (d, q) := by
  rcases hx with ⟨rfl, hm⟩ | ⟨n, k, rfl, ho, hk⟩
  · simp only [State.doorbell, State.locate, hm, if_true]
  · simp only [State.doorbell, State.locate, ho, hk, if_true]

/-- Such a command reaches its queue. -/
theorem State.Names.atQueue (h : s.Answers) (k : s.Takes d) (f : State → State) : s.atQueue x f = f s := by
  rcases hx with ⟨rfl, hm⟩ | ⟨n, i, rfl, ho, hi⟩
  · exact h.atWindow k f
  · simp only [State.atQueue, hi, k.reachable, if_true, h.atPortal]

/-! ### Doorbells (R119, R120) -/

theorem opSqTailDoorbell_named (i : Nat) (rid : W16) : opSqTailDoorbell x i rid s =
    if (s.queue d q).ctx.state = .disabled then s
    else if (s.queue d q).ctx.tailOk (i % 2 ^ ((s.queue d q).ctx.rings.ks + 1)) = true then
      ((s.modCtx d q (fun c => { c with rings := { c.rings with sqTail := i % 2 ^ ((s.queue d q).ctx.rings.ks + 1) } })).modAux d q (fun a => { a with rid := rid })).pump d q
    else s.tailRange d q := by
  simp only [opSqTailDoorbell, hx.doorbell]

theorem opCqHeadDoorbell_named (i : Nat) : opCqHeadDoorbell x i s =
    if (s.queue d q).ctx.state = .disabled then s
    else if (s.queue d q).ctx.headOk (i % 2 ^ ((s.queue d q).ctx.rings.kc + 1)) = true then
      ((s.modCtx d q (fun c => { c with headErr := false, rings := { c.rings with cqHead := i % 2 ^ ((s.queue d q).ctx.rings.kc + 1) } })).release d q).pump d q
    else s.modCtx d q (fun c => { c with headErr := true }) := by
  simp only [opCqHeadDoorbell, hx.doorbell]

/-! ### Invalidation, resume and skip (R132, R133, R143) -/

/-- While an earlier request waits a further one is ignored. -/
theorem opSqInval_waits (hw : (s.queue d q).ctx.invWait ≠ []) (v : W32) : opSqInval x v s = s := by
  simp only [opSqInval, hx.doorbell, hw, ne_eq, not_false_eq_true, if_true]

variable (hw : (s.queue d q).ctx.invWait = [])
include hw

theorem opSqInval_range {v : W32} (hv : bits v 30 2 = 0) : opSqInval x v s = s.invalRange d q (bits v 0 15) (bits v 15 15) := by
  simp only [opSqInval, hx.doorbell, hw, ne_eq, not_true_eq_false, if_false, hv]

theorem opSqInval_resume {v : W32} (hv : bits v 30 2 = 1) : opSqInval x v s = s.resumeQueue d q := by
  simp only [opSqInval, hx.doorbell, hw, ne_eq, not_true_eq_false, if_false, hv]

theorem opSqInval_skip {v : W32} (hv : bits v 30 2 = 2) : opSqInval x v s = s.skipQueue d q := by
  simp only [opSqInval, hx.doorbell, hw, ne_eq, not_true_eq_false, if_false, hv]

/-- No earlier request waits: a RESUME or SKIP is taken. -/
theorem State.invalTaken_idle : s.invalTaken x d q = true := by
  cases x with
  | tenant n k => simp only [State.invalTaken, hw, List.isEmpty_nil]
  | manager e p => rfl

theorem opResume_taken : opResume x s = s.resumeQueue d q := by simp only [opResume, hx.doorbell, State.invalTaken_idle hx hw, if_true]

theorem opSkip_taken : opSkip x s = s.skipQueue d q := by simp only [opSkip, hx.doorbell, State.invalTaken_idle hx hw, if_true]

end

section
variable {s : State} {d q : Nat}

theorem State.resumeQueue_error (he : (s.queue d q).ctx.state = .error) : s.resumeQueue d q = ((s.cancelPrep d q).modCtx d q (fun c => { c with
    state := .active, errCode := 0, invWait := c.reads, invDone := c.reads.isEmpty, win := dropWindow c.win (fun _ => false) })).pump d q := by
  simp only [State.resumeQueue, he, ne_eq, not_true_eq_false, if_false, QCtx.discard_all]

/-- Outside ERROR nothing happens. -/
theorem opResume_ignored {x : QueueRef} (hx : s.Names x d q) (he : (s.queue d q).ctx.state ≠ .error) : opResume x s = s := by
  simp only [opResume, hx.doorbell, State.resumeQueue, he, ne_eq, not_false_eq_true, if_true, ite_self]

theorem opSkip_ignored {x : QueueRef} (hx : s.Names x d q) (he : (s.queue d q).ctx.state ≠ .error) : opSkip x s = s := by
  simp only [opSkip, hx.doorbell, State.skipQueue, he, ne_eq, not_false_eq_true, if_true, ite_self]

/-- With no entry at fault SKIP acts as RESUME. -/
theorem State.skipQueue_resumes (he : (s.queue d q).ctx.state = .error) (hc : (s.queue d q).ctx.errCode = 7 ∨ (s.queue d q).ctx.errCode = 8) :
    s.skipQueue d q = s.resumeQueue d q := by
  simp only [State.skipQueue, he, ne_eq, not_true_eq_false, if_false, hc, if_true]

/-- With no head prepared nothing is taken back. -/
theorem State.cancelPrep_none (hp : (s.queue d q).aux.prep = none) : s.cancelPrep d q = s := by simp only [State.cancelPrep, hp]

/-- SKIP passes the entry at fault and ends its chain. -/
theorem State.skipQueue_passes (he : (s.queue d q).ctx.state = .error) (h7 : (s.queue d q).ctx.errCode ≠ 7) (h8 : (s.queue d q).ctx.errCode ≠ 8)
    (hp : (s.queue d q).aux.prep = none) : s.skipQueue d q = State.resumeQueue
      ((s.modCtx d q (fun c => { c with rings := { c.rings with sqHead := ringNext c.rings.ks c.rings.sqHead } })).modAux d q
        (fun a => { a with chainOpen := false, chainJob := none, chainAborted := false })) d q := by
  simp only [State.skipQueue, he, ne_eq, not_true_eq_false, if_false, h7, h8, or_self, State.cancelPrep_none hp]

/-! ### ENABLE and DISABLE (R141, R147) -/

/-- The context that ENABLE leaves: as new, and ACTIVE. -/
def Queue.enabled (x : Queue) : Queue := { ctx := { x.afterReset.ctx with state := .active }, aux := { x.afterReset.aux with irqNow := x.afterReset.ctx.rings.irq } }

theorem opEnable_starts (hq : q < 4096) (hr : (s.die d).reachable = true) (ho : s.enableOk d q = true) : opEnable d q s = s.setQueue d q (s.queue d q).enabled :=
  if_pos ⟨hq, hr, ho⟩

/-- A context that is not DISABLED is left as it is. -/
theorem opEnable_ignored (hs : (s.queue d q).ctx.state ≠ .disabled) : opEnable d q s = s := by
  simp [opEnable, State.enableOk, hs]

theorem disableReady_of (hr : (s.queue d q).aux.disableReq = true) (hs : (s.queue d q).ctx.state ≠ .disabled) (hi : (s.queue d q).ctx.inflight = 0)
    (hh : (s.queue d q).ctx.held = []) : disableReady d q s = true := by
  simp [disableReady, hr, hs, hi, hh]

/-- It waits for jobs in flight and for completions held. -/
theorem disableReady_waits (h : 0 < (s.queue d q).ctx.inflight ∨ (s.queue d q).ctx.held ≠ []) : ¬ disableReady d q s = true := by
  rcases h with h | h
  · simp [disableReady, Nat.ne_of_gt h]
  · simp [disableReady, h]

end

end Sys2Proof.Machine

/-! PROOF. Doorbells and queue commands. -/

namespace Sys2Proof.Machine

/-- Settles O47: each command reaches the queue that it names, and does there what the state of the queue lets it do. -/
theorem queueCommands : Obligations.QueueCommands := by
  unfold Obligations.QueueCommands
  refine ⟨fun k p c hc hp => ⟨ringCount_lt k p c, add_ringCount hc hp⟩, fun s x d q hl hf h8 hd hr hw hx => ?_⟩
  dsimp only
  have h : s.Answers := ⟨hl, hf⟩
  have k : s.Takes d := ⟨hd, h8, hr, hw⟩
  have hx : s.Names x d q := hx
  have reaches (f : State → State) {t : State} (ht : f s = t) : ret (s.atQueue x f) = ret t := congrArg ret ((hx.atQueue h k f).trans ht)
  have inWindow (f : State → State) {t : State} (ht : f s = t) : ret (s.atWindow d f) = ret t := congrArg ret ((h.atWindow k f).trans ht)
  refine ⟨fun hs => ⟨fun i rid => ?tail, fun i => ?head⟩, fun hs => ⟨fun i rid => ?tailDisabled, fun i => ?headDisabled⟩, fun v hv => ?inval, fun he hi => ?error,
    fun he => ⟨reaches _ (opResume_ignored hx he), reaches _ (opSkip_ignored hx he)⟩, fun hq hs hks hkc hb => ?enable, fun hs => inWindow _ (opEnable_ignored hs),
    fun hm hs => inWindow _ (if_pos ⟨hm, hs⟩), fun hreq hs hi hh hp => congrArg ret ?disables, fun hb => congrArg ret (if_neg (disableReady_waits hb)),
    fun ht => congrArg ret (if_pos ht), fun h0 hn => congrArg ret (if_pos ⟨h0, hn⟩)⟩
  case tail =>
    have rung := (opSqTailDoorbell_named hx i rid).trans (if_neg hs)
    exact ⟨fun ht => reaches _ (rung.trans (if_pos ht)),
      fun ht ha => reaches _ ((rung.trans (if_neg (Bool.eq_false_iff.mp ht))).trans (State.tailRange_active ha)), QCtx.tailOk_iff ..⟩
  case head =>
    have rung := (opCqHeadDoorbell_named hx i).trans (if_neg hs)
    exact ⟨fun hh => reaches _ (rung.trans (if_pos hh)), QCtx.headOk_iff .., fun hh => reaches _ (rung.trans (if_neg (Bool.eq_false_iff.mp hh)))⟩
  case tailDisabled => exact reaches _ ((opSqTailDoorbell_named hx i rid).trans (if_pos hs))
  case headDisabled => exact reaches _ ((opCqHeadDoorbell_named hx i).trans (if_pos hs))
  case inval =>
    refine ⟨fun hi => reaches _ ((opSqInval_range hx hi hv).trans ?_), fun hi => reaches _ (opSqInval_waits hx hi v)⟩
    simp only [State.invalRange, QCtx.discard_eq]
    rfl
  case error =>
    have resumes := opResume_taken hx hi
    have skips := opSkip_taken hx hi
    refine ⟨reaches _ (resumes.trans (State.resumeQueue_error he)), fun v hv => ?_, fun v hv => ?_, fun hc => ?_, fun h7 h8 hp => ?_⟩
    · exact (reaches _ (opSqInval_resume hx hi hv)).trans (reaches _ resumes).symm
    · exact (reaches _ (opSqInval_skip hx hi hv)).trans (reaches _ skips).symm
    · exact (reaches _ (skips.trans (State.skipQueue_resumes he hc))).trans (reaches _ resumes).symm
    · exact reaches _ (skips.trans (State.skipQueue_passes he h7 h8 hp))
  case enable =>
    have free : s.enableOk d q = true := by
      simp only [State.enableOk, hs, hks, hkc, decide_true, Bool.true_and, Bool.or_eq_true, Bool.not_eq_true']
      exact (Bool.eq_false_or_eq_true _).symm.imp_right hb
    exact ⟨_, inWindow _ (opEnable_starts hq hr free), rfl, rfl, rfl, rfl, rfl, rfl, rfl, rfl, rfl, rfl⟩
  case disables =>
    refine (if_pos (disableReady_of hreq hs hi hh)).trans ?_
    rw [State.cancelPrep_none hp]

end Sys2Proof.Machine

/-! SUPPORT. The manager's operations on instances: what a step on their page leaves of the jobs, how they are recorded and commit, and the ends of a reset. -/

namespace Sys2Proof.Machine

/-! ### The entries of the jobs -/

/-- The jobs of a die, each by what it was given: its source and its entry. -/
def Die.entries (y : Die) : Assoc (JobSrc × Sqe) := y.jobs.map (fun (p : Nat × Job) => (p.1, p.2.src, p.2.sqe))

theorem Die.entries_get? (y : Die) (j : Nat) : Assoc.get? y.entries j = (Assoc.get? y.jobs j).map (fun x => (x.src, x.sqe)) := by
  unfold Die.entries
  induction y.jobs with
  | nil => rfl
  | cons p m ih => by_cases hj : p.1 = j <;> simp [Assoc.get?, hj, ih]

/-- Every job keeps its source and its entry, and none comes or goes. -/
structure State.SameEntries (s t : State) : Prop where
  die : ∀ d, (t.die d).entries = (s.die d).entries

theorem State.SameEntries.trans {s t u : State} (h : s.SameEntries t) (k : t.SameEntries u) : s.SameEntries u := ⟨fun d => (k.die d).trans (h.die d)⟩

theorem State.SameEntries.ite {s t u : State} {c : Prop} [Decidable c] (h : s.SameEntries t) (k : s.SameEntries u) : s.SameEntries (if c then t else u) := by
  split
  · exact h
  · exact k

/-- A job is still there, with its source and its entry. -/
theorem State.SameEntries.job? {s t : State} (h : s.SameEntries t) {d j : Nat} {x : Job} (hx : s.job? d j = some x) :
    ∃ y, t.job? d j = some y ∧ y.src = x.src ∧ y.sqe = x.sqe := by
  have e := congrArg (Assoc.get? · j) (h.die d)
  simp only [Die.entries_get?] at e
  rw [State.job?] at hx
  rw [hx] at e
  obtain ⟨y, hy, hxy⟩ := Option.map_eq_some_iff.mp e
  obtain ⟨src, sqe⟩ := Prod.mk.inj hxy
  exact ⟨y, hy, src, sqe⟩

theorem OutputsOnly.sameEntries {s t : State} (h : OutputsOnly s t) : s.SameEntries t := by
  refine ⟨fun d => ?_⟩
  obtain ⟨r, e⟩ := h.die d
  rw [e]
  rfl

section
variable (s : State)

theorem State.sameEntries_modDie (d : Nat) {f : Die → Die} (hf : ∀ y, (f y).entries = y.entries) : s.SameEntries (s.modDie d f) := by
  refine ⟨fun e => ?_⟩
  rw [State.modDie_die]
  split
  · next h => rw [hf, h.1]
  · rfl

theorem State.sameEntries_modJob (d j : Nat) {f : Job → Job} (hsrc : ∀ x, (f x).src = x.src) (hsqe : ∀ x, (f x).sqe = x.sqe) : s.SameEntries (s.modJob d j f) := by
  refine s.sameEntries_modDie d (fun y => ?_)
  simp only [Die.entries, Assoc.update, List.map_map]
  refine List.map_congr_left (fun p _ => ?_)
  by_cases hj : p.1 = j <;> simp [hj, hsrc, hsqe]

theorem State.sameEntries_portalEvent (n b : Nat) : s.SameEntries (s.portalEvent n b) := by
  have delivered (t : State) (i : Nat) : t.SameEntries (t.iitEvent i) := .ite ⟨(OutputsOnly.counts t 0 EVR 0 0x134 1).sameEntries.die⟩ (OutputsOnly.iitSend ..).sameEntries
  exact .ite ⟨(delivered _ _).die⟩ ⟨fun _ => rfl⟩

theorem State.sameEntries_queueEvent (d q : Nat) : s.SameEntries (s.queueEvent d q) := by
  have timer (f : QAux → QAux) : s.SameEntries (s.modAux d q f) := s.sameEntries_modDie d (fun _ => rfl)
  have manager (t : State) : t.SameEntries (t.mqEvent d q) := by
    have raised : t.SameEntries (t.event d QMG 0 0) := (OutputsOnly.event ..).sameEntries
    exact .ite (raised.trans (OutputsOnly.signal ..).sameEntries) ⟨raised.die⟩
  exact .ite ((timer _).trans (State.sameEntries_portalEvent ..)) ((timer _).trans (manager _))

theorem State.sameEntries_pageStep (d j blk p n m : Nat) : s.SameEntries (s.pageStep d j blk p n m) := by
  have stepped : s.SameEntries (s.jobStep d j n m) := by
    have counted (n k t : Nat) : s.SameEntries (s.modJob d j (fun x => { x with step := max x.step n, permille := k, tracked := max x.tracked t })) :=
      s.sameEntries_modJob d j (fun _ => rfl) (fun _ => rfl)
    unfold State.jobStep State.jobAt
    cases s.job? d j with
    | none => exact ⟨fun _ => rfl⟩
    | some x => exact .ite ((counted ..).trans (State.sameEntries_queueEvent ..)) (counted ..)
  exact stepped.trans (OutputsOnly.setReg ..).sameEntries

end

/-! ### The record of a job that has gone on (R448, R449) -/

/-- A job's entry in the log is that of what it was given. -/
theorem State.recordJob_of {s : State} {d j : Nat} {x y : Job} (hy : s.job? d j = some y) (hsrc : y.src = x.src) (hsqe : y.sqe = x.sqe) (hr : x.sqe.recorded = true)
    (status : W16) (header : List Byte) (change : Bool) : s.recordJob d j status header change =
      if s.alg.stopped = true then (s.miss, false) else (s.recorded d x status header change, !change || decide (330 < s.drain.alg.free)) := by
  have same : s.recorded d y status header change = s.recorded d x status header change := by simp only [State.recorded, Job.offer, State.jobPasid, hsrc, hsqe]
  have hr' : y.sqe.recorded = true := hsqe ▸ hr
  cases hs : s.alg.stopped with
  | true => exact State.recordJob_stopped hy hr' hs ..
  | false => rw [State.recordJob_running hy hr' hs, same, if_neg Bool.false_ne_true]

section
variable {s : State} {j : JobRef} {op : Nat} {x : Job} (h : OpRuns s j op x)
include h

/-- The log records every operation of the manager but LOG_DRAIN. -/
theorem OpRuns.managerRecorded (hc : op / 4096 % 16 = 15) (ho : op ≠ 0xF040) : x.sqe.recorded = true := by
  simp [Sqe.recorded, h.cls, hc, h.same, ho]

variable (hr : x.sqe.recorded = true) {u : State} (hu : s.SameEntries u)
include hr hu

/-- An operation that goes on to `u` and ends with `commitJob` commits from there. -/
theorem OpRuns.commitsFrom {c : Instr} {f : Job → State} (hc : exec c s = ret (s.onOp j op f)) {limit : Nat} {header out : List Byte} {detail : W32}
    {change : State → State} (hf : f x = u.commitJob j.die j.job x header limit detail out change) : Commits c s u j x limit header detail out change := by
  have run : exec c s = ret (u.commitJob j.die j.job x header limit detail out change) := hc.trans (congrArg ret ((h.onOp f).trans hf))
  obtain ⟨y, hy, hsrc, hsqe⟩ := hu.job? h.here
  have recorded := State.recordJob_of (s := u.drawn) hy hsrc hsqe hr stOk header x.sqe.isChange
  have refused {st : W16} (hs : u.commitFail x = some st) : exec c s = ret (u.drawn.opFail j.die j.job st 0 (u.opPs x limit)) := by
    rw [run, State.commitJob, hs]
  refine ⟨1, u.opPs x limit, State.opPs_le .., fun hl => refused (State.commitFail_locked hl), fun hl hc hq => refused (State.commitFail_quorum hl hc hq),
    fun hl hq ho ht => refused (State.commitFail_owner hl hq ho ht), fun hopen => ⟨fun hs => ?stopped, fun hs hch hfree => ?full, fun hs hfree => ?commits⟩⟩
  all_goals
    have stopped : u.drawn.alg.stopped = u.alg.stopped := rfl
    rw [stopped, hs] at recorded
    rw [run, State.commitJob, hopen.commitFail]
    dsimp only
    rw [recorded]
  case stopped =>
    rw [hs]
    rfl
  case full =>
    have none_ : decide (330 < u.drawn.drain.alg.free) = false := decide_eq_false (Nat.not_lt.mpr hfree)
    rw [hch, none_, hs]
    rfl
  case commits =>
    have room : (!x.sqe.isChange || decide (330 < u.drawn.drain.alg.free)) = true := by
      rw [Bool.or_eq_true, decide_eq_true_iff, Bool.not_eq_true']
      exact hfree
    rw [room]
    rfl

/-- So does one whose effect ends later, at once. -/
theorem OpRuns.commitLater (hopen : CommitOpen u x) (hs : u.alg.stopped = false) (hfree : 330 < u.drain.alg.free) (change : State → State) :
    u.commitLater j.die j.job x change = change (u.recorded j.die x stOk [] true) := by
  obtain ⟨y, hy, hsrc, hsqe⟩ := hu.job? h.here
  have recorded := State.recordJob_of hy hsrc hsqe hr stOk [] true
  rw [hs, if_neg Bool.false_ne_true, decide_eq_true hfree] at recorded
  simp only [State.commitLater, hopen.commitFail, recorded, Bool.not_true, Bool.or_true, if_true]

end

/-! ### INST_DESTROY (R351, R357) -/

/-- A tenant's number is DESTROYING for a job. -/
def State.destroying (t : State) (n : Nat) (j : JobRef) (retire : Bool) : State :=
  t.modInst n (fun y => { y with code := .destroying, work := { y.work with destroyJob := some (j.die, j.job), retire := retire, resetWaiting := false } })

/-- What is authorised where it is asked for is not refused. -/
theorem not_unauthorised {asked authorised : Bool} (h : asked = false ∨ authorised = true) : ¬ (asked = true ∧ (!authorised) = true) := by
  rcases h with h | h <;> simp [h]

/-- A destroy waits for its reset to be accepted. -/
def State.destroyWaits (t : State) (n : Nat) (j : JobRef) (retire : Bool) : State :=
  t.modInst n (fun y => { y with work := { y.work with destroyJob := some (j.die, j.job), retire := retire, resetWaiting := true } })

section
variable {s : State} {j : JobRef} {x : Job} (h : OpRuns s j 0xF002 x) (hd : (s.inst x.paramInst).work.destroyJob = none)
include h hd

theorem opInstDestroy_badState (hc : (s.inst x.paramInst).code = .free ∨ (s.inst x.paramInst).code = .freezing ∨ (s.inst x.paramInst).code = .destroying ∨
    (s.inst x.paramInst).code = .held ∧ bit x.sqe.param 16 = false) : opInstDestroy j s = (s.pageStep j.die j.job VIM 0 1 3).opFail j.die j.job stInstState
      ((s.pageStep j.die j.job VIM 0 1 3).stateDetail x.paramInst) ((s.pageStep j.die j.job VIM 0 1 3).opPs x anyTime) := by
  refine (h.onOp _).trans ?_
  have bad : (s.inst x.paramInst).code = .free ∨ (s.inst x.paramInst).code = .freezing ∨ (s.inst x.paramInst).code = .destroying ∨ False ∨
      (s.inst x.paramInst).code = .held ∧ (!bit x.sqe.param 16) = true := by simpa using hc
  simp only [hd, reduceCtorEq, decide_false, Bool.false_eq_true, Option.isSome_none, if_false, bad, if_true]

/-! With RETIRE authorised where it is asked for. -/

variable (ho : bit x.sqe.param 16 = false ∨ (s.pageStep j.die j.job VIM 0 1 3).retireOk x x.paramInst = true)
include ho

/-- A live tenant is reset first, or waits for its reset. -/
theorem opInstDestroy_resets (hc : (s.inst x.paramInst).code = .active ∨ (s.inst x.paramInst).code = .frozen) : opInstDestroy j s =
    (s.pageStep j.die j.job VIM 0 1 3).commitLater j.die j.job x (fun t => if t.commitWindow x.paramInst = true then t.destroyWaits x.paramInst j (bit x.sqe.param 16)
      else (t.acceptReset x.paramInst).destroying x.paramInst j (bit x.sqe.param 16)) := by
  refine (h.onOp _).trans ?_
  have allowed := not_unauthorised ho
  rcases hc with hc | hc <;>
    simp only [hd, hc, allowed, reduceCtorEq, decide_false, Bool.false_eq_true, Option.isSome_none, false_and, or_self, if_false] <;> rfl

/-- A reset under way is joined. -/
theorem opInstDestroy_joins (hc : (s.inst x.paramInst).code = .resetting) : opInstDestroy j s =
    (s.pageStep j.die j.job VIM 0 1 3).commitLater j.die j.job x (fun t => t.destroying x.paramInst j (bit x.sqe.param 16)) := by
  refine (h.onOp _).trans ?_
  have allowed := not_unauthorised ho
  simp only [hd, hc, allowed, reduceCtorEq, decide_false, Bool.false_eq_true, Option.isSome_none, false_and, or_self, if_false]
  rfl

/-- A HELD root is retired. -/
theorem opInstDestroy_retires (hc : (s.inst x.paramInst).code = .held) (hr : bit x.sqe.param 16 = true) : opInstDestroy j s =
    ((s.pageStep j.die j.job VIM 0 1 3).pageStep j.die j.job VIM 0 3 3).commitJob j.die j.job x [] anyTime 0 [] (fun t =>
      (State.setInst { t with bbram := t.bbram.retire x.paramInst } x.paramInst Inst.free).progress 0 VIM 0 3 1000) := by
  refine (h.onOp _).trans ?_
  have authorised : ¬ (!(s.pageStep j.die j.job VIM 0 1 3).retireOk x x.paramInst) = true := fun k => not_unauthorised ho ⟨hr, k⟩
  simp only [hd, hc, hr, authorised, reduceCtorEq, decide_false, Bool.not_true, Bool.false_eq_true, Option.isSome_none, and_false, or_self, if_false]

/-- A number that is SAVED or RESERVED is freed. -/
theorem opInstDestroy_frees (hc : (s.inst x.paramInst).code = .saved ∨ (s.inst x.paramInst).code = .reserved) : opInstDestroy j s =
    ((s.pageStep j.die j.job VIM 0 1 3).pageStep j.die j.job VIM 0 2 3).commitJob j.die j.job x [] anyTime 0 [] (fun t =>
      ((t.allDies (fun d => (d.flushInst x.paramInst).unbind x.paramInst)).setInst x.paramInst Inst.free).progress 0 VIM 0 3 1000) := by
  refine (h.onOp _).trans ?_
  have allowed := not_unauthorised ho
  rcases hc with hc | hc <;>
    simp only [hd, hc, allowed, reduceCtorEq, decide_false, Bool.false_eq_true, Option.isSome_none, false_and, or_self, if_false]

end

/-! ### The ends of a reset (R357, R358) -/

theorem resetAcceptable_iff (n : Nat) (s : State) :
    resetAcceptable n s = true ↔ (s.inst n).work.resetWaiting = true ∧ s.saving n = false ∧ s.commitWindow n = false := by
  simp only [resetAcceptable, Bool.and_eq_true, Bool.not_eq_true', and_assoc]

section
variable {s : State} {n : Nat} (hj : s.noJobs n = true)
include hj

/-- A reset ends with the tenant ACTIVE. -/
theorem opInstResetComplete_resets (hc : (s.inst n).code = .resetting) (hd : (s.inst n).work.destroyJob = none) : opInstResetComplete n s =
    (((((s.count 0 VIM 0 0x218).allDies (fun d => d.flushInst n)).modInst n (fun i => { i.flush with code := .active })).portalEvent n 9).event 0 VIM 0 1).pumpAll := by
  have due : resetDone n s = true := by simp [resetDone, hc, hj]
  have stays : ¬ (((s.count 0 VIM 0 0x218).inst n).work.destroyJob.isSome = true ∨ ((s.count 0 VIM 0 0x218).inst n).code = .destroying) := by
    have same : (s.count 0 VIM 0 0x218).inst n = s.inst n := rfl
    simp [same, hc, hd]
  exact (if_pos due).trans (congrArg State.pumpAll (if_neg stays))

/-- A destroy goes on to its end. -/
theorem opInstResetComplete_destroys (hc : (s.inst n).code = .destroying) (hd : (s.inst n).work.destroyJob ≠ none) :
    opInstResetComplete n s = ((s.count 0 VIM 0 0x218).endDestroy n).pumpAll := by
  have due : resetDone n s = true := by simp [resetDone, hc, hj, Option.isSome_iff_ne_none.mpr hd]
  exact (if_pos due).trans (congrArg State.pumpAll (if_pos (.inr hc)))

end

/-- A tenant that is FREEZING is FROZEN once nothing of it is left, and its freeze job ends. -/
theorem opFreezeDrained_ends {s : State} {n d k : Nat} (hc : (s.inst n).code = .freezing) (hd : s.drained n = true) (hj : (s.inst n).work.freezeJob = some (d, k)) :
    ∃ ps, opFreezeDrained n s = ((((s.modInst n (fun i => { i with code := .frozen, work := { i.work with freezeJob := none } })).progress 0 VIM 0 2 1000).closeJob
      d k stOk 0 ps).drawn.pumpDie d) := by
  refine ⟨Config.opTime 0xF00300 s.freeCtr, (if_pos ⟨hc, hd⟩).trans ?_⟩
  simp only [hj]
  rfl

end Sys2Proof.Machine

/-! PROOF. The lifetime of instances. -/

namespace Sys2Proof.Machine

/-- Settles O53: each operation by the state in which it finds its tenant, and each end of one by what it waited for. -/
theorem instanceLifetime : Obligations.InstanceLifetime := by
  unfold Obligations.InstanceLifetime
  intro s n
  dsimp only
  refine ⟨fun ha => congrArg ret (if_pos ha), resetAcceptable_iff n s, fun hc hj hd => congrArg ret (opInstResetComplete_resets hj hc hd),
    fun hc hj d k hd => congrArg ret (opInstResetComplete_destroys hj hc (by simp [hd])), fun j x => ?jobs⟩
  have steps (k m : Nat) : s.SameEntries (s.pageStep j.die j.job VIM 0 k m) := s.sameEntries_pageStep ..
  have stepsOn (k l m : Nat) : s.SameEntries ((s.pageStep j.die j.job VIM 0 k m).pageStep j.die j.job VIM 0 l m) := (steps k m).trans (State.sameEntries_pageStep ..)
  refine ⟨fun h => ?create, fun h hn hd => ?destroy, fun h hn hb hf => ?freeze, fun hc hd d k hj => ?drained, fun h hn hb => ?thaw⟩
  case create =>
    have logged := h.managerRecorded (by decide) (by decide)
    refine ⟨fun f hf => ?fails, fun hf hm hr => congrArg ret ((h.onOp _).trans ?wants), fun hf hm hr => ?new, fun root hf hm hk => ?attach⟩
    case fails =>
      refine h.fails (n := 0) rfl ((s.pageStep j.die j.job VIM 0 1 3).opPs_le x anyTime) ?_
      simp only [hf]
      rfl
    case wants => simp only [hf, hm, hr, if_true]
    case new =>
      refine h.commitsFrom logged (stepsOn ..) rfl ?_
      simp only [hf, hm, hr, if_true, if_false]
    case attach =>
      refine h.commitsFrom logged (stepsOn ..) rfl ?_
      simp only [hf, hm, hk, one_ne_zero, if_false]
  case destroy =>
    subst hn
    have logged := h.managerRecorded (by decide) (by decide)
    refine ⟨fun hc => ?bad, fun hc ho hopen => ?resets, fun hc ho hopen => ?joins, fun hc hr ho => ?retires, fun hc ho => ?frees⟩
    case bad => exact ⟨0, _, State.opPs_le .., congrArg ret (opInstDestroy_badState h hd hc)⟩
    case resets =>
      obtain ⟨open_, running, room⟩ := hopen
      have later := (opInstDestroy_resets h hd ho hc).trans (h.commitLater logged (steps ..) open_ running room _)
      exact ⟨fun hw => congrArg ret (later.trans (if_neg (Bool.eq_false_iff.mp hw))), fun hw => congrArg ret (later.trans (if_pos hw))⟩
    case joins =>
      obtain ⟨open_, running, room⟩ := hopen
      exact congrArg ret ((opInstDestroy_joins h hd ho hc).trans (h.commitLater logged (steps ..) open_ running room _))
    case retires =>
      refine h.commitsFrom logged (stepsOn ..) rfl ((h.onOp _).symm.trans (opInstDestroy_retires h hd (.inr ho) hc hr))
    case frees =>
      refine h.commitsFrom logged (stepsOn ..) rfl ((h.onOp _).symm.trans (opInstDestroy_frees h hd ho hc))
  case freeze =>
    subst hn
    have asked : ¬ (bit x.sqe.param 16 = true ∨ (s.inst x.paramInst).work.freezeJob = some (j.die, j.job)) := by simp [hb, hf]
    refine ⟨fun hc => h.fails (n := 0) rfl (s.opPs_le x anyTime) ?_, fun hc => congrArg ret ((h.onOp _).trans ?_)⟩
    · simp only [asked, hc, ne_eq, not_false_eq_true, if_false, if_true]
      rfl
    · simp only [asked, hc, ne_eq, not_true_eq_false, if_false]
  case drained =>
    obtain ⟨ps, ends⟩ := opFreezeDrained_ends hc hd hj
    exact ⟨ps, congrArg ret ends⟩
  case thaw =>
    subst hn
    refine ⟨fun hc => h.fails (n := 0) rfl (s.opPs_le x anyTime) ?_, fun hc => h.commitsFrom (h.managerRecorded (by decide) (by decide)) (steps ..) rfl ?_⟩
    · simp only [hb, hc, Bool.not_true, Bool.false_eq_true, ne_eq, not_false_eq_true, if_false, if_true]
      rfl
    · simp only [hb, hc, Bool.not_true, Bool.false_eq_true, ne_eq, not_true_eq_false, if_false]

end Sys2Proof.Machine

/-! SUPPORT. Lengths of digests (FIPS 180-4, FIPS 202, SP 800-185). -/

namespace Sys2Proof.Machine

theorem kSqueeze_length (rate n : Nat) (k : KState) (p : Nat) : (kSqueeze rate n k p).1.length = n := by
  induction n generalizing k p with
  | zero => rfl
  | succ n ih => simp only [kSqueeze, List.length_cons, ih]

@[simp] theorem kmac256_length (k cs x : List Byte) (n : Nat) : (kmac256 k cs x n).length = n := kSqueeze_length ..

@[simp] theorem beWords_length (w n : Nat) (bs : List Byte) : (beWords w n bs).length = n := by simp [beWords]

theorem wordsBe_length {w : Nat} (l : List (BitVec w)) : (wordsBe l).length = l.length * (w / 8) := by simp [wordsBe]

theorem sha2Round_length {w : Nat} (p : Sha2Par) (v : List (BitVec w)) (k x : BitVec w) : (sha2Round p v k x).length = v.length := by
  unfold sha2Round
  split <;> rfl

theorem sha2Rounds_length {w : Nat} (p : Sha2Par) (ks v win : List (BitVec w)) : (sha2Rounds p ks v win).length = v.length := by
  induction ks generalizing v win with
  | nil => rfl
  | cons k ks ih => rw [sha2Rounds, ih, sha2Round_length]

/-- The 64-bit family chains 64 bytes. -/
theorem sha2Block_length (cv blk : List Byte) : (sha2Block false cv blk).length = 64 := by
  have words : (sha2Compress64 (beWords 64 8 cv) blk).length = 8 := by simp [sha2Compress64, sha2Rounds_length]
  exact (wordsBe_length _).trans (by rw [words])

theorem sha2Blocks_length (bsz n : Nat) {cv : List Byte} (h : cv.length = 64) (bs : List Byte) : (sha2Blocks false bsz n cv bs).length = 64 := by
  induction n generalizing cv bs with
  | zero => exact h
  | succ n ih => exact ih (sha2Block_length ..) _

@[simp] theorem sha384_length (msg : List Byte) : (sha384 msg).length = 48 := by
  have iv : (sha2Iv 2).length = 64 := by simp [sha2Iv, wordsBe_length, tableWords]
  exact List.length_take_of_le (by rw [show (decide (2 < 2)) = false from rfl, sha2Blocks_length _ _ iv]; decide)

end Sys2Proof.Machine

/-! PROOF. Attestation responses, signed messages and the identity. -/

namespace Sys2Proof.Machine

@[simp] theorem State.attMessage_length (s : State) (inst verifier rtc : Nat) (challenge : List Byte) : (s.attMessage inst verifier rtc challenge).length = 160 := by
  simp [State.attMessage]

@[simp] theorem attResponse_length (secret msg : List Byte) : (attResponse secret msg).length = 64 := by simp [attResponse]

/-- Settles O29: each operation ends its job at once; the response goes out where the record is granted. -/
theorem attestation : Obligations.Attestation := by
  unfold Obligations.Attestation
  intro s j x
  dsimp only
  refine ⟨fun k h hk => ⟨_, s.opPs_le x 2000000, fun hg => ⟨attResponse_length .., h.ends (n := 1) rfl ?granted⟩, fun hall hn => h.ends (n := 1) rfl ?other⟩,
    fun h => ⟨?length, _, _, fit_length .., h.ends (n := 1) rfl rfl⟩, fun h => ⟨_, h.ends (n := 1) rfl rfl⟩⟩
  case granted =>
    simp only [hk, Slot.granted, hg, decide_true, if_true]
    rfl
  case other =>
    simp only [hk, Slot.granted, hall, hn, or_self, decide_false, Bool.false_eq_true, if_false]
    rfl
  case length =>
    have owner : (if x.src.mgr then List.replicate 48 0 else sha384 (s.inst (if x.src.mgr then 0xFFFF else x.src.inst)).cfg.ownerKey).length = 48 := by
      split
      · rfl
      · exact sha384_length _
    simp only [List.length_append, State.attMessage_length, owner, leBytes_length, List.length_cons, List.length_nil]

end Sys2Proof.Machine

/-! PROOF. The life-cycle jobs of the manager. -/

namespace Sys2Proof.Machine

/-! ### What a step reported leaves of the log -/

section
variable (s : State)

theorem State.ite_alg {c : Prop} [Decidable c] {t u : State} (ht : t.alg = s.alg) (hu : u.alg = s.alg) : (if c then t else u).alg = s.alg := by
  split
  · exact ht
  · exact hu

theorem State.portalEvent_alg (n b : Nat) : (s.portalEvent n b).alg = s.alg := by
  have delivered (t : State) (i : Nat) : (t.iitEvent i).alg = t.alg := t.ite_alg rfl (OutputsOnly.iitSend ..).alg
  exact s.ite_alg (delivered _ _) rfl

theorem State.queueEvent_alg (d q : Nat) : (s.queueEvent d q).alg = s.alg := by
  have manager (t : State) : (t.mqEvent d q).alg = t.alg := t.ite_alg (OutputsOnly.signal ..).alg rfl
  exact s.ite_alg (State.portalEvent_alg ..) (manager _)

theorem State.pageStep_alg (d j blk p n m : Nat) : (s.pageStep d j blk p n m).alg = s.alg := by
  have stepped : (s.jobStep d j n m).alg = s.alg := by
    unfold State.jobStep State.jobAt
    cases s.job? d j with
    | none => rfl
    | some x =>
      have counted (k t : Nat) : (s.modJob d j (fun x => { x with step := max x.step n, permille := k, tracked := max x.tracked t })).alg = s.alg := State.modDie_alg ..
      exact s.ite_alg ((State.queueEvent_alg ..).trans (counted ..)) (counted ..)
  exact (State.progress_alg ..).trans stepped

theorem State.sameEntries_progress (d b i p q : Nat) : s.SameEntries (s.progress d b i p q) :=
  (OutputsOnly.setReg ..).sameEntries

theorem State.sameEntries_measures (d : Nat) (ranges : List (List Byte)) : s.SameEntries (s.measures d ranges) := by
  have changed : s.SameEntries (s.modMha d (fun _ => Mha.measured ranges)) := s.sameEntries_modDie d (fun _ => rfl)
  exact changed.trans (OutputsOnly.event ..).sameEntries

end

/-! ### How a life-cycle job ends -/

section
variable {s u : State} {j : JobRef} {x : Job} {c : Instr}

/-- With `lcFail`, it has no effect. -/
theorem lcFail_fails {status : W16} {detail : Nat} (hc : exec c s = ret (u.lcFail j x status detail)) :
    ∃ n ps, ps ≤ anyTime ∧ exec c s = .next (settle (({ u with freeCtr := u.freeCtr + n } : State).opFail j.die j.job status detail ps)) :=
  ⟨0, u.opPs x anyTime, u.opPs_le .., hc⟩

/-- With `commitFree`, its entry is accepted and its change made, where the log has room for it. -/
theorem OpRuns.commitsFree {op : Nat} (h : OpRuns s j op x) (hr : x.sqe.recorded = true) (hu : s.SameEntries u) (hs : u.alg.stopped = false)
    (hfree : x.sqe.isChange = false ∨ 330 < u.drawn.drain.alg.free) {change : State → State} (hc : exec c s = ret (u.commitFree j x change)) :
    ∃ ps, ps ≤ anyTime ∧ exec c s = .next (settle ((change (u.drawn.recorded j.die x stOk [] x.sqe.isChange)).endOp j.die j.job stOk 0 ps [])) := by
  obtain ⟨y, hy, hsrc, hsqe⟩ := hu.job? h.here
  have stopped : u.drawn.alg.stopped = false := hs
  have room : (!x.sqe.isChange || decide (330 < u.drawn.drain.alg.free)) = true := by
    rw [Bool.or_eq_true, decide_eq_true_iff, Bool.not_eq_true']
    exact hfree
  have recorded := State.recordJob_of (s := u.drawn) hy hsrc hsqe hr stOk [] x.sqe.isChange
  rw [stopped, if_neg Bool.false_ne_true, room] at recorded
  refine ⟨u.opPs x anyTime, u.opPs_le .., hc.trans (congrArg ret ?_)⟩
  simp only [State.commitFree, recorded, if_true]

/-- The entry of a ZEROISE needs no room beyond its own (R456). -/
theorem OpRuns.zeroise_isChange (h : OpRuns s j 0xF030 x) : x.sqe.isChange = false := by simp [Sqe.isChange, h.cls, h.same]

end

/-! ### Tokens (R480) -/

/-- A check that finds nothing wrong, and those after it. -/
theorem some_else_none {α : Type} {c : Prop} [Decidable c] {a : α} {r : Option α} : (if c then some a else r) = none ↔ ¬ c ∧ r = none := by
  split <;> simp [*]

/-- What a token that no check refuses has. -/
theorem State.tokenFail_none {s : State} {input : List Byte} {origin : W64} {target : Nat} {owner more : Bool}
    (h : s.tokenFail input origin target owner more = none) :
    mldsaVerify (if fieldLe input 7 1 = 1 then Config.sirvamosKey else slice input 4691 2592) (ascii "VQ-LCT") (input.take 64) (slice input 64 4627) = true ∧
    fieldLe input 8 8 = (s.die 0).fuses.uid.toNat ∧ fieldLe input 16 8 = origin.toNat ∧ fieldLe input 6 1 = target ∧ s.bbd.rtc.toNat ≤ fieldLe input 24 8 ∧
    (fieldLe input 7 1 = 1 ∨ fieldLe input 7 1 = 2 ∧ owner = true ∧ (s.die 0).fuses.ownerDigest = some (sha3256 (slice input 4691 2592))) := by
  simp only [State.tokenFail, some_else_none, and_true] at h
  obtain ⟨-, -, -, hsigner, -, -, hkey, hsig, hfields⟩ := h
  obtain ⟨huid, horigin, htarget, hexpiry⟩ : fieldLe input 8 8 = (s.die 0).fuses.uid.toNat ∧ fieldLe input 16 8 = origin.toNat ∧ fieldLe input 6 1 = target ∧
    s.bbd.rtc.toNat ≤ fieldLe input 24 8 := by simpa using hfields
  refine ⟨by simpa using hsig, huid, horigin, htarget, hexpiry, ?_⟩
  by_cases sirvamos : fieldLe input 7 1 = 1
  · exact .inl sirvamos
  · have owners : fieldLe input 7 1 = 2 := not_not.mp fun k => hsigner ⟨sirvamos, k⟩
    refine .inr ⟨owners, ?_⟩
    simpa [owners] using hkey

/-! ### The step of a transition (R479 to R481), by its target -/

section
variable {s : State} {j : JobRef} {x : Job} {target : Nat}

/-! To SCRAPPED. -/

theorem State.lcStep_scrap_refused (ht : target = 6) {f : W16 × Nat} (hk : s.tokenFail x.data.inData (lcWord 5) 6 true false = some f) :
    s.lcStep j x target = s.lcFail j x f.1 f.2 := by
  simp only [ht, State.lcStep, hk]

theorem State.lcStep_scrap_burns (ht : target = 6) (hk : s.tokenFail x.data.inData (lcWord 5) 6 true false = none) :
    s.lcStep j x target = s.beginBurn j 6 (lcStepBits 6) x.data.inData := by
  simp only [ht, State.lcStep, hk]

/-! To PERSONALISED. -/

theorem State.lcStep_personalise_refused (ht : target = 2) {f : W16 × Nat} (hk : s.tokenFail x.data.inData (lcWord 1) 2 false true = some f) :
    s.lcStep j x target = s.lcFail j x f.1 f.2 := by
  simp only [ht, State.lcStep, hk]

section
variable (ht : target = 2) (hk : s.tokenFail x.data.inData (lcWord 1) 2 false true = none)
include ht hk

theorem State.lcStep_personalise_stranger (ho : ¬ (fieldLe x.data.inData 7 1 = 1 ∧
    Config.certSubject (x.data.inData.drop 4691) = ((s.die 0).kvd.derived.map Derived.deviceId).getD [])) : s.lcStep j x target = s.lcFail j x stKeyAuth 0 := by
  simp only [ht, State.lcStep, hk]
  exact if_pos (not_and_or.mp ho)

theorem State.lcStep_personalise_burns (ho : fieldLe x.data.inData 7 1 = 1 ∧
    Config.certSubject (x.data.inData.drop 4691) = ((s.die 0).kvd.derived.map Derived.deviceId).getD []) :
    s.lcStep j x target = State.beginBurn { s with store := { s.store with deviceCert := x.data.inData.drop 4691 } } j 2 (lcStepBits 2) x.data.inData := by
  simp only [ht, State.lcStep, hk]
  exact if_neg (fun k => not_and_or.mpr k ho)

end

/-! To PROVISIONED. -/

theorem State.lcStep_provision_refused (ht : target = 3) {f : W16 × Nat} (hk : s.provisionFail x.data.inData = some f) :
    s.lcStep j x target = s.lcFail j x f.1 f.2 := by
  simp only [ht, State.lcStep, hk]

theorem State.lcStep_provision_awaits (ht : target = 3) (hk : s.provisionFail x.data.inData = none) : s.lcStep j x target = s.awaitQuorum j x.data.inData := by
  simp only [ht, State.lcStep, hk]

/-! To OPERATIONAL and DECOMMISSIONED. -/

section
variable (ht : target = 4 ∨ target = 5)
include ht

theorem State.lcStep_quorumAbsent (hq : s.cards.quorum.present = false) : s.lcStep j x target = s.lcFail j x stQuorumAbsent 0 := by
  rcases ht with rfl | rfl <;> simp only [State.lcStep, hq, Bool.not_false, if_true]

variable (hq : s.cards.quorum.present = true)
include hq

theorem State.lcStep_unticketed (hk : s.ticketOk x x.data.ticket = false) : s.lcStep j x target = s.lcFail j x stOwnerAuth 0 := by
  rcases ht with rfl | rfl <;> simp only [State.lcStep, hq, hk, Bool.not_true, Bool.not_false, Bool.false_eq_true, if_false, if_true]

theorem State.lcStep_custodians_burn (hk : s.ticketOk x x.data.ticket = true) :
    s.lcStep j x target = State.beginBurn (if target = 5 then s.zeroiseAll else s.custodial) j target (lcStepBits target) [] := by
  rcases ht with rfl | rfl <;> simp only [State.lcStep, hq, hk, Bool.not_true, Bool.false_eq_true, if_false]

end

end

/-! ### LC_TRANSITION (R479, R483) -/

section
variable {s u : State} {j : JobRef} {x : Job} (h : OpRuns s j 0xF020 x)
include h

theorem opLcTransition_second {t : Transition} (hx : s.lcc.xfer = some t) (hj : t.job ≠ some (j.die, j.job)) : opLcTransition j s = s.lcFail j x stLifecycle s.lc := by
  refine (h.onOp _).trans ?_
  simp only [hx, hj, if_false]

variable (hx : s.lcc.xfer = none) (hu : s.progress 0 LCC 0 0 0 = u)
include hx hu

theorem opLcTransition_locked (hl : u.pkg.lock = true) : opLcTransition j s = u.lcFail j x stLocked 0 := by
  refine (h.onOp _).trans ?_
  simp only [hx, hu, hl, if_true]

variable (hl : u.pkg.lock = false)
include hl

theorem opLcTransition_badTarget (ht : x.targetOk u.lc u.oskValid = false) :
    opLcTransition j s = u.lcFail j x stLifecycle u.lc := by
  refine (h.onOp _).trans ?_
  simp only [hx, hu, hl, ht, Bool.false_eq_true, Bool.not_false, if_false, if_true]

variable (ht : x.targetOk u.lc u.oskValid = true) (hs : u.alg.stopped = false) (hf : 330 < u.alg.free)
include ht hs hf

theorem opLcTransition_steps (hne : x.sqe.par 0 4 ≠ u.lc) : opLcTransition j s = u.lcStep j x (x.sqe.par 0 4) := by
  refine (h.onOp _).trans ?_
  have room : ¬ u.alg.free ≤ 330 := by omega
  simp only [hx, hu, hl, ht, hs, room, hne, Bool.false_eq_true, Bool.not_true, or_self, ne_eq, not_false_eq_true, if_false, if_true]

theorem opLcTransition_renews (he : x.sqe.par 0 4 = u.lc) (hq : u.cards.quorum.present = true)
    (hk : u.ticketOk x x.data.ticket = true) : opLcTransition j s = u.commitFree j x (fun t => t.renew.custodial) := by
  refine (h.onOp _).trans ?_
  have room : ¬ u.alg.free ≤ 330 := by omega
  simp only [hx, hu, hl, ht, hs, room, he, hq, hk, Bool.false_eq_true, Bool.not_true, or_self, ne_eq, not_true_eq_false, if_false]

end

/-! ### COMPLETE_TRANSITION (R487) -/

section
variable {s u : State} {j : JobRef} {x : Job} (h : OpRuns s j 0xF021 x) (hx : s.lcc.xfer = none) (hu : s.progress 0 LCC 0 0 0 = u)
include h hx hu

theorem opCompleteTransition_decoded (hc : u.lc ≠ 0xF) : opCompleteTransition j s = u.lcFail j x stLifecycle u.lc := by
  refine (h.onOp _).trans ?_
  simp only [hx, hu, hc, ne_eq, not_false_eq_true, if_true]

theorem opCompleteTransition_burns {b : Nat} (hc : u.lc = 0xF) (hs : u.alg.stopped = false)
    (hf : 330 < u.alg.free) (hb : lcBase u.lcWords = some b) (h6 : b < 6)
    (hk : u.tokenFail x.data.inData (lcWord b) (b + 1) true false = none)
    (hw : ∀ w ∈ u.lcWords, w ||| lcWord (b + 1) = lcWord (b + 1)) :
    opCompleteTransition j s = u.beginBurn j (b + 1)
      ((List.range 60).filter (fun p => bit (lcWord (b + 1)) p && u.lcWords.any (fun w => !bit w p))) x.data.inData := by
  refine (h.onOp _).trans ?_
  have room : ¬ u.alg.free ≤ 330 := by omega
  have within : u.lcWords.any (fun w => decide (w ||| lcWord (b + 1) ≠ lcWord (b + 1))) = false :=
    List.any_eq_false.mpr (fun w hm => by simp [hw w hm])
  simp only [hx, hu, hc, hs, room, hb, hk, within, Nat.not_le.mpr h6, Bool.false_eq_true, or_self, ne_eq, not_true_eq_false, if_false]

end

/-! ### UNLOCK (R425, R432) -/

section
variable {s : State} {j : JobRef} {x : Job} (h : OpRuns s j 0xF031 x) (hx : x.failed = none)
include h hx

theorem opUnlock_notLocked (hl : s.pkg.lock = false) : opUnlock j s = s.lcFail j x stOk 0 := by
  refine (h.onOp _).trans ?_
  simp only [hx, hl, Option.isSome_none, Bool.not_false, Bool.false_eq_true, if_false, if_true]

variable (hl : s.pkg.lock = true)
include hl

theorem opUnlock_full (hf : s.alg.free ≤ 330) : opUnlock j s = s.lcFail j x stLogFull 0 := by
  refine (h.onOp _).trans ?_
  simp only [hx, hl, hf, Option.isSome_none, Bool.not_true, Bool.false_eq_true, if_false, if_true]

variable (hf : 330 < s.alg.free)
include hf

theorem opUnlock_quorumAbsent (hq : s.cards.quorum.present = false) : opUnlock j s = s.lcFail j x stQuorumAbsent 0 := by
  refine (h.onOp _).trans ?_
  simp only [hx, hl, Nat.not_le.mpr hf, hq, Option.isSome_none, Bool.not_true, Bool.not_false, Bool.false_eq_true, if_false, if_true]

variable (hq : s.cards.quorum.present = true)
include hq

theorem opUnlock_unticketed (hk : s.ticketOk x x.data.ticket = false) : opUnlock j s = s.lcFail j x stOwnerAuth 0 := by
  refine (h.onOp _).trans ?_
  simp only [hx, hl, Nat.not_le.mpr hf, hq, hk, Option.isSome_none, Bool.not_true, Bool.not_false, Bool.false_eq_true, if_false, if_true]

variable (hk : s.ticketOk x x.data.ticket = true)
include hk

theorem opUnlock_split (hp : s.splitClearable = false) : opUnlock j s = s.lcFail j x stLocked 0 := by
  refine (h.onOp _).trans ?_
  simp only [hx, hl, Nat.not_le.mpr hf, hq, hk, hp, Option.isSome_none, Bool.not_true, Bool.not_false, Bool.false_eq_true, if_false, if_true]

variable (hp : s.splitClearable = true)
include hp

theorem opUnlock_blocked {c : Nat} (hb : s.blockingClass = some c) : opUnlock j s = s.lcFail j x stLocked c := by
  refine (h.onOp _).trans ?_
  simp only [hx, hl, Nat.not_le.mpr hf, hq, hk, hp, hb, Option.isSome_none, Bool.not_true, Bool.false_eq_true, if_false]

theorem opUnlock_commits (hb : s.blockingClass = none) : opUnlock j s = s.commitFree j x (fun t => t.unlock.custodial) := by
  refine (h.onOp _).trans ?_
  simp only [hx, hl, Nat.not_le.mpr hf, hq, hk, hp, hb, Option.isSome_none, Bool.not_true, Bool.false_eq_true, if_false]

end

/-! ### SEAL_CANDIDATE (R152) -/

section
variable {s : State} {j : JobRef} {x : Job} {e : FlashEnd} (h : OpRuns s j 0xF010 x) (hm : ((s.pageStep j.die j.job KVD 0 1 3).die 0).mha.state ≠ .open_)
include h hm

theorem opSealCandidate_untyped (ht : ((s.pageStep j.die j.job KVD 0 1 3).bfi.entries.getD (x.sqe.par 0 4) ⟨0, 0, 0, 0⟩).type ≠ 6) :
    opSealCandidate j e s = (s.pageStep j.die j.job KVD 0 1 3).lcFail j x stKeyAuth 0 := by
  refine (h.onOp _).trans ?_
  simp only [hm, ht, ne_eq, not_false_eq_true, if_false, if_true]

variable (ht : ((s.pageStep j.die j.job KVD 0 1 3).bfi.entries.getD (x.sqe.par 0 4) ⟨0, 0, 0, 0⟩).type = 6)
include ht

theorem opSealCandidate_unverified (hk : ((s.pageStep j.die j.job KVD 0 1 3).pageStep j.die j.job KVD 0 2 3).candidate e = none) :
    opSealCandidate j e s = ((s.pageStep j.die j.job KVD 0 1 3).pageStep j.die j.job KVD 0 2 3).lcFail j x stKeyAuth 0 := by
  refine (h.onOp _).trans ?_
  simp only [hm, ht, hk, ne_eq, not_true_eq_false, if_false]

end

/-- Settles O55: each job by the first of its checks that fails, and by its effect where none does. -/
theorem lifecycleJobs : Obligations.LifecycleJobs := by
  unfold Obligations.LifecycleJobs
  intro s j x
  dsimp only
  refine ⟨fun origin target owner more hf => State.tokenFail_none hf, fun h => ?transition, fun bs i k => rfl, fun h hx => ?complete, fun h hs => ?zeroise, fun h => ?unlock,
    ⟨rfl, rfl, rfl⟩, fun e der h hm hd => ?candidate, fun h hb hs => ?drain⟩
  case transition =>
    refine ⟨fun t hx hj => lcFail_fails (congrArg ret (opLcTransition_second h hx hj)), fun hx => ⟨fun hl => lcFail_fails (congrArg ret (opLcTransition_locked h hx rfl hl)),
      fun hl ht => lcFail_fails (congrArg ret (opLcTransition_badTarget h hx rfl hl ht)), fun hl ht hs hf => ?authorised⟩⟩
    have steps := opLcTransition_steps h hx rfl hl ht hs hf
    have fails {st : W16} {detail : Nat} (hne : x.sqe.par 0 4 ≠ (s.progress 0 LCC 0 0 0).lc)
        (step : (s.progress 0 LCC 0 0 0).lcStep j x (x.sqe.par 0 4) = (s.progress 0 LCC 0 0 0).lcFail j x st detail) :=
      lcFail_fails (c := .lcTransition j) (congrArg ret ((steps hne).trans step))
    have goesOn {t : State} (hne : x.sqe.par 0 4 ≠ (s.progress 0 LCC 0 0 0).lc) (step : (s.progress 0 LCC 0 0 0).lcStep j x (x.sqe.par 0 4) = t) :
        exec (.lcTransition j) s = ret t := congrArg ret ((steps hne).trans step)
    refine ⟨fun he hq hk _ hr => ?renews,
      fun hne h6 => ⟨fun f hk => fails hne (State.lcStep_scrap_refused h6 hk), fun hk => goesOn hne (State.lcStep_scrap_burns h6 hk)⟩,
      fun hne h2 => ⟨fun f hk => fails hne (State.lcStep_personalise_refused h2 hk),
        fun hk => ⟨fun ho => fails hne (State.lcStep_personalise_stranger h2 hk ho), fun ho => goesOn hne (State.lcStep_personalise_burns h2 hk ho)⟩⟩,
      fun hne h3 => ⟨fun f hk => fails hne (State.lcStep_provision_refused h3 hk), fun hk => goesOn hne (State.lcStep_provision_awaits h3 hk)⟩,
      fun hne h45 => ⟨fun hq => fails hne (State.lcStep_quorumAbsent h45 hq), fun hq hk => fails hne (State.lcStep_unticketed h45 hq hk),
        fun hq hk => goesOn hne (State.lcStep_custodians_burn h45 hq hk)⟩⟩
    exact h.commitsFree (change := fun t => t.renew.custodial) (h.managerRecorded (by decide) (by decide)) (s.sameEntries_progress ..) hs (.inr hr)
      (congrArg ret (opLcTransition_renews h hx rfl hl ht hs hf he hq hk))
  case complete =>
    exact ⟨fun hc => lcFail_fails (congrArg ret (opCompleteTransition_decoded h hx rfl hc)),
      fun b hc hs hf hb h6 hk hw => congrArg ret (opCompleteTransition_burns h hx rfl hc hs hf hb h6 hk hw)⟩
  case zeroise =>
    exact h.commitsFree (change := fun t => t.zeroiseAll.progress 0 KVD 0 4 1000) (h.managerRecorded (by decide) (by decide)) (s.sameEntries_pageStep ..)
      ((congrArg Alg.stopped (s.pageStep_alg ..)).trans hs) (.inl h.zeroise_isChange) (congrArg ret (h.onOp _))
  case unlock =>
    refine ⟨fun hx => lcFail_fails (congrArg ret ((h.onOp _).trans (if_pos hx))), fun hx hl => lcFail_fails (congrArg ret (opUnlock_notLocked h hx hl)),
      fun hx hl hf => lcFail_fails (congrArg ret (opUnlock_full h hx hl hf)), fun hx hl hf =>
      ⟨fun hq => lcFail_fails (congrArg ret (opUnlock_quorumAbsent h hx hl hf hq)), fun hq hk => lcFail_fails (congrArg ret (opUnlock_unticketed h hx hl hf hq hk)),
        fun hq hk => ⟨fun hp => lcFail_fails (congrArg ret (opUnlock_split h hx hl hf hq hk hp)),
          fun c hp hb => lcFail_fails (congrArg ret (opUnlock_blocked h hx hl hf hq hk hp hb)),
          fun hp hb hs hr => h.commitsFree (change := fun t => t.unlock.custodial) (h.managerRecorded (by decide) (by decide)) ⟨fun _ => rfl⟩ hs (.inr hr)
            (congrArg ret (opUnlock_commits h hx hl hf hq hk hp hb))⟩⟩⟩
  case candidate =>
    refine ⟨fun ht => lcFail_fails (congrArg ret (opSealCandidate_untyped h hm ht)), fun ht hn => lcFail_fails (congrArg ret (opSealCandidate_unverified h hm ht hn)),
      fun fw set svn ht hk hv => ?stores⟩
    have measured : s.SameEntries ((((s.pageStep j.die j.job KVD 0 1 3).pageStep j.die j.job KVD 0 2 3).measures 0 (packagesOf e 0)).pageStep j.die j.job KVD 0 3 3) :=
      (((s.sameEntries_pageStep ..).trans (State.sameEntries_pageStep ..)).trans (State.sameEntries_measures ..)).trans (State.sameEntries_pageStep ..)
    refine h.commitsFrom (h.managerRecorded (by decide) (by decide)) measured rfl ?_
    simp only [hm, ht, hk, hd, hv, ne_eq, not_true_eq_false, if_false]
  case drain =>
    refine ⟨_, (s.pageStep j.die j.job ALG s.algDie 1 1024).opPs_le x anyTime, congrArg ret ((h.onOp _).trans ?_)⟩
    simp only [hb, hs, Bool.false_eq_true, if_false]

end Sys2Proof.Machine

/-! PROOF. The instruction word of the LVE: decoding what was encoded (R197). -/

namespace Sys2Proof

/-- The fields of an encoded word are those that it was made of: below each field the others are cut off. -/
theorem lveFields_encode (o : LveOp) (f : LveFields) : lveFields (lveEncode o f) = f := by
  obtain ⟨d, a, b, km, men, sub, imm⟩ := f
  simp only [lveFields, lveEncode, LveFields.mk.injEq]
  refine ⟨?d, ?a, ?b, ?km, ?men, ?sub, ?imm⟩
  case men =>
    simp only [BitVec.getLsbD_append]
    simp
  all_goals
    repeat rw [BitVec.extractLsb'_append_eq_of_le (by decide)]
    exact BitVec.extractLsb'_append_eq_right

/-- The reserved bits of an encoded word are clear. -/
theorem lveEncode_reserved (o : LveOp) (f : LveFields) : (lveEncode o f).extractLsb' 32 5 = 0 := by
  unfold lveEncode
  repeat rw [BitVec.extractLsb'_append_eq_of_le (by decide)]
  exact BitVec.extractLsb'_append_eq_right

/-- Its top byte is the major opcode. -/
theorem lveEncode_opcode (o : LveOp) (f : LveFields) : (lveEncode o f).toNat / 2 ^ 56 = o.enc.op := by
  have top : (lveEncode o f).extractLsb' 56 8 = BitVec.ofNat 8 o.enc.op := by
    unfold lveEncode
    repeat rw [BitVec.extractLsb'_append_eq_of_le (by decide)]
    exact BitVec.extractLsb'_eq_self
  have op_lt : o.enc.op < 2 ^ 8 := by cases o <;> decide
  have e := congrArg BitVec.toNat top
  have := (lveEncode o f).isLt
  simp only [BitVec.extractLsb'_toNat, BitVec.toNat_ofNat, Nat.shiftRight_eq_div_pow] at e
  omega

theorem LveOp.mem_all (o : LveOp) : o ∈ LveOp.all := by cases o <;> decide

/-- Two rows of the encoding tables that share a major opcode differ in a SUB bit that both fix. -/
def LveOp.apart (o p : LveOp) : Bool :=
  o == p || decide (o.enc.op ≠ p.enc.op) || (o.enc.subVal &&& p.enc.subMask) != (p.enc.subVal &&& o.enc.subMask)

theorem LveOp.all_apart : LveOp.all.all (fun o => LveOp.all.all o.apart) = true := by decide +kernel

/-- The major opcode and SUB name one instruction. -/
theorem LveOp.eq_of_sub {o p : LveOp} {sub : BitVec 8} (hop : p.enc.op = o.enc.op) (ho : sub &&& o.enc.subMask = o.enc.subVal)
    (hp : sub &&& p.enc.subMask = p.enc.subVal) : p = o := by
  have h := List.all_eq_true.mp (List.all_eq_true.mp LveOp.all_apart p p.mem_all) o o.mem_all
  have same : p.enc.subVal &&& o.enc.subMask = o.enc.subVal &&& p.enc.subMask := by
    rw [← ho, ← hp]
    ac_rfl
  simpa [LveOp.apart, hop, same] using h

/-- The instruction that an encoded word names, where SUB is what its row fixes. -/
theorem lveOpOf_encode {o : LveOp} {f : LveFields} (h : f.sub &&& o.enc.subMask = o.enc.subVal) : lveOpOf (lveEncode o f) = some o := by
  have sub : (lveEncode o f).extractLsb' 24 8 = f.sub := congrArg LveFields.sub (lveFields_encode o f)
  unfold lveOpOf
  rw [lveEncode_opcode, sub]
  cases found : LveOp.all.find? (fun p => decide (p.enc.op = o.enc.op) && (f.sub &&& p.enc.subMask) == p.enc.subVal) with
  | none => exact absurd (List.find?_eq_none.mp found o o.mem_all) (by simp [h])
  | some p =>
    obtain ⟨hop, hp⟩ : p.enc.op = o.enc.op ∧ f.sub &&& p.enc.subMask = p.enc.subVal := by simpa using List.find?_some found
    rw [LveOp.eq_of_sub hop h hp]

/-- SUB of a valid word is what its row fixes. -/
theorem LveOp.valid_sub {o : LveOp} {f : LveFields} (h : o.valid f = true) : f.sub &&& o.enc.subMask = o.enc.subVal := by
  simp only [LveOp.valid, Bool.and_eq_true, beq_iff_eq] at h
  exact h.1.2

/-- Settles O15: the decoder finds the row that the major opcode and SUB name, and reads every field back. -/
theorem lveDecodeEncode : Obligations.LveDecodeEncode := by
  unfold Obligations.LveDecodeEncode
  intro o f h
  simp only [lveDecode, lveEncode_reserved, lveOpOf_encode (LveOp.valid_sub h), lveFields_encode, h, if_true]

end Sys2Proof

/-! PROOF. Control, scalar and loop instructions of the LVE, and the words that never run. -/

namespace Sys2Proof.Machine

/-! ### Running one instruction by its effect -/

/-- An instruction whose effect answers, where `pre` holds, an engine that `eff` describes, does that (R212). -/
theorem lveDoes_of_effect (o : LveOp) {pre : LveFields → Lve → Prop} {eff : LveFields → Lve → Lve → Prop}
    (h : ∀ s r f l, o.valid f = true → pre f l → ∃ l', o.effect s r f l = some l' ∧ eff f l l')
    (h1 : o ≠ .lend := by decide) (h2 : o ≠ .loop := by decide) (h3 : o ≠ .loopi := by decide) : LveDoes o o.instr pre eff := by
  intro s r f u runs hp
  obtain ⟨l', hl, he⟩ := h s r f u.eng runs.valid hp
  exact ⟨l', he, (exec_instr s o r f h1 h2 h3).trans (runs.exec hl)⟩

/-! ### Control and scalar instructions (R190, R199) -/

/-- The operation codes of SJR are those of the rule. -/
theorem LveOp.valid_range {o : LveOp} {f : LveFields} (h : o.valid f = true) : o.rangeOk f = true := by
  simp only [LveOp.valid, Bool.and_eq_true] at h
  exact h.2

/-- VSETTYPE lowers VL to the new VLMAX. -/
theorem sewOf_truncate (imm : BitVec 24) : sewOf (imm.truncate 4) = 8 * 2 ^ (imm.toNat % 4) := by
  have : imm.toNat % 16 % 4 = imm.toNat % 4 := by omega
  simp [sewOf, this]

/-- Settles O2: each effect is the model's own, SETVL's minimum and SETOUT's bound written out. -/
theorem lveScalarAndControl : Obligations.LveScalarAndControl := by
  unfold Obligations.LveScalarAndControl
  refine ⟨lveDoes_of_effect .nop ?nop, lveDoes_of_effect .setvl ?setvl, lveDoes_of_effect .vsettype ?vsettype, lveDoes_of_effect .vsetmod ?vsetmod,
    lveDoes_of_effect .setout ?setout, lveDoes_of_effect .sli ?sli, lveDoes_of_effect .salu ?salu, lveDoes_of_effect .salui ?salui, lveDoes_of_effect .sjr ?sjr⟩
  case nop => exact fun s r f l _ _ => ⟨l, rfl, rfl⟩
  case vsetmod => exact fun s r f l _ _ => ⟨_, rfl, rfl⟩
  case sli => exact fun s r f l _ _ => ⟨_, rfl, rfl⟩
  case salu => exact fun s r f l _ _ => ⟨_, rfl, rfl⟩
  case salui => exact fun s r f l _ _ => ⟨_, rfl, rfl⟩
  case setvl =>
    intro s r f l _ _
    refine ⟨_, rfl, ?_⟩
    simp only [Nat.min_def]
  case vsettype =>
    intro s r f l _ ok
    refine ⟨_, if_pos ok, ?_⟩
    rw [sewOf_truncate]
  case setout =>
    intro s r f l _ ⟨hcap, hreg⟩
    refine ⟨_, if_pos (le_min hcap hreg), ?_⟩
    rw [BitVec.truncate_eq_setWidth, BitVec.ofNat_toNat]
  case sjr =>
    intro s r f l _ _
    refine ⟨_, rfl, _, rfl, ?_⟩
    refine ⟨?_, ?_, ?_, ?_, ?_, ?_, ?_, ?_, ?_, ?_, ?_, ?_, ?_, ?_⟩ <;> (intro h; rw [h]; rfl)

/-! ### Loops (R199, R226) -/

/-- A loop instruction that runs enters its body, or passes it by. -/
theorem LveRuns.loops {s : State} {o : LveOp} {r : LveRef} {f : LveFields} {u : LveUnit} (h : LveRuns s o r f u) (len count : Lve → Nat) :
    lveLoopExec o r f s len count = .next (s.setEng r (u.eng.enterLoop (len u.eng) (count u.eng))) := by
  unfold lveLoopExec
  simp [h.unit, h.valid, h.next, h.unstruck, h.temps, State.lveFinish, h.calm]

/-- What entering a loop leaves: the body's first instruction under a new frame, or with count 0 the instruction after the body. -/
theorem Lve.enterLoop_eq (l : Lve) (len n : Nat) : ∃ pc loops,
    l.enterLoop len n = { l with seq := { l.seq with pc := pc, loops := loops, counts := l.seq.counts.add loopWords } } ∧
    (0 < n → pc = l.seq.pc + 1 ∧ loops = ⟨l.seq.pc + 1, l.seq.pc + len, n⟩ :: l.seq.loops) ∧
    (n = 0 → (pc, loops) = nextPc l.seq.loops (l.seq.pc + len)) := by
  by_cases hn : n = 0
  · exact ⟨_, _, if_pos hn, fun h => absurd hn (Nat.pos_iff_ne_zero.mp h), fun _ => rfl⟩
  · exact ⟨_, _, if_neg hn, fun _ => ⟨rfl, rfl⟩, fun h => absurd h hn⟩

/-- Settles O3: both loops enter their body by `enterLoop`, with the count that each reads. -/
theorem lveLoops : Obligations.LveLoops := by
  unfold Obligations.LveLoops
  intro s r f u len n c o form runs
  have enters : exec c s = .next (s.setEng r (u.eng.enterLoop len n)) := by
    rcases form with ⟨rfl, rfl, rfl, rfl⟩ | ⟨rfl, rfl, rfl, rfl⟩
    · exact runs.loops (fun _ => bits f.imm 0 12) (fun l => bits (l.sr f.a.toNat) 0 32)
    · have count : bits f.imm32 12 20 = (f.sub ++ f.imm).toNat / 4096 := by
        have := (f.sub ++ f.imm).isLt
        simp only [bits, LveFields.imm32, Nat.shiftRight_eq_div_pow]
        omega
      rw [← count]
      exact runs.loops (fun _ => bits f.imm32 0 12) (fun _ => bits f.imm32 12 20)
  obtain ⟨pc, loops, entered, body, past⟩ := u.eng.enterLoop_eq len n
  exact ⟨pc, loops, entered ▸ enters, body, past⟩

/-! ### Words that never run (R189, R197, R198) -/

/-- An answer that stops on an engine that the part does not have and on a word that is not valid, and leaves the state where another word is next. -/
structure StopsUnrun (s : State) (o : LveOp) (r : LveRef) (f : LveFields) (answer : Host.Outcome State Fault Refusal) : Prop where
  noUnit : s.lve? r = none → answer = .fault .noSuchUnit
  badWord : (s.lve? r).isSome = true → o.valid f = false → answer = .refused .invalidInstruction
  elsewhere : ∀ u, s.lve? r = some u → o.valid f = true → o ≠ .lend → u.executes o f = false → r.upset = .none → answer = .next s

/-- An engine without an upset that does not execute an instruction is left as it is. -/
theorem State.lveIdle_calm {r : LveRef} (h : r.upset = .none) (s : State) (u : LveUnit) : s.lveIdle r u = .next s := by
  simp [State.lveIdle, h]

theorem stopsUnrun_lveExec (s : State) (o : LveOp) (r : LveRef) (f : LveFields) (eff : Lve → Option Lve) : StopsUnrun s o r f (lveExec o r f s eff) where
  noUnit h := by simp [lveExec, h]
  badWord h hv := by
    obtain ⟨u, hu⟩ := Option.isSome_iff_exists.mp h
    simp [lveExec, hu, hv]
  elsewhere u hu hv _ he hc := by simp [lveExec, hu, hv, he, State.lveIdle_calm hc]

theorem stopsUnrun_lveLoopExec (s : State) (o : LveOp) (r : LveRef) (f : LveFields) (len count : Lve → Nat) :
    StopsUnrun s o r f (lveLoopExec o r f s len count) where
  noUnit h := by simp [lveLoopExec, h]
  badWord h hv := by
    obtain ⟨u, hu⟩ := Option.isSome_iff_exists.mp h
    simp [lveLoopExec, hu, hv]
  elsewhere u hu hv _ he hc := by simp [lveLoopExec, hu, hv, he, State.lveIdle_calm hc]

theorem stopsUnrun_execLend (s : State) (r : LveRef) (f : LveFields) : StopsUnrun s .lend r f (execLend r f s) where
  noUnit h := by simp [execLend, h]
  badWord h hv := by
    obtain ⟨u, hu⟩ := Option.isSome_iff_exists.mp h
    simp [execLend, hu, hv]
  elsewhere _ _ _ h := absurd rfl h

theorem stopsUnrun_exec (s : State) (o : LveOp) (r : LveRef) (f : LveFields) : StopsUnrun s o r f (exec (o.instr r f) s) := by
  by_cases h1 : o = .lend
  · subst h1
    exact stopsUnrun_execLend s r f
  by_cases h2 : o = .loop
  · subst h2
    exact stopsUnrun_lveLoopExec s .loop r f (fun _ => bits f.imm 0 12) (fun l => bits (l.sr f.a.toNat) 0 32)
  by_cases h3 : o = .loopi
  · subst h3
    exact stopsUnrun_lveLoopExec s .loopi r f (fun _ => bits f.imm32 0 12) (fun _ => bits f.imm32 12 20)
  rw [exec_instr s o r f h1 h2 h3]
  exact stopsUnrun_lveExec s o r f _

section
variable {l : Lve} (h : l.modOk = false) (f : LveFields)
include h

theorem lveMod1_modless (g : Nat → Nat → Nat) : lveMod1 f l g = none := if_neg (by simp [h])

theorem lveMod2_modless (q : Nat) (g k : Nat → Nat) : lveMod2 q f l g k = none := if_neg (by simp [h])

/-- A modular instruction has no effect without a modulus in force (R189). -/
theorem LveOp.effect_modless {o : LveOp} (s : State) (r : LveRef)
    (ho : o ∈ [LveOp.madd, .msub, .mneg, .mred, .mmont, .mbar, .tomont, .cmpr, .dcmpr, .p2r, .decomp, .vbfly, .vbmul, .amont]) : o.effect s r f l = none := by
  simp only [List.mem_cons, List.not_mem_nil, or_false] at ho
  rcases ho with rfl | rfl | rfl | rfl | rfl | rfl | rfl | rfl | rfl | rfl | rfl | rfl | rfl | rfl <;>
    simp [LveOp.effect, lveMadd, lveMsub, lveMneg, lveMred, lveMmont, lveMbar, lveTomont, lveCmpr, lveDcmpr, lveP2r, lveDecomp, lveVbfly, lveVbmul, lveAmont,
      lveMod1_modless h, lveMod2_modless h, h]

end

/-- Settles O14: what runs nothing stops before its effect, and a modular instruction without a modulus has none. -/
theorem lveStops : Obligations.LveStops := by
  unfold Obligations.LveStops
  refine ⟨fun s o r f => ?stops, fun s o r f u ho runs hm => ?modless⟩
  case stops =>
    have h := stopsUnrun_exec s o r f
    exact ⟨h.noUnit, h.badWord, h.elsewhere⟩
  case modless =>
    have apart : o ≠ .lend ∧ o ≠ .loop ∧ o ≠ .loopi := by
      refine ⟨?_, ?_, ?_⟩ <;> (rintro rfl; simp at ho)
    obtain ⟨h1, h2, h3⟩ := apart
    rw [exec_instr s o r f h1 h2 h3]
    exact runs.invalid (LveOp.effect_modless hm f s r ho)

end Sys2Proof.Machine

/-! PROOF. Integer, compare, mask, merge and accept instructions of the LVE. -/

namespace Sys2Proof.Machine

/-! ### Elements and operands -/

/-- One register whose active elements are replaced (R191). -/
theorem Lve.setsD_mapActive (l : Lve) (f : LveFields) (g : Nat → Nat) {p : Nat → Nat → Prop}
    (h : ∀ i, i < l.vlmax → l.active f i = true → p i (g i % 2 ^ l.sew)) : l.SetsD f (l.setV f.d.toNat (l.mapActive f f.d.toNat g)) p :=
  ⟨_, l.holds_mapActive f _ g p h, rfl⟩

theorem Lve.elA_lt (l : Lve) (f : LveFields) (i : Nat) : l.elA f i < 2 ^ l.sew := elemN_lt ..

theorem Lve.elB_lt (l : Lve) (f : LveFields) (i : Nat) : l.elB f i < 2 ^ l.sew := elemN_lt ..

theorem Lve.opB_lt (l : Lve) (f : LveFields) (i : Nat) : l.opB f i < 2 ^ l.sew := by
  have pos : 0 < 2 ^ l.sew := by positivity
  unfold Lve.opB
  split
  · exact l.elB_lt f i
  · split <;> exact Nat.mod_lt _ pos

theorem Lve.sew_pos (l : Lve) : 0 < l.sew := by
  rcases l.sew_cases with h | h | h | h <;> omega

/-! ### VALU (R201) -/

/-- A signed number of `w` bits is the value of its element. -/
theorem toSigned_ofSigned {w : Nat} (hw : 0 < w) {x : Int} (lo : -2 ^ (w - 1) ≤ x) (hi : x < 2 ^ (w - 1)) : toSigned w (ofSigned w x % 2 ^ w) = x := by
  obtain ⟨n, rfl⟩ : ∃ n, w = n + 1 := ⟨w - 1, by omega⟩
  have cast : (2 : Int) ^ n = (2 ^ n : Nat) := by push_cast; rfl
  simp only [toSigned, ofSigned, Nat.add_sub_cancel, pow_succ, cast] at lo hi ⊢
  generalize 2 ^ n = m at *
  by_cases neg : x < 0
  · have wraps : x % (m * 2 : Int) = x + m * 2 := by
      rw [← Int.add_mul_emod_self_left x (m * 2) 1, Int.emod_eq_of_lt] <;> omega
    rw [wraps, Nat.mod_eq_of_lt (by omega), if_neg (by omega)]
    omega
  · have stays : x % (m * 2 : Int) = x := Int.emod_eq_of_lt (by omega) (by omega)
    rw [stays, Nat.mod_eq_of_lt (by omega), if_pos (by omega)]
    omega

/-- The range of a signed element. -/
theorem toSigned_range {w a : Nat} (hw : 0 < w) (ha : a < 2 ^ w) : -2 ^ (w - 1) ≤ toSigned w a ∧ toSigned w a < 2 ^ (w - 1) := by
  obtain ⟨n, rfl⟩ : ∃ n, w = n + 1 := ⟨w - 1, by omega⟩
  have cast : ((2 ^ n : Nat) : Int) = 2 ^ n := by push_cast; rfl
  have double : (2 : Int) ^ (n + 1) = 2 * 2 ^ n := by rw [pow_succ]; ring
  simp only [toSigned, Nat.add_sub_cancel]
  rw [double, ← cast]
  rw [pow_succ] at ha
  split <;> omega

theorem toSigned_div_range {w a : Nat} (hw : 0 < w) (ha : a < 2 ^ w) (k : Nat) :
    -2 ^ (w - 1) ≤ toSigned w a / 2 ^ k ∧ toSigned w a / 2 ^ k < 2 ^ (w - 1) := by
  obtain ⟨lo, hi⟩ := toSigned_range hw ha
  have pos : (0 : Int) < 2 ^ k := by positivity
  have one : (1 : Int) ≤ 2 ^ k := pos
  have top : (0 : Int) < 2 ^ (w - 1) := by positivity
  constructor
  · rw [Int.le_ediv_iff_mul_le pos]
    nlinarith
  · rw [Int.ediv_lt_iff_lt_mul pos]
    nlinarith

/-- The element that VALU writes is a result of its operation. -/
theorem valuResult_valuOp {w a b : Nat} (op : Nat) (hw : 0 < w) (ha : a < 2 ^ w) (hb : b < 2 ^ w) : ValuResult w op a b (valuOp w op a b % 2 ^ w) := by
  have pos : 0 < 2 ^ w := by positivity
  have above : ∀ {x k : Nat}, x < 2 ^ w → ¬ k < w → x.testBit k = false := fun hx hk =>
    Nat.testBit_lt_two_pow (Nat.lt_of_lt_of_le hx (Nat.pow_le_pow_right (by decide) (Nat.le_of_not_lt hk)))
  match op with
  | 0x00 => rfl
  | 0x01 =>
    simp only [ValuResult, valuOp, Nat.mod_eq_of_lt hb, Nat.mod_add_mod]
    rw [show a + (2 ^ w - b) + b = a + 2 ^ w by omega, Nat.add_mod_right, Nat.mod_eq_of_lt ha]
  | 0x02 =>
    intro k
    by_cases hk : k < w <;> simp [valuOp, Nat.testBit_mod_two_pow, hk, above ha]
  | 0x03 =>
    intro k
    by_cases hk : k < w <;> simp [valuOp, Nat.testBit_mod_two_pow, hk, above ha, above hb]
  | 0x04 =>
    intro k
    by_cases hk : k < w <;> simp [valuOp, Nat.testBit_mod_two_pow, hk, above ha, above hb]
  | 0x05 =>
    intro k
    have flip : (2 ^ w - 1 - b).testBit k = (decide (k < w) && !b.testBit k) := by
      rw [Nat.sub_sub, Nat.add_comm 1, Nat.testBit_two_pow_sub_succ hb]
    by_cases hk : k < w <;> simp [valuOp, Nat.testBit_mod_two_pow, hk, above ha, Nat.mod_eq_of_lt hb, flip]
  | 0x06 => simp only [ValuResult, valuOp, Nat.shiftLeft_eq]
  | 0x07 =>
    simp only [ValuResult, valuOp, Nat.shiftRight_eq_div_pow]
    exact Nat.mod_eq_of_lt (Nat.lt_of_le_of_lt (Nat.div_le_self ..) ha)
  | 0x08 =>
    obtain ⟨lo, hi⟩ := toSigned_div_range hw ha (b % w)
    exact toSigned_ofSigned hw lo hi
  | 0x09 => rfl
  | 0x0A => exact Nat.mod_eq_of_lt (Nat.div_lt_of_lt_mul (Nat.mul_lt_mul'' ha hb))
  | 0x0B => exact Nat.mod_eq_of_lt (Nat.lt_of_le_of_lt (Nat.min_le_left ..) ha)
  | 0x0C => exact Nat.mod_eq_of_lt (Nat.max_lt.mpr ⟨ha, hb⟩)
  | 0x0D =>
    obtain ⟨loA, hiA⟩ := toSigned_range hw ha
    obtain ⟨loB, hiB⟩ := toSigned_range hw hb
    exact toSigned_ofSigned hw (le_min loA loB) (min_lt_of_left_lt hiA)
  | 0x0E =>
    obtain ⟨loA, hiA⟩ := toSigned_range hw ha
    obtain ⟨loB, hiB⟩ := toSigned_range hw hb
    exact toSigned_ofSigned hw (le_max_of_le_left loA) (max_lt hiA hiB)
  | _ + 15 => trivial

/-! ### VCMP, MALU and VACCEPT (R199, R201) -/

/-- The condition that VCMP computes is that of the rule. -/
theorem vcmpCond_iff (w a b : Nat) {c : Nat} (hc : c < 8) : vcmpCond w c a b = true ↔ VcmpHolds w c a b := by
  interval_cases c <;> simp [vcmpCond, VcmpHolds]

/-- A word of VCMP has bit 3 of SUB clear. -/
theorem vcmp_code : ∀ sub : BitVec 8, sub &&& 0x38 = 0 → sub.toNat % 16 = sub.toNat % 8 := by decide

/-- VACCEPT clears ACCEPT where a mask bit below VL is set, and leaves it otherwise. -/
theorem lveVaccept_eq (f : LveFields) (l : Lve) : ∃ a, lveVaccept f l = some { l with core := { l.core with accept := a } } ∧
    (a = true ↔ l.core.accept = true ∧ ∀ i, i < l.core.vl → bit (l.mr f.a.toNat) i = false) := by
  unfold lveVaccept
  split
  next some_set =>
    obtain ⟨i, hi, hb⟩ : ∃ i, i < l.core.vl ∧ bit (l.mr f.a.toNat) i = true := by simpa using some_set
    exact ⟨false, rfl, by simp only [Bool.false_eq_true, false_iff]; exact fun h => by simpa [hb] using h.2 i hi⟩
  next none_set =>
    have clear : ∀ i, i < l.core.vl → bit (l.mr f.a.toNat) i = false := by simpa using none_set
    exact ⟨l.core.accept, rfl, fun h => ⟨h, clear⟩, fun h => h.1⟩

/-- Settles O1: each result by the lemma about its operation; the frames are those of one register written. -/
theorem lveIntegerAndMask : Obligations.LveIntegerAndMask := by
  unfold Obligations.LveIntegerAndMask
  refine ⟨lveDoes_of_effect .valu ?valu, lveDoes_of_effect .vcmp ?vcmp, lveDoes_of_effect .malu ?malu, lveDoes_of_effect .vmerge ?vmerge,
    lveDoes_of_effect .vaccept ?vaccept⟩
  case valu => exact fun s r f l _ _ => ⟨_, rfl, l.setsD_mapActive f _ (fun i _ _ => valuResult_valuOp _ l.sew_pos (l.elA_lt f i) (l.opB_lt f i))⟩
  case vcmp =>
    intro s r f l valid _
    have code : f.sub.toNat % 16 = f.sub.toNat % 8 := vcmp_code _ (LveOp.valid_sub valid)
    refine ⟨_, rfl, _, rfl, fun i hi => ?_⟩
    rw [bit_packMask _ _ hi, code]
    split
    · exact vcmpCond_iff _ _ _ (Nat.mod_lt _ (by decide))
    · rfl
  case malu =>
    intro s r f l _ _
    refine ⟨_, rfl, _, rfl, fun i hi => ?_⟩
    refine ⟨?_, ?_, ?_, ?_, ?_, ?_, ?_⟩ <;> (intro h; simp [h, bit, hi, -BitVec.reduceAllOnes])
  case vmerge =>
    intro s r f l _ _
    refine ⟨_, rfl, _, rfl, fun i hi => ?_⟩
    rw [l.elem_pack _ i hi, Nat.mod_eq_of_lt]
    split
    · split
      · exact l.elB_lt f i
      · exact l.elA_lt f i
    · exact elemN_lt ..
  case vaccept =>
    intro s r f l _ _
    obtain ⟨a, he, ha⟩ := lveVaccept_eq f l
    exact ⟨_, he, a, rfl, ha⟩

end Sys2Proof.Machine

/-! PROOF. Modular and rounding instructions of the LVE. -/

namespace Sys2Proof.Machine

/-! ### The modulus in force (R189) -/

/-- A modulus in force has elements of 16 or 32 bits. -/
theorem Lve.modOk_sew {l : Lve} (h : l.modOk = true) : l.sew = 16 ∨ l.sew = 32 := by
  have range := l.core.vtype.isLt
  simp only [Lve.modOk, vtypeOk, Bool.and_eq_true, decide_eq_true_eq] at h
  obtain ⟨some_mod, ok⟩ := h
  change l.core.vtype.toNat / 4 ≠ 0 at some_mod
  have : l.core.vtype.toNat / 4 = 1 ∨ l.core.vtype.toNat / 4 = 2 ∨ l.core.vtype.toNat / 4 = 3 := by omega
  rcases this with h | h | h <;> simp only [h, beq_iff_eq, Bool.or_eq_true, Bool.and_eq_true] at ok
  · exact .inl ok
  · exact .inr ok
  · exact ok.imp And.left And.left

/-- A modulus that the manual gives is odd, at least 3, and fits in an element. -/
theorem Lve.modKnown_range {l : Lve} (h : l.modKnown) : l.modulus % 2 = 1 ∧ 3 ≤ l.modulus ∧ l.modulus < 2 ^ l.sew := by
  obtain ⟨ok, given⟩ := h
  have range := l.core.vtype.isLt
  simp only [Lve.modOk, vtypeOk, Bool.and_eq_true, decide_eq_true_eq] at ok
  obtain ⟨some_mod, ok⟩ := ok
  have : l.core.vtype.toNat / 4 = 1 ∨ l.core.vtype.toNat / 4 = 2 ∨ l.core.vtype.toNat / 4 = 3 := by omega
  rcases this with h | h | h <;> simp only [h, beq_iff_eq, Bool.or_eq_true, Bool.and_eq_true, decide_eq_true_eq] at ok
  · have sew : l.sew = 16 := ok
    simp [Lve.modulus, h, sew]
  · have sew : l.sew = 32 := ok
    simp [Lve.modulus, h, sew]
  · obtain ⟨odd, least⟩ := given h
    have loaded : l.modulus = l.core.lmod.toNat := by
      have : l.core.lmod ≠ 0 := fun e => by simp [e] at odd
      simp only [Lve.modulus, h, this, if_false]
    rw [loaded]
    refine ⟨odd, least, ?_⟩
    rcases ok with ⟨sew, below⟩ | ⟨sew, below⟩
    · have sew : l.sew = 16 := sew
      rw [sew]
      omega
    · have sew : l.sew = 32 := sew
      rw [sew]
      omega

theorem Lve.modulus_pos {l : Lve} (h : l.modKnown) : 0 < l.modulus := by
  obtain ⟨-, least, -⟩ := l.modKnown_range h
  omega

/-- A residue of the modulus in force fits in an element. -/
theorem Lve.mod_modulus_lt {l : Lve} (h : l.modKnown) (x : Nat) : x % l.modulus % 2 ^ l.sew = x % l.modulus := by
  obtain ⟨-, least, fits⟩ := l.modKnown_range h
  exact Nat.mod_eq_of_lt ((Nat.mod_lt _ (by omega)).trans fits)

/-! ### Arithmetic of residues -/

/-- The residue of a difference. -/
theorem mod_sub_add {q : Nat} (hq : 0 < q) (a b : Nat) : ((a + (q - b % q)) % q + b) % q = a % q := by
  have below := Nat.mod_lt b hq
  have split := Nat.div_add_mod b q
  rw [Nat.mod_add_mod]
  calc (a + (q - b % q) + b) % q = (a + q * (b / q + 1)) % q := by
        congr 1
        rw [Nat.mul_succ]
        omega
    _ = a % q := Nat.add_mul_mod_self_left ..

/-- 2^(-w) is the inverse of 2^w modulo an odd number. -/
theorem invPow2_mul {q : Nat} (odd : q % 2 = 1) (w : Nat) : invPow2 w q * 2 ^ w % q = 1 % q := by
  have half : (q + 1) / 2 * 2 = q + 1 := by omega
  rw [invPow2, Nat.mod_mul_mod, ← Nat.mul_pow, half, Nat.pow_mod, Nat.add_mod_left, ← Nat.pow_mod, one_pow]

/-- The Montgomery product is the product over 2^w (R198). -/
theorem mont_mul {q : Nat} (odd : q % 2 = 1) (w x y : Nat) : mont w q x y * 2 ^ w % q = x * y % q := by
  rw [mont, Nat.mod_mul_mod, Nat.mul_assoc, Nat.mul_mod, invPow2_mul odd, ← Nat.mul_mod, Nat.mul_one, Nat.mod_mod]

theorem mont_lt {q : Nat} (hq : 0 < q) (w x y : Nat) : mont w q x y < q := Nat.mod_lt _ hq

/-! ### Rounding (R202) -/

/-- Compress rounds 2^d ÷ q · x to the nearest whole number. -/
theorem compressD_rounds (d x : Nat) : ∃ n, compressD d x = n % 2 ^ d ∧ 2 * 3329 * n < 2 * 2 ^ d * x + 3329 ∧ 2 * 2 ^ d * x < 2 * 3329 * n + 3329 := by
  have twice : x * 2 ^ (d + 1) = 2 * (2 ^ d * x) := by ring
  have twice' : 2 * 2 ^ d * x = 2 * (2 ^ d * x) := by ring
  refine ⟨(x * 2 ^ (d + 1) + 3329) / (2 * 3329), rfl, ?_, ?_⟩ <;> rw [twice, twice'] <;> omega

/-- Decompress rounds q ÷ 2^d · y to the nearest whole number. -/
theorem decompressD_rounds (d y : Nat) :
    2 * 2 ^ d * decompressD d y ≤ 2 * 3329 * y + 2 ^ d ∧ 2 * 3329 * y < 2 * 2 ^ d * decompressD d y + 2 ^ d := by
  have twice : 2 ^ (d + 1) = 2 * 2 ^ d := by ring
  unfold decompressD
  rw [twice]
  have pos : 0 < 2 * 2 ^ d := by positivity
  have low := Nat.mul_div_le (y * 3329 * 2 + 2 ^ d) (2 * 2 ^ d)
  have high := Nat.lt_mul_div_succ (y * 3329 * 2 + 2 ^ d) pos
  rw [Nat.mul_add, Nat.mul_one] at high
  generalize 2 * 2 ^ d * ((y * 3329 * 2 + 2 ^ d) / (2 * 2 ^ d)) = z at *
  omega

/-- The low part of Power2Round, and its high part. -/
theorem p2rLow_spec (r : Nat) : (-4096 < p2rLow r ∧ p2rLow r ≤ 4096) ∧ ((((r : Int) - p2rLow r).toNat / 8192 : Nat) : Int) * 8192 + p2rLow r = r := by
  unfold p2rLow
  split <;> omega

/-- The low part of a number modulo 2γ, in (-γ, γ]. -/
def centred (γ r : Nat) : Int := if r % (2 * γ) ≤ γ then (r % (2 * γ) : Nat) else (r % (2 * γ) : Nat) - 2 * (γ : Int)

theorem centred_range {γ : Nat} (hγ : 0 < γ) (r : Nat) : -(γ : Int) < centred γ r ∧ centred γ r ≤ γ := by
  have := Nat.mod_lt r (show 0 < 2 * γ by omega)
  unfold centred
  split <;> omega

/-- Decompose by its low part: the highest class wraps to zero. -/
theorem decompose_eq {γ r : Nat} : decompose (2 * γ) r =
    if (r : Int) - centred γ r = 8380416 then (0, centred γ r - 1) else (((r : Int) - centred γ r).toNat / (2 * γ), centred γ r) := by
  have half : 2 * γ / 2 = γ := by omega
  simp only [decompose, centred, half, qDsa]
  split <;> simp 

/-- The high part of Decompose. -/
theorem centred_high {γ : Nat} (hγ : 0 < γ) (r : Nat) : ((((r : Int) - centred γ r).toNat / (2 * γ) : Nat) : Int) * (2 * γ) + centred γ r = r := by
  have below := Nat.mod_lt r (show 0 < 2 * γ by omega)
  obtain ⟨k, hk⟩ : ∃ k : Nat, (r : Int) - centred γ r = ((2 * γ * k : Nat) : Int) := by
    have parts := Nat.div_add_mod r (2 * γ)
    unfold centred
    split
    · exact ⟨r / (2 * γ), by omega⟩
    · exact ⟨r / (2 * γ) + 1, by rw [Nat.mul_succ]; omega⟩
  rw [hk, Int.toNat_natCast, Nat.mul_div_cancel_left _ (show 0 < 2 * γ by omega)]
  have : ((2 * γ * k : Nat) : Int) = k * (2 * γ) := by push_cast; ring
  omega

/-! ### The instructions (R202) -/

/-- A one-result modular instruction sets its register, where a modulus is in force. -/
theorem lveMod1_sets {f : LveFields} {l : Lve} {g : Nat → Nat → Nat} {p : Nat → Nat → Prop} (ok : l.modOk = true)
    (h : ∀ i, i < l.vlmax → l.active f i = true → p i (g (l.elA f i) (l.opB f i) % 2 ^ l.sew)) : ∃ l', lveMod1 f l g = some l' ∧ l.SetsD f l' p :=
  ⟨_, if_pos ok, l.setsD_mapActive f _ h⟩

/-- The same of one whose result is a residue of the modulus. -/
theorem lveMod1_residue {f : LveFields} {l : Lve} {g : Nat → Nat → Nat} {p : Nat → Nat → Prop} (known : l.modKnown)
    (h : ∀ i, p i (g (l.elA f i) (l.opB f i) % l.modulus)) : ∃ l', lveMod1 f l (fun a b => g a b % l.modulus) = some l' ∧ l.SetsD f l' p :=
  lveMod1_sets known.1 (fun i _ _ => by rw [Lve.mod_modulus_lt known]; exact h i)

/-- Whatever its result, it leaves the inactive elements. -/
theorem lveMod1_any {f : LveFields} {l : Lve} (ok : l.modOk = true) (g : Nat → Nat → Nat) : ∃ l', lveMod1 f l g = some l' ∧ l.SetsD f l' (fun _ _ => True) :=
  lveMod1_sets ok (fun _ _ _ => trivial)

/-- A two-result modular instruction sets its pair of registers. -/
theorem lveMod2_sets {q : Nat} {f : LveFields} {l : Lve} {g h : Nat → Nat} {p p' : Nat → Nat → Prop} (ok : l.modOk = true) (hq : l.modulus = q)
    (hg : ∀ i, p i (g (l.elA f i) % 2 ^ l.sew)) (hh : ∀ i, p' i (h (l.elA f i) % 2 ^ l.sew)) :
    ∃ l', lveMod2 q f l g h = some l' ∧ l.SetsPair f l' p p' :=
  ⟨_, if_pos (by simp [ok, hq]), _, _, l.holds_mapActive f _ _ _ (fun i _ _ => hg i), l.holds_mapActive f _ _ _ (fun i _ _ => hh i), rfl⟩

/-- Compress fits in an element. -/
theorem Lve.two_pow_lt {l : Lve} (ok : l.modOk = true) {d : Nat} (hd : d ≤ 12) : 2 ^ d < 2 ^ l.sew := by
  rcases Lve.modOk_sew ok with h | h <;> exact Nat.pow_lt_pow_right (by decide) (by omega)

/-- So does Decompress of a field of d bits. -/
theorem Lve.decompressD_lt {l : Lve} (ok : l.modOk = true) {d y : Nat} (hy : y < 2 ^ d) : decompressD d y < 2 ^ l.sew := by
  have wide : 2 ^ 16 ≤ 2 ^ l.sew := Nat.pow_le_pow_right (by decide) (by rcases Lve.modOk_sew ok with h | h <;> omega)
  have bound : decompressD d y < 3331 := by
    refine Nat.div_lt_of_lt_mul ?_
    rw [pow_succ]
    omega
  omega

/-- The part of an FIPS 204 rounding that is kept as a residue. -/
theorem residue_cast {w : Nat} (fits : 8380417 < 2 ^ w) (z : Int) : (((z % 8380417).toNat % 2 ^ w : Nat) : Int) = z % 8380417 := by
  have := Int.emod_nonneg z (show (8380417 : Int) ≠ 0 by decide)
  have := Int.emod_lt_of_pos z (show (0 : Int) < 8380417 by decide)
  rw [Nat.mod_eq_of_lt (by omega)]
  omega

/-- The seven instructions with one result in the forms a, b are one-result operations. -/
theorem lveMod1_rows : ∀ p ∈ [(LveOp.madd, Instr.madd), (.msub, .msub), (.mneg, .mneg), (.mred, .mred), (.mmont, .mmont), (.mbar, .mbar), (.tomont, .tomont)],
    p.2 = p.1.instr ∧ (p.1 ≠ .lend ∧ p.1 ≠ .loop ∧ p.1 ≠ .loopi) ∧ ∀ s r f l, ∃ g, p.1.effect s r f l = lveMod1 f l g := by
  intro p hp
  simp only [List.mem_cons, List.not_mem_nil, or_false] at hp
  rcases hp with rfl | rfl | rfl | rfl | rfl | rfl | rfl <;>
    (refine ⟨rfl, by decide, fun s r f l => ?_⟩
     simp only [LveOp.effect, lveMadd, lveMsub, lveMneg, lveMred, lveMmont, lveMbar, lveTomont]
     exact ⟨_, rfl⟩)

/-- γ2 of DECOMP (R202). -/
def decompRange (f : LveFields) : Nat := if bit f.imm 0 then (8380417 - 1) / 32 else (8380417 - 1) / 88

theorem decompRange_pos (f : LveFields) : 0 < decompRange f := by unfold decompRange; split <;> decide

theorem decompRange_le (f : LveFields) : decompRange f ≤ 261888 := by unfold decompRange; split <;> decide

theorem decompRange_cast (f : LveFields) : (if bit f.imm 0 then (8380417 - 1) / 32 else (8380417 - 1) / 88 : Int) = decompRange f := by
  unfold decompRange
  split <;> rfl

section
variable {l : Lve} (known : l.modKnown) (f : LveFields)
include known

theorem lveMadd_sets : ∃ l', lveMadd f l = some l' ∧ l.SetsD f l' (fun i y => y = (l.elA f i + l.opB f i) % l.modulus) :=
  lveMod1_residue known (fun _ => rfl)

theorem lveMsub_sets : ∃ l', lveMsub f l = some l' ∧ l.SetsD f l' (fun i y => y < l.modulus ∧ (y + l.opB f i) % l.modulus = l.elA f i % l.modulus) :=
  lveMod1_residue known (fun _ => ⟨Nat.mod_lt _ (Lve.modulus_pos known), mod_sub_add (Lve.modulus_pos known) _ _⟩)

theorem lveMneg_sets : ∃ l', lveMneg f l = some l' ∧ l.SetsD f l' (fun i y => y < l.modulus ∧ (y + l.elA f i) % l.modulus = 0) :=
  lveMod1_residue known (fun i => ⟨Nat.mod_lt _ (Lve.modulus_pos known), by simpa using mod_sub_add (Lve.modulus_pos known) 0 (l.elA f i)⟩)

theorem lveMred_sets : ∃ l', lveMred f l = some l' ∧ l.SetsD f l' (fun i y => y = l.elA f i % l.modulus) :=
  lveMod1_residue known (fun _ => rfl)

theorem lveMmont_sets : ∃ l', lveMmont f l = some l' ∧
    l.SetsD f l' (fun i y => y < l.modulus ∧ y * 2 ^ l.sew % l.modulus = l.elA f i * l.opB f i % l.modulus) :=
  lveMod1_residue known (fun _ => ⟨mont_lt (Lve.modulus_pos known) .., mont_mul (Lve.modKnown_range known).1 ..⟩)

theorem lveMbar_sets : ∃ l', lveMbar f l = some l' ∧ l.SetsD f l' (fun i y => y = l.elA f i * l.opB f i % l.modulus) :=
  lveMod1_residue known (fun _ => rfl)

theorem lveTomont_sets : ∃ l', lveTomont f l = some l' ∧ l.SetsD f l' (fun i y => y = l.elA f i * 2 ^ l.sew % l.modulus) :=
  lveMod1_residue known (fun _ => rfl)

theorem lveCmpr_sets (hq : l.modulus = 3329) (valid : LveOp.cmpr.valid f = true) : ∃ l', lveCmpr f l = some l' ∧ l.SetsD f l' (fun i y =>
    ∃ n, y = n % 2 ^ (f.imm.toNat % 16) ∧ 2 * 3329 * n < 2 * 2 ^ (f.imm.toNat % 16) * (l.elA f i % 3329) + 3329 ∧
      2 * 2 ^ (f.imm.toNat % 16) * (l.elA f i % 3329) < 2 * 3329 * n + 3329) := by
  have range := LveOp.valid_range valid
  simp only [LveOp.rangeOk, Bool.and_eq_true, decide_eq_true_eq] at range
  rw [lveCmpr, if_pos hq]
  refine lveMod1_sets known.1 (fun i _ _ => ?_)
  obtain ⟨n, hn, near⟩ := compressD_rounds (f.imm.toNat % 16) (l.elA f i % 3329)
  have fits := (Nat.mod_lt n (show 0 < 2 ^ (f.imm.toNat % 16) by positivity)).trans (Lve.two_pow_lt known.1 range.2)
  exact ⟨n, by rw [hn, Nat.mod_eq_of_lt fits], near⟩

theorem lveDcmpr_sets (hq : l.modulus = 3329) : ∃ l', lveDcmpr f l = some l' ∧ l.SetsD f l' (fun i y =>
    2 * 2 ^ (f.imm.toNat % 16) * y ≤ 2 * 3329 * (l.elA f i % 2 ^ (f.imm.toNat % 16)) + 2 ^ (f.imm.toNat % 16) ∧
      2 * 3329 * (l.elA f i % 2 ^ (f.imm.toNat % 16)) < 2 * 2 ^ (f.imm.toNat % 16) * y + 2 ^ (f.imm.toNat % 16)) := by
  rw [lveDcmpr, if_pos hq]
  refine lveMod1_sets known.1 (fun i _ _ => ?_)
  rw [Nat.mod_eq_of_lt (Lve.decompressD_lt known.1 (Nat.mod_lt _ (by positivity)))]
  exact decompressD_rounds ..

section
variable (hq : l.modulus = 8380417)
include hq

theorem lveP2r_sets : ∃ l', lveP2r f l = some l' ∧ l.SetsPair f l'
    (fun i y => (y : Int) * 8192 + p2rLow (l.elA f i % 8380417) = (l.elA f i % 8380417 : Nat)) (fun i y => (y : Int) = p2rLow (l.elA f i % 8380417) % 8380417) := by
  have fits := hq ▸ (Lve.modKnown_range known).2.2
  refine lveMod2_sets known.1 hq (fun i => ?_) (fun i => residue_cast fits _)
  have below := Nat.mod_lt (l.elA f i) (show 0 < 8380417 by decide)
  obtain ⟨range, high⟩ := p2rLow_spec (l.elA f i % 8380417)
  rw [qDsa, Nat.mod_eq_of_lt (by omega)]
  exact high

theorem lveDecomp_sets : let γ := decompRange f; ∃ l', lveDecomp f l = some l' ∧ l.SetsPair f l'
    (fun i y => if (l.elA f i % 8380417 : Nat) - centred γ (l.elA f i % 8380417) = 8380416 then y = 0
      else (y : Int) * (2 * γ) + centred γ (l.elA f i % 8380417) = (l.elA f i % 8380417 : Nat))
    (fun i y => (y : Int) = (if (l.elA f i % 8380417 : Nat) - centred γ (l.elA f i % 8380417) = 8380416 then centred γ (l.elA f i % 8380417) - 1
      else centred γ (l.elA f i % 8380417)) % 8380417) := by
  have fits := hq ▸ (Lve.modKnown_range known).2.2
  refine lveMod2_sets known.1 hq (g := fun a => (decompose (2 * decompRange f) (a % 8380417)).1)
    (h := fun a => ((decompose (2 * decompRange f) (a % 8380417)).2 % 8380417).toNat) (fun i => ?_) (fun i => ?_) <;> rw [decompose_eq]
  · have below := Nat.mod_lt (l.elA f i) (show 0 < 8380417 by decide)
    have high := centred_high (decompRange_pos f) (l.elA f i % 8380417)
    have low := (centred_range (decompRange_pos f) (l.elA f i % 8380417)).1
    split
    · exact Nat.zero_mod _
    · rw [Nat.mod_eq_of_lt]
      · exact high
      · refine Nat.lt_of_le_of_lt (Nat.div_le_self ..) ?_
        have := decompRange_le f
        rcases Lve.modOk_sew known.1 with h | h <;> rw [h] at fits ⊢ <;> omega
  · split <;> exact residue_cast fits _

end

end

/-- Settles O4: each instruction by what it sets. -/
theorem lveModular : Obligations.LveModular := by
  unfold Obligations.LveModular
  refine ⟨⟨lveDoes_of_effect .madd ?madd, lveDoes_of_effect .msub ?msub, lveDoes_of_effect .mneg ?mneg, lveDoes_of_effect .mred ?mred,
    lveDoes_of_effect .mmont ?mmont, lveDoes_of_effect .mbar ?mbar, lveDoes_of_effect .tomont ?tomont⟩, ?frames,
    lveDoes_of_effect .cmpr ?cmpr, lveDoes_of_effect .dcmpr ?dcmpr, lveDoes_of_effect .p2r ?p2r, lveDoes_of_effect .decomp ?decomp⟩
  case madd => exact fun s r f l _ known => lveMadd_sets known f
  case msub => exact fun s r f l _ known => lveMsub_sets known f
  case mneg => exact fun s r f l _ known => lveMneg_sets known f
  case mred => exact fun s r f l _ known => lveMred_sets known f
  case mmont => exact fun s r f l _ known => lveMmont_sets known f
  case mbar => exact fun s r f l _ known => lveMbar_sets known f
  case tomont => exact fun s r f l _ known => lveTomont_sets known f
  case frames =>
    intro p hp
    obtain ⟨hc, ⟨h1, h2, h3⟩, hg⟩ := lveMod1_rows p hp
    rw [hc]
    refine lveDoes_of_effect p.1 (fun s r f l _ ok => ?_) h1 h2 h3
    obtain ⟨g, hg⟩ := hg s r f l
    exact hg ▸ lveMod1_any ok g
  case cmpr => exact fun s r f l valid ⟨known, hq⟩ => lveCmpr_sets known f hq valid
  case dcmpr => exact fun s r f l _ ⟨known, hq⟩ => lveDcmpr_sets known f hq
  case p2r =>
    intro s r f l _ ⟨known, hq⟩
    obtain ⟨l', he, hs⟩ := lveP2r_sets known f hq
    exact ⟨l', he, fun i => p2rLow (l.elA f i % 8380417), fun i => (p2rLow_spec _).1, hs⟩
  case decomp =>
    intro s r f l _ ⟨known, hq⟩
    obtain ⟨l', he, hs⟩ := lveDecomp_sets known f hq
    rw [decompRange_cast]
    exact ⟨l', he, fun i => centred (decompRange f) (l.elA f i % 8380417), fun i => centred_range (decompRange_pos f) _, hs⟩

end Sys2Proof.Machine

/-! PROOF. Butterflies and base multiplication of the LVE. -/

namespace Sys2Proof.Machine

/-! ### VBFLY (R203) -/

/-- The modulus of a twiddle table is odd and fits in the elements of its width. -/
theorem twiddleMod_range (t : Nat) : (twiddleMod t).1 % 2 = 1 ∧ 0 < (twiddleMod t).1 ∧ (twiddleMod t).1 < 2 ^ (twiddleMod t).2.2 := by
  unfold twiddleMod
  split <;> decide

/-- The Montgomery product of a difference. -/
theorem mont_sub {q : Nat} (odd : q % 2 = 1) (w u v x : Nat) :
    (mont w q ((u + (q - v % q)) % q) x * 2 ^ w + v * x) % q = u * x % q := by
  calc (mont w q ((u + (q - v % q)) % q) x * 2 ^ w + v * x) % q = ((u + (q - v % q)) % q * x + v * x) % q := by
        rw [Nat.add_mod, mont_mul odd, ← Nat.add_mod]
    _ = ((u + (q - v % q)) % q + v) % q * x % q := by rw [← Nat.add_mul, Nat.mod_mul_mod]
    _ = u * x % q := by rw [mod_sub_add (by omega), Nat.mod_mul_mod]

theorem lveVbfly_sets {f : LveFields} {l : Lve} (valid : LveOp.vbfly.valid f = true) (ok : l.modOk = true) (hq : l.modulus = (twiddleMod (f.imm.toNat % 8)).1)
    (hw : l.sew = (twiddleMod (f.imm.toNat % 8)).2.2)
    (hk : f.imm.toNat / 8 % 256 + (l.vlmax - 1) / 2 ^ (f.imm.toNat / 2048 % 16) < (twiddleMod (f.imm.toNat % 8)).2.1) :
    ∃ l', lveVbfly f l = some l' ∧
      let q := l.modulus
      let w := fun i => twiddle (f.imm.toNat % 8) (f.imm.toNat / 8 % 256 + i / 2 ^ (f.imm.toNat / 2048 % 16))
      l.SetsPair f l'
        (fun i y => ∃ t, t < q ∧ t * 2 ^ l.sew % q = l.elB f i * w i % q ∧
          y = if bit f.sub 0 then (l.elA f i + l.elB f i) % q else (l.elA f i + t) % q)
        (fun i y => y < q ∧ if bit f.sub 0 then ((y * 2 ^ l.sew + l.elB f i * w i) % q = l.elA f i * w i % q)
          else ∃ t, t < q ∧ t * 2 ^ l.sew % q = l.elB f i * w i % q ∧ (y + t) % q = l.elA f i % q) := by
  obtain ⟨odd, pos, fits⟩ := hw ▸ hq ▸ twiddleMod_range (f.imm.toNat % 8)
  have code : f.imm.toNat % 8 ≤ 4 := by
    have range := LveOp.valid_range valid
    simp only [LveOp.rangeOk, Bool.and_eq_true, decide_eq_true_eq] at range
    exact range.2
  have small : ∀ x, x % l.modulus % 2 ^ l.sew = x % l.modulus := fun x => Nat.mod_eq_of_lt ((Nat.mod_lt x pos).trans fits)
  refine ⟨_, if_pos ?_, _, _, l.holds_mapActive f _ _ _ (fun i _ _ => ?_), l.holds_mapActive f _ _ _ (fun i _ _ => ?_), rfl⟩
  · simp [ok, hq, hw, hk, code]
  · refine ⟨mont l.sew l.modulus (l.elB f i) _, mont_lt pos .., mont_mul odd .., ?_⟩
    by_cases inverse : bit f.sub 0 = true <;> simp [inverse, small]
  · by_cases inverse : bit f.sub 0 = true
    · rw [if_pos inverse, if_pos inverse, Nat.mod_eq_of_lt ((mont_lt pos ..).trans fits)]
      exact ⟨mont_lt pos .., mont_sub odd ..⟩
    · rw [if_neg inverse, if_neg inverse, small]
      refine ⟨Nat.mod_lt _ pos, mont l.sew l.modulus (l.elB f i) _, mont_lt pos .., mont_mul odd .., ?_⟩
      have residue := mod_sub_add pos (l.elA f i) (mont l.sew l.modulus (l.elB f i) (twiddle (f.imm.toNat % 8) (f.imm.toNat / 8 % 256 + i / 2 ^ (f.imm.toNat / 2048 % 16))))
      rwa [Nat.mod_eq_of_lt (mont_lt pos ..)] at residue

/-! ### VBMUL (R203) -/

/-- The products of two pairs modulo X² - g, each over 2^16. -/
theorem lveVbmul_sets {f : LveFields} {l : Lve} (r : LveRef) (ok : l.modOk = true) (hq : l.modulus = 3329) (even : l.core.vl % 2 = 0)
    (hk : f.imm.toNat / 8 % 256 + (l.vlmax / 2 - 1) / 2 ^ (f.imm.toNat / 2048 % 16) < 128) :
    ∃ l', lveVbmul r f l = some l' ∧
      let w := fun j => powMod 3329 16 17 (2 * bitRev 7 (f.imm.toNat / 8 % 256 + j / 2 ^ (f.imm.toNat / 2048 % 16)) + 1)
      ∃ x, l' = { l.setV f.d.toNat x with seq := { l.seq with draws := l'.seq.draws } } ∧
        l.Holds f f.d.toNat x (fun i y => y < 3329 ∧ y * 2 ^ 16 % 3329 =
          if i % 2 = 0 then (l.elA f i * l.elB f i + l.elA f (i + 1) * l.elB f (i + 1) * w (i / 2)) % 3329
          else (l.elA f (i - 1) * l.elB f i + l.elA f i * l.elB f (i - 1)) % 3329) := by
  have fits : 2 ^ 16 ≤ 2 ^ l.sew := Nat.pow_le_pow_right (by decide) (by rcases Lve.modOk_sew ok with h | h <;> omega)
  have small : ∀ x, x % 3329 % 2 ^ l.sew = x % 3329 := fun x => Nat.mod_eq_of_lt (by have := Nat.mod_lt x (show 0 < 3329 by decide); omega)
  have inverse : ∀ x, x % 3329 * invPow2 16 3329 % 3329 * 2 ^ 16 % 3329 = x % 3329 := fun x => by
    rw [Nat.mod_mul_mod, Nat.mul_assoc, Nat.mul_mod, invPow2_mul (by decide), ← Nat.mul_mod, Nat.mul_one, Nat.mod_mod]
  refine ⟨_, if_pos ?_, _, rfl, l.holds_mapActive f _ _ _ (fun i _ _ => ?_)⟩
  · simp [ok, hq, hk]
  · rw [if_neg (by omega)]
    by_cases parity : i % 2 = 0
    · have index : 2 * (i / 2) = i := by omega
      rw [if_pos parity, if_pos parity, small, inverse, index]
      refine ⟨Nat.mod_lt _ (by decide), ?_⟩
      rw [Nat.add_mod, Nat.mod_mul_mod, ← Nat.add_mod]
    · have index : 2 * (i / 2) = i - 1 := by omega
      have next : i - 1 + 1 = i := by omega
      rw [if_neg parity, if_neg parity, small, inverse, index, next]
      exact ⟨Nat.mod_lt _ (by decide), rfl⟩

/-- Settles O5: both instructions by what they set. -/
theorem lveButterflies : Obligations.LveButterflies := by
  unfold Obligations.LveButterflies
  exact ⟨lveDoes_of_effect .vbfly (fun s r f l valid ⟨ok, hq, hw, hk⟩ => lveVbfly_sets valid ok hq hw hk),
    lveDoes_of_effect .vbmul (fun s r f l _ ⟨ok, hq, even, hk⟩ => lveVbmul_sets r ok hq even hk)⟩

end Sys2Proof.Machine

/-! PROOF. Layout instructions of the LVE. -/

namespace Sys2Proof.Machine

/-! ### Registers in full width -/

theorem Lve.fillsD_pack (l : Lve) (f : LveFields) {c g : Nat → Nat} (h : ∀ i, c i = g i) (small : ∀ i, g i < 2 ^ l.sew) :
    l.FillsD f (l.setV f.d.toNat (packElems l.sew l.vlmax c)) g :=
  ⟨_, fun i hi => by rw [l.elem_pack c i hi, h, Nat.mod_eq_of_lt (small i)], rfl⟩

theorem Lve.fillsPair_pack (l : Lve) (f : LveFields) {c c' g g' : Nat → Nat} (h : ∀ i, c i = g i) (h' : ∀ i, c' i = g' i) (small : ∀ i, g i < 2 ^ l.sew)
    (small' : ∀ i, g' i < 2 ^ l.sew) : l.FillsPair f (l.setVs f.d.toNat [packElems l.sew l.vlmax c, packElems l.sew l.vlmax c']) g g' :=
  ⟨_, _, fun i hi => by rw [l.elem_pack c i hi, h, Nat.mod_eq_of_lt (small i)], fun i hi => by rw [l.elem_pack c' i hi, h', Nat.mod_eq_of_lt (small' i)], rfl⟩

theorem Lve.zero_lt_elem (l : Lve) : 0 < 2 ^ l.sew := by positivity

/-! ### Fields end to end -/

/-- A bit of fields of `w` bits laid end to end. -/
theorem testBit_packFold {w : Nat} (hw : 0 < w) (g : Nat → Nat) (n p : Nat) :
    ((List.range n).foldr (fun i acc => g i % 2 ^ w + 2 ^ w * acc) 0).testBit p = (decide (p / w < n) && (g (p / w)).testBit (p % w)) := by
  have place := Nat.div_add_mod p w
  by_cases within : p / w < n
  · have digit := packFold_digit w g (List.range n) (p / w) (by simpa using within)
    rw [List.getElem_range] at digit
    have inside := Nat.mod_lt p hw
    have bit_of := congrArg (fun x => x.testBit (p % w)) digit
    simp only [Nat.testBit_mod_two_pow, inside, decide_true, Bool.true_and, Nat.testBit_div_two_pow] at bit_of
    rw [Nat.add_comm (p % w), place] at bit_of
    simp [within, bit_of]
  · have small := packFold_lt w g (List.range n)
    rw [List.length_range] at small
    have high : w * n ≤ p := by
      have := Nat.mul_le_mul_left w (Nat.le_of_not_lt within)
      omega
    rw [Nat.testBit_lt_two_pow (Nat.lt_of_lt_of_le small (Nat.pow_le_pow_right (by decide) high))]
    simp [within]

/-- A bit of a row of bits. -/
theorem testBit_bitFold (g : Nat → Nat) (n : Nat) {p : Nat} (hp : p < n) :
    ((List.range n).foldr (fun i acc => g i % 2 + 2 * acc) 0).testBit p = (g p).testBit 0 := by
  have := testBit_packFold (w := 1) (by decide) g n p
  simpa [hp, Nat.mod_one] using this

/-- Numbers that fit in their fields are laid as they are. -/
theorem packFold_whole {w : Nat} {g : Nat → Nat} (h : ∀ i, g i < 2 ^ w) (L : List Nat) :
    L.foldr (fun i acc => g i + 2 ^ w * acc) 0 = L.foldr (fun i acc => g i % 2 ^ w + 2 ^ w * acc) 0 := by
  simp only [fun i => Nat.mod_eq_of_lt (h i)]

/-- A bit of consecutive registers read as one stream. -/
theorem Lve.testBit_stream (l : Lve) (k n p : Nat) : (l.stream k n).testBit p = (decide (p / 2048 < n) && bit (l.vr (k + p / 2048)) (p % 2048)) := by
  unfold Lve.stream
  rw [packFold_whole (w := 2048) (fun i => (l.vr (k + i)).isLt), testBit_packFold (w := 2048) (by decide) (fun i => (l.vr (k + i)).toNat)]
  rfl

/-- Registers that `n` bits fill. -/
theorem cdiv_2048 (n : Nat) : cdiv n 2048 = (n + 2047) / 2048 := by
  unfold cdiv
  omega

/-! ### The instructions (R204) -/

section
variable (f : LveFields) (l : Lve)

theorem lveZip_fills (h : 2 ^ f.imm.toNat ≤ l.vlmax / 2) : ∃ l', lveZip f l = some l' ∧
    let g := 2 ^ f.imm.toNat
    let c := fun i => if i / g % 2 = 0 then l.elA f (i / (2 * g) * g + i % g) else l.elB f (i / (2 * g) * g + i % g)
    l.FillsPair f l' c (fun i => c (l.vlmax + i)) := by
  have half : ∀ i, i / 2 ^ f.imm.toNat / 2 = i / (2 * 2 ^ f.imm.toNat) := fun i => by rw [Nat.div_div_eq_div_mul, Nat.mul_comm]
  have small : ∀ (p : Prop) [Decidable p] i j, (if p then l.elA f i else l.elB f j) < 2 ^ l.sew := fun p _ i j => by
    split
    · exact l.elA_lt f i
    · exact l.elB_lt f j
  refine ⟨_, if_pos h, l.fillsPair_pack f (fun i => ?_) (fun i => ?_) (fun i => small ..) (fun i => small ..)⟩ <;> simp only [half]

theorem lveUnzip_fills (h : 2 ^ f.imm.toNat ≤ l.vlmax / 2) : ∃ l', lveUnzip f l = some l' ∧
    let g := 2 ^ f.imm.toNat
    let c := fun i => if i < l.vlmax then l.elA f i else elemN l.sew (l.vr (f.a.toNat + 1)) (i - l.vlmax)
    l.FillsPair f l' (fun i => c (2 * (i / g) * g + i % g)) (fun i => c ((2 * (i / g) + 1) * g + i % g)) := by
  have small : ∀ i, (if i < l.vlmax then l.elA f i else elemN l.sew (l.vr (f.a.toNat + 1)) (i - l.vlmax)) < 2 ^ l.sew := fun i => by
    split <;> exact elemN_lt ..
  exact ⟨_, if_pos h, l.fillsPair_pack f (fun i => rfl) (fun i => rfl) (fun i => small _) (fun i => small _)⟩

theorem lveBrev_sets (h : 2 ^ f.imm.toNat ≤ l.vlmax) : ∃ l', lveBrev f l = some l' ∧ ∃ x, l' = l.setV f.d.toNat x ∧
    ∀ j m, m < 2 ^ f.imm.toNat → j * 2 ^ f.imm.toNat + m < l.vlmax →
      elemN l.sew x (j * 2 ^ f.imm.toNat + m) = l.elA f (j * 2 ^ f.imm.toNat + bitRev f.imm.toNat m) := by
  refine ⟨_, if_pos h, _, rfl, fun j m hm hi => ?_⟩
  have group : (j * 2 ^ f.imm.toNat + m) / 2 ^ f.imm.toNat = j := by
    rw [Nat.mul_comm, Nat.mul_add_div (by positivity), Nat.div_eq_of_lt hm, Nat.add_zero]
  have place : (j * 2 ^ f.imm.toNat + m) % 2 ^ f.imm.toNat = m := by rw [Nat.mul_comm, Nat.mul_add_mod, Nat.mod_eq_of_lt hm]
  rw [l.elem_pack _ _ hi, group, place, Nat.mod_eq_of_lt (l.elA_lt ..)]

theorem lveSlideup_fills : ∃ l', lveSlideup f l = some l' ∧ l.FillsD f l' (fun i => if f.imm.toNat ≤ i then l.elA f (i - f.imm.toNat) else 0) := by
  refine ⟨_, rfl, l.fillsD_pack f (fun i => rfl) (fun i => ?_)⟩
  split
  · exact l.elA_lt ..
  · exact l.zero_lt_elem

theorem lveSlidedn_fills : ∃ l', lveSlidedn f l = some l' ∧
    l.FillsD f l' (fun i => if i + f.imm.toNat < l.vlmax then l.elA f (i + f.imm.toNat) else 0) := by
  refine ⟨_, rfl, l.fillsD_pack f (fun i => rfl) (fun i => ?_)⟩
  split
  · exact l.elA_lt ..
  · exact l.zero_lt_elem

theorem lveBmt_transposes : ∃ l', lveBmt f l = some l' ∧ ∃ x, l' = l.setV f.d.toNat x ∧
    ∀ g i j, i < l.sew → j < l.sew → g * l.sew + i < l.vlmax → g * l.sew + j < l.vlmax →
      (elemN l.sew x (g * l.sew + i)).testBit j = (l.elA f (g * l.sew + j)).testBit i := by
  refine ⟨_, rfl, _, rfl, fun g i j hi hj hx _ => ?_⟩
  have group : (g * l.sew + i) / l.sew = g := by rw [Nat.mul_comm, Nat.mul_add_div l.sew_pos, Nat.div_eq_of_lt hi, Nat.add_zero]
  have place : (g * l.sew + i) % l.sew = i := by rw [Nat.mul_comm, Nat.mul_add_mod, Nat.mod_eq_of_lt hi]
  rw [l.elem_pack _ _ hx, group, place, Nat.testBit_mod_two_pow, testBit_bitFold _ _ hj]
  simp [hj]

theorem lveVcompress_fills : ∃ l', lveVcompress f l = some l' ∧
    let sel := (List.range l.core.vl).filter (fun i => bit (l.mr f.km.toNat) i)
    l.FillsD f l' (fun j => if h : j < sel.length then l.elA f sel[j] else 0) := by
  refine ⟨_, rfl, l.fillsD_pack f (fun j => ?_) (fun j => ?_)⟩
  · simp only [selected]
    split
    next i found =>
      obtain ⟨inside, rfl⟩ := List.getElem?_eq_some_iff.mp found
      rw [dif_pos inside]
    next missing => rw [dif_neg (by simpa using missing)]
  · split
    · exact l.elA_lt ..
    · exact l.zero_lt_elem

theorem lveVpack_packs (valid : LveOp.vpack.valid f = true) (h : f.d.toNat + (l.core.vl * f.imm.toNat + 2047) / 2048 ≤ 32) : ∃ l', lveVpack f l = some l' ∧
    let n := (l.core.vl * f.imm.toNat + 2047) / 2048
    l' = { l with core := { l.core with v := l'.core.v } } ∧
    (∀ k, k < f.d.toNat ∨ f.d.toNat + n ≤ k → l'.vr k = l.vr k) ∧
    ∀ k b, k < n → b < 2048 → bit (l'.vr (f.d.toNat + k)) b =
      (decide ((2048 * k + b) / f.imm.toNat < l.core.vl) && (l.elA f ((2048 * k + b) / f.imm.toNat)).testBit ((2048 * k + b) % f.imm.toNat)) := by
  have wide : 0 < f.imm.toNat := by
    have range := LveOp.valid_range valid
    simp only [LveOp.rangeOk, Bool.and_eq_true, decide_eq_true_eq] at range
    exact range.1
  rw [← cdiv_2048] at h ⊢
  refine ⟨_, if_pos h, Lve.setVs_eq .., fun k hk => ?_, fun k b hk hb => ?_⟩
  · rw [Lve.setVs_vr _ _ _ _ (by simpa using h), dif_neg]
    simp only [List.length_map, List.length_range]
    omega
  · rw [Lve.setVs_vr _ _ _ _ (by simpa using h), dif_pos (by simp [hk])]
    simp only [Nat.add_sub_cancel_left, List.getElem_map, List.getElem_range, bit, BitVec.getLsbD_ofNat, hb, decide_true, Bool.true_and, Nat.testBit_shiftRight]
    rw [testBit_packFold wide (fun i => l.elA f i)]

theorem lveVunpack_unpacks (h : f.a.toNat + (l.core.vl * f.imm.toNat + 2047) / 2048 ≤ 32) : ∃ l', lveVunpack f l = some l' ∧ ∃ x, l' = l.setV f.d.toNat x ∧
    ∀ i, i < l.vlmax → if i < l.core.vl then
      ∀ b, b < l.sew → (elemN l.sew x i).testBit b =
        (decide (b < f.imm.toNat) && bit (l.vr (f.a.toNat + (i * f.imm.toNat + b) / 2048)) ((i * f.imm.toNat + b) % 2048))
      else elemN l.sew x i = elemN l.sew (l.vr f.d.toNat) i := by
  rw [← cdiv_2048] at h
  refine ⟨_, if_pos h, _, rfl, fun i hi => ?_⟩
  rw [l.elem_pack _ i hi]
  by_cases below : i < l.core.vl
  · rw [if_pos below, if_pos below]
    intro b hb
    by_cases field : b < f.imm.toNat
    · have inside : (i * f.imm.toNat + b) / 2048 < cdiv (l.core.vl * f.imm.toNat) 2048 := by
        have := Nat.mul_le_mul_right f.imm.toNat below
        rw [Nat.succ_mul] at this
        rw [cdiv_2048]
        omega
      simp [hb, field, Nat.testBit_mod_two_pow, Nat.testBit_shiftRight, Lve.testBit_stream, inside]
    · simp [hb, field, Nat.testBit_mod_two_pow]
  · rw [if_neg below, if_neg below, elemN_mod]

end

/-- Settles O6: each instruction by what it fills. -/
theorem lveLayout : Obligations.LveLayout := by
  unfold Obligations.LveLayout
  exact ⟨lveDoes_of_effect .zip (fun s r f l _ h => lveZip_fills f l h), lveDoes_of_effect .unzip (fun s r f l _ h => lveUnzip_fills f l h),
    lveDoes_of_effect .brev (fun s r f l _ h => lveBrev_sets f l h), lveDoes_of_effect .slideup (fun s r f l _ _ => lveSlideup_fills f l),
    lveDoes_of_effect .slidedn (fun s r f l _ _ => lveSlidedn_fills f l), lveDoes_of_effect .bmt (fun s r f l _ _ => lveBmt_transposes f l),
    lveDoes_of_effect .vcompress (fun s r f l _ _ => lveVcompress_fills f l), lveDoes_of_effect .vpack (fun s r f l valid h => lveVpack_packs f l valid h),
    lveDoes_of_effect .vunpack (fun s r f l _ h => lveVunpack_unpacks f l h)⟩

end Sys2Proof.Machine

/-! PROOF. Loads and stores of the LVE, with and without an element that breaks R195. -/

namespace Sys2Proof.Machine

/-! ### Where an access ends (R210, R211) -/

section
variable {l : Lve} {f : LveFields} {ok : Nat → Bool}

/-- An access without a bad element covers all of them. -/
theorem Lve.faultAt_none (h : ∀ i, i < l.vlmax → l.active f i = true → ok i = true) : l.faultAt f ok = none := by
  unfold Lve.faultAt
  split
  · rfl
  · rw [List.find?_eq_none]
    intro i hi
    simp only [List.mem_range] at hi
    simp only [Bool.and_eq_true, Bool.not_eq_true', not_and, Bool.not_eq_false]
    exact h i hi

/-- So does one of a job that has faulted before. -/
theorem Lve.faultAt_past (h : l.seq.fault.isSome = true) : l.faultAt f ok = none := if_pos h

/-- Before that an access ends at its first bad element. -/
theorem Lve.faultAt_first {n : Nat} (fresh : l.seq.fault = none) (hn : n < l.vlmax) (ha : l.active f n = true) (hbad : ok n = false)
    (hfirst : ∀ i, i < n → l.active f i = true → ok i = true) : l.faultAt f ok = some n := by
  unfold Lve.faultAt
  rw [if_neg (by simp [fresh]), List.find?_range_eq_some]
  refine ⟨by simp [ha, hbad], by simpa using hn, fun j hj => ?_⟩
  by_cases active : l.active f j = true
  · simp [hfirst j hj active]
  · simp [active]

/-- An operand fault of a job that has met none (R192, R210). -/
theorem Lve.operandFault_fresh (fresh : l.seq.fault = none) (i : W32) :
    l.operandFault i = { l with core := { l.core with vstart := i }, seq := { l.seq with fault := some (.operand i) } } := by
  simp [Lve.operandFault, Lve.setFault, fresh]

end

/-! ### Loads (R200) -/

theorem Lve.pow_esize (l : Lve) : 256 ^ (l.sew / 8) = 2 ^ l.sew := by
  rcases l.sew_cases with h | h | h | h <;> rw [h] <;> norm_num

theorem Lve.loadElem_lt (l : Lve) (a : Nat) : l.loadElem a (l.sew / 8) < 2 ^ l.sew := by
  have := leNat_lt ((List.range (l.sew / 8)).map (fun j => l.loadByte (a + j)))
  rwa [List.length_map, List.length_range, l.pow_esize] at this

/-- An element of the register that a load writes. -/
theorem Lve.elem_loadReg (l : Lve) (f : LveFields) (dst : Nat) (ok : Nat → Bool) (addr : Nat → Nat) {i : Nat} (hi : i < l.vlmax) :
    elemN l.sew (l.loadReg f dst ok addr) i = if l.active f i = true ∧ i < l.accessEnd f ok then
      (if ok i then l.loadElem (addr i) (l.sew / 8) else 0) else elemN l.sew (l.vr dst) i := by
  simp only [Lve.loadReg, l.elem_pack _ i hi, Bool.and_eq_true, decide_eq_true_eq]
  split
  · split
    · exact Nat.mod_eq_of_lt (l.loadElem_lt _)
    · exact Nat.zero_mod _
  · exact elemN_mod ..

/-- A load that ends at no element sets its active elements. -/
theorem Lve.holds_loadReg {l : Lve} {f : LveFields} (dst : Nat) {ok : Nat → Bool} (addr : Nat → Nat) (h : l.faultAt f ok = none) {p : Nat → Nat → Prop}
    (hp : ∀ i, i < l.vlmax → l.active f i = true → p i (if ok i then l.loadElem (addr i) (l.sew / 8) else 0)) : l.Holds f dst (l.loadReg f dst ok addr) p := by
  intro i hi
  have whole : l.accessEnd f ok = l.vlmax := by rw [Lve.accessEnd, h]; rfl
  rw [l.elem_loadReg f dst ok addr hi, whole]
  by_cases active : l.active f i = true
  · rw [if_pos active, if_pos ⟨active, hi⟩]
    exact hp i hi active
  · rw [if_neg active, if_neg (fun h => active h.1)]

section
variable (l : Lve) (f : LveFields) (addr : Nat → Nat)

/-- A load whose active elements are all good takes their values. -/
theorem Lve.loadInto_good (h : ∀ i, i < l.vlmax → l.active f i = true → l.loadOk (addr i) (l.sew / 8) = true) :
    l.SetsD f (l.loadInto f addr) (fun i y => y = l.loadElem (addr i) (l.sew / 8)) := by
  have ends : l.faultAt f (fun i => l.loadOk (addr i) l.esize) = none := Lve.faultAt_none h
  refine ⟨_, Lve.holds_loadReg _ addr ends (fun i hi ha => if_pos (h i hi ha)), ?_⟩
  simp only [Lve.loadInto, ends, Lve.raiseAt]

/-- A load of a job that has faulted before takes zero where an element is bad. -/
theorem Lve.loadInto_past (h : l.seq.fault.isSome = true) :
    l.SetsD f (l.loadInto f addr) (fun i y => y = if l.loadOk (addr i) (l.sew / 8) then l.loadElem (addr i) (l.sew / 8) else 0) := by
  have ends : l.faultAt f (fun i => l.loadOk (addr i) l.esize) = none := Lve.faultAt_past h
  refine ⟨_, Lve.holds_loadReg _ addr ends (fun i hi ha => rfl), ?_⟩
  simp only [Lve.loadInto, ends, Lve.raiseAt]

/-- A load with a bad element loads those below it and faults. -/
theorem Lve.loadInto_faults {n : Nat} (fresh : l.seq.fault = none) (hn : n < l.vlmax) (ha : l.active f n = true) (hbad : l.loadOk (addr n) (l.sew / 8) = false)
    (hfirst : ∀ i, i < n → l.active f i = true → l.loadOk (addr i) (l.sew / 8) = true) :
    ∃ x, l.loadInto f addr = (l.setV f.d.toNat x).operandFault (BitVec.ofNat 32 n) ∧ ∀ i, i < l.vlmax →
      elemN l.sew x i = if l.active f i = true ∧ i < n then l.loadElem (addr i) (l.sew / 8) else elemN l.sew (l.vr f.d.toNat) i := by
  have ends : l.faultAt f (fun i => l.loadOk (addr i) l.esize) = some n := Lve.faultAt_first fresh hn ha hbad hfirst
  refine ⟨l.loadReg f f.d.toNat (fun i => l.loadOk (addr i) l.esize) addr, by simp only [Lve.loadInto, ends, Lve.raiseAt], fun i hi => ?_⟩
  have stop : l.accessEnd f (fun i => l.loadOk (addr i) l.esize) = n := by rw [Lve.accessEnd, ends]; rfl
  rw [l.elem_loadReg f _ _ addr hi, stop]
  split
  next below => exact if_pos (hfirst i below.2 below.1)
  next => rfl

end

/-! ### Stores (R200) -/

/-- The memory after byte strings have been written in turn. -/
def Mem.storeAll (m : Mem) (ws : List (Nat × List Byte)) : Mem := ws.foldl (fun m p => m.writes p.1 p.2) m

/-- A byte string written at an address covers byte `a`. -/
def covered (a : Nat) (p : Nat × List Byte) : Prop := p.1 ≤ a ∧ a < p.1 + p.2.length

section
variable {m : Mem} (wf : m.wf = true)
include wf

theorem Mem.wf_storeAll (ws : List (Nat × List Byte)) : (m.storeAll ws).wf = true := by
  induction ws generalizing m with
  | nil => exact wf
  | cons p ws ih => exact ih (Mem.wf_writes p.1 p.2 wf)

/-- A byte that no write covers stays. -/
theorem Mem.read_storeAll_frame {ws : List (Nat × List Byte)} {a : Nat} (h : ∀ p ∈ ws, ¬ covered a p) : (m.storeAll ws).read a = m.read a := by
  induction ws generalizing m with
  | nil => rfl
  | cons p ws ih =>
    have rest := ih (Mem.wf_writes p.1 p.2 wf) (fun q hq => h q (List.mem_cons_of_mem _ hq))
    exact rest.trans ((Mem.read_writes _ _ _ wf).trans (dif_neg (h p List.mem_cons_self)))

/-- A byte takes what the last write that covers it holds. -/
theorem Mem.read_storeAll_last {before after : List (Nat × List Byte)} {p : Nat × List Byte} {a : Nat} (hp : covered a p) (h : ∀ q ∈ after, ¬ covered a q) :
    (m.storeAll (before ++ p :: after)).read a = p.2[a - p.1]'(by unfold covered at hp; omega) := by
  have split : m.storeAll (before ++ p :: after) = ((m.storeAll before).writes p.1 p.2).storeAll after := by
    simp only [Mem.storeAll, List.foldl_append, List.foldl_cons]
  have wf' := Mem.wf_storeAll wf before
  rw [split, Mem.read_storeAll_frame (Mem.wf_writes _ _ wf') h]
  exact (Mem.read_writes _ _ _ wf').trans (dif_pos hp)

end

theorem Mem.storeAll_append (m : Mem) (xs ys : List (Nat × List Byte)) : m.storeAll (xs ++ ys) = (m.storeAll xs).storeAll ys := List.foldl_append ..

/-- The byte strings that a store writes for element `i`. -/
def Lve.storesAt (l : Lve) (f : LveFields) (ok : Nat → Bool) (wr : Nat → List (Nat × Nat)) (i : Nat) : List (Nat × List Byte) :=
  if l.active f i && ok i then (wr i).map (fun p => (p.1, leBytes (l.sew / 8) p.2)) else []

theorem Lve.foldl_storeElem (l : Lve) (n : Nat) (ps : List (Nat × Nat)) : ps.foldl (fun (m : Lve) p => m.storeElem p.1 n p.2) l =
    { l with window := l.window.storeAll (ps.map (fun p => (p.1, leBytes n p.2))) } := by
  induction ps generalizing l with
  | nil => rfl
  | cons p ps ih => rw [List.foldl_cons, ih]; rfl

/-- A store changes the window alone, by its byte strings in the order of the elements. -/
theorem Lve.storeRegs_eq (l : Lve) (f : LveFields) (ok : Nat → Bool) (wr : Nat → List (Nat × Nat)) :
    l.storeRegs f ok wr = { l with window := l.window.storeAll ((List.range (l.accessEnd f ok)).flatMap (l.storesAt f ok wr)) } := by
  have fold : ∀ (is : List Nat) (m : Lve), is.foldl (fun (m : Lve) i =>
      if l.active f i && ok i then (wr i).foldl (fun (m : Lve) p => m.storeElem p.1 (l.sew / 8) p.2) m else m) m =
        { m with window := m.window.storeAll (is.flatMap (l.storesAt f ok wr)) } := by
    intro is
    induction is with
    | nil => exact fun m => rfl
    | cons i is ih =>
      intro m
      rw [List.foldl_cons, ih, List.flatMap_cons, Mem.storeAll_append]
      unfold Lve.storesAt
      split
      · rw [Lve.foldl_storeElem]
      · rfl
  exact fold _ l

/-- The indices around one of them. -/
theorem range_around {n i : Nat} (h : i < n) : List.range n = List.range i ++ i :: List.range' (i + 1) (n - i - 1) := by
  calc List.range n = List.range' 0 (i + (n - i - 1 + 1)) := by
        rw [List.range_eq_range']
        congr 1
        omega
    _ = List.range' 0 i ++ List.range' (0 + i) (n - i - 1 + 1) := List.range'_append_1.symm
    _ = _ := by rw [List.range'_succ, List.range_eq_range', Nat.zero_add]

section
variable {l : Lve} {f : LveFields} {ok : Nat → Bool} {wr : Nat → List (Nat × Nat)} {n a : Nat}

/-- What a store writes for an element. -/
theorem Lve.mem_storesAt {i : Nat} {q : Nat × List Byte} (hq : q ∈ l.storesAt f ok wr i) :
    l.active f i = true ∧ ok i = true ∧ ∃ p ∈ wr i, q = (p.1, leBytes (l.sew / 8) p.2) := by
  unfold Lve.storesAt at hq
  split at hq
  next stored =>
    obtain ⟨p, hp, rfl⟩ := List.mem_map.mp hq
    obtain ⟨ha, ho⟩ := Bool.and_eq_true _ _ ▸ stored
    exact ⟨ha, ho, p, hp, rfl⟩
  next => exact absurd hq (by simp)

variable (wf : l.window.wf = true)
include wf

/-- A byte at the addresses of no element stored stays. -/
theorem Lve.read_stored_frame (h : ∀ i, i < n → l.active f i = true → ∀ p ∈ wr i, ¬ (p.1 ≤ a ∧ a < p.1 + l.sew / 8)) :
    (l.window.storeAll ((List.range n).flatMap (l.storesAt f ok wr))).read a = l.window.read a := by
  refine Mem.read_storeAll_frame wf (fun q hq => ?_)
  obtain ⟨i, hi, hq⟩ := List.mem_flatMap.mp hq
  obtain ⟨ha, -, p, hp, rfl⟩ := Lve.mem_storesAt hq
  simpa [covered] using h i (List.mem_range.mp hi) ha p hp

/-- A byte at an address of an element takes the element's byte, where nothing later is stored there. -/
theorem Lve.read_stored_last {i : Nat} {before after : List (Nat × Nat)} {p : Nat × Nat} (hi : i < n) (ha : l.active f i = true) (ho : ok i = true)
    (hw : wr i = before ++ p :: after) (hp : p.1 ≤ a ∧ a < p.1 + l.sew / 8) (hrest : ∀ q ∈ after, ¬ (q.1 ≤ a ∧ a < q.1 + l.sew / 8))
    (hlater : ∀ j, i < j → j < n → l.active f j = true → ∀ q ∈ wr j, ¬ (q.1 ≤ a ∧ a < q.1 + l.sew / 8)) :
    ((l.window.storeAll ((List.range n).flatMap (l.storesAt f ok wr))).read a).toNat = p.2 / 256 ^ (a - p.1) % 256 := by
  have here : l.storesAt f ok wr i = before.map (fun p => (p.1, leBytes (l.sew / 8) p.2)) ++ (p.1, leBytes (l.sew / 8) p.2) ::
      after.map (fun p => (p.1, leBytes (l.sew / 8) p.2)) := by
    simp [Lve.storesAt, ha, ho, hw]
  rw [range_around hi, List.flatMap_append, List.flatMap_cons, here, List.append_assoc, List.cons_append, ← List.append_assoc,
    Mem.read_storeAll_last wf (by simpa [covered] using hp), leBytes_get]
  intro q hq
  rcases List.mem_append.mp hq with hq | hq
  · obtain ⟨p', hp', rfl⟩ := List.mem_map.mp hq
    simpa [covered] using hrest p' hp'
  · obtain ⟨j, hj, hq⟩ := List.mem_flatMap.mp hq
    obtain ⟨hact, -, p', hp', rfl⟩ := Lve.mem_storesAt hq
    have between := List.mem_range'_1.mp hj
    simpa [covered] using hlater j (by omega) (by omega) hact p' hp'

end

/-- Byte `a` is one of an active element's, stored from an address that `addr` gives. -/
def Lve.covers (l : Lve) (f : LveFields) (addr : Nat → Nat) (a i : Nat) : Prop :=
  i < l.vlmax ∧ l.active f i = true ∧ addr i ≤ a ∧ a < addr i + l.sew / 8

section
variable (l : Lve) (f : LveFields) (addr : Nat → Nat) (wf : l.window.wf = true)
include wf

/-- A store whose active elements are all good writes their bytes, the highest index prevailing. -/
theorem Lve.storeFrom_good (h : ∀ i, i < l.vlmax → l.active f i = true → l.storeOk (addr i) (l.sew / 8) = true) :
    l.storeFrom f addr = { l with window := (l.storeFrom f addr).window } ∧
    (∀ a, (∀ i, ¬ l.covers f addr a i) → (l.storeFrom f addr).window.read a = l.window.read a) ∧
    ∀ a i, l.covers f addr a i → (∀ j, i < j → ¬ l.covers f addr a j) →
      ((l.storeFrom f addr).window.read a).toNat = elemN l.sew (l.vr f.d.toNat) i / 256 ^ (a - addr i) % 256 := by
  have ends : l.faultAt f (fun i => l.storeOk (addr i) l.esize) = none := Lve.faultAt_none h
  have whole : l.accessEnd f (fun i => l.storeOk (addr i) l.esize) = l.vlmax := by rw [Lve.accessEnd, ends]; rfl
  have stored : l.storeFrom f addr = { l with window := l.window.storeAll ((List.range l.vlmax).flatMap
      (l.storesAt f (fun i => l.storeOk (addr i) l.esize) (fun i => [(addr i, elemN l.sew (l.vr f.d.toNat) i)]))) } := by
    simp only [Lve.storeFrom, ends, Lve.raiseAt, Lve.storeRegs_eq, whole]
  rw [stored]
  refine ⟨rfl, fun a none_there => ?_, fun a i ⟨hi, ha, here⟩ later => ?_⟩
  · exact Lve.read_stored_frame wf (fun i hi ha p hp => by rw [List.mem_singleton.mp hp]; exact fun at_p => none_there i ⟨hi, ha, at_p⟩)
  · refine Lve.read_stored_last (p := (addr i, elemN l.sew (l.vr f.d.toNat) i)) wf (before := []) (after := []) hi ha (h i hi ha) rfl here (fun q hq => absurd hq List.not_mem_nil) ?_
    exact fun j hij hj haj q hq => by rw [List.mem_singleton.mp hq]; exact fun at_q => later j hij ⟨hj, haj, at_q⟩

/-- A store with a bad element stores those below it and faults. -/
theorem Lve.storeFrom_faults {n : Nat} (fresh : l.seq.fault = none) (hn : n < l.vlmax) (hbadActive : l.active f n = true)
    (hbad : l.storeOk (addr n) (l.sew / 8) = false) (hfirst : ∀ i, i < n → l.active f i = true → l.storeOk (addr i) (l.sew / 8) = true) :
    ∃ w : Mem, l.storeFrom f addr = ({ l with window := w } : Lve).operandFault (BitVec.ofNat 32 n) ∧
      (∀ a, (∀ i, i < n → l.active f i = true → a < addr i ∨ addr i + l.sew / 8 ≤ a) → w.read a = l.window.read a) ∧
      ∀ i, i < n → l.active f i = true → (∀ j, i < j → j < n → l.active f j = true → addr i + l.sew / 8 ≤ addr j ∨ addr j + l.sew / 8 ≤ addr i) →
        ∀ b, b < l.sew / 8 → (w.read (addr i + b)).toNat = elemN l.sew (l.vr f.d.toNat) i / 256 ^ b % 256 := by
  have ends : l.faultAt f (fun i => l.storeOk (addr i) l.esize) = some n := Lve.faultAt_first fresh hn hbadActive hbad hfirst
  have stop : l.accessEnd f (fun i => l.storeOk (addr i) l.esize) = n := by rw [Lve.accessEnd, ends]; rfl
  refine ⟨l.window.storeAll ((List.range n).flatMap (l.storesAt f (fun i => l.storeOk (addr i) l.esize) (fun i => [(addr i, elemN l.sew (l.vr f.d.toNat) i)]))),
    ?_, fun a outside => ?_, fun i hi ha apart b hb => ?_⟩
  · simp only [Lve.storeFrom, ends, Lve.raiseAt, Lve.storeRegs_eq, stop]
  · refine Lve.read_stored_frame wf (fun i hi ha p hp => ?_)
    rw [List.mem_singleton.mp hp]
    have := outside i hi ha
    omega
  · have last := Lve.read_stored_last (ok := fun i => l.storeOk (addr i) l.esize) (wr := fun i => [(addr i, elemN l.sew (l.vr f.d.toNat) i)]) (a := addr i + b)
      wf (before := []) (after := []) hi ha (hfirst i hi ha) rfl (by omega) (fun q hq => absurd hq List.not_mem_nil) (fun j hij hj haj q hq => by
        rw [List.mem_singleton.mp hq]
        have := apart j hij hj haj
        omega)
    rwa [Nat.add_sub_cancel_left] at last

end

/-! ### Fielded stores (R200) -/

/-- Two aligned elements that share a byte are at one address. -/
theorem Lve.aligned_eq (l : Lve) {x y a : Nat} (hx : x % (l.sew / 8) = 0) (hy : y % (l.sew / 8) = 0) (hax : x ≤ a ∧ a < x + l.sew / 8)
    (hay : y ≤ a ∧ a < y + l.sew / 8) : x = y := by
  rcases l.sew_cases with h | h | h | h <;> simp only [h] at hx hy hax hay <;> omega

/-- The fields of the records of a register have different addresses. -/
theorem Lve.fieldAddr_inj {l : Lve} {f : LveFields} (hnf : f.sub.toNat ≤ 4) {k i k' i' : Nat} (hk : k < f.sub.toNat) (hk' : k' < f.sub.toNat)
    (hi : i < l.vlmax) (hi' : i' < l.vlmax) (h : l.fieldAddr f k i = l.fieldAddr f k' i') : i = i' ∧ k = k' := by
  have size : l.esize * l.vlmax = 256 := by
    have := l.sew_vlmax
    rcases l.sew_cases with e | e | e | e <;> simp only [Lve.esize, e] at this ⊢ <;> omega
  have pos : 0 < l.esize := Nat.pos_of_ne_zero (fun e => by rw [e, Nat.zero_mul] at size; omega)
  have bound : ∀ i k, i < l.vlmax → k < f.sub.toNat → (i * f.sub.toNat + k) * l.esize ≤ 1024 := by
    intro i k hi hk
    have record : i * f.sub.toNat + k ≤ 4 * l.vlmax := by
      have := Nat.mul_le_mul_right f.sub.toNat (show i + 1 ≤ l.vlmax from hi)
      have := Nat.mul_le_mul_left l.vlmax hnf
      rw [Nat.add_mul, Nat.one_mul] at *
      omega
    calc (i * f.sub.toNat + k) * l.esize ≤ 4 * l.vlmax * l.esize := Nat.mul_le_mul_right _ record
      _ = 4 * (l.esize * l.vlmax) := by ring
      _ = 1024 := by rw [size]
  have here := bound i k hi hk
  have there := bound i' k' hi' hk'
  have same : (i * f.sub.toNat + k) * l.esize = (i' * f.sub.toNat + k') * l.esize := by
    simp only [Lve.fieldAddr, addr64] at h
    omega
  have record := Nat.eq_of_mul_eq_mul_right pos same
  have row := congrArg (· / f.sub.toNat) record
  have column := congrArg (· % f.sub.toNat) record
  simp only [Nat.mul_comm _ f.sub.toNat, Nat.mul_add_div (show 0 < f.sub.toNat by omega), Nat.mul_add_mod, Nat.div_eq_of_lt hk, Nat.div_eq_of_lt hk',
    Nat.mod_eq_of_lt hk, Nat.mod_eq_of_lt hk', Nat.add_zero] at row column
  exact ⟨row, column⟩

/-- VSTF writes the bytes of every field: no two share a byte. -/
theorem lveVstf_good {f : LveFields} {l : Lve} (wf : l.window.wf = true) (valid : LveOp.vstf.valid f = true)
    (h : ∀ k, k < f.sub.toNat → ∀ i, i < l.vlmax → l.active f i = true → l.storeOk (l.fieldAddr f k i) (l.sew / 8) = true) : ∃ l', lveVstf f l = some l' ∧
      l' = { l with window := l'.window } ∧
      (∀ a, (∀ k i, k < f.sub.toNat → ¬ l.covers f (l.fieldAddr f k) a i) → l'.window.read a = l.window.read a) ∧
      ∀ a k i, k < f.sub.toNat → l.covers f (l.fieldAddr f k) a i →
        (l'.window.read a).toNat = elemN l.sew (l.vr (f.d.toNat + k)) i / 256 ^ (a - l.fieldAddr f k i) % 256 := by
  have nf : f.sub.toNat ≤ 4 := by
    have range := LveOp.valid_range valid
    simp only [LveOp.rangeOk, Bool.and_eq_true, decide_eq_true_eq] at range
    exact range.1.2
  have good : ∀ i, i < l.vlmax → l.active f i = true → (List.range f.sub.toNat).all (fun k => l.storeOk (l.fieldAddr f k i) l.esize) = true := fun i hi ha =>
    List.all_eq_true.mpr (fun k hk => h k (List.mem_range.mp hk) i hi ha)
  have ends := Lve.faultAt_none (l := l) good
  have whole : l.accessEnd f (fun i => (List.range f.sub.toNat).all (fun k => l.storeOk (l.fieldAddr f k i) l.esize)) = l.vlmax := by
    rw [Lve.accessEnd, ends]
    rfl
  have effect : lveVstf f l = some { l with window := l.window.storeAll ((List.range l.vlmax).flatMap
      (l.storesAt f (fun i => (List.range f.sub.toNat).all (fun k => l.storeOk (l.fieldAddr f k i) l.esize))
        (fun i => (List.range f.sub.toNat).map (fun k => (l.fieldAddr f k i, elemN l.sew (l.vr (f.d.toNat + k)) i))))) } := by
    simp only [lveVstf, ends, Lve.raiseAt, Lve.storeRegs_eq, whole]
  refine ⟨_, effect, rfl, fun a none_there => ?_, fun a k i hk here => ?_⟩
  · refine Lve.read_stored_frame wf (fun i hi ha p hp at_p => ?_)
    obtain ⟨k, hk, rfl⟩ := List.mem_map.mp hp
    exact none_there k i (List.mem_range.mp hk) ⟨hi, ha, at_p⟩
  · obtain ⟨hi, ha, at_p⟩ := here
    have aligned : ∀ k i, k < f.sub.toNat → i < l.vlmax → l.active f i = true → l.fieldAddr f k i % (l.sew / 8) = 0 := fun k i hk hi ha => by
      have ok := h k hk i hi ha
      simp only [Lve.storeOk, Bool.and_eq_true, decide_eq_true_eq] at ok
      exact ok.1.1
    have alone : ∀ k' i', k' < f.sub.toNat → i' < l.vlmax → l.active f i' = true →
        l.fieldAddr f k' i' ≤ a ∧ a < l.fieldAddr f k' i' + l.sew / 8 → i = i' ∧ k = k' := fun k' i' hk' hi' ha' at_p' =>
      Lve.fieldAddr_inj nf hk hk' hi hi' (l.aligned_eq (aligned k i hk hi ha) (aligned k' i' hk' hi' ha') at_p at_p')
    refine Lve.read_stored_last (p := (l.fieldAddr f k i, elemN l.sew (l.vr (f.d.toNat + k)) i)) wf hi ha (good i hi ha)
      (by rw [range_around hk, List.map_append, List.map_cons]) at_p (fun q hq at_q => ?_) (fun j hij hj haj q hq at_q => ?_)
    · obtain ⟨k', hk', rfl⟩ := List.mem_map.mp hq
      have after := List.mem_range'_1.mp hk'
      have := (alone k' i (by omega) hi ha at_q).2
      omega
    · obtain ⟨k', hk', rfl⟩ := List.mem_map.mp hq
      have := (alone k' j (List.mem_range.mp hk') hj haj at_q).1
      omega

/-- VLDF takes every field of its active records. -/
theorem lveVldf_good {f : LveFields} {l : Lve} (valid : LveOp.vldf.valid f = true)
    (h : ∀ k, k < f.sub.toNat → ∀ i, i < l.vlmax → l.active f i = true → l.loadOk (l.fieldAddr f k i) (l.sew / 8) = true) : ∃ l', lveVldf f l = some l' ∧
      l' = { l with core := { l.core with v := l'.core.v } } ∧
      (∀ k, k < f.d.toNat ∨ f.d.toNat + f.sub.toNat ≤ k → l'.vr k = l.vr k) ∧
      ∀ k, k < f.sub.toNat → l.Holds f (f.d.toNat + k) (l'.vr (f.d.toNat + k)) (fun i y => y = l.loadElem (l.fieldAddr f k i) (l.sew / 8)) := by
  have group : f.d.toNat + f.sub.toNat ≤ 32 := by
    have range := LveOp.valid_range valid
    simp only [LveOp.rangeOk, Bool.and_eq_true, decide_eq_true_eq] at range
    exact range.2
  have good : ∀ i, i < l.vlmax → l.active f i = true → (List.range f.sub.toNat).all (fun k => l.loadOk (l.fieldAddr f k i) l.esize) = true := fun i hi ha =>
    List.all_eq_true.mpr (fun k hk => h k (List.mem_range.mp hk) i hi ha)
  have ends := Lve.faultAt_none (l := l) good
  have effect : lveVldf f l = some (l.setVs f.d.toNat ((List.range f.sub.toNat).map (fun k =>
      l.loadReg f (f.d.toNat + k) (fun i => (List.range f.sub.toNat).all (fun k => l.loadOk (l.fieldAddr f k i) l.esize)) (l.fieldAddr f k)))) := by
    simp only [lveVldf, ends, Lve.raiseAt]
  refine ⟨_, effect, Lve.setVs_eq .., fun k hk => ?_, fun k hk => ?_⟩
  · rw [Lve.setVs_vr _ _ _ _ (by simpa using group), dif_neg]
    simp only [List.length_map, List.length_range]
    omega
  · rw [Lve.setVs_vr _ _ _ _ (by simpa using group), dif_pos (by simp [hk])]
    simp only [Nat.add_sub_cancel_left, List.getElem_map, List.getElem_range]
    exact Lve.holds_loadReg _ _ ends (fun i hi ha => if_pos (good i hi ha))

/-- VKLD takes 256 bytes of the key, zero beyond its length. -/
theorem lveVkld_bytes (key : List Byte) (f : LveFields) (l : Lve) : ∃ x, lveVkld key f l = some (l.setV f.d.toNat x) ∧
    ∀ k, k < 256 → elemN 8 x k = if 256 * f.imm.toNat + k < l.jr.keyLen then (key.getD (256 * f.imm.toNat + k) 0).toNat else 0 := by
  refine ⟨_, rfl, fun k hk => ?_⟩
  rw [elemN_packElems 8 256 _ k hk (by decide)]
  split
  · exact Nat.mod_eq_of_lt (BitVec.isLt _)
  · rfl

/-- Settles O7: the loads by `loadInto` and VLDF, the key load by its bytes. -/
theorem lveLoads : Obligations.LveLoads := by
  unfold Obligations.LveLoads
  refine ⟨lveDoes_of_effect .vldu (fun s r f l _ h => ⟨_, rfl, l.loadInto_good f (l.unitAddr f) h⟩),
    lveDoes_of_effect .vldp (fun s r f l _ h => ⟨_, rfl, l.loadInto_good f (l.pitchAddr f) h⟩),
    lveDoes_of_effect .vgather (fun s r f l _ h => ⟨_, rfl, l.loadInto_good f (l.indexAddr f) h⟩),
    lveDoes_of_effect .vldf (fun s r f l valid h => lveVldf_good valid h), fun s r f u runs => ?vkld⟩
  obtain ⟨x, effect, bytes⟩ := lveVkld_bytes (s.keyBus r u.eng) f u.eng
  exact ⟨x, runs.exec (eff := fun l => lveVkld (s.keyBus r l) f l) effect, bytes⟩

/-- Settles O8: the stores by `storeFrom` and VSTF. -/
theorem lveStores : Obligations.LveStores := by
  unfold Obligations.LveStores
  exact ⟨lveDoes_of_effect .vstu (fun s r f l _ ⟨wf, h⟩ => ⟨_, rfl, l.storeFrom_good f (l.unitAddr f) wf h⟩),
    lveDoes_of_effect .vstp (fun s r f l _ ⟨wf, h⟩ => ⟨_, rfl, l.storeFrom_good f (l.pitchAddr f) wf h⟩),
    lveDoes_of_effect .vscatter (fun s r f l _ ⟨wf, h⟩ => ⟨_, rfl, l.storeFrom_good f (l.indexAddr f) wf h⟩),
    lveDoes_of_effect .vstf (fun s r f l valid ⟨wf, h⟩ => lveVstf_good wf valid h)⟩

end Sys2Proof.Machine

/-! PROOF. Operand faults of the LVE. -/

namespace Sys2Proof.Machine

/-- Element `n` is the first active one that is bad. -/
def Lve.firstBad (l : Lve) (f : LveFields) (ok : Nat → Bool) (n : Nat) : Prop :=
  n < l.vlmax ∧ l.active f n = true ∧ ok n = false ∧ ∀ i, i < n → l.active f i = true → ok i = true

/-- The engine with an operand fault, its first. -/
def Lve.faulted (l : Lve) (i : W32) : Lve := { l with core := { l.core with vstart := i }, seq := { l.seq with fault := some (.operand i) } }

section
variable {o : LveOp} {addr : LveFields → Lve → Nat → Nat} (h1 : o ≠ .lend) (h2 : o ≠ .loop) (h3 : o ≠ .loopi)
include h1 h2 h3

/-- What the loads do where an element is bad, before and after the job has faulted (R210, R211). -/
theorem loads_faults (effect : ∀ s r f l, o.effect s r f l = some (l.loadInto f (addr f l))) :
    (∀ n, LveDoes o o.instr (fun f l => l.seq.fault = none ∧ l.firstBad f (fun i => l.loadOk (addr f l i) (l.sew / 8)) n) (fun f l l' =>
      ∃ x, l' = (l.setV f.d.toNat x).faulted (BitVec.ofNat 32 n) ∧ ∀ i, i < l.vlmax →
        elemN l.sew x i = if l.active f i = true ∧ i < n then l.loadElem (addr f l i) (l.sew / 8) else elemN l.sew (l.vr f.d.toNat) i)) ∧
    LveDoes o o.instr (fun _ l => l.seq.fault.isSome = true) (fun f l l' =>
      l.SetsD f l' (fun i y => y = if l.loadOk (addr f l i) (l.sew / 8) then l.loadElem (addr f l i) (l.sew / 8) else 0)) := by
  refine ⟨fun n => lveDoes_of_effect o ?first h1 h2 h3, lveDoes_of_effect o ?past h1 h2 h3⟩
  case first =>
    rintro s r f l - ⟨fresh, hn, ha, bad, good⟩
    obtain ⟨x, hx, elems⟩ := l.loadInto_faults f (addr f l) fresh hn ha bad good
    exact ⟨_, (effect s r f l).trans (congrArg some (hx.trans (Lve.operandFault_fresh (l := l.setV f.d.toNat x) fresh _))), x, rfl, elems⟩
  case past => exact fun s r f l _ past => ⟨_, effect s r f l, l.loadInto_past f (addr f l) past⟩

/-- What the stores do where an element is bad (R210). -/
theorem stores_faults (effect : ∀ s r f l, o.effect s r f l = some (l.storeFrom f (addr f l))) (n : Nat) :
    LveDoes o o.instr (fun f l => l.window.wf = true ∧ l.seq.fault = none ∧ l.firstBad f (fun i => l.storeOk (addr f l i) (l.sew / 8)) n) (fun f l l' =>
      ∃ w : Mem, l' = Lve.faulted { l with window := w } (BitVec.ofNat 32 n) ∧
        (∀ a, (∀ i, i < n → l.active f i = true → a < addr f l i ∨ addr f l i + l.sew / 8 ≤ a) → w.read a = l.window.read a) ∧
        ∀ i, i < n → l.active f i = true → (∀ j, i < j → j < n → l.active f j = true → addr f l i + l.sew / 8 ≤ addr f l j ∨ addr f l j + l.sew / 8 ≤ addr f l i) →
          ∀ b, b < l.sew / 8 → (w.read (addr f l i + b)).toNat = elemN l.sew (l.vr f.d.toNat) i / 256 ^ b % 256) := by
  refine lveDoes_of_effect o ?_ h1 h2 h3
  rintro s r f l - ⟨wf, fresh, hn, ha, bad, good⟩
  obtain ⟨w, hw, bytes⟩ := l.storeFrom_faults f (addr f l) wf fresh hn ha bad good
  exact ⟨_, (effect s r f l).trans (congrArg some (hw.trans (Lve.operandFault_fresh (l := { l with window := w }) fresh _))), w, rfl, bytes⟩

end

/-- SETOUT with a length that does not fit faults (R199, R210). -/
theorem lveSetout_faults {f : LveFields} {l : Lve} (fresh : l.seq.fault = none)
    (h : l.jr.outCap < (l.sr f.a.toNat).toNat ∨ l.regions.outMax < (l.sr f.a.toNat).toNat) : lveSetout f l = some (l.faulted 0xFFFFFFFF) := by
  have large : ¬ (l.sr f.a.toNat).toNat ≤ min l.jr.outCap l.regions.outMax := by omega
  simp only [lveSetout, if_neg large, fresh, Option.isSome_none, Bool.false_eq_true, if_false, Lve.operandFault_fresh fresh, Lve.faulted]

/-- Settles O9: the loads and the stores each by one lemma, and SETOUT. -/
theorem lveOperandFaults : Obligations.LveOperandFaults := by
  unfold Obligations.LveOperandFaults
  exact ⟨loads_faults (o := .vldu) (addr := fun f l => l.unitAddr f) (by decide) (by decide) (by decide) (fun _ _ _ _ => rfl),
    loads_faults (o := .vldp) (addr := fun f l => l.pitchAddr f) (by decide) (by decide) (by decide) (fun _ _ _ _ => rfl),
    loads_faults (o := .vgather) (addr := fun f l => l.indexAddr f) (by decide) (by decide) (by decide) (fun _ _ _ _ => rfl),
    stores_faults (o := .vstu) (addr := fun f l => l.unitAddr f) (by decide) (by decide) (by decide) (fun _ _ _ _ => rfl),
    stores_faults (o := .vstp) (addr := fun f l => l.pitchAddr f) (by decide) (by decide) (by decide) (fun _ _ _ _ => rfl),
    stores_faults (o := .vscatter) (addr := fun f l => l.indexAddr f) (by decide) (by decide) (by decide) (fun _ _ _ _ => rfl),
    lveDoes_of_effect .setout (fun s r f l _ ⟨fresh, h⟩ => ⟨_, lveSetout_faults fresh h, rfl⟩)⟩

end Sys2Proof.Machine

/-! PROOF. Masked instructions of the LVE: what their shares recombine to. -/

namespace Sys2Proof.Machine

/-! ### Groups of shares (R207) -/

theorem order_cases (f : LveFields) : f.order = 1 ∨ f.order = 2 := by
  unfold LveFields.order
  split
  · exact .inr rfl
  · exact .inl rfl

/-- The modulus of known arithmetic shares fits in an element. -/
theorem Lve.shareKnown_range {l : Lve} (h : l.shareKnown) : 0 < l.shareMod ∧ l.shareMod ≤ 2 ^ l.sew := by
  obtain ⟨ok, given⟩ := h
  unfold Lve.shareMod
  split
  · exact ⟨by positivity, le_refl _⟩
  next some_mod =>
    have known : l.modKnown := ⟨by simp [Lve.modOk, ok, some_mod], given⟩
    exact ⟨Lve.modulus_pos known, (Lve.modKnown_range known).2.2.le⟩

theorem Lve.shareKnown_of_modKnown {l : Lve} (h : l.modKnown) : l.shareKnown := by
  obtain ⟨ok, given⟩ := h
  exact ⟨(Bool.and_eq_true _ _ ▸ ok : _ ∧ _).2, given⟩

theorem Lve.share_lt (l : Lve) (base k i : Nat) : l.share base k i < 2 ^ l.sew := elemN_lt ..

theorem Lve.boolVal_eq (l : Lve) (base i : Nat) {o : Nat} (ho : o = 1 ∨ o = 2) : l.boolVal base o i = l.xorOf base o i := by
  rcases ho with rfl | rfl <;> simp [Lve.boolVal, Lve.xorOf, List.range_succ]

theorem Lve.arithVal_eq (l : Lve) (base i : Nat) {o : Nat} (ho : o = 1 ∨ o = 2) : l.arithVal l.shareMod base o i = l.sumOf base o i := by
  rcases ho with rfl | rfl <;> simp [Lve.arithVal, Lve.sumOf, List.range_succ]

theorem Lve.xorOf_lt (l : Lve) (base o i : Nat) : l.xorOf base o i < 2 ^ l.sew := by
  have h := l.share_lt base
  unfold Lve.xorOf
  split
  · exact Nat.xor_lt_two_pow (h 0 i) (h 1 i)
  · exact Nat.xor_lt_two_pow (Nat.xor_lt_two_pow (h 0 i) (h 1 i)) (h 2 i)

theorem Lve.sumOf_lt {l : Lve} (h : l.shareKnown) (base o i : Nat) : l.sumOf base o i < l.shareMod := Nat.mod_lt _ (Lve.shareKnown_range h).1

section
variable {l : Lve} {f : LveFields} {o : Nat} (g : Nat → Nat → Nat) (n m : Nat) (group : f.d.toNat + o < 32)

/-- What a group written by a masked instruction leaves alone. -/
theorem Lve.writeGroup_frame : (l.writeGroup f o g).drawn n m =
    { l with core := { l.core with v := ((l.writeGroup f o g).drawn n m).core.v }
             seq := { l.seq with maskUsed := l.seq.maskUsed + n, draws := ((l.writeGroup f o g).drawn n m).seq.draws } } := by
  rw [Lve.writeGroup, Lve.setVs_eq]
  rfl

include group

/-- The registers after a group is written. -/
theorem Lve.writeGroup_vr (j : Nat) : ((l.writeGroup f o g).drawn n m).vr j =
    if f.d.toNat ≤ j ∧ j ≤ f.d.toNat + o then l.mapActive f j (g (j - f.d.toNat)) else l.vr j := by
  change (l.writeGroup f o g).vr j = _
  rw [Lve.writeGroup, Lve.setVs_vr _ _ _ _ (by simp only [List.length_map, List.length_range]; omega)]
  by_cases inside : f.d.toNat ≤ j ∧ j ≤ f.d.toNat + o
  · have back : f.d.toNat + (j - f.d.toNat) = j := by omega
    rw [dif_pos (by simp only [List.length_map, List.length_range]; omega), if_pos inside]
    simp [back]
  · rw [dif_neg (by simp only [List.length_map, List.length_range]; omega), if_neg inside]

/-- The shares of an element after a group is written. -/
theorem Lve.writeGroup_share {k i : Nat} (hk : k ≤ o) (hi : i < l.vlmax) : ((l.writeGroup f o g).drawn n m).share f.d.toNat k i =
    if l.active f i then g k i % 2 ^ l.sew else l.share f.d.toNat k i := by
  have width : ((l.writeGroup f o g).drawn n m).sew = l.sew := by rw [Lve.writeGroup_frame]; rfl
  rw [Lve.share, width, Lve.writeGroup_vr g n m group, if_pos (by omega), Nat.add_sub_cancel_left, Lve.mapActive, l.elem_pack _ i hi]
  split
  · rfl
  · exact elemN_mod ..

theorem Lve.writeGroup_setsGroup : l.SetsGroup f o n ((l.writeGroup f o g).drawn n m) := by
  refine ⟨Lve.writeGroup_frame g n m, fun k hk => ?_, fun k i hk hi ha => ?_⟩
  · rw [Lve.writeGroup_vr g n m group, if_neg (by omega)]
  · rw [Lve.writeGroup_share g n m group hk hi, if_neg (by simp [ha])]

end

/-! ### Fresh shares (R208) -/

theorem xor_mask (a b : Nat) : a ^^^ b ^^^ b = a := by rw [Nat.xor_assoc, Nat.xor_self, Nat.xor_zero]

/-- An additive mask taken off again. -/
theorem add_mask {q r : Nat} (hr : r < q) (a : Nat) : ((a + (q - r)) % q + r) % q = a % q := by
  have := mod_sub_add (show 0 < q by omega) a r
  rwa [Nat.mod_eq_of_lt hr] at this

section
variable {l : Lve} {f : LveFields} {o : Nat} (r : LveRef) (x : Nat → Nat) (n m : Nat) (group : f.d.toNat + o < 32) (ho : o = 1 ∨ o = 2)
include group ho

/-- Fresh Boolean shares recombine to the value. -/
theorem Lve.boolShares_recombine {i : Nat} (hi : i < l.vlmax) (ha : l.active f i = true) (hx : x i < 2 ^ l.sew) :
    ((l.writeGroup f o (l.boolShares r o x)).drawn n m).xorOf f.d.toNat o i = x i := by
  have fresh : ∀ j, elemN l.sew (l.fresh r j) i % 2 ^ l.sew = elemN l.sew (l.fresh r j) i := fun j => elemN_mod ..
  have share : ∀ k, k ≤ o → ((l.writeGroup f o (l.boolShares r o x)).drawn n m).share f.d.toNat k i = l.boolShares r o x k i % 2 ^ l.sew := fun k hk => by
    rw [Lve.writeGroup_share _ n m group hk hi, if_pos ha]
  have value := Nat.mod_eq_of_lt hx
  rcases ho with rfl | rfl
  · simp [Lve.xorOf, share, Lve.boolShares, List.range_succ, Nat.xor_mod_two_pow, fresh, value]
  · have swap : ∀ a b c : Nat, a ^^^ b ^^^ c ^^^ b ^^^ c = a := fun a b c => by
      rw [Nat.xor_right_comm (a ^^^ b), xor_mask, xor_mask]
    simp [Lve.xorOf, share, Lve.boolShares, List.range_succ, Nat.xor_mod_two_pow, fresh, value, swap]

/-- Fresh arithmetic shares recombine to the value. -/
theorem Lve.arithShares_recombine (known : l.shareKnown) {i : Nat} (hi : i < l.vlmax) (ha : l.active f i = true) :
    ((l.writeGroup f o (l.arithShares r l.shareMod o x)).drawn n m).sumOf f.d.toNat o i = x i % l.shareMod := by
  obtain ⟨pos, fits⟩ := Lve.shareKnown_range known
  have modulus : ((l.writeGroup f o (l.arithShares r l.shareMod o x)).drawn n m).shareMod = l.shareMod := by rw [Lve.writeGroup_frame]; rfl
  have small : ∀ a, a % l.shareMod % 2 ^ l.sew = a % l.shareMod := fun a => Nat.mod_eq_of_lt (Nat.lt_of_lt_of_le (Nat.mod_lt a pos) fits)
  have mask : ∀ a b, ((a + (l.shareMod - b % l.shareMod)) % l.shareMod + b % l.shareMod) % l.shareMod = a % l.shareMod := fun a b => add_mask (Nat.mod_lt _ pos) a
  have share : ∀ k, k ≤ o → ((l.writeGroup f o (l.arithShares r l.shareMod o x)).drawn n m).share f.d.toNat k i =
      l.arithShares r l.shareMod o x k i % 2 ^ l.sew := fun k hk => by
    rw [Lve.writeGroup_share _ n m group hk hi, if_pos ha]
  rw [Lve.sumOf, modulus]
  rcases ho with rfl | rfl
  · simp only [share 0 (by omega), share 1 (by omega), Lve.arithShares, List.range_succ, List.range_zero, List.nil_append, List.foldl_cons, List.foldl_nil, if_true]
    rw [if_neg (by decide), small, small, Nat.add_zero, mask, Nat.mod_mod]
  · simp only [share 0 (by omega), share 1 (by omega), share 2 (by omega), Lve.arithShares, List.range_succ, List.range_zero, List.nil_append, List.cons_append,
      List.foldl_cons, List.foldl_nil, if_true]
    rw [if_neg (by decide), if_neg (by decide), if_neg (by decide), small, small, small, Nat.add_right_comm, ← Nat.mod_add_mod, mask, Nat.mod_add_mod, mask, Nat.mod_mod]

end

/-! ### The masking budget (R216) -/

theorem Lve.masking_fits {l : Lve} {n : Nat} (h : l.seq.maskUsed + n ≤ l.seq.maskBytes) (m : Nat) (eff : Lve → Lve) : l.masking n m eff = (eff l).drawn n m :=
  if_pos (by simpa [Lve.maskFits] using h)

section
variable {l : Lve} {f : LveFields} {n : Nat} (r : LveRef) (x : Nat → Nat) (group : f.d.toNat + f.order < 32) (fits : l.seq.maskUsed + n ≤ l.seq.maskBytes)
include group fits

/-- An instruction that leaves fresh Boolean shares of a value. -/
theorem lveFreshBool_recombines (hx : ∀ i, x i < 2 ^ l.sew) : ∃ l', lveFreshBool r n f l x = some l' ∧ l.SetsGroup f f.order n l' ∧
    ∀ i, i < l.vlmax → l.active f i = true → l'.xorOf f.d.toNat f.order i = x i :=
  ⟨_, congrArg some (Lve.masking_fits fits ..), Lve.writeGroup_setsGroup _ _ _ group,
    fun i hi ha => Lve.boolShares_recombine r x _ _ group (order_cases f) hi ha (hx i)⟩

/-- An instruction that leaves fresh arithmetic shares of a value. -/
theorem lveFreshArith_recombines (known : l.shareKnown) : ∃ l', lveFreshArith r n f l x = some l' ∧ l.SetsGroup f f.order n l' ∧
    ∀ i, i < l.vlmax → l.active f i = true → l'.sumOf f.d.toNat f.order i = x i % l.shareMod :=
  ⟨_, (if_pos known.1).trans (congrArg some (Lve.masking_fits fits ..)), Lve.writeGroup_setsGroup _ _ _ group,
    fun _ hi ha => Lve.arithShares_recombine r x _ _ group (order_cases f) known hi ha⟩

end

/-! ### BAND (R207) -/

/-- The two output shares of a first-order BAND recombine to the AND of the values. -/
theorem band_shares (a0 a1 b0 b1 r : Nat) :
    (a0 &&& b0) ^^^ r ^^^ ((a1 &&& b1) ^^^ ((r ^^^ (a0 &&& b1)) ^^^ (a1 &&& b0))) = (a0 ^^^ a1) &&& (b0 ^^^ b1) := by
  apply Nat.eq_of_testBit_eq
  intro k
  simp only [Nat.testBit_xor, Nat.testBit_and]
  cases a0.testBit k <;> cases a1.testBit k <;> cases b0.testBit k <;> cases b1.testBit k <;> cases r.testBit k <;> rfl

theorem lveBand_recombines {l : Lve} {f : LveFields} (r : LveRef) (group : f.d.toNat + f.order < 32)
    (fits : l.seq.maskUsed + (if f.order = 1 then 1 else 3) * l.maskW ≤ l.seq.maskBytes) :
    ∃ l', lveBand r f l = some l' ∧ l.SetsGroup f f.order ((if f.order = 1 then 1 else 3) * l.maskW) l' ∧
      ∀ i, i < l.vlmax → l.active f i = true → l'.xorOf f.d.toNat f.order i = l.xorOf f.a.toNat f.order i &&& l.xorOf f.b.toNat f.order i := by
  rcases order_cases f with h | h
  · rw [h] at group ⊢
    simp only [h, if_true, Nat.one_mul] at fits ⊢
    refine ⟨_, (if_pos h).trans (congrArg some (Lve.masking_fits fits ..)), Lve.writeGroup_setsGroup _ _ _ group, fun i hi ha => ?_⟩
    have small : ∀ k base, l.share base k i % 2 ^ l.sew = l.share base k i := fun k base => elemN_mod ..
    have fresh : elemN l.sew (l.fresh r 0) i % 2 ^ l.sew = elemN l.sew (l.fresh r 0) i := elemN_mod ..
    rw [Lve.xorOf, if_pos rfl, Lve.writeGroup_share _ _ _ group (by omega) hi, Lve.writeGroup_share _ _ _ group (by omega) hi, if_pos ha, if_pos ha,
      if_pos rfl, if_neg (by decide), ← Nat.xor_mod_two_pow, band_shares]
    simp only [Lve.xorOf, if_true, Nat.and_mod_two_pow, Nat.xor_mod_two_pow, small]
  · have value : ∀ base i, l.boolVal base 2 i = l.xorOf base 2 i := fun base i => l.boolVal_eq base i (.inr rfl)
    obtain ⟨l', he, hg, hx⟩ := lveFreshBool_recombines r (fun i => l.boolVal f.a.toNat 2 i &&& l.boolVal f.b.toNat 2 i) group
      (n := 3 * l.maskW) (by simpa [h] using fits) (fun i => by rw [value, value]; exact Nat.and_lt_two_pow _ (l.xorOf_lt ..))
    refine ⟨l', (if_neg (by omega)).trans he, by simpa [h] using hg, fun i hi ha => ?_⟩
    rw [hx i hi ha, value, value, h]

/-! ### The masked instructions (R207, R208) -/

/-- The destination group of an instruction lies within the registers. -/
theorem group_of_valid {o : LveOp} (ho : o ∈ [LveOp.split, .splita, .bxor, .band, .bnot, .aadd, .asub, .amont, .a2b, .b2a, .refresh]) {f : LveFields}
    (valid : o.valid f = true) : f.d.toNat + f.order < 32 := by
  have range := LveOp.valid_range valid
  simp only [List.mem_cons, List.not_mem_nil, or_false] at ho
  rcases ho with rfl | rfl | rfl | rfl | rfl | rfl | rfl | rfl | rfl | rfl | rfl <;>
    simp only [LveOp.rangeOk, Bool.and_eq_true, decide_eq_true_eq] at range <;> omega

/-- Settles O10: fresh shares recombine to the value that each instruction computes from its groups. -/
theorem lveMasked : Obligations.LveMasked := by
  unfold Obligations.LveMasked
  refine ⟨lveDoes_of_effect .split ?split, lveDoes_of_effect .refresh ?refresh, lveDoes_of_effect .band ?band, lveDoes_of_effect .a2b ?a2b,
    lveDoes_of_effect .splita ?splita, lveDoes_of_effect .b2a ?b2a, lveDoes_of_effect .amont ?amont⟩
  case split => exact fun s r f l valid fits => lveFreshBool_recombines r (l.elA f) (group_of_valid (by decide) valid) fits (l.elA_lt f)
  case refresh =>
    intro s r f l valid fits
    have value : l.boolVal f.a.toNat f.order = l.xorOf f.a.toNat f.order := funext (fun i => l.boolVal_eq _ i (order_cases f))
    exact value ▸ lveFreshBool_recombines r (l.boolVal f.a.toNat f.order) (group_of_valid (by decide) valid) fits (fun i => value ▸ l.xorOf_lt ..)
  case band => exact fun s r f l valid fits => lveBand_recombines r (group_of_valid (by decide) valid) fits
  case a2b =>
    intro s r f l valid ⟨known, fits⟩
    have value : l.arithVal l.shareMod f.a.toNat f.order = l.sumOf f.a.toNat f.order := funext (fun i => l.arithVal_eq _ i (order_cases f))
    obtain ⟨l', he, hs⟩ := lveFreshBool_recombines r (l.sumOf f.a.toNat f.order) (group_of_valid (by decide) valid) fits
      (fun i => (Lve.sumOf_lt known ..).trans_le (Lve.shareKnown_range known).2)
    exact ⟨l', (if_pos known.1).trans (value ▸ he), hs⟩
  case splita => exact fun s r f l valid ⟨known, fits⟩ => lveFreshArith_recombines r (l.elA f) (group_of_valid (by decide) valid) fits known
  case b2a =>
    intro s r f l valid ⟨known, fits⟩
    have value : l.boolVal f.a.toNat f.order = l.xorOf f.a.toNat f.order := funext (fun i => l.boolVal_eq _ i (order_cases f))
    exact value ▸ lveFreshArith_recombines r (l.boolVal f.a.toNat f.order) (group_of_valid (by decide) valid) fits known
  case amont =>
    intro s r f l valid ⟨known, fits⟩
    have value : l.arithVal l.shareMod f.a.toNat f.order = l.sumOf f.a.toNat f.order := funext (fun i => l.arithVal_eq _ i (order_cases f))
    obtain ⟨l', he, hs⟩ := lveFreshArith_recombines r (fun i => mont l.sew l.modulus (l.sumOf f.a.toNat f.order i) (l.elB f i))
      (group_of_valid (by decide) valid) fits (Lve.shareKnown_of_modKnown known)
    exact ⟨l', (if_pos known.1).trans (value ▸ he), hs⟩

end Sys2Proof.Machine

/-! PROOF. Share-wise masked instructions and the two joins. -/

namespace Sys2Proof.Machine

/-- An instruction that works share by share and draws nothing. -/
theorem shareWise_sets {l : Lve} {f : LveFields} {g : Nat → Nat → Nat} {p : Nat → Nat → Nat → Prop} (group : f.d.toNat + f.order < 32)
    (h : ∀ k i, p k i (g k i % 2 ^ l.sew)) : l.SetsGroup f f.order 0 (l.writeGroup f f.order g) ∧
      ∀ k i, k ≤ f.order → i < l.vlmax → l.active f i = true → p k i ((l.writeGroup f f.order g).share f.d.toNat k i) := by
  refine ⟨Lve.writeGroup_setsGroup g 0 0 group, fun k i hk hi ha => ?_⟩
  have share := Lve.writeGroup_share g 0 0 group hk hi
  rw [if_pos ha] at share
  exact share ▸ h k i

/-- The complement of an element flips its bits. -/
theorem testBit_complement {w a : Nat} (ha : a < 2 ^ w) {b : Nat} (hb : b < w) : ((2 ^ w - 1 - a) % 2 ^ w).testBit b = !a.testBit b := by
  rw [Nat.testBit_mod_two_pow, Nat.sub_sub, Nat.add_comm 1, Nat.testBit_two_pow_sub_succ ha]
  simp [hb]

/-- Settles O11: the share-wise instructions by one lemma, the joins by what a group recombines to. -/
theorem lveShareWise : Obligations.LveShareWise := by
  unfold Obligations.LveShareWise
  refine ⟨lveDoes_of_effect .bxor ?bxor, lveDoes_of_effect .bnot ?bnot, lveDoes_of_effect .aadd ?aadd, lveDoes_of_effect .asub ?asub,
    lveDoes_of_effect .joina ?joina, lveDoes_of_effect .vjoin ?vjoin⟩
  case bxor =>
    intro s r f l valid _
    exact ⟨_, rfl, shareWise_sets (p := fun k i y => y = l.share f.a.toNat k i ^^^ l.share f.b.toNat k i)
      (group_of_valid (by decide) valid) (fun k i => Nat.mod_eq_of_lt (Nat.xor_lt_two_pow (l.share_lt ..) (l.share_lt ..)))⟩
  case bnot =>
    intro s r f l valid _
    refine ⟨_, rfl, shareWise_sets (p := fun k i y =>
      if k = 0 then ∀ b, b < l.sew → y.testBit b = !(l.share f.a.toNat 0 i).testBit b else y = l.share f.a.toNat k i)
      (group_of_valid (by decide) valid) (fun k i => ?_)⟩
    split
    · exact fun b hb => testBit_complement (l.share_lt ..) hb
    · exact Nat.mod_eq_of_lt (l.share_lt ..)
  case aadd =>
    intro s r f l valid known
    obtain ⟨pos, fits⟩ := Lve.shareKnown_range known
    exact ⟨_, if_pos known.1, shareWise_sets (p := fun k i y => y = (l.share f.a.toNat k i + l.share f.b.toNat k i) % l.shareMod)
      (group_of_valid (by decide) valid) (fun k i => Nat.mod_eq_of_lt ((Nat.mod_lt _ pos).trans_le fits))⟩
  case asub =>
    intro s r f l valid known
    obtain ⟨pos, fits⟩ := Lve.shareKnown_range known
    refine ⟨_, if_pos known.1, shareWise_sets (p := fun k i y =>
      y < l.shareMod ∧ (y + l.share f.b.toNat k i) % l.shareMod = l.share f.a.toNat k i % l.shareMod)
      (group_of_valid (by decide) valid) (fun k i => ?_)⟩
    rw [Nat.mod_eq_of_lt ((Nat.mod_lt _ pos).trans_le fits)]
    exact ⟨Nat.mod_lt _ pos, mod_sub_add pos ..⟩
  case joina =>
    intro s r f l _ known
    refine ⟨_, if_pos known.1, l.setsD_mapActive f _ (fun i _ _ => ?_)⟩
    rw [l.arithVal_eq _ _ (order_cases f)]
    exact Nat.mod_eq_of_lt ((Lve.sumOf_lt known ..).trans_le (Lve.shareKnown_range known).2)
  case vjoin =>
    intro s r f l _ _
    refine ⟨_, rfl, l.setsD_mapActive f _ (fun i _ _ => ?_)⟩
    rw [l.boolVal_eq _ _ (order_cases f)]
    exact Nat.mod_eq_of_lt (l.xorOf_lt ..)

end Sys2Proof.Machine

/-! PROOF. Sampling on the LVE: VCBD and VREJ. -/

namespace Sys2Proof.Machine

/-! ### Centred binomial samples (R205) -/

/-- A bit of a register as a number. -/
theorem b2n_bit {w : Nat} (x : BitVec w) (j : Nat) : b2n (bit x j) = x.toNat >>> j % 2 := by
  have : bit x j = decide (x.toNat / 2 ^ j % 2 = 1) := by rw [bit, ← BitVec.testBit_toNat, Nat.testBit_eq_decide_div_mod_eq]
  rw [this, Nat.shiftRight_eq_div_pow]
  by_cases odd : x.toNat / 2 ^ j % 2 = 1
  · simp [odd, b2n]
  · simp [odd, b2n]
    omega

theorem b2n_le (b : Bool) : b2n b ≤ 1 := by cases b <;> decide

theorem foldl_add_eq_sum (f : Nat → Nat) (L : List Nat) : L.foldl (fun acc j => acc + f j) 0 = (L.map f).sum := by
  rw [List.sum_eq_foldl, List.foldl_map]

/-- The sum of a few bits. -/
theorem sum_bits_le {s : Nat → Nat} (hs : ∀ b, s b ≤ 1) (g : Nat → Nat) (n : Nat) : ((List.range n).map (fun j => s (g j))).sum ≤ n := by
  induction n with
  | zero => rfl
  | succ n ih =>
    have := hs (g n)
    simp only [List.range_succ, List.map_append, List.sum_append, List.map_singleton, List.sum_singleton]
    omega

/-- A sample is the difference of the sums of its bits. -/
theorem cbdSample_difference {md eta : Nat} {s : Nat → Nat} (hs : ∀ b, s b ≤ 1) (h : eta ≤ md) (i : Nat) :
    (cbdSample md eta s i + ((List.range eta).map (fun j => s (2 * i * eta + eta + j))).sum) % md = ((List.range eta).map (fun j => s (2 * i * eta + j))).sum % md := by
  have few := (sum_bits_le hs (fun j => 2 * i * eta + eta + j) eta).trans h
  simp only [cbdSample, foldl_add_eq_sum (fun j => s _)]
  rw [Nat.mod_add_mod, Nat.add_assoc, Nat.sub_add_cancel few, Nat.add_mod_right]

theorem cbdSample_lt {md : Nat} (h : 0 < md) (eta : Nat) (s : Nat → Nat) (i : Nat) : cbdSample md eta s i < md := Nat.mod_lt _ h

/-- A word without bits outside a mask is at most the mask. -/
theorem toNat_le_of_and_not {w : Nat} {x m : BitVec w} (h : x &&& ~~~ m = 0#w) : x.toNat ≤ m.toNat := by
  have parts : (x &&& m) ||| (x &&& ~~~ m) = x := by
    ext i hi
    cases hx : x[i] <;> simp [hx]
  rw [h, BitVec.or_zero] at parts
  rw [← parts, BitVec.toNat_and]
  exact Nat.and_le_right

/-- A modulus of known shares is at least 3. -/
theorem Lve.shareMod_ge {l : Lve} (known : l.shareKnown) : 3 ≤ l.shareMod := by
  obtain ⟨ok, given⟩ := known
  unfold Lve.shareMod
  split
  · rcases l.sew_cases with h | h | h | h <;> rw [h] <;> decide
  next some_mod => exact (Lve.modKnown_range ⟨by simp [Lve.modOk, ok, some_mod], given⟩).2.1

/-- η is at most 3, so that the sums of a sample are below every modulus. -/
theorem eta_le {l : Lve} {f : LveFields} (valid : LveOp.vcbd.valid f = true) (known : l.shareKnown) : f.imm.toNat ≤ l.shareMod := by
  have fields : (f.imm &&& ~~~ 3#24) = 0 := by
    simp only [LveOp.valid, LveOp.enc, Bool.and_eq_true, Bool.false_eq_true, if_false, beq_iff_eq] at valid
    exact valid.1.1.1.2.2
  exact (toNat_le_of_and_not fields).trans (Lve.shareMod_ge known)

/-- VCBD without masking (R205). -/
theorem lveVcbd_plain {f : LveFields} {l : Lve} (r : LveRef) (valid : LveOp.vcbd.valid f = true) (known : l.shareKnown) (plain : bit f.sub 0 = false) :
    ∃ l', lveVcbd r f l = some l' ∧ l.SetsD f l' (fun i y => y < l.shareMod ∧
      (y + ((List.range f.imm.toNat).map (fun j => b2n (bit (l.vr f.a.toNat) (2 * i * f.imm.toNat + f.imm.toNat + j)))).sum) % l.shareMod =
        ((List.range f.imm.toNat).map (fun j => b2n (bit (l.vr f.a.toNat) (2 * i * f.imm.toNat + j)))).sum % l.shareMod) := by
  obtain ⟨pos, fits⟩ := Lve.shareKnown_range known
  have effect : lveVcbd r f l = some (l.setV f.d.toNat (l.mapActive f f.d.toNat (cbdSample l.shareMod f.imm.toNat (fun b => b2n (bit (l.vr f.a.toNat) b))))) := by
    simp only [lveVcbd, known.1, plain, if_true, Bool.false_eq_true, if_false, b2n_bit]
  refine ⟨_, effect, l.setsD_mapActive f _ (fun i _ _ => ?_)⟩
  rw [Nat.mod_eq_of_lt ((cbdSample_lt pos ..).trans_le fits)]
  exact ⟨cbdSample_lt pos .., cbdSample_difference (fun _ => b2n_le _) (eta_le valid known) i⟩

/-- A bit of a masked stream. -/
def Lve.streamBit (l : Lve) (f : LveFields) (o b : Nat) : Nat :=
  b2n (if o = 1 then bit (l.vr f.a.toNat) b != bit (l.vr (f.a.toNat + 1)) b
    else (bit (l.vr f.a.toNat) b != bit (l.vr (f.a.toNat + 1)) b) != bit (l.vr (f.a.toNat + 2)) b)

theorem Lve.streamBit_eq (l : Lve) (f : LveFields) {o : Nat} (ho : o = 1 ∨ o = 2) (b : Nat) :
    (List.range (o + 1)).foldl (fun acc k => acc ^^^ (l.vr (f.a.toNat + k)).toNat >>> b % 2) 0 % 2 = l.streamBit f o b := by
  have xor_bits : ∀ x y, b2n x ^^^ b2n y = b2n (x != y) := by decide
  have mod_bit : ∀ x, b2n x % 2 = b2n x := by decide
  rcases ho with rfl | rfl <;> simp [Lve.streamBit, List.range_succ, ← b2n_bit, xor_bits, mod_bit]

/-- VCBD from a masked stream: shares of the sample (R205). -/
theorem lveVcbd_masked {f : LveFields} {l : Lve} (r : LveRef) (valid : LveOp.vcbd.valid f = true) (known : l.shareKnown) (masked : bit f.sub 0 = true)
    {o : Nat} (order : o = if bit f.sub 1 then 2 else 1) (fits : l.seq.maskUsed + (if o = 2 then 6 else 2) * l.maskW ≤ l.seq.maskBytes) :
    ∃ l', lveVcbd r f l = some l' ∧ l.SetsGroup f o ((if o = 2 then 6 else 2) * l.maskW) l' ∧
      ∀ i, i < l.vlmax → l.active f i = true →
        (l'.sumOf f.d.toNat o i + ((List.range f.imm.toNat).map (fun j => l.streamBit f o (2 * i * f.imm.toNat + f.imm.toNat + j))).sum) % l.shareMod =
          ((List.range f.imm.toNat).map (fun j => l.streamBit f o (2 * i * f.imm.toNat + j))).sum % l.shareMod := by
  obtain ⟨pos, -⟩ := Lve.shareKnown_range known
  have ho : o = 1 ∨ o = 2 := by rw [order]; split <;> simp
  have coded : b2n (bit f.sub 1) + 1 = o := by rw [order]; cases bit f.sub 1 <;> rfl
  have bytes : (if o = 1 then 2 else 6) = (if o = 2 then 6 else 2) := by rcases ho with rfl | rfl <;> rfl
  have group : f.d.toNat + o < 32 := by
    have range := LveOp.valid_range valid
    simp only [LveOp.rangeOk, Bool.and_eq_true, decide_eq_true_eq] at range
    have first : f.sub.getLsbD 0 = true := masked
    have := range.1.2
    rwa [if_pos first, show b2n (f.sub.getLsbD 1) + 1 = o from coded] at this
  have effect : lveVcbd r f l = some (l.masking ((if o = 2 then 6 else 2) * l.maskW) (o + 1) (fun m =>
      m.writeGroup f o (m.arithShares r m.shareMod o (cbdSample m.shareMod f.imm.toNat (l.streamBit f o))))) := by
    simp only [lveVcbd, known.1, masked, if_true, coded, bytes, Lve.streamBit_eq _ _ ho]
  refine ⟨_, effect.trans (congrArg some (Lve.masking_fits fits ..)), Lve.writeGroup_setsGroup _ _ _ group, fun i hi ha => ?_⟩
  rw [Lve.arithShares_recombine r _ _ _ group ho known hi ha, Nat.mod_add_mod]
  exact cbdSample_difference (fun _ => b2n_le _) (eta_le valid known) i

/-! ### Squeezing, and groups written as one sequence (R206, R209) -/

/-- Squeezing changes the hash units and the number of draws alone. -/
theorem Lve.squeeze_keeps (l : Lve) (r : LveRef) (n : Nat) :
    (l.squeeze r n).2 = { l with hash := (l.squeeze r n).2.hash, seq := { l.seq with draws := (l.squeeze r n).2.seq.draws } } := by
  induction n generalizing l with
  | zero => rfl
  | succ n ih =>
    unfold Lve.squeeze
    by_cases full : l.hash.kpos = l.kRate
    · simp only [full, if_true]
      rw [ih]
    · simp only [full, if_false]
      rw [ih]

theorem Lve.squeeze_core (l : Lve) (r : LveRef) (n : Nat) : (l.squeeze r n).2.core = l.core := by rw [Lve.squeeze_keeps]

/-- Writing a group changes the registers alone. -/
theorem Lve.groupWrite_keeps (l : Lve) (d gs p : Nat) (xs : List Nat) :
    l.groupWrite d gs p xs = { l with core := { l.core with v := (l.groupWrite d gs p xs).core.v } } := Lve.setVs_eq ..

/-- An element of a group written as one sequence. -/
theorem Lve.elem_groupWrite (l : Lve) {d gs : Nat} (p : Nat) (xs : List Nat) (group : d + gs ≤ 32) {k i : Nat} (hk : k < gs) (hi : i < l.vlmax) :
    elemN l.sew ((l.groupWrite d gs p xs).vr (d + k)) i = if k * l.vlmax + i < p then elemN l.sew (l.vr (d + k)) i
      else (xs[k * l.vlmax + i - p]?.map (· % 2 ^ l.sew)).getD (elemN l.sew (l.vr (d + k)) i) := by
  rw [Lve.groupWrite, Lve.setVs_vr _ _ _ _ (by simpa using group), dif_pos (by simp [hk])]
  simp only [Nat.add_sub_cancel_left, List.getElem_map, List.getElem_range, l.elem_pack _ i hi]
  split
  · exact elemN_mod ..
  · cases xs[k * l.vlmax + i - p]? with
    | none => exact elemN_mod ..
    | some x => rfl

theorem Lve.setM_mr (l : Lve) {k : Nat} (x : MReg) (hk : k < 8) : (l.setM k x).mr k = x := by
  simp [Lve.setM, Lve.mr, hk]

/-- The engine after so many masking bytes have been counted. -/
def Lve.charged (l : Lve) (n : Nat) : Lve := { l with seq := { l.seq with maskUsed := l.seq.maskUsed + n } }

theorem Lve.withPerms_fits {l : Lve} {p : Nat} (h : l.seq.maskUsed + l.permMask p ≤ l.seq.maskBytes) (eff : Lve → Lve) :
    l.withPerms p eff = eff (l.charged (l.permMask p)) :=
  if_pos (by simpa [Lve.maskFits] using h)

/-! ### VREJ (R206) -/

/-- The groups of VREJ lie within the registers. -/
theorem vrej_group {f : LveFields} (valid : LveOp.vrej.valid f = true) : f.d.toNat + 2 ^ (f.imm.toNat / 256) ≤ 32 := by
  have range := LveOp.valid_range valid
  simp only [LveOp.rangeOk, Bool.and_eq_true, decide_eq_true_eq] at range
  exact range.2

section
variable {f : LveFields} {l : Lve} (r : LveRef) (valid : LveOp.vrej.valid f = true) (squeezing : l.hash.ksqueeze = true) (ok : l.modOk = true)
include valid squeezing ok

/-- VREJ from a PUBLIC stream: accepted values follow those that the count gives. -/
theorem lveVrej_public (shown : l.hash.kpublic = true) (hm : f.km = 0) {n p : Nat} (hn : n = f.imm.toNat / 16 % 16 * l.kRate) (hp : p = (l.sr f.a.toNat).toNat)
    {xs : List Nat} (hxs : xs = ((vrejCands (f.imm.toNat % 16) ((l.squeeze r n).1.map (fun b => b 0))).filter (vrejAccept (f.imm.toNat % 16))).take
      (2 ^ (f.imm.toNat / 256) * l.vlmax - p)) :
    ∃ l', lveVrej r f l = some l' ∧
      l' = { (l.squeeze r n).2 with core := { (l.squeeze r n).2.core with v := l'.core.v, sc := l'.core.sc } } ∧
      l'.core.sc = (l.setS f.a.toNat (BitVec.ofNat 64 (p + xs.length))).core.sc ∧
      ∀ k i, k < 2 ^ (f.imm.toNat / 256) → i < l.vlmax → elemN l.sew (l'.vr (f.d.toNat + k)) i =
        if k * l.vlmax + i < p then elemN l.sew (l.vr (f.d.toNat + k)) i
        else (xs[k * l.vlmax + i - p]?.map (fun c => vrejValue (f.imm.toNat % 16) l.modulus c % 2 ^ l.sew)).getD (elemN l.sew (l.vr (f.d.toNat + k)) i) := by
  have core := l.squeeze_core r n
  have effect : lveVrej r f l = some (((l.squeeze r n).2.groupWrite f.d.toNat (2 ^ (f.imm.toNat / 256)) p
      (xs.map (vrejValue (f.imm.toNat % 16) l.modulus))).setS f.a.toNat (BitVec.ofNat 64 (p + xs.length))) := by
    simp only [lveVrej, squeezing, ok, shown, hm, hxs, hn, hp, Bool.not_true, Bool.or_self, Bool.false_eq_true, if_false, if_true]
  refine ⟨_, effect, ?_, ?_, fun k i hk hi => ?_⟩
  · rw [Lve.groupWrite_keeps]
    rfl
  · rw [Lve.groupWrite_keeps]
    simp only [Lve.setS, core]
  · have width : (l.squeeze r n).2.sew = l.sew := by simp only [Lve.sew, core]
    have count : (l.squeeze r n).2.vlmax = l.vlmax := by simp only [Lve.vlmax, width]
    have regs : (l.squeeze r n).2.vr = l.vr := by funext k; simp only [Lve.vr, core]
    have elem := (l.squeeze r n).2.elem_groupWrite p (xs.map (vrejValue (f.imm.toNat % 16) l.modulus)) (vrej_group valid) hk (count ▸ hi)
    rw [width, count, regs] at elem
    rw [List.getElem?_map, Option.map_map] at elem
    exact elem

/-- VREJ from a stream that is not PUBLIC: every candidate is written, the mask says which are accepted. -/
theorem lveVrej_secret (hidden : l.hash.kpublic = false) (ha : f.a = 0) {n : Nat} (hn : n = f.imm.toNat / 16 % 16 * l.kRate)
    (fewer : n * (if f.imm.toNat % 16 < 2 then 2 else 6) / (if f.imm.toNat % 16 = 1 then 6 else 3) ≤ min (2 ^ (f.imm.toNat / 256) * l.vlmax) 256)
    (fits : l.seq.maskUsed + l.permMask (l.squeezePerms n) ≤ l.seq.maskBytes) {q : List (Nat → Byte) × Lve}
    (hq : q = (l.charged (l.permMask (l.squeezePerms n))).squeeze r n) {cs : List Nat}
    (hcs : cs = vrejCands (f.imm.toNat % 16) (q.1.map (fun b => (List.range l.hash.kshares.length).foldl (fun x k => x ^^^ b k) 0))) :
    ∃ l', lveVrej r f l = some l' ∧ l' = { q.2 with core := { q.2.core with v := l'.core.v, m := l'.core.m } } ∧
      (∀ k i, k < 2 ^ (f.imm.toNat / 256) → i < l.vlmax → elemN l.sew (l'.vr (f.d.toNat + k)) i =
        (cs[k * l.vlmax + i]?.map (fun c => (if vrejAccept (f.imm.toNat % 16) c then vrejValue (f.imm.toNat % 16) l.modulus c else c) % 2 ^ l.sew)).getD
          (elemN l.sew (l.vr (f.d.toNat + k)) i)) ∧
      ∀ j, j < 256 → bit (l'.mr f.km.toNat) j = (cs[j]?.map (vrejAccept (f.imm.toNat % 16))).getD (bit (l.mr f.km.toNat) j) := by
  have core : q.2.core = l.core := hq ▸ Lve.squeeze_core ..
  have effect : lveVrej r f l = some ((q.2.groupWrite f.d.toNat (2 ^ (f.imm.toNat / 256)) 0
      (cs.map (fun c => if vrejAccept (f.imm.toNat % 16) c then vrejValue (f.imm.toNat % 16) l.modulus c else c))).setM f.km.toNat
        (packMask (fun j => match cs[j]? with | some c => vrejAccept (f.imm.toNat % 16) c | none => bit (l.mr f.km.toNat) j))) := by
    simp only [lveVrej, squeezing, ok, hidden, ha, fewer, ← hn, Bool.not_true, Bool.or_self, Bool.false_eq_true, if_false, and_self, if_true,
      Lve.withPerms_fits fits, hcs, hq]
    rfl
  refine ⟨_, effect, ?_, fun k i hk hi => ?_, fun j hj => ?_⟩
  · rw [Lve.groupWrite_keeps]
    rfl
  · have width : q.2.sew = l.sew := by simp only [Lve.sew, core]
    have count : q.2.vlmax = l.vlmax := by simp only [Lve.vlmax, width]
    have regs : q.2.vr = l.vr := by funext k; simp only [Lve.vr, core]
    have elem := q.2.elem_groupWrite 0 (cs.map (fun c => if vrejAccept (f.imm.toNat % 16) c then vrejValue (f.imm.toNat % 16) l.modulus c else c))
      (vrej_group valid) hk (count ▸ hi)
    rw [width, count, regs, if_neg (Nat.not_lt_zero _), Nat.sub_zero, List.getElem?_map, Option.map_map] at elem
    exact elem
  · rw [Lve.setM_mr _ _ f.km.isLt, bit_packMask _ _ hj]
    cases cs[j]? <;> rfl

end

/-- Settles O12: VCBD by its samples, VREJ by the sequence that its group is written with. -/
theorem lveSampling : Obligations.LveSampling := by
  unfold Obligations.LveSampling
  refine ⟨lveDoes_of_effect .vcbd ?plain, lveDoes_of_effect .vcbd ?masked, ?shown, ?hidden⟩
  case plain => exact fun s r f l valid ⟨known, plain⟩ => lveVcbd_plain r valid known plain
  case masked =>
    intro s r f l valid ⟨known, masked, fits⟩
    by_cases second : bit f.sub 1 = true
    · simp only [second, if_true] at fits ⊢
      exact lveVcbd_masked (o := 2) r valid known masked (by simp [second]) fits
    · simp only [second] at fits ⊢
      exact lveVcbd_masked (o := 1) r valid known masked (by simp [second]) fits
  case shown =>
    intro s r f u runs squeezing known l gs n q p shown hm good xs
    obtain ⟨l', effect, frame, count, elems⟩ := lveVrej_public r runs.valid squeezing known.1 shown hm (n := n) rfl (p := p) rfl (xs := xs) rfl
    refine ⟨l', runs.exec (eff := fun l => lveVrej r f l) effect, frame, count, fun k i hk hi => (elems k i hk hi).trans ?_⟩
    split
    · rfl
    · cases xs[k * l.vlmax + i - p]? <;> rfl
  case hidden =>
    intro s r f u runs squeezing known l mode gs n need q cs hidden ha fewer fits
    obtain ⟨l', effect, frame, elems, mask⟩ := lveVrej_secret r runs.valid squeezing known.1 hidden ha (n := n) rfl fewer fits (q := q) rfl (cs := cs) rfl
    refine ⟨l', runs.exec (eff := fun l => lveVrej r f l) effect, frame, fun k i hk hi => (elems k i hk hi).trans ?_, fun j hj => (mask j hj).trans ?_⟩
    · cases cs[k * l.vlmax + i]? <;> rfl
    · cases cs[j]? <;> rfl

end Sys2Proof.Machine

/-! PROOF. The hash units of the LVE: the sponge, its shares, and the SHA-2 unit. -/

namespace Sys2Proof.Machine

/-! ### Shares of a Keccak state (R188, R209) -/

theorem kVal_cons (s : KState) (sh : List KState) : kVal (s :: sh) = s ^^^ kVal sh := by
  have first : (0 : KState) ^^^ s = s ^^^ 0 := BitVec.xor_comm ..
  rw [kVal, kVal, List.foldl_cons, first]
  exact List.foldl_assoc

theorem foldl_xor (x : KState) (sh : List KState) : sh.foldl (· ^^^ ·) x = x ^^^ kVal sh := by
  have split := List.foldl_assoc (op := fun a b : KState => a ^^^ b) (l := sh) (a₁ := x) (a₂ := 0)
  rwa [show x ^^^ (0 : KState) = x from BitVec.xor_zero] at split

theorem kVal_single (s : KState) : kVal [s] = s := by rw [kVal_cons]; exact BitVec.xor_zero

/-- The permutation of a masked state: some shares are fresh, the first makes them recombine. -/
theorem kPermute_masked (r : LveRef) (n : Nat) (s t : KState) (rest : List KState) : ∃ fresh : List KState, fresh.length = rest.length + 1 ∧
    kPermute r n (s :: t :: rest) = fresh.foldl (· ^^^ ·) (keccakF (kVal (s :: t :: rest))) :: fresh :=
  ⟨(List.range (rest.length + 1)).map (fun j => Config.freeKeccak r.die r.engine (n + j)), by simp, by simp [kPermute]⟩

/-- A permutation of the shares is the permutation of their value. -/
theorem kVal_kPermute (r : LveRef) (n : Nat) {sh : List KState} (h : sh ≠ []) : kVal (kPermute r n sh) = keccakF (kVal sh) := by
  match sh, h with
  | [s], _ => simp only [kPermute, kVal_single]
  | s :: t :: rest, _ =>
    obtain ⟨fresh, -, permuted⟩ := kPermute_masked r n s t rest
    rw [permuted, kVal_cons, foldl_xor, BitVec.xor_assoc, BitVec.xor_self, BitVec.xor_zero]

theorem kPermute_length (r : LveRef) (n : Nat) (sh : List KState) : (kPermute r n sh).length = sh.length := by
  match sh with
  | [] => simp only [kPermute]
  | [s] => simp only [kPermute, List.length_singleton]
  | s :: t :: rest =>
    obtain ⟨fresh, length, permuted⟩ := kPermute_masked r n s t rest
    rw [permuted, List.length_cons, length]
    rfl

/-- A byte spread over one share after another is the XOR of its parts. -/
def byteVal (o : Nat) (b : Nat → Byte) : Byte := (List.range o).foldl (fun x k => x ^^^ b k) 0

theorem byteVal_succ (o : Nat) (b : Nat → Byte) : byteVal (o + 1) b = b 0 ^^^ byteVal o (fun k => b (k + 1)) := by
  induction o with
  | zero => simp [byteVal]
  | succ o ih =>
    have last : ∀ o (b : Nat → Byte), byteVal (o + 1) b = byteVal o b ^^^ b o := fun o b => by simp [byteVal, List.range_succ]
    rw [last, ih, last, BitVec.xor_assoc]

theorem kXorByte_xor (s t : KState) (p : Nat) (x y : Byte) : kXorByte s p x ^^^ kXorByte t p y = kXorByte (s ^^^ t) p (x ^^^ y) := by
  have spread : BitVec.ofNat 1600 ((x ^^^ y).toNat <<< (8 * p)) = BitVec.ofNat 1600 (x.toNat <<< (8 * p)) ^^^ BitVec.ofNat 1600 (y.toNat <<< (8 * p)) := by
    apply BitVec.eq_of_toNat_eq
    rw [BitVec.toNat_xor, BitVec.toNat_xor, BitVec.toNat_ofNat, BitVec.toNat_ofNat, BitVec.toNat_ofNat, Nat.shiftLeft_xor_distrib, Nat.xor_mod_two_pow]
  unfold kXorByte
  rw [spread]
  ac_rfl

/-- The value of the shares after a byte's shares are absorbed. -/
theorem kVal_kXorShares (sh : List KState) (p : Nat) (b : Nat → Byte) : kVal (kXorShares sh p b) = kXorByte (kVal sh) p (byteVal sh.length b) := by
  induction sh generalizing b with
  | nil => simp [kXorShares, kVal, byteVal, kXorByte]
  | cons s sh ih =>
    have tail := ih (fun k => b (k + 1))
    rw [kXorShares] at tail ⊢
    rw [List.mapIdx_cons, kVal_cons, tail, List.length_cons, byteVal_succ, kVal_cons, kXorByte_xor]

theorem kXorShares_length (sh : List KState) (p : Nat) (b : Nat → Byte) : (kXorShares sh p b).length = sh.length := List.length_mapIdx

/-- What an unmasked sponge that has taken the same bytes has in common with a masked one: its value, its position and its function. -/
structure Opens (l m : Lve) : Prop where
  shares : l.hash.kshares ≠ []
  value : m.hash.kshares = [kVal l.hash.kshares]
  pos : m.hash.kpos = l.hash.kpos
  code : m.hash.kfun = l.hash.kfun

/-- One byte absorbed, with the permutation that a full block brings. -/
def Lve.absorbByte (l : Lve) (r : LveRef) (b : Nat → Byte) : Lve :=
  let sh := kXorShares l.hash.kshares l.hash.kpos b
  if l.hash.kpos + 1 = l.kRate then
    { l with hash := { l.hash with kshares := kPermute r l.seq.draws sh, kpos := 0 }, seq := { l.seq with draws := l.seq.draws + sh.length } }
  else { l with hash := { l.hash with kshares := sh, kpos := l.hash.kpos + 1 } }

theorem Lve.absorb_cons (l : Lve) (r : LveRef) (b : Nat → Byte) (bs : List (Nat → Byte)) : l.absorb r (b :: bs) = (l.absorbByte r b).absorb r bs := rfl

theorem Lve.absorbByte_length (l : Lve) (r : LveRef) (b : Nat → Byte) : (l.absorbByte r b).hash.kshares.length = l.hash.kshares.length := by
  unfold Lve.absorbByte
  split
  · exact (kPermute_length ..).trans (kXorShares_length ..)
  · exact kXorShares_length ..

/-- A byte keeps two sponges together. -/
theorem Opens.absorbByte {l m : Lve} (h : Opens l m) (r : LveRef) (b : Nat → Byte) :
    Opens (l.absorbByte r b) (m.absorbByte r (fun _ => byteVal l.hash.kshares.length b)) := by
  obtain ⟨shares, value, pos, code⟩ := h
  have rate : m.kRate = l.kRate := by rw [Lve.kRate, code]; rfl
  have byte : kXorShares m.hash.kshares l.hash.kpos (fun _ => byteVal l.hash.kshares.length b) = [kVal (kXorShares l.hash.kshares l.hash.kpos b)] := by
    rw [value, kVal_kXorShares]
    rfl
  have kept : (l.absorbByte r b).hash.kshares ≠ [] := fun e => shares (List.length_eq_zero_iff.mp (by rw [← l.absorbByte_length r b, e]; rfl))
  have absorbed : kXorShares l.hash.kshares l.hash.kpos b ≠ [] := fun e => shares (List.length_eq_zero_iff.mp (by rw [← kXorShares_length, e]; rfl))
  refine ⟨kept, ?_, ?_, ?_⟩ <;> simp only [Lve.absorbByte, rate, pos, byte] <;> split
  · rw [kVal_kPermute _ _ absorbed]
    rfl
  · rfl
  · rfl
  · rfl
  · exact code
  · exact code

/-- Absorbing keeps the number of shares, and their value is what the unmasked sponge absorbs (R188). -/
theorem Opens.absorb (r : LveRef) (bs : List (Nat → Byte)) {l m : Lve} (h : Opens l m) :
    (l.absorb r bs).hash.kshares.length = l.hash.kshares.length ∧
      [kVal (l.absorb r bs).hash.kshares] = (m.absorb r (bs.map (fun b _ => byteVal l.hash.kshares.length b))).hash.kshares := by
  induction bs generalizing l m with
  | nil => exact ⟨rfl, h.value.symm⟩
  | cons b bs ih =>
    have next := ih (h.absorbByte r b)
    rwa [l.absorbByte_length r b] at next

/-! ### Bytes from memory -/

section
variable {base n : Nat} (l : Lve)

theorem Lve.byteFault_none (good : ∀ i, i < n → l.loadOk ((base + i) % 2 ^ 64) 1 = true) : l.byteFault base n = none := by
  unfold Lve.byteFault
  split
  · rfl
  · refine List.find?_eq_none.mpr (fun i hi bad => ?_)
    rw [addr64, good i (List.mem_range.mp hi)] at bad
    exact absurd bad (by decide)

theorem Lve.byteAt_good {i : Nat} (good : l.loadOk ((base + i) % 2 ^ 64) 1 = true) : l.byteAt base i = l.loadByte ((base + i) % 2 ^ 64) := if_pos good

end

/-! ### What each instruction of the sponge does (R188, R209) -/

theorem lveKinit_eq (f : LveFields) (l : Lve) : lveKinit f l = some { l with hash := { l.hash with
    kshares := List.replicate (if bit f.sub 7 then (if bit f.sub 6 then 3 else 2) else 1) 0
    kpublic := !bit f.sub 7
    kpos := 0
    kfun := f.sub.toNat % 8
    ksqueeze := false } } := by
  have shares : (if bit f.sub 7 = true then b2n (bit f.sub 6) + 1 else 0) + 1 = if bit f.sub 7 = true then (if bit f.sub 6 = true then 3 else 2) else 1 := by
    cases bit f.sub 7 <;> cases bit f.sub 6 <;> rfl
  simp only [lveKinit, shares]

theorem lveKfin_cons {l : Lve} (absorbing : l.hash.ksqueeze = false) {s0 : KState} {rest : List KState} (shares : l.hash.kshares = s0 :: rest) :
    lveKfin l = some { l with hash := { l.hash with
      kshares := (if l.hash.kfun < 5 then kPad l.kRate (if l.hash.kfun ≤ 1 then 0x1F else 0x06) s0 l.hash.kpos else s0) :: rest
      kpos := l.kRate
      ksqueeze := true } } := by
  have raw : (if 5 ≤ l.hash.kfun then s0 else kPad l.kRate (kDomain l.hash.kfun) s0 l.hash.kpos) =
      if l.hash.kfun < 5 then kPad l.kRate (kDomain l.hash.kfun) s0 l.hash.kpos else s0 := by
    by_cases h : l.hash.kfun < 5
    · rw [if_pos h, if_neg (Nat.not_le.mpr h)]
    · rw [if_neg h, if_pos (Nat.not_lt.mp h)]
  simp only [lveKfin, absorbing, shares, raw, Bool.false_eq_true, if_false]
  rfl

/-- The engine as a masked sponge begins to absorb: its PUBLIC flag set, its masking bytes counted. -/
def Lve.absorbStart (l : Lve) (p : Bool) (n : Nat) : Lve :=
  { l with hash := { l.hash with kpublic := p }, seq := { l.seq with maskUsed := l.seq.maskUsed + l.permMask ((l.hash.kpos + n) / l.kRate) } }

section
variable {l : Lve} {f : LveFields} {n : Nat}

theorem Lve.absorb_charged (fits : l.seq.maskUsed + l.permMask ((l.hash.kpos + n) / l.kRate) ≤ l.seq.maskBytes) (p : Bool) (eff : Lve → Lve) :
    ({ l with hash := { l.hash with kpublic := p } } : Lve).withPerms (({ l with hash := { l.hash with kpublic := p } } : Lve).absorbPerms n) eff = eff (l.absorbStart p n) :=
  Lve.withPerms_fits (l := { l with hash := { l.hash with kpublic := p } }) fits eff

/-- A number of bytes that a register gives. -/
theorem toNat_bytes {w : W64} (hw : w = BitVec.ofNat 64 n) (hn : n ≤ 4096) : w.toNat = n := by
  rw [hw, BitVec.toNat_ofNat]
  omega

variable (absorbing : l.hash.ksqueeze = false) (count : l.sr f.b.toNat = BitVec.ofNat 64 n)
  (fits : l.seq.maskUsed + l.permMask ((l.hash.kpos + n) / l.kRate) ≤ l.seq.maskBytes) (r : LveRef)
include absorbing count fits

theorem lveKabs_eq (few : n ≤ 256) (group : f.a.toNat + (l.hash.kshares.length - 1) < 32) : lveKabs r f l =
    some ((l.absorbStart false n).absorb r ((List.range n).map (fun i k => BitVec.ofNat 8 (elemN 8 (l.vr (f.a.toNat + k)) i)))) := by
  have bytes := toNat_bytes count (few.trans (by decide))
  have runs : (l.hash.ksqueeze || decide (32 ≤ f.a.toNat + l.kOrder)) = false := by
    rw [absorbing, Bool.false_or]
    exact decide_eq_false (Nat.not_le.mpr group)
  simp only [lveKabs, runs, bytes, Nat.not_lt.mpr few, Bool.false_eq_true, if_false]
  exact congrArg some (Lve.absorb_charged fits false _)

theorem lveKabsm_eq (few : n ≤ 4096) (good : ∀ i, i < n → l.loadOk ((l.base f + i) % 2 ^ 64) 1 = true) : lveKabsm r f l =
    some ((l.absorbStart (l.hash.kpublic && (List.range n).all (fun i => l.publicSource ((l.base f + i) % 2 ^ 64))) n).absorb r
      ((List.range n).map (fun i k => if k = 0 then l.loadByte ((l.base f + i) % 2 ^ 64) else 0))) := by
  have bytes := toNat_bytes count few
  have loaded : ∀ i ∈ List.range n, (fun k : Nat => if k = 0 then l.byteAt (l.base f) i else 0) =
      fun k => if k = 0 then l.loadByte ((l.base f + i) % 2 ^ 64) else 0 := fun i hi => by
    rw [l.byteAt_good (good i (List.mem_range.mp hi))]
  have runs : ¬ l.hash.ksqueeze = true := by simp [absorbing]
  simp only [lveKabsm, if_neg runs, bytes, l.byteFault_none good, Nat.not_lt.mpr few, if_false, Option.getD_none, Lve.raiseAt]
  rw [← List.map_congr_left loaded]
  exact congrArg some (Lve.absorb_charged fits _ _)

end

/-- VXOF writes each share's squeezed bytes, and keeps the bytes above them. -/
theorem lveVxof_eq {l : Lve} {f : LveFields} (r : LveRef) (squeezing : l.hash.ksqueeze = true)
    (fits : l.seq.maskUsed + l.permMask (l.squeezePerms f.imm.toNat) ≤ l.seq.maskBytes) (group : f.d.toNat + (l.hash.kshares.length - 1) < 32)
    {q : List (Nat → Byte) × Lve} (hq : q = (l.charged (l.permMask (l.squeezePerms f.imm.toNat))).squeeze r f.imm.toNat) :
    ∃ l', lveVxof r f l = some l' ∧ l' = { q.2 with core := { q.2.core with v := l'.core.v } } ∧
      (∀ k, k < f.d.toNat ∨ f.d.toNat + l.hash.kshares.length ≤ k → l'.vr k = l.vr k) ∧
      ∀ k i, k < l.hash.kshares.length → i < 256 →
        elemN 8 (l'.vr (f.d.toNat + k)) i = (q.1[i]?.map (fun b => (b k).toNat)).getD (elemN 8 (l.vr (f.d.toNat + k)) i) := by
  have regs : q.2.vr = l.vr := by
    funext k
    simp only [Lve.vr, hq, Lve.squeeze_core]
    rfl
  have runs : (!l.hash.ksqueeze || decide (32 ≤ f.d.toNat + l.kOrder)) = false := by
    rw [squeezing, Bool.not_true, Bool.false_or]
    exact decide_eq_false (Nat.not_le.mpr group)
  have effect : lveVxof r f l = some (q.2.setVs f.d.toNat ((List.range l.hash.kshares.length).map (fun k =>
      packElems 8 256 (fun i => match q.1[i]? with | some b => (b k).toNat | none => elemN 8 (l.vr (f.d.toNat + k)) i)))) := by
    simp only [lveVxof, runs, Bool.false_eq_true, if_false, Lve.withPerms_fits fits, hq]
    rfl
  have within : f.d.toNat + ((List.range l.hash.kshares.length).map (fun k =>
      packElems 8 256 (fun i => match q.1[i]? with | some b => (b k).toNat | none => elemN 8 (l.vr (f.d.toNat + k)) i))).length ≤ 32 := by
    have := f.d.isLt
    simp only [List.length_map, List.length_range]
    omega
  refine ⟨_, effect, Lve.setVs_eq .., fun k hk => ?_, fun k i hk hi => ?_⟩
  · rw [Lve.setVs_vr _ _ _ _ within, dif_neg, regs]
    simp only [List.length_map, List.length_range]
    omega
  · rw [Lve.setVs_vr _ _ _ _ within, dif_pos (by simp [hk])]
    simp only [Nat.add_sub_cancel_left, List.getElem_map, List.getElem_range, elemN_packElems 8 256 _ i hi (by decide)]
    cases q.1[i]? with
    | some b => exact Nat.mod_eq_of_lt (b k).isLt
    | none => exact elemN_mod ..

/-- KSAVE writes seven registers: the state, or free values where it is masked. -/
theorem lveKsave_seven (r : LveRef) (f : LveFields) (l : Lve) : ∃ xs n, xs.length = 7 ∧
    lveKsave r f l = some { l.setVs f.d.toNat xs with seq := { l.seq with draws := n } } ∧ ∀ k, l.hash.kshares = [k] → xs = k.zeroExtend 2048 :: List.replicate 6 0 := by
  have free : ∃ n, (l.setVs f.d.toNat ((List.range 7).map (l.fresh r))).drawn 0 7 =
      { l.setVs f.d.toNat ((List.range 7).map (l.fresh r)) with seq := { l.seq with draws := n } } :=
    ⟨_, by rw [Lve.setVs_eq]; rfl⟩
  unfold lveKsave
  split
  next s shares =>
    refine ⟨s.zeroExtend 2048 :: List.replicate 6 0, l.seq.draws, by simp, ?_, fun k hk => by simp_all⟩
    rw [Lve.setVs_eq]
  next masked =>
    obtain ⟨n, drawn⟩ := free
    exact ⟨_, n, by simp, congrArg some drawn, fun k hk => absurd hk (masked k)⟩

/-! ### The SHA-2 unit (R209) -/

theorem cdiv_256 (n : Nat) : cdiv n 256 = (n + 255) / 256 := by
  unfold cdiv
  omega

theorem lveHblkm_eq {l : Lve} {f : LveFields} (good : ∀ i, i < (f.imm.toNat + 1) * l.hBlk → l.loadOk (((l.sr f.a.toNat).toNat + i) % 2 ^ 64) 1 = true) :
    lveHblkm f l = some (l.compress (f.imm.toNat + 1)
      ((List.range ((f.imm.toNat + 1) * l.hBlk)).map (fun i => l.loadByte (((l.sr f.a.toNat).toNat + i) % 2 ^ 64)))) := by
  have block : 0 < l.hBlk := by unfold Lve.hBlk; split <;> decide
  have loaded : ∀ i ∈ List.range ((f.imm.toNat + 1) * l.hBlk), l.byteAt (l.sr f.a.toNat).toNat i = l.loadByte (((l.sr f.a.toNat).toNat + i) % 2 ^ 64) :=
    fun i hi => l.byteAt_good (good i (List.mem_range.mp hi))
  simp only [lveHblkm, l.byteFault_none good, Option.getD_none, Nat.mul_div_cancel _ block, List.map_congr_left loaded, Lve.raiseAt]

/-- Settles O13: each instruction by its equation; the shares of a masked sponge stay together with the unmasked one. -/
theorem lveHashUnits : Obligations.LveHashUnits := by
  unfold Obligations.LveHashUnits
  refine ⟨⟨lveDoes_of_effect .kinit (fun s r f l _ _ => ⟨_, lveKinit_eq f l, rfl⟩), lveDoes_of_effect .kfin ?kfin, ?absorbs, ?vxof,
    lveDoes_of_effect .ksave ?ksave, lveDoes_of_effect .kload (fun s r f l _ rate => ⟨_, if_pos rate, rfl⟩),
    lveDoes_of_effect .hinit (fun s r f l _ _ => ⟨_, rfl, rfl⟩), lveDoes_of_effect .hblk ?hblk,
    lveDoes_of_effect .hblkm (fun s r f l _ good => ⟨_, lveHblkm_eq good, rfl⟩), lveDoes_of_effect .hout ?hout,
    lveDoes_of_effect .hload ?hload⟩, ?recombines⟩
  case kfin =>
    intro s r f l _ ⟨absorbing, shares⟩
    obtain ⟨s0, rest, shares⟩ := List.exists_cons_of_ne_nil shares
    exact ⟨_, lveKfin_cons absorbing shares, s0, rest, shares, rfl⟩
  case absorbs =>
    intro s r f u n absorbing count l need start fits
    exact ⟨fun runs few group => runs.exec (eff := fun l => lveKabs r f l) (lveKabs_eq absorbing count fits r few group),
      fun runs few good => runs.exec (eff := fun l => lveKabsm r f l) (lveKabsm_eq absorbing count fits r few good)⟩
  case vxof =>
    intro s r f u runs squeezing l need q fits group
    obtain ⟨l', effect, frame, others, bytes⟩ := lveVxof_eq r squeezing fits group (q := q) rfl
    refine ⟨l', runs.exec (eff := fun l => lveVxof r f l) effect, frame, others, fun k i hk hi => (bytes k i hk hi).trans ?_⟩
    cases q.1[i]? <;> rfl
  case ksave =>
    intro s r f l valid _
    obtain ⟨xs, n, seven, effect, value⟩ := lveKsave_seven r f l
    have group : f.d.toNat + xs.length ≤ 32 := by
      have range := LveOp.valid_range valid
      simp only [LveOp.rangeOk, decide_eq_true_eq] at range
      omega
    have regs : ∀ j, ({ l.setVs f.d.toNat xs with seq := { l.seq with draws := n } } : Lve).vr j = _ := fun j => l.setVs_vr f.d.toNat xs j group
    refine ⟨_, effect, by rw [Lve.setVs_eq], fun j hj => ?_, fun k hk => ?_⟩
    · rw [regs, dif_neg (by omega)]
    · obtain rfl := value k hk
      refine ⟨by rw [regs, dif_pos (by simp)]; simp, fun j above below => ?_⟩
      rw [regs, dif_pos (by simp; omega)]
      obtain ⟨i, rfl⟩ := Nat.exists_eq_add_of_lt above
      simp only [Nat.add_assoc, Nat.add_sub_cancel_left, List.getElem_cons_succ, List.getElem_replicate]
  case hblk =>
    intro s r f l _ within
    rw [← cdiv_256] at within ⊢
    exact ⟨_, if_pos within, rfl⟩
  case hout =>
    intro s r f l _ _
    exact ⟨_, rfl, _, rfl, fun i hi => (elemN_packElems 8 256 _ i hi (by decide)).trans (Nat.mod_eq_of_lt (l.hash.hstate.getD i 0).isLt)⟩
  case hload =>
    intro s r f l _ _
    have bytes : (l.regBytes f.a.toNat 1).take 64 = (List.range 64).map (fun i => BitVec.ofNat 8 (elemN 8 (l.vr f.a.toNat) i)) := by
      rw [Lve.regBytes, ← List.map_take, show (List.range (256 * 1)).take 64 = List.range 64 by decide]
      refine List.map_congr_left (fun i hi => ?_)
      have small := List.mem_range.mp hi
      rw [Nat.div_eq_of_lt (by omega), Nat.mod_eq_of_lt (by omega), Nat.add_zero]
    exact ⟨_, rfl, by rw [bytes]⟩
  case recombines =>
    intro l r bs shares o open1
    exact Opens.absorb r bs (l := l) (m := open1) ⟨shares, rfl, rfl, rfl⟩

end Sys2Proof.Machine

/-! PROOF. The operand window and LMOD through every LVE instruction (R189, R194, R199, R200). -/

namespace Sys2Proof.Machine

/-! ### What has the same window and LMOD -/

/-- An engine has the same operand window and the same LMOD. -/
structure Lve.Stays (l m : Lve) : Prop where
  window : m.window = l.window
  lmod : m.core.lmod = l.core.lmod

/-- So has the result of an effect, where there is one. -/
def Lve.StaysIn (l : Lve) (x : Option Lve) : Prop := ∀ m, x = some m → l.Stays m

section
variable {l : Lve}

theorem Lve.Stays.trans {m n : Lve} (h : l.Stays m) (k : m.Stays n) : l.Stays n := ⟨k.window.trans h.window, k.lmod.trans h.lmod⟩

theorem Lve.staysIn_none : l.StaysIn none := fun _ h => absurd h.symm (Option.some_ne_none _)

theorem Lve.staysIn_some {m : Lve} (h : l.Stays m) : l.StaysIn (some m) := fun _ e => Option.some.inj e ▸ h

theorem Lve.staysIn_if {c : Prop} [Decidable c] {x y : Option Lve} (hx : l.StaysIn x) (hy : l.StaysIn y) : l.StaysIn (if c then x else y) := by
  split
  · exact hx
  · exact hy

/-- An effect that a condition of the engine's state allows. -/
theorem Lve.staysIn_given {c : Prop} [Decidable c] {m : Lve} (h : l.Stays m) : l.StaysIn (if c then some m else none) :=
  Lve.staysIn_if (Lve.staysIn_some h) Lve.staysIn_none

theorem Lve.stays_setVs (d : Nat) (xs : List VReg) : l.Stays (l.setVs d xs) := by
  rw [Lve.setVs_eq]
  exact ⟨rfl, rfl⟩

theorem Lve.stays_masking (n k : Nat) {eff : Lve → Lve} (h : l.Stays (eff l)) : l.Stays (l.masking n k eff) := by
  unfold Lve.masking
  split
  · exact ⟨h.window, h.lmod⟩
  · exact ⟨rfl, rfl⟩

theorem Lve.stays_withPerms (p : Nat) {eff : Lve → Lve} (h : ∀ m, l.Stays m → l.Stays (eff m)) : l.Stays (l.withPerms p eff) := by
  unfold Lve.withPerms
  split
  · exact h _ ⟨rfl, rfl⟩
  · exact ⟨rfl, rfl⟩

theorem Lve.stays_raiseAt (x : Option Nat) : l.Stays (l.raiseAt x) := by
  cases x with
  | none => exact ⟨rfl, rfl⟩
  | some i => exact ⟨rfl, rfl⟩

theorem Lve.stays_absorb (r : LveRef) (bs : List (Nat → Byte)) : l.Stays (l.absorb r bs) := by
  induction bs generalizing l with
  | nil => exact ⟨rfl, rfl⟩
  | cons b bs ih =>
    have byte : l.Stays (l.absorbByte r b) := by
      unfold Lve.absorbByte
      split
      · exact ⟨rfl, rfl⟩
      · exact ⟨rfl, rfl⟩
    exact byte.trans ih

theorem Lve.stays_squeeze (r : LveRef) (n : Nat) : l.Stays (l.squeeze r n).2 := by
  rw [Lve.squeeze_keeps]
  exact ⟨rfl, rfl⟩

theorem Lve.stays_groupWrite (d gs p : Nat) (xs : List Nat) : l.Stays (l.groupWrite d gs p xs) := Lve.stays_setVs ..

/-! ### The effects, by their families -/

variable (f : LveFields) (r : LveRef)

theorem Lve.stays_loadInto (addr : Nat → Nat) : l.Stays (l.loadInto f addr) := Lve.Stays.trans (m := l.setV f.d.toNat _) ⟨rfl, rfl⟩ (Lve.stays_raiseAt _)

theorem lveFreshBool_stays (n : Nat) (x : Nat → Nat) : l.StaysIn (lveFreshBool r n f l x) := Lve.staysIn_some (Lve.stays_masking _ _ (Lve.stays_setVs ..))

theorem lveFreshArith_stays (n : Nat) (x : Nat → Nat) : l.StaysIn (lveFreshArith r n f l x) := Lve.staysIn_given (Lve.stays_masking _ _ (Lve.stays_setVs ..))

theorem lveVrej_stays : l.StaysIn (lveVrej r f l) := by
  refine Lve.staysIn_if Lve.staysIn_none (Lve.staysIn_if (Lve.staysIn_given ?shown) (Lve.staysIn_given (Lve.stays_withPerms _ fun m h => ?hidden)))
  case shown => exact ((Lve.stays_squeeze r _).trans (Lve.stays_groupWrite ..)).trans ⟨rfl, rfl⟩
  case hidden => exact ((h.trans (Lve.stays_squeeze r _)).trans (Lve.stays_groupWrite ..)).trans ⟨rfl, rfl⟩

/-- Absorbing, with PUBLIC set first. -/
theorem Lve.stays_absorbs (p : Bool) (n : Nat) (bytes : Lve → List (Nat → Byte)) :
    l.Stays (({ l with hash := { l.hash with kpublic := p } } : Lve).withPerms n (fun m => m.absorb r (bytes m))) :=
  Lve.Stays.trans (m := { l with hash := { l.hash with kpublic := p } }) ⟨rfl, rfl⟩ (Lve.stays_withPerms _ fun _ h => h.trans (Lve.stays_absorb r _))

theorem lveKabs_stays : l.StaysIn (lveKabs r f l) :=
  Lve.staysIn_if Lve.staysIn_none (Lve.staysIn_if (Lve.staysIn_some ⟨rfl, rfl⟩) (Lve.staysIn_some (Lve.stays_absorbs r _ _ _)))

theorem lveKabsm_stays : l.StaysIn (lveKabsm r f l) :=
  Lve.staysIn_if Lve.staysIn_none (Lve.staysIn_if (Lve.staysIn_some ⟨rfl, rfl⟩)
    (Lve.staysIn_some ((Lve.stays_absorbs r _ _ _).trans (Lve.stays_raiseAt _))))

theorem lveVxof_stays : l.StaysIn (lveVxof r f l) :=
  Lve.staysIn_if Lve.staysIn_none (Lve.staysIn_some (Lve.stays_withPerms _ fun _ h => (h.trans (Lve.stays_squeeze r _)).trans (Lve.stays_setVs ..)))

theorem lveKsave_stays : l.StaysIn (lveKsave r f l) := by
  obtain ⟨xs, n, -, effect, -⟩ := lveKsave_seven r f l
  rw [effect]
  exact Lve.staysIn_some ((Lve.stays_setVs f.d.toNat xs).trans ⟨rfl, rfl⟩)

/-- Every effect keeps the window and LMOD but VSETMOD's and a store's. -/
theorem LveOp.effect_stays (s : State) (o : LveOp) (ho : o ∉ [LveOp.vsetmod, .vstu, .vstp, .vstf, .vscatter]) : l.StaysIn (o.effect s r f l) := by
  cases o with
  | vsetmod | vstu | vstp | vstf | vscatter => exact absurd (by decide) ho
  | lend | loop | loopi => exact Lve.staysIn_none
  | nop | setvl | sli | salu | salui | sjr => exact Lve.staysIn_some ⟨rfl, rfl⟩
  | vsettype => exact Lve.staysIn_given ⟨rfl, rfl⟩
  | setout => exact Lve.staysIn_if (Lve.staysIn_some ⟨rfl, rfl⟩) (Lve.staysIn_if (Lve.staysIn_some ⟨rfl, rfl⟩) (Lve.staysIn_some ⟨rfl, rfl⟩))
  | vaccept => exact Lve.staysIn_if (Lve.staysIn_some ⟨rfl, rfl⟩) (Lve.staysIn_some ⟨rfl, rfl⟩)
  | vldu | vldp | vgather => exact Lve.staysIn_some (Lve.stays_loadInto ..)
  | vldf => exact Lve.staysIn_some ((Lve.stays_setVs ..).trans (Lve.stays_raiseAt _))
  | vkld => exact Lve.staysIn_some ⟨rfl, rfl⟩
  | valu | vcmp | malu | vmerge => exact Lve.staysIn_some ⟨rfl, rfl⟩
  | madd | msub | mneg | mred | mmont | mbar | tomont => exact Lve.staysIn_given ⟨rfl, rfl⟩
  | cmpr | dcmpr => exact Lve.staysIn_if (Lve.staysIn_given ⟨rfl, rfl⟩) Lve.staysIn_none
  | p2r | decomp => exact Lve.staysIn_given (Lve.stays_setVs ..)
  | vbfly => exact Lve.staysIn_given (Lve.stays_setVs ..)
  | vbmul => exact Lve.staysIn_given ⟨rfl, rfl⟩
  | zip | unzip | vpack => exact Lve.staysIn_given (Lve.stays_setVs ..)
  | brev | vunpack => exact Lve.staysIn_given ⟨rfl, rfl⟩
  | slideup | slidedn | bmt | vcompress => exact Lve.staysIn_some ⟨rfl, rfl⟩
  | vcbd => exact Lve.staysIn_if (Lve.staysIn_if (Lve.staysIn_some (Lve.stays_masking _ _ (Lve.stays_setVs ..))) (Lve.staysIn_some ⟨rfl, rfl⟩)) Lve.staysIn_none
  | vrej => exact lveVrej_stays f r
  | split | refresh => exact lveFreshBool_stays f r _ _
  | splita | b2a => exact lveFreshArith_stays f r _ _
  | vjoin => exact Lve.staysIn_some ⟨rfl, rfl⟩
  | joina => exact Lve.staysIn_given ⟨rfl, rfl⟩
  | bxor | bnot => exact Lve.staysIn_some (Lve.stays_setVs ..)
  | band => exact Lve.staysIn_if (Lve.staysIn_some (Lve.stays_masking _ _ (Lve.stays_setVs ..))) (lveFreshBool_stays f r _ _)
  | aadd | asub => exact Lve.staysIn_given (Lve.stays_setVs ..)
  | amont => exact Lve.staysIn_if (lveFreshArith_stays f r _ _) Lve.staysIn_none
  | a2b => exact Lve.staysIn_if (lveFreshBool_stays f r _ _) Lve.staysIn_none
  | kinit => exact Lve.staysIn_some ⟨rfl, rfl⟩
  | kabs => exact lveKabs_stays f r
  | kabsm => exact lveKabsm_stays f r
  | kfin => exact Lve.staysIn_if Lve.staysIn_none (Lve.staysIn_some ⟨rfl, rfl⟩)
  | vxof => exact lveVxof_stays f r
  | ksave => exact lveKsave_stays f r
  | kload | hblk => exact Lve.staysIn_given ⟨rfl, rfl⟩
  | hinit | hout | hload => exact Lve.staysIn_some ⟨rfl, rfl⟩
  | hblkm => exact Lve.staysIn_some (Lve.Stays.trans (m := l.compress _ _) ⟨rfl, rfl⟩ (Lve.stays_raiseAt _))

/-- A store keeps the window canonical (R194, R200). -/
theorem Lve.wf_stored (wf : l.window.wf = true) (ok : Nat → Bool) (wr : Nat → List (Nat × Nat)) (x : Option Nat) :
    ((l.storeRegs f ok wr).raiseAt x).window.wf = true := by
  rw [(Lve.stays_raiseAt x).window, Lve.storeRegs_eq]
  exact Mem.wf_storeAll wf _

theorem Lve.lmod_stored (ok : Nat → Bool) (wr : Nat → List (Nat × Nat)) (x : Option Nat) : ((l.storeRegs f ok wr).raiseAt x).core.lmod = l.core.lmod := by
  rw [(Lve.stays_raiseAt x).lmod, Lve.storeRegs_eq]

end

/-! ### What keeps the window canonical and LMOD legal -/

/-- The window's canonical form and LMOD's legal value carry over. -/
structure Lve.Carries (l m : Lve) : Prop where
  window : l.window.wf = true → m.window.wf = true
  lmod : l.lmodLegal → m.lmodLegal

theorem Lve.carries_of_lmod {l m : Lve} (window : l.window.wf = true → m.window.wf = true) (same : m.core.lmod = l.core.lmod) : l.Carries m :=
  ⟨window, fun h => by unfold Lve.lmodLegal; rwa [same]⟩

theorem Lve.Stays.carries {l m : Lve} (h : l.Stays m) : l.Carries m := Lve.carries_of_lmod (fun wf => h.window ▸ wf) h.lmod

theorem Lve.carries_stored (l : Lve) (f : LveFields) (ok : Nat → Bool) (wr : Nat → List (Nat × Nat)) (x : Option Nat) : l.Carries ((l.storeRegs f ok wr).raiseAt x) :=
  Lve.carries_of_lmod (fun wf => Lve.wf_stored f wf ok wr x) (Lve.lmod_stored f ok wr x)

/-- A valid VSETMOD loads a legal value (R199). -/
theorem lveVsetmod_legal {f : LveFields} (valid : LveOp.vsetmod.valid f = true) (l : Lve) : ({ l with core := { l.core with lmod := f.imm32 } } : Lve).lmodLegal := by
  have range := LveOp.valid_range valid
  simp only [LveOp.rangeOk, Bool.and_eq_true, decide_eq_true_eq] at range
  obtain ⟨⟨odd, least⟩, most⟩ := range
  rw [← BitVec.testBit_toNat, Nat.testBit_zero, decide_eq_true_eq] at odd
  exact .inr ⟨odd, least, most⟩

/-- Every effect of a valid word carries them over. -/
theorem LveOp.effect_carries {s : State} {r : LveRef} {f : LveFields} {l m : Lve} {o : LveOp} (valid : o.valid f = true) (effect : o.effect s r f l = some m) :
    l.Carries m := by
  by_cases ho : o ∈ [LveOp.vsetmod, .vstu, .vstp, .vstf, .vscatter]
  · simp only [List.mem_cons, List.not_mem_nil, or_false] at ho
    rcases ho with rfl | rfl | rfl | rfl | rfl <;> cases effect
    · exact ⟨id, fun _ => lveVsetmod_legal valid l⟩
    · exact l.carries_stored ..
    · exact l.carries_stored ..
    · exact l.carries_stored ..
    · exact l.carries_stored ..
  · exact (LveOp.effect_stays f r s o ho m effect).carries

/-! ### The engine after a command -/

section
variable {s t : State} {r : LveRef} {o : LveOp} {f : LveFields} {u u' : LveUnit}

/-- An engine that is put back is the engine that stands there. -/
theorem State.eng_setEng {l : Lve} (h : (s.setEng r l).lve? r = some u') : u'.eng = l := by
  simp only [State.lve?, State.setEng, State.modDie, List.getElem?_modify_eq, Option.bind_eq_some_iff, Option.map_eq_map, Option.map_eq_some_iff] at h
  obtain ⟨x, ⟨y, -, rfl⟩, h⟩ := h
  simp only [List.getElem?_modify_eq, Option.map_eq_map, Option.map_eq_some_iff] at h
  obtain ⟨v, -, rfl⟩ := h
  rfl

theorem State.stays_lveTemps (l0 l : Lve) : l.Stays (s.lveTemps r o f l0 l) := by
  unfold State.lveTemps
  split
  · exact ⟨rfl, rfl⟩
  · exact ⟨rfl, rfl⟩

theorem Lve.stays_enterLoop (l : Lve) (len n : Nat) : l.Stays (l.enterLoop len n) := by
  obtain ⟨pc, loops, entered, -, -⟩ := l.enterLoop_eq len n
  rw [entered]
  exact ⟨rfl, rfl⟩

variable (unit : s.lve? r = some u) (calm : r.upset = .none) (kept : u.eng.abortReq = false)
  (done : ∀ x, (s.die r.die).patch.expansion o f u.eng = some x → ∃ ts, x = .done ts)

include kept calm done in
/-- Nothing takes the place of an instruction whose expansion, if a patch redirects it, ends. -/
theorem State.lveStruck_done : s.lveStruck r o f u = none := by
  unfold State.lveStruck
  rw [kept, calm]
  cases h : (s.die r.die).patch.expansion o f u.eng with
  | none => rfl
  | some x =>
    obtain ⟨ts, rfl⟩ := done x h
    rfl

include calm in
theorem State.lveFinish_calm (l : Lve) : s.lveFinish r l = .next (s.setEng r l) := by
  simp [State.lveFinish, calm]

include unit calm kept done

/-- An instruction that is not struck leaves the engine as it is, or with its effect. -/
theorem lveExec_eng {eff : Lve → Option Lve} (step : lveExec o r f s eff = .next t) (after : t.lve? r = some u') :
    u'.eng = u.eng ∨ o.valid f = true ∧ ∃ l, eff u.eng = some l ∧ l.Stays u'.eng := by
  obtain ⟨v, there, valid, cases⟩ := lveExec_next step
  obtain rfl : u = v := Option.some.inj (unit.symm.trans there)
  rcases cases with ⟨-, idle⟩ | ⟨-, v, struck, -⟩ | ⟨-, -, l, effect, finish⟩
  · rw [State.lveIdle_calm calm] at idle
    cases idle
    exact .inl (by rw [Option.some.inj (after.symm.trans unit)])
  · rw [State.lveStruck_done calm kept done] at struck
    exact absurd struck (Option.some_ne_none v).symm
  · rw [State.lveFinish_calm calm] at finish
    cases finish
    refine .inr ⟨valid, l, effect, ?_⟩
    rw [State.eng_setEng after]
    exact Lve.Stays.trans (State.stays_lveTemps _ _) ⟨rfl, rfl⟩

/-- A loop instruction keeps the window and LMOD. -/
theorem lveLoopExec_eng {len count : Lve → Nat} (step : lveLoopExec o r f s len count = .next t) (after : t.lve? r = some u') : u.eng.Stays u'.eng := by
  unfold lveLoopExec at step
  simp only [unit, State.lveIdle_calm calm, State.lveStruck_done calm kept done, State.lveFinish_calm calm] at step
  split at step
  · cases step
  · split at step
    · cases step
      rw [Option.some.inj (after.symm.trans unit)]
      exact ⟨rfl, rfl⟩
    · cases step
      rw [State.eng_setEng after]
      exact (State.stays_lveTemps _ _).trans (Lve.stays_enterLoop ..)

end

/-- Settles O16: VSETMOD loads a legal value, a store writes bytes, and no other effect touches the window or LMOD. -/
theorem lveWindowCanonical : Obligations.LveWindowCanonical := by
  unfold Obligations.LveWindowCanonical
  intro s t o r f u u' runs unit wf calm kept done step after
  have carries : u.eng.Carries u'.eng := by
    by_cases loop : o = .loop
    · subst loop
      exact (lveLoopExec_eng (len := fun _ => bits f.imm 0 12) (count := fun l => bits (l.sr f.a.toNat) 0 32) unit calm kept done step after).carries
    by_cases loopi : o = .loopi
    · subst loopi
      exact (lveLoopExec_eng (len := fun _ => bits f.imm32 0 12) (count := fun _ => bits f.imm32 12 20) unit calm kept done step after).carries
    rw [exec_instr s o r f runs loop loopi] at step
    rcases lveExec_eng unit calm kept done step after with same | ⟨valid, l, effect, stays⟩
    · rw [same]
      exact ⟨id, id⟩
    · have effect := LveOp.effect_carries valid effect
      have stays := stays.carries
      exact ⟨fun h => stays.window (effect.window h), fun h => stays.lmod (effect.lmod h)⟩
  exact ⟨carries.window wf, carries.lmod⟩

end Sys2Proof.Machine

/-! PROOF. What ends or repeats a pass on an LVE (R214 to R216, R235 to R238, R277, R322). -/

namespace Sys2Proof.Machine

/-- An engine that a reference names is an engine of its die. -/
theorem State.lves_of_lve? {s : State} {r : LveRef} {u : LveUnit} (h : s.lve? r = some u) : (s.die r.die).lves[r.engine]? = some u := by
  obtain ⟨y, die, unit⟩ := Option.bind_eq_some_iff.mp h
  rwa [State.die, List.getD_eq_getElem?_getD, die]

section
variable {s : State} {d e j : Nat} {u : LveUnit} {x : Job}

/-- The repeat limit: KEYGEN_LIMIT for a key generation, FAULT_DETECTED 1 otherwise (R216, R277). -/
theorem State.repeatEnds_eq : s.repeatEnds d e j u x =
    s.lveResult d e j x ⟨if x.sqe.op = 0x1001 then stKeygenLimit else stFaultDetected, if x.sqe.op = 0x1001 then 0 else 1, s.endTime d u x, []⟩ := by
  unfold State.repeatEnds
  by_cases keygen : x.sqe.op = 0x1001
  · simp only [keygen, if_true]
  · simp only [keygen, if_false]

/-! ### The results of END -/

/-- The result of the job is there: it is an owner's, or the vendor program has computed it. -/
theorem result_ready (ready : u.eng.seq.prog = none ∨ x.result ≠ none) : ¬ (u.vendor = true ∧ x.result.isNone = true) := by
  rintro ⟨vendor, missing⟩
  rcases ready with owner | computed
  · simp [LveUnit.vendor, owner] at vendor
  · exact computed (Option.isNone_iff_eq_none.mp missing)

theorem State.endResult_operand {i : W32} (ready : u.eng.seq.prog = none ∨ x.result ≠ none) (fault : u.eng.seq.fault = some (.operand i)) :
    s.endResult d u x = some ⟨stOperandFault, i, s.endTime d u x, []⟩ := by
  simp only [State.endResult, if_neg (result_ready ready), fault]

theorem State.endResult_maskBudget (ready : u.eng.seq.prog = none ∨ x.result ≠ none) (fault : u.eng.seq.fault = some .maskBudget) :
    s.endResult d u x = some ⟨stFaultDetected, 2, s.endTime d u x, []⟩ := by
  simp only [State.endResult, if_neg (result_ready ready), fault]

theorem State.endResult_owner (owner : u.eng.seq.prog = none) (clean : u.eng.seq.fault = none) :
    s.endResult d u x = some ⟨stOk, BitVec.ofNat 32 (min 0xFFFF u.eng.core.pass.toNat), s.endTime d u x, ownerOut u.eng.seq.head u.eng⟩ := by
  have plain : ¬ u.vendor = true := by simp [LveUnit.vendor, owner]
  simp only [State.endResult, if_neg (result_ready (.inl owner)), clean, if_neg plain]

theorem State.endResult_vendor {r : JobResult} (vendor : u.eng.seq.prog ≠ none) (clean : u.eng.seq.fault = none) (computed : x.result = some r) :
    s.endResult d u x = if releaseWord u.eng = 0 then some r else some ⟨stFaultDetected, BitVec.ofNat 32 (releaseWord u.eng), s.endTime d u x, []⟩ := by
  have runs : u.vendor = true := Option.isSome_iff_ne_none.mpr vendor
  have ready : u.eng.seq.prog = none ∨ x.result ≠ none := .inr (by simp [computed])
  rw [← computed]
  simp only [State.endResult, if_neg (result_ready ready), clean, if_pos runs]

/-! ### The engine of a job (R214, R216, R236) -/

variable (unit : (s.die d).lves[e]? = some u) (holds : u.eng.job = some j) (job : s.job? d j = some x)
include unit holds job

/-- An abort ends the job with the status that its request fixed, and ABORT_LAT_MAX keeps the longest latency (R236 to R238). -/
theorem State.lveAbort_eq : s.lveAbort d e =
    ((s.lveStop d e (x.failed.getD (stMachineCheck, 0)).1 (x.failed.getD (stMachineCheck, 0)).2).count d MCS e 0x120).setReg d MCS e 0x124
      (BitVec.ofNat 32 (max (s.reg d MCS e 0x124).toNat (min 0xFFFFFFFF (Config.abortLatency s.freeCtr)))) := by
  simp only [State.lveAbort, unit, holds, job, Option.bind_some]

/-- END at the repeat limit. -/
theorem State.lveEnd_limit (f : LveFields) (limit : u.atLimit = true) : s.lveEnd d e f = s.repeatEnds d e j u.endRun x := by
  simp only [State.lveEnd, unit, holds, job, if_pos limit]

/-- END with a restart index, rejected below the limit. -/
theorem State.lveEnd_repeat {f : LveFields} (restart : bit f.sub 0 = true) (rejected : u.eng.core.accept = false) (clean : u.eng.seq.fault = none)
    (below : u.eng.core.pass.toNat < u.eng.seq.repeatMax) : s.lveEnd d e f =
      (((s.modJob d j (fun y => { y with result := none })).modDie d (fun y => { y with lves := y.lves.set e (u.endRun.nextPass (bits f.imm 0 16)) })).count d LVE e 0x10C) := by
  have again : bit f.sub 0 = true ∧ (!u.eng.core.accept) = true ∧ u.eng.seq.fault.isNone = true := by simp [restart, rejected, clean]
  have fewer : ¬ u.atLimit = true := by simp [LveUnit.atLimit, below]
  simp only [State.lveEnd, unit, holds, job, if_neg fewer, if_pos again]

/-- Any other END ends the job with its result. -/
theorem State.lveEnd_ends {f : LveFields} {r : JobResult}
    (other : u.eng.seq.fault ≠ none ∨ u.eng.core.accept = true ∨ (bit f.sub 0 = false ∧ u.eng.core.pass.toNat < u.eng.seq.repeatMax))
    (result : s.endResult d u.endRun x = some r) : s.lveEnd d e f = s.lveResult d e j x r := by
  have below : ¬ u.atLimit = true := by
    simp only [LveUnit.atLimit, Bool.and_eq_true, Bool.not_eq_true', Option.isNone_iff_eq_none, decide_eq_true_eq]
    rintro ⟨⟨rejected, clean⟩, reached⟩
    rcases other with fault | accept | ⟨-, fewer⟩
    · exact fault clean
    · exact absurd accept (by simp [rejected])
    · omega
  have once : ¬ (bit f.sub 0 = true ∧ (!u.eng.core.accept) = true ∧ u.eng.seq.fault.isNone = true) := by
    simp only [Bool.not_eq_true', Option.isNone_iff_eq_none]
    rintro ⟨restart, rejected, clean⟩
    rcases other with fault | accept | ⟨plain, -⟩
    · exact fault clean
    · exact absurd accept (by simp [rejected])
    · exact absurd restart (by simp [plain])
  simp only [State.lveEnd, unit, holds, job, if_neg below, if_neg once, result]

end

/-! ### The commands -/

section
variable {s : State} {d e j : Nat} {u : LveUnit} {x : Job}

/-- END is next and the engine runs it. -/
theorem LveUnit.lend_next {f : LveFields} (next : u.endNext = true) (runs : u.eng.seq.prog ≠ none ∨ u.executes .lend f = true) :
    (!(u.endNext && (u.vendor || u.executes .lend f))) = false := by
  rw [next]
  rcases runs with vendor | owner
  · simp [LveUnit.vendor, Option.isSome_iff_ne_none.mpr vendor]
  · simp [owner]

section
variable {f : LveFields} (unit : s.lve? ⟨d, e, .none⟩ = some u) (valid : LveOp.lend.valid f = true) (next : u.endNext = true)
  (runs : u.eng.seq.prog ≠ none ∨ u.executes .lend f = true)
include unit valid next runs

theorem exec_lend_abort (request : u.eng.abortReq = true) : exec (.lend ⟨d, e, .none⟩ f) s = .next (settle (s.lveAbort d e)) := by
  have struck : s.lveStruck ⟨d, e, .none⟩ .lend f u = some (s.lveAbort d e) := by simp [State.lveStruck, request]
  have ends : execLend ⟨d, e, .none⟩ f s = .next (settle (s.lveAbort d e)) := by
    simp only [execLend, unit, valid, u.lend_next next runs, struck, Bool.not_true, Bool.false_eq_true, if_false, ret]
  exact ends

theorem exec_lend_ends (kept : u.eng.abortReq = false) (plain : (s.die d).patch.expansion .lend f u.eng = none) :
    exec (.lend ⟨d, e, .none⟩ f) s = .next (settle (s.lveEnd d e f)) := by
  have free : s.lveStruck ⟨d, e, .none⟩ .lend f u = none := by simp [State.lveStruck, kept, plain, upsetStops]
  have ends : execLend ⟨d, e, .none⟩ f s = .next (settle (s.lveEnd d e f)) := by
    simp only [execLend, unit, valid, u.lend_next next runs, free, Bool.not_true, Bool.false_eq_true, if_false, ret]
  exact ends

end

variable (unit : (s.die d).lves[e]? = some u) (holds : u.eng.job = some j)
include unit holds

theorem opLveAbort_eq (request : u.eng.abortReq = true) (thawed : u.svc.frozen = false) : opLveAbort d e s = (s.lveAbort d e).pumpDie d := by
  simp only [opLveAbort, unit, request, holds, thawed, Option.isSome_some, Bool.not_false, and_self, if_true]

theorem opCkptGap_eq (running : u.eng.phase = .running) (thawed : u.svc.frozen = false) : opCkptGap d e s = (s.ckptGap d e).pumpDie d := by
  simp only [opCkptGap, unit, running, holds, thawed, Option.isSome_some, Bool.not_false, and_self, if_true]

variable (job : s.job? d j = some x)
include job

theorem opRepeatLimit_abort (next : u.endNext = true) (request : u.eng.abortReq = true) : opRepeatLimit d e s = s.lveAbort d e := by
  simp only [opRepeatLimit, unit, holds, job, Option.bind_some, Option.map_some, next, Bool.not_true, Bool.false_eq_true, if_false, request, if_true]

theorem opRepeatLimit_limit (next : u.endNext = true) (kept : u.eng.abortReq = false) (limit : u.atLimit = true) :
    opRepeatLimit d e s = s.repeatEnds d e j u.endRun x := by
  simp only [opRepeatLimit, unit, holds, job, Option.bind_some, Option.map_some, next, Bool.not_true, Bool.false_eq_true, if_false, kept, limit, if_true]

/-- A reserved job whose masking bytes cannot come ends with RNG_FAIL (R322). -/
theorem opPassDispatch_lost (waits : u.eng.phase = .passWait) (thawed : u.svc.frozen = false) (lost : s.maskLost d (s.passNeed d u x) (.lve e) = true) :
    opPassDispatch d e s = (s.lveStop d e stRngFail 0).pumpDie d := by
  simp only [opPassDispatch, unit, holds, job, Option.bind_some, waits, thawed, lost, Bool.not_false, and_self, if_true]

/-- The next pass begins once its masking bytes are there (R215). -/
theorem opPassDispatch_begins (waits : u.eng.phase = .passWait) (thawed : u.svc.frozen = false) (there : s.maskLost d (s.passNeed d u x) (.lve e) = false)
    (kept : u.eng.abortReq = false) (enough : s.passNeed d u x ≤ u.svc.maskBuf) : opPassDispatch d e s =
      (s.modDie d (fun y => { y with
        lves := y.lves.set e { u with eng := { u.eng with phase := .running, seq := { u.eng.seq with maskBytes := s.passNeed d u x } } } })).chargeUnit d 0 x := by
  simp only [opPassDispatch, unit, holds, job, Option.bind_some, waits, thawed, there, kept, enough, Bool.not_false, Bool.false_eq_true, and_false, if_false,
    and_self, if_true]

omit holds in
/-- The 1,024th attempt of a Classic McEliece key generation (R277). -/
theorem opKeygenLimit_attempts (stage : x.stage = .running) (engine : x.engine = .lve e) (keygen : x.sqe.op = 0x1001) (mceliece : isMceliece x.sqe.ps = true)
    (running : u.eng.phase = .running) (rejected : u.eng.core.accept = false) (attempts : 1024 ≤ u.eng.core.pass.toNat) :
    opKeygenLimit ⟨d, j⟩ s = s.lveResult d e j x ⟨stKeygenLimit, 0, s.endTime d u x, []⟩ := by
  simp only [opKeygenLimit, job, stage, engine, unit, keygen, mceliece, running, rejected, attempts, Bool.not_false, and_self, if_true]

end

/-- Settles O30: END by its limit, its restart and its result, and each other command by the branch that its conditions take. -/
theorem lvePasses : Obligations.LvePasses := by
  unfold Obligations.LvePasses
  intro s d e j u x found holds job put after limit aborted
  have unit : (s.die d).lves[e]? = some u := State.lves_of_lve? found
  have limit_eq : s.repeatEnds d e j u.endRun x = limit := State.repeatEnds_eq
  have aborted_eq : s.lveAbort d e = aborted := State.lveAbort_eq unit holds job
  have at_limit : u.eng.core.accept = false → u.eng.seq.fault = none → u.eng.seq.repeatMax ≤ u.eng.core.pass.toNat → u.atLimit = true := fun rejected clean reached => by
    simp [LveUnit.atLimit, rejected, clean, reached]
  refine ⟨?lend, fun next => ⟨?limitAbort, ?limitEnds⟩, fun waits thawed => ⟨?lost, ?begins⟩, ?abort, ?gap, ?attempts⟩
  case lend =>
    intro f valid next runs plain ends
    refine ⟨fun request => ?_, fun kept => ?_⟩
    · rw [exec_lend_abort found valid next runs request, aborted_eq]
    have ended := exec_lend_ends found valid next runs kept plain
    refine ⟨fun rejected clean reached => ?_, fun restart rejected clean below => ?_, fun other => ?_⟩
    · rw [ended, State.lveEnd_limit unit holds job f (at_limit rejected clean reached), limit_eq]
    · rw [ended, State.lveEnd_repeat unit holds job restart rejected clean below]
      rfl
    have result : ∀ r, s.endResult d u.endRun x = some r → exec (.lend ⟨d, e, .none⟩ f) s = .next (settle (s.lveResult d e j x r)) := fun r hr => by
      rw [ended, State.lveEnd_ends unit holds job other hr]
    refine ⟨fun i ready fault => result _ (State.endResult_operand ready fault), fun ready fault => result _ (State.endResult_maskBudget ready fault),
      fun owner clean => result _ (State.endResult_owner owner clean), fun r vendor clean computed => ?_⟩
    have released := State.endResult_vendor (s := s) (d := d) (u := u.endRun) vendor clean computed
    exact ⟨fun zero => result _ (released.trans (if_pos zero)), fun nonzero => result _ (released.trans (if_neg nonzero))⟩
  case limitAbort => exact fun request => congrArg ret ((opRepeatLimit_abort unit holds job next request).trans aborted_eq)
  case limitEnds =>
    exact fun kept rejected clean reached =>
      congrArg ret ((opRepeatLimit_limit unit holds job next kept (at_limit rejected clean reached)).trans limit_eq)
  case lost => exact fun lost => congrArg ret (opPassDispatch_lost unit holds job waits thawed lost)
  case begins => exact fun there kept enough => congrArg ret (opPassDispatch_begins unit holds job waits thawed there kept enough)
  case abort => exact fun request thawed => congrArg ret ((opLveAbort_eq unit holds request thawed).trans (by rw [aborted_eq]))
  case gap => exact fun running thawed => congrArg ret (opCkptGap_eq unit holds running thawed)
  case attempts =>
    exact fun stage engine keygen mceliece running rejected attempts =>
      congrArg ret (opKeygenLimit_attempts unit job stage engine keygen mceliece running rejected attempts)

end Sys2Proof.Machine

/-! PROOF. The ends of a BNE's legs and of an SYE's segments, the verdicts of self-tests and the refresh of the patch RAM (R246, R247, R287, R289, R294, R296, R299,
R300, R309, R314, R324). -/

namespace Sys2Proof.Machine

/-! ### Changes of one job -/

/-- Keys above a bound are not below it. -/
theorem Assoc.lt_of_wfFrom {α : Type} {m : Assoc α} {a : Nat} (wf : Assoc.wfFrom (some a) m = true) : ∀ p ∈ m, a < p.1 := by
  induction m generalizing a with
  | nil => simp
  | cons q m ih =>
    simp only [Assoc.wfFrom, Bool.and_eq_true, decide_eq_true_eq] at wf
    obtain ⟨first, rest⟩ := wf
    intro p mem
    rcases List.mem_cons.mp mem with rfl | mem
    · exact first
    · exact first.trans (ih rest p mem)

/-- In a canonical table a key has one entry. -/
theorem Assoc.eq_of_wfFrom {α : Type} {m : Assoc α} {lo : Option Nat} {k : Nat} {x : α} (wf : Assoc.wfFrom lo m = true) (found : Assoc.get? m k = some x) :
    ∀ p ∈ m, p.1 = k → p.2 = x := by
  induction m generalizing lo with
  | nil => simp
  | cons q m ih =>
    obtain ⟨a, y⟩ := q
    simp only [Assoc.wfFrom, Bool.and_eq_true] at wf
    intro p mem key
    by_cases head : a = k
    · rcases List.mem_cons.mp mem with rfl | mem
      · simpa [Assoc.get?, head] using found
      · have := Assoc.lt_of_wfFrom wf.2 p mem
        omega
    · rcases List.mem_cons.mp mem with rfl | mem
      · exact absurd key head
      · exact ih wf.2 (by simpa [Assoc.get?, head] using found) p mem key

/-- In a canonical job table a change of a job is what it makes of that job. -/
theorem State.modJob_congr {s : State} {d j : Nat} {x : Job} {f g : Job → Job} (wf : (s.die d).jobs.wf = true) (job : s.job? d j = some x) (same : f x = g x) :
    s.modJob d j f = s.modJob d j g := by
  refine State.modDie_congr ?_
  have entries : Assoc.update (s.die d).jobs j f = Assoc.update (s.die d).jobs j g := by
    refine List.map_congr_left fun p mem => ?_
    by_cases key : p.1 = j
    · simp only [key, if_true, Assoc.eq_of_wfFrom wf job p mem key, same]
    · simp only [key, if_false]
  simp only [entries]

/-! ### BNEs (R289, R294, R299, R300) -/

section
variable {s : State} {d e j : Nat} {u : BneUnit} {one : Bool} {x : Job}

section
variable (unit : (s.die d).bnes[e]? = some u) (runs : u.running = some one) (holds : (u.lane one).job = some j) (job : s.job? d j = some x)
  (thawed : u.svc.frozen = false)
include unit runs holds job thawed

/-- The leg's end of a composite's classical half (R289, R287). -/
theorem opBneLegEnd_half (half : x.engine ≠ .bne e) (ok : Bool) : opBneLegEnd d e ok s =
    if ok then s else (s.modJob d j (fun y => y.fail stMachineCheck 0)).faultAct d (512 + 8 * e + 4) := by
  simp only [opBneLegEnd, unit, thawed, runs, holds, job, Option.bind_some, Option.map_some, Bool.false_eq_true, if_false, half, ne_eq, not_false_eq_true, if_true]

variable (engine : x.engine = .bne e)
include engine

/-- Under LOCK an operation of several legs stops at the leg's end (R424). -/
theorem opBneLegEnd_locked (locked : s.pkg.lock = true) (legs : x.sqe.multiLeg = true) (ok : Bool) : opBneLegEnd d e ok s =
    (s.modJob d j (fun y => { y with result := some (y.result.getD ⟨stOk, 0, 0, []⟩) })).bneOver d e := by
  simp only [opBneLegEnd, unit, thawed, runs, holds, job, Option.bind_some, Option.map_some, Bool.false_eq_true, if_false, engine, ne_eq, not_true_eq_false, locked,
    legs, and_self, or_true, if_true]

variable (kept : x.suppress = false) (opened : s.pkg.lock = false)
include kept opened

/-- The last leg of an operation that has come to its result (R294). -/
theorem opBneLegEnd_ends (result : x.result.isSome = true) : opBneLegEnd d e true s = s.bneOver d e := by
  simp only [opBneLegEnd, unit, thawed, runs, holds, job, Option.bind_some, Option.map_some, Bool.false_eq_true, if_false, engine, ne_eq, not_true_eq_false, kept, opened,
    false_and, or_self, Bool.not_true, result, if_true]

/-- Another leg begins (R294). -/
theorem opBneLegEnd_goesOn (missing : x.result = none) (legs : x.sqe.multiLeg = true) : opBneLegEnd d e true s =
    ((s.modDie d (fun y => { y with bnes := y.bnes.set e { u with legs := u.legs + 1 } })).count d BNE e 0x114).chargeUnit d 1 x := by
  simp only [opBneLegEnd, unit, thawed, runs, holds, job, Option.bind_some, Option.map_some, Bool.false_eq_true, if_false, engine, ne_eq, not_true_eq_false, kept, opened,
    false_and, or_self, Bool.not_true, missing, Option.isSome_none, legs, if_true]

/-- Result flags that disagree end an operation with MACHINE_CHECK (R289). -/
theorem opBneLegEnd_disagrees (wf : (s.die d).jobs.wf = true) {r : JobResult} (result : x.result = some r) : opBneLegEnd d e false s =
    ((s.modJob d j (fun y => { y with result := some { r with status := stMachineCheck, detail := 0, out := [] } })).bneOver d e).faultAct d (512 + 8 * e + 4) := by
  simp only [opBneLegEnd, unit, thawed, runs, holds, job, Option.bind_some, Option.map_some, Bool.false_eq_true, if_false, engine, ne_eq, not_true_eq_false, kept, opened,
    false_and, or_self, Bool.not_false, if_true]
  rw [State.modJob_congr wf job]
  simp only [result, Option.getD_some]

end

theorem opKeygenLimit_rsa (stage : x.stage = .running) (engine : x.engine = .bne e) (keygen : x.sqe.op = 0x4010) (missing : x.result = none) (job : s.job? d j = some x) :
    opKeygenLimit ⟨d, j⟩ s = ((s.jobStep d j 1 5).result d j stKeygenLimit 0 (Config.rsaKeygenTime (x.sqe.rsaK / 2) 65536) []).bneOver d e := by
  simp only [opKeygenLimit, job, stage, engine, keygen, missing, Option.isNone_none, and_self, if_true]

theorem opLaneWipeDone_eq {lane : Bool} (unit : (s.die d).bnes[e]? = some u) (wiping : (u.lane lane).wiping = true) (free : (u.lane lane).job = none) :
    opLaneWipeDone d e lane s = ((s.modDie d (fun y => { y with bnes := y.bnes.set e (u.setLane lane BneLane.clear) })).count d BNE e 0x110).pumpDie d := by
  simp only [opLaneWipeDone, unit, wiping, free, Option.isNone_none, and_self, if_true]

end

/-! ### SYEs (R309, R314) -/

section
variable {s : State} {d e k : Nat} {u : SyeUnit} {c : SyeCtx} {x : Job}

/-- The state in which a segment has ended: it is counted and settled, and its context goes on behind it (R309). -/
def State.segmentEnded (s : State) (d e k : Nat) (u : SyeUnit) (c : SyeCtx) (x : Job) : State :=
  ((s.modDie d (fun y => { y with syes := y.syes.set e { u with running := none, ctxs := Assoc.set u.ctxs k { c with done := c.done + 1 } } })).count d SYE e
    0x110).settleSegment d x c.done (s.knownTime d 2 x c.done)

/-- The SYE selects its next segment, after one of job `j` (R309). -/
def State.segmentNext (s : State) (d e j : Nat) : State :=
  let t := s.syeSelect d e
  let next := ((t.die d).syes[e]?).bind (fun v => v.running.bind (fun i => (Assoc.get? v.ctxs i).map SyeCtx.job))
  (if next ≠ none ∧ next ≠ some j then t.count d SYE e 0x114 else t).pumpDie d

/-- What the end of a segment does with its context: it stays while segments are left, and goes with the last or where the job stops (R309, R314). -/
def State.segmentOver (s t : State) (d e k : Nat) (c : SyeCtx) (x : Job) : State :=
  let last := decide (c.total ≤ c.done + 1)
  if c.digest then (if last ∨ s.syeStops x then t.digestOver d e k c.job last x.digestPs else t)
  else if s.syeStops x then (t.modJob d c.job Job.stopped).syeEnd d e k
  else if last then t.syeEnd d e k
  else t

theorem opSyeSegmentEnd_eq (unit : (s.die d).syes[e]? = some u) (runs : u.running = some k) (ctx : Assoc.get? u.ctxs k = some c) (job : s.job? d c.job = some x)
    (thawed : u.svc.frozen = false) (unfenced : u.svc.fenceReq = 0) (ready : s.syeStops x = true ∨ c.digest = true ∨ c.done + 1 < c.total ∨ x.result ≠ none) :
    opSyeSegmentEnd d e s = (s.segmentOver (s.segmentEnded d e k u c x) d e k c x).segmentNext d e c.job := by
  have goes : ¬ (u.svc.frozen = true ∨ (decide (c.total ≤ c.done + 1) = true ∧ (!c.digest) = true ∧ x.result.isNone = true ∧ (!s.syeStops x) = true ∧ u.svc.fenceReq = 0)) := by
    simp only [thawed, Bool.false_eq_true, false_or, decide_eq_true_eq, Bool.not_eq_true', Option.isNone_iff_eq_none]
    rintro ⟨last, own, missing, runs, -⟩
    rcases ready with stops | digest | more | result
    · exact absurd stops (by simp [runs])
    · exact absurd digest (by simp [own])
    · omega
    · exact result missing
  have segment : u.running.bind (fun k => (Assoc.get? u.ctxs k).bind (fun c => (s.job? d c.job).map (fun x => (k, c, x)))) = some (k, c, x) := by
    rw [runs, Option.bind_some, ctx, Option.bind_some, job, Option.map_some]
  unfold opSyeSegmentEnd
  rw [unit]
  dsimp only
  rw [segment]
  dsimp only
  rw [if_neg goes, if_neg (not_not_intro unfenced)]
  simp only [State.segmentNext, Option.isSome_iff_ne_none]
  rfl

end

/-! ### Self-tests and the patch RAM (R246, R247, R296, R324) -/

section
variable {s : State} {d e : Nat} {pass : Bool}

theorem EngineSvc.verdict_eq {v : EngineSvc} (test : v.selfTest = true) : v.verdict pass = { v with selfTest := false, fence := if pass then 0 else 4 } := by
  simp only [EngineSvc.verdict, test, if_true]

/-- A change of the unit that stands at an index. -/
theorem modify_eq_set {α : Type} {xs : List α} {i : Nat} {u : α} (unit : xs[i]? = some u) (f : α → α) : xs.modify i f = xs.set i (f u) := by
  rw [List.modify_eq_set_getElem?, unit]
  rfl

theorem opSelftestDone_lve {u : LveUnit} (unit : (s.die d).lves[e]? = some u) (test : u.svc.selfTest = true) : opSelftestDone d (.lve e) pass s =
    s.modDie d (fun y => { y with
      lves := y.lves.set e { u with
        svc := { u.svc with selfTest := false, fence := if pass then 0 else 4 }
        eng := { u.eng with phase := if pass ∧ u.eng.phase = .fenced then .idle else u.eng.phase } } }) := by
  refine State.modDie_congr ?_
  simp only [modify_eq_set unit, LveUnit.verdict, EngineSvc.verdict_eq test, test, if_true]

theorem opSelftestDone_bne {u : BneUnit} (unit : (s.die d).bnes[e]? = some u) (test : u.svc.selfTest = true) : opSelftestDone d (.bne e) pass s =
    s.modDie d (fun y => { y with bnes := y.bnes.set e { u with svc := { u.svc with selfTest := false, fence := if pass then 0 else 4 } } }) := by
  refine State.modDie_congr ?_
  simp only [modify_eq_set unit, EngineSvc.verdict_eq test]

theorem opSelftestDone_sye {u : SyeUnit} (unit : (s.die d).syes[e]? = some u) (test : u.svc.selfTest = true) : opSelftestDone d (.sye e) pass s =
    s.modDie d (fun y => { y with syes := y.syes.set e { u with svc := { u.svc with selfTest := false, fence := if pass then 0 else 4 } } }) := by
  refine State.modDie_congr ?_
  simp only [modify_eq_set unit, EngineSvc.verdict_eq test]

/-- The measurement of a refresh leaves the patch RAM of the die. -/
theorem State.refreshMeasures_patch (intact : Bool) : ((s.refreshMeasures d intact).die d).patch = (s.die d).patch := by
  have measures : ∀ ranges, ((s.measures d ranges).die d).patch = (s.die d).patch := fun ranges => by
    obtain ⟨regs, die⟩ := (s.modMha d (fun _ => Mha.measured ranges)).event_die d d MHA 0 0
    rw [State.measures, die, State.modMha, State.modDie_die]
    split <;> rfl
  cases intact
  · exact measures _
  · exact measures _

theorem State.reloaded_of_accepted (accepted : (patchSet (s.die d).fuses (bootPatches s.flash d)).state ≠ 2)
    (measured : (patchSet (s.die d).fuses (bootPatches s.flash d)).measure = (s.die d).kvd.mmc) :
    s.reloaded d true = some (patchSet (s.die d).fuses (bootPatches s.flash d)) := by
  simp only [State.reloaded, accepted, measured, ne_eq, not_true_eq_false, or_self, if_false, if_true]

theorem State.reloaded_of_rejected {intact : Bool} (rejected : intact = false ∨ (patchSet (s.die d).fuses (bootPatches s.flash d)).state = 2 ∨
    (patchSet (s.die d).fuses (bootPatches s.flash d)).measure ≠ (s.die d).kvd.mmc) : s.reloaded d intact = none := by
  rcases rejected with rfl | rejected
  · rfl
  · simp only [State.reloaded, if_pos rejected, ite_self]

theorem refreshReady_idle (pending : (s.die d).patch.refreshPending = true) (idle : ∀ u ∈ (s.die d).lves, u.eng.job = none ∧ u.fill = none) : refreshReady d s = true := by
  simpa [refreshReady, pending] using idle

/-- A set of the patch RAM takes effect, and every LVE comes back into service (R246). -/
def State.patched (s : State) (d : Nat) (p : PatchSet) : State :=
  (List.range 16).foldl (fun (t : State) i => (t.fwWriteAt d LVE i 0x010 0).event d MCS i 1) (s.modDie d (fun x => { x with patch := p }))

section
variable (ready : refreshReady d s = true) (closed : (s.die d).mha.state ≠ .open_)
include ready closed

theorem opPatchRefresh_reloads {intact : Bool} {p : PatchSet} (loads : s.reloaded d intact = some p) : opPatchRefresh d intact s =
    (s.refreshMeasures d intact).patched d { p with refreshes := min 0xFFFF ((s.die d).patch.refreshes + 1), refreshPending := false } := by
  simp only [opPatchRefresh, ready, closed, and_false, if_false, if_true, loads, Option.isSome_some, State.patched]
  congr 1
  exact State.modDie_congr (by simp only [State.refreshMeasures_patch])

theorem opPatchRefresh_fences {intact : Bool} (fails : s.reloaded d intact = none) : opPatchRefresh d intact s =
    (List.range 16).foldl (fun (t : State) i => t.fenceLve d i 5) ((s.refreshMeasures d intact).patched d { (s.die d).patch with refreshPending := false }) := by
  simp only [opPatchRefresh, ready, closed, and_false, if_false, if_true, fails, Option.isSome_none, Bool.false_eq_true, State.patched]
  congr 2
  exact State.modDie_congr (by simp only [State.refreshMeasures_patch])

end

end

/-- All that `Obligations.EngineSegments` states holds where the job table of the die is canonical: each command by its own equation. -/
theorem engineSegments_of_canonical : ∀ (s : State) (d e : Nat), (s.die d).jobs.wf = true →
    (∀ u one j x, (s.die d).bnes[e]? = some u → u.running = some one → (u.lane one).job = some j → s.job? d j = some x → u.svc.frozen = false →
      (x.engine = .bne e → x.suppress = false → s.pkg.lock = false → ∀ r, x.result = some r →
        exec (.bneLegEnd d e true) s = .next (settle (s.bneOver d e)) ∧
        exec (.bneLegEnd d e false) s = .next (settle (((s.modJob d j (fun y => { y with result := some { r with status := stMachineCheck, detail := 0, out := [] } })).bneOver
          d e).faultAct d (512 + 8 * e + 4)))) ∧
      (x.engine = .bne e → x.suppress = false → s.pkg.lock = false → x.result = none → x.sqe.op = 0x4010 ∨ x.sqe.op = 0x4007 → exec (.bneLegEnd d e true) s =
        .next (settle (((s.modDie d (fun y => { y with bnes := y.bnes.set e { u with legs := u.legs + 1 } })).count d BNE e 0x114).chargeUnit d 1 x))) ∧
      (x.engine = .bne e → x.suppress = false → s.pkg.lock = true → x.sqe.op = 0x4010 ∨ x.sqe.op = 0x4007 → x.result = none → ∀ ok, exec (.bneLegEnd d e ok) s =
        .next (settle ((s.modJob d j (fun y => { y with result := some ⟨stOk, 0, 0, []⟩ })).bneOver d e))) ∧
      (x.engine ≠ .bne e → exec (.bneLegEnd d e true) s = .next (settle s) ∧
        exec (.bneLegEnd d e false) s = .next (settle ((s.modJob d j (fun y => y.fail stMachineCheck 0)).faultAct d (512 + 8 * e + 4)))) ∧
      (x.stage = .running → x.engine = .bne e → x.sqe.op = 0x4010 → x.result = none → exec (.keygenLimit ⟨d, j⟩) s =
        .next (settle (((s.jobStep d j 1 5).result d j stKeygenLimit 0 (Config.rsaKeygenTime (x.sqe.rsaK / 2) 65536) []).bneOver d e)))) ∧
    (∀ u lane, (s.die d).bnes[e]? = some u → (u.lane lane).wiping = true → (u.lane lane).job = none → exec (.laneWipeDone d e lane) s =
      .next (settle (((s.modDie d (fun y => { y with bnes := y.bnes.set e (u.setLane lane BneLane.clear) })).count d BNE e 0x110).pumpDie d))) ∧
    (∀ u k c x, (s.die d).syes[e]? = some u → u.running = some k → Assoc.get? u.ctxs k = some c → s.job? d c.job = some x → u.svc.frozen = false → u.svc.fenceReq = 0 →
      let past := (((s.modDie d (fun y => { y with syes := y.syes.set e { u with running := none, ctxs := Assoc.set u.ctxs k { c with done := c.done + 1 } } })).count d SYE e
        0x110).settleSegment d x c.done (s.knownTime d 2 x c.done))
      let goesOn := fun (t0 : State) =>
        let t := t0.syeSelect d e
        let next := ((t.die d).syes[e]?).bind (fun v => v.running.bind (fun i => (Assoc.get? v.ctxs i).map SyeCtx.job))
        exec (.syeSegmentEnd d e) s = .next (settle ((if next ≠ none ∧ next ≠ some c.job then t.count d SYE e 0x114 else t).pumpDie d))
      let stops := x.suppress = true ∨ x.failed ≠ none ∨ s.pkg.lock = true
      (¬ stops → c.done + 1 < c.total → goesOn past) ∧
      (¬ stops → c.total ≤ c.done + 1 → c.digest = false → x.result ≠ none → goesOn (past.syeEnd d e k)) ∧
      (stops → c.digest = false → goesOn ((past.modJob d c.job Job.stopped).syeEnd d e k)) ∧
      (c.digest = true → stops ∨ c.total ≤ c.done + 1 → goesOn (past.digestOver d e k c.job (decide (c.total ≤ c.done + 1)) x.digestPs))) ∧
    (∀ u (pass : Bool), (s.die d).lves[e]? = some u → u.svc.selfTest = true → exec (.selftestDone d (.lve e) pass) s = .next (settle (s.modDie d (fun y => { y with
      lves := y.lves.set e { u with
        svc := { u.svc with selfTest := false, fence := if pass then 0 else 4 }
        eng := { u.eng with phase := if pass ∧ u.eng.phase = .fenced then .idle else u.eng.phase } } })))) ∧
    (∀ u (pass : Bool), (s.die d).bnes[e]? = some u → u.svc.selfTest = true → exec (.selftestDone d (.bne e) pass) s = .next (settle (s.modDie d (fun y =>
      { y with bnes := y.bnes.set e { u with svc := { u.svc with selfTest := false, fence := if pass then 0 else 4 } } })))) ∧
    (∀ u (pass : Bool), (s.die d).syes[e]? = some u → u.svc.selfTest = true → exec (.selftestDone d (.sye e) pass) s = .next (settle (s.modDie d (fun y =>
      { y with syes := y.syes.set e { u with svc := { u.svc with selfTest := false, fence := if pass then 0 else 4 } } })))) ∧
    ((s.die d).patch.refreshPending = true → (s.die d).mha.state ≠ .open_ → (∀ u ∈ (s.die d).lves, u.eng.job = none ∧ u.fill = none) →
      let again := patchSet (s.die d).fuses (bootPatches s.flash d)
      let back := fun (t : State) (p : PatchSet) => (List.range 16).foldl (fun (t : State) i => (t.fwWriteAt d LVE i 0x010 0).event d MCS i 1) (t.modDie d (fun x => { x with patch := p }))
      (again.state ≠ 2 → again.measure = (s.die d).kvd.mmc → exec (.patchRefresh d true) s =
        .next (settle (back (s.measures d (bootPatches s.flash d)) { again with refreshes := min 0xFFFF ((s.die d).patch.refreshes + 1), refreshPending := false }))) ∧
      ∀ intact, (intact = false ∨ again.state = 2 ∨ again.measure ≠ (s.die d).kvd.mmc) → exec (.patchRefresh d intact) s =
        .next (settle ((List.range 16).foldl (fun (t : State) i => t.fenceLve d i 5) (back (s.refreshMeasures d intact) { (s.die d).patch with refreshPending := false })))) := by
  intro s d e wf
  have multiLeg : ∀ {x : Job}, x.sqe.op = 0x4010 ∨ x.sqe.op = 0x4007 → x.sqe.multiLeg = true := fun op => decide_eq_true op
  refine ⟨?bne, ?lane, ?sye, ?lveTest, ?bneTest, ?syeTest, ?refresh⟩
  case bne =>
    intro u one j x unit runs holds job thawed
    refine ⟨fun engine kept opened r result => ⟨?ends, ?disagrees⟩, fun engine kept opened missing op => ?goesOn, fun engine kept locked op missing ok => ?locked,
      fun half => ⟨?agrees, ?differs⟩, fun stage engine keygen missing => ?limit⟩
    case ends => exact congrArg ret (opBneLegEnd_ends unit runs holds job thawed engine kept opened (by rw [result]; rfl))
    case disagrees => exact congrArg ret (opBneLegEnd_disagrees unit runs holds job thawed engine kept opened wf result)
    case goesOn => exact congrArg ret (opBneLegEnd_goesOn unit runs holds job thawed engine kept opened missing (multiLeg op))
    case locked =>
      have result : s.modJob d j (fun y => { y with result := some (y.result.getD ⟨stOk, 0, 0, []⟩) }) = s.modJob d j (fun y => { y with result := some ⟨stOk, 0, 0, []⟩ }) :=
        State.modJob_congr wf job (by simp only [missing, Option.getD_none])
      rw [← result]
      exact congrArg ret (opBneLegEnd_locked unit runs holds job thawed engine locked (multiLeg op) ok)
    case agrees => exact congrArg ret (opBneLegEnd_half unit runs holds job thawed half true)
    case differs => exact congrArg ret (opBneLegEnd_half unit runs holds job thawed half false)
    case limit => exact congrArg ret (opKeygenLimit_rsa stage engine keygen missing job)
  case lane => exact fun u lane unit wiping free => congrArg ret (opLaneWipeDone_eq unit wiping free)
  case sye =>
    intro u k c x unit runs ctx job thawed unfenced past goesOn stops
    have selects : ∀ t, s.segmentOver past d e k c x = t → (s.syeStops x = true ∨ c.digest = true ∨ c.done + 1 < c.total ∨ x.result ≠ none) → goesOn t := by
      rintro t rfl ready
      exact congrArg ret (opSyeSegmentEnd_eq unit runs ctx job thawed unfenced ready)
    have stops_iff : stops ↔ s.syeStops x = true := by
      simp [stops, State.syeStops, Option.isSome_iff_ne_none, or_assoc]
    rw [stops_iff]
    refine ⟨fun runsOn more => ?more, fun runsOn last own result => ?last, fun stopped own => ?stopped, fun digest left => ?digest⟩
    case more =>
      refine selects _ ?_ (.inr (.inr (.inl more)))
      simp [State.segmentOver, runsOn, show ¬ c.total ≤ c.done + 1 by omega]
    case last =>
      refine selects _ ?_ (.inr (.inr (.inr result)))
      simp [State.segmentOver, runsOn, last, own]
    case stopped =>
      refine selects _ ?_ (.inl stopped)
      simp [State.segmentOver, stopped, own]
    case digest =>
      refine selects _ ?_ (.inr (.inl digest))
      simp [State.segmentOver, digest, left.symm]
  case lveTest => exact fun u pass unit test => congrArg ret (opSelftestDone_lve unit test)
  case bneTest => exact fun u pass unit test => congrArg ret (opSelftestDone_bne unit test)
  case syeTest => exact fun u pass unit test => congrArg ret (opSelftestDone_sye unit test)
  case refresh =>
    intro pending closed idle again back
    have ready := refreshReady_idle pending idle
    exact ⟨fun accepted measured => congrArg ret (opPatchRefresh_reloads ready closed (State.reloaded_of_accepted accepted measured)),
      fun intact rejected => congrArg ret (opPatchRefresh_fences ready closed (State.reloaded_of_rejected rejected))⟩

/-! ### A table that is not canonical -/

/-- An RSA key generation that BNE 0 runs, with no result so far. -/
def legJob : Job :=
  ⟨⟨0, true, 0, 0, 0, 0, 0⟩, ⟨0x4010, 0, 0, 0, 0, 0, 0, 0, 0, 0, 0, 0, 0, 0⟩, .running, .bne 0, JobData.empty, none, none, 0, 0, 0, 0, false, 0⟩

/-- The BNE that runs job 1 in its first lane. -/
def legUnit : BneUnit := { BneUnit.reset 0 with running := some false, lane0 := BneLane.taken 1 legJob false }

/-- A package in LOCK whose job table has two entries for job 1: the one that runs, and one with a result of DETAIL 1. -/
def doubledJob : State :=
  { State.reset.modDie 0 (fun y => { y with jobs := [(1, legJob), (1, { legJob with result := some ⟨stOk, 1, 0, []⟩ })], bnes := [legUnit] }) with
    pkg := { State.reset.pkg with lock := true } }

/-- DETAIL of the results that the jobs of die 0 hold. -/
def State.detailsHeld (s : State) : List (Option W32) := (s.die 0).jobs.map (fun p => p.2.result.map JobResult.detail)

/-- BNE_LEG_END keeps the result of the second entry. -/
theorem doubledJob_legEnd : (settle (opBneLegEnd 0 0 true doubledJob)).detailsHeld = [some 1] := by decide +kernel

/-- The statement gives that entry the result of the job that ends. -/
theorem doubledJob_stated :
    (settle ((doubledJob.modJob 0 1 (fun y => { y with result := some ⟨stOk, 0, 0, []⟩ })).bneOver 0 0)).detailsHeld = [some 0] := by decide +kernel

/-- Refutes O31: its states need not be canonical, and of a job that stands twice in the table the clause for a leg's end under LOCK writes one result into both entries,
where BNE_LEG_END keeps what the second one holds. In a canonical table all of it holds (`engineSegments_of_canonical`). -/
theorem not_engineSegments : ¬ Obligations.EngineSegments := by
  unfold Obligations.EngineSegments
  intro h
  obtain ⟨bne, -⟩ := h doubledJob 0 0
  obtain ⟨-, -, locked, -⟩ := bne legUnit false 1 legJob rfl rfl rfl rfl rfl
  have stated := Host.Outcome.next.inj (locked rfl rfl rfl (.inl rfl) rfl true)
  have details : [some 1] = [some (0 : W32)] := doubledJob_legEnd.symm.trans ((congrArg State.detailsHeld stated).trans doubledJob_stated)
  exact absurd details (by decide)

end Sys2Proof.Machine

/-! PROOF. The Measurement Hasher. -/

namespace Sys2Proof.Machine

/-! ### The hasher of a die -/

theorem State.modMha_eq (s : State) (d : Nat) (f : Mha → Mha) : s.modMha d f = s.modDie d (fun x => { x with mha := f (s.die d).mha }) := State.modDie_congr rfl

/-- Of two updates of a hasher, one. -/
theorem State.modMha_modMha (s : State) (d : Nat) (f g : Mha → Mha) : (s.modMha d f).modMha d g = s.modMha d (fun m => g (f m)) :=
  congrArg (fun l => { s with dies := l }) (List.modify_modify_eq ..)

theorem State.modMha_mha {s : State} {d : Nat} (present : d < s.dies.length) (f : Mha → Mha) : ((s.modMha d f).die d).mha = f (s.die d).mha := by
  rw [State.modMha, State.modDie_die, if_pos ⟨rfl, present⟩]

@[simp] theorem State.setReg_mha (s : State) (d e b i o : Nat) (v : W32) : ((s.setReg d b i o v).die e).mha = (s.die e).mha := by
  rw [State.setReg_die]
  split
  · next here => rw [here.1]; rfl
  · rfl

/-! ### The stream of a range (R316) -/

/-- The byte that an open range expects next is appended. -/
theorem Mha.byte_next {m : Mha} {a : Nat} (opened : m.state = .open_) (expected : m.nextAddr = a) (inside : a < m.rangeEnd) (b : Byte) :
    m.byte a b = { m with msg := m.msg ++ [b], nextAddr := a + 1 } := by
  have hashed : ¬ (m.state ≠ .open_ ∨ m.rangeEnd ≤ a ∨ a < m.nextAddr) := by
    rintro (closed | past | before)
    · exact closed opened
    · omega
    · omega
  rw [Mha.byte, if_neg hashed, if_pos expected.symm]

/-- Bytes that come in order from the one expected on, and end within the range, are all appended. -/
theorem Mha.foldl_byte_inOrder {base : Nat} (bs : List Byte) (k : Nat) (m : Mha) (opened : m.state = .open_) (expected : m.nextAddr = base + k)
    (inside : base + k + bs.length ≤ m.rangeEnd) :
    ((bs.zipIdx k).map (fun p => (base + p.2, p.1))).foldl (fun m p => m.byte p.1 p.2) m =
      { m with msg := m.msg ++ bs, nextAddr := base + k + bs.length } := by
  induction bs generalizing k m with
  | nil => simp [← expected]
  | cons b bs ih =>
    rw [List.length_cons] at inside
    have first : m.byte (base + k) b = { m with msg := m.msg ++ [b], nextAddr := base + k + 1 } := Mha.byte_next opened expected (by omega) b
    have rest := ih (k + 1) { m with msg := m.msg ++ [b], nextAddr := base + k + 1 } opened rfl (by dsimp only; omega)
    rw [List.zipIdx_cons, List.map_cons, List.foldl_cons, first, rest, List.append_assoc, List.singleton_append,
      show base + (k + 1) + bs.length = base + k + (b :: bs).length by rw [List.length_cons]; omega]

/-! ### The commands (R315, R316) -/

section
variable {s : State} {d : Nat}

theorem State.mhaRefuse_eq (s : State) (d : Nat) (r : BitVec 3) :
    s.mhaRefuse d r = (s.modDie d (fun x => { x with mha := { (s.die d).mha with result := r } })).count d MHA 0 0x114 :=
  congrArg (fun t => State.count t ..) (s.modMha_eq d _)

theorem opMhaOpen_fresh (closed : (s.die d).mha.state ≠ .open_) : opMhaOpen d s = s.modMha d (fun _ => ⟨.open_, 0, [], 0, 0, 0, []⟩) := if_neg closed

theorem opMhaOpen_refused (opened : (s.die d).mha.state = .open_) : opMhaOpen d s = s.mhaRefuse d 1 := if_pos opened

theorem opMhaClose_open (opened : (s.die d).mha.state = .open_) :
    opMhaClose d s = (s.modMha d (fun m => { m with state := .done, result := 0, digest := sha384 m.msg })).event d MHA 0 0 := if_pos opened

theorem opMhaClose_refused (closed : (s.die d).mha.state ≠ .open_) : opMhaClose d s = s.mhaRefuse d 2 := if_neg closed

theorem opMhaAbort_open (opened : (s.die d).mha.state = .open_) : opMhaAbort d s = (s.modMha d (·.error 4)).event d MHA 0 1 := if_pos opened

/-- The hasher that RANGE leaves before the first byte of its stream. -/
def Mha.ranged (m : Mha) (base len : Nat) : Mha := { m with result := 0, rangeEnd := base + len, nextAddr := base, ranges := min 65535 (m.ranges + 1) }

/-- RANGE in an open measurement whose last range is complete, of a stream that leaves the measurement open: the range and its bytes are one update of the hasher. -/
theorem opMhaRange_accepted (present : d < s.dies.length) (opened : (s.die d).mha.state = .open_) (complete : (s.die d).mha.nextAddr = (s.die d).mha.rangeEnd)
    {base len : Nat} {stream : List (Nat × Byte)} {m : Mha} (hashed : stream.foldl (fun m p => m.byte p.1 p.2) ((s.die d).mha.ranged base len) = m)
    (stays : m.state = .open_) :
    opMhaRange d base len stream s = ((s.setReg d MHA 0 0x104 (BitVec.ofNat 32 base)).setReg d MHA 0 0x108 (BitVec.ofNat 32 len)).modDie d (fun x => { x with mha := m }) := by
  have there : d < ((s.setReg d MHA 0 0x104 (BitVec.ofNat 32 base)).setReg d MHA 0 0x108 (BitVec.ofNat 32 len)).dies.length := by
    simpa only [State.setReg_length] using present
  have accepts : ¬ (s.die d).mha.state ≠ .open_ := fun closed => closed opened
  have idle : (s.die d).mha.rangeDone = true := decide_eq_true complete
  have quiet : m.state ≠ .error := by simp [stays]
  rw [Mha.ranged] at hashed
  simp only [opMhaRange, accepts, idle, Bool.not_true, Bool.false_eq_true, if_false, State.modMha_modMha, State.modMha_mha there, State.setReg_mha, hashed,
    quiet, and_false]
  rw [State.modMha_eq, State.setReg_mha, State.setReg_mha, hashed]

end

/-- Settles O19: each command by the branch that the state of the measurement takes, and the bytes of a range one by one in their order. -/
theorem measurementHasher : Obligations.MeasurementHasher := by
  unfold Obligations.MeasurementHasher
  intro s d present m put
  refine ⟨fun closed => congrArg ret ?fresh, fun opened => congrArg ret ?openRefused, fun opened complete base len bs fits => congrArg ret ?range,
    fun opened => congrArg ret ?close, fun closed => congrArg ret ?closeRefused, fun opened => congrArg ret ?abort⟩
  case fresh => exact (opMhaOpen_fresh closed).trans (s.modMha_eq d _)
  case openRefused => exact (opMhaOpen_refused opened).trans (s.mhaRefuse_eq d 1)
  case range =>
    exact opMhaRange_accepted present opened complete (Mha.foldl_byte_inOrder bs 0 (m.ranged base len) opened rfl (Nat.add_le_add_left fits base)) opened
  case close => rw [opMhaClose_open opened, State.modMha_eq]
  case closeRefused => exact (opMhaClose_refused closed).trans (s.mhaRefuse_eq d 2)
  case abort => rw [opMhaAbort_open opened, State.modMha_eq]; rfl

end Sys2Proof.Machine

/-! SUPPORT. Moving a tenant: commits that follow draws, the image of a tenant and its restoring, the re-homing of a queue and the balancing interval. -/

namespace Sys2Proof.Machine

/-! ### Commits after draws -/

/-- Draws made before an operation commits count among those of its commit. -/
theorem Commits.of_draws {c : Instr} {s u : State} {j : JobRef} {x : Job} {limit m : Nat} {header out : List Byte} {detail : W32} {change : State → State}
    (h : Commits c s (u.draws m) j x limit header detail out change) : Commits c s u j x limit header detail out change := by
  obtain ⟨n, ps, bound, locked, quorum, owner, commits⟩ := h
  refine ⟨m + n, ps, bound, ?_⟩
  rw [← Nat.add_assoc]
  exact ⟨locked, quorum, owner, fun ⟨unlocked, present, ticket⟩ => commits ⟨unlocked, present, ticket⟩⟩

/-- Draws leave the jobs alone. -/
theorem State.SameEntries.draws {s u : State} (h : s.SameEntries u) (m : Nat) : s.SameEntries (u.draws m) := ⟨h.die⟩

/-- An operation of the manager that goes on to `u` and, after some draws, ends with `commitJob` commits from there. -/
theorem OpRuns.managerCommits {s u : State} {j : JobRef} {op : Nat} {x : Job} (h : OpRuns s j op x) (hc : op / 4096 % 16 = 15) (ho : op ≠ 0xF040)
    (hu : s.SameEntries u) (m : Nat) {c : Instr} {f : Job → State} (run : exec c s = ret (s.onOp j op f)) {limit : Nat} {header out : List Byte} {detail : W32}
    {change : State → State} (hf : s.onOp j op f = (u.draws m).commitJob j.die j.job x header limit detail out change) :
    Commits c s u j x limit header detail out change :=
  (h.commitsFrom (h.managerRecorded hc ho) (hu.draws m) run ((h.onOp f).symm.trans hf)).of_draws

/-! ### The image of a tenant (R364, R365) -/

/-- An image begins with its magic, its format and the number of its source. -/
theorem State.saveImage_front (s : State) (n : Nat) (record secret root : List Byte) :
    (s.saveImage n record secret root).take 8 = [0x56, 0x49, 0x4D, 0x31, 1, 0] ++ leBytes 2 n := by
  simp only [State.saveImage, List.append_assoc]
  rfl

/-- An image for another token or another device does not open. -/
theorem State.openImage_of_mismatch {s : State} {n : Nat} {img : List Byte} (secret : List Byte)
    (h : (s.inst n).token ≠ some (slice img 16 32) ∨ slice img 48 8 ≠ leBytes 8 (s.die 0).fuses.uid.toNat) : s.openImage n secret img = none :=
  if_pos (.inr (h.imp_right .inl))

/-! ### INST_SAVE (R362) -/

section
variable {s u : State} {j : JobRef} {x : Job} (h : OpRuns s j 0xF004 x) (hu : s.pageStep j.die j.job VIM 0 1 4 = u)
include h hu

theorem opInstSave_badState (hc : (u.inst x.paramInst).code ≠ .frozen) :
    opInstSave j s = u.opFail j.die j.job stInstState (u.stateDetail x.paramInst) (u.opPs x anyTime) := by
  subst hu
  exact (h.onOp _).trans (if_pos hc)

/-- A tenant that is FROZEN is saved under the migration key and its root. -/
theorem opInstSave_saves (hc : (u.inst x.paramInst).code = .frozen) {m root : Slot} (hm : u.jobKey j.die x 0 = some m) (hr : u.jobKey j.die x 1 = some root) :
    opInstSave j s = ((u.pageStep j.die j.job VIM 0 4 4).draws 1).commitJob j.die j.job x [] anyTime 0
      (u.saveImage x.paramInst x.data.auxData m.payload root.payload) (fun t => State.progress
        ((State.allDies { t with bbram := t.bbram.retire x.paramInst } (fun d => d.flushInst x.paramInst)).modInst x.paramInst (fun i => { i.flush with
          code := .saved, portal := Portal.reset, work := { i.work with resetWaiting := false } })) 0 VIM 0 4 1000) := by
  subst hu
  refine (h.onOp _).trans ((if_neg (not_not_intro hc)).trans ?_)
  simp only [hm, hr]
  rfl

end

/-! ### INST_RESTORE (R363, R365) -/

section
variable {s : State} {j : JobRef} {x : Job} (h : OpRuns s j 0xF005 x) (hb : bit x.sqe.param 16 = true)
include h hb

theorem opInstRestorePrepare_badState (hf : (s.inst x.paramInst).code ≠ .free) (hr : (s.inst x.paramInst).code ≠ .reserved) :
    opInstRestorePrepare j s = s.opFail j.die j.job stInstState (s.stateDetail x.paramInst) (s.opPs x anyTime) := by
  refine (h.onOp _).trans ?_
  simp only [hb, hf, hr, Bool.not_true, Bool.false_eq_true, ne_eq, not_false_eq_true, and_self, if_false, if_true]

/-- A number that is FREE or RESERVED takes a new token. -/
theorem opInstRestorePrepare_reserves (hc : (s.inst x.paramInst).code = .free ∨ (s.inst x.paramInst).code = .reserved) :
    opInstRestorePrepare j s = (s.draws 1).commitJob j.die j.job x [] anyTime 0
      (s.rand 32 ++ leBytes 8 (s.die 0).fuses.uid.toNat ++ leBytes 2 x.paramInst ++ List.replicate 6 0) (fun t =>
        t.setInst x.paramInst { Inst.free with code := .reserved, token := some (s.rand 32) }) := by
  refine (h.onOp _).trans ?_
  have allowed : ¬ ((s.inst x.paramInst).code ≠ .free ∧ (s.inst x.paramInst).code ≠ .reserved) := by simpa only [not_and_or, not_not] using hc
  simp only [hb, allowed, Bool.not_true, Bool.false_eq_true, if_false]
  rfl

end

section
variable {s u v : State} {j : JobRef} {x : Job} (h : OpRuns s j 0xF005 x) (hb : bit x.sqe.param 16 = false) (hu : s.pageStep j.die j.job VIM 0 1 4 = u)
include h hb hu

theorem opInstRestore_badState (hc : (u.inst x.paramInst).code ≠ .reserved) :
    opInstRestore j s = u.opFail j.die j.job stInstState (u.stateDetail x.paramInst) (u.opPs x anyTime) := by
  subst hu
  refine (h.onOp _).trans ?_
  simp only [hb, hc, ne_eq, not_false_eq_true, Bool.false_eq_true, if_false, if_true]

/-! For a number that is RESERVED the image is opened. -/

variable (hv : u.pageStep j.die j.job VIM 0 4 4 = v) (hc : (u.inst x.paramInst).code = .reserved)
include hv hc

theorem opInstRestore_unopened (ho : v.openImage x.paramInst (v.jobSecret j.die x) x.data.inData = none) :
    opInstRestore j s = v.opFail j.die j.job stKeyAuth 0 (v.opPs x anyTime) := by
  subst hu hv
  refine (h.onOp _).trans ?_
  simp only [hb, hc, ho, ne_eq, not_true_eq_false, Bool.false_eq_true, if_false]

variable {pt : List Byte} (ho : v.openImage x.paramInst (v.jobSecret j.die x) x.data.inData = some pt)
include ho

theorem opInstRestore_refused {f : W16 × Nat} (hf : v.restoreFail x.paramInst x.data.inData pt x.data.auxData = some f) :
    opInstRestore j s = v.opFail j.die j.job f.1 f.2 (v.opPs x anyTime) := by
  subst hu hv
  refine (h.onOp _).trans ?_
  simp only [hb, hc, ho, hf, ne_eq, not_true_eq_false, Bool.false_eq_true, if_false]

/-- An image that passes is restored once entry 0 of the new table is read. -/
theorem opInstRestore_accepted (hf : v.restoreFail x.paramInst x.data.inData pt x.data.auxData = none) :
    opInstRestore j s = if x.data.root = [] then v.wantMore j.die j.job [recordWant .entry0 x.paramInst (recordCfg x.data.auxData [])]
      else v.commitJob j.die j.job x [] anyTime 0 [] (fun t => t.restoreInst j.die x.paramInst x.data.inData pt x.data.auxData x.data.root) := by
  subst hu hv
  refine (h.onOp _).trans ?_
  simp only [hb, hc, ho, hf, ne_eq, not_true_eq_false, Bool.false_eq_true, if_false]

end

/-! ### QUEUE_REHOME (R366) -/

/-- Queue `q` of die `d` may move to a target die for its tenant `n`. -/
def State.mayRehome (s : State) (n d q target : Nat) : Prop :=
  (s.queue d q).ctx.state = .active ∧ bit (s.inst n).cfg.dies target = true ∧ target < s.dies.length

theorem State.mayRehome_iff {s : State} {n d q target : Nat} :
    s.mayRehome n d q target ↔ ¬ ((s.queue d q).ctx.state ≠ .active ∨ (!bit (s.inst n).cfg.dies target) = true ∨ s.nDies ≤ target) := by
  simp [State.mayRehome, State.nDies]

section
variable {s : State} {j : JobRef} {x : Job} {d q : Nat} (h : OpRuns s j 0xF006 x) (hq : (s.inst x.paramInst).home (x.sqe.par 12 3) = some (d, q))
  (hj : (s.queue d q).aux.rehomeJob ≠ some (j.die, j.job))
include h hq hj

theorem opQueueRehome_refused (ha : ¬ s.mayRehome x.paramInst d q (x.sqe.par 16 3)) :
    opQueueRehome j s = (if (s.queue d q).ctx.state = .rehoming then s else s.pageStep j.die j.job QMG d 1 3).opFail j.die j.job stInstState
      (s.stateDetail x.paramInst + 256 * (s.queue d q).ctx.state.code) (s.opPs x anyTime) := by
  refine (h.onOp _).trans ?_
  have bad := not_not.mp (mt State.mayRehome_iff.mpr ha)
  simp only [hq, hj, bad, if_false, if_true]

variable (ha : s.mayRehome x.paramInst d q (x.sqe.par 16 3))
include ha

/-- A queue that is at its target stays. -/
theorem opQueueRehome_stays (ht : x.sqe.par 16 3 = d) :
    opQueueRehome j s = (s.pageStep j.die j.job QMG d 3 3).commitJob j.die j.job x [] anyTime 0 [] (fun t => t.progress d QMG 0 3 1000) := by
  refine (h.onOp _).trans ?_
  have good := State.mayRehome_iff.mp ha
  rw [ht] at good
  simp only [hq, hj, good, ht, if_false, if_true]

/-- Any other begins to move where the target has a context for it. -/
theorem opQueueRehome_moves (ht : x.sqe.par 16 3 ≠ d) (hf : (s.die (x.sqe.par 16 3)).freeCtx ≠ none) :
    opQueueRehome j s = (s.pageStep j.die j.job QMG d 1 3).startRehome d q (x.sqe.par 16 3) (some (j.die, j.job)) := by
  refine (h.onOp _).trans ?_
  have good := State.mayRehome_iff.mp ha
  have room : (s.die (x.sqe.par 16 3)).freeCtx.isNone = false := Option.isNone_eq_false_iff.mpr (Option.isSome_iff_ne_none.mpr hf)
  simp only [hq, hj, good, ht, room, Bool.false_eq_true, if_false]

end

/-- A queue of which nothing has been prepared begins to move by its context alone. -/
theorem State.startRehome_unprepared {s : State} {d q : Nat} (hp : (s.queue d q).aux.prep = none) (target : Nat) (job : Option (Nat × Nat)) :
    s.startRehome d q target job = State.progress ((s.modAux d q (fun a => { a with rehomeTo := some target, rehomeJob := job })).modCtx d q (fun c => { c with
      state := .rehoming, epoch := c.epoch + 1, win := dropWindow c.win (fun _ => false) })) d QMG 0 1 0 := by
  rw [State.startRehome, State.cancelPrep_none hp]

/-! ### The end of a re-homing (R366) -/

section
variable {s : State} {d q t q' : Nat} (hs : (s.queue d q).ctx.state = .rehoming) (hi : (s.queue d q).ctx.inflight = 0) (hh : (s.queue d q).ctx.held = [])
  (ht : (s.queue d q).aux.rehomeTo = some t)
include hs hi hh ht

/-- A queue that the device moves by itself is recorded. -/
theorem opRehomeDrainComplete_automatic (hj : (s.queue d q).aux.rehomeJob = none) (hf : ((s.progress d QMG 0 2 333).die t).freeCtx = some q') :
    opRehomeDrainComplete d q s = ((s.progress d QMG 0 2 333).moveQueue d q t q').offer
      (Offer.of 1 0 0xF006 ((s.queue d q).ctx.rings.inst + 4096 * (s.queue d q).ctx.rings.qpair + 65536 * t)) := by
  simp only [opRehomeDrainComplete, hs, hi, hh, ht, hj, hf, ne_eq, not_true_eq_false, or_self, if_false]

/-- The job that moves a queue ends when it has moved. -/
theorem opRehomeDrainComplete_ends {jd k : Nat} (hj : (s.queue d q).aux.rehomeJob = some (jd, k)) (hf : ((s.pageStep jd k QMG d 2 3).die t).freeCtx = some q') :
    ∃ ps, opRehomeDrainComplete d q s = (((s.pageStep jd k QMG d 2 3).moveQueue d q t q').closeJob jd k stOk 0 ps).drawn.pumpDie jd := by
  refine ⟨Config.opTime 0xF00600 ((s.pageStep jd k QMG d 2 3).moveQueue d q t q').freeCtr, ?_⟩
  simp only [opRehomeDrainComplete, hs, hi, hh, ht, hj, hf, ne_eq, not_true_eq_false, or_self, if_false]

end

/-! ### The balancing interval (R367) -/

/-- The LVE times that the interval compares: those of the reachable dies. -/
def State.lveLoads (s : State) : List (Nat × Nat) := (s.dieList.filter (fun d => (s.die d).reachable)).map (fun d => (d, (s.die d).lveTime))

/-- A new interval: the measured times begin again. -/
def State.clearLveTimes (s : State) : State := s.allDies (fun d => { d with
  queues := d.queues.map (fun (p : Nat × Queue) => (p.1, { p.2 with aux := { p.2.aux with lveTime := 0 } })) })

section
variable {s : State} {d hi t lo : Nat} (hb : bit (s.reg 0 VIM 0 0x210) 0 = true) (hd : bestDie s.lveLoads (fun a b => decide (b < a)) = some (d, hi))
  (ht : bestDie s.lveLoads (fun a b => decide (a < b)) = some (t, lo))
include hb hd ht

/-- The busiest die gives a queue to the least busy one where they are too far apart, none is moving and a context is free. -/
theorem opBalanceInterval_moves {q : Nat} (apart : bits (s.reg 0 VIM 0 0x210) 8 7 * (bits (s.reg 0 VIM 0 0x210) 16 16 * 1000000000) < (hi - lo) * 100)
    (idle : s.autoRehoming = false) (room : (s.die t).freeCtx ≠ none) (hq : s.balanceQueue d t = some q) :
    opBalanceInterval s = ((s.startRehome d q t none).event 0 VIM 0 3).clearLveTimes := by
  rw [State.lveLoads] at hd ht
  have moves : ¬ ((hi - lo) * 100 ≤ bits (s.reg 0 VIM 0 0x210) 8 7 * (bits (s.reg 0 VIM 0 0x210) 16 16 * 1000000000) ∨ s.autoRehoming = true ∨
      (s.die t).freeCtx.isNone = true) := by
    simp [idle, room, apart]
  simp only [opBalanceInterval, hb, hd, ht, moves, hq, Bool.not_true, Bool.false_eq_true, if_false]
  rfl

theorem opBalanceInterval_stays (quiet : (hi - lo) * 100 ≤ bits (s.reg 0 VIM 0 0x210) 8 7 * (bits (s.reg 0 VIM 0 0x210) 16 16 * 1000000000) ∨ s.autoRehoming = true) :
    opBalanceInterval s = s.clearLveTimes := by
  rw [State.lveLoads] at hd ht
  have stays := or_assoc.mp (Or.inl (b := (s.die t).freeCtx.isNone = true) quiet)
  simp only [opBalanceInterval, hb, hd, ht, stays, Bool.not_true, Bool.false_eq_true, if_false, if_true]
  rfl

end

end Sys2Proof.Machine

/-! PROOF. Saving, restoring and moving of instances. -/

namespace Sys2Proof.Machine

/-- Settles O54: each operation by the state in which it finds its tenant or its queue, and the balancing interval by what it measured. -/
theorem instanceMovement : Obligations.InstanceMovement := by
  unfold Obligations.InstanceMovement
  intro s j x
  dsimp only
  have untouched : s.SameEntries s := ⟨fun _ => rfl⟩
  have stepsOn : s.SameEntries ((s.pageStep j.die j.job VIM 0 1 4).pageStep j.die j.job VIM 0 4 4) :=
    (s.sameEntries_pageStep ..).trans (State.sameEntries_pageStep ..)
  refine ⟨fun h => ?save, fun h hb => ?prepare, fun h hb => ?restore, fun d q h hq hj => ?rehome, fun d q t q' hs hi hh ht => ?drained, fun h => ?share,
    fun d hi t lo hb hd ht => ?balance⟩
  case save =>
    refine ⟨fun hc => ⟨0, _, State.opPs_le .., congrArg ret (opInstSave_badState h rfl hc)⟩, fun m root hc hm hr =>
      ⟨_, (s.pageStep j.die j.job VIM 0 1 4).saveImage_front x.paramInst x.data.auxData m.payload root.payload, ?saves⟩⟩
    exact h.managerCommits (by decide) (by decide) stepsOn 1 rfl (opInstSave_saves h rfl hc hm hr)
  case prepare =>
    refine ⟨fun hf hr => ⟨0, _, State.opPs_le .., congrArg ret (opInstRestorePrepare_badState h hb hf hr)⟩, fun hc => ⟨s.rand 32, s.rand_length 32, ?reserves⟩⟩
    exact h.managerCommits (by decide) (by decide) untouched 1 rfl (opInstRestorePrepare_reserves h hb hc)
  case restore =>
    refine ⟨fun hc => ⟨0, _, State.opPs_le .., congrArg ret (opInstRestore_badState h hb rfl hc)⟩,
      fun hc ho => ⟨0, _, State.opPs_le .., congrArg ret (opInstRestore_unopened h hb rfl rfl hc ho)⟩,
      State.openImage_of_mismatch _, fun pt hc ho => ⟨fun f hf => ?refused, fun hf hr => ?wants, fun hf hr => ?restores⟩⟩
    case refused => exact ⟨0, _, State.opPs_le .., congrArg ret (opInstRestore_refused h hb rfl rfl hc ho hf)⟩
    case wants => exact congrArg ret ((opInstRestore_accepted h hb rfl rfl hc ho hf).trans (if_pos hr))
    case restores =>
      exact h.managerCommits (by decide) (by decide) stepsOn 0 rfl ((opInstRestore_accepted h hb rfl rfl hc ho hf).trans (if_neg hr))
  case rehome =>
    refine ⟨fun ha => ⟨0, _, s.opPs_le x anyTime, congrArg ret (opQueueRehome_refused h hq hj ha)⟩, fun ha ht => ?stays,
      fun ha ht hf hp => congrArg ret ((opQueueRehome_moves h hq hj ha ht hf).trans (State.startRehome_unprepared hp ..))⟩
    exact h.managerCommits (by decide) (by decide) (s.sameEntries_pageStep ..) 0 rfl (opQueueRehome_stays h hq hj ha ht)
  case drained =>
    refine ⟨fun hj hf => congrArg ret (opRehomeDrainComplete_automatic hs hi hh ht hj hf), fun jd k hj hf => ?ends⟩
    obtain ⟨ps, ends⟩ := opRehomeDrainComplete_ends hs hi hh ht hj hf
    exact ⟨ps, congrArg ret ends⟩
  case share =>
    refine ⟨fun hc => h.managerCommits (by decide) (by decide) untouched 0 rfl ((h.onOp _).trans (if_pos hc)),
      fun ha hg hf => ⟨0, _, s.opPs_le x anyTime, congrArg ret ((h.onOp _).trans (if_neg ?_))⟩⟩
    simp only [ha, hg, hf, or_self, not_false_eq_true]
  case balance =>
    exact ⟨fun q apart idle room hq => congrArg ret (opBalanceInterval_moves hb hd ht apart idle room hq),
      fun quiet => congrArg ret (opBalanceInterval_stays hb hd ht quiet)⟩

end Sys2Proof.Machine

/-! SUPPORT. What LOCK and a split baton leave: the ends of jobs and of transitions that they bring leave the battery domain, the package's LOCK and the states
of the dies alone. -/

namespace Sys2Proof.Machine

/-! ### Elementary changes -/

/-- The battery domain, whether the package is in LOCK, and the state of each die. -/
def State.standing (s : State) : Bbd × Bool × (Nat → DieState) := (s.bbd, s.pkg.lock, fun d => (s.die d).state)

theorem State.state_of_standing {s t : State} (h : t.standing = s.standing) (d : Nat) : (t.die d).state = (s.die d).state :=
  congrFun (congrArg (fun p => p.2.2) h) d

theorem OutputsOnly.standing {s t : State} (h : OutputsOnly s t) : t.standing = s.standing := by
  have states : (fun d => (t.die d).state) = fun d => (s.die d).state := by
    funext d
    obtain ⟨r, e⟩ := h.die d
    rw [e]
  rw [State.standing, h.bbd, h.lock, states]
  rfl

section
variable (s : State)

/-- A change of a die that leaves its state. -/
theorem State.modDie_standing (d : Nat) {f : Die → Die} (hf : ∀ x, (f x).state = x.state) : (s.modDie d f).standing = s.standing := by
  refine congrArg (fun states => (s.bbd, s.pkg.lock, states)) (funext fun e => ?_)
  rw [State.modDie_die]
  split
  · next here => rw [hf, here.1]
  · rfl

/-- The same change of every die. -/
theorem State.allDies_standing {f : Die → Die} (hf : ∀ x, (f x).state = x.state) : (s.allDies f).standing = s.standing := by
  refine congrArg (fun states => (s.bbd, s.pkg.lock, states)) (funext fun d => ?_)
  by_cases present : d < s.dies.length
  · rw [s.allDies_die f d present, hf]
  · simp [State.die, State.allDies, List.getD_eq_getElem?_getD, present]

@[simp] theorem State.setReg_standing (d b i o : Nat) (v : W32) : (s.setReg d b i o v).standing = s.standing := (OutputsOnly.setReg ..).standing
@[simp] theorem State.count_standing (d b i o n : Nat) : (s.count d b i o n).standing = s.standing := (OutputsOnly.counts ..).standing
@[simp] theorem State.event_standing (d b i k : Nat) : (s.event d b i k).standing = s.standing := (OutputsOnly.event ..).standing
@[simp] theorem State.signal_standing (v : Nat) : (s.signal v).standing = s.standing := (OutputsOnly.signal ..).standing
@[simp] theorem State.send_standing (x : Tx) : (s.send x).standing = s.standing := rfl
@[simp] theorem State.pulse_standing : s.pulse.standing = s.standing := rfl
@[simp] theorem State.modInst_standing (n : Nat) (f : Inst → Inst) : (s.modInst n f).standing = s.standing := rfl
@[simp] theorem State.modCtx_standing (d q : Nat) (f : QCtx → QCtx) : (s.modCtx d q f).standing = s.standing := s.modDie_standing d (fun _ => rfl)
@[simp] theorem State.modAux_standing (d q : Nat) (f : QAux → QAux) : (s.modAux d q f).standing = s.standing := s.modDie_standing d (fun _ => rfl)
@[simp] theorem State.modJob_standing (d j : Nat) (f : Job → Job) : (s.modJob d j f).standing = s.standing := s.modDie_standing d (fun _ => rfl)
@[simp] theorem State.setChan_standing (d ch : Nat) (c : Channel) : (s.setChan d ch c).standing = s.standing := s.modDie_standing d (fun _ => rfl)

@[simp] theorem State.offer_standing (o : Offer) : (s.offer o).standing = s.standing := by
  unfold State.offer
  split
  · rfl
  · exact s.modDie_standing _ (fun _ => rfl)

@[simp] theorem State.relay_standing (ports : List Nat) (f : RelayFrame) : (s.relay ports f).standing = s.standing := by
  unfold State.relay
  split
  · rfl
  · exact s.modDie_standing _ (fun _ => rfl)

@[simp] theorem State.countBytes_standing (d : Nat) (w : Bool) (n : Nat) : (s.countBytes d w n).standing = s.standing := by
  have rests (k : Nat) : (s.modDie d (fun y => if w then { y with wrRest := k % 1024 } else { y with rdRest := k % 1024 })).standing = s.standing := by
    cases w <;> exact s.modDie_standing d (fun _ => rfl)
  simp only [State.countBytes, apply_ite State.standing, State.count_standing, rests, ite_self]

/-! ### Completions -/

@[simp] theorem State.iitEvent_standing (i : Nat) : (s.iitEvent i).standing = s.standing := by
  unfold State.iitEvent
  dsimp only
  split
  · exact s.count_standing ..
  · exact (OutputsOnly.iitSend _ _).standing

@[simp] theorem State.queueEvent_standing (d q : Nat) : (s.queueEvent d q).standing = s.standing := by
  have portal (t : State) (n b : Nat) : (t.portalEvent n b).standing = t.standing := by
    simp only [State.portalEvent, apply_ite State.standing, State.iitEvent_standing, State.modInst_standing, ite_self]
  have manager (t : State) : (t.mqEvent d q).standing = t.standing := by
    unfold State.mqEvent
    dsimp only
    split
    · rw [State.signal_standing, State.event_standing]
    · exact t.event_standing ..
  simp only [State.queueEvent, apply_ite State.standing, portal, manager, State.modAux_standing, ite_self]

@[simp] theorem State.writeEntry_standing (d q : Nat) (h : Held) (n : Nat) : (s.writeEntry d q h n).standing = s.standing := by
  simp only [State.writeEntry, apply_ite State.standing, State.modInst_standing, State.modCtx_standing, State.send_standing, ite_self]

@[simp] theorem State.afterEntries_standing (d q : Nat) (hs : List Held) : (s.afterEntries d q hs).standing = s.standing := by
  have counts (t : State) : (t.countIrq d q).standing = t.standing := by
    simp only [State.countIrq, apply_ite State.standing, State.queueEvent_standing, State.modAux_standing, ite_self]
  have shadow : (s.writeShadow d q).standing = s.standing := by
    simp only [State.writeShadow, apply_ite State.standing, State.send_standing, ite_self]
  refine (foldl_keeps State.standing _ (fun t h => ?_) hs _).trans shadow
  split
  · exact counts t
  · rfl

@[simp] theorem State.complete_standing (d q : Nat) (h : Held) : (s.complete d q h).standing = s.standing := by
  simp only [State.complete, State.writeCqe, apply_ite State.standing, State.afterEntries_standing, State.writeEntry_standing, State.modCtx_standing, ite_self]

theorem releaseHeld_standing (n d q : Nat) (s : State) : (releaseHeld n d q s).1.standing = s.standing := by
  induction n generalizing s with
  | zero => rfl
  | succ n ih =>
    unfold releaseHeld
    dsimp only
    split
    · exact s.modCtx_standing ..
    · rw [ih, State.writeEntry_standing, State.modCtx_standing, State.modCtx_standing]

@[simp] theorem State.release_standing (d q : Nat) : (s.release d q).standing = s.standing := by
  unfold State.release
  simp only [State.modCtx_standing, apply_ite State.standing, State.afterEntries_standing, ite_self]
  split
  · exact releaseHeld_standing ..
  · rfl

@[simp] theorem State.finish_standing (d j : Nat) (status : W16) (detail : W32) (etime out : Nat) : (s.finish d j status detail etime out).standing = s.standing := by
  unfold State.finish
  cases s.job? d j with
  | none => rfl
  | some x =>
    have dropped (t : State) : (t.modDie d (·.dropJob j)).standing = t.standing := t.modDie_standing d (fun _ => rfl)
    have keyed : (s.modDie d (fun y => { y with kpc := keepKpc y.kpc j })).standing = s.standing := s.modDie_standing d (fun _ => rfl)
    simp only [apply_ite State.standing, State.release_standing, State.complete_standing, State.queueEvent_standing, State.modAux_standing, State.modCtx_standing, dropped,
      keyed, ite_self]

/-! ### The output of a job, and its end on an LVE -/

@[simp] theorem State.startXfer_standing (d j part : Nat) : (s.startXfer d j part).standing = s.standing := by
  have issues (t : State) (ch : Nat) : (t.issue d ch).standing = t.standing := by
    unfold State.issue
    dsimp only
    split
    · rfl
    · simp only [apply_ite State.standing, State.countBytes_standing, State.send_standing, State.modJob_standing, State.setChan_standing, State.count_standing, ite_self]
  unfold State.startXfer
  split
  · rfl
  · split
    · exact s.modDie_standing d (fun _ => rfl)
    · simp only [State.nextDesc, State.goOnDesc, apply_ite State.standing, issues, State.setChan_standing, ite_self]

@[simp] theorem State.jobDone_standing (d j : Nat) : (s.jobDone d j).standing = s.standing := by
  unfold State.jobDone
  cases s.job? d j with
  | none => rfl
  | some x =>
    cases hf : x.failed <;>
      simp only [hf, State.startOut, apply_ite State.standing, State.finish_standing, State.startXfer_standing, State.modJob_standing, ite_self]

theorem Die.modMap_state (x : Die) (e : Nat) (f : EngineMap → EngineMap) : (x.modMap e f).state = x.state := by
  unfold Die.modMap
  split <;> rfl

@[simp] theorem State.mapApply_standing (d e : Nat) (m : W32) (k : W16) : (s.mapApply d e m k).standing = s.standing :=
  (State.event_standing ..).trans ((State.count_standing ..).trans (s.modDie_standing d (fun x => x.modMap_state e _)))

@[simp] theorem State.mapHeld_standing (d e : Nat) : (s.mapHeld d e).standing = s.standing := by
  unfold State.mapHeld
  split
  · split
    · exact s.mapApply_standing ..
    · rfl
  · rfl

@[simp] theorem State.halfOver_standing (d j : Nat) (x : Job) : (s.halfOver d j x).standing = s.standing := by
  unfold State.halfOver State.bneFreed
  split
  · split
    · rfl
    · split
      · rfl
      · simp only [State.mapHeld_standing, apply_ite State.standing, State.event_standing, State.count_standing, ite_self]
        exact s.modDie_standing d (fun _ => rfl)
  · rfl

@[simp] theorem State.lveOver_standing (d e : Nat) : (s.lveOver d e).standing = s.standing := by
  have counts (t : State) (status : W16) (busy words : Nat) : (t.lveCounts d e status busy words).standing = t.standing := by
    simp only [State.lveCounts, apply_ite State.standing, State.event_standing, State.count_standing, ite_self]
  have cleared (u : LveUnit) : (s.modDie d (fun y => { y with lves := y.lves.set e u })).standing = s.standing := s.modDie_standing d (fun _ => rfl)
  unfold State.lveOver
  split
  · rfl
  · split
    · rfl
    · simp only [State.jobDone_standing, State.mapHeld_standing]
      split <;> simp only [State.modAux_standing, State.halfOver_standing, apply_ite State.standing, State.event_standing, counts, cleared, ite_self]

@[simp] theorem State.abortWaiting_standing (d : Nat) : (s.abortWaiting d).standing = s.standing := by
  have stops (t : State) (e : Nat) (status : W16) (detail : W32) : (t.lveStop d e status detail).standing = t.standing := by
    unfold State.lveStop
    split
    · rfl
    · split
      · rfl
      · exact (State.lveOver_standing ..).trans (t.modJob_standing ..)
  have aborts (t : State) (e : Nat) : (t.lveAbort d e).standing = t.standing := by
    unfold State.lveAbort
    split
    · rfl
    · split
      · rfl
      · rw [State.setReg_standing, State.count_standing, stops]
  refine foldl_keeps State.standing _ (fun t e => ?_) _ s
  split
  · split
    · exact aborts t e
    · rfl
  · rfl

/-! ### The end of a transition and of the quorum -/

@[simp] theorem State.dropTransition_standing (status : W16) : (s.dropTransition status).standing = s.standing := by
  have offers (t : State) (d j : Nat) : (t.offerJob d j status).standing = t.standing := by
    unfold State.offerJob
    split
    · rfl
    · exact State.offer_standing ..
  have ends (t : State) (x : Transition) : (t.endTransitionJob x status).standing = t.standing := by
    unfold State.endTransitionJob
    split
    · exact (State.finish_standing ..).trans (offers ..)
    · rfl
  unfold State.dropTransition
  split
  · rfl
  · split
    · refine (ends _ _).trans ?_
      rw [State.event_standing]
      dsimp only
      split <;> rfl
    · rfl

@[simp] theorem State.dissolve_standing : s.dissolve.standing = s.standing := by
  have raised (t : State) (l : List Nat) : (l.foldl (fun u p => u.event 0 CIU p 5) t).standing = t.standing := foldl_keeps State.standing _ (fun _ _ => State.event_standing ..) l t
  unfold State.dissolve
  dsimp only
  split
  · split
    · rw [State.dropTransition_standing, State.offer_standing, State.event_standing, raised]
      rfl
    · rw [State.offer_standing, State.event_standing, raised]
      rfl
  · rfl

/-! ### LOCK and the split baton (R384, R422) -/

/-- LOCK sets the flag of the battery domain and the package's own, and leaves each die in its state. -/
theorem State.lockEntry_standing : s.lockEntry.standing = ({ s.bbd with lock := true }, true, fun d => (s.die d).state) := by
  have aborts (t : State) (l : List Nat) : (l.foldl State.abortWaiting t).standing = t.standing := foldl_keeps State.standing _ State.abortWaiting_standing l t
  have gates (t : State) : (t.allDies (fun d => { d with tmn := { d.tmn with gated := true } })).standing = t.standing := t.allDies_standing (fun _ => rfl)
  have fails (t : State) : (t.allDies (·.failUnlock)).standing = t.standing := t.allDies_standing (fun _ => rfl)
  have jobs (t : State) : (t.allDies (·.abortLves stLocked)).standing = t.standing := t.allDies_standing (fun _ => rfl)
  unfold State.lockEntry
  dsimp only
  split
  · next locked =>
    rw [gates, fails]
    exact congrArg (fun lock => ({ s.bbd with lock := true }, lock, fun d => (s.die d).state)) locked
  · rw [State.dissolve_standing, State.dropTransition_standing, aborts, jobs, State.event_standing, State.pulse_standing]
    have entered := (gates _).trans (fails { s with bbd := { s.bbd with lock := true } })
    exact congrArg (fun x : Bbd × Bool × (Nat → DieState) => (x.1, true, x.2.2)) entered

end

/-- What a split baton leaves (R384): no holder, the log stopped, LOCK with both persistent flags. -/
structure State.InSplit (t : State) : Prop where
  result : t.baton.result = .split
  holder : t.baton.holder = none
  stopped : t.alg.stopped = true
  lock : t.pkg.lock = true
  lockFlag : t.bbd.lock = true
  splitFlag : t.bbd.split = true

theorem OutputsOnly.inSplit {s t : State} (h : OutputsOnly s t) (k : s.InSplit) : t.InSplit :=
  ⟨h.baton ▸ k.result, h.baton ▸ k.holder, h.alg ▸ k.stopped, h.lock.trans k.lock, h.bbd ▸ k.lockFlag, h.bbd ▸ k.splitFlag⟩

/-- An entry of the tamper record leaves the flags. -/
theorem State.InSplit.recordTamper {s : State} (h : s.InSplit) (code resp d : Nat) : (s.recordTamper code resp d).InSplit := by
  unfold State.recordTamper
  dsimp only
  split <;> exact ⟨h.result, h.holder, h.stopped, h.lock, h.lockFlag, h.splitFlag⟩

/-- The response to a split baton leaves it. -/
theorem State.splitBaton_inSplit {s : State} (unsplit : s.baton.result ≠ .split) (d : Nat) : (s.splitBaton d).InSplit := by
  obtain ⟨flag, rest⟩ := Prod.mk.inj (s.control d none frSplit []).lockEntry_standing
  obtain ⟨lock, -⟩ := Prod.mk.inj rest
  unfold State.splitBaton
  rw [if_neg unsplit]
  dsimp only
  generalize (s.control d none frSplit []).lockEntry = u at flag lock
  refine (OutputsOnly.foldl _ (fun (t : State) x => OutputsOnly.event t x RLK 0 4) _ _).inSplit (State.InSplit.recordTamper ?_ ..)
  split
  · split <;> exact ⟨rfl, rfl, rfl, lock, congrArg Bbd.lock flag, rfl⟩
  · exact ⟨rfl, rfl, rfl, lock, congrArg Bbd.lock flag, rfl⟩

/-- So does what follows the command at once, which gates every key bus (R422). -/
theorem State.InSplit.settle {s : State} (h : s.InSplit) : (settle s).InSplit ∧ ∀ x ∈ (settle s).dies, x.tmn.gated = true := by
  have inner {α : Type} := settleGates_settleLink_field s (α := α)
  have settled : (Machine.settle s).InSplit := by
    refine (OutputsOnly.settled s).inSplit ⟨?_, ?_, ?_, ?_, ?_, ?_⟩
    · exact (inner (fun u => u.baton.result) fun _ _ _ => rfl).trans h.result
    · exact (inner (fun u => u.baton.holder) fun _ _ _ => rfl).trans h.holder
    · exact (inner (fun u => u.alg.stopped) fun _ _ _ => rfl).trans h.stopped
    · exact (inner (fun u => u.pkg.lock) fun _ _ _ => rfl).trans h.lock
    · exact (inner (fun u => u.bbd.lock) fun _ _ _ => rfl).trans h.lockFlag
    · exact (inner (fun u => u.bbd.split) fun _ _ _ => rfl).trans h.splitFlag
  exact ⟨settled, (settle_sound s).lockGates settled.lock⟩

end Sys2Proof.Machine

/-! PROOF. What is a split baton, and the state it leaves. -/

namespace Sys2Proof.Machine

section
variable {s : State} {d src : Nat} (clean : s.baton.result = .clean) (onRelay : (s.die d).onRelay = true)
include clean onRelay

theorem opHeartbeat_differs {b : Beat} (heard : framesFrom b.src s = true) (differs : beatDiffers b s = true) : opHeartbeat d b s = s.splitBaton d :=
  if_pos ⟨onRelay, heard, clean, differs⟩

theorem opCommit_foreign (foreign : s.baton.holder ≠ some src) : opCommit d src s = s.splitBaton d := by
  simp [opCommit, onRelay, clean, foreign.symm]

theorem opTamperOrder_foreign (foreign : s.baton.holder ≠ some src) (resp cls : Nat) : opTamperOrder d src resp cls s = s.splitBaton d := by
  simp [opTamperOrder, onRelay, clean, foreign.symm]

theorem opStatePush_foreign (foreign : s.baton.holder ≠ some src) (ok : Bool) : opStatePush d src ok s = s.splitBaton d := by
  simp [opStatePush, onRelay, clean, foreign.symm]

end

theorem opSplitFrame_unsplit {s : State} {d : Nat} (onRelay : (s.die d).onRelay = true) (unsplit : s.baton.result ≠ .split) :
    opSplitFrame d s = (s.modDie d (fun x => { x with tmn := { x.tmn with gated := true } })).splitBaton d := by
  simp [opSplitFrame, onRelay, unsplit]

/-- A die's life-cycle word changes. -/
theorem opLcDecodeChange_eq {s : State} {d : Nat} {w : W64} (present : d < s.dies.length) (other : lcCode w ≠ lcCode (s.die d).fuses.lc) :
    opLcDecodeChange d w s =
      let t := s.modDie d (fun x => { x with fuses := { x.fuses with lc := w } })
      if s.baton.result = .clean ∧ s.lcc.xfer = none then t.splitBaton d else t :=
  if_neg (not_or.mpr ⟨Nat.not_le.mpr present, other⟩)

/-- Settles O37: each command is the response to a split baton, from a state of a clean election. -/
theorem splitBaton : Obligations.SplitBaton := by
  unfold Obligations.SplitBaton
  intro s d src cmd clean onRelay cause
  have unsplit : s.baton.result ≠ .split := by simp [clean]
  have splits : ∃ u e, exec cmd s = ret (State.splitBaton u e) ∧ u.baton.result ≠ .split := by
    rcases cause with ⟨b, rfl, heard, differs⟩ | ⟨rfl, foreign⟩ | ⟨resp, cls, rfl, foreign⟩ | ⟨ok, rfl, foreign⟩ | rfl | ⟨w, rfl, present, other, idle⟩
    · exact ⟨s, d, congrArg ret (opHeartbeat_differs clean onRelay heard differs), unsplit⟩
    · exact ⟨s, d, congrArg ret (opCommit_foreign clean onRelay foreign), unsplit⟩
    · exact ⟨s, d, congrArg ret (opTamperOrder_foreign clean onRelay foreign resp cls), unsplit⟩
    · exact ⟨s, d, congrArg ret (opStatePush_foreign clean onRelay foreign ok), unsplit⟩
    · exact ⟨_, d, congrArg ret (opSplitFrame_unsplit onRelay unsplit), unsplit⟩
    · exact ⟨_, d, congrArg ret ((opLcDecodeChange_eq present other).trans (if_pos ⟨clean, idle⟩)), unsplit⟩
  obtain ⟨u, e, command, unsplit⟩ := splits
  obtain ⟨left, gated⟩ := (State.splitBaton_inSplit unsplit e).settle
  exact ⟨_, command, left.result, left.holder, left.stopped, left.lock, left.lockFlag, left.splitFlag, gated⟩

end Sys2Proof.Machine

/-! PROOF. Relay links and their loss, the orders of the holder, and frames relayed. -/

namespace Sys2Proof.Machine

section
variable {s : State} {d p : Nat} {q : RlkPort} (port : (s.die d).ports[p]? = some q)
include port

/-! ### Links, their loss and silence (R376, R380) -/

theorem linkTrains_of (waits : q.state = .training ∨ q.state = .down) (free : q.stuck = false) : linkTrains d p s = true := by
  simp [linkTrains, port, waits, free]

theorem opLinkTrained_up (waits : q.state = .training ∨ q.state = .down) (free : q.stuck = false) : opLinkTrained d p s =
    ((s.modDie d (fun x => { x with ports := x.ports.modify p (fun q => { q with state := .up, replays := 0, retraining := false }) })).event d RLK p 1).afterTraining :=
  if_pos (linkTrains_of port waits free)

theorem opLinkRetrainTimeout_eq (waits : q.state = .training ∨ q.state = .down) (free : q.stuck = false) : opLinkRetrainTimeout d p s =
    let u := s.modDie d (fun x => { x with ports := x.ports.modify p (fun q => { q with state := .down, stuck := true, retraining := false }) })
    (if q.state = .down then u else (u.count d RLK p 0x11C).event d RLK p 0).afterTraining := by
  have was : ((s.die d).ports.getD p ⟨.absent, 0, false, false⟩).state = q.state := by rw [List.getD_eq_getElem?_getD, port]; rfl
  simp only [opLinkRetrainTimeout, if_pos (linkTrains_of port waits free), was, decide_eq_true_eq]
  rfl

variable (up : q.state = .up)
include up

theorem opReplayExhausted_up : opReplayExhausted d p s =
    ((((s.count d RLK p 0x104 9).count d RLK p 0x108 8).faultTimes d (608 + 8 * p) 9).faultAct d (608 + 8 * p + 1)).linkDown d p := by
  simp only [opReplayExhausted, port, up, ne_eq, not_true_eq_false, if_false]

theorem opHeartbeatSilence_port (onRelay : (s.die d).onRelay = true) :
    opHeartbeatSilence (.port d p) s = (((s.raiseClass d 0x10).count d RLK p 0x10C 8).faultAct d (608 + 8 * p + 2)).portDown d p := by
  simp [opHeartbeatSilence, silenceCounts, onRelay, port, up]

end

/-! ### Silence of a die (R380) -/

theorem opHeartbeatSilence_die {s : State} {d : Nat} (clean : s.baton.result = .clean) (present : d < s.dies.length) (other : d ≠ s.baton.holder.getD 0)
    (running : (s.die d).state = .running) : opHeartbeatSilence (.die d) s = s.loseDie d := by
  simp [opHeartbeatSilence, silenceCounts, clean, State.nDies, present, other, running]

theorem opHeartbeatSilence_holder {s : State} {d : Nat} (clean : s.baton.result = .clean) (onRelay : (s.die d).onRelay = true) (other : s.baton.holder ≠ some d) :
    opHeartbeatSilence (.holder d) s = s.modDie d (fun y => { y with orphan := true, tmn := { y.tmn with gated := true } }) := by
  simp [opHeartbeatSilence, silenceCounts, clean, onRelay, other.symm]

/-! ### Orders and frames (R389, R447) -/

theorem opTamperOrder_holder {s : State} {d src : Nat} (clean : s.baton.result = .clean) (onRelay : (s.die d).onRelay = true) (holder : s.baton.holder = some src)
    (resp cls : Nat) : opTamperOrder d src resp cls s = s.applyResp d cls resp := by
  simp [opTamperOrder, clean, onRelay, holder]

theorem opLogFrame_oldest {s : State} {d : Nat} {o : Offer} {rest : List Offer} (unsent : (s.die d).logOut = o :: rest) :
    opLogFrame d s = { s.modDie d (fun x => { x with logOut := rest }) with alg := { s.alg with offers := s.alg.offers ++ [o] } } := by
  simp only [opLogFrame, unsent]
  rfl

/-- Settles O38: each command by its own equation, in the state that the statement gives it. -/
theorem relayLinks : Obligations.RelayLinks := by
  unfold Obligations.RelayLinks
  intro s d p
  refine ⟨fun q port waits free => ⟨congrArg ret (opLinkTrained_up port waits free), ?timeout⟩, fun q port up => ⟨congrArg ret (opReplayExhausted_up port up), ?silent⟩,
    fun clean present other running => ?lost, fun clean onRelay other => ?orphan, fun src resp cls clean onRelay holder => ?order, fun o rest unsent => ?log,
    fun pg far reachable => ?event, fun w present other settled => ?word, fun unsplit onRelay => congrArg ret (opSplitFrame_unsplit onRelay unsplit)⟩
  case timeout =>
    have stays := opLinkRetrainTimeout_eq port waits free
    exact ⟨fun down => congrArg ret (stays.trans (by simp only [down, if_true])), fun trains => congrArg ret (stays.trans (by simp [trains]))⟩
  case silent => exact fun onRelay => congrArg ret (opHeartbeatSilence_port port up onRelay)
  case lost => exact congrArg ret (opHeartbeatSilence_die clean present other running)
  case orphan => exact congrArg ret (opHeartbeatSilence_holder clean onRelay other)
  case order => exact congrArg ret (opTamperOrder_holder clean onRelay holder resp cls)
  case log => exact congrArg ret (opLogFrame_oldest unsent)
  case event => exact congrArg ret (if_pos ⟨far, reachable⟩)
  case word => exact congrArg ret ((opLcDecodeChange_eq present other).trans (if_neg (fun split => settled.elim (· split.1) (· split.2))))

end Sys2Proof.Machine

/-! SUPPORT. What a die's frames on Relay leave of the package: the SEQ numbers and the count of the sender, and what is sent. -/

namespace Sys2Proof.Machine

/-- From one state to the other, die `d` alone has changed, and frames have been sent. -/
structure State.SendsFrom (d : Nat) (s t : State) : Prop where
  rest : { t with dies := s.dies, tx := s.tx } = s
  count : t.dies.length = s.dies.length
  others : ∀ e, e ≠ d → t.die e = s.die e
  tx : s.tx <+: t.tx

theorem State.SendsFrom.refl (d : Nat) (s : State) : s.SendsFrom d s := ⟨rfl, rfl, fun _ _ => rfl, List.prefix_rfl⟩

theorem State.SendsFrom.trans {d : Nat} {s t u : State} (h : s.SendsFrom d t) (k : t.SendsFrom d u) : s.SendsFrom d u where
  rest := (congrArg (fun v : State => { v with dies := s.dies, tx := s.tx }) k.rest).trans h.rest
  count := k.count.trans h.count
  others e other := (k.others e other).trans (h.others e other)
  tx := h.tx.trans k.tx

theorem State.sendsFrom_modDie (s : State) (d : Nat) (f : Die → Die) : s.SendsFrom d (s.modDie d f) where
  rest := rfl
  count := s.modDie_length d f
  others e other := by rw [State.modDie_die, if_neg (fun same => other same.1)]
  tx := List.prefix_rfl

theorem State.sendsFrom_relay (s : State) (ports : List Nat) {f : RelayFrame} {d : Nat} (own : f.src = d) : s.SendsFrom d (s.relay ports f) := by
  subst own
  unfold State.relay
  split
  · exact .refl ..
  · exact (s.sendsFrom_modDie ..).trans ⟨rfl, rfl, fun _ _ => rfl, List.prefix_append ..⟩

/-- In a package of several dies a frame leaves by each of its ports, with the next SEQ of its stream (R371, R372, R374). -/
theorem State.relay_sends {s : State} (several : 2 ≤ s.dies.length) {ports : List Nat} {p : Nat} (port : p ∈ ports) (f : RelayFrame) :
    .frame p { f with seqNo := s.nextSeq f } ∈ (s.relay ports f).tx := by
  rw [State.relay, if_neg (show ¬ s.nDies ≤ 1 from Nat.not_le.mpr several)]
  exact List.mem_append_right _ (List.mem_map_of_mem port)

section
variable {d : Nat} {s t : State} (h : s.SendsFrom d t)
include h

theorem State.SendsFrom.baton : t.baton = s.baton := (congrArg State.baton h.rest :)

theorem State.SendsFrom.peer (e p : Nat) : t.peer e p = s.peer e p := by rw [State.peer, State.peer, State.nDies, h.count, State.nDies]

/-- The heartbeat of another die is as it was (R379). -/
theorem State.SendsFrom.beat {e : Nat} (other : e ≠ d) : t.beat e = s.beat e := by
  have rtc : t.bbd = s.bbd := (congrArg State.bbd h.rest :)
  rw [State.beat, State.beat, h.others e other, State.electId, State.electId, h.baton, rtc]

end

/-! ### Heartbeats (R379) -/

/-- The heartbeat of a die to another, with the SEQ of its stream. -/
def State.beatFrame (s : State) (e dst : Nat) (q : BitVec 16) : RelayFrame := ⟨frBeat, .control, e, some dst, q, s.beat e⟩

/-- The heartbeats of a period: to the neighbour on each port, and to the holder on both. -/
structure State.BeatsSent (s : State) (e : Nat) (tx : List Tx) : Prop where
  left : ∃ q, .frame 0 (s.beatFrame e (s.peer e 0).1 q) ∈ tx
  right : ∃ q, .frame 1 (s.beatFrame e (s.peer e 1).1 q) ∈ tx
  holder : ∀ h, s.baton.holder = some h → h ≠ e → ∃ q, .frame 0 (s.beatFrame e h q) ∈ tx ∧ .frame 1 (s.beatFrame e h q) ∈ tx

theorem State.BeatsSent.mono {s : State} {e : Nat} {tx ux : List Tx} (h : s.BeatsSent e tx) (more : tx <+: ux) : s.BeatsSent e ux where
  left := h.left.imp fun _ sent => more.subset sent
  right := h.right.imp fun _ sent => more.subset sent
  holder x named other := (h.holder x named other).imp fun _ sent => ⟨more.subset sent.1, more.subset sent.2⟩

/-- Another die's frames change none of these. -/
theorem State.SendsFrom.beatsSent {d e : Nat} {s t : State} (h : s.SendsFrom d t) (other : e ≠ d) {tx : List Tx} (sent : t.BeatsSent e tx) : s.BeatsSent e tx := by
  have same : t.beatFrame e = s.beatFrame e := by unfold State.beatFrame; rw [h.beat other]
  obtain ⟨left, right, holder⟩ := sent
  rw [same, h.peer] at left right
  rw [same, h.baton] at holder
  exact ⟨left, right, holder⟩

section
variable (s : State) (d : Nat)

/-- The state from which the frames of `sendBeat` go out. -/
def State.beatCounted : State := s.modDie d (fun x => { x with beats := x.beats + 1 })

/-- The state once the neighbours' frames are out. -/
def State.beatNeighbours : State :=
  ((s.beatCounted d).relay [0] (s.beatFrame d (s.peer d 0).1 0)).relay [1] (s.beatFrame d (s.peer d 1).1 0)

theorem State.beatCounted_sends : s.SendsFrom d (s.beatCounted d) := s.sendsFrom_modDie ..

theorem State.beatNeighbours_sends : s.SendsFrom d (s.beatNeighbours d) :=
  ((s.beatCounted_sends d).trans (State.sendsFrom_relay _ _ rfl)).trans (State.sendsFrom_relay _ _ rfl)

theorem State.sendBeat_eq : s.sendBeat d = match s.baton.holder with
    | some h => if h = d then s.beatNeighbours d else (s.beatNeighbours d).relay [0, 1] (s.beatFrame d h 0)
    | none => s.beatNeighbours d := by
  have peer (p : Nat) : (s.beatCounted d).peer d p = s.peer d p := (s.beatCounted_sends d).peer d p
  have holder : (s.beatNeighbours d).baton.holder = s.baton.holder := congrArg Baton.holder (s.beatNeighbours_sends d).baton
  rw [← holder, State.beatNeighbours, ← peer 0, ← peer 1]
  rfl

/-- After the neighbours' frames at most those to the holder go out. -/
theorem State.sendBeat_after : (s.beatNeighbours d).SendsFrom d (s.sendBeat d) := by
  rw [State.sendBeat_eq]
  split
  · split
    · exact .refl ..
    · exact State.sendsFrom_relay _ _ rfl
  · exact .refl ..

theorem State.sendBeat_sends : s.SendsFrom d (s.sendBeat d) := (s.beatNeighbours_sends d).trans (s.sendBeat_after d)

/-- A die that sends its heartbeats sends all of them. -/
theorem State.sendBeat_beatsSent (several : 2 ≤ s.dies.length) : s.BeatsSent d (s.sendBeat d).tx := by
  have first : 2 ≤ (s.beatCounted d).dies.length := (s.beatCounted_sends d).count ▸ several
  have left := State.relay_sends first (List.mem_singleton_self 0) (s.beatFrame d (s.peer d 0).1 0)
  have sent := State.sendsFrom_relay (s.beatCounted d) [0] (f := s.beatFrame d (s.peer d 0).1 0) rfl
  have right := State.relay_sends (sent.count ▸ first) (List.mem_singleton_self 1) (s.beatFrame d (s.peer d 1).1 0)
  have neighbours : 2 ≤ (s.beatNeighbours d).dies.length := (s.beatNeighbours_sends d).count ▸ several
  have after := (s.sendBeat_after d).tx
  refine ⟨⟨_, after.subset ((State.sendsFrom_relay _ _ rfl).tx.subset left)⟩, ⟨_, after.subset right⟩, fun h named other => ?_⟩
  rw [State.sendBeat_eq, named]
  simp only [other, if_false]
  exact ⟨_, State.relay_sends neighbours (by decide : 0 ∈ [0, 1]) (s.beatFrame d h 0), State.relay_sends neighbours (by decide : 1 ∈ [0, 1]) (s.beatFrame d h 0)⟩

end

/-- Of dies that send their heartbeats in turn, each sends those of its own state at the start of the period. -/
theorem State.foldl_sendBeat_beatsSent {s : State} (several : 2 ≤ s.dies.length) {l : List Nat} {e : Nat} (among : e ∈ l) :
    s.BeatsSent e (l.foldl (fun t d => t.sendBeat d) s).tx := by
  have grows (l : List Nat) (s : State) : s.tx <+: (l.foldl (fun t d => t.sendBeat d) s).tx :=
    List.foldlRecOn (motive := fun t : State => s.tx <+: t.tx) l _ List.prefix_rfl (fun t h d _ => h.trans (t.sendBeat_sends d).tx)
  induction l generalizing s with
  | nil => cases among
  | cons d l ih =>
    have sent := s.sendBeat_sends d
    by_cases own : e = d
    · subst own
      exact (s.sendBeat_beatsSent e several).mono (grows l _)
    · exact sent.beatsSent own (ih (sent.count ▸ several) ((List.mem_cons.mp among).resolve_left own))

end Sys2Proof.Machine

/-! PROOF. The election of the holder, and the heartbeats. -/

namespace Sys2Proof.Machine

/-! ### What a die accepts (R381) -/

/-- The die accepted is the first in order of the votes that passed. -/
theorem acceptOf_holder_some {vs : Assoc Vote} {h : Nat} (named : (acceptOf vs).holder = some h) :
    ∃ v, (h, v) ∈ vs ∧ v.pass = true ∧ ∀ p ∈ vs, p.2.pass = true → vs.idxOf (h, v) ≤ vs.idxOf p := by
  obtain ⟨⟨i, v⟩, found, same⟩ := Option.map_eq_some_iff.mp named
  obtain rfl : i = h := same
  obtain ⟨passes, before, after, rfl, failed⟩ := List.find?_eq_some_iff_append.mp found
  refine ⟨v, by simp, passes, fun p among passed => ?_⟩
  have later : ∀ x : Nat × Vote, x.2.pass = true → x ∉ before := fun x good mem => by simpa [good] using failed x mem
  rw [List.idxOf_append_of_notMem (later _ passes), List.idxOf_append_of_notMem (later p passed), List.idxOf_cons_self]
  exact Nat.add_le_add_left (Nat.zero_le _) _

theorem acceptOf_holder_none {vs : Assoc Vote} : (acceptOf vs).holder = none ↔ ∀ p ∈ vs, p.2.pass = false := by
  simp [acceptOf]

/-! ### Votes, accepts and the commit (R381, R382) -/

section
variable {s : State} {d : Nat}

theorem opVote_eq {src : Nat} (votes : voting d s = true) (present : src < s.dies.length) (pass : Bool) (code : Nat) (share : List Byte) :
    opVote d src pass code share s =
      let u := s.takeVote d src ⟨pass, code, share⟩
      if (u.baton.votesAt d).length = s.dies.length then u.sendAccept d else u := if_pos ⟨votes, present⟩

/-- The state in which a die has sent its ACCEPT. -/
def State.accepted (s : State) (d : Nat) : State :=
  let m := acceptOf (s.baton.votesAt d)
  (s.takeAccept d d m).control d none frAccept ([m.holder.getD 8, m.code] ++ m.voters ++ [leNat m.nonce])

theorem State.sendAccept_codesDiffer (differ : codesDiffer (s.baton.votesAt d) = true) : s.sendAccept d = (s.accepted d).splitBaton d := if_pos differ

variable (agree : codesDiffer (s.baton.votesAt d) = false)
include agree

theorem State.sendAccept_acceptsDiffer (other : ∃ p ∈ (s.accepted d).baton.acceptsAt d, p.2 ≠ acceptOf (s.baton.votesAt d)) :
    s.sendAccept d = (s.accepted d).splitBaton d :=
  (if_neg (Bool.eq_false_iff.mp agree)).trans (if_pos (List.any_eq_true.mpr (other.imp fun _ differs => ⟨differs.1, decide_eq_true differs.2⟩)))

variable (same : ∀ p ∈ (s.accepted d).baton.acceptsAt d, p.2 = acceptOf (s.baton.votesAt d))
include same

theorem State.sendAccept_same : s.sendAccept d =
    if (acceptOf (s.baton.votesAt d)).holder = none then (s.accepted d).noHolder (acceptOf (s.baton.votesAt d)).voters else (s.accepted d).tryCommit d :=
  (if_neg (Bool.eq_false_iff.mp agree)).trans (if_neg fun other =>
    let ⟨p, among, differs⟩ := List.any_eq_true.mp other
    of_decide_eq_true differs (same p among))

end

theorem opAccept_of {s : State} {d src : Nat} {m own : AcceptMsg} (boots : (s.die d).state = .booting) (electing : s.baton.result = .electing)
    (holds : Assoc.get? ((s.takeAccept d src m).baton.acceptsAt d) d = some own) :
    opAccept d src m s = if m ≠ own then (s.takeAccept d src m).splitBaton d else (s.takeAccept d src m).tryCommit d := by
  simp only [opAccept, boots, electing, ne_eq, not_true_eq_false, or_self, if_false, holds]

theorem opCommit_holder {s : State} {d src : Nat} {own : AcceptMsg} (onRelay : (s.die d).onRelay = true) (electing : s.baton.result = .electing)
    (holds : Assoc.get? (s.baton.acceptsAt d) d = some own) (holder : own.holder = some src) (committed : s.baton.committed = some src) :
    opCommit d src s = s.cleanElection src own.code own.nonce own.voters := by
  simp [opCommit, onRelay, electing, holds, holder, committed]

theorem opHeartbeatPeriod_several {s : State} (several : 2 ≤ s.dies.length) :
    opHeartbeatPeriod s = (s.dieList.filter (fun d => (s.die d).onRelay)).foldl (fun t d => t.sendBeat d) s :=
  if_neg (show ¬ s.dies.length = 1 by omega)

theorem opHeartbeat_agrees {s : State} {b : Beat} (agrees : beatDiffers b s = false) (d : Nat) : opHeartbeat d b s = s :=
  if_neg (fun differs => Bool.eq_false_iff.mp agrees differs.2.2.2)

/-- Settles O36: each message by the branch of the election that its receiver takes; in a heartbeat period the dies send in turn, and none changes another's heartbeat. -/
theorem relayElection : Obligations.RelayElection := by
  unfold Obligations.RelayElection
  intro s d src
  refine ⟨fun pass code share votes present => ?vote, fun votes => congrArg ret (if_pos votes), ?accept, fun m own boots electing holds => ?compare,
    fun own onRelay electing holds holder committed => congrArg ret (opCommit_holder onRelay electing holds holder committed), fun several => ?period,
    fun b onRelay agrees => congrArg ret (opHeartbeat_agrees agrees d)⟩
  case vote =>
    have taken := opVote_eq votes present pass code share
    exact ⟨fun missing => congrArg ret (taken.trans (if_neg missing)), fun complete => congrArg ret (taken.trans (if_pos complete))⟩
  case accept =>
    exact ⟨fun h named => acceptOf_holder_some named, acceptOf_holder_none, rfl, rfl, State.sendAccept_codesDiffer, State.sendAccept_acceptsDiffer,
      fun agree same absent => (State.sendAccept_same agree same).trans (if_pos absent), fun agree same named => (State.sendAccept_same agree same).trans (if_neg named)⟩
  case compare =>
    have compared := opAccept_of boots electing holds
    exact ⟨fun same => congrArg ret (compared.trans (if_neg (not_not_intro same))), fun other => congrArg ret (compared.trans (if_pos other))⟩
  case period =>
    refine ⟨_, congrArg ret (opHeartbeatPeriod_several several), fun e present onRelay => ?_⟩
    have sender : e ∈ s.dieList.filter (fun d => (s.die d).onRelay) := List.mem_filter.mpr ⟨List.mem_range.mpr present, onRelay⟩
    obtain ⟨left, right, holder⟩ := State.foldl_sendBeat_beatsSent several sender
    exact ⟨left, right, holder⟩

end Sys2Proof.Machine

/-! SUPPORT. The Pacer's first probes of a die (R472), with the faults and fences they may bring, leave every die in its state. -/

namespace Sys2Proof.Machine

/-! ### Faults and fences (R247, R296, R441) -/

section
variable (s : State) (d : Nat)

theorem Die.sourceCounts_state (x : Die) (src : Nat) : (x.sourceCounts src).state = x.state := by
  unfold Die.sourceCounts
  dsimp only
  split <;> rfl

theorem State.fclMark_standing (src : Nat) : (s.fclMark d src).1.standing = s.standing := by
  have alerts (t : State) : (if t.mgiUp then t.alert else t).standing = t.standing := by
    split
    · exact (OutputsOnly.alert t).standing
    · rfl
  have counts := s.modDie_standing d (fun x => x.sourceCounts_state src)
  have severes (t : State) (n : Nat) : ({ t with pkg := { t.pkg with severes := n } } : State).standing = t.standing := rfl
  unfold State.fclMark
  dsimp only
  split
  · rfl
  · split
    · rw [State.offer_standing, State.pulse_standing, alerts, severes, State.count_standing, State.event_standing]
      exact Eq.trans (State.modDie_standing _ d (fun _ => rfl)) counts
    · exact counts

/-- A source counts whose chapter fixes no action. -/
theorem State.faultAct_standing {src : Nat} (quiet : src % 32 ≠ 10) (inert : ∀ t : State, t.severeAct d src = t) : (s.faultAct d src).standing = s.standing := by
  have unpatched : ¬ (src < 512 ∧ src % 32 = 10) := fun h => quiet h.2
  simp only [State.faultAct, unpatched, if_false, inert, ite_self, State.fclMark_standing]

theorem State.fenceLve_standing (e cause : Nat) : (s.fenceLve d e cause).standing = s.standing := by
  unfold State.fenceLve
  split
  · rfl
  · split
    · rfl
    · split
      · rw [State.abortWaiting_standing]
        exact s.modDie_standing d (fun _ => rfl)
      · rw [State.event_standing, State.event_standing]
        exact s.modDie_standing d (fun _ => rfl)

theorem State.fenceBne_standing (e cause : Nat) : (s.fenceBne d e cause).standing = s.standing := by
  unfold State.fenceBne
  split
  · rfl
  · split
    · rfl
    · split
      · exact s.modDie_standing d (fun _ => rfl)
      · rw [State.event_standing]
        exact s.modDie_standing d (fun _ => rfl)

/-! ### The Pacer (R468 to R472) -/

/-- No chapter fixes an action for PACER_EXHAUSTED (R476). -/
theorem State.severeAct_exhaust {e : Nat} (he : e < 20) : s.severeAct d (exhaustSource e) = s := by
  unfold exhaustSource
  interval_cases e <;> rfl

theorem State.exhaustEngine_standing {e : Nat} (he : e < 20) : (s.exhaustEngine d e).standing = s.standing := by
  have fenced : (if e < 16 then s.fenceLve d e 3 else s.fenceBne d (e - 16) 3).standing = s.standing := by
    split
    · exact s.fenceLve_standing ..
    · exact s.fenceBne_standing ..
  have quiet : exhaustSource e % 32 ≠ 10 := by
    unfold exhaustSource
    interval_cases e <;> decide
  unfold State.exhaustEngine
  dsimp only
  rw [State.event_standing, State.faultAct_standing _ d quiet (fun t => t.severeAct_exhaust d he)]
  exact Eq.trans (State.modDie_standing _ d (fun _ => rfl)) fenced

theorem State.planProbe_standing {e : Nat} (he : e < 20) (ms : List Int) (tj : Int) : (s.planProbe d e ms tj).standing = s.standing := by
  have steps (t : State) : (t.vcoreStep d).standing = t.standing := by
    unfold State.vcoreStep
    dsimp only
    split
    · rfl
    · exact t.modDie_standing d (fun _ => rfl)
  have engines (f : PcrEngine → PcrEngine) : (s.modPe d e f).standing = s.standing := s.modDie_standing d (fun _ => rfl)
  have commits (t : State) : (t.commitAge d).standing = t.standing := rfl
  unfold State.planProbe
  dsimp only
  split
  · rfl
  · simp only [apply_ite State.standing, commits, State.exhaustEngine_standing _ d he, steps, State.event_standing, State.mapApply_standing, State.count_standing, engines,
      ite_self]

theorem State.setLevel_standing (l : Nat) : (s.setLevel d l).standing = s.standing := by
  have asked (t : State) (e : Nat) (m : W32) (k : W16) : (t.mapRequest d e m k).standing = t.standing := by
    have held (r : W32 × W16) : (t.modDie d (fun x => x.modMap e (fun y => { y with next := some r }))).standing = t.standing :=
      t.modDie_standing d (fun x => x.modMap_state e _)
    simp only [State.mapRequest, apply_ite State.standing, State.count_standing, State.mapApply_standing, held, ite_self]
  unfold State.setLevel
  refine (foldl_keeps State.standing _ (fun t e => ?_) _ _).trans (s.modDie_standing d (fun _ => rfl))
  split
  · exact asked ..
  · rfl

theorem State.pacerProbes_standing (margins : List (List Int)) : (s.pacerProbes d margins).standing = s.standing := by
  have probes : ((List.range 20).foldl (fun t e =>
      if (t.die d).marginsOk e (margins.getD e []) then t.planProbe d e (margins.getD e []) (t.die d).tj else t) s).standing = s.standing := by
    refine List.foldlRecOn (motive := fun t : State => t.standing = s.standing) _ _ rfl (fun t same e among => Eq.trans ?_ same)
    split
    · exact t.planProbe_standing d (List.mem_range.mp among) ..
    · rfl
  have commits (t : State) : (t.commitAge d).standing = t.standing := rfl
  unfold State.pacerProbes
  dsimp only
  rw [commits, apply_ite State.standing, State.setLevel_standing, ite_self]
  exact Eq.trans (State.modDie_standing _ d (fun _ => rfl)) probes

end

end Sys2Proof.Machine

/-! PROOF. DIE reset, exclusion and readmission. -/

namespace Sys2Proof.Machine

/-! ### DIE reset (R385, R388, R483) -/

section
variable {s : State} {d : Nat}

theorem dieResetDue_of (clean : s.baton.result = .clean) (other : s.baton.holder ≠ some d) (present : d < s.dies.length) (kept : (s.die d).state ≠ .excluded)
    (cause : (s.die d).state = .lost ∨ (s.die d).resetReq = true) : dieResetDue d s = true := by
  simp [dieResetDue, clean, other.symm, State.nDies, present, kept, cause]

variable (due : dieResetDue d s = true)
include due

theorem opDieResetEntry_lost (lost : (s.die d).state = .lost) :
    opDieResetEntry d s = (((s.modDie d Die.dieReset).count 0 RLK 0 0x210).offer (Offer.of 0 0 0x2003 d)).faultAct d 624 := by
  simp [opDieResetEntry, due, lost]

theorem opDieResetEntry_ordered (serves : (s.die d).state ≠ .lost) (idle : s.inBurn = false) :
    opDieResetEntry d s = ((((s.dieGone d).modDie d Die.dieReset).count 0 RLK 0 0x210).offer (Offer.of 0 0 0x2003 d)).faultAct d 624 := by
  simp [opDieResetEntry, due, serves, idle]

theorem opDieResetEntry_burning (serves : (s.die d).state ≠ .lost) (burns : s.inBurn = true) :
    opDieResetEntry d s = { s with lcc := { s.lcc with stop := some stMachineCheck } } := if_pos ⟨due, serves, burns⟩

end

/-! ### JOIN (R383, R387) -/

/-- The steps of a die's boot load the patch set that its packages give. -/
theorem Die.bootSteps_patch (x : Die) (b : BootIn) (d : Nat) (fw : List Byte) (programs : Assoc OwnerProgram) :
    (x.bootSteps b d fw programs).patch = patchSet x.fuses (bootPatches b d) := by
  have fences (y : Die) (e : Nat) : (y.bootFence e).patch = y.patch := by
    unfold Die.bootFence
    split
    · rfl
    · split <;> rfl
  exact List.foldlRecOn (motive := fun y : Die => y.patch = patchSet x.fuses (bootPatches b d)) _ _ rfl (fun y same e _ => (fences y e).trans same)

theorem State.pacerStart_fuses (s : State) (d e : Nat) : ((s.pacerStart d).die e).fuses = (s.die e).fuses := by
  rw [State.pacerStart, State.send_die, State.modDie_die]
  split
  · next here => rw [here.1]; rfl
  · rfl

section
variable {s : State} {m : JoinMsg} (resets : (s.die m.die).state = .dieReset) (clean : s.baton.result = .clean) (powered : s.pkg.railsLow.contains m.die = false)
include resets clean powered

theorem opJoinFrame_failed (failed : m.pass = false) : opJoinFrame m s = s.exclude m.die := by
  simp only [opJoinFrame, resets, clean, powered, failed, ne_eq, not_true_eq_false, Bool.false_eq_true, or_self, if_false, Bool.not_false, if_true]

theorem opJoinFrame_otherCode (passed : m.pass = true) (other : m.code ≠ s.lc) : opJoinFrame m s = s.splitBaton (s.baton.holder.getD 0) := by
  simp only [opJoinFrame, resets, clean, powered, passed, other, ne_eq, not_true_eq_false, Bool.false_eq_true, or_self, if_false, Bool.not_true, not_false_eq_true, if_true]

/-- A good JOIN leaves the die joining, with its share kept. -/
theorem opJoinFrame_good (passed : m.pass = true) (same : m.code = s.lc) (present : m.die < s.dies.length)
    (patched : (patchSet (s.die m.die).fuses (bootPatches s.flash m.die)).state ≠ 2) :
    ((opJoinFrame m s).die m.die).state = .joining ∧ Assoc.get? (opJoinFrame m s).baton.joins m.die = some m.share := by
  have loads (fw : List Byte) (programs : Assoc OwnerProgram) :
      (((s.pacerStart m.die).die m.die).bootSteps (s.pacerStart m.die).flash m.die fw programs).patch.state ≠ 2 := by
    rwa [Die.bootSteps_patch, State.pacerStart_fuses, State.pacerStart_flash]
  have there : m.die < (s.pacerStart m.die).dies.length := (State.modDie_length ..).symm ▸ present
  simp only [opJoinFrame, resets, clean, powered, passed, same, ne_eq, not_true_eq_false, Bool.false_eq_true, or_self, if_false, Bool.not_true, loads]
  constructor
  · rw [State.control, State.state_of_standing (State.relay_standing ..)]
    refine (State.state_of_standing (State.pacerProbes_standing ..) _).trans ?_
    rw [State.modDie_die, if_pos ⟨rfl, there⟩]
  · rw [State.control, (State.sendsFrom_relay _ _ rfl).baton, Assoc.get?_set, if_pos rfl]

end

/-! ### STATE_PUSH (R378, R387) -/

@[simp] theorem State.offer_baton (s : State) (o : Offer) : (s.offer o).baton = s.baton := (congrArg State.baton (s.offer_keeps o) :)

theorem State.readmit_baton (s : State) (d : Nat) : (s.readmit d).baton =
    { s.baton with joins := Assoc.erase s.baton.joins d, reachable := Assoc.set s.baton.reachable d (), present := Assoc.set s.baton.present d () } := by
  have writes (t : State) (o : Nat) (v : W32) : (t.fwWrite d TMN o v).baton = t.baton := State.offer_baton ..
  simp only [State.readmit, State.event_baton, writes, State.modDie_baton]

theorem State.readmit_state {s : State} {d : Nat} (present : d < s.dies.length) : ((s.readmit d).die d).state = .running := by
  have writes (t : State) (o : Nat) (v : W32) : (t.fwWrite d TMN o v).standing = t.standing := (State.offer_standing ..).trans (State.setReg_standing ..)
  have listed (t : State) (b : Baton) : ({ t with baton := b } : State).standing = t.standing := rfl
  have running : ((s.modDie d (fun x => { x with state := .running, boot := { x.boot with step := 8 }, tmn := { x.tmn with gated := s.pkg.lock } })).die d).state = .running := by
    rw [State.modDie_die, if_pos ⟨rfl, present⟩]
  refine (State.state_of_standing ?_ d).trans running
  simp only [State.readmit, State.event_standing, listed, writes]

theorem Die.onRelay_of_joining {x : Die} (joins : x.state = .joining) : x.onRelay = true := by simp [Die.onRelay, joins]

section
variable {s : State} {d src : Nat} {own : List Byte} (clean : s.baton.result = .clean) (joins : (s.die d).state = .joining) (holder : s.baton.holder = some src)
include joins holder

theorem opJoinAck_push (outstanding : Assoc.get? s.baton.joins d = some own) (share : List Byte) :
    opJoinAck d src share s = s.statePush src d own share := by
  simp [opJoinAck, joins, holder, outstanding, Assoc.getD]

include clean

theorem opStatePush_readmits (outstanding : Assoc.get? s.baton.joins d = some own) : opStatePush d src true s = s.readmit d := by
  simp [opStatePush, clean, Die.onRelay_of_joining joins, holder, joins, outstanding]

theorem opStatePush_badTag : opStatePush d src false s = (s.faultAct d 611).raiseClass d 0x0F := by
  simp [opStatePush, clean, Die.onRelay_of_joining joins, holder]

end

/-- In a canonical table an erased key has no entry. -/
theorem Assoc.get?_erase_self {α : Type} {m : Assoc α} {lo : Option Nat} (wf : Assoc.wfFrom lo m = true) (k : Nat) : Assoc.get? (Assoc.erase m k) k = none := by
  have above (m : Assoc α) (later : ∀ p ∈ m, k < p.1) : Assoc.get? m k = none := by
    induction m with
    | nil => rfl
    | cons p m ih =>
      have first : p.1 ≠ k := (later p (List.mem_cons_self ..)).ne'
      simp only [Assoc.get?, first, if_false]
      exact ih (fun q among => later q (List.mem_cons_of_mem _ among))
  induction m generalizing lo with
  | nil => rfl
  | cons p m ih =>
    simp only [Assoc.wfFrom, Bool.and_eq_true] at wf
    by_cases head : p.1 = k
    · simp only [Assoc.erase, head, if_true]
      exact above m (head ▸ Assoc.lt_of_wfFrom wf.2)
    · simp only [Assoc.erase, head, if_false, Assoc.get?]
      exact ih wf.2

/-- All that `Obligations.DieReadmission` states holds where the table of the JOINs outstanding is canonical: each command by its own equation. -/
theorem dieReadmission_of_canonical : ∀ (s : State) (d : Nat), s.baton.joins.wf = true → s.baton.result = .clean →
    (s.baton.holder ≠ some d → d < s.dies.length → (s.die d).state ≠ .excluded →
      let reset := fun (u : State) => ((((u.modDie d Die.dieReset).count 0 RLK 0 0x210).offer (Offer.of 0 0 0x2003 d)).faultAct d 624)
      ((s.die d).state = .lost → exec (.dieResetEntry d) s = .next (settle (reset s))) ∧
      ((s.die d).state ≠ .lost → (s.die d).resetReq = true → s.inBurn = false → exec (.dieResetEntry d) s = .next (settle (reset (s.dieGone d)))) ∧
      ((s.die d).state ≠ .lost → (s.die d).resetReq = true → s.inBurn = true →
        exec (.dieResetEntry d) s = .next (settle { s with lcc := { s.lcc with stop := some stMachineCheck } }))) ∧
    (∀ x : Die, x.dieReset.regs = (Die.inReset x.fuses 7 2).regs ∧ x.dieReset.state = .dieReset ∧ x.dieReset.jobs = [] ∧ x.dieReset.fuses = x.fuses) ∧
    ((s.die d).state = .dieReset →
      exec (.rejoinTimeout d) s = .next (settle (s.exclude d)) ∧
      (s.pkg.railsLow.contains d = false →
        (∀ code share, exec (.vjoin (.frame ⟨d, false, code, share⟩)) s = .next (settle (s.exclude d))) ∧
        (∀ code share, code ≠ s.lc → exec (.vjoin (.frame ⟨d, true, code, share⟩)) s = .next (settle (s.splitBaton (s.baton.holder.getD 0)))) ∧
        (∀ share, d < s.dies.length → (patchSet (s.die d).fuses (bootPatches s.flash d)).state ≠ 2 → Effect (.vjoin (.frame ⟨d, true, s.lc, share⟩)) s (fun t =>
          (t.die d).state = .joining ∧ Assoc.get? t.baton.joins d = some share)))) ∧
    (∀ src share own, (s.die d).state = .joining → s.baton.holder = some src → Assoc.get? s.baton.joins d = some own →
      exec (.joinAck d src share) s = .next (settle (s.statePush src d own share)) ∧
      (d < s.dies.length → Effect (.statePush d src true) s (fun t =>
        (t.die d).state = .running ∧ Assoc.get? t.baton.joins d = none ∧ Assoc.get? t.baton.reachable d = some ())) ∧
      exec (.statePush d src false) s = .next (settle ((s.faultAct d 611).raiseClass d 0x0F))) := by
  intro s d canonical clean
  refine ⟨fun other present kept => ?reset, fun x => ⟨rfl, rfl, rfl, rfl⟩, fun resets => ⟨congrArg ret (if_pos resets), fun powered => ?join⟩,
    fun src share own joins holder outstanding => ⟨congrArg ret (opJoinAck_push joins holder outstanding share), fun present => ?push,
      congrArg ret (opStatePush_badTag clean joins holder)⟩⟩
  case reset =>
    have due := dieResetDue_of clean other present kept
    exact ⟨fun lost => congrArg ret (opDieResetEntry_lost (due (.inl lost)) lost), fun serves ordered idle => congrArg ret (opDieResetEntry_ordered (due (.inr ordered)) serves idle),
      fun serves ordered burns => congrArg ret (opDieResetEntry_burning (due (.inr ordered)) serves burns)⟩
  case join =>
    exact ⟨fun code share => congrArg ret (opJoinFrame_failed resets clean powered rfl), fun code share other => congrArg ret (opJoinFrame_otherCode resets clean powered rfl other),
      fun share present patched => ⟨_, rfl, opJoinFrame_good resets clean powered rfl rfl present patched⟩⟩
  case push =>
    refine ⟨_, congrArg ret (opStatePush_readmits clean joins holder outstanding), State.readmit_state present, ?_⟩
    rw [State.readmit_baton]
    exact ⟨Assoc.get?_erase_self canonical d, (Assoc.get?_set ..).trans (if_pos rfl)⟩

/-! ### A table that is not canonical -/

theorem settle_baton (s : State) : (settle s).baton = s.baton :=
  (OutputsOnly.settled s).baton.trans (settleGates_settleLink_field s State.baton (fun _ _ _ => rfl))

/-- A package of two dies after a clean election, in which die 1 rejoins: the table of the JOINs outstanding has two entries for it. -/
def doubledJoin : State :=
  { (State.resetOf .vq8200).modDie 1 (fun x => { x with state := .joining }) with
    baton := { Baton.reset with result := .clean, holder := some 0, joins := [(1, []), (1, [])] } }

/-- STATE_PUSH takes one of them away. -/
theorem doubledJoin_readmit : Assoc.get? (doubledJoin.readmit 1).baton.joins 1 = some [] := by
  rw [State.readmit_baton]
  rfl

/-- Refutes O39: its states need not be canonical, and of a die that stands twice in the table of the JOINs outstanding, STATE_PUSH erases one entry, where the statement has none
left. In a canonical table all of it holds (`dieReadmission_of_canonical`). -/
theorem not_dieReadmission : ¬ Obligations.DieReadmission := by
  unfold Obligations.DieReadmission
  intro h
  obtain ⟨-, -, -, rejoins⟩ := h doubledJoin 1 rfl
  obtain ⟨-, push, -⟩ := rejoins 0 [] [] rfl rfl rfl
  obtain ⟨t, command, -, gone, -⟩ := push (by decide)
  have readmits : exec (.statePush 1 0 true) doubledJoin = ret (doubledJoin.readmit 1) := congrArg ret (opStatePush_readmits (own := []) rfl rfl rfl rfl)
  have same : t.baton = (doubledJoin.readmit 1).baton := by
    rw [← settle_baton t, Host.Outcome.next.inj (command.symm.trans readmits), settle_baton]
  rw [same, doubledJoin_readmit] at gone
  cases gone

end Sys2Proof.Machine

/-! PROOF. The applet session of a card, and the quorum. -/

namespace Sys2Proof.Machine

/-! ### A response that the port waits for (R400) -/

/-- The package once such a response has come: the APDU is counted, the port waits no more and BWT is back at its value. -/
def State.cardHeard (s : State) (p : Nat) : State :=
  (s.count 0 CIU p 0x10C).modCard p (fun c => { c with wait := .none, link := { c.link with bwtMult := 1 } })

section
variable {s : State} {p : Nat} {w : CardWait} {r : CardResp} (live : s.cardLive p = true) (waits : (s.cardPort p).wait = w)
include live waits

/-- A bad status word refuses the card, whatever the command. -/
theorem State.cardStep_badStatus (bad : r.sw ≠ 0x9000) (go : State → State) : s.cardStep p w r go = (s.cardHeard p).refuseCard p (swReason r.sw) :=
  (if_pos ⟨live, waits⟩).trans (if_neg bad)

theorem State.cardStep_accepted (good : r.sw = 0x9000) (go : State → State) : s.cardStep p w r go = go (s.cardHeard p) :=
  (if_pos ⟨live, waits⟩).trans (if_pos good)

end

/-! ### GET_INFO (R401 check 1) -/

/-- The port has taken the card's identity, index and public key from its answer to GET_INFO. -/
def State.cardNamed (s : State) (p : Nat) (data : List Byte) : State :=
  s.modCard p (fun c => { c with session := { c.session with cardId := data.take 16, index := (data.getD 18 0).toNat, pubKey := data.drop 19 } })

/-- AUTHENTICATE goes out with a challenge and an encapsulation key. -/
def State.cardChallenged (s : State) (p : Nat) (ch ek dk : List Byte) : State :=
  (s.drawn.drawn.modCard p (fun c => { c with session := { c.session with challenge := ch, ek := ek, dk := dk } })).sendApdu p .auth 0x20 (ch ++ ek)

section
variable {s : State} {p : Nat} {r : CardResp} {ro : Roster} (live : s.cardLive p = true) (good : r.sw = 0x9000)
  (waits : (s.cardPort p).wait = .info) (whole : r.data.length = 1331) (roster : s.cards.roster = some ro)
include live good waits whole roster

theorem opGetInfo_unlisted (other : ro.matching (r.data.take 16) (r.data.drop 19) (r.data.getD 18 0).toNat = false) :
    opGetInfo p r s = ((s.cardHeard p).cardNamed p r.data).refuseCard p 6 := by
  have inForce : ((s.cardHeard p).cardNamed p r.data).cards.roster = some ro := roster
  rw [State.cardNamed] at inForce ⊢
  refine (State.cardStep_accepted live waits good _).trans ?_
  simp only [whole, inForce, other, ne_eq, not_true_eq_false, Bool.not_false, if_false, if_true]

theorem opGetInfo_listed {u : State} (named : (s.cardHeard p).cardNamed p r.data = u)
    (listed : ro.matching (r.data.take 16) (r.data.drop 19) (r.data.getD 18 0).toNat = true) :
    opGetInfo p r s = u.cardChallenged p (u.rand 32) (fit 1184 (kemPub 2 (u.drawn.rand 64))) (u.drawn.rand 64) := by
  have inForce : ((s.cardHeard p).cardNamed p r.data).cards.roster = some ro := roster
  subst named
  rw [State.cardNamed] at inForce ⊢
  refine (State.cardStep_accepted live waits good _).trans ?_
  simp only [whole, inForce, listed, ne_eq, not_true_eq_false, Bool.not_true, Bool.false_eq_true, if_false]
  rfl

end

/-! ### AUTHENTICATE (R401 check 2) -/

/-- The card's answer to AUTHENTICATE, a ciphertext and a signature, is signed over the challenge, the encapsulation key and the ciphertext. -/
def CardSession.signs (x : CardSession) (data : List Byte) : Bool :=
  sigVerify 1 x.pubKey (ascii "VQ-CUST") 0 (x.challenge ++ x.ek ++ data.take 1088) (data.drop 1088)

/-- GET_SHARE goes out with a nonce, under a session key. -/
def State.shareAsked (s : State) (p : Nat) (sk nonce : List Byte) : State :=
  (s.drawn.modCard p (fun c => { c with session := { c.session with sk := sk, nonce := nonce, dk := [] } })).sendApdu p .share 0x30 nonce

section
variable {s t : State} {p : Nat} {r : CardResp} (live : s.cardLive p = true) (good : r.sw = 0x9000) (heard : s.cardHeard p = t)
  (waits : (s.cardPort p).wait = .auth) (whole : r.data.length = 3508)
include live good heard waits whole

theorem opAuthenticate_unsigned (forged : (t.cardPort p).session.signs r.data = false) :
    opAuthenticate p r s = (t.faultAct 0 (672 + 4 * p + 3)).refuseCard p 7 := by
  subst heard
  rw [CardSession.signs] at forged
  refine (State.cardStep_accepted live waits good _).trans ?_
  simp only [whole, forged, ne_eq, not_true_eq_false, Bool.not_false, if_false, if_true]

theorem opAuthenticate_signed (signed : (t.cardPort p).session.signs r.data = true) :
    opAuthenticate p r s = t.shareAsked p ((kdf (fit 32 (kemDecap 2 (t.cardPort p).session.dk [] (r.data.take 1088))) "VQ-CUSTSK"
      (t.cardPort p).session.challenge).take 32) (t.rand 12) := by
  subst heard
  rw [CardSession.signs] at signed
  refine (State.cardStep_accepted live waits good _).trans ?_
  simp only [whole, signed, ne_eq, not_true_eq_false, Bool.not_true, Bool.false_eq_true, if_false]
  rfl

end

/-! ### GET_SHARE (R401 checks 3 and 4) -/

/-- The plaintext of the card's answer to GET_SHARE under the session key. -/
def CardSession.opens (x : CardSession) (data : List Byte) : Option (List Byte) := gcmOpen x.sk x.nonce x.cardId (data.take 33) (data.drop 33)

/-- The port holds the share: its card is authenticated, logged, and its session is to end. -/
def State.shareTaken (s : State) (p : Nat) (x : CardSession) (pt : List Byte) : State :=
  ((((s.modCard p (fun c => { c with
    state := .authenticated, session := { c.session with share := some (x.index, slice pt 1 32), sk := [], challenge := [], ek := [] } })).event 0 CIU p 2).offer
      { Offer.of 6 0 0x5001 (fieldLe x.cardId 0 4) with rid := BitVec.ofNat 16 p }).sendApdu p .endSession 0x40 [])

section
variable {s t : State} {p : Nat} {r : CardResp} {x : CardSession} (live : s.cardLive p = true) (good : r.sw = 0x9000) (heard : s.cardHeard p = t)
  (session : (t.cardPort p).session = x) (waits : (s.cardPort p).wait = .share) (whole : r.data.length = 49)
include live good heard session waits whole

theorem opGetShare_unopened (closed : x.opens r.data = none) : opGetShare p r s = (t.faultAct 0 (672 + 4 * p + 3)).refuseCard p 8 := by
  subst heard session
  rw [CardSession.opens] at closed
  refine (State.cardStep_accepted live waits good _).trans ?_
  simp only [whole, closed, if_true]

variable {pt : List Byte} (opened : x.opens r.data = some pt) (index : (pt.getD 0 0).toNat = x.index)
include opened index

theorem opGetShare_duplicate (twice : t.duplicate p x = true) : opGetShare p r s = t.refuseCard p 9 := by
  subst heard session
  rw [CardSession.opens] at opened
  refine (State.cardStep_accepted live waits good _).trans ?_
  simp only [whole, opened, index, twice, ne_eq, not_true_eq_false, if_false, if_true]

theorem opGetShare_authenticates (once : t.duplicate p x = false) : opGetShare p r s = (t.shareTaken p x pt).tryQuorum := by
  subst heard session
  rw [CardSession.opens] at opened
  refine (State.cardStep_accepted live waits good _).trans ?_
  simp only [whole, opened, index, once, ne_eq, not_true_eq_false, Bool.false_eq_true, if_false, if_true]
  rfl

end

/-! ### The quorum (R403) -/

theorem State.quorumEvents_lcc (s : State) (b : Nat) : (s.quorumEvents b).lcc = s.lcc := by
  rw [State.quorumEvents, State.event_lcc]
  exact List.foldlRecOn (motive := fun t : State => t.lcc = s.lcc) (List.range 4) _ rfl (fun t same p _ => (t.event_lcc 0 CIU p b).trans same)

theorem State.offer_lcc (s : State) (o : Offer) : (s.offer o).lcc = s.lcc := (congrArg State.lcc (s.offer_keeps o) :)

section
variable {s : State} {ro : Roster} (roster : s.cards.roster = some ro) (absent : s.cards.quorum.present = false) (enough : ro.m ≤ s.shares.length)
include roster absent enough

/-- The quorum forms from the first M cards; no provisioning waits for it. -/
theorem State.tryQuorum_forms (alone : s.lcc.xfer = none) (check : (kdf (shamir ((s.shares.take ro.m).map Prod.snd)) "VQ-QTKCHK" []).take 16 = ro.check) :
    s.tryQuorum = (State.quorumEvents { s with cards := { s.cards with quorum :=
      ⟨true, shamir ((s.shares.take ro.m).map Prod.snd), (s.shares.take ro.m).map Prod.fst, 300⟩ } } 4).offer (Offer.of 6 0 0x5003 0) := by
  have short : ¬ s.shares.length < ro.m := Nat.not_lt.mpr enough
  simp only [State.tryQuorum, roster, absent, short, check, Bool.false_eq_true, or_self, if_false, if_true, State.offer_lcc, State.quorumEvents_lcc, alone]

/-- Shares that do not make the check value are discarded. -/
theorem State.tryQuorum_mismatch (check : (kdf (shamir ((s.shares.take ro.m).map Prod.snd)) "VQ-QTKCHK" []).take 16 ≠ ro.check) :
    s.tryQuorum = (s.shares.map Prod.fst).foldl (fun t p => t.refuseCard p 0x0A) s := by
  have short : ¬ s.shares.length < ro.m := Nat.not_lt.mpr enough
  simp only [State.tryQuorum, roster, absent, short, check, Bool.false_eq_true, or_self, if_false]

end

/-- Settles O50: each response of the session in turn, then the quorum's ends and its forming. -/
theorem cardSessions : Obligations.CardSessions := by
  unfold Obligations.CardSessions
  intro s p r live c t x
  have heard : s.cardHeard p = t := rfl
  refine ⟨fun bad k waits => ?refused, fun good => ⟨fun waits => ?select, fun waits => ?ended, fun waits whole ro roster => ?info, fun waits whole => ?auth,
    fun waits whole => ?share⟩, fun present => ?idle, fun x ordered waiting => ?provision, fun ro roster absent enough alone => ⟨?forms, ?mismatch⟩⟩
  case refused =>
    subst waits
    have refuses {w : CardWait} (waits : c.wait = w) (go : State → State) := congrArg ret (State.cardStep_badStatus live waits bad go)
    exact ⟨fun waits => refuses waits _, fun waits => refuses waits _, fun waits => refuses waits _, fun waits => refuses waits _, fun waits => refuses waits _⟩
  case select => exact congrArg ret (State.cardStep_accepted live waits good _)
  case ended => exact congrArg ret (State.cardStep_accepted live waits good _)
  case info =>
    intro id idx key u
    exact ⟨fun other => congrArg ret (opGetInfo_unlisted live good waits whole roster other),
      fun listed => ⟨_, _, _, u.rand_length 32, fit_length .., u.drawn.rand_length 64, congrArg ret (opGetInfo_listed live good waits whole roster rfl listed)⟩⟩
  case auth =>
    exact ⟨fun forged => congrArg ret (opAuthenticate_unsigned live good heard waits whole forged),
      fun signed => ⟨_, _, t.rand_length 12, rfl, congrArg ret (opAuthenticate_signed live good heard waits whole signed)⟩⟩
  case share =>
    exact ⟨fun closed => congrArg ret (opGetShare_unopened live good heard rfl waits whole closed), fun pt opened index =>
      ⟨fun twice => congrArg ret (opGetShare_duplicate live good heard rfl waits whole opened index twice),
        fun once => congrArg ret (opGetShare_authenticates live good heard rfl waits whole opened index once)⟩⟩
  case idle => exact congrArg ret (if_pos present)
  case provision =>
    refine congrArg ret ?_
    simp only [opProvisionQuorumTimeout, ordered, waiting, if_true]
  case forms => exact State.tryQuorum_forms roster absent enough alone
  case mismatch => exact State.tryQuorum_mismatch roster absent enough

end Sys2Proof.Machine

/-! PROOF. The backup card: its identification, its transfers, and the calls of its jobs. -/

namespace Sys2Proof.Machine

/-! ### Insertion (R405, R406, R414) -/

/-- The package once the card of an empty port is powered. -/
def State.bkPowered (s : State) : State := (s.event 0 BMP 0 0).send (.cardPower 4 1)

/-- The modes that the port may try with a card, highest first. -/
def State.bkTries (s : State) (c : BkIdent) : List Nat :=
  (List.range (min 4 (bits (s.reg 0 BMP 0 0x120) 0 3) + 1)).reverse.filter (fun m => decide (m < 2) || c.s18a)

/-- The package once a card of an empty port is identified. -/
def State.bkIdentified (s : State) (c : BkIdent) : State :=
  State.event (s.bkPowered.modBmp (fun b => { b with
    state := .ready, detLow := true, present := true, mode := reachMode (s.bkTries c) (0 :: c.modes), wide := c.wide && !bit (s.reg 0 BMP 0 0x120) 3, s18 := c.s18a,
    capacity := c.capacity, blocks := c.blocks, volState := volumeState c.header, volId := if volumeState c.header = 0 then [] else slice c.header 8 16,
    volRecords := if volumeState c.header = 0 then 0 else fieldLe c.header 40 4, clkStopped := false, retries := 0 })) 0 BMP 0 2

theorem State.bkIdentified_op (s : State) (c : BkIdent) : (s.bkIdentified c).bmp.op = s.bmp.op := rfl

section
variable {s : State} {c : BkIdent} (running : (s.die 0).state = .running) (empty : s.bmp.state = .empty)
include running empty

theorem opBackupCardInserted_unidentified (bad : c.accepted = false) :
    opBackupCardInserted c s = (s.bkPowered.modBmp (fun b => { b with detLow := true, present := true, state := .error })).event 0 BMP 0 3 := by
  simp only [opBackupCardInserted, running, empty, bad, ne_eq, not_true_eq_false, false_and, Bool.not_false, if_false, if_true]
  rfl

variable (accepted : c.accepted = true)
include accepted

theorem opBackupCardInserted_idle (idle : s.bmp.op = none) : opBackupCardInserted c s = s.bkIdentified c := by
  have noOp := (s.bkIdentified_op c).trans idle
  rw [State.bkIdentified, State.bkTries, State.bkPowered] at noOp ⊢
  simp only [opBackupCardInserted, running, empty, accepted, noOp, ne_eq, not_true_eq_false, false_and, Bool.not_true, Bool.false_eq_true, if_false, if_true]

/-- Another volume ends the job that waits for its own. -/
theorem opBackupCardInserted_otherVolume {o : BkJob} (op : s.bmp.op = some o) (waiting : o.waiting = true) (other : o.sameVolume c.header = false) :
    opBackupCardInserted c s = (s.bkIdentified c).endBackup stShort o.bytesLeft := by
  have same := (s.bkIdentified_op c).trans op
  rw [State.bkIdentified, State.bkTries, State.bkPowered] at same ⊢
  simp only [opBackupCardInserted, running, empty, accepted, same, waiting, other, ne_eq, not_true_eq_false, false_and, Bool.not_true, Bool.false_eq_true, if_false, if_true]

end

/-! ### Transfers (R407, R411) -/

theorem State.modBk_modBk (s : State) (f g : BkJob → BkJob) : (s.modBk f).modBk g = s.modBk (fun o => g (f o)) := by
  simp only [State.modBk, State.modBmp, Option.map_map]
  rfl

section
variable {s : State} {o : BkJob} (op : s.bmp.op = some o)
include op

theorem opReinsertTimeout_waiting (waiting : o.waiting = true) : opReinsertTimeout s = s.endBackup stShort o.bytesLeft := by
  simp only [opReinsertTimeout, op, waiting, if_true]

variable (present : o.waiting = false) (job : (s.job? o.die o.job).isSome = true)
include present job

/-- What arrives for a job that reads: its data, or a CRC error. -/
theorem opBlockRead_transfer (transfer : s.bmp.state = .transfer) :
    (∀ data, opBlockRead (.good data) s = (s.modBmp (fun b => { b with state := .ready })).modBk (fun o => { o with
      record := o.record ++ fit (512 * o.block) data, checking := true })) ∧
    opBlockRead .crcError s = ((s.faultAct 0 689).count 0 BMP 0 0x114).bkRetry := by
  have here : (s.job? o.die o.job).isNone = false := Option.isNone_eq_false_iff.mpr job
  simp only [opBlockRead, op, present, transfer, here, ne_eq, not_true_eq_false, Bool.false_eq_true, or_self, if_false, implies_true, and_self]

/-- A write whose busy ends is confirmed, or tried again. -/
theorem opBusyEnd_busy (busy : s.bmp.state = .busy) (ok : Bool) :
    opBusyEnd ok s = if ok then (s.modBmp (fun b => { b with state := .ready })).exportConfirmed o else s.bkRetry := by
  have here : (s.job? o.die o.job).isNone = false := Option.isNone_eq_false_iff.mpr job
  simp only [opBusyEnd, op, present, busy, here, ne_eq, not_true_eq_false, Bool.false_eq_true, or_self, if_false]

end

/-- The record of a key is confirmed: it is counted and chained, and its key leaves the job. -/
theorem State.exportConfirmed_record (s : State) {o : BkJob} (first : 1 ≤ o.step) (last : o.step ≤ o.items.length) :
    s.exportConfirmed o = ((((s.modBk (fun o => { o with
      checking := true, step := o.step + 1, done := o.done + 1, chain := sha384 (o.chain ++ o.record) })).dropKeys o.die o.job).custodial).jobStep o.die o.job
        (o.step + 1) (o.items.length + 1)) := by
  have begun : o.step ≠ 0 := Nat.one_le_iff_ne_zero.mp first
  simp only [State.exportConfirmed, begun, last, if_false, if_true, State.modBk_modBk]

theorem opSdTimeout_busy {s : State} (busy : s.bmp.state = .transfer ∨ s.bmp.state = .busy) :
    opSdTimeout .cmdCrc s = ((s.faultAct 0 688).count 0 BMP 0 0x110).bkRetry ∧ opSdTimeout .response s = ((s.faultAct 0 690).count 0 BMP 0 0x110).bkError ∧
    opSdTimeout .data s = (s.faultAct 0 690).bkError ∧ opSdTimeout .busy s = ((s.faultAct 0 690).count 0 BMP 0 0x118).bkError := by
  have transfers : ¬ (!s.bkBusy) = true := by simpa [State.bkBusy, imp_iff_not_or] using busy
  exact ⟨if_neg transfers, if_neg transfers, if_neg transfers, if_neg transfers⟩

/-! ### BACKUP_EXPORT (R411) -/

section
variable {s : State} {j : JobRef} {x : Job} (h : OpRuns s j 0x600A x)
include h

theorem opBackupExport_begins (idle : s.bkOp = none) : opBackupExport j s = s.exportBegin j.die j.job x := by
  refine (h.onOp _).trans ?_
  simp only [idle]

/-- A later call takes the job's operation on from its step. -/
theorem opBackupExport_goesOn {o : BkJob} (op : s.bkOp = some o) (die : o.die = j.die) (job : o.job = j.job) (present : o.waiting = false)
    (checking : o.checking = true) (commits : CommitOpen s x) :
    opBackupExport j s = if o.step = 0 then s.exportOpen o else if o.step ≤ o.items.length then s.exportStep j.die j.job x o else s.exportClose o := by
  refine (h.onOp _).trans ?_
  simp only [op, die, job, present, checking, commits.commitFail, ne_eq, not_true_eq_false, Bool.not_true, Bool.false_eq_true, or_self, if_false]

end

section
variable (s : State) (d j : Nat) {x : Job}

theorem State.exportBegin_misencoded {o : Nat} (bad : selectionFail x.data.inData 0 4 = some o) :
    s.exportBegin d j x = s.opFail d j stEncoding o (s.opPs x 4000000000) := by simp only [State.exportBegin, bad]

theorem State.exportBegin_selects (good : selectionFail x.data.inData 0 4 = none) {hs : List (Nat × Nat)}
    (handles : (List.range (fieldLe x.data.inData 0 2)).map (fun i => (i, fieldLe x.data.inData (4 + 4 * i) 4)) = hs) :
    s.exportBegin d j x = (s.bkStart d j true hs 0).wantMore d j
      ((hs.filter (fun (p : Nat × Nat) => bkScope x.src.mgr (hScope (BitVec.ofNat 32 p.2)))).map (fun (p : Nat × Nat) => s.mkWant x .size (BitVec.ofNat 32 p.2))) := by
  simp only [State.exportBegin, good, handles]

end

/-- A card with room for the volume takes an OPEN header under a fresh volume number. -/
theorem State.exportOpen_writes {s : State} {o : BkJob} (ready : s.bmp.state = .ready) (room : 1 + o.blocks ≤ s.bmp.blocks) :
    s.exportOpen o = State.bkWrite ((s.drawn.modBmp (fun b => { b with volState := 1, volId := s.rand 16, volRecords := 0 })).modBk (fun o => { o with
      volumeId := s.rand 16, created := s.bbd.rtc.toNat, chain := chainStart (s.rand 16) (leBytes 8 (s.die 0).fuses.uid.toNat) s.bbd.rtc.toNat })) 0
      (volumeHeader s.cards.quorum.qtk 1 (s.rand 16) (leBytes 8 (s.die 0).fuses.uid.toNat) s.bbd.rtc.toNat 0 o.blocks [] s.bbram.roster) := by
  have fits : ¬ s.bmp.blocks < 1 + o.blocks := Nat.not_lt.mpr room
  simp only [State.exportOpen, ready, fits, if_true, if_false]

/-! ### BACKUP_IMPORT (R412, R413) -/

section
variable {s : State} {j : JobRef} {x : Job} (h : OpRuns s j 0x600B x)
include h

theorem opBackupImport_begins (idle : s.bkOp = none) : opBackupImport j s = s.importBegin j.die j.job x := by
  refine (h.onOp _).trans ?_
  simp only [idle]

/-- A later call takes up the record that has been read, once the header has been. -/
theorem opBackupImport_reads {o : BkJob} (op : s.bkOp = some o) (die : o.die = j.die) (job : o.job = j.job) (present : o.waiting = false)
    (checking : o.checking = true) (commits : CommitOpen s x) (read : o.record ≠ []) (begun : 0 < o.step) :
    opBackupImport j s = s.importRecord j.die j.job x o := by
  have header : o.step ≠ 0 := Nat.ne_zero_of_lt begun
  refine (h.onOp _).trans ?_
  simp only [op, die, job, present, checking, commits.commitFail, read, header, ne_eq, not_true_eq_false, Bool.not_true, Bool.false_eq_true, or_self, if_false]

end

section
variable (s : State) (d j : Nat) {x : Job}

theorem State.importBegin_misencoded {o : Nat} (bad : selectionFail x.data.inData 4 8 = some o) :
    s.importBegin d j x = s.opFail d j stEncoding o (s.opPs x 4000000000) := by simp only [State.importBegin, bad]

theorem State.importBegin_outOfScope (good : selectionFail x.data.inData 4 8 = none)
    (scope : bkScope x.src.mgr (hScope (BitVec.ofNat 32 (fieldLe x.data.inData 0 4))) = false) :
    s.importBegin d j x = s.opFail d j stKeyScope 0 (s.opPs x 4000000000) := by
  simp only [State.importBegin, good, scope, Bool.not_false, if_true]

end

/-- The key that authenticates the records of an operation's volume opens its record: the plaintext. -/
def State.bkOpened (s : State) (o : BkJob) : Option (List Byte) :=
  openRecord (volumeKey s.cards.quorum.qtk o.volumeId) o.volumeId (o.record.take (recordLen o.record))

/-- The chain value after an operation's record. -/
def BkJob.nextChain (o : BkJob) : List Byte := sha384 (o.chain ++ o.record.take (recordLen o.record))

/-- A whole record of the volume has been read, the next in order and within the volume. -/
structure BkJob.RecordRead (o : BkJob) : Prop where
  magic : o.record.take 4 = [0x56, 0x51, 0x52, 0x43]
  number : fieldLe o.record 4 4 = o.done
  inside : o.lba + sdBlocks (recordLen o.record) ≤ o.blocks + 1
  whole : sdBlocks (recordLen o.record) ≤ o.record.length / 512

section
variable {s : State} {o : BkJob} (read : o.RecordRead) (d j : Nat) (x : Job)
include read

theorem State.importRecord_unopened (closed : s.bkOpened o = none) : s.importRecord d j x o = s.endBackup stKeyAuth 0 := by
  obtain ⟨magic, number, inside, whole⟩ := read
  rw [State.bkOpened] at closed
  simp only [State.importRecord, magic, number, closed, ne_eq, not_true_eq_false, Nat.not_lt.mpr inside, Nat.not_lt.mpr whole, or_self, if_false]

/-- A record that no pair selects is passed over: the next is read, or after the last the chain is compared. -/
theorem State.importRecord_unselected {plain : List Byte} (opened : s.bkOpened o = some plain) (others : ∀ p ∈ o.items, p.1 ≠ o.done) :
    s.importRecord d j x o =
      if o.done + 1 < o.records then
        (s.modBk (fun y => { y with done := y.done + 1, chain := o.nextChain })).bkRead (o.lba + sdBlocks (recordLen o.record)) 1 []
      else if o.nextChain = slice o.header 48 48 then s.custodial.endBackup stOk 0
      else s.endBackup stKeyAuth 0 := by
  obtain ⟨magic, number, inside, whole⟩ := read
  have unselected : o.items.find? (fun p => decide (p.1 = o.done)) = none :=
    List.find?_eq_none.mpr (fun p mem selected => others p mem (of_decide_eq_true selected))
  rw [State.bkOpened] at opened
  simp only [State.importRecord, magic, number, opened, unselected, ne_eq, not_true_eq_false, Nat.not_lt.mpr inside, Nat.not_lt.mpr whole, or_self, if_false]
  rfl

end

/-- Settles O57: the port's inputs by the state they find it in, then the first call of each job and the later ones. -/
theorem backupVolumes : Obligations.BackupVolumes := by
  unfold Obligations.BackupVolumes
  intro s
  refine ⟨fun held c => congrArg ret (if_pos held), fun c running empty => ?inserted, fun present => congrArg ret (if_pos present),
    fun ready => congrArg ret (if_pos ready), fun o op => ⟨fun waiting => congrArg ret (opReinsertTimeout_waiting op waiting), fun present job => ?transfers⟩,
    fun busy => ?limits, fun spent => if_pos spent, fun left => if_neg (Nat.not_le.mpr left), fun j x => ?jobs⟩
  case inserted =>
    exact ⟨fun bad => congrArg ret (opBackupCardInserted_unidentified running empty bad), fun accepted =>
      ⟨fun idle => congrArg ret (opBackupCardInserted_idle running empty accepted idle),
        fun o op waiting other => congrArg ret (opBackupCardInserted_otherVolume running empty accepted op waiting other)⟩⟩
  case transfers =>
    refine ⟨fun transfer => ?reads, fun busy => ⟨congrArg ret (opBusyEnd_busy op present job busy false), congrArg ret (opBusyEnd_busy op present job busy true),
      fun first last => State.exportConfirmed_record _ first last⟩⟩
    obtain ⟨good, crc⟩ := opBlockRead_transfer op present job transfer
    exact ⟨fun data => congrArg ret (good data), congrArg ret crc⟩
  case limits =>
    obtain ⟨crc, response, data, held⟩ := opSdTimeout_busy busy
    exact ⟨congrArg ret crc, congrArg ret response, congrArg ret data, congrArg ret held⟩
  case jobs =>
    intro input fails
    refine ⟨?exports, ?imports, ?later⟩
    case exports =>
      intro h idle
      have begins := opBackupExport_begins h idle
      exact ⟨fun o bad => congrArg ret (begins.trans (s.exportBegin_misencoded _ _ bad)), fun good => congrArg ret (begins.trans (s.exportBegin_selects _ _ good rfl))⟩
    case imports =>
      intro h idle
      have begins := opBackupImport_begins h idle
      exact ⟨fun o bad => congrArg ret (begins.trans (s.importBegin_misencoded _ _ bad)),
        fun good scope => congrArg ret (begins.trans (s.importBegin_outOfScope _ _ good scope))⟩
    case later =>
      intro o op die job present checking commits
      refine ⟨fun h first ready room => ⟨s.rand 16, s.rand_length 16, congrArg ret ?opens⟩, fun h last => congrArg ret ?closes, fun h read begun => ?records⟩
      case opens => exact ((opBackupExport_goesOn h op die job present checking commits).trans (if_pos first)).trans (State.exportOpen_writes ready room)
      case closes =>
        exact (opBackupExport_goesOn h op die job present checking commits).trans
          ((if_neg (Nat.ne_zero_of_lt last)).trans (if_neg (Nat.not_le.mpr last)))
      case records =>
        have reads := opBackupImport_reads h op die job present checking commits read begun
        refine ⟨fun magic number inside whole closed => congrArg ret (reads.trans (State.importRecord_unopened ⟨magic, number, inside, whole⟩ _ _ _ closed)),
          fun plain magic number inside whole opened others => ?passes⟩
        have passes := reads.trans (State.importRecord_unselected ⟨magic, number, inside, whole⟩ _ _ _ opened others)
        exact ⟨fun more => congrArg ret (passes.trans (if_pos more)),
          fun last same => congrArg ret (passes.trans ((if_neg (Nat.not_lt.mpr last)).trans (if_pos same))),
          fun last other => congrArg ret (passes.trans ((if_neg (Nat.not_lt.mpr last)).trans (if_neg other)))⟩

end Sys2Proof.Machine

/-! SUPPORT. What the ends of jobs and an INST reset leave of the package: all but its dies, its instances, its interrupts, the log and what is sent. -/

namespace Sys2Proof.Machine

/-- The package without its dies, its instances, its interrupts, the log and what is sent. -/
def State.sansWork (s : State) : State := { s with dies := [], insts := [], msix := Msix.reset, evr := Evr.reset, alg := Alg.reset, tx := [] }

theorem State.bbd_of_sansWork {s t : State} (h : t.sansWork = s.sansWork) : t.bbd = s.bbd := congrArg (fun u => u.bbd) h

theorem State.pkg_of_sansWork {s t : State} (h : t.sansWork = s.sansWork) : t.pkg = s.pkg := congrArg (fun u => u.pkg) h

section
variable (s : State)

/-! ### Elementary changes -/

@[simp] theorem State.modDie_sansWork (d : Nat) (f : Die → Die) : (s.modDie d f).sansWork = s.sansWork := rfl
@[simp] theorem State.allDies_sansWork (f : Die → Die) : (s.allDies f).sansWork = s.sansWork := rfl
@[simp] theorem State.count_sansWork (d b i o n : Nat) : (s.count d b i o n).sansWork = s.sansWork := rfl
@[simp] theorem State.event_sansWork (d b i k : Nat) : (s.event d b i k).sansWork = s.sansWork := rfl
@[simp] theorem State.send_sansWork (x : Tx) : (s.send x).sansWork = s.sansWork := rfl
@[simp] theorem State.modInst_sansWork (n : Nat) (f : Inst → Inst) : (s.modInst n f).sansWork = s.sansWork := rfl
@[simp] theorem State.modCtx_sansWork (d q : Nat) (f : QCtx → QCtx) : (s.modCtx d q f).sansWork = s.sansWork := rfl
@[simp] theorem State.modAux_sansWork (d q : Nat) (f : QAux → QAux) : (s.modAux d q f).sansWork = s.sansWork := rfl
@[simp] theorem State.modJob_sansWork (d j : Nat) (f : Job → Job) : (s.modJob d j f).sansWork = s.sansWork := rfl
@[simp] theorem State.setChan_sansWork (d ch : Nat) (c : Channel) : (s.setChan d ch c).sansWork = s.sansWork := rfl

@[simp] theorem State.countBytes_sansWork (d : Nat) (w : Bool) (n : Nat) : (s.countBytes d w n).sansWork = s.sansWork := by
  simp only [State.countBytes, apply_ite State.sansWork, State.count_sansWork, State.modDie_sansWork, ite_self]

@[simp] theorem State.offer_sansWork (o : Offer) : (s.offer o).sansWork = s.sansWork := by
  unfold State.offer
  split <;> rfl

@[simp] theorem State.offerJob_sansWork (d j : Nat) (status : W16) : (s.offerJob d j status).sansWork = s.sansWork := by
  unfold State.offerJob
  split
  · rfl
  · exact s.offer_sansWork _

/-! ### Events -/

@[simp] theorem State.signal_sansWork (v : Nat) : (s.signal v).sansWork = s.sansWork := by
  unfold State.signal
  split <;> rfl

@[simp] theorem State.portalEvent_sansWork (n b : Nat) : (s.portalEvent n b).sansWork = s.sansWork := by
  have sent (t : State) (e : IitEntry) : (t.iitSend e).sansWork = t.sansWork := by
    simp only [State.iitSend, apply_ite State.sansWork, State.count_sansWork, State.send_sansWork, State.signal_sansWork, ite_self]
  have delivered (t : State) (i : Nat) : (t.iitEvent i).sansWork = t.sansWork := by
    unfold State.iitEvent
    dsimp only
    split
    · rfl
    · exact sent ..
  simp only [State.portalEvent, apply_ite State.sansWork, delivered, State.modInst_sansWork, ite_self]

@[simp] theorem State.queueEvent_sansWork (d q : Nat) : (s.queueEvent d q).sansWork = s.sansWork := by
  have manager (t : State) : (t.mqEvent d q).sansWork = t.sansWork := by
    unfold State.mqEvent
    dsimp only
    split
    · exact State.signal_sansWork ..
    · rfl
  simp only [State.queueEvent, apply_ite State.sansWork, State.portalEvent_sansWork, manager, State.modAux_sansWork, ite_self]

/-! ### Completions -/

@[simp] theorem State.writeEntry_sansWork (d q : Nat) (h : Held) (n : Nat) : (s.writeEntry d q h n).sansWork = s.sansWork := by
  simp only [State.writeEntry, apply_ite State.sansWork, State.modInst_sansWork, State.modCtx_sansWork, State.send_sansWork, ite_self]

@[simp] theorem State.afterEntries_sansWork (d q : Nat) (hs : List Held) : (s.afterEntries d q hs).sansWork = s.sansWork := by
  have counts (t : State) : (t.countIrq d q).sansWork = t.sansWork := by
    simp only [State.countIrq, apply_ite State.sansWork, State.queueEvent_sansWork, State.modAux_sansWork, ite_self]
  have shadow : (s.writeShadow d q).sansWork = s.sansWork := by
    simp only [State.writeShadow, apply_ite State.sansWork, State.send_sansWork, ite_self]
  refine (foldl_keeps State.sansWork _ (fun t h => ?_) hs _).trans shadow
  simp only [apply_ite State.sansWork, counts, ite_self]

@[simp] theorem State.complete_sansWork (d q : Nat) (h : Held) : (s.complete d q h).sansWork = s.sansWork := by
  simp only [State.complete, State.writeCqe, apply_ite State.sansWork, State.afterEntries_sansWork, State.writeEntry_sansWork, State.modCtx_sansWork, ite_self]

theorem releaseHeld_sansWork (n d q : Nat) (s : State) : (releaseHeld n d q s).1.sansWork = s.sansWork := by
  induction n generalizing s with
  | zero => rfl
  | succ n ih =>
    unfold releaseHeld
    dsimp only
    split
    · rfl
    · rw [ih, State.writeEntry_sansWork, State.modCtx_sansWork, State.modCtx_sansWork]

@[simp] theorem State.release_sansWork (d q : Nat) : (s.release d q).sansWork = s.sansWork := by
  have held : (if s.hostOpen then releaseHeld ((s.queue d q).ctx.held.length + (s.queue d q).ctx.parked.length) d q s else (s, [])).1.sansWork = s.sansWork := by
    split
    · exact releaseHeld_sansWork ..
    · rfl
  simp only [State.release, State.modCtx_sansWork, apply_ite State.sansWork, State.afterEntries_sansWork, held, ite_self]

@[simp] theorem State.finish_sansWork (d j : Nat) (status : W16) (detail : W32) (etime out : Nat) : (s.finish d j status detail etime out).sansWork = s.sansWork := by
  unfold State.finish
  cases s.job? d j with
  | none => rfl
  | some x =>
    simp only [apply_ite State.sansWork, State.release_sansWork, State.complete_sansWork, State.queueEvent_sansWork, State.modAux_sansWork, State.modCtx_sansWork,
      State.modDie_sansWork, ite_self]

/-! ### Channels (R327) -/

@[simp] theorem State.startXfer_sansWork (d j part : Nat) : (s.startXfer d j part).sansWork = s.sansWork := by
  have issues (t : State) (ch : Nat) : (t.issue d ch).sansWork = t.sansWork := by
    unfold State.issue
    dsimp only
    split
    · rfl
    · simp only [apply_ite State.sansWork, State.countBytes_sansWork, State.send_sansWork, State.modJob_sansWork, State.setChan_sansWork, State.count_sansWork, ite_self]
  unfold State.startXfer
  split
  · rfl
  · split
    · rfl
    · simp only [State.nextDesc, State.goOnDesc, apply_ite State.sansWork, issues, State.setChan_sansWork, ite_self]

@[simp] theorem State.goChans_sansWork (d : Nat) : (s.goChans d).sansWork = s.sansWork := by
  have goes : (s.kvdGo d).sansWork = s.sansWork := by
    unfold State.kvdGo
    split
    · rfl
    · simp only [apply_ite State.sansWork, State.countBytes_sansWork, State.send_sansWork, State.modDie_sansWork, ite_self]
  have grants (t : State) (p : Nat × Nat) : (t.grantXfer d p).sansWork = t.sansWork := by
    unfold State.grantXfer
    split
    · rfl
    · simp only [apply_ite State.sansWork, State.startXfer_sansWork, State.modDie_sansWork, ite_self]
  exact (foldl_keeps State.sansWork _ grants _ _).trans goes

/-! ### INST reset (R357) -/

@[simp] theorem State.acceptReset_sansWork (n : Nat) : (s.acceptReset n).sansWork = s.sansWork := by
  unfold State.acceptReset
  dsimp only
  rw [State.offer_sansWork, foldl_keeps State.sansWork _ (fun t d => t.goChans_sansWork d), State.allDies_sansWork, State.modInst_sansWork,
    foldl_keeps State.sansWork _ (fun _ _ => State.modDie_sansWork ..),
    foldl_keeps State.sansWork _ (fun _ _ => (State.finish_sansWork ..).trans (State.offerJob_sansWork ..))]

end

end Sys2Proof.Machine

/-! PROOF. Tamper classes of a die's own sensors: what raising one does, and what the LOCK and ERASE responses leave. -/

namespace Sys2Proof.Machine

/-! ### The responses of the package (R422) -/

section
variable (s : State)

theorem State.lockEntry_lock : s.lockEntry.pkg.lock = true ∧ s.lockEntry.bbd.lock = true := by
  obtain ⟨flag, rest⟩ := Prod.mk.inj s.lockEntry_standing
  exact ⟨(Prod.mk.inj rest).1, congrArg Bbd.lock flag⟩

/-- ERASE adds to LOCK the loss of the OSK and the record that it happened. -/
theorem State.eraseEntry_sansWork : s.eraseEntry.sansWork =
    ({ s.lockEntry with bbd := { s.lockEntry.bbd with osk := none }, pkg := { s.lockEntry.pkg with erased := true } } : State).sansWork := by
  unfold State.eraseEntry
  dsimp only
  rw [State.event_sansWork, foldl_keeps State.sansWork _ (fun t n => t.acceptReset_sansWork n), State.allDies_sansWork]

theorem State.eraseEntry_bbd : s.eraseEntry.bbd = { s.lockEntry.bbd with osk := none } := State.bbd_of_sansWork s.eraseEntry_sansWork

theorem State.eraseEntry_pkg : s.eraseEntry.pkg = { s.lockEntry.pkg with erased := true } := State.pkg_of_sansWork s.eraseEntry_sansWork

variable (d c : Nat)

theorem State.respond_erase : s.respond d c 3 = (s.order c 3).eraseEntry := rfl

theorem State.respond_lock : s.respond d c 2 = (s.order c 2).lockEntry := rfl

end

/-- A response map's field and a floor go no higher than ERASE. -/
theorem Die.resp_le (x : Die) (c : Nat) : x.resp c ≤ 3 := by
  have floor : classFloor c ≤ 3 := by
    unfold classFloor
    split <;> decide
  exact max_le floor (Nat.le_of_lt_succ (Nat.mod_lt _ (by decide)))

/-- A response of LOCK or ERASE leaves the package in LOCK, with its persistent flag. -/
theorem State.respond_locks (s : State) (d c : Nat) {resp : Nat} (least : 2 ≤ resp) (most : resp ≤ 3) :
    (s.respond d c resp).pkg.lock = true ∧ (s.respond d c resp).bbd.lock = true := by
  obtain rfl | rfl : resp = 2 ∨ resp = 3 := by omega
  · rw [State.respond_lock]
    exact State.lockEntry_lock _
  · rw [State.respond_erase, State.eraseEntry_pkg, State.eraseEntry_bbd]
    exact State.lockEntry_lock _

/-- One of ERASE leaves no OSK. -/
theorem State.respond_erases (s : State) (d c : Nat) : (s.respond d c 3).bbd.osk = none ∧ (s.respond d c 3).pkg.erased = true := by
  rw [State.respond_erase, State.eraseEntry_bbd, State.eraseEntry_pkg]
  exact ⟨rfl, rfl⟩

/-! ### Raising a class (R418, R425) -/

/-- The record of a class that is raised, before its response: ACTIVE while it lasts, its fault source, ALARM and its count, and its entry. -/
def State.alarm (s : State) (d c : Nat) : State :=
  let resp := (s.die d).resp c
  let on := if classLasting c then s.modDie d (fun x => { x with tmn := { x.tmn with active := x.tmn.active ||| BitVec.ofNat 32 (2 ^ (c - 1)) } }) else s
  let t := ((on.fault d (640 + (c - 1))).event d TMN 0 0).count 0 TMN 0 0x11C
  if t.logOpen then t.offer { Offer.of 4 d (0x3000 + c) d with result := resp } else (t.recordTamper c resp d).event 0 BBD 0 0

theorem State.raiseClass_fresh {s : State} {d c : Nat} (fresh : classLasting c = true → bit (s.die d).tmn.active (c - 1) = false) :
    s.raiseClass d c = (s.alarm d c).respond d c ((s.die d).resp c) :=
  if_neg (fun present => Bool.false_ne_true ((fresh present.1).symm.trans present.2))

/-- A measurement leaves the conditions that are present. -/
theorem State.measure_active (s : State) (d : Nat) (tj : BitVec 11) : ((s.measure d tj).die d).tmn.active = (s.die d).tmn.active := by
  rw [State.measure, State.modDie_die]
  split <;> rfl

/-! ### The sensors of a die -/

/-- A class that a die's own sensor raises without a measurement, with its command. -/
def SensorCommand (d c : Nat) (cmd : Instr) : Prop :=
  (c, cmd) ∈ [(0x01, Instr.clkHigh d), (0x02, .clkLow d), (0x03, .clkShort d), (0x04, .refFreq d), (0x05, .clkSkip d), (0x06, .supplyGlitch d), (0x07, .supplyHigh d),
    (0x0C, .shield d), (0x0D, .light d)]

/-- A temperature class, with its command and the measurement. -/
def TemperatureCommand (d c : Nat) (tj : BitVec 11) (cmd : Instr) : Prop := (c, cmd) ∈ [(0x09, Instr.tempHigh d tj), (0x0A, .tempCrit d tj), (0x0B, .tempLow d tj)]

theorem exec_sensorCommand {d c : Nat} {cmd : Instr} (among : SensorCommand d c cmd) (s : State) : exec cmd s = ret (opSensor c d s) := by
  simp only [SensorCommand, List.mem_cons, Prod.mk.injEq, List.not_mem_nil, or_false] at among
  rcases among with ⟨rfl, rfl⟩ | ⟨rfl, rfl⟩ | ⟨rfl, rfl⟩ | ⟨rfl, rfl⟩ | ⟨rfl, rfl⟩ | ⟨rfl, rfl⟩ | ⟨rfl, rfl⟩ | ⟨rfl, rfl⟩ | ⟨rfl, rfl⟩ <;> rfl

theorem exec_temperatureCommand {d c : Nat} {tj : BitVec 11} {cmd : Instr} (among : TemperatureCommand d c tj cmd) (s : State) :
    exec cmd s = ret (opTemp c d tj s) := by
  simp only [TemperatureCommand, List.mem_cons, Prod.mk.injEq, List.not_mem_nil, or_false] at among
  rcases among with ⟨rfl, rfl⟩ | ⟨rfl, rfl⟩ | ⟨rfl, rfl⟩ <;> rfl

section
variable {s : State} {d c : Nat} {cmd : Instr} (watching : (s.die d).watching = true) (fresh : classLasting c = true → bit (s.die d).tmn.active (c - 1) = false)
include watching fresh

theorem exec_sensorCommand_raises (among : SensorCommand d c cmd) : exec cmd s = ret ((s.alarm d c).respond d c ((s.die d).resp c)) :=
  (exec_sensorCommand among s).trans (congrArg ret ((if_pos watching).trans (State.raiseClass_fresh fresh)))

theorem exec_temperatureCommand_raises {tj : BitVec 11} (among : TemperatureCommand d c tj cmd) :
    exec cmd s = ret (((s.measure d tj).alarm d c).respond d c (((s.measure d tj).die d).resp c)) :=
  (exec_temperatureCommand among s).trans (congrArg ret ((if_pos watching).trans (State.raiseClass_fresh (by rwa [State.measure_active]))))

end

/-! ### What follows at once -/

theorem settle_bbd (s : State) : (settle s).bbd = s.bbd := (OutputsOnly.settled s).bbd.trans (settleGates_settleLink_field s State.bbd (fun _ _ _ => rfl))

/-- What follows a command leaves of the package's flags all but ALIVE and the alert. -/
theorem settle_pkgField (s : State) {α : Type} (f : Pkg → α) (hf : ∀ p : Pkg, ∀ a b c, f { p with alive := a, alertLow := b, stateWord := c } = f p) :
    f (settle s).pkg = f s.pkg :=
  ((OutputsOnly.settled s).pkgField f hf).trans (settleGates_settleLink_field s (fun u => f u.pkg) (fun _ _ _ => rfl))

/-- Settles O33: each command raises its class, and what the response leaves stays through what follows at once, which gates every key bus under LOCK. -/
theorem tamperResponses : Obligations.TamperResponses := by
  unfold Obligations.TamperResponses
  refine ⟨fun s d c cmd watching fresh => ⟨exec_sensorCommand_raises watching fresh, fun tj => exec_temperatureCommand_raises watching fresh⟩,
    fun s d c cmd watching fresh among => ⟨fun least => ⟨_, exec_sensorCommand_raises watching fresh among, ?locked⟩,
      fun erase => ⟨_, exec_sensorCommand_raises watching fresh among, ?erased⟩⟩⟩
  case locked =>
    obtain ⟨lock, flag⟩ := (s.alarm d c).respond_locks d c least (Die.resp_le _ c)
    have stays := (settle_pkgField _ Pkg.lock (fun _ _ _ _ => rfl)).trans lock
    exact ⟨stays, by rw [settle_bbd, flag], (settle_sound _).lockGates stays⟩
  case erased =>
    obtain ⟨osk, erased⟩ := (s.alarm d c).respond_erases d c
    rw [erase]
    exact ⟨by rw [settle_bbd, osk], (settle_pkgField _ Pkg.erased (fun _ _ _ _ => rfl)).trans erased⟩

end Sys2Proof.Machine

/-! PROOF. Enclosure inputs, battery and crystal. -/

namespace Sys2Proof.Machine

/-! ### A class of the battery domain (R426, R427) -/

section
variable {s : State} (powered : s.bbd.powered = true)
include powered

theorem State.bbdClass_main (main : s.pkg.pwrgood = true) (c : Nat) : s.bbdClass c = s.raiseClass 0 c := by
  simp [State.bbdClass, State.mainPower, powered, main]

theorem State.bbdClass_battery (off : s.pkg.pwrgood = false) {c : Nat} (kept : c ≠ 0x15) : s.bbdClass c = s.batteryClass c := by
  simp [State.bbdClass, State.mainPower, powered, off, kept]

theorem State.bbdClass_low (off : s.pkg.pwrgood = false) : s.bbdClass 0x15 = s := by
  simp [State.bbdClass, State.mainPower, powered, off]

/-! ### The battery and the crystal (R418, R427) -/

/-- VBAT below 2.3 V: LOW of BBD.VBAT is set. -/
def State.batteryLow (s : State) : State := { s with bbd := { s.bbd with low := true } }

theorem opBatLow_main (main : s.pkg.pwrgood = true) : opBatLow s = (s.batteryLow.event 0 BBD 0 1).raiseClass 0 0x15 := by
  have raised := State.bbdClass_main (s := s.batteryLow.event 0 BBD 0 1) powered main 0x15
  exact (if_pos powered).trans ((congrArg (State.bbdClass · 0x15) (if_pos main)).trans raised)

theorem opBatLow_battery (off : s.pkg.pwrgood = false) : opBatLow s = s.batteryLow := by
  have unraised := State.bbdClass_low (s := s.batteryLow) powered off
  exact (if_pos powered).trans ((congrArg (State.bbdClass · 0x15) (if_neg (ne_true_of_eq_false off))).trans unraised)

theorem opBatCrit_battery (off : s.pkg.pwrgood = false) : opBatCrit s = s.batteryClass 0x16 := by
  simp [opBatCrit, State.mainPower, powered, off]

/-! ### The enclosure inputs (R429, R430) -/

/-- An enclosure input in alarm. -/
def State.inAlarm (s : State) (n : Nat) : State := { s with bbd := { s.bbd with tmpState := s.bbd.tmpState ||| BitVec.ofNat 4 (2 ^ n) } }

variable {n : Nat} (input : n < 4) (used : bits s.bbd.tmpCfg (8 * n) 2 ≠ 0) (quiet : bit s.bbd.tmpState n = false)
include input used quiet

omit powered in
/-- An input in use that is not in alarm enters it. -/
theorem opTmpIn_alarms : opTmpIn n s = (if s.pkg.pwrgood then (s.inAlarm n).event 0 BBD 0 2 else s.inAlarm n).bbdClass (0x11 + n) := by
  have enters : ¬ (4 ≤ n ∨ tmpDisabled n s = true ∨ bit s.bbd.tmpState n = true) := by simp [tmpDisabled, Nat.not_le.mpr input, used, quiet]
  exact if_neg enters

theorem opTmpIn_main (main : s.pkg.pwrgood = true) : opTmpIn n s = ((s.inAlarm n).event 0 BBD 0 2).raiseClass 0 (0x11 + n) := by
  rw [opTmpIn_alarms input used quiet, if_pos main]
  exact State.bbdClass_main (s := (s.inAlarm n).event 0 BBD 0 2) powered main _

theorem opTmpIn_battery (off : s.pkg.pwrgood = false) : opTmpIn n s = (s.inAlarm n).batteryClass (0x11 + n) := by
  have kept : 0x11 + n ≠ 0x15 := by omega
  rw [opTmpIn_alarms input used quiet, if_neg (ne_true_of_eq_false off)]
  exact State.bbdClass_battery (s := s.inAlarm n) powered off kept

end

/-! ### A condition that is gone (R418, R422) -/

/-- What a condition that is gone leaves of its sensor: an enclosure input out of alarm (R430), LOW of BBD.VBAT clear (R436). -/
def State.sensorCleared (s : State) (c : Nat) : State :=
  if 0x11 ≤ c ∧ c ≤ 0x14 then { s with bbd := { s.bbd with tmpState := s.bbd.tmpState &&& ~~~(BitVec.ofNat 4 (2 ^ (c - 0x11))) } }
  else if c = 0x15 then { s with bbd := { s.bbd with low := false } } else s

theorem opConditionClear_lasting {c : Nat} (lasting : classLasting c = true) (d : Nat) (s : State) : opConditionClear d c s = (s.sensorCleared c).clearClass d c := by
  unfold opConditionClear State.sensorCleared
  by_cases input : 0x11 ≤ c ∧ c ≤ 0x14
  · have other : c ≠ 0x15 := by omega
    simp only [lasting, Bool.not_true, Bool.false_eq_true, input, other, and_self, if_true, if_false]
  · simp only [lasting, Bool.not_true, Bool.false_eq_true, input, if_false]

/-- ACTIVE of a class is clear. -/
def State.inactive (s : State) (d c : Nat) : State :=
  s.modDie d (fun x => { x with tmn := { x.tmn with active := x.tmn.active &&& ~~~(BitVec.ofNat 32 (2 ^ (c - 1))) } })

/-- A THROTTLE class of the die is present. -/
def State.ThrottleLeft (s : State) (d : Nat) : Prop := ∃ k, k < 24 ∧ bit (s.die d).tmn.active k = true ∧ (s.die d).resp (k + 1) = 1

theorem State.throttleLeft_iff (s : State) (d : Nat) :
    s.ThrottleLeft d ↔ (List.range 24).any (fun k => bit (s.die d).tmn.active k && decide ((s.die d).resp (k + 1) = 1)) = true := by
  simp [State.ThrottleLeft]

/-- While one is present the release timer does not run. -/
theorem State.clearClass_left {s : State} {d c : Nat} (left : (s.inactive d c).ThrottleLeft d) :
    s.clearClass d c = (s.inactive d c).modDie d (fun x => { x with tmn := { x.tmn with throttleEnd := false } }) := by
  have still := (State.throttleLeft_iff _ d).mp left
  unfold State.inactive at still
  simp only [State.clearClass, State.inactive, still, Bool.not_true, Bool.and_false]

/-- With none present it runs where THROTTLE is in force. -/
theorem State.clearClass_none {s : State} {d c : Nat} (none_ : ¬ (s.inactive d c).ThrottleLeft d) :
    s.clearClass d c = (s.inactive d c).modDie d (fun x => { x with tmn := { x.tmn with throttleEnd := x.tmn.throttle } }) := by
  have still := Bool.eq_false_iff.mpr (mt (State.throttleLeft_iff _ d).mpr none_)
  unfold State.inactive at still
  simp only [State.clearClass, State.inactive, still, Bool.not_false, Bool.and_true]

/-! ### The battery supply (R426, R428) -/

theorem opVbatApplied_first {s : State} (off : s.bbd.powered = false) (mv : Nat) :
    opVbatApplied mv s = { s with pkg := { s.pkg with vbatMv := mv }, bbd := { Bbd.off with powered := true, lost := true } } := by
  simp [opVbatApplied, off]

theorem opVbatApplied_again {s : State} (powered : s.bbd.powered = true) (mv : Nat) : opVbatApplied mv s = { s with pkg := { s.pkg with vbatMv := mv } } :=
  if_pos powered

theorem opVbatLost_battery {s : State} (off : s.pkg.pwrgood = false) :
    opVbatLost s = { s with pkg := { s.pkg with vbatMv := 0 }, bbd := Bbd.off, bbram := Bbram.empty } := if_neg (ne_true_of_eq_false off)

theorem opVbatLost_main {s : State} (main : s.pkg.pwrgood = true) : opVbatLost s = { s with pkg := { s.pkg with vbatMv := 0 } } := if_pos main

/-- Settles O34: each input by whether main power is present, and the end of a condition by the THROTTLE classes that are left. -/
theorem batteryDomain : Obligations.BatteryDomain := by
  unfold Obligations.BatteryDomain
  intro s
  refine ⟨fun n input used quiet powered => ?inputs, fun powered => ?battery, fun d c lasting => ?cleared, fun mv => ?applied, ⟨rfl, rfl, rfl⟩,
    fun off => congrArg ret (opVbatLost_battery off), fun main => congrArg ret (opVbatLost_main main), congrArg ret (if_pos rfl), fun v other => congrArg ret (if_neg other)⟩
  case inputs =>
    exact ⟨fun main => congrArg ret (opTmpIn_main powered input used quiet main), fun off => congrArg ret (opTmpIn_battery powered input used quiet off)⟩
  case battery =>
    exact ⟨fun main => congrArg ret (opBatLow_main powered main), fun off => ⟨congrArg ret (opBatLow_battery powered off), congrArg ret (opBatCrit_battery powered off)⟩,
      fun main => congrArg ret (State.bbdClass_main powered main _), fun off => congrArg ret (State.bbdClass_battery powered off (by decide))⟩
  case cleared =>
    have clears := opConditionClear_lasting lasting d s
    exact ⟨fun left => congrArg ret (clears.trans (State.clearClass_left left)), fun none_ => congrArg ret (clears.trans (State.clearClass_none none_))⟩
  case applied =>
    exact ⟨fun off => congrArg ret (opVbatApplied_first off mv), fun powered => congrArg ret (opVbatApplied_again powered mv)⟩

end Sys2Proof.Machine

/-! PROOF. What reset leaves of each part. -/

namespace Sys2Proof.Machine

/-- The registers of a page's header that R56, R57 and R58 fix have zero as their COLD value on every block. -/
theorem coldOf_header (blk : Nat) {o : Nat} (header : o ∈ [0x00C, 0x018, 0x01C, 0x028]) : coldOf blk o = 0 := by
  simp only [List.mem_cons, List.not_mem_nil, or_false] at header
  rcases header with rfl | rfl | rfl | rfl <;> rfl

/-- So they read zero on a die that has just been reset. -/
theorem Die.inReset_header (f : Fuses) (cause kind blk e : Nat) {o : Nat} (header : o ∈ [0x00C, 0x018, 0x01C, 0x028]) :
    (Die.inReset f cause kind).reg blk e o = 0 := coldOf_header blk header

theorem State.mem_resetOf {p : Part} {x : Die} (h : x ∈ (State.resetOf p).dies) : x = Die.inReset Fuses.blank 1 0 := List.eq_of_mem_replicate h

/-- No LOCK, no ALIVE, no message held, and the link down: the state after reset is sound. -/
theorem State.resetOf_sound (p : Part) : (State.resetOf p).Sound where
  lockGates := nofun
  aliveExact := rfl
  pbaExact := nofun
  iitExact := nofun
  linkExact := nofun

/-- Settles O59: the state after reset is given by its parts, and its dies are all alike. -/
theorem resetState : Obligations.ResetState := by
  unfold Obligations.ResetState
  intro p
  refine ⟨State.resetOf_sound p, rfl, rfl, rfl, List.length_replicate, rfl, rfl, rfl, rfl, rfl, rfl, rfl, rfl, rfl, rfl, rfl, rfl, rfl, rfl, rfl, rfl, rfl, rfl, rfl,
    fun x member => ?_⟩
  rw [State.mem_resetOf member]
  exact ⟨rfl, rfl, rfl, rfl, rfl, rfl, rfl, rfl, rfl, fun blk e o _ header => Die.inReset_header _ _ _ blk e header⟩

end Sys2Proof.Machine

/-! PROOF. COLD and WARM reset: what their entry leaves, and when each pin and rail enters and leaves them. -/

namespace Sys2Proof.Machine

/-! ### Reset entry (R511, R512) -/

/-- A die in reset, with its work wiped and its key bus gated. -/
structure Die.Wiped (x : Die) : Prop where
  state : x.state = .inReset
  jobs : x.jobs = []
  slots : x.kvd.slots = []
  kpc : x.kpc = []
  gated : x.tmn.gated = true
  idle : ∀ u ∈ x.lves, u.eng.phase = .idle

/-- Nothing in the fault collector, and no queue: what COLD reset leaves besides. -/
structure Die.Cold (x : Die) : Prop where
  sticky : x.fcl.sticky = []
  heat : x.fcl.heat = []
  queues : x.queues = []

theorem Die.inReset_idle (f : Fuses) (cause kind : Nat) : ∀ u ∈ (Die.inReset f cause kind).lves, u.eng.phase = .idle := by
  intro u member
  rw [List.eq_of_mem_replicate member]
  rfl

theorem Die.enterReset_wiped (x : Die) (kind cause : Nat) : (x.enterReset kind cause).Wiped := by
  unfold Die.enterReset
  dsimp only
  split <;> exact ⟨rfl, rfl, rfl, rfl, rfl, Die.inReset_idle x.fuses cause kind⟩

theorem Die.enterReset_cold (x : Die) (cause : Nat) : (x.enterReset 0 cause).Cold := ⟨rfl, rfl, rfl⟩

@[simp] theorem Die.enterReset_fuses (x : Die) (kind cause : Nat) : (x.enterReset kind cause).fuses = x.fuses := by
  unfold Die.enterReset
  dsimp only
  split <;> rfl

/-- The package right after reset entry, before WARM reset counts itself on every die. -/
structure State.ResetEntered (s : State) (kind cause : Nat) (t : State) : Prop where
  dies : t.dies = s.dies.map (·.enterReset kind cause)
  bbd : t.bbd = s.bbd
  bbram : t.bbram = s.bbram
  link : t.hif.link = .detect
  stopped : t.alg.stopped = true
  baton : t.baton = Baton.reset
  quorum : t.cards.quorum = Quorum.absent
  pkg : t.pkg = s.pkg.atReset (decide (kind = 0))

theorem State.enterReset_outputs (s : State) (kind cause : Nat) : ∃ t, s.ResetEntered kind cause t ∧ OutputsOnly t (s.enterReset kind cause) := by
  unfold State.enterReset
  dsimp only
  split
  · refine ⟨_, ?_, OutputsOnly.refl _⟩
    exact ⟨rfl, rfl, rfl, rfl, rfl, rfl, rfl, rfl⟩
  · refine ⟨_, ?_, OutputsOnly.foldl _ (fun t d => OutputsOnly.counts t d CRU 0 0x118 1) _ _⟩
    exact ⟨rfl, rfl, rfl, rfl, rfl, rfl, rfl, rfl⟩

/-- Outputs leave what a die shows but its registers. -/
theorem OutputsOnly.mapDies {s t : State} (h : OutputsOnly s t) {α : Type} (f : Die → α) (hf : ∀ (x : Die) r, f { x with regs := r } = f x) :
    t.dies.map f = s.dies.map f := by
  refine List.ext_getElem (by simp [h.count]) (fun d inT inS => ?_)
  rw [List.length_map] at inT inS
  obtain ⟨r, e⟩ := h.die d
  have left : t.die d = t.dies[d] := by simp [State.die, inT]
  have right : s.die d = s.dies[d] := by simp [State.die, inS]
  rw [List.getElem_map, List.getElem_map, ← left, ← right, e, hf]

/-! ### PERST_N (R483, R502, R510) -/

/-- The WARM reset of a package that PERST_N holds runs no boot. -/
theorem State.warmReset_held {s : State} (held : s.pkg.perstN = false) (cause : Nat) : s.warmReset cause = s.enterReset 1 cause := by
  obtain ⟨t, entered, outputs⟩ := s.enterReset_outputs 1 cause
  have still : (s.enterReset 1 cause).pkg.perstN = false := by
    rw [outputs.pkgField Pkg.perstN (fun _ _ _ _ => rfl), entered.pkg]
    exact held
  simp [State.warmReset, still]

/-- A bit that is being burned defers it. -/
theorem State.warmSource_burning {s : State} {x : Transition} (here : s.lcc.xfer = some x) (burning : x.phase = 2) (cause : Nat) :
    s.warmSource cause = { s with lcc := { s.lcc with deferred := some cause } } := by
  simp only [State.warmSource, here, burning, if_true]

theorem State.warmSource_free {s : State} (free : ∀ x, s.lcc.xfer = some x → x.phase ≠ 2) (cause : Nat) : s.warmSource cause = s.warmReset cause := by
  unfold State.warmSource
  split
  · next x here => exact if_neg (free x here)
  · rfl

section
variable {s : State}

/-- With PERST_N low. -/
def State.perstLow (s : State) : State := { s with pkg := { s.pkg with perstN := false } }

/-- PERST_N falls on a package that nothing holds in reset. -/
theorem opPerstNAssert_runs (power : s.pkg.pwrgood = true) (high : s.pkg.perstN = true) (rails : s.pkg.railsLow.contains 0 = false) :
    opPerstNAssert s = s.perstLow.warmSource 3 := if_pos ⟨power, high, by rw [rails]; rfl⟩

theorem opPerstNAssert_enters (power : s.pkg.pwrgood = true) (high : s.pkg.perstN = true) (rails : s.pkg.railsLow.contains 0 = false)
    (free : ∀ x, s.lcc.xfer = some x → x.phase ≠ 2) : opPerstNAssert s = s.perstLow.enterReset 1 3 :=
  (opPerstNAssert_runs power high rails).trans ((State.warmSource_free (s := s.perstLow) free 3).trans (State.warmReset_held rfl 3))

theorem opPerstNAssert_held (held : s.pkg.pwrgood = false ∨ s.pkg.perstN = false ∨ s.pkg.railsLow.contains 0 = true) : opPerstNAssert s = s.perstLow := by
  refine if_neg (fun runs => ?_)
  obtain ⟨power, high, rails⟩ := runs
  rcases held with h | h | h
  · exact Bool.false_ne_true (h.symm.trans power)
  · exact Bool.false_ne_true (h.symm.trans high)
  · rw [h] at rails
    exact Bool.false_ne_true rails

/-- PERST_N rises. -/
theorem opPerstNRelease_eq (low : s.pkg.perstN = false) (b : BootIn) : opPerstNRelease b s =
    let u : State := { s with flash := b, pkg := { s.pkg with perstN := true } }
    if s.pkg.pwrgood = true ∧ (!s.pkg.railsLow.contains 0) = true ∧ (s.die 0).state = .inReset then u.boot else u :=
  if_neg (ne_true_of_eq_false low)

/-! ### PWRGOOD and the rails (R421, R502) -/

theorem opPwrgoodRise_eq (low : s.pkg.pwrgood = false) (b : BootIn) : opPwrgoodRise b s =
    let u : State := { s with flash := b, pkg := { s.pkg with pwrgood := true } }
    if (s.pkg.railsLow.contains 0 || !s.pkg.perstN) = true then u else u.boot :=
  if_neg (ne_true_of_eq_false low)

theorem opRailReset_die0 (present : 0 < s.dies.length) : opRailReset 0 s = let u := (s.recordTamper 0x22 0 0).enterReset 0 2
    { u with pkg := { u.pkg with railsLow := if s.pkg.railsLow.contains 0 then s.pkg.railsLow else s.pkg.railsLow ++ [0] } } :=
  if_neg (Nat.not_le.mpr present)

theorem opRailReset_other {d : Nat} (other : 0 < d) (present : d < s.dies.length) : opRailReset d s =
    { s.modDie d (fun x => { Die.inReset x.fuses 2 2 with queues := x.queues }) with
      pkg := { s.pkg with railsLow := if s.pkg.railsLow.contains d then s.pkg.railsLow else s.pkg.railsLow ++ [d] } } :=
  (if_neg (Nat.not_le.mpr present)).trans (if_neg (Nat.ne_of_gt other))

/-- The rails of a die are back. -/
theorem opRailRestored_eq {d : Nat} (low : s.pkg.railsLow.contains d = true) (b : BootIn) : opRailRestored d b s =
    let u : State := { s with flash := b, pkg := { s.pkg with railsLow := s.pkg.railsLow.filter (fun x => decide (x ≠ d)) } }
    if d = 0 then (if s.pkg.pwrgood = true ∧ s.pkg.perstN = true then u.boot else u) else u := by
  have here : ¬ (!s.pkg.railsLow.contains d) = true := by rw [low]; exact Bool.false_ne_true
  exact if_neg here

end

/-- Settles O40: what reset entry leaves, part by part, and each pin and rail by what else holds the reset. -/
theorem coldAndWarmReset : Obligations.ColdAndWarmReset := by
  unfold Obligations.ColdAndWarmReset
  intro s
  refine ⟨fun kind cause => ?entry, fun power => congrArg ret (if_pos power), fun b low => ?powered, ⟨?asserted, ?deferred, fun held => congrArg ret (opPerstNAssert_held held)⟩,
    fun b low => ?released, fun present => congrArg ret (opRailReset_die0 present), fun d other present => congrArg ret (opRailReset_other other present),
    fun d b low => ?restored⟩
  case entry =>
    obtain ⟨t, entered, outputs⟩ := s.enterReset_outputs kind cause
    refine ⟨fun x member => ?wiped, ?fuses, outputs.bbd.trans entered.bbd, outputs.bbram.trans entered.bbram, ?link, ?ready, ?stopped, outputs.baton.trans entered.baton, ?quorum,
      fun cold x member => ?cold⟩
    case wiped =>
      have wiped : ∀ y ∈ t.dies, y.Wiped := by
        rw [entered.dies]
        exact List.forall_mem_map.mpr (fun y _ => y.enterReset_wiped kind cause)
      obtain ⟨state, jobs, slots, kpc, gated, idle⟩ := outputs.forDies Die.Wiped (fun _ _ h => ⟨h.state, h.jobs, h.slots, h.kpc, h.gated, h.idle⟩) wiped x member
      exact ⟨state, jobs, slots, kpc, gated, idle⟩
    case fuses =>
      rw [outputs.mapDies Die.fuses (fun _ _ => rfl), entered.dies, List.map_map]
      exact List.map_congr_left (fun y _ => y.enterReset_fuses kind cause)
    case link => rw [outputs.hif, entered.link]
    case ready => rw [outputs.pkgField Pkg.ready (fun _ _ _ _ => rfl), entered.pkg, Pkg.atReset]
    case stopped => rw [outputs.alg, entered.stopped]
    case quorum => rw [outputs.cards, entered.quorum]
    case cold =>
      have cold : ∀ y ∈ t.dies, y.Cold := by
        rw [entered.dies, cold]
        exact List.forall_mem_map.mpr (fun y _ => y.enterReset_cold cause)
      obtain ⟨sticky, heat, queues⟩ := outputs.forDies Die.Cold (fun _ _ h => ⟨h.sticky, h.heat, h.queues⟩) cold x member
      exact ⟨sticky, heat, queues⟩
  case powered =>
    have rises := opPwrgoodRise_eq low b
    exact ⟨fun high rails => congrArg ret (rises.trans (if_neg (by rw [rails, high]; decide))),
      fun held => congrArg ret (rises.trans (if_pos (by rcases held with h | h <;> simp only [h, Bool.not_false, Bool.or_true, Bool.true_or])))⟩
  case asserted => exact fun power high rails free => congrArg ret (opPerstNAssert_enters power high rails free)
  case deferred =>
    exact fun x power high rails here burning => congrArg ret ((opPerstNAssert_runs power high rails).trans (State.warmSource_burning (s := s.perstLow) here burning 3))
  case released =>
    have rises := opPerstNRelease_eq low b
    exact ⟨fun power rails held => congrArg ret (rises.trans (if_pos ⟨power, by rw [rails]; rfl, held⟩)),
      fun other => congrArg ret (rises.trans (if_neg (by rcases other with h | h | h <;> simp only [h, Bool.not_true, Bool.false_eq_true, false_and, and_false, not_false_eq_true])))⟩
  case restored =>
    have back := opRailRestored_eq low b
    refine ⟨fun die0 power high => congrArg ret (back.trans ((if_pos die0).trans (if_pos ⟨power, high⟩))), fun held => congrArg ret (back.trans ?_)⟩
    dsimp only
    split
    · next die0 =>
      refine if_neg (fun free => ?_)
      rcases held with h | h | h
      · exact h die0
      · exact Bool.false_ne_true (h.symm.trans free.1)
      · exact Bool.false_ne_true (h.symm.trans free.2)
    · rfl

end Sys2Proof.Machine

/-! PROOF. Pacer probes, their maps and plans, and VCORE steps. -/

namespace Sys2Proof.Machine

/-! ### The probe order (R464, R467) -/

theorem Die.withdraw_last (x : Die) (e : Nat) : (x.withdraw e).pcr.order.getLast? = some e := List.getLast?_concat

/-- The order keeps its engines. -/
theorem Die.mem_withdraw {x : Die} {e : Nat} (here : e ∈ x.pcr.order) (k : Nat) : k ∈ (x.withdraw e).pcr.order ↔ k ∈ x.pcr.order := by
  have passed : ∀ y ∈ x.pcr.order.takeWhile (fun y => decide (y ≠ e)), y ∈ x.pcr.order := fun _ among => (List.takeWhile_sublist _).subset among
  simp only [Die.withdraw, List.mem_append, List.mem_filter, List.mem_singleton, Bool.and_eq_true, Bool.not_eq_true', List.contains_eq_mem, decide_eq_false_iff_not,
    decide_eq_true_eq]
  constructor
  · rintro ((⟨among, -⟩ | among) | rfl)
    · exact among
    · exact passed k among
    · exact here
  · intro among
    by_cases same : k = e
    · exact .inr same
    by_cases before : k ∈ x.pcr.order.takeWhile (fun y => decide (y ≠ e))
    · exact .inl (.inr before)
    · exact .inl (.inl ⟨among, same, before⟩)

theorem opProbeInterval_withdraws {s : State} {d e : Nat} (running : (s.die d).state = .running) (enabled : bit (s.reg d PCR 0 0x100) 16 = true)
    (none_ : (s.die d).pcr.probing = none) (first : (s.die d).nextProbe = some e) : opProbeInterval d s = s.modDie d (fun y => y.withdraw e) := by
  have due : probeDue d s = true := by simp [probeDue, running, enabled, none_, first]
  simp only [opProbeInterval, due, if_true, first]

/-! ### A probe (R464, R465, R467) -/

section
variable {s : State} {d : Nat} {p : Probe} (probing : (s.die d).pcr.probing = some p)
include probing

theorem opProbeStart_idle (waits : p.started = false) (idle : (s.die d).engineIdle p.engine = true) : opProbeStart d s = s.modDie d (fun y =>
    { y.modMap p.engine (fun m => { m with probe := true, probeMap := some (probeStepMap m.cyc (nClasses p.engine) 0 0) }) with
      pcr := { y.pcr with probing := some ⟨p.engine, true, y.tj⟩ } }) := by
  have ready : probeReady d s = true := by simp [probeReady, probing, waits, idle]
  simp only [opProbeStart, ready, if_true, probing]

theorem opProbeStart_busy (busy : (s.die d).engineIdle p.engine = false) : opProbeStart d s = s := by
  have unready : probeReady d s = false := by simp [probeReady, probing, busy]
  exact if_neg (ne_true_of_eq_false unready)

theorem opProbeWaitTimeout_skips (waits : p.started = false) : opProbeWaitTimeout d s = State.count
    (((s.modDie d (fun y => y.endProbe p.engine)).modPcr d (fun q => q.first p.engine)).modPe d p.engine (fun y => { y with skipped := true })) d PCR 0 0x134 := by
  simp only [opProbeWaitTimeout, probing]
  exact if_neg (ne_true_of_eq_false waits)

theorem opProbeComplete_plans {ms : List Int} {mp : EngineMap} (started : p.started = true) (map : (s.die d).emap p.engine = some mp)
    (formed : (s.die d).marginsOk p.engine ms = true) : opProbeComplete d ms s =
    let fails := ((List.range (nClasses p.engine)).filter (fun c => decide (ms.getD c 0 < kmaxOf (mapLen mp.cyc c)))).length
    (((((s.modDie d (fun y => y.endProbe p.engine)).count d PCR 0 0x130).faultTimes d (probeSource p.engine) fails).planProbe d p.engine ms p.temp).reprobe d) := by
  have done : probeDone d ms s = true := by simp [probeDone, probing, started, formed]
  simp only [opProbeComplete, done, if_true, probing, map, Option.map_some, Option.getD_some]

end

/-! ### Maps of the search (R229, R465) -/

theorem mapLen_le (m : W32) (c : Nat) : 1 ≤ mapLen m c ∧ mapLen m c ≤ 16 := by
  have small : bits m (4 * c) 4 < 16 := Nat.mod_lt _ (by decide)
  unfold mapLen
  omega

/-- The fields of a map, end to end from the class of the first. -/
theorem foldl_mapFields (ls : List Nat) (k a : Nat) :
    (ls.zipIdx k).foldl (fun a p => a + (p.1 - 1) * 16 ^ p.2) a = a + 16 ^ k * Nat.ofDigits 16 (ls.map (· - 1)) := by
  induction ls generalizing k a with
  | nil => simp
  | cons l ls ih =>
    rw [List.zipIdx_cons, List.foldl_cons, ih, List.map_cons, Nat.ofDigits_cons, pow_succ]
    ring

theorem ofDigits_div_pow_mod {b : Nat} {L : List Nat} (small : ∀ x ∈ L, x < b) {i : Nat} (inside : i < L.length) : Nat.ofDigits b L / b ^ i % b = L[i] := by
  have digit := small _ (List.getElem_mem inside)
  rw [Nat.ofDigits_div_pow_eq_ofDigits_drop i (Nat.zero_lt_of_lt digit) L small, List.drop_eq_getElem_cons inside, Nat.ofDigits_cons, Nat.add_mul_mod_self_left,
    Nat.mod_eq_of_lt digit]

/-- A map word reads back the lengths it was made of. -/
theorem mapLen_mapWord {ls : List Nat} (classes : ls.length ≤ 8) (lens : ∀ l ∈ ls, 1 ≤ l ∧ l ≤ 16) {i : Nat} (inside : i < ls.length) : mapLen (mapWord ls) i = ls[i] := by
  have small : ∀ x ∈ ls.map (· - 1), x < 16 := List.forall_mem_map.mpr (fun l among => by have := lens l among; omega)
  have fits : Nat.ofDigits 16 (ls.map (· - 1)) < 2 ^ 32 := by
    refine Nat.lt_of_lt_of_le (Nat.ofDigits_lt_base_pow_length (by decide) small) ?_
    rw [List.length_map]
    exact Nat.pow_le_pow_right (n := 16) (by decide) classes
  have digit := ofDigits_div_pow_mod small (i := i) (by simpa using inside)
  have sixteen : (2 : Nat) ^ (4 * i) = 16 ^ i := pow_mul 2 4 i
  obtain ⟨least, -⟩ := lens _ (List.getElem_mem inside)
  rw [List.getElem_map] at digit
  rw [mapLen, bits, mapWord, foldl_mapFields, Nat.zero_add, pow_zero, Nat.one_mul, BitVec.toNat_ofNat, Nat.mod_eq_of_lt fits, Nat.shiftRight_eq_div_pow, sixteen]
  show Nat.ofDigits 16 (ls.map (· - 1)) / 16 ^ i % 16 + 1 = ls[i]
  rw [digit, Nat.sub_add_cancel least]

/-- Step `k` of class `c` shortens that class alone. -/
theorem mapLen_probeStepMap {job : W32} {n c k i : Nat} (classes : n ≤ 8) (inside : i < n) (step : k < 8 * mapLen job c) :
    mapLen (probeStepMap job n c k) i = if i = c then (8 * mapLen job c - k + 7) / 8 else mapLen job i := by
  have lens : ∀ l ∈ (List.range n).map (fun i => if i = c then (8 * mapLen job c - k + 7) / 8 else mapLen job i), 1 ≤ l ∧ l ≤ 16 := by
    refine List.forall_mem_map.mpr (fun j _ => ?_)
    have bound := mapLen_le job c
    split
    · omega
    · exact mapLen_le job j
  rw [probeStepMap, mapLen_mapWord (by simpa using classes) lens (by simpa using inside), List.getElem_map, List.getElem_range]

/-! ### The plan of a class (R468) -/

section
variable {x : Die} {e c len : Nat} {m req : Int} {wide : Bool}

theorem Die.plan_shortens (room : req + 8 ≤ m) (twice : wide = true) (above : mapLen (x.floorOf e) c < len) : x.plan e c len m req wide = .shorten :=
  if_pos ⟨room, twice, above⟩

theorem Die.plan_keeps (enough : req ≤ m) (tight : m < req + 8 ∨ wide = false ∨ len = mapLen (x.floorOf e) c) : x.plan e c len m req wide = .keep := by
  have stays : ¬ (req + 8 ≤ m ∧ wide = true ∧ mapLen (x.floorOf e) c < len) := by
    rintro ⟨room, twice, above⟩
    rcases tight with h | h | h
    · omega
    · exact Bool.false_ne_true (h.symm.trans twice)
    · omega
  exact (if_neg stays).trans (if_pos enough)

variable {n : Nat} (slow : m < req) (needs : req - m ≤ 8 * n) (least : 8 * n < req - m + 8)
include slow needs least

/-- A class too slow needs the clocks that make up the difference. -/
theorem Die.plan_slow : x.plan e c len m req wide =
    if len + n ≤ x.limit e c then .lengthen (len + n) else if (!x.atVmax) = true then .vstep else .exhausted := by
  have clocks : ((req - m + 7) / 8).toNat = n := by omega
  have unroomy : ¬ (req + 8 ≤ m ∧ wide = true ∧ mapLen (x.floorOf e) c < len) := fun h => by omega
  have short : ¬ req ≤ m := by omega
  simp only [Die.plan, clocks, unroomy, short, if_false]

theorem Die.plan_lengthens (within : len + n ≤ x.limit e c) : x.plan e c len m req wide = .lengthen (len + n) :=
  (Die.plan_slow slow needs least).trans (if_pos within)

theorem Die.plan_beyond (beyond : x.limit e c < len + n) : x.plan e c len m req wide = if x.atVmax = true then .exhausted else .vstep := by
  rw [Die.plan_slow slow needs least, if_neg (Nat.not_le.mpr beyond)]
  cases x.atVmax <;> rfl

end

/-! ### VCORE steps (R420, R469) -/

section
variable {s : State} {d mv : Nat} (ramping : (s.die d).pcr.ramping = some mv)
include ramping

section
variable (awaits : (s.die d).pcr.awaiting = true)
include awaits

theorem avsWaiting_of : avsWaiting d s = true := by simp [avsWaiting, awaits, ramping]

theorem opAvsComplete_moves : opAvsComplete d s =
    let done := s.modPcr d (fun p => { p with setMv := p.ramping.getD p.setMv, ramping := none, awaiting := false, avsFail := false, avsTries := 0, exhausted := false })
    (((done.count d PCR 0 0x140).event d PCR 0 1).commitAge d).reprobe d := if_pos (avsWaiting_of ramping awaits)

theorem opAvsTimeout_fails : opAvsTimeout d s = s.modPcr d (fun p => { p with awaiting := false, avsFail := true, avsTries := p.avsTries + 1 }) :=
  if_pos (avsWaiting_of ramping awaits)

end

theorem opVstepRetry_sends (idle : (s.die d).pcr.awaiting = false) :
    opVstepRetry d s = (s.modPcr d (fun p => { p with awaiting := true })).send (.avs d mv) := by
  have due : vstepDue d s = true := by simp [vstepDue, idle, ramping]
  simp only [opVstepRetry, due, if_true, ramping, Option.getD_some]

end

/-- The Pacer of a die after a change of it. -/
theorem State.modPcr_pcr {s : State} {d : Nat} (present : d < s.dies.length) (f : Pcr → Pcr) : ((s.modPcr d f).die d).pcr = f (s.die d).pcr := by
  rw [State.modPcr, State.modDie_die, if_pos ⟨rfl, present⟩]

theorem opAvsExhausted_spent {s : State} {d : Nat} (tries : 3 ≤ (s.die d).pcr.avsTries) (first : (s.die d).pcr.exhausted = false) : opAvsExhausted d s =
    let t := s.modPcr d (fun p => { p with exhausted := true })
    ((List.range 20).filter (fun e => (((t.die d).pcr.engines[e]?).map PcrEngine.hold).getD false)).foldl (fun u e => u.exhaustEngine d e) t := by
  have spent : avsSpent d s = true := by simp [avsSpent, tries, first]
  exact if_pos spent

/-- Settles O51: each command in the state of the probe or of the VCORE step that it meets, the maps by their fields, the plan by its first matching row. -/
theorem pacerProbes : Obligations.PacerProbes := by
  unfold Obligations.PacerProbes
  intro s d
  refine ⟨fun e running enabled none_ first => ?interval, fun p probing waits => ?waiting, fun job n c k i classes inside step => mapLen_probeStepMap classes inside step,
    fun p ms mp probing started map formed => congrArg ret (opProbeComplete_plans probing started map formed), fun e c len m req wide _ => ?plan,
    fun mv awaits ramping present => ?completes, fun mv idle ramping => congrArg ret (opVstepRetry_sends ramping idle),
    fun tries first => congrArg ret (opAvsExhausted_spent tries first)⟩
  case interval =>
    exact ⟨congrArg ret (opProbeInterval_withdraws running enabled none_ first), rfl,
      fun _ => ⟨Die.withdraw_last _ e, Die.mem_withdraw (List.mem_of_find?_eq_some first)⟩⟩
  case waiting =>
    exact ⟨fun idle => congrArg ret (opProbeStart_idle probing waits idle), fun busy => congrArg ret (opProbeStart_busy probing busy),
      congrArg ret (opProbeWaitTimeout_skips probing waits)⟩
  case plan =>
    exact ⟨Die.plan_shortens, Die.plan_keeps, fun n => Die.plan_lengthens, fun n => Die.plan_beyond⟩
  case completes =>
    refine ⟨⟨congrArg ret (opAvsComplete_moves ramping awaits), ?_⟩, congrArg ret (opAvsTimeout_fails ramping awaits)⟩
    rw [State.modPcr_pcr present, ramping]
    rfl

end Sys2Proof.Machine

/-! PROOF. The audit log: its arbiter, its chain and its checkpoints. -/

namespace Sys2Proof.Machine

/-! ### Entries (R450) -/

@[simp] theorem sha3256_length (msg : List Byte) : (sha3256 msg).length = 32 := kSqueeze_length ..

theorem entryHead_length (s : State) (o : Offer) (r : Nat) : (entryHead s o r).length = 48 := by simp [entryHead]

/-- SEQ stands at byte 8. -/
theorem entryHead_seq (s : State) (o : Offer) (r : Nat) : slice (entryHead s o r) 8 4 = leBytes 4 (s.alg.seqNo % 2 ^ 32) := by
  simp only [entryHead, List.append_assoc]
  exact slice_middle (leBytes_length ..) (leBytes_length ..)

/-! ### Placing (R453, R454) -/

theorem State.logLevels_alg (s : State) (before : Nat) : (s.logLevels before).alg = s.alg := by
  unfold State.logLevels
  dsimp only
  split <;> split <;> rfl

theorem State.place_alg (s : State) (o : Offer) (r : Nat) : (s.place o r).alg =
    { s.alg with
      slots := s.alg.slots ++ [LogSlot.entry (entryHead s o r ++ (sha384 (s.alg.chain ++ entryHead s o r)).take 16)], seqNo := s.alg.seqNo + 1,
      chain := sha384 (s.alg.chain ++ entryHead s o r), sinceCkpt := s.alg.sinceCkpt + 1,
      ckptDue := s.alg.ckptDue || decide (1024 ≤ s.alg.sinceCkpt + 1) || decide (o.event = 0x0001) } :=
  State.logLevels_alg ..

theorem State.miss_alg (s : State) : s.miss.alg = { s.alg with missed := s.alg.missed + 1 } := by
  unfold State.miss
  dsimp only
  split <;> rfl

/-! ### The arbiter (R452, R456) -/

theorem opAuditEntryAccept_takes {s : State} {o : Offer} {rest : List Offer} (front : s.alg.offers = o :: rest) (runs : s.alg.stopped = false)
    (none_ : s.alg.ckptDue = false) : opAuditEntryAccept s = State.arbitrate { s with alg := { s.alg with offers := rest } } o := by
  simp [opAuditEntryAccept, front, State.arbiterReady, runs, none_]

theorem opAuditEntryAccept_waits {s : State} (waits : s.alg.stopped = true ∨ s.alg.ckptDue = true) : opAuditEntryAccept s = s := by
  have unready : s.arbiterReady = false := by rcases waits with h | h <;> simp [State.arbiterReady, h]
  unfold opAuditEntryAccept
  split
  · rfl
  · exact if_neg (ne_true_of_eq_false unready)

theorem State.unrecord_other {o : Offer} (other : o.fromRecord = false) (s : State) : s.unrecord o = s := if_pos (by rw [other]; rfl)

section
variable {s : State} {o : Offer}

/-- With 74 free slots or fewer nothing is placed. -/
theorem State.arbitrate_misses (full : s.alg.free ≤ 74) (other : o.kind ≠ 4) : s.arbitrate o = s.miss := by simp [State.arbitrate, full, other]

section
variable (room : 74 < s.alg.free) (placed : s.alg.missed = 0)
include room placed

/-- While no entry was missed, an offer is refused or placed. -/
theorem State.arbitrate_room : s.arbitrate o =
    if o.refusable = true ∧ s.alg.free ≤ 330 then (s.place o stLogFull.toNat).count s.algDie ALG 0 0x114 else ((s.place o o.result).unrecord o).applyChange o.change := by
  simp only [State.arbitrate, Nat.not_le.mpr room, if_false, placed, ne_eq, not_true_eq_false, false_and]

theorem State.arbitrate_refuses (scarce : s.alg.free ≤ 330) (change : o.refusable = true) :
    s.arbitrate o = (s.place o stLogFull.toNat).count s.algDie ALG 0 0x114 := (State.arbitrate_room room placed).trans (if_pos ⟨change, scarce⟩)

theorem State.arbitrate_places (takes : o.refusable = false ∨ 330 < s.alg.free) (other : o.fromRecord = false) :
    s.arbitrate o = (s.place o o.result).applyChange o.change := by
  rw [State.arbitrate_room room placed, State.unrecord_other other]
  refine if_neg (fun ⟨change, scarce⟩ => ?_)
  rcases takes with h | h
  · exact Bool.false_ne_true (h.symm.trans change)
  · omega

end

/-- The first entry placed after some were missed is that of their number. -/
theorem State.arbitrate_resumes (missed : s.alg.missed ≠ 0) (ample : 330 < s.alg.free) (other : o.fromRecord = false) :
    let t := s.place (Offer.of 0 s.algDie 0x0003 s.alg.missed) 0
    s.arbitrate o = (State.place { t with alg := { t.alg with missed := 0 } } o o.result).applyChange o.change := by
  have room : ¬ s.alg.free ≤ 74 := by omega
  have two : s.alg.missed ≠ 0 ∧ 75 < s.alg.free := ⟨missed, by omega⟩
  have takes : ¬ (o.refusable = true ∧ s.alg.free ≤ 330) := fun h => by omega
  simp only [State.arbitrate, room, two, takes, if_false, if_true, State.unrecord_other other, ne_eq, not_false_eq_true, and_self]

end

/-! ### Checkpoints (R454) -/

theorem State.appendCkpt_waits {s : State} (full : s.alg.free < 74) : s.appendCkpt = s := if_pos full

/-- A checkpoint takes the next sequence number and its place in the chain. -/
theorem State.appendCkpt_alg {s : State} (room : 74 ≤ s.alg.free) : ∃ hd : List Byte, hd.length = 48 ∧ s.appendCkpt.alg =
    { s.alg with
      slots := s.alg.slots ++ [LogSlot.checkpoint (hd ++ (sha384 (s.alg.chain ++ hd)).take 16) (sha384 (s.alg.chain ++ hd)) none],
      prevCkpt := some (s.alg.seqNo % 2 ^ 32), seqNo := s.alg.seqNo + 1, chain := sha384 (s.alg.chain ++ hd), sinceCkpt := 0, ckptDue := false, signing := true } := by
  refine ⟨entryHead s { Offer.of 0 s.algDie 0x0002 (s.alg.prevCkpt.getD 0xFFFFFFFF) with
    digestOf := fit 2592 (mldsaPk (((s.die 0).kvd.derived.map Derived.alias_).getD [])) } 0, entryHead_length .., ?_⟩
  rw [State.appendCkpt, if_neg (Nat.not_lt.mpr room)]
  exact State.logLevels_alg ..

theorem opCheckpoint_due {s : State} (due : s.alg.ckptDue = true) (runs : s.alg.stopped = false) : opCheckpoint s = s.appendCkpt := if_pos ⟨due, by rw [runs]; rfl⟩

/-- The signature of a checkpoint entry, over its first 48 bytes and the chain value. -/
def ckptSignature (alias_ b h : List Byte) : List Byte := fit 4627 (mldsaSign alias_ (ascii "VQ-AUDIT") (b.take 48 ++ h))

/-- The first checkpoint without a signature receives it. -/
theorem signSlots_first (alias_ b h : List Byte) {a : List LogSlot} (signed : ∀ x ∈ a, x.unsigned = false) (c : List LogSlot) :
    signSlots alias_ (a ++ LogSlot.checkpoint b h none :: c) = (a ++ LogSlot.checkpoint b h (some (ckptSignature alias_ b h)) :: c, some (fieldLe b 8 4)) := by
  induction a with
  | nil => rfl
  | cons x a ih =>
    obtain ⟨first, rest⟩ := List.forall_mem_cons.mp signed
    have later := ih rest
    cases x with
    | entry e => simp [signSlots, later]
    | checkpoint b' h' sig =>
      cases sig with
      | none => cases first
      | some g => simp [signSlots, later]

theorem opCheckpointSigned_signs {s : State} {a c : List LogSlot} {b h : List Byte} (first : s.alg.slots = a ++ LogSlot.checkpoint b h none :: c)
    (signed : ∀ x ∈ a, x.unsigned = false) :
    let l := a ++ LogSlot.checkpoint b h (some (ckptSignature (((s.die 0).kvd.derived.map Derived.alias_).getD []) b h)) :: c
    opCheckpointSigned s =
      State.event { s with alg := { s.alg with slots := l, ckptSeq := fieldLe b 8 4, signing := l.any LogSlot.unsigned } } s.algDie ALG 0 2 := by
  simp only [opCheckpointSigned, first, signSlots_first _ b h signed c]

/-- Settles O56: the arbiter by what is free and missed, an entry and a checkpoint by what they leave of the log. -/
theorem auditLog : Obligations.AuditLog := by
  unfold Obligations.AuditLog
  intro s
  refine ⟨fun o rest front => ⟨fun runs none_ => congrArg ret (opAuditEntryAccept_takes front runs none_), fun waits => congrArg ret (opAuditEntryAccept_waits waits)⟩,
    fun o => ⟨State.arbitrate_misses, fun room scarce placed => State.arbitrate_refuses room placed scarce, State.arbitrate_places, fun _ => State.arbitrate_resumes⟩,
    fun o r => ?placed, ⟨?missed, ?kept⟩, fun due runs => ?checkpoint, fun a b h c first signed =>
      ⟨ckptSignature _ b h, fit_length .., congrArg ret (opCheckpointSigned_signs first signed)⟩⟩
  case placed =>
    dsimp only
    rw [State.place_alg]
    refine ⟨rfl, rfl, rfl, rfl, entryHead_length .., entryHead_seq .., fun due => ?_⟩
    rcases due with many | due
    · simp [many]
    · simp [due]
  case missed => rw [State.miss_alg]
  case kept => rw [State.miss_alg]
  case checkpoint =>
    have appends := congrArg ret (opCheckpoint_due due runs)
    refine ⟨fun full => appends.trans (congrArg ret (State.appendCkpt_waits full)), fun room => ⟨s.appendCkpt, appends, ?_⟩⟩
    obtain ⟨hd, length, alg⟩ := State.appendCkpt_alg room
    rw [alg]
    exact ⟨rfl, rfl, rfl, rfl, rfl, _, rfl, by simp [length]⟩

end Sys2Proof.Machine

/-! PROOF. Ageing sensors of the Pacer, stress, skip levels and the projection. -/

namespace Sys2Proof.Machine

/-! ### A slack window (R463) -/

/-- Engines with less slack than the alert allows. -/
def lowSlack (slack : List Nat) (alert : Nat) : List Nat := (List.range 20).filter (fun e => decide (slack.getD e 0xFFF < alert))

/-- What a slack window leaves of the Pacer of a die. -/
def Pcr.windowed (slack : List Nat) (alert : Nat) (p : Pcr) : Pcr :=
  { p with
    engines := p.engines.zipIdx.map (fun x => { x.1 with slack := slack.getD x.2 0xFFF, age := min 0xFFFF (x.1.age + b2n (!x.1.never)) })
    order := lowSlack slack alert ++ p.order.filter (fun e => !(lowSlack slack alert).contains e)
    slackMin := slack.foldl min 0xFFF }

theorem opSlackWindow_eq (s : State) (d : Nat) (slack : List Nat) : opSlackWindow d slack s = s.modPcr d (Pcr.windowed slack (5 * bits (s.reg d PCR 0 0x100) 8 8)) := rfl

theorem foldl_min_le_init (l : List Nat) (a : Nat) : l.foldl min a ≤ a := by
  induction l generalizing a with
  | nil => exact le_rfl
  | cons x l ih => exact (ih _).trans (min_le_left ..)

theorem foldl_min_le_mem {l : List Nat} {v : Nat} (among : v ∈ l) (a : Nat) : l.foldl min a ≤ v := by
  induction l generalizing a with
  | nil => cases among
  | cons x l ih =>
    rcases List.mem_cons.mp among with rfl | later
    · exact (foldl_min_le_init l _).trans (min_le_right ..)
    · exact ih later _

section
variable {slack : List Nat} (measured : slack.length = 20)
include measured

theorem slack_getD {e : Nat} (engine : e < 20) (a b : Nat) : slack.getD e a = slack.getD e b := by
  simp [List.getD_eq_getElem?_getD, measured, engine]

theorem lowSlack_eq (alert : Nat) : lowSlack slack alert = (List.range 20).filter (fun e => decide (slack.getD e 0 < alert)) :=
  List.filter_congr (fun e among => by rw [slack_getD measured (List.mem_range.mp among)])

/-- Each engine takes its slack, and a second of age unless it was never probed. -/
theorem Pcr.windowed_engine {alert e : Nat} {p : Pcr} {y z : PcrEngine} (engine : e < 20) (before : p.engines[e]? = some y)
    (after : (p.windowed slack alert).engines[e]? = some z) :
    z = { y with slack := slack.getD e 0, age := if y.never = true then min 0xFFFF y.age else min 0xFFFF (y.age + 1) } := by
  simp only [Pcr.windowed, List.getElem?_map, List.getElem?_zipIdx, before, Option.map_some, Nat.zero_add, Option.some.injEq] at after
  rw [← after, slack_getD measured engine 0xFFF 0]
  cases y.never <;> rfl

end

/-! ### Stress (R462) -/

/-- A search from the highest of `n` bits down ends below the root that it started below. -/
theorem rootSearch_bounds {m x n a : Nat} (low : a ^ m ≤ x) (high : x < (a + 2 ^ n) ^ m) :
    let r := (List.range n).foldr (fun i a => if (a + 2 ^ i) ^ m ≤ x then a + 2 ^ i else a) a
    r ^ m ≤ x ∧ x < (r + 1) ^ m := by
  induction n generalizing a with
  | zero => exact ⟨low, high⟩
  | succ n ih =>
    simp only [List.range_succ, List.foldr_append, List.foldr_cons, List.foldr_nil]
    by_cases fits : (a + 2 ^ n) ^ m ≤ x
    · simpa only [fits, if_true] using ih fits (by rwa [Nat.add_assoc, ← Nat.two_mul, ← Nat.pow_succ'])
    · simpa only [fits, if_false] using ih low (Nat.lt_of_not_le fits)

theorem root40_bounds {x : Nat} (small : x < (2 ^ 64) ^ 40) : root40 x ^ 40 ≤ x ∧ x < (root40 x + 1) ^ 40 :=
  rootSearch_bounds (Nat.zero_le x) (by rwa [Nat.zero_add])

theorem two_pow_lt {n a b : Nat} (below : n < a * b) : 2 ^ n < (2 ^ a) ^ b := by
  rw [← Nat.pow_mul]
  exact Nat.pow_lt_pow_right (by decide) below

/-- The acceleration of a temperature within reach is the fortieth root, rounded down. -/
theorem accelFix_bounds {q : Int} (cold : -1280 ≤ q - 400) (hot : q ≤ 800) :
    accelFix q ^ 40 ≤ 2 ^ (q - 400 + 1280).toNat ∧ 2 ^ (q - 400 + 1280).toNat < (accelFix q + 1) ^ 40 := by
  have root : accelFix q = root40 (2 ^ (q - 400 + 1280).toNat) := if_neg (by omega)
  rw [root]
  exact root40_bounds (two_pow_lt (by omega))

/-- Stress saturates, or stress and fraction together grow by the acceleration. -/
theorem Pcr.minute_stress (p : Pcr) (tj : Int) :
    (p.minute tj).stress = 2 ^ 32 - 1 ∨
    (p.minute tj).stress * (60 * 2 ^ 32) + (p.minute tj).stressFrac = p.stress * (60 * 2 ^ 32) + p.stressFrac + accelFix tj := by
  dsimp only [Pcr.minute]
  omega

/-! ### Skip levels (R470) -/

theorem Die.nextLevel_near (x : Die) (tj : Int) :
    x.nextLevel tj ≤ x.pcr.skipLevel + 1 ∧ x.pcr.skipLevel ≤ x.nextLevel tj + 1 ∧ (x.pcr.skipLevel ≤ 3 → x.nextLevel tj ≤ 3) := by
  unfold Die.nextLevel
  dsimp only
  split
  · omega
  · split <;> omega

theorem Die.nextLevel_enters {x : Die} {tj : Int} (none_ : x.pcr.skipLevel = 0) (hot : x.skipTj ≤ tj) : x.nextLevel tj = 1 := by
  have enters : x.enterTj 1 ≤ tj := by simpa [Die.enterTj] using hot
  simp [Die.nextLevel, none_, enters]

theorem Die.nextLevel_leaves {x : Die} {tj : Int} (first : x.pcr.skipLevel = 1) (cool : tj < x.skipTj - 20) : x.nextLevel tj = 0 := by
  have below : ¬ x.enterTj 2 ≤ tj := by simp only [Die.enterTj, if_true]; omega
  have leaves : tj < x.leaveTj 1 := by simp only [Die.leaveTj]; omega
  simp [Die.nextLevel, first, below, leaves]

theorem opSkipEvaluate_running {s : State} {d : Nat} (running : (s.die d).state = .running) (tj : BitVec 11) : opSkipEvaluate d tj s =
    let t := s.measure d tj
    if bit (t.reg d PCR 0 0x100) 17 = true ∧ (t.die d).nextLevel tj.toInt ≠ (t.die d).pcr.skipLevel then t.setLevel d ((t.die d).nextLevel tj.toInt) else t :=
  if_pos running

/-- Settles O52: each command of the sensors, and the arithmetic of its effect. -/
theorem pacerAgeing : Obligations.PacerAgeing := by
  unfold Obligations.PacerAgeing
  intro s d
  refine ⟨fun ppm => rfl, fun slack measured => ?window, fun tj running => congrArg ret (if_pos running), fun p tj _ => ⟨p.minute_stress tj, rfl, rfl⟩,
    fun q => accelFix_bounds, fun tj running => ?skip, fun tj => ?level, by decide, ?margin, rfl, rfl, rfl, rfl, rfl⟩
  case window =>
    refine ⟨Pcr.windowed slack _, congrArg ret (opSlackWindow_eq s d slack), fun p => ⟨?order, by simp [Pcr.windowed], fun v among => foldl_min_le_mem among _,
      fun e y z engine => Pcr.windowed_engine measured engine⟩⟩
    case order => rw [← lowSlack_eq measured]; rfl
  case skip =>
    have evaluates := opSkipEvaluate_running running tj
    refine ⟨fun enabled moves => congrArg ret (evaluates.trans (if_pos ⟨enabled, moves⟩)), fun stays => congrArg ret (evaluates.trans (if_neg (fun ⟨enabled, moves⟩ => ?_)))⟩
    rcases stays with h | h
    · exact Bool.false_ne_true (h.symm.trans enabled)
    · exact moves h
  case level =>
    obtain ⟨up, down, within⟩ := (s.die d).nextLevel_near tj
    exact ⟨up, down, within, Die.nextLevel_enters, Die.nextLevel_leaves⟩
  case margin =>
    refine ⟨fun short enough => congrArg ret (if_pos ⟨short, Nat.not_lt.mpr enough⟩), fun calm => congrArg ret (if_neg (fun ⟨short, enough⟩ => ?_))⟩
    rcases calm with h | h
    · omega
    · exact enough h

end Sys2Proof.Machine

/-! PROOF. Answers of the management port. -/

namespace Sys2Proof.Machine

/-! ### Replies (R509) -/

/-- A read is answered and counted while the port is up, and not acknowledged otherwise. -/
theorem State.smbReply_answers (s : State) (bs : List Byte) :
    (s.pkg.pwrgood = true → ret (s.smbReply bs) = .next (settle ((s.send (.smbus bs)).count 0 MGI 0 0x108))) ∧
    (s.pkg.pwrgood = false → ret (s.smbReply bs) = .next (settle (s.send .nack))) :=
  ⟨fun up => congrArg ret (if_pos up), fun down => congrArg ret (if_neg (ne_true_of_eq_false down))⟩

theorem opSmbAlertResponse_releases {s : State} (up : s.pkg.pwrgood = true) (low : s.pkg.alertLow = true) : opSmbAlertResponse s =
    (({ s with pkg := { s.pkg with alertLow := false } } : State).send (.smbus [0x5A])).count 0 MGI 0 0x108 :=
  (if_pos ⟨up, low⟩).trans (if_pos up)

theorem opSmbAlertResponse_silent {s : State} (silent : s.pkg.pwrgood = false ∨ s.pkg.alertLow = false) : opSmbAlertResponse s = s.send .nack := by
  refine if_neg (fun ⟨up, low⟩ => ?_)
  rcases silent with down | high
  · exact Bool.false_ne_true (down.symm.trans up)
  · exact Bool.false_ne_true (high.symm.trans low)

/-! ### The byte of a die in DIE_TEMPS -/

theorem State.tempByte_absent {s : State} {d : Nat} (absent : s.dies.length ≤ d) : s.tempByte d = 0x80 := by
  simp [State.tempByte, List.getElem?_eq_none absent]

section
variable {s : State} {d : Nat} {x : Die} (here : s.dies[d]? = some x)
include here

theorem State.tempByte_unmeasured (unmeasured : x.reachable = false ∨ x.tmn.temp = none) : s.tempByte d = 0x80 := by
  rcases unmeasured with lost | none_
  · simp [State.tempByte, here, lost]
  · simp [State.tempByte, here, none_]

theorem State.tempByte_whole {t : BitVec 11} (reached : x.reachable = true) (measured : x.tmn.temp = some t) (whole : t.toInt % 4 = 0) :
    s.tempByte d = BitVec.ofInt 8 (t.toInt / 4) := by
  simp [State.tempByte, here, reached, measured, whole]

end

/-- Settles O20: each read by its reply, the bytes of DIE_TEMPS die by die. -/
theorem managementPort : Obligations.ManagementPort := by
  unfold Obligations.ManagementPort
  intro s
  refine ⟨s.smbReply_answers _, s.smbReply_answers _, s.smbReply_answers _, ⟨(List.range 8).map s.tempByte, s.smbReply_answers _, by simp, fun d inside => ?temps⟩,
    s.smbReply_answers _, s.smbReply_answers _, s.smbReply_answers _, fun up low => congrArg ret (opSmbAlertResponse_releases up low),
    fun silent => congrArg ret (opSmbAlertResponse_silent silent), fun up => ⟨congrArg ret (if_pos ⟨up, rfl⟩), congrArg ret (if_pos up)⟩,
    congrArg ret (if_neg (fun bad => Bool.false_ne_true bad.2))⟩
  case temps =>
    exact ⟨s.tempByte d, by simp [inside], State.tempByte_absent,
      fun x here => ⟨State.tempByte_unmeasured here, fun t reached measured whole => State.tempByte_whole here reached measured whole⟩⟩

end Sys2Proof.Machine

/-! PROOF. The instructions of the test access port. -/

namespace Sys2Proof.Machine

/-! ### Loading an instruction (R496) -/

theorem State.loadTap_fuses (s : State) (d e : Nat) (ir : TapIr) : ((s.loadTap d ir).die e).fuses = (s.die e).fuses := by
  rw [State.loadTap, State.modDie_die]
  split
  · next here => rw [here.1]
  · rfl

theorem State.loadTap_lc (s : State) (d : Nat) (ir : TapIr) : (s.loadTap d ir).lc = s.lc := by
  rw [State.lc, State.loadTap_fuses]
  rfl

/-! ### Boundary instructions (R496) -/

/-- A package that is BLANK or TESTED holds nothing. -/
theorem State.boundaryHold_open {s : State} (open_ : s.lc = 0 ∨ s.lc = 1) (d : Nat) (ir : TapIr) : (s.loadTap d ir).boundaryHold = s.loadTap d ir :=
  if_pos (by rwa [State.loadTap_lc])

/-- From PERSONALISED on, every key bus is gated and the link held down. -/
theorem State.boundaryHold_closed {s : State} (used : s.lc ≠ 0) (tested : s.lc ≠ 1) (d : Nat) (ir : TapIr) : (s.loadTap d ir).boundaryHold =
    { (s.loadTap d ir).allDies (fun x => { x with tmn := { x.tmn with gated := true } }) with
      pkg := { s.pkg with boundary := true }, hif := { s.hif with link := .detect } } :=
  if_neg (by rw [State.loadTap_lc]; exact not_or.mpr ⟨used, tested⟩)

/-! ### Internal instructions (R496, R497) -/

section
variable {s : State} {d : Nat} {op : Byte} (least : 0x80 ≤ op.toNat) (most : op.toNat ≤ 0xFE)
include least most

theorem opTapInternal_loads : opTapInternal d op none s = s.loadTap d op := if_neg (by omega)

theorem opTapInternal_burn (i : FuseImage) : opTapInternal d op (some i) s =
    if (s.die d).fuses.lc = lcWord 0 then (s.loadTap d op).modDie d (fun x => { x with fuses := x.fuses.test i }) else s.loadTap d op := by
  rw [← s.loadTap_fuses d d op]
  exact if_neg (by omega)

end

/-- Settles O18: what each instruction loads, and what the life cycle lets it do. -/
theorem testAccess : Obligations.TestAccess := by
  unfold Obligations.TestAccess
  intro s d
  refine ⟨rfl, rfl, rfl, fun open_ => ?blank, fun used tested => ?held, fun op i least most _ => ?internal, fun free => ?leaves, fun boundary => ?ends⟩
  case blank =>
    have keeps := fun ir => congrArg ret (State.boundaryHold_open open_ d ir)
    exact ⟨keeps _, keeps _, keeps _⟩
  case held =>
    have holds := fun ir => congrArg ret (State.boundaryHold_closed used tested d ir)
    exact ⟨holds _, holds _, holds _⟩
  case internal =>
    have burns := opTapInternal_burn (s := s) (d := d) least most i
    exact ⟨congrArg ret (opTapInternal_loads least most), fun blank => congrArg ret (burns.trans (if_pos blank)), fun used => congrArg ret (burns.trans (if_neg used))⟩
  case leaves => exact congrArg ret (if_neg (ne_true_of_eq_false free))
  case ends => exact congrArg ret (if_pos boundary)

end Sys2Proof.Machine

/-! PROOF. The burning of life-cycle bits, and the step that it reports. -/

namespace Sys2Proof.Machine

/-! ### A bit (R482) -/

theorem State.foldl_modDie_range (s : State) (g : Nat → Die → Die) (n : Nat) :
    (List.range n).foldl (fun t d => t.modDie d (g d)) s = { s with dies := s.dies.mapIdx (fun e x => if e < n then g e x else x) } := by
  induction n with
  | zero => exact congrArg (fun l => ({ s with dies := l } : State)) (List.ext_getElem? (fun e => by simp))
  | succ n ih =>
    rw [List.range_succ, List.foldl_append, ih]
    refine congrArg (fun l => ({ s with dies := l } : State)) (List.ext_getElem? (fun e => ?_))
    rw [List.getElem?_modify, List.getElem?_mapIdx, List.getElem?_mapIdx]
    cases s.dies[e]? with
    | none => rfl
    | some x =>
      rcases Nat.lt_trichotomy e n with below | rfl | above
      · simp [below, Nat.ne_of_gt below, Nat.lt_succ_of_lt below]
      · simp
      · simp [Nat.not_lt_of_gt above, Nat.ne_of_lt above, show ¬ e < n + 1 by omega]

/-- Every reachable die but the one that fails burns the bit. -/
theorem State.burnBit_eq (s : State) (p : Nat) (but : Option Nat) : s.burnBit p but = { s with dies := s.dies.mapIdx (fun e (x : Die) =>
    if x.reachable ∧ but ≠ some e then { x with fuses := { x.fuses with lc := x.fuses.lc ||| BitVec.ofNat 64 (2 ^ p) } } else x) } := by
  unfold State.burnBit State.dieList
  rw [State.foldl_modDie_range]
  refine congrArg (fun l => ({ s with dies := l } : State)) (List.ext_getElem (by simp) (fun e here _ => ?_))
  rw [List.length_mapIdx] at here
  simp only [List.getElem_mapIdx, here, if_true]

/-- The step that a burned bit reports (R113): the next bit's step begins, or the last one has ended. -/
def State.reportBit (s : State) (t : Transition) (rest : List Nat) : State :=
  if rest.isEmpty then s.progress 0 LCC 0 t.total 1000
  else match t.job with
    | some p => s.pageStep p.1 p.2 LCC 0 (t.done + 2) t.total
    | none => s.progress 0 LCC 0 (t.done + 2) (min 990 (1000 * (t.done + 1) / max 1 t.total))

/-- A transition after one more bit. -/
def Transition.burned (t : Transition) (rest : List Nat) : Transition := { t with left := rest, done := t.done + 1 }

/-- The package after a bit is burned with `n` repeats, counted and reported. -/
def State.bitBurned (s : State) (t : Transition) (p : Nat) (rest : List Nat) (n : Nat) : State :=
  let u := (s.burnBit p none).count 0 LCC 0 0x11C n
  ({ u with lcc := { u.lcc with xfer := some (t.burned rest) } } : State).reportBit t rest

/-- What waits for the end of a bit then happens (R483); else the last bit completes the transition. -/
def State.afterBit (s : State) (t : Transition) : State :=
  match s.lcc.deferred with
  | some cause => s.warmReset cause
  | none =>
    match s.lcc.stop with
    | some st => s.stopTransition t st 3 2
    | none => if t.left.isEmpty then s.lastBit t else s

theorem State.afterBit_free {s : State} (kept : s.lcc.deferred = none) (runs : s.lcc.stop = none) (t : Transition) :
    s.afterBit t = if t.left.isEmpty then s.lastBit t else s := by
  simp only [State.afterBit, kept, runs]

theorem State.jobStep_sansWork (s : State) (d j n m : Nat) : (s.jobStep d j n m).sansWork = s.sansWork := by
  unfold State.jobStep State.jobAt
  split
  · rfl
  · simp only [apply_ite State.sansWork, State.queueEvent_sansWork, State.modJob_sansWork, ite_self]

theorem State.pageStep_lcc (s : State) (d j blk e n m : Nat) : (s.pageStep d j blk e n m).lcc = s.lcc :=
  (congrArg State.lcc (s.jobStep_sansWork d j n m) :)

theorem State.reportBit_lcc (s : State) (t : Transition) (rest : List Nat) : (s.reportBit t rest).lcc = s.lcc := by
  unfold State.reportBit
  split
  · rfl
  · split
    · exact State.pageStep_lcc ..
    · rfl

section
variable {s : State} {t : Transition} {p : Nat} {rest : List Nat} (here : s.lcc.xfer = some t) (left : t.left = p :: rest) (burning : t.phase = 2)
include here left burning

theorem opLcBitBurned_eq (n : Nat) : opLcBitBurned n s = (s.bitBurned t p rest n).afterBit (t.burned rest) := by
  simp only [opLcBitBurned, here, left]
  exact if_neg (not_not_intro burning)

/-- Where no reset and no stop waits for the end of the bit, the next bit is burned next, or the transition completes. -/
theorem opLcBitBurned_burns (kept : s.lcc.deferred = none) (runs : s.lcc.stop = none) (n : Nat) : opLcBitBurned n s =
    if rest.isEmpty then (s.bitBurned t p rest n).lastBit (t.burned rest) else s.bitBurned t p rest n := by
  have lcc : (s.bitBurned t p rest n).lcc = { s.lcc with xfer := some (t.burned rest) } :=
    (State.reportBit_lcc ..).trans (by rw [State.burnBit_eq]; rfl)
  rw [opLcBitBurned_eq here left burning]
  exact State.afterBit_free (by rw [lcc]; exact kept) (by rw [lcc]; exact runs) _

theorem opBurnFail_abandons (d : Nat) : opBurnFail d s = ({ ((s.burnBit p (some d)).count d LCC 0 0x11C 3).event d LCC 0 1 with
    lcc := { s.lcc with xfer := none, result := 2, stop := none } } : State).endTransitionJob t stMachineCheck := by
  have lcc : (s.burnBit p (some d)).lcc = s.lcc := by rw [State.burnBit_eq]
  simp [opBurnFail, here, left, burning, lcc]

end

theorem opLcResetTimer_resets {s : State} {t : Transition} (here : s.lcc.xfer = some t) (complete : t.phase = 3) : opLcResetTimer s = s.warmReset 6 :=
  if_pos (by simp [lcResetDue, here, complete])

/-- What `Obligations.LifeCycleBurning` states holds with the step that R113 has each bit report, which `State.reportBit` gives. -/
theorem lifeCycleBurning_of_reports (s : State) (t : Transition) (p : Nat) (rest : List Nat) (here : s.lcc.xfer = some t) (left : t.left = p :: rest) (burning : t.phase = 2) :
    let burned := fun (but : Option Nat) => { s with dies := s.dies.mapIdx (fun e (x : Die) =>
      if x.reachable ∧ but ≠ some e then { x with fuses := { x.fuses with lc := x.fuses.lc ||| BitVec.ofNat 64 (2 ^ p) } } else x) }
    let shown := fun n => ({ (burned none).count 0 LCC 0 0x11C n with lcc := { s.lcc with xfer := some (t.burned rest) } } : State).reportBit t rest
    (s.lcc.deferred = none → s.lcc.stop = none → ∀ n,
      exec (.lcBitBurned n) s = .next (settle (if rest.isEmpty then (shown n).lastBit (t.burned rest) else shown n))) ∧
    (∀ d, exec (.burnFail d) s = .next (settle (({ ((burned (some d)).count d LCC 0 0x11C 3).event d LCC 0 1 with
      lcc := { s.lcc with xfer := none, result := 2, stop := none } } : State).endTransitionJob t stMachineCheck))) ∧
    let complete : State := { s with lcc := { s.lcc with xfer := some { t with phase := 3 } } }
    exec .lcResetTimer complete = .next (settle (complete.warmReset 6)) := by
  refine ⟨fun kept runs n => congrArg ret ?burns, fun d => congrArg ret ?fails, congrArg ret (opLcResetTimer_resets rfl rfl)⟩
  case burns =>
    rw [opLcBitBurned_burns here left burning kept runs, State.bitBurned, State.burnBit_eq]
    rfl
  case fails =>
    rw [opBurnFail_abandons here left burning, State.burnBit_eq]

/-! ### The step that PROGRESS shows -/

/-- The holder burns the last two bits of the step from TESTED to PERSONALISED, for a job that a link reset has ended (R43). -/
def burningBits : State := { State.reset with lcc := { Lcc.reset with xfer := some ⟨2, 2, [49, 55], 8, 10, none, false, []⟩ } }

/-- PROGRESS of the LCC page of die 0. -/
def State.lccProgress (s : State) : W32 := s.reg 0 LCC 0 0x028

/-- With nine bits burned, the tenth step has begun. -/
theorem burningBits_reported : (settle (opLcBitBurned 0 burningBits)).lccProgress = BitVec.ofNat 32 (10 * 0x10000 + 900) := by decide +kernel

/-- Refutes O17: after a bit it has PROGRESS show the number of bits burned as POSITION, where step n shows n from its start (R113), so that the model shows the step of the next bit.
With that step in its place all of it holds (`lifeCycleBurning_of_reports`). -/
theorem not_lifeCycleBurning : ¬ Obligations.LifeCycleBurning := by
  unfold Obligations.LifeCycleBurning
  intro h
  obtain ⟨burns, -⟩ := h burningBits ⟨2, 2, [49, 55], 8, 10, none, false, []⟩ 49 [55] rfl rfl rfl
  have stated := congrArg State.lccProgress (Host.Outcome.next.inj (burns rfl rfl (by decide) 0))
  exact absurd (burningBits_reported.symm.trans stated) (by decide +kernel)

end Sys2Proof.Machine

/-! PROOF. The step: that every command completes, and the idle step that a ticket's expiry makes more than a tick. -/

namespace Sys2Proof.Machine

/-! ### Instructions of the LVE complete (R198, R212) -/

/-- An instruction that the public state admits has its effect. -/
theorem LveOp.effect_isSome {l : Lve} {o : LveOp} {f : LveFields} (s : State) (r : LveRef) (straight : o ≠ .lend ∧ o ≠ .loop ∧ o ≠ .loopi) (ready : l.ready o f = true) :
    (o.effect s r f l).isSome = true := by
  obtain ⟨noEnd, noLoop, noLoopi⟩ := straight
  cases o
  case lend => exact absurd rfl noEnd
  case loop => exact absurd rfl noLoop
  case loopi => exact absurd rfl noLoopi
  case vsettype | madd | msub | mneg | mred | mmont | mbar | tomont | p2r | decomp | vbfly | vbmul | splita | joina | aadd | asub | a2b | b2a =>
    exact congrArg Option.isSome (if_pos ready)
  case zip | unzip | brev | vpack | vunpack | kload | hblk => exact congrArg Option.isSome (if_pos (of_decide_eq_true ready))
  case cmpr | dcmpr =>
    obtain ⟨modulus, known⟩ := (Bool.and_eq_true _ _).mp ready
    exact congrArg Option.isSome ((if_pos (of_decide_eq_true modulus)).trans (if_pos known))
  case amont =>
    obtain ⟨known, type⟩ := (Bool.and_eq_true _ _).mp ready
    exact congrArg Option.isSome ((if_pos known).trans (if_pos type))
  case setout =>
    simp only [LveOp.effect, lveSetout]
    split
    · rfl
    · split <;> rfl
  case vaccept =>
    simp only [LveOp.effect, lveVaccept]
    split <;> rfl
  case vcbd =>
    refine (congrArg Option.isSome (if_pos ready)).trans ?_
    split <;> rfl
  case band =>
    simp only [LveOp.effect, lveBand]
    split <;> rfl
  case ksave =>
    simp only [LveOp.effect, lveKsave]
    split <;> rfl
  case kabs =>
    obtain ⟨absorbs, group⟩ := by simpa [Lve.ready] using ready
    simp only [LveOp.effect, lveKabs, absorbs, Nat.not_le.mpr group, decide_false, Bool.or_self, Bool.false_eq_true, if_false]
    split <;> rfl
  case kabsm =>
    have absorbs : l.hash.ksqueeze = false := by simpa [Lve.ready] using ready
    simp only [LveOp.effect, lveKabsm, absorbs, Bool.false_eq_true, if_false]
    split <;> rfl
  case kfin =>
    have absorbs : l.hash.ksqueeze = false := by simpa [Lve.ready] using ready
    exact congrArg Option.isSome (if_neg (ne_true_of_eq_false absorbs))
  case vxof =>
    obtain ⟨squeezes, group⟩ := by simpa [Lve.ready] using ready
    simp [LveOp.effect, lveVxof, squeezes, Nat.not_le.mpr group]
  case vrej =>
    simp only [Lve.ready, Lve.vrejOk, Bool.and_eq_true] at ready
    obtain ⟨⟨squeezes, known⟩, form⟩ := ready
    have runs : ¬ (!l.hash.ksqueeze || !l.modOk) = true := by simp [squeezes, known]
    cases pub : l.hash.kpublic with
    | true =>
      rw [pub] at form
      exact congrArg Option.isSome ((if_neg runs).trans ((if_pos pub).trans (if_pos (of_decide_eq_true form))))
    | false =>
      rw [pub] at form
      obtain ⟨plain, room⟩ := (Bool.and_eq_true _ _).mp form
      exact congrArg Option.isSome ((if_neg runs).trans ((if_neg (ne_true_of_eq_false pub)).trans (if_pos ⟨of_decide_eq_true plain, of_decide_eq_true room⟩)))
  all_goals rfl

/-- A loop that runs is entered. -/
theorem LveRuns.entersLoop {s : State} {o : LveOp} {r : LveRef} {f : LveFields} {u : LveUnit} (runs : LveRuns s o r f u) (len count : Lve → Nat) :
    ∃ t, lveLoopExec o r f s len count = .next t := by
  simp only [lveLoopExec, runs.unit, runs.valid, runs.next, runs.unstruck, Bool.not_true, Bool.false_eq_true, if_false]
  exact ⟨_, State.lveFinish_calm runs.calm _⟩

theorem execLoop_completes {s : State} {r : LveRef} {f : LveFields} {u : LveUnit} (runs : LveRuns s .loop r f u) : ∃ t, execLoop r f s = .next t := runs.entersLoop ..

theorem execLoopi_completes {s : State} {r : LveRef} {f : LveFields} {u : LveUnit} (runs : LveRuns s .loopi r f u) : ∃ t, execLoopi r f s = .next t := runs.entersLoop ..

/-- END completes wherever its word is valid. -/
theorem execLend_completes {s : State} {r : LveRef} {f : LveFields} {u : LveUnit} (runs : LveRuns s .lend r f u) : ∃ t, execLend r f s = .next t := by
  simp only [execLend, runs.unit, runs.valid, runs.unstruck, State.lveIdle_calm runs.calm, Bool.not_true, Bool.false_eq_true, if_false]
  split
  · exact ⟨_, rfl⟩
  · exact ⟨_, rfl⟩

theorem LveNormal.completes {s : State} {o : LveOp} {r : LveRef} {f : LveFields} (normal : LveNormal s o r f) : Completes (o.instr r f) s := by
  obtain ⟨u, runs, ready⟩ := normal
  by_cases ends : o = .lend
  · subst ends
    exact execLend_completes runs
  by_cases loops : o = .loop
  · subst loops
    exact execLoop_completes runs
  by_cases loopsImm : o = .loopi
  · subst loopsImm
    exact execLoopi_completes runs
  obtain ⟨l, effect⟩ := Option.isSome_iff_exists.mp (LveOp.effect_isSome s r ⟨ends, loops, loopsImm⟩ ready)
  rw [Completes, exec_instr s o r f ends loops loopsImm]
  exact ⟨_, runs.exec effect⟩

/-! ### Every command completes -/

/-- The part of `Obligations.StepRunsFront` about commands: under its normal conditions each answers a next state. -/
theorem completes_of_runsNormally {s : State} {c : Instr} (normal : RunsNormally s c) : Completes c s := by
  cases c with
  | vjoin x =>
    cases x with
    | vmsk r f => exact LveNormal.completes (o := .vjoin) normal
    | frame m => exact ⟨_, rfl⟩
  | nop r f | lend r f | loop r f | loopi r f | setvl r f | vsettype r f | vsetmod r f | setout r f | vaccept r f | sli r f | salu r f | salui r f | sjr r f | vldu r f
  | vstu r f | vldp r f | vstp r f | vldf r f | vstf r f | vgather r f | vscatter r f | vkld r f | valu r f | vcmp r f | malu r f | vmerge r f | madd r f | msub r f
  | mneg r f | mred r f | mmont r f | mbar r f | tomont r f | cmpr r f | dcmpr r f | p2r r f | decomp r f | vbfly r f | vbmul r f | zip r f | unzip r f | brev r f
  | slideup r f | slidedn r f | bmt r f | vcompress r f | vpack r f | vunpack r f | vcbd r f | vrej r f | split r f | splita r f | joina r f | bxor r f | band r f
  | bnot r f | aadd r f | asub r f | amont r f | a2b r f | b2a r f | refresh r f | kinit r f | kabs r f | kabsm r f | kfin r f | vxof r f | ksave r f | kload r f
  | hinit r f | hblk r f | hblkm r f | hout r f | hload r f => exact LveNormal.completes normal
  | _ => exact ⟨_, rfl⟩

/-- The same with the command at the front of the queue. -/
theorem step_of_runsNormally {s t : State} {c : Instr} (normal : RunsNormally s c) (rest : { t with pending := t.pending.tail } = s) (front : t.pending.head? = some c) :
    ∃ u, step t = .next u := by
  subst rest
  obtain ⟨later, queue⟩ := List.head?_eq_some_iff.mp front
  obtain ⟨u, completes⟩ := completes_of_runsNormally normal
  rw [queue] at completes
  refine ⟨u, ?_⟩
  rw [step, queue]
  exact completes

/-! ### The idle step (R426, R483) -/

/-- A job of LC_TRANSITION with an owner ticket that is valid until the time 0. -/
def ticketJob : Job :=
  { legJob with sqe := { legJob.sqe with opcode := 0xF020, param := 4 }
                engine := .none
                data := { JobData.empty with ticket := List.replicate 4659 0 } }

/-- Its transition, before the first bit is burned. -/
def expiringTicket : State :=
  { State.reset.modDie 0 (fun x => { x with jobs := [(1, ticketJob)] }) with lcc := { Lcc.reset with xfer := some ⟨2, 4, [3, 9], 0, 2, some (0, 1), false, []⟩ } }

/-- The tick after which the ticket is out of date ends the transition. -/
theorem expiringTicket_idle : expiringTicket.idle.lcc.xfer = none := by decide +kernel

/-- Refutes O58: of an empty queue it states the tick of the clock alone, also where that tick lets the owner ticket of a running transition expire before its first bit, which ends
the transition and its job (R483). Its part about commands holds (`completes_of_runsNormally`, `step_of_runsNormally`). -/
theorem not_stepRunsFront : ¬ Obligations.StepRunsFront := by
  unfold Obligations.StepRunsFront
  rintro ⟨-, front⟩
  obtain ⟨-, idle, -⟩ := front expiringTicket .ioRequest []
  have stated := congrArg (fun t : State => t.lcc.xfer) (Host.Outcome.next.inj (idle rfl))
  exact Option.some_ne_none _ (stated.symm.trans expiringTicket_idle)

end Sys2Proof.Machine
